-- ==== Sys2Proof/Word.lean ====
section
/-! DEFINITION. The word types of the machine and the plainest arithmetic on them. -/

namespace Sys2Proof

/-- A scalar register, R59. -/
abbrev Word := BitVec 64

/-- The unit of memory and of the scratchpad. -/
abbrev Byte := BitVec 8

/-- A vector register: its 1,024-byte image, lane i in bits [32i+31:32i] (R59, R364). -/
abbrev VReg := BitVec 8192

/-- A predicate register: 256 lanes of one bit, lane i in bit i. -/
abbrev PReg := BitVec 256

/-- A tensor descriptor: 64 bytes, byte 0 least significant (R144). -/
abbrev Desc := BitVec 512

/-- The greatest virtual address plus one. -/
abbrev vaLimit : Nat := 2 ^ 48

end Sys2Proof
end

