-- ==== Sys2Proof/Config.lean ====
section
/-! DEFINITION. What one part fixes, and the values the manual leaves open: constants with no body, which nothing in Lean can evaluate. -/

namespace Sys2Proof.Config

/-- A value the manual does not state, fresh at each count of the state's counter (log entry 1). -/
opaque freeWord : Nat → BitVec 64

/-- Whether a load misses a store that it may miss, or a store takes its place in the coherence order before another: at a count of the state's counter, for an address and a place in the list of such stores (R119, R127, R132, R133; log entry 9). -/
opaque misses : Nat → Nat → Nat → Bool

/-- A byte the manual does not state, fresh at each count of the state's counter (log entry 1). -/
opaque freeByte : Nat → BitVec 8

/-- The raw storage address, in chunks of 512 bytes, of the chunk the pool gives at each count (R423, R431; log entry 1). -/
opaque freeChunk : Nat → BitVec 27

/-- Ed25519 verification of a signature over a message under the fused key (R520; log entry 2). -/
opaque ed25519Verify : List (BitVec 8) → List (BitVec 8) → Bool

/-- ML-DSA-65 verification of a signature over a message under the fused key (R520; log entry 2). -/
opaque mldsaVerify : List (BitVec 8) → List (BitVec 8) → Bool

/-- The Ed25519 signature of the device's attestation key over a message, 64 bytes taken (R512, R522; log entry 2). -/
opaque ed25519Sign : List (BitVec 8) → Nat → BitVec 8

/-- The ML-DSA-65 signature of the device's attestation key over a message, 3,309 bytes taken (R512, R522; log entry 2). -/
opaque mldsaSign : List (BitVec 8) → Nat → BitVec 8

/-- The module serial number of the attestation report (R512; log entry 2). -/
opaque serialNumber : BitVec 128

/-- The header and the body of the image that processor k holds when the part leaves the factory (R518, R519; log entry 2). -/
opaque factoryHead : Nat → List (BitVec 8)
opaque factoryBody : Nat → List (BitVec 8)

/-- The rounded result of a transcendental function where the model's interval evaluation does not decide the rounding within its precision:
the function's number, its argument and the format bits (R375, R392; log entry 4). -/
opaque transcendental : Nat → BitVec 64 → BitVec 64

/-- Where in a run of 64 cycles a partial gating begins, for a gating and the number of the run (R531; log entry 10). -/
opaque gateStart : Nat → Nat → Nat

/-- The set of a Well that a line falls in, and the ways of a set (R435; log entry 25). -/
opaque wellSet : Nat → Nat
opaque wellWays : Nat

end Sys2Proof.Config
end

