-- ==== Sys2Proof/Syntax.lean ====
section
/-! DEFINITION. The instructions of the FK960 and the steps of the agents around its cores, one constructor per row of the opcode table. -/

namespace Sys2Proof

/-- The stored form of an instruction (R47): it fixes the length by which the instruction pointer advances (R52). -/
inductive Form where
  | c | m | l
  deriving DecidableEq, Repr

/-- The length of a form in bytes (R47). -/
def Form.bytes : Form → Nat
  | .c => 4
  | .m => 8
  | .l => 12

/-- The fields of the canonical word beside the opcode (R48), and the form the word is stored in.
Every instruction of the manual is described against this word; register fields are numbers of the class the instruction names. -/
structure Ops where
  form : Form
  d : BitVec 6
  a : BitVec 6
  b : BitVec 6
  c : BitVec 6
  q : BitVec 4
  g : BitVec 4
  m : BitVec 6
  imm : BitVec 48
  deriving DecidableEq, Repr

/-- The five contexts of a core: four user contexts and the K context (R11). -/
inductive CtxId where
  | u0 | u1 | u2 | u3 | k
  deriving DecidableEq, Repr

/-- One symbol that travels over a circuit (R168): a beat with its blocks' scale bytes, a mark with its code (R223), or the peer's refusal of window traffic (R515). -/
inductive CircuitSymbol where
  | beat (bytes scales : List Byte)
  | mark (code : BitVec 4)
  | refused
  deriving DecidableEq, Repr

/-- What a row of the opcode map fixes of the canonical word beside its opcode. -/
inductive Sub where
  | any
  | q (n : Nat)
  | m (n : Nat)
  | qFrom (n : Nat)
  deriving DecidableEq, Repr

/-- An instruction of the map with its canonical fields, or a step of the hardware or of another agent with what that agent supplies. -/
inductive Instr where
  -- Action unit
  /-- NOP (R254). Does nothing but still counts one instruction against the routine's budget. -/
  | nop (o : Ops)
  /-- MOV (R254). Copies scalar register A to scalar register D. -/
  | mov (o : Ops)
  /-- MOVI (R254). Writes the sign-extended immediate to scalar register D. -/
  | movi (o : Ops)
  /-- MOVI_HI (R254). Writes a 32-bit unsigned immediate into bits 63 to 32 of D and leaves the low half unchanged. -/
  | moviHi (o : Ops)
  /-- ADD (R255). Adds two scalars modulo 2^64. -/
  | add (o : Ops)
  /-- SUB (R255). Subtracts two scalars modulo 2^64. -/
  | sub (o : Ops)
  /-- ADDI (R255). Adds a sign-extended immediate to a scalar modulo 2^64. -/
  | addi (o : Ops)
  /-- MUL (R255). Writes the low 64 bits of the signed product of two scalars. -/
  | mul (o : Ops)
  /-- MULH (R255). Writes the high 64 bits of the signed product of two scalars. -/
  | mulh (o : Ops)
  /-- MULHU (R255). Writes the high 64 bits of the unsigned product of two scalars. -/
  | mulhu (o : Ops)
  /-- DIV (R255). Divides signed scalars toward zero, trapping DIVIDE_ZERO on a zero divisor. -/
  | div (o : Ops)
  /-- DIVU (R255). Divides unsigned scalars, trapping DIVIDE_ZERO on a zero divisor. -/
  | divu (o : Ops)
  /-- REM (R255). Writes the signed remainder, with the sign of the dividend, trapping on a zero divisor. -/
  | rem (o : Ops)
  /-- REMU (R255). Writes the unsigned remainder, trapping on a zero divisor. -/
  | remu (o : Ops)
  /-- AND (R255). Bitwise AND of two scalars. -/
  | and (o : Ops)
  /-- OR (R255). Bitwise OR of two scalars. -/
  | or (o : Ops)
  /-- XOR (R255). Bitwise XOR of two scalars. -/
  | xor (o : Ops)
  /-- ANDI (R255). Bitwise AND of a scalar with a sign-extended immediate. -/
  | andi (o : Ops)
  /-- ORI (R255). Bitwise OR of a scalar with a sign-extended immediate. -/
  | ori (o : Ops)
  /-- XORI (R255). Bitwise XOR of a scalar with a sign-extended immediate. -/
  | xori (o : Ops)
  /-- SHL (R256). Shifts a scalar left by the low six bits of S[B]. -/
  | shl (o : Ops)
  /-- SHR (R256). Shifts a scalar right logically by the low six bits of S[B]. -/
  | shr (o : Ops)
  /-- SRA (R256). Shifts a scalar right arithmetically by the low six bits of S[B]. -/
  | sra (o : Ops)
  /-- SHLI (R256). Shifts a scalar left by an immediate amount. -/
  | shli (o : Ops)
  /-- SHRI (R256). Shifts a scalar right logically by an immediate amount. -/
  | shri (o : Ops)
  /-- SRAI (R256). Shifts a scalar right arithmetically by an immediate amount. -/
  | srai (o : Ops)
  /-- ROL (R256). Rotates a scalar left by S[B] plus the immediate, modulo 64. -/
  | rol (o : Ops)
  /-- SLT (R257). Writes 1 when S[A] is less than S[B] as signed values, else 0. -/
  | slt (o : Ops)
  /-- SLTU (R257). Writes 1 when S[A] is less than S[B] as unsigned values, else 0. -/
  | sltu (o : Ops)
  /-- SLTI (R257). Writes 1 when S[A] is less than the signed immediate, else 0. -/
  | slti (o : Ops)
  /-- MIN (R257). Writes the signed minimum of two scalars. -/
  | min (o : Ops)
  /-- MAX (R257). Writes the signed maximum of two scalars. -/
  | max (o : Ops)
  /-- MINU (R257). Writes the unsigned minimum of two scalars. -/
  | minu (o : Ops)
  /-- MAXU (R257). Writes the unsigned maximum of two scalars. -/
  | maxu (o : Ops)
  /-- CLZ (R258). Counts the leading zeros of a scalar. -/
  | clz (o : Ops)
  /-- CTZ (R258). Counts the trailing zeros of a scalar. -/
  | ctz (o : Ops)
  /-- POPC (R258). Counts the ones of a scalar. -/
  | popc (o : Ops)
  /-- BSWAP (R258). Reverses the low 8, 4 or 2 bytes of a scalar and zero-extends them. -/
  | bswap (o : Ops)
  /-- EXT (R259). Extracts a bit field of a scalar, zero- or sign-extended. -/
  | ext (o : Ops)
  /-- INS (R259). Inserts the low bits of S[A] into a bit field of S[D]. -/
  | ins (o : Ops)
  /-- SEXT (R258). Narrows a scalar to the width of Q and extends it as that width's load extension gives. -/
  | sext (o : Ops)
  /-- LEA (R260). Forms S[A] plus scaled S[B] plus the immediate without any access. -/
  | lea (o : Ops)
  /-- CMPP (R261). Compares two scalars under a condition and sets all lanes of a predicate to the result. -/
  | cmpp (o : Ops)
  /-- BEQ (R265). Branches pc-relative when two scalars are equal. -/
  | beq (o : Ops)
  /-- BNE (R265). Branches pc-relative when two scalars differ. -/
  | bne (o : Ops)
  /-- BLT (R265). Branches pc-relative when S[A] is less than S[B], signed. -/
  | blt (o : Ops)
  /-- BGE (R265). Branches pc-relative when S[A] is at least S[B], signed. -/
  | bge (o : Ops)
  /-- BLTU (R265). Branches pc-relative when S[A] is less than S[B], unsigned. -/
  | bltu (o : Ops)
  /-- BGEU (R265). Branches pc-relative when S[A] is at least S[B], unsigned. -/
  | bgeu (o : Ops)
  /-- JMP (R265). Jumps pc-relative. -/
  | jmp (o : Ops)
  /-- JR (R265). Jumps to S[A] plus the immediate. -/
  | jr (o : Ops)
  /-- CALL (R265). Writes the return address to S[D] and jumps pc-relative. -/
  | call (o : Ops)
  /-- RET (R265). Jumps to the address held in S[A]. -/
  | ret (o : Ops)
  /-- SEL (R262). Selects S[A] or S[B] by lane 0 of predicate C. -/
  | sel (o : Ops)
  /-- PLOG (R263). Combines two predicates lane by lane under a logical operation. -/
  | plog (o : Ops)
  /-- PMOV (R264). Copies a whole predicate. -/
  | pmov (o : Ops)
  /-- PMOV_FROM (R264). Writes a scalar into one 64-lane quarter of a predicate. -/
  | pmovFrom (o : Ops)
  /-- PMOV_TO (R264). Reads one 64-lane quarter of a predicate into a scalar. -/
  | pmovTo (o : Ops)
  /-- MFC (R268). Reads a control register into a scalar, refusing K-only registers at U-level. -/
  | mfc (o : Ops)
  /-- MTC (R268). Writes a scalar to a control register, subject to its access. -/
  | mtc (o : Ops)
  /-- BUDGET (R270). Writes the instructions left in the running routine's budget. -/
  | budget (o : Ops)
  /-- BUDGET_SET (R270). Sets the context's BUDGET COUNT for routines that start later. -/
  | budgetSet (o : Ops)
  /-- AEND (R272). Ends the action routine in progress so the next slot is a parse step. -/
  | aend (o : Ops)
  /-- FADD (R273). Adds two FP32 scalars with one rounding. -/
  | fadd (o : Ops)
  /-- FMUL (R273). Multiplies two FP32 scalars with one rounding. -/
  | fmul (o : Ops)
  /-- FDIV (R273). Divides two FP32 scalars with one rounding. -/
  | fdiv (o : Ops)
  /-- FCVT_F2I (R274). Converts FP32 to INT32, sign-extended. -/
  | fcvtF2i (o : Ops)
  /-- FCVT_I2F (R274). Converts a signed scalar to FP32. -/
  | fcvtI2f (o : Ops)
  /-- FCVT_U2F (R274). Converts an unsigned scalar to FP32. -/
  | fcvtU2f (o : Ops)
  /-- FCVT_F2BF (R274). Converts FP32 to BF16. -/
  | fcvtF2bf (o : Ops)
  /-- FCVT_BF2F (R274). Converts BF16 to FP32 exactly. -/
  | fcvtBf2f (o : Ops)
  /-- FCVT_F2H (R274). Converts FP32 to FP16. -/
  | fcvtF2h (o : Ops)
  /-- FCVT_H2F (R274). Converts FP16 to FP32 exactly. -/
  | fcvtH2f (o : Ops)
  /-- FCVT_F2E4 (R274). Converts FP32 to FP8-E4M3. -/
  | fcvtF2e4 (o : Ops)
  /-- FCVT_E42F (R274). Converts FP8-E4M3 to FP32 exactly. -/
  | fcvtE42f (o : Ops)
  /-- FCMP (R275). Compares two FP32 scalars and sets all lanes of a predicate. -/
  | fcmp (o : Ops)
  -- Grammar, signals and Ligature
  /-- GPEEK (R281). Reads the code of the n-th unconsumed symbol of a target context, blocking unless .NB. -/
  | gpeek (o : Ops)
  /-- GSKIP (R282). Consumes up to c grammar-visible symbols of a target and discards their beats. -/
  | gskip (o : Ops)
  /-- GPUSH (R283). Pushes a symbol or frame entry onto a target's parse stack. -/
  | gpush (o : Ops)
  /-- GPOP (R284). Pops up to n entries of a target's parse stack. -/
  | gpop (o : Ops)
  /-- GFSTAT (R286). Reads a word of a target's grammar fault record. -/
  | gfstat (o : Ops)
  /-- GRESUME (R287). Returns a context trapped in a parse step to parsing. -/
  | gresume (o : Ops)
  /-- GRESUME_RECOVER (R287). Returns a trapped context by running recovery from its topmost frame. -/
  | gresumeRecover (o : Ops)
  /-- MARKIF (R288). Places one of two marks after the next DATA according to a predicate test. -/
  | markif (o : Ops)
  /-- MARKEMIT (R289). Places an immediate list of marks before the target's next symbol. -/
  | markemit (o : Ops)
  /-- MARKEMIT_R (R289). Places the single mark held in S[A] before the target's next symbol. -/
  | markemitR (o : Ops)
  /-- SIGDEC (R291). Decrements a signal object atomically with release order. -/
  | sigdec (o : Ops)
  /-- SIGWAIT (R292). Blocks until a signal object is at or below a threshold, then reads it with acquire. -/
  | sigwait (o : Ops)
  /-- SIGWAIT_POLL (R292). Reads a signal object once with acquire and does not block. -/
  | sigwaitPoll (o : Ops)
  /-- SIGSET (R293). Exchanges a signal object's value with release order. -/
  | sigset (o : Ops)
  /-- LIGCFG_TERM (R296). Configures a Ligature term's conditions and its engine. -/
  | ligcfgTerm (o : Ops)
  /-- LIGCFG_SRC (R297). Routes completion pulses to a Ligature counter. -/
  | ligcfgSrc (o : Ops)
  /-- LIGCFG_TREAD (R298). Reads back a Ligature term's configuration. -/
  | ligcfgTread (o : Ops)
  /-- LIGCNT_RD (R299). Reads a Ligature counter and its overflow flag. -/
  | ligcntRd (o : Ops)
  /-- LIGCNT_SET (R299). Sets a Ligature counter and clears its overflow at the end of the cycle. -/
  | ligcntSet (o : Ops)
  /-- LIGCNT_SUB (R299). Subtracts from a Ligature counter, floored at zero. -/
  | ligcntSub (o : Ops)
  /-- LIGCNT_CLRV (R299). Clears a Ligature counter's overflow flag. -/
  | ligcntClrv (o : Ops)
  /-- LIGFIRE (R300). Adds n to a Ligature counter as a release at .core. -/
  | ligfire (o : Ops)
  /-- GSTATE (R285). Reads a target context's parse state word. -/
  | gstate (o : Ops)
  /-- GSTATE_STK (R285). Reads a target's parse stack entry n places below the top. -/
  | gstateStk (o : Ops)
  /-- EVWAIT (R301). Blocks until a Ligature counter reaches a threshold, optionally subtracting it. -/
  | evwait (o : Ops)
  -- Memory
  /-- LD (R208). Loads a scalar of the given width from virtual memory. -/
  | ld (o : Ops)
  /-- ST (R208). Stores a scalar of the given width to virtual memory. -/
  | st (o : Ops)
  /-- LDX (R208). Loads a scalar at a base plus a scaled index. -/
  | ldx (o : Ops)
  /-- STX (R208). Stores a scalar at a base plus a scaled index. -/
  | stx (o : Ops)
  /-- LDV (R210). Loads 256 contiguous 32-bit lanes into a vector register. -/
  | ldv (o : Ops)
  /-- STV (R210). Stores 256 contiguous 32-bit lanes from a vector register. -/
  | stv (o : Ops)
  /-- LDG (R210). Gathers 256 lanes at per-lane offsets. -/
  | ldg (o : Ops)
  /-- SCT (R210). Scatters 256 lanes at per-lane offsets. -/
  | sct (o : Ops)
  /-- SPLD (R212). Loads a scalar from scratchpad, optionally waiting on or clearing full bits. -/
  | spld (o : Ops)
  /-- SPST (R212). Stores a scalar to scratchpad. -/
  | spst (o : Ops)
  /-- SPLDV (R212). Loads a vector from scratchpad, optionally waiting on or clearing full bits. -/
  | spldv (o : Ops)
  /-- SPSTV (R212). Stores a vector to scratchpad. -/
  | spstv (o : Ops)
  /-- AADD (R215). Atomically adds to a memory word and returns the old value. -/
  | aadd (o : Ops)
  /-- AAND (R215). Atomically ANDs a memory word and returns the old value. -/
  | aand (o : Ops)
  /-- AOR (R215). Atomically ORs a memory word and returns the old value. -/
  | aor (o : Ops)
  /-- AXOR (R215). Atomically XORs a memory word and returns the old value. -/
  | axor (o : Ops)
  /-- AMIN (R215). Atomically takes the signed minimum into a memory word. -/
  | amin (o : Ops)
  /-- AMAX (R215). Atomically takes the signed maximum into a memory word. -/
  | amax (o : Ops)
  /-- AMINU (R215). Atomically takes the unsigned minimum into a memory word. -/
  | aminu (o : Ops)
  /-- AMAXU (R215). Atomically takes the unsigned maximum into a memory word. -/
  | amaxu (o : Ops)
  /-- ASWP (R215). Atomically swaps a memory word. -/
  | aswp (o : Ops)
  /-- ACAS (R215). Atomically compares a memory word and writes the new value on a match. -/
  | acas (o : Ops)
  /-- AFADD (R216). Atomically adds an FP32 value to a 32-bit memory word. -/
  | afadd (o : Ops)
  /-- FENCE (R219). Full fence over the executing party's accesses at its scope. -/
  | fence (o : Ops)
  /-- FENCE_ACQ (R219). Acquire fence ordering earlier loads before later accesses. -/
  | fenceAcq (o : Ops)
  /-- FENCE_REL (R219). Release fence ordering earlier accesses before later stores. -/
  | fenceRel (o : Ops)
  /-- LDACQ (R218). Loads a scalar with acquire order at a scope. -/
  | ldacq (o : Ops)
  /-- STREL (R218). Stores a scalar with release order at a scope. -/
  | strel (o : Ops)
  /-- PREF (R220). Requests a line into L1 or the Well without any fault or ordering effect. -/
  | pref (o : Ops)
  /-- CWB (R221). Writes back the dirty lines of a range to compressed main memory. -/
  | cwb (o : Ops)
  /-- CINV (R222). Writes back then invalidates a range in every L1, Well and the local instruction cache. -/
  | cinv (o : Ops)
  /-- CINV_I (R222). Invalidates only the executing core's instruction-cache lines of a range. -/
  | cinvI (o : Ops)
  /-- LDNT (R209). Loads a scalar without allocating in L1 or the Well. -/
  | ldnt (o : Ops)
  /-- STNT (R209). Stores a scalar around the L1, merging into the stored line if needed. -/
  | stnt (o : Ops)
  -- Ports, copies, barriers and scratchpad
  /-- TIDSET (R174). Reads a 64-byte descriptor from memory into the tensor table and advances GEN. -/
  | tidset (o : Ops)
  /-- TIDGET (R174). Writes a tensor descriptor to memory. -/
  | tidget (o : Ops)
  /-- TIDMOD_BASE (R175). Sets a descriptor's BASE and advances GEN. -/
  | tidmodBase (o : Ops)
  /-- TIDMOD_SBASE (R175). Sets a descriptor's SBASE and advances GEN. -/
  | tidmodSbase (o : Ops)
  /-- TIDMOD_SIZE (R175). Sets one dimension's SIZE and advances GEN. -/
  | tidmodSize (o : Ops)
  /-- TIDMOD_STRIDE (R175). Sets one dimension's STRIDE and advances GEN. -/
  | tidmodStride (o : Ops)
  /-- TIDMOD_VALID (R175). Sets a descriptor's V bit and advances GEN. -/
  | tidmodValid (o : Ops)
  /-- TIDMOD_ADDBASE (R175). Adds to a descriptor's BASE and advances GEN. -/
  | tidmodAddbase (o : Ops)
  /-- TIDCHK (R177). Tests a descriptor's validity and writes the first failing reason and GEN. -/
  | tidchk (o : Ops)
  /-- PBIND (R178). Binds a port to a descriptor in a mode after it is quiescent and checked. -/
  | pbind (o : Ops)
  /-- PUNBIND (R179). Leaves a port unbound once it is quiescent. -/
  | punbind (o : Ops)
  /-- PSEEK (R180). Restricts a bound port's traversal along one dimension and restarts it. -/
  | pseek (o : Ops)
  /-- PSTAT (R181). Reads a port's state without waiting. -/
  | pstat (o : Ops)
  /-- PWIN (R183). Reads half of a port window entry and optionally invalidates it. -/
  | pwin (o : Ops)
  /-- PXFORM (R182). Sets or removes one transform stage of a port. -/
  | pxform (o : Ops)
  /-- CPY (R186). Issues a copy invocation from a read port to a write port without transforms. -/
  | cpy (o : Ops)
  /-- CPYS (R188). Issues a linear copy of S[C] bytes through an unbound port. -/
  | cpys (o : Ops)
  /-- CPYT (R186). Issues a copy invocation that applies both ports' transforms. -/
  | cpyt (o : Ops)
  /-- CPYQ (R187). Issues a copy that quantises each 32x32 tile to BFP along rows and columns. -/
  | cpyq (o : Ops)
  /-- CPYR (R189). Issues a fill of a 4 KiB scratchpad slot from a page and sets its tag. -/
  | cpyr (o : Ops)
  /-- CPYW (R189). Issues a write of a scratchpad slot back to the page its tag names. -/
  | cpyw (o : Ops)
  /-- BARINIT (R192). Initialises a barrier word with phase 0 and an expected count. -/
  | barinit (o : Ops)
  /-- BARARM (R192). Sets a new expected count for the current phase, flipping if already complete. -/
  | bararm (o : Ops)
  /-- BARWAIT (R193). Blocks until a barrier's phase differs from the named phase. -/
  | barwait (o : Ops)
  /-- BARTEST (R193). Reads a barrier's arrival count and whether its phase has flipped. -/
  | bartest (o : Ops)
  /-- BARARR (R192). Makes an action-unit arrival of e bytes at a barrier. -/
  | bararr (o : Ops)
  /-- SPTLOOK (R195). Looks up a virtual page in the scratchpad tag table. -/
  | sptlook (o : Ops)
  /-- SPTINS (R196). Inserts a tag into a scratchpad slot without moving data. -/
  | sptins (o : Ops)
  /-- SPTEVICT (R197). Reads and clears a tag-table entry once the slot is not busy. -/
  | sptevict (o : Ops)
  /-- SPTREAD (R197). Reads a tag-table entry. -/
  | sptread (o : Ops)
  /-- FESET (R198). Sets the full bits of a scratchpad range as a release. -/
  | feset (o : Ops)
  /-- FECLR (R198). Clears the full bits of a scratchpad range. -/
  | feclr (o : Ops)
  /-- FETEST (R199). Reads the full bit of one granule. -/
  | fetest (o : Ops)
  /-- PFLUSH (R184). Waits until a port is quiescent and joins every invocation that used it. -/
  | pflush (o : Ops)
  /-- CIRC (R200). Issues a sending or receiving circuit invocation on an image circuit. -/
  | circ (o : Ops)
  -- Matrix engine
  /-- MXMMA (R349). Issues a matrix step that adds an A tile times a weight slot's groups into an accumulator. -/
  | mxmma (o : Ops)
  /-- MXZERO (R352). Issues a clear of an accumulator with a KIND. -/
  | mxzero (o : Ops)
  /-- MXLDACC (R353). Issues a load of an accumulator from scratchpad. -/
  | mxldacc (o : Ops)
  /-- MXSTACC (R355). Issues a drain of an accumulator through the function chain to a port or scratchpad. -/
  | mxstacc (o : Ops)
  /-- MXWLOAD (R357). Issues a load of a weight slot from a port, marking zero groups. -/
  | mxwload (o : Ops)
  /-- MXWDROP (R358). Issues an invalidation of one weight slot. -/
  | mxwdrop (o : Ops)
  /-- MXWDROP_ALL (R358). Issues an invalidation of every weight slot the context may name. -/
  | mxwdropAll (o : Ops)
  /-- MXSCALE (R354). Issues a row-wise scaling of an accumulator by vector lanes. -/
  | mxscale (o : Ops)
  /-- MXFMT (R359). Sets the context's scratchpad A format and row stride. -/
  | mxfmt (o : Ops)
  /-- MXCHAIN_OFF (R356). Turns a function-chain node off. -/
  | mxchainOff (o : Ops)
  /-- MXCHAIN_SCALE (R356). Configures a chain node to scale by a constant or per-column values. -/
  | mxchainScale (o : Ops)
  /-- MXCHAIN_BIAS (R356). Configures a chain node to add a constant or per-column bias. -/
  | mxchainBias (o : Ops)
  /-- MXCHAIN_RESID (R356). Configures a chain node to add a residual read from a port. -/
  | mxchainResid (o : Ops)
  /-- MXCHAIN_ACT (R356). Configures a chain node to apply an activation function. -/
  | mxchainAct (o : Ops)
  /-- MXCHAIN_CLAMP (R356). Configures a chain node to clamp between two bounds. -/
  | mxchainClamp (o : Ops)
  /-- MXCHAIN_QNT (R356). Configures a chain node to quantise rows to FP8-E4M3 with scales to a port. -/
  | mxchainQnt (o : Ops)
  /-- MXSKIP_OFF (R360). Turns zero skipping off and returns the previous setting. -/
  | mxskipOff (o : Ops)
  /-- MXSKIP_ON (R360). Turns zero skipping on and returns the previous setting. -/
  | mxskipOn (o : Ops)
  /-- MXSKIP_RD (R360). Returns the zero-skipping setting unchanged. -/
  | mxskipRd (o : Ops)
  /-- MXWAIT (R361). Blocks until every MX invocation of the context has ended. -/
  | mxwait (o : Ops)
  /-- MXWAIT_ALL (R361). Blocks until every MX invocation queued on the core has ended. -/
  | mxwaitAll (o : Ops)
  /-- MXSTAT (R362). Reads the matrix engine's state word. -/
  | mxstat (o : Ops)
  /-- MXSTAT_SLOT (R362). Reads a weight slot's tag. -/
  | mxstatSlot (o : Ops)
  /-- MXSTAT_ZMASK (R362). Reads a weight slot's zero-group mask. -/
  | mxstatZmask (o : Ops)
  /-- MXSTAT_SKIPCNT (R362). Reads the skip counter. -/
  | mxstatSkipcnt (o : Ops)
  -- Vector engine
  /-- VADD (R371). Adds FP32 lanes with one rounding. -/
  | vadd (o : Ops)
  /-- VSUB (R371). Subtracts FP32 lanes with one rounding. -/
  | vsub (o : Ops)
  /-- VMUL (R371). Multiplies FP32 lanes with one rounding. -/
  | vmul (o : Ops)
  /-- VFMA (R371). Fused multiply-add of FP32 lanes into vD. -/
  | vfma (o : Ops)
  /-- VFMS (R371). Fused multiply-subtract of FP32 lanes. -/
  | vfms (o : Ops)
  /-- VDIV (R371). Divides FP32 lanes with one rounding. -/
  | vdiv (o : Ops)
  /-- VSQRT (R373). Correctly rounded square root of FP32 lanes. -/
  | vsqrt (o : Ops)
  /-- VRSQ (R375). Reciprocal square root of FP32 lanes, rounded once. -/
  | vrsq (o : Ops)
  /-- VRCP (R375). Reciprocal of FP32 lanes, rounded once. -/
  | vrcp (o : Ops)
  /-- VMIN (R372). Lane-wise FP32 minimum. -/
  | vmin (o : Ops)
  /-- VMAX (R372). Lane-wise FP32 maximum. -/
  | vmax (o : Ops)
  /-- VABS (R372). Clears the sign bit of each lane. -/
  | vabs (o : Ops)
  /-- VNEG (R372). Inverts the sign bit of each lane. -/
  | vneg (o : Ops)
  /-- VFN (R375). Applies a transcendental function selected by Q to each lane. -/
  | vfn (o : Ops)
  /-- VSCALEB (R376). Scales each lane by a power of two. -/
  | vscaleb (o : Ops)
  /-- VROUND (R373). Rounds each lane to an integral FP32 value. -/
  | vround (o : Ops)
  /-- VCLASS (R374). Writes each lane's floating class mask. -/
  | vclass (o : Ops)
  /-- VCVT_F2I (R377). Converts FP32 lanes to INT32. -/
  | vcvtF2i (o : Ops)
  /-- VCVT_I2F (R377). Converts INT32 lanes to FP32. -/
  | vcvtI2f (o : Ops)
  /-- VCVT_UI2F (R377). Converts unsigned 32-bit lanes to FP32. -/
  | vcvtUi2f (o : Ops)
  /-- VCVT_F2BF (R377). Narrows FP32 lanes to BF16 in one part of vD. -/
  | vcvtF2bf (o : Ops)
  /-- VCVT_BF2F (R377). Widens one BF16 part to FP32 lanes. -/
  | vcvtBf2f (o : Ops)
  /-- VCVT_F2H (R377). Narrows FP32 lanes to FP16 in one part of vD. -/
  | vcvtF2h (o : Ops)
  /-- VCVT_H2F (R377). Widens one FP16 part to FP32 lanes. -/
  | vcvtH2f (o : Ops)
  /-- VCVT_F2E4 (R377). Narrows FP32 lanes to FP8-E4M3 in one part of vD. -/
  | vcvtF2e4 (o : Ops)
  /-- VCVT_E42F (R377). Widens one FP8-E4M3 part to FP32 lanes. -/
  | vcvtE42f (o : Ops)
  /-- VCVT_F2E5 (R377). Narrows FP32 lanes to FP8-E5M2 with SAT or IEEE overflow. -/
  | vcvtF2e5 (o : Ops)
  /-- VCVT_E52F (R377). Widens one FP8-E5M2 part to FP32 lanes. -/
  | vcvtE52f (o : Ops)
  /-- VCVT_F2I8 (R377). Narrows FP32 lanes to INT8 in one part of vD. -/
  | vcvtF2i8 (o : Ops)
  /-- VCVT_I82F (R377). Widens one INT8 part to FP32 lanes. -/
  | vcvtI82f (o : Ops)
  /-- VQNT_E4M3 (R378). Quantises a register as one row to FP8-E4M3 with an FP32 scale. -/
  | vqntE4m3 (o : Ops)
  /-- VQNT_BFP (R378). Quantises eight 32-lane blocks to BFP with one scale byte each. -/
  | vqntBfp (o : Ops)
  /-- VDQNT (R379). Dequantises FP8-E4M3 or BFP elements to FP32 lanes. -/
  | vdqnt (o : Ops)
  /-- VCMP (R380). Compares lanes and sets a predicate lane by lane. -/
  | vcmp (o : Ops)
  /-- VSEL (R381). Selects lanes of vA or vB by a predicate. -/
  | vsel (o : Ops)
  /-- VIADD (R382). Adds integer lanes, wrapping or saturating. -/
  | viadd (o : Ops)
  /-- VISUB (R382). Subtracts integer lanes, wrapping or saturating. -/
  | visub (o : Ops)
  /-- VIMUL (R382). Multiplies integer lanes, low or high half. -/
  | vimul (o : Ops)
  /-- VIMAD (R382). Integer multiply-add of lanes into vD. -/
  | vimad (o : Ops)
  /-- VAND (R382). Bitwise AND of lanes. -/
  | vand (o : Ops)
  /-- VOR (R382). Bitwise OR of lanes. -/
  | vor (o : Ops)
  /-- VXOR (R382). Bitwise XOR of lanes. -/
  | vxor (o : Ops)
  /-- VSHL (R383). Shifts lanes left. -/
  | vshl (o : Ops)
  /-- VSHR (R383). Shifts lanes right logically. -/
  | vshr (o : Ops)
  /-- VSRA (R383). Shifts lanes right arithmetically. -/
  | vsra (o : Ops)
  /-- VCLZ (R382). Counts leading zeros of each lane. -/
  | vclz (o : Ops)
  /-- VPOPC (R382). Counts ones of each lane. -/
  | vpopc (o : Ops)
  /-- VRED (R384). Reduces the lanes by a fixed tree into a scalar. -/
  | vred (o : Ops)
  /-- VSCAN (R384). Forms prefix combinations of the lanes. -/
  | vscan (o : Ops)
  /-- VBCAST (R385). Broadcasts a scalar to every unmasked lane. -/
  | vbcast (o : Ops)
  /-- VBCAST_LANE (R385). Broadcasts one lane of a vector to every unmasked lane. -/
  | vbcastLane (o : Ops)
  /-- VEXTR (R385). Extracts one lane into a scalar. -/
  | vextr (o : Ops)
  /-- VINS (R385). Inserts a scalar into one lane. -/
  | vins (o : Ops)
  /-- VPERM (R385). Permutes lanes by per-lane indices. -/
  | vperm (o : Ops)
  /-- VROT (R385). Rotates lanes by j. -/
  | vrot (o : Ops)
  /-- VIOTA (R385). Writes an arithmetic sequence across lanes. -/
  | viota (o : Ops)
  /-- VSORT (R387). Stably sorts the unmasked lanes or their indices. -/
  | vsort (o : Ops)
  /-- VTOPK (R391). Selects the k highest-ranked lanes with deterministic tie-breaking. -/
  | vtopk (o : Ops)
  /-- VGATE (R392). Forms softmax gate weights for selected entries. -/
  | vgate (o : Ops)
  /-- VGATE_RENORM (R392). Forms renormalised gate weights for selected entries. -/
  | vgateRenorm (o : Ops)
  /-- VHIST (R394). Counts lane values into bins and adds each count to memory atomically. -/
  | vhist (o : Ops)
  /-- VPRNG (R393). Writes keyed random bits or uniform floats to lanes. -/
  | vprng (o : Ops)
  /-- VPRD (R395). Issues an invocation that takes the next beat of a read port into a vector register. -/
  | vprd (o : Ops)
  /-- VPWR (R396). Issues an invocation that writes a captured vector image as the next beat of a write port. -/
  | vpwr (o : Ops)
  /-- VPCNT (R386). Counts, or finds the first, set predicate lanes. -/
  | vpcnt (o : Ops)
  /-- VPLOG_NZ (R386). Sets predicate lanes where vector lanes are nonzero. -/
  | vplogNz (o : Ops)
  /-- VPLOG_BIT (R386). Sets predicate lanes from bit n of each vector lane. -/
  | vplogBit (o : Ops)
  /-- VPLOG_P2V (R386). Expands a predicate into all-ones or zero vector lanes. -/
  | vplogP2v (o : Ops)
  /-- VMOV (R381). Copies a vector register. -/
  | vmov (o : Ops)
  -- Merge engine
  /-- MGISECT (R410). Issues a sorted-list intersection that counts or emits keys. -/
  | mgisect (o : Ops)
  /-- MGUNION (R410). Issues a sorted-list union that counts or emits keys. -/
  | mgunion (o : Ops)
  /-- MGDIFF (R410). Issues a sorted-list difference that counts or emits keys. -/
  | mgdiff (o : Ops)
  /-- MGMERGE (R410). Issues a sorted-list merge that counts or emits keys. -/
  | mgmerge (o : Ops)
  /-- MGSTEER (R412). Issues an invocation that sends each row to a leaf port by pivots. -/
  | mgsteer (o : Ops)
  /-- MGSEQ (R413). Issues an invocation that merges two lists back into sequence order. -/
  | mgseq (o : Ops)
  /-- MGSTAT (R414). Reads the merge engine's state. -/
  | mgstat (o : Ops)
  /-- MGSTAT_PART (R415). Reads the running invocation's partial count. -/
  | mgstatPart (o : Ops)
  /-- MGSTAT_LEAF (R415). Reads a leaf count of the context's last MGSTEER. -/
  | mgstatLeaf (o : Ops)
  /-- MGCFG_PIVOT (R416). Writes one of the context's MG pivots. -/
  | mgcfgPivot (o : Ops)
  /-- MGCFG_PREAD (R416). Reads one of the context's MG pivots. -/
  | mgcfgPread (o : Ops)
  /-- MGCFG_MARK (R416). Sets the context's MG mark pair. -/
  | mgcfgMark (o : Ops)
  -- Scroll
  /-- SCREC_BEGIN (R469). Opens the group's track of a tape area and starts recording. -/
  | screcBegin (o : Ops)
  /-- SCREC_END (R469). Closes the recording track. -/
  | screcEnd (o : Ops)
  /-- SCPLAY (R470). Starts a replay of the group's track with a patch vector. -/
  | scplay (o : Ops)
  /-- SCGUARD (R471). Writes a USER guard while recording. -/
  | scguard (o : Ops)
  /-- SCPATCH (R471). Writes a PATCH record and tags a register with a patch slot while recording. -/
  | scpatch (o : Ops)
  /-- SCINV (R472). Invalidates a tape and removes its copies from every tape store. -/
  | scinv (o : Ops)
  /-- SCSTAT (R473). Reads a tape header word or the context's Scroll state. -/
  | scstat (o : Ops)
  -- K-level
  /-- TRAP (R317). Raises SYSCALL with the immediate in KAUX1. -/
  | trap (o : Ops)
  /-- ERET (R318). Ends the handler, fences, clears INTRAP and resumes the trapped context. -/
  | eret (o : Ops)
  /-- ERET_SKIP (R318). Ends the handler and continues a class A context past the trapping instruction. -/
  | eretSkip (o : Ops)
  /-- ERET_KILL (R318). Ends the handler and terminates the trapped group or drops the K context's invocations. -/
  | eretKill (o : Ops)
  /-- TLBINV_PAGE (R325). Invalidates the translations of an ASID over a range in a scope. -/
  | tlbinvPage (o : Ops)
  /-- TLBINV_ASID (R325). Invalidates every translation of an ASID in a scope. -/
  | tlbinvAsid (o : Ops)
  /-- TLBINV_ALL (R325). Invalidates every translation in a scope. -/
  | tlbinvAll (o : Ops)
  /-- ASIDSET (R324). Sets an ASID's root, invalidating its TLB entries and window checks module-wide. -/
  | asidset (o : Ops)
  /-- CTXSAVE (R332). Arms a pre-emption cut of a U context into a save area. -/
  | ctxsave (o : Ops)
  /-- CTXLOAD (R336). Arms the restore of a save area onto a U context. -/
  | ctxload (o : Ops)
  /-- RESUME (R319). Fences, restarts stopped generators and reissues discarded invocations. -/
  | resume (o : Ops)
  /-- DRAIN (R337). Applies a drain to a region, sending DRN to every source. -/
  | drain (o : Ops)
  /-- WFI (R331). Blocks the K context until an interrupt is queued or a cycle limit passes. -/
  | wfi (o : Ops)
  /-- BRK (R317). Raises BREAKPOINT with the immediate in KAUX1. -/
  | brk (o : Ops)
  /-- MEMCTL_TAG (R441). Reads the stored state of the line holding a DPA. -/
  | memctlTag (o : Ops)
  /-- MEMCTL_FMR (R441). Reads a word of a frame's metadata record. -/
  | memctlFmr (o : Ops)
  /-- MEMCTL_RD (R442). Reads a memory-controller register of a die. -/
  | memctlRd (o : Ops)
  /-- MEMCTL_WR (R442). Writes a memory-controller register of a die and returns a status. -/
  | memctlWr (o : Ops)
  /-- BALLOON_ADD (R443). Balloons a frame into a VF's list, discarding its cached lines. -/
  | balloonAdd (o : Ops)
  /-- BALLOON_REM (R443). Returns a ballooned frame to use, reading as zero. -/
  | balloonRem (o : Ops)
  /-- BALLOON_PRI (R443). Sets a VF's balloon reclaim priority on every die. -/
  | balloonPri (o : Ops)
  /-- QPOST (R495). Appends an INDIRECT packet to a queue and advances its WPTR as a release. -/
  | qpost (o : Ops)
  /-- PINIT (R496). Checks and loads a pipeline image into a region and writes the load report. -/
  | pinit (o : Ops)
  /-- IRQ_CORE (R330). Queues a message interrupt on another core. -/
  | irqCore (o : Ops)
  /-- IRQ_HOST (R330). Raises an MSI-X interrupt of a virtual function. -/
  | irqHost (o : Ops)
  /-- WALK (R326). Probes a translation under an ASID without faulting or filling a TLB. -/
  | walk (o : Ops)
  -- Steps of the hardware and of the agents around the cores
  /-- PARSE_STEP (R234). The Ductus performs one parse step of a context: drop frames, match, expand or start a routine. -/
  | parseStep (u : BitVec 2)
  /-- MISMATCH_RECORD_WRITE (R240). Once the context's invocations are done and Peek(1) is present, the fault record is written and recovery or GRAMMAR_MISMATCH follows. -/
  | mismatchRecordWrite (u : BitVec 2)
  /-- RECOVERY_STEP (R243). A recovering context skips one mark or consumes the sync mark, pops to the frame and runs the error action. -/
  | recoveryStep (u : BitVec 2)
  /-- MARK_ARRIVAL (R153). A lead port delivers a symbol of its stream into the context's mark queue. -/
  | markArrival (u : BitVec 2)
  /-- CONTEXT_AGED (R25). A ready U context's aging count reaches 28 and it takes issue priority. -/
  | contextAged (u : BitVec 2)
  /-- WATCHDOG (R328). A context's not-ready count reaches the watchdog limit and raises WATCHDOG. -/
  | watchdog (u : BitVec 2)
  /-- TRAP_ENTRY (R312). A pending trap condition is taken: K registers written, ASID set, INTRAP set, handler entered. -/
  | trapEntry
  /-- INTERRUPT_DELIVERY (R329). The oldest queued interrupt enters the K context as a class Q trap. -/
  | interruptDelivery
  /-- INVOCATION_START (R342). An engine starts its oldest issued invocation once its pipe, hazards and start checks allow. -/
  | invocationStart (id : Nat)
  /-- ENGINE_QUEUE_ROOM (R32). A context stalled on a full engine queue issues when an entry frees. -/
  | engineQueueRoom (c : CtxId)
  /-- INVOCATION_COMMIT (R34). An invocation ends and commits its held stores, flags and completion-object updates together. -/
  | invocationCommit (id : Nat)
  /-- LIGATURE_TERM_FIRE (R42). A satisfied term starts its engine's oldest held invocation and subtracts its thresholds. -/
  | ligatureTermFire
  /-- PORT_ACCESS (R158). A port generator translates and issues one access of its traversal. -/
  | portAccess (p : BitVec 3)
  /-- GENERATOR_FAULT_DELIVERY (R161). At the core's first quiescent point a generator fault is delivered as a class I trap. -/
  | generatorFaultDelivery
  /-- CIRCUIT_BEAT_ARRIVAL (R168). A circuit beat arrives at the receiving core and commits to scratchpad with its full bits. -/
  | circuitBeatArrival (p : BitVec 3) (fromPeer : Option CircuitSymbol)
  /-- CIRCUIT_LOSS (R169). A circuit whose far end is drained, reset or restored raises CIRCUIT on both ends. -/
  | circuitLoss (p : BitVec 3)
  /-- BARWAIT_WAKE (R193). A blocked BARWAIT sees the phase flip and completes as an acquire. -/
  | barwaitWake (c : CtxId)
  /-- FULL_WAIT_WAKE (R212). A blocked .WAIT load finds its granules full and completes as an acquire. -/
  | fullWaitWake (c : CtxId)
  /-- SIGWAIT_WAKE (R292). A blocked SIGWAIT reads a value at or below its threshold and completes. -/
  | sigwaitWake (c : CtxId)
  /-- EVWAIT_WAKE (R301). A blocked EVWAIT sees its counter reach the threshold and completes. -/
  | evwaitWake (c : CtxId)
  /-- MXWAIT_WAKE (R361). A blocked MXWAIT completes once the invocations it waits for have ended. -/
  | mxwaitWake (c : CtxId)
  /-- PEEK_WAKE (R281). A blocked GPEEK or GSKIP completes when the symbol it needs arrives. -/
  | peekWake (c : CtxId)
  /-- WFI_WAKE (R331). WFI ends when an interrupt is queued or its cycle limit expires. -/
  | wfiWake
  /-- PORT_QUIESCE_WAKE (R163). An instruction stalled until its port is quiescent proceeds. -/
  | portQuiesceWake (c : CtxId)
  /-- CUT_COMPLETE (R333). Every sink has seen PRE; the header is written valid, the context freed and a cut-complete interrupt queued. -/
  | cutComplete
  /-- REGION_DRAIN_COMPLETE (R14). The occupancy tree reports no tokens; the region becomes UNARMED and a drain-complete interrupt is queued. -/
  | regionDrainComplete (rcb : Nat)
  /-- SCRIBE_BIND_WRITE (R484). The Scribe writes a bind record placing a group on a core and context. -/
  | scribeBindWrite (die : BitVec 3) (slot : BitVec 8) (record : BitVec 128)
  /-- BIND_RECORD_CHECK (R483). Dispatch hardware takes a full slot, checks the record and binds, discards or refuses it. -/
  | bindRecordCheck (die : BitVec 3)
  /-- GROUP_RETIRE (R21). A group whose parse, invocations and port writes are all done retires and frees its context. -/
  | groupRetire (u : BitVec 2)
  /-- LAUNCH_COMPLETION (R22). After every group retires the launch writes its ring record and makes its signal decrement. -/
  | launchCompletion (slot : BitVec 12)
  /-- COALESCE_TIME_EXPIRY (R490). CTIME cycles after the oldest unsignalled record the ring raises its vector. -/
  | coalesceTimeExpiry (slot : Nat)
  /-- DOORBELL_WRITE (R478). A write to a queue's WPTR is taken as an acquire and makes new packet words visible to the front end. -/
  | doorbellWrite (q : BitVec 12) (wptr : BitVec 32)
  /-- QUEUE_STATE_WRITE (R477). A PF write of a queue's STATE starts or stops its parsing. -/
  | queueStateWrite (q : BitVec 12) (value : BitVec 2)
  /-- NOP_PACKET (R480). The front end skips a NOP packet. -/
  | nopPacket (q : BitVec 12)
  /-- LAUNCH_PACKET (R481). The front end reads the RCB, takes the pending binding and tape, and enters the launch in the launch table. -/
  | launchPacket (q : BitVec 12)
  /-- BIND_PACKET (R481). Copies n descriptors into the queue's pending binding. -/
  | bindPacket (q : BitVec 12)
  /-- SIGNAL_PACKET (R481). Fences the queue, then decrements or sets a signal word with release. -/
  | signalPacket (q : BitVec 12)
  /-- WAIT_PACKET (R481). Holds the queue until a signal word is at or below a threshold. -/
  | waitPacket (q : BitVec 12)
  /-- INDIRECT_PACKET (R481). Parses a buffer of packets then resumes after itself. -/
  | indirectPacket (q : BitVec 12)
  /-- PINIT_PACKET (R481). Fences the queue, loads an image and writes the report with release. -/
  | pinitPacket (q : BitVec 12)
  /-- FENCE_PACKET (R481). Holds the queue until every earlier launch of it has completed. -/
  | fencePacket (q : BitVec 12)
  /-- RECORD_PACKET (R481). Sets the queue's pending tape for recording. -/
  | recordPacket (q : BitVec 12)
  /-- REPLAY_PACKET (R481). Sets the queue's pending tape and patch vector for replay. -/
  | replayPacket (q : BitVec 12)
  /-- QUEUE_HOLD_RELEASE (R481). A queue held by FENCE, SIGNAL, WAIT, PINIT or a full launch table resumes parsing once its condition holds. -/
  | queueHoldRelease (q : BitVec 12)
  /-- QUEUE_LOST (R493). An uncorrectable error in a queue table entry sets it LOST and ends its launches. -/
  | queueLost (q : BitVec 12)
  /-- SCRIBE_RESET (R492). An uncorrectable error in Scribe memory resets the harts and reloads their firmware. -/
  | scribeReset
  /-- WELL_WRITEBACK (R427). The Well writes back a dirty line, storing it or deferring it when the pool is empty. -/
  | wellWriteback (line : Nat)
  /-- DEFERRED_LINE_WRITEBACK (R435). A deferred line is written back once the pool has a chunk and no write is held. -/
  | deferredLineWriteback (die : BitVec 3)
  /-- HELD_WRITE_SERVED (R433). A held write takes a newly freed chunk and completes; SAVED increments. -/
  | heldWriteServed (die : BitVec 3)
  /-- HOLD_BUDGET_EXPIRY (R433). A held write's HBUDG expires and it takes OUT_OF_SPACE; OOS increments. -/
  | holdBudgetExpiry (die : BitVec 3)
  /-- IDLE_COMPACTION (R429). The idle controller compacts a frame with holes and returns unused chunks to the pool. -/
  | idleCompaction (frame : Nat)
  /-- BLOTTER_KRES_REFILL (R432). The Blotter moves up to 64 chunks from the pool to the K reserve. -/
  | blotterKresRefill (die : BitVec 3)
  /-- BLOTTER_RECLAIM (R432). The Blotter reclaims one balloon-list frame's chunks to the pool. -/
  | blotterReclaim (die : BitVec 3)
  /-- BLOTTER_HWRES_DRAW (R432). The Blotter moves 64 chunks from the hardware reserve to the pool. -/
  | blotterHwresDraw (die : BitVec 3)
  /-- BLOTTER_HWRES_REFILL (R432). The Blotter returns pool chunks to the hardware reserve above LOW. -/
  | blotterHwresRefill (die : BitVec 3)
  /-- REPLAY_CMD (R461). A replaying context issues one recorded command with recorded or patched operands. -/
  | replayCmd (u : BitVec 2)
  /-- REPLAY_GUARD (R461). A replaying context checks a guard, applies its snapshot and consumes its symbols. -/
  | replayGuard (u : BitVec 2)
  /-- REPLAY_END (R464). The replay reaches END and the group retires or continues live. -/
  | replayEnd (u : BitVec 2)
  /-- VF_BINDING_WRITE (R505). A PF write of a VF's binding entry enables it and sets its ASID range. -/
  | vfBindingWrite (vf : BitVec 8) (value : BitVec 64)
  /-- APERTURE_READ (R506). A VF BAR2 read is translated under its ASIDBASE as an acquire, returning all ones on failure. -/
  | apertureRead (vf : BitVec 8) (off : BitVec 36) (n : Nat)
  /-- APERTURE_WRITE (R506). A VF BAR2 write is translated as a release, dropped and signalled on failure. -/
  | apertureWrite (vf : BitVec 8) (off : BitVec 36) (data : List (BitVec 8))
  /-- KBOOT_GO (R509). Setting GO makes the security processor check, measure and apply the K boot block. -/
  | kbootGo
  /-- FWSLOT_GO (R510). Setting GO starts copying and checking a staged firmware image. -/
  | fwslotGo (k : BitVec 2)
  /-- FIRMWARE_CHECK_DONE (R520). The security processor finishes checking an image and installs or refuses it. -/
  | firmwareCheckDone (k : BitVec 2)
  /-- KDOOR_WRITE (R511). A PF write of KDOOR queues a doorbell interrupt on a core. -/
  | kdoorWrite (value : BitVec 64)
  /-- ATTESTATION_GO (R512). Setting GO starts an attestation report over the written nonce. -/
  | attestationGo
  /-- ATTESTATION_DONE (R522). The signed report with M, the fuse counter and the nonce is complete and DONE is set. -/
  | attestationDone
  /-- MCTL_WRITE (R528). A write of 1 to FRZ unfreezes a die's Margin recorder. -/
  | mctlWrite (die : BitVec 3) (value : BitVec 64)
  /-- COPY_TRACE_CONTROL_WRITE (R525). A write of a core's copy-trace ring control word sets its base, size and enable. -/
  | copyTraceControlWrite (core : BitVec 9) (value : BitVec 64)
  /-- HOST_REGISTER_WRITE (R504). A PF write to a management register with no behaviour of its own, such as a Relfel window entry or queue table field. -/
  | hostRegisterWrite (off : BitVec 24) (value : BitVec 64)
  /-- RELFEL_LINK_FAILURE (R517). A link fails or resets and every circuit using it raises CIRCUIT. -/
  | relfelLinkFailure (link : BitVec 4)
  /-- THERMAL_GATING_CHANGE (R531). Thermal control changes a die's issue gating in sixty-fourths. -/
  | thermalGatingChange (die : BitVec 3) (gate : BitVec 7)
  /-- THERMAL_TRIP (R532). A fully gated die at trip temperature drains its regions and takes no bind. -/
  | thermalTrip (die : BitVec 3)
  /-- UNCORRECTABLE_CORE_ERROR (R529). An uncorrectable ECC error in an unowned core structure halts the core. -/
  | uncorrectableCoreError
  /-- COLD_RESET (R530). Cold reset runs boot checks, DRAM training, FMR zeroing and awaits the K boot block. -/
  | coldReset
  /-- WARM_RESET (R530). Warm reset repeats boot, link training and K boot while keeping DRAM, FMRs and Margin records. -/
  | warmReset
  /-- RESERVED_OPCODE (R67). Executing a reserved major opcode or an unassigned Scroll subfunction raises ILLEGAL_OP with its subcode. -/
  | reservedOpcode (o : Ops) (op sub : BitVec 8)
  /-- PF_BAR2_ACCESS (R504). A host read or write through PF BAR2 reaches device-physical address o untranslated, as used to stage firmware images. -/
  | pfBar2Access (off : BitVec 40) (n : Nat) (data : Option (List (BitVec 8)))
  /-- PEER_WINDOW_ACCESS (R516). Window traffic arriving from a peer module over a Relfel link reads or commits bytes in this module's committed, unballooned frames. -/
  | peerWindowAccess (link : BitVec 4) (dpa : BitVec 40) (n : Nat) (data : Option (List (BitVec 8)))
  /-- SCRIBE_REBALANCE (R30). The Scribe moves a quiescent group to another context or core, carrying its index, TIDs, registers and accumulator ownership. -/
  | scribeRebalance (u : BitVec 2) (core : BitVec 9) (v : BitVec 2)
  /-- SCRIBE_RELOAD_COMPLETE (R492). The security processor finishes reloading the Scribe firmware and the harts resume writing bind records. -/
  | scribeReloadComplete  deriving DecidableEq, Repr

/-- The major opcode of an instruction of the map, none for the step of another agent (R70). -/
def Instr.opcode? : Instr → Option Nat
  | .nop _ => some 0x00
  | .mov _ => some 0x01
  | .movi _ => some 0x02
  | .moviHi _ => some 0x02
  | .add _ => some 0x03
  | .sub _ => some 0x04
  | .addi _ => some 0x05
  | .mul _ => some 0x06
  | .mulh _ => some 0x07
  | .mulhu _ => some 0x08
  | .div _ => some 0x09
  | .divu _ => some 0x0A
  | .rem _ => some 0x0B
  | .remu _ => some 0x0C
  | .and _ => some 0x0D
  | .or _ => some 0x0E
  | .xor _ => some 0x0F
  | .andi _ => some 0x10
  | .ori _ => some 0x11
  | .xori _ => some 0x12
  | .shl _ => some 0x13
  | .shr _ => some 0x14
  | .sra _ => some 0x15
  | .shli _ => some 0x16
  | .shri _ => some 0x17
  | .srai _ => some 0x18
  | .rol _ => some 0x19
  | .slt _ => some 0x1A
  | .sltu _ => some 0x1B
  | .slti _ => some 0x1C
  | .min _ => some 0x1D
  | .max _ => some 0x1E
  | .minu _ => some 0x1F
  | .maxu _ => some 0x20
  | .clz _ => some 0x21
  | .ctz _ => some 0x22
  | .popc _ => some 0x23
  | .bswap _ => some 0x24
  | .ext _ => some 0x25
  | .ins _ => some 0x26
  | .sext _ => some 0x27
  | .lea _ => some 0x28
  | .cmpp _ => some 0x29
  | .beq _ => some 0x2A
  | .bne _ => some 0x2B
  | .blt _ => some 0x2C
  | .bge _ => some 0x2D
  | .bltu _ => some 0x2E
  | .bgeu _ => some 0x2F
  | .jmp _ => some 0x30
  | .jr _ => some 0x31
  | .call _ => some 0x32
  | .ret _ => some 0x33
  | .sel _ => some 0x34
  | .plog _ => some 0x35
  | .pmov _ => some 0x36
  | .pmovFrom _ => some 0x36
  | .pmovTo _ => some 0x36
  | .mfc _ => some 0x37
  | .mtc _ => some 0x38
  | .budget _ => some 0x39
  | .budgetSet _ => some 0x39
  | .aend _ => some 0x3A
  | .fadd _ => some 0x3B
  | .fmul _ => some 0x3C
  | .fdiv _ => some 0x3D
  | .fcvtF2i _ => some 0x3E
  | .fcvtI2f _ => some 0x3E
  | .fcvtU2f _ => some 0x3E
  | .fcvtF2bf _ => some 0x3E
  | .fcvtBf2f _ => some 0x3E
  | .fcvtF2h _ => some 0x3E
  | .fcvtH2f _ => some 0x3E
  | .fcvtF2e4 _ => some 0x3E
  | .fcvtE42f _ => some 0x3E
  | .fcmp _ => some 0x3F
  | .gpeek _ => some 0x40
  | .gskip _ => some 0x41
  | .gpush _ => some 0x42
  | .gpop _ => some 0x43
  | .gfstat _ => some 0x44
  | .gresume _ => some 0x45
  | .gresumeRecover _ => some 0x45
  | .markif _ => some 0x46
  | .markemit _ => some 0x47
  | .markemitR _ => some 0x47
  | .sigdec _ => some 0x48
  | .sigwait _ => some 0x49
  | .sigwaitPoll _ => some 0x49
  | .sigset _ => some 0x4A
  | .ligcfgTerm _ => some 0x4B
  | .ligcfgSrc _ => some 0x4B
  | .ligcfgTread _ => some 0x4B
  | .ligcntRd _ => some 0x4C
  | .ligcntSet _ => some 0x4C
  | .ligcntSub _ => some 0x4C
  | .ligcntClrv _ => some 0x4C
  | .ligfire _ => some 0x4D
  | .gstate _ => some 0x4E
  | .gstateStk _ => some 0x4E
  | .evwait _ => some 0x4F
  | .ld _ => some 0x50
  | .st _ => some 0x51
  | .ldx _ => some 0x52
  | .stx _ => some 0x53
  | .ldv _ => some 0x54
  | .stv _ => some 0x55
  | .ldg _ => some 0x56
  | .sct _ => some 0x57
  | .spld _ => some 0x58
  | .spst _ => some 0x59
  | .spldv _ => some 0x5A
  | .spstv _ => some 0x5B
  | .aadd _ => some 0x5C
  | .aand _ => some 0x5D
  | .aor _ => some 0x5E
  | .axor _ => some 0x5F
  | .amin _ => some 0x60
  | .amax _ => some 0x61
  | .aminu _ => some 0x62
  | .amaxu _ => some 0x63
  | .aswp _ => some 0x64
  | .acas _ => some 0x65
  | .afadd _ => some 0x66
  | .fence _ => some 0x67
  | .fenceAcq _ => some 0x67
  | .fenceRel _ => some 0x67
  | .ldacq _ => some 0x68
  | .strel _ => some 0x69
  | .pref _ => some 0x6A
  | .cwb _ => some 0x6B
  | .cinv _ => some 0x6C
  | .cinvI _ => some 0x6C
  | .ldnt _ => some 0x6D
  | .stnt _ => some 0x6E
  | .tidset _ => some 0x70
  | .tidget _ => some 0x71
  | .tidmodBase _ => some 0x72
  | .tidmodSbase _ => some 0x72
  | .tidmodSize _ => some 0x72
  | .tidmodStride _ => some 0x72
  | .tidmodValid _ => some 0x72
  | .tidmodAddbase _ => some 0x72
  | .tidchk _ => some 0x73
  | .pbind _ => some 0x74
  | .punbind _ => some 0x75
  | .pseek _ => some 0x76
  | .pstat _ => some 0x77
  | .pwin _ => some 0x78
  | .pxform _ => some 0x79
  | .cpy _ => some 0x7A
  | .cpys _ => some 0x7B
  | .cpyt _ => some 0x7C
  | .cpyq _ => some 0x7D
  | .cpyr _ => some 0x7E
  | .cpyw _ => some 0x7F
  | .barinit _ => some 0x80
  | .bararm _ => some 0x81
  | .barwait _ => some 0x82
  | .bartest _ => some 0x83
  | .bararr _ => some 0x84
  | .sptlook _ => some 0x85
  | .sptins _ => some 0x86
  | .sptevict _ => some 0x87
  | .sptread _ => some 0x88
  | .feset _ => some 0x89
  | .feclr _ => some 0x8A
  | .fetest _ => some 0x8B
  | .pflush _ => some 0x8C
  | .circ _ => some 0x8D
  | .mxmma _ => some 0x90
  | .mxzero _ => some 0x91
  | .mxldacc _ => some 0x92
  | .mxstacc _ => some 0x93
  | .mxwload _ => some 0x94
  | .mxwdrop _ => some 0x95
  | .mxwdropAll _ => some 0x95
  | .mxscale _ => some 0x96
  | .mxfmt _ => some 0x97
  | .mxchainOff _ => some 0x98
  | .mxchainScale _ => some 0x98
  | .mxchainBias _ => some 0x98
  | .mxchainResid _ => some 0x98
  | .mxchainAct _ => some 0x98
  | .mxchainClamp _ => some 0x98
  | .mxchainQnt _ => some 0x98
  | .mxskipOff _ => some 0x99
  | .mxskipOn _ => some 0x99
  | .mxskipRd _ => some 0x99
  | .mxwait _ => some 0x9A
  | .mxwaitAll _ => some 0x9A
  | .mxstat _ => some 0x9B
  | .mxstatSlot _ => some 0x9B
  | .mxstatZmask _ => some 0x9B
  | .mxstatSkipcnt _ => some 0x9B
  | .vadd _ => some 0xA0
  | .vsub _ => some 0xA1
  | .vmul _ => some 0xA2
  | .vfma _ => some 0xA3
  | .vfms _ => some 0xA4
  | .vdiv _ => some 0xA5
  | .vsqrt _ => some 0xA6
  | .vrsq _ => some 0xA7
  | .vrcp _ => some 0xA8
  | .vmin _ => some 0xA9
  | .vmax _ => some 0xAA
  | .vabs _ => some 0xAB
  | .vneg _ => some 0xAC
  | .vfn _ => some 0xAD
  | .vscaleb _ => some 0xAE
  | .vround _ => some 0xAF
  | .vclass _ => some 0xB0
  | .vcvtF2i _ => some 0xB1
  | .vcvtI2f _ => some 0xB1
  | .vcvtUi2f _ => some 0xB1
  | .vcvtF2bf _ => some 0xB1
  | .vcvtBf2f _ => some 0xB1
  | .vcvtF2h _ => some 0xB1
  | .vcvtH2f _ => some 0xB1
  | .vcvtF2e4 _ => some 0xB1
  | .vcvtE42f _ => some 0xB1
  | .vcvtF2e5 _ => some 0xB1
  | .vcvtE52f _ => some 0xB1
  | .vcvtF2i8 _ => some 0xB1
  | .vcvtI82f _ => some 0xB1
  | .vqntE4m3 _ => some 0xB2
  | .vqntBfp _ => some 0xB2
  | .vdqnt _ => some 0xB3
  | .vcmp _ => some 0xB4
  | .vsel _ => some 0xB5
  | .viadd _ => some 0xB6
  | .visub _ => some 0xB7
  | .vimul _ => some 0xB8
  | .vimad _ => some 0xB9
  | .vand _ => some 0xBA
  | .vor _ => some 0xBB
  | .vxor _ => some 0xBC
  | .vshl _ => some 0xBD
  | .vshr _ => some 0xBE
  | .vsra _ => some 0xBF
  | .vclz _ => some 0xC0
  | .vpopc _ => some 0xC1
  | .vred _ => some 0xC2
  | .vscan _ => some 0xC3
  | .vbcast _ => some 0xC4
  | .vbcastLane _ => some 0xC4
  | .vextr _ => some 0xC5
  | .vins _ => some 0xC6
  | .vperm _ => some 0xC7
  | .vrot _ => some 0xC8
  | .viota _ => some 0xC9
  | .vsort _ => some 0xCA
  | .vtopk _ => some 0xCB
  | .vgate _ => some 0xCC
  | .vgateRenorm _ => some 0xCC
  | .vhist _ => some 0xCD
  | .vprng _ => some 0xCE
  | .vprd _ => some 0xCF
  | .vpwr _ => some 0xD0
  | .vpcnt _ => some 0xD1
  | .vplogNz _ => some 0xD2
  | .vplogBit _ => some 0xD2
  | .vplogP2v _ => some 0xD2
  | .vmov _ => some 0xD3
  | .mgisect _ => some 0xE0
  | .mgunion _ => some 0xE1
  | .mgdiff _ => some 0xE2
  | .mgmerge _ => some 0xE3
  | .mgsteer _ => some 0xE4
  | .mgseq _ => some 0xE5
  | .mgstat _ => some 0xE6
  | .mgstatPart _ => some 0xE6
  | .mgstatLeaf _ => some 0xE6
  | .mgcfgPivot _ => some 0xE7
  | .mgcfgPread _ => some 0xE7
  | .mgcfgMark _ => some 0xE7
  | .screcBegin _ => some 0xE8
  | .screcEnd _ => some 0xE8
  | .scplay _ => some 0xE9
  | .scguard _ => some 0xEA
  | .scpatch _ => some 0xEA
  | .scinv _ => some 0xEB
  | .scstat _ => some 0xEB
  | .trap _ => some 0xEC
  | .eret _ => some 0xED
  | .eretSkip _ => some 0xED
  | .eretKill _ => some 0xED
  | .tlbinvPage _ => some 0xEE
  | .tlbinvAsid _ => some 0xEE
  | .tlbinvAll _ => some 0xEE
  | .asidset _ => some 0xEF
  | .ctxsave _ => some 0xF0
  | .ctxload _ => some 0xF1
  | .resume _ => some 0xF2
  | .drain _ => some 0xF3
  | .wfi _ => some 0xF4
  | .brk _ => some 0xF5
  | .memctlTag _ => some 0xF6
  | .memctlFmr _ => some 0xF6
  | .memctlRd _ => some 0xF6
  | .memctlWr _ => some 0xF6
  | .balloonAdd _ => some 0xF7
  | .balloonRem _ => some 0xF7
  | .balloonPri _ => some 0xF7
  | .qpost _ => some 0xF8
  | .pinit _ => some 0xF9
  | .irqCore _ => some 0xFA
  | .irqHost _ => some 0xFA
  | .walk _ => some 0xFB
  | .parseStep .. => none
  | .mismatchRecordWrite .. => none
  | .recoveryStep .. => none
  | .markArrival .. => none
  | .contextAged .. => none
  | .watchdog .. => none
  | .trapEntry => none
  | .interruptDelivery => none
  | .invocationStart .. => none
  | .engineQueueRoom .. => none
  | .invocationCommit .. => none
  | .ligatureTermFire => none
  | .portAccess .. => none
  | .generatorFaultDelivery => none
  | .circuitBeatArrival .. => none
  | .circuitLoss .. => none
  | .barwaitWake .. => none
  | .fullWaitWake .. => none
  | .sigwaitWake .. => none
  | .evwaitWake .. => none
  | .mxwaitWake .. => none
  | .peekWake .. => none
  | .wfiWake => none
  | .portQuiesceWake .. => none
  | .cutComplete => none
  | .regionDrainComplete .. => none
  | .scribeBindWrite .. => none
  | .bindRecordCheck .. => none
  | .groupRetire .. => none
  | .launchCompletion .. => none
  | .coalesceTimeExpiry .. => none
  | .doorbellWrite .. => none
  | .queueStateWrite .. => none
  | .nopPacket .. => none
  | .launchPacket .. => none
  | .bindPacket .. => none
  | .signalPacket .. => none
  | .waitPacket .. => none
  | .indirectPacket .. => none
  | .pinitPacket .. => none
  | .fencePacket .. => none
  | .recordPacket .. => none
  | .replayPacket .. => none
  | .queueHoldRelease .. => none
  | .queueLost .. => none
  | .scribeReset => none
  | .wellWriteback .. => none
  | .deferredLineWriteback .. => none
  | .heldWriteServed .. => none
  | .holdBudgetExpiry .. => none
  | .idleCompaction .. => none
  | .blotterKresRefill .. => none
  | .blotterReclaim .. => none
  | .blotterHwresDraw .. => none
  | .blotterHwresRefill .. => none
  | .replayCmd .. => none
  | .replayGuard .. => none
  | .replayEnd .. => none
  | .vfBindingWrite .. => none
  | .apertureRead .. => none
  | .apertureWrite .. => none
  | .kbootGo => none
  | .fwslotGo .. => none
  | .firmwareCheckDone .. => none
  | .kdoorWrite .. => none
  | .attestationGo => none
  | .attestationDone => none
  | .mctlWrite .. => none
  | .copyTraceControlWrite .. => none
  | .hostRegisterWrite .. => none
  | .relfelLinkFailure .. => none
  | .thermalGatingChange .. => none
  | .thermalTrip .. => none
  | .uncorrectableCoreError => none
  | .coldReset => none
  | .warmReset => none
  | .reservedOpcode .. => none
  | .pfBar2Access .. => none
  | .peerWindowAccess .. => none
  | .scribeRebalance .. => none
  | .scribeReloadComplete => none

/-- The canonical fields an instruction of the map carries (R48). -/
def Instr.ops? : Instr → Option Ops
  | .nop o => some o
  | .mov o => some o
  | .movi o => some o
  | .moviHi o => some o
  | .add o => some o
  | .sub o => some o
  | .addi o => some o
  | .mul o => some o
  | .mulh o => some o
  | .mulhu o => some o
  | .div o => some o
  | .divu o => some o
  | .rem o => some o
  | .remu o => some o
  | .and o => some o
  | .or o => some o
  | .xor o => some o
  | .andi o => some o
  | .ori o => some o
  | .xori o => some o
  | .shl o => some o
  | .shr o => some o
  | .sra o => some o
  | .shli o => some o
  | .shri o => some o
  | .srai o => some o
  | .rol o => some o
  | .slt o => some o
  | .sltu o => some o
  | .slti o => some o
  | .min o => some o
  | .max o => some o
  | .minu o => some o
  | .maxu o => some o
  | .clz o => some o
  | .ctz o => some o
  | .popc o => some o
  | .bswap o => some o
  | .ext o => some o
  | .ins o => some o
  | .sext o => some o
  | .lea o => some o
  | .cmpp o => some o
  | .beq o => some o
  | .bne o => some o
  | .blt o => some o
  | .bge o => some o
  | .bltu o => some o
  | .bgeu o => some o
  | .jmp o => some o
  | .jr o => some o
  | .call o => some o
  | .ret o => some o
  | .sel o => some o
  | .plog o => some o
  | .pmov o => some o
  | .pmovFrom o => some o
  | .pmovTo o => some o
  | .mfc o => some o
  | .mtc o => some o
  | .budget o => some o
  | .budgetSet o => some o
  | .aend o => some o
  | .fadd o => some o
  | .fmul o => some o
  | .fdiv o => some o
  | .fcvtF2i o => some o
  | .fcvtI2f o => some o
  | .fcvtU2f o => some o
  | .fcvtF2bf o => some o
  | .fcvtBf2f o => some o
  | .fcvtF2h o => some o
  | .fcvtH2f o => some o
  | .fcvtF2e4 o => some o
  | .fcvtE42f o => some o
  | .fcmp o => some o
  | .gpeek o => some o
  | .gskip o => some o
  | .gpush o => some o
  | .gpop o => some o
  | .gfstat o => some o
  | .gresume o => some o
  | .gresumeRecover o => some o
  | .markif o => some o
  | .markemit o => some o
  | .markemitR o => some o
  | .sigdec o => some o
  | .sigwait o => some o
  | .sigwaitPoll o => some o
  | .sigset o => some o
  | .ligcfgTerm o => some o
  | .ligcfgSrc o => some o
  | .ligcfgTread o => some o
  | .ligcntRd o => some o
  | .ligcntSet o => some o
  | .ligcntSub o => some o
  | .ligcntClrv o => some o
  | .ligfire o => some o
  | .gstate o => some o
  | .gstateStk o => some o
  | .evwait o => some o
  | .ld o => some o
  | .st o => some o
  | .ldx o => some o
  | .stx o => some o
  | .ldv o => some o
  | .stv o => some o
  | .ldg o => some o
  | .sct o => some o
  | .spld o => some o
  | .spst o => some o
  | .spldv o => some o
  | .spstv o => some o
  | .aadd o => some o
  | .aand o => some o
  | .aor o => some o
  | .axor o => some o
  | .amin o => some o
  | .amax o => some o
  | .aminu o => some o
  | .amaxu o => some o
  | .aswp o => some o
  | .acas o => some o
  | .afadd o => some o
  | .fence o => some o
  | .fenceAcq o => some o
  | .fenceRel o => some o
  | .ldacq o => some o
  | .strel o => some o
  | .pref o => some o
  | .cwb o => some o
  | .cinv o => some o
  | .cinvI o => some o
  | .ldnt o => some o
  | .stnt o => some o
  | .tidset o => some o
  | .tidget o => some o
  | .tidmodBase o => some o
  | .tidmodSbase o => some o
  | .tidmodSize o => some o
  | .tidmodStride o => some o
  | .tidmodValid o => some o
  | .tidmodAddbase o => some o
  | .tidchk o => some o
  | .pbind o => some o
  | .punbind o => some o
  | .pseek o => some o
  | .pstat o => some o
  | .pwin o => some o
  | .pxform o => some o
  | .cpy o => some o
  | .cpys o => some o
  | .cpyt o => some o
  | .cpyq o => some o
  | .cpyr o => some o
  | .cpyw o => some o
  | .barinit o => some o
  | .bararm o => some o
  | .barwait o => some o
  | .bartest o => some o
  | .bararr o => some o
  | .sptlook o => some o
  | .sptins o => some o
  | .sptevict o => some o
  | .sptread o => some o
  | .feset o => some o
  | .feclr o => some o
  | .fetest o => some o
  | .pflush o => some o
  | .circ o => some o
  | .mxmma o => some o
  | .mxzero o => some o
  | .mxldacc o => some o
  | .mxstacc o => some o
  | .mxwload o => some o
  | .mxwdrop o => some o
  | .mxwdropAll o => some o
  | .mxscale o => some o
  | .mxfmt o => some o
  | .mxchainOff o => some o
  | .mxchainScale o => some o
  | .mxchainBias o => some o
  | .mxchainResid o => some o
  | .mxchainAct o => some o
  | .mxchainClamp o => some o
  | .mxchainQnt o => some o
  | .mxskipOff o => some o
  | .mxskipOn o => some o
  | .mxskipRd o => some o
  | .mxwait o => some o
  | .mxwaitAll o => some o
  | .mxstat o => some o
  | .mxstatSlot o => some o
  | .mxstatZmask o => some o
  | .mxstatSkipcnt o => some o
  | .vadd o => some o
  | .vsub o => some o
  | .vmul o => some o
  | .vfma o => some o
  | .vfms o => some o
  | .vdiv o => some o
  | .vsqrt o => some o
  | .vrsq o => some o
  | .vrcp o => some o
  | .vmin o => some o
  | .vmax o => some o
  | .vabs o => some o
  | .vneg o => some o
  | .vfn o => some o
  | .vscaleb o => some o
  | .vround o => some o
  | .vclass o => some o
  | .vcvtF2i o => some o
  | .vcvtI2f o => some o
  | .vcvtUi2f o => some o
  | .vcvtF2bf o => some o
  | .vcvtBf2f o => some o
  | .vcvtF2h o => some o
  | .vcvtH2f o => some o
  | .vcvtF2e4 o => some o
  | .vcvtE42f o => some o
  | .vcvtF2e5 o => some o
  | .vcvtE52f o => some o
  | .vcvtF2i8 o => some o
  | .vcvtI82f o => some o
  | .vqntE4m3 o => some o
  | .vqntBfp o => some o
  | .vdqnt o => some o
  | .vcmp o => some o
  | .vsel o => some o
  | .viadd o => some o
  | .visub o => some o
  | .vimul o => some o
  | .vimad o => some o
  | .vand o => some o
  | .vor o => some o
  | .vxor o => some o
  | .vshl o => some o
  | .vshr o => some o
  | .vsra o => some o
  | .vclz o => some o
  | .vpopc o => some o
  | .vred o => some o
  | .vscan o => some o
  | .vbcast o => some o
  | .vbcastLane o => some o
  | .vextr o => some o
  | .vins o => some o
  | .vperm o => some o
  | .vrot o => some o
  | .viota o => some o
  | .vsort o => some o
  | .vtopk o => some o
  | .vgate o => some o
  | .vgateRenorm o => some o
  | .vhist o => some o
  | .vprng o => some o
  | .vprd o => some o
  | .vpwr o => some o
  | .vpcnt o => some o
  | .vplogNz o => some o
  | .vplogBit o => some o
  | .vplogP2v o => some o
  | .vmov o => some o
  | .mgisect o => some o
  | .mgunion o => some o
  | .mgdiff o => some o
  | .mgmerge o => some o
  | .mgsteer o => some o
  | .mgseq o => some o
  | .mgstat o => some o
  | .mgstatPart o => some o
  | .mgstatLeaf o => some o
  | .mgcfgPivot o => some o
  | .mgcfgPread o => some o
  | .mgcfgMark o => some o
  | .screcBegin o => some o
  | .screcEnd o => some o
  | .scplay o => some o
  | .scguard o => some o
  | .scpatch o => some o
  | .scinv o => some o
  | .scstat o => some o
  | .trap o => some o
  | .eret o => some o
  | .eretSkip o => some o
  | .eretKill o => some o
  | .tlbinvPage o => some o
  | .tlbinvAsid o => some o
  | .tlbinvAll o => some o
  | .asidset o => some o
  | .ctxsave o => some o
  | .ctxload o => some o
  | .resume o => some o
  | .drain o => some o
  | .wfi o => some o
  | .brk o => some o
  | .memctlTag o => some o
  | .memctlFmr o => some o
  | .memctlRd o => some o
  | .memctlWr o => some o
  | .balloonAdd o => some o
  | .balloonRem o => some o
  | .balloonPri o => some o
  | .qpost o => some o
  | .pinit o => some o
  | .irqCore o => some o
  | .irqHost o => some o
  | .walk o => some o
  | .parseStep .. => none
  | .mismatchRecordWrite .. => none
  | .recoveryStep .. => none
  | .markArrival .. => none
  | .contextAged .. => none
  | .watchdog .. => none
  | .trapEntry => none
  | .interruptDelivery => none
  | .invocationStart .. => none
  | .engineQueueRoom .. => none
  | .invocationCommit .. => none
  | .ligatureTermFire => none
  | .portAccess .. => none
  | .generatorFaultDelivery => none
  | .circuitBeatArrival .. => none
  | .circuitLoss .. => none
  | .barwaitWake .. => none
  | .fullWaitWake .. => none
  | .sigwaitWake .. => none
  | .evwaitWake .. => none
  | .mxwaitWake .. => none
  | .peekWake .. => none
  | .wfiWake => none
  | .portQuiesceWake .. => none
  | .cutComplete => none
  | .regionDrainComplete .. => none
  | .scribeBindWrite .. => none
  | .bindRecordCheck .. => none
  | .groupRetire .. => none
  | .launchCompletion .. => none
  | .coalesceTimeExpiry .. => none
  | .doorbellWrite .. => none
  | .queueStateWrite .. => none
  | .nopPacket .. => none
  | .launchPacket .. => none
  | .bindPacket .. => none
  | .signalPacket .. => none
  | .waitPacket .. => none
  | .indirectPacket .. => none
  | .pinitPacket .. => none
  | .fencePacket .. => none
  | .recordPacket .. => none
  | .replayPacket .. => none
  | .queueHoldRelease .. => none
  | .queueLost .. => none
  | .scribeReset => none
  | .wellWriteback .. => none
  | .deferredLineWriteback .. => none
  | .heldWriteServed .. => none
  | .holdBudgetExpiry .. => none
  | .idleCompaction .. => none
  | .blotterKresRefill .. => none
  | .blotterReclaim .. => none
  | .blotterHwresDraw .. => none
  | .blotterHwresRefill .. => none
  | .replayCmd .. => none
  | .replayGuard .. => none
  | .replayEnd .. => none
  | .vfBindingWrite .. => none
  | .apertureRead .. => none
  | .apertureWrite .. => none
  | .kbootGo => none
  | .fwslotGo .. => none
  | .firmwareCheckDone .. => none
  | .kdoorWrite .. => none
  | .attestationGo => none
  | .attestationDone => none
  | .mctlWrite .. => none
  | .copyTraceControlWrite .. => none
  | .hostRegisterWrite .. => none
  | .relfelLinkFailure .. => none
  | .thermalGatingChange .. => none
  | .thermalTrip .. => none
  | .uncorrectableCoreError => none
  | .coldReset => none
  | .warmReset => none
  | .reservedOpcode .. => none
  | .pfBar2Access .. => none
  | .peerWindowAccess .. => none
  | .scribeRebalance .. => none
  | .scribeReloadComplete => none

/-- What a row of the map fixes of the qualifier or the modifier (R71 and the encoding tables). -/
def Instr.fixes : Instr → Sub
  | .nop _ => .any
  | .mov _ => .any
  | .movi _ => .q 0
  | .moviHi _ => .q 1
  | .add _ => .any
  | .sub _ => .any
  | .addi _ => .any
  | .mul _ => .any
  | .mulh _ => .any
  | .mulhu _ => .any
  | .div _ => .any
  | .divu _ => .any
  | .rem _ => .any
  | .remu _ => .any
  | .and _ => .any
  | .or _ => .any
  | .xor _ => .any
  | .andi _ => .any
  | .ori _ => .any
  | .xori _ => .any
  | .shl _ => .any
  | .shr _ => .any
  | .sra _ => .any
  | .shli _ => .any
  | .shri _ => .any
  | .srai _ => .any
  | .rol _ => .any
  | .slt _ => .any
  | .sltu _ => .any
  | .slti _ => .any
  | .min _ => .any
  | .max _ => .any
  | .minu _ => .any
  | .maxu _ => .any
  | .clz _ => .any
  | .ctz _ => .any
  | .popc _ => .any
  | .bswap _ => .any
  | .ext _ => .any
  | .ins _ => .any
  | .sext _ => .any
  | .lea _ => .any
  | .cmpp _ => .any
  | .beq _ => .any
  | .bne _ => .any
  | .blt _ => .any
  | .bge _ => .any
  | .bltu _ => .any
  | .bgeu _ => .any
  | .jmp _ => .any
  | .jr _ => .any
  | .call _ => .any
  | .ret _ => .any
  | .sel _ => .any
  | .plog _ => .any
  | .pmov _ => .m 0
  | .pmovFrom _ => .m 1
  | .pmovTo _ => .m 2
  | .mfc _ => .any
  | .mtc _ => .any
  | .budget _ => .q 0
  | .budgetSet _ => .q 1
  | .aend _ => .any
  | .fadd _ => .any
  | .fmul _ => .any
  | .fdiv _ => .any
  | .fcvtF2i _ => .m 0
  | .fcvtI2f _ => .m 1
  | .fcvtU2f _ => .m 2
  | .fcvtF2bf _ => .m 3
  | .fcvtBf2f _ => .m 4
  | .fcvtF2h _ => .m 5
  | .fcvtH2f _ => .m 6
  | .fcvtF2e4 _ => .m 7
  | .fcvtE42f _ => .m 8
  | .fcmp _ => .any
  | .gpeek _ => .any
  | .gskip _ => .any
  | .gpush _ => .any
  | .gpop _ => .any
  | .gfstat _ => .any
  | .gresume _ => .q 0
  | .gresumeRecover _ => .q 1
  | .markif _ => .any
  | .markemit _ => .q 0
  | .markemitR _ => .q 1
  | .sigdec _ => .any
  | .sigwait _ => .m 0
  | .sigwaitPoll _ => .m 1
  | .sigset _ => .any
  | .ligcfgTerm _ => .q 0
  | .ligcfgSrc _ => .q 1
  | .ligcfgTread _ => .q 2
  | .ligcntRd _ => .q 0
  | .ligcntSet _ => .q 1
  | .ligcntSub _ => .q 2
  | .ligcntClrv _ => .q 3
  | .ligfire _ => .any
  | .gstate _ => .q 0
  | .gstateStk _ => .q 1
  | .evwait _ => .any
  | .ld _ => .any
  | .st _ => .any
  | .ldx _ => .any
  | .stx _ => .any
  | .ldv _ => .any
  | .stv _ => .any
  | .ldg _ => .any
  | .sct _ => .any
  | .spld _ => .any
  | .spst _ => .any
  | .spldv _ => .any
  | .spstv _ => .any
  | .aadd _ => .any
  | .aand _ => .any
  | .aor _ => .any
  | .axor _ => .any
  | .amin _ => .any
  | .amax _ => .any
  | .aminu _ => .any
  | .amaxu _ => .any
  | .aswp _ => .any
  | .acas _ => .any
  | .afadd _ => .any
  | .fence _ => .m 0
  | .fenceAcq _ => .m 1
  | .fenceRel _ => .m 2
  | .ldacq _ => .any
  | .strel _ => .any
  | .pref _ => .any
  | .cwb _ => .any
  | .cinv _ => .q 0
  | .cinvI _ => .q 1
  | .ldnt _ => .any
  | .stnt _ => .any
  | .tidset _ => .any
  | .tidget _ => .any
  | .tidmodBase _ => .q 0
  | .tidmodSbase _ => .q 1
  | .tidmodSize _ => .q 2
  | .tidmodStride _ => .q 3
  | .tidmodValid _ => .q 4
  | .tidmodAddbase _ => .q 5
  | .tidchk _ => .any
  | .pbind _ => .any
  | .punbind _ => .any
  | .pseek _ => .any
  | .pstat _ => .any
  | .pwin _ => .any
  | .pxform _ => .any
  | .cpy _ => .any
  | .cpys _ => .any
  | .cpyt _ => .any
  | .cpyq _ => .any
  | .cpyr _ => .any
  | .cpyw _ => .any
  | .barinit _ => .any
  | .bararm _ => .any
  | .barwait _ => .any
  | .bartest _ => .any
  | .bararr _ => .any
  | .sptlook _ => .any
  | .sptins _ => .any
  | .sptevict _ => .any
  | .sptread _ => .any
  | .feset _ => .any
  | .feclr _ => .any
  | .fetest _ => .any
  | .pflush _ => .any
  | .circ _ => .any
  | .mxmma _ => .any
  | .mxzero _ => .any
  | .mxldacc _ => .any
  | .mxstacc _ => .any
  | .mxwload _ => .any
  | .mxwdrop _ => .q 0
  | .mxwdropAll _ => .q 1
  | .mxscale _ => .any
  | .mxfmt _ => .any
  | .mxchainOff _ => .q 0
  | .mxchainScale _ => .q 1
  | .mxchainBias _ => .q 2
  | .mxchainResid _ => .q 3
  | .mxchainAct _ => .q 4
  | .mxchainClamp _ => .q 5
  | .mxchainQnt _ => .q 6
  | .mxskipOff _ => .q 0
  | .mxskipOn _ => .q 1
  | .mxskipRd _ => .q 2
  | .mxwait _ => .q 0
  | .mxwaitAll _ => .q 1
  | .mxstat _ => .q 0
  | .mxstatSlot _ => .q 1
  | .mxstatZmask _ => .q 2
  | .mxstatSkipcnt _ => .q 3
  | .vadd _ => .any
  | .vsub _ => .any
  | .vmul _ => .any
  | .vfma _ => .any
  | .vfms _ => .any
  | .vdiv _ => .any
  | .vsqrt _ => .any
  | .vrsq _ => .any
  | .vrcp _ => .any
  | .vmin _ => .any
  | .vmax _ => .any
  | .vabs _ => .any
  | .vneg _ => .any
  | .vfn _ => .any
  | .vscaleb _ => .any
  | .vround _ => .any
  | .vclass _ => .any
  | .vcvtF2i _ => .m 0
  | .vcvtI2f _ => .m 1
  | .vcvtUi2f _ => .m 2
  | .vcvtF2bf _ => .m 3
  | .vcvtBf2f _ => .m 4
  | .vcvtF2h _ => .m 5
  | .vcvtH2f _ => .m 6
  | .vcvtF2e4 _ => .m 7
  | .vcvtE42f _ => .m 8
  | .vcvtF2e5 _ => .m 9
  | .vcvtE52f _ => .m 10
  | .vcvtF2i8 _ => .m 11
  | .vcvtI82f _ => .m 12
  | .vqntE4m3 _ => .q 3
  | .vqntBfp _ => .qFrom 8
  | .vdqnt _ => .any
  | .vcmp _ => .any
  | .vsel _ => .any
  | .viadd _ => .any
  | .visub _ => .any
  | .vimul _ => .any
  | .vimad _ => .any
  | .vand _ => .any
  | .vor _ => .any
  | .vxor _ => .any
  | .vshl _ => .any
  | .vshr _ => .any
  | .vsra _ => .any
  | .vclz _ => .any
  | .vpopc _ => .any
  | .vred _ => .any
  | .vscan _ => .any
  | .vbcast _ => .m 0
  | .vbcastLane _ => .m 1
  | .vextr _ => .any
  | .vins _ => .any
  | .vperm _ => .any
  | .vrot _ => .any
  | .viota _ => .any
  | .vsort _ => .any
  | .vtopk _ => .any
  | .vgate _ => .q 0
  | .vgateRenorm _ => .q 1
  | .vhist _ => .any
  | .vprng _ => .any
  | .vprd _ => .any
  | .vpwr _ => .any
  | .vpcnt _ => .any
  | .vplogNz _ => .m 0
  | .vplogBit _ => .m 1
  | .vplogP2v _ => .m 2
  | .vmov _ => .any
  | .mgisect _ => .any
  | .mgunion _ => .any
  | .mgdiff _ => .any
  | .mgmerge _ => .any
  | .mgsteer _ => .any
  | .mgseq _ => .any
  | .mgstat _ => .q 0
  | .mgstatPart _ => .q 1
  | .mgstatLeaf _ => .q 2
  | .mgcfgPivot _ => .q 0
  | .mgcfgPread _ => .q 1
  | .mgcfgMark _ => .q 2
  | .screcBegin _ => .m 0
  | .screcEnd _ => .m 1
  | .scplay _ => .any
  | .scguard _ => .m 0
  | .scpatch _ => .m 1
  | .scinv _ => .m 0
  | .scstat _ => .m 1
  | .trap _ => .any
  | .eret _ => .m 0
  | .eretSkip _ => .m 1
  | .eretKill _ => .m 2
  | .tlbinvPage _ => .m 0
  | .tlbinvAsid _ => .m 1
  | .tlbinvAll _ => .m 2
  | .asidset _ => .any
  | .ctxsave _ => .any
  | .ctxload _ => .any
  | .resume _ => .any
  | .drain _ => .any
  | .wfi _ => .any
  | .brk _ => .any
  | .memctlTag _ => .q 0
  | .memctlFmr _ => .q 1
  | .memctlRd _ => .q 2
  | .memctlWr _ => .q 3
  | .balloonAdd _ => .q 0
  | .balloonRem _ => .q 1
  | .balloonPri _ => .q 2
  | .qpost _ => .any
  | .pinit _ => .any
  | .irqCore _ => .q 0
  | .irqHost _ => .q 1
  | .walk _ => .any
  | .parseStep .. => .any
  | .mismatchRecordWrite .. => .any
  | .recoveryStep .. => .any
  | .markArrival .. => .any
  | .contextAged .. => .any
  | .watchdog .. => .any
  | .trapEntry => .any
  | .interruptDelivery => .any
  | .invocationStart .. => .any
  | .engineQueueRoom .. => .any
  | .invocationCommit .. => .any
  | .ligatureTermFire => .any
  | .portAccess .. => .any
  | .generatorFaultDelivery => .any
  | .circuitBeatArrival .. => .any
  | .circuitLoss .. => .any
  | .barwaitWake .. => .any
  | .fullWaitWake .. => .any
  | .sigwaitWake .. => .any
  | .evwaitWake .. => .any
  | .mxwaitWake .. => .any
  | .peekWake .. => .any
  | .wfiWake => .any
  | .portQuiesceWake .. => .any
  | .cutComplete => .any
  | .regionDrainComplete .. => .any
  | .scribeBindWrite .. => .any
  | .bindRecordCheck .. => .any
  | .groupRetire .. => .any
  | .launchCompletion .. => .any
  | .coalesceTimeExpiry .. => .any
  | .doorbellWrite .. => .any
  | .queueStateWrite .. => .any
  | .nopPacket .. => .any
  | .launchPacket .. => .any
  | .bindPacket .. => .any
  | .signalPacket .. => .any
  | .waitPacket .. => .any
  | .indirectPacket .. => .any
  | .pinitPacket .. => .any
  | .fencePacket .. => .any
  | .recordPacket .. => .any
  | .replayPacket .. => .any
  | .queueHoldRelease .. => .any
  | .queueLost .. => .any
  | .scribeReset => .any
  | .wellWriteback .. => .any
  | .deferredLineWriteback .. => .any
  | .heldWriteServed .. => .any
  | .holdBudgetExpiry .. => .any
  | .idleCompaction .. => .any
  | .blotterKresRefill .. => .any
  | .blotterReclaim .. => .any
  | .blotterHwresDraw .. => .any
  | .blotterHwresRefill .. => .any
  | .replayCmd .. => .any
  | .replayGuard .. => .any
  | .replayEnd .. => .any
  | .vfBindingWrite .. => .any
  | .apertureRead .. => .any
  | .apertureWrite .. => .any
  | .kbootGo => .any
  | .fwslotGo .. => .any
  | .firmwareCheckDone .. => .any
  | .kdoorWrite .. => .any
  | .attestationGo => .any
  | .attestationDone => .any
  | .mctlWrite .. => .any
  | .copyTraceControlWrite .. => .any
  | .hostRegisterWrite .. => .any
  | .relfelLinkFailure .. => .any
  | .thermalGatingChange .. => .any
  | .thermalTrip .. => .any
  | .uncorrectableCoreError => .any
  | .coldReset => .any
  | .warmReset => .any
  | .reservedOpcode .. => .any
  | .pfBar2Access .. => .any
  | .peerWindowAccess .. => .any
  | .scribeRebalance .. => .any
  | .scribeReloadComplete => .any
end Sys2Proof
end

