-- ==== Sys2Proof/Machine/Encoding.lean ====
section
/-! DEFINITION. The encoding tables of the manual: the fields each opcode uses, the values they admit, and the order in which breaches are found (R53, R59, R62 to R68, and the encoding table of each chapter). -/

namespace Sys2Proof

/-- The class a register field holds (R59). `u`: unused, a nonzero value has DETAIL 0. `z`: unused by a subfunction of TLBINV, DETAIL 2 (R316).
`pd`: a predicate destination, p0 refused. `any`: the class depends on a Q or M value that is not admitted, so the field is not tested (R68). -/
inductive Cls where
  | u | z | s | v | p | pd | acc | t | port | ev | any
  deriving DecidableEq, Repr

/-- The DETAIL with which a field value breaks its class, none when it does not (R58, R59). -/
def Cls.breach (c : Cls) (x : Nat) : Option Nat :=
  match c with
  | .u => if x = 0 then none else some 0
  | .z => if x = 0 then none else some 2
  | .s | .t | .any => none
  | .v => if x < 32 then none else some 1
  | .p | .port => if x < 8 then none else some 1
  | .pd => if x = 0 then some 4 else if x < 8 then none else some 1
  | .acc => if x < 4 then none else some 1
  | .ev => if x < 16 then none else some 1

/-- The immediate of an instruction: none, or a width and a signedness (R53). -/
inductive ImmKind where
  | none
  | signed (w : Nat)
  | unsigned (w : Nat)
  deriving DecidableEq, Repr

/-- The DETAIL with which an immediate breaks its width: 0 for an unused field, 3 for a value outside the width (R53, R58). -/
def ImmKind.breach (k : ImmKind) (imm : BitVec 48) : Option Nat :=
  match k with
  | .none => if imm = 0#48 then Option.none else some 0
  | .signed w => if (BitVec.ofNat w imm.toNat).signExtend 48 = imm then Option.none else some 3
  | .unsigned w => if imm.toNat < 2 ^ w then Option.none else some 3

/-- The fields of one opcode. `q` and `m` hold the admitted values as a mask, none for an unused field. -/
structure FieldForm where
  d : Cls
  a : Cls
  b : Cls
  c : Cls
  q : Option Nat
  m : Option Nat
  imm : ImmKind
  deriving DecidableEq, Repr

/-- A value against the mask of admitted values: DETAIL 0 for a nonzero unused field, 2 for a value not admitted. -/
def maskBreach (mask : Option Nat) (x : Nat) : Option Nat :=
  match mask with
  | none => if x = 0 then none else some 0
  | some k => if k.testBit x then none else some 2

/-- D, A scalars and an immediate. -/
def formDA (q : Option Nat) (i : ImmKind) : FieldForm := ⟨.s, .s, .u, .u, q, none, i⟩
/-- D, A, B scalars. -/
def formDAB (q m : Option Nat) (i : ImmKind) : FieldForm := ⟨.s, .s, .s, .u, q, m, i⟩

/-- Width codes of a load (R63). -/
def widthsLoad : Option Nat := some 0xEF
/-- Width codes of a form that does not extend (R63). -/
def widthsStore : Option Nat := some 0xF
/-- Scope codes (R64). -/
def scopes : Option Nat := some 0x1F
/-- Rounding codes (R96). -/
def roundings : Option Nat := some 0xF
/-- Integer condition codes (R65). -/
def condsInt : Nat := 0x3FF
/-- Floating condition codes (R65). -/
def condsFloat : Nat := 0xCCF
/-- Target qualifiers of R278: at U-level M must be 0. -/
def targets (kLevel : Bool) : Option Nat := some (if kLevel then 0x1F else 0x1)

/-- Opcodes 0x00 to 0x1F (R248). -/
def form01 (lo q : Nat) : Option FieldForm :=
  match lo with
  | 0x00 => some ⟨.u, .u, .u, .u, none, none, .none⟩
  | 0x01 => some (formDA none .none)
  | 0x02 => some ⟨.s, .u, .u, .u, some 3, none, if q = 1 then .unsigned 32 else .signed 48⟩
  | 0x03 | 0x04 | 0x06 | 0x07 | 0x08 | 0x09 | 0x0A | 0x0B | 0x0C | 0x0D | 0x0E | 0x0F => some (formDAB none none .none)
  | 0x05 | 0x10 | 0x11 | 0x12 => some (formDA none (.signed 48))
  | 0x13 | 0x14 | 0x15 | 0x1A | 0x1B | 0x1D | 0x1E | 0x1F => some (formDAB none none .none)
  | 0x16 | 0x17 | 0x18 => some (formDA none (.unsigned 6))
  | 0x19 => some (formDAB none none (.unsigned 6))
  | 0x1C => some (formDA none (.signed 48))
  | _ => none

/-- Opcodes 0x20 to 0x3F (R248). -/
def form23 (lo q m : Nat) : Option FieldForm :=
  match lo with
  | 0x00 => some (formDAB none none .none)
  | 0x01 | 0x02 | 0x03 => some (formDA none .none)
  | 0x04 => some (formDA (some 0x7) .none)
  | 0x05 => some (formDA (some 0x3) (.unsigned 12))
  | 0x06 => some (formDA none (.unsigned 12))
  | 0x07 => some (formDA widthsLoad .none)
  | 0x08 => some (formDAB (some 0x1F) none (.signed 48))
  | 0x09 => some ⟨.pd, .s, .s, .u, some condsInt, none, .signed 48⟩
  | 0x0A | 0x0B | 0x0C | 0x0D | 0x0E | 0x0F => some ⟨.u, .s, .s, .u, none, none, .signed 48⟩
  | 0x10 => some ⟨.u, .u, .u, .u, none, none, .signed 48⟩
  | 0x11 => some ⟨.u, .s, .u, .u, none, none, .signed 48⟩
  | 0x12 => some ⟨.s, .u, .u, .u, none, none, .signed 48⟩
  | 0x13 => some ⟨.u, .s, .u, .u, none, none, .none⟩
  | 0x14 => some ⟨.s, .s, .s, .p, none, none, .none⟩
  | 0x15 => some ⟨.pd, .p, .p, .u, some 0xFF, none, .none⟩
  | 0x16 =>
    match m with
    | 0 => some ⟨.pd, .p, .u, .u, none, some 7, .none⟩
    | 1 => some ⟨.pd, .s, .u, .u, none, some 7, .unsigned 2⟩
    | 2 => some ⟨.s, .p, .u, .u, none, some 7, .unsigned 2⟩
    | _ => some ⟨.any, .any, .u, .u, none, some 7, .unsigned 2⟩
  | 0x17 => some ⟨.s, .u, .u, .u, none, none, .unsigned 12⟩
  | 0x18 => some ⟨.u, .s, .u, .u, none, none, .unsigned 12⟩
  | 0x19 =>
    match q with
    | 0 => some ⟨.s, .u, .u, .u, some 3, none, .none⟩
    | 1 => some ⟨.u, .s, .u, .u, some 3, none, .unsigned 32⟩
    | _ => some ⟨.any, .any, .u, .u, some 3, none, .none⟩
  | 0x1A => some ⟨.u, .u, .u, .u, none, none, .none⟩
  | 0x1B | 0x1C | 0x1D => some (formDAB roundings none .none)
  | 0x1E => some ⟨.s, .s, .u, .u, roundings, some 0x1FF, .none⟩
  | 0x1F => some ⟨.pd, .s, .s, .u, some condsFloat, none, .none⟩
  | _ => none

/-- Opcodes 0x40 to 0x4F (R276, R278). -/
def form4 (kLevel : Bool) (lo q : Nat) : Option FieldForm :=
  match lo with
  | 0x0 => some ⟨.s, .u, .u, .u, some 3, targets kLevel, .unsigned 5⟩
  | 0x1 => some ⟨.s, .s, .u, .u, some 3, targets kLevel, .unsigned 5⟩
  | 0x2 => some ⟨.s, .s, .u, .u, some 3, targets kLevel, .unsigned 10⟩
  | 0x3 => some ⟨.s, .u, .u, .u, none, targets kLevel, .unsigned 7⟩
  | 0x4 => some ⟨.s, .u, .u, .u, none, targets kLevel, .unsigned 2⟩
  | 0x5 => some ⟨.s, .u, .u, .u, some 3, targets kLevel, .none⟩
  | 0x6 => some ⟨.u, .p, .u, .u, some 3, none, .unsigned 8⟩
  | 0x7 =>
    match q with
    | 0 => some ⟨.s, .u, .u, .u, some 3, targets kLevel, .unsigned 16⟩
    | 1 => some ⟨.s, .s, .u, .u, some 3, targets kLevel, .unsigned 16⟩
    | _ => some ⟨.s, .any, .u, .u, some 3, targets kLevel, .unsigned 16⟩
  | 0x8 | 0xA => some (formDAB scopes none (.signed 48))
  | 0x9 => some (formDAB scopes (some 3) (.signed 48))
  | 0xB =>
    match q with
    | 0 => some ⟨.s, .s, .s, .u, some 7, none, .unsigned 10⟩
    | 1 => some ⟨.s, .s, .u, .u, some 7, none, .unsigned 10⟩
    | 2 => some ⟨.s, .u, .u, .u, some 7, none, .unsigned 10⟩
    | _ => some ⟨.s, .any, .any, .u, some 7, none, .unsigned 10⟩
  | 0xC =>
    match q with
    | 0 | 3 => some ⟨.s, .ev, .u, .u, some 0xF, none, .none⟩
    | 1 | 2 => some ⟨.s, .ev, .s, .u, some 0xF, none, .none⟩
    | _ => some ⟨.s, .ev, .any, .u, some 0xF, none, .none⟩
  | 0xD => some ⟨.ev, .u, .s, .u, none, none, .unsigned 16⟩
  | 0xE => some ⟨.s, .u, .u, .u, some 3, targets kLevel, .unsigned 6⟩
  | 0xF => some ⟨.u, .ev, .s, .u, some 3, none, .unsigned 16⟩
  | _ => none

/-- Opcodes 0x50 to 0x6F (R202, R214, R218 to R222). -/
def form56 (lo : Nat) : Option FieldForm :=
  match lo with
  | 0x00 | 0x1D => some (formDA widthsLoad (.signed 48))
  | 0x01 | 0x09 | 0x1E => some (formDA widthsStore (.signed 48))
  | 0x02 => some (formDAB widthsLoad none (.signed 48))
  | 0x03 => some (formDAB widthsStore none (.signed 48))
  | 0x04 | 0x05 | 0x0B => some ⟨.v, .s, .u, .u, none, none, .signed 48⟩
  | 0x06 | 0x07 => some ⟨.v, .s, .v, .u, none, none, .signed 48⟩
  | 0x08 => some ⟨.s, .s, .u, .u, widthsLoad, some 0xF, .signed 48⟩
  | 0x0A => some ⟨.v, .s, .u, .u, none, some 0xF, .signed 48⟩
  | 0x0C | 0x0D | 0x0E | 0x0F | 0x10 | 0x11 | 0x12 | 0x13 | 0x14 => some (formDAB scopes (some 0xFF) (.signed 48))
  | 0x15 => some ⟨.s, .s, .s, .s, scopes, some 0xCCFF, .signed 48⟩
  | 0x16 => some (formDAB scopes (some 0xAA) (.signed 48))
  | 0x17 => some ⟨.u, .u, .u, .u, scopes, some 7, .none⟩
  | 0x18 => some ⟨.s, .s, .u, .u, widthsLoad, scopes, .signed 48⟩
  | 0x19 => some ⟨.s, .s, .u, .u, widthsStore, scopes, .signed 48⟩
  | 0x1A => some ⟨.u, .s, .u, .u, some 7, none, .signed 48⟩
  | 0x1B => some ⟨.u, .s, .s, .u, none, none, .unsigned 32⟩
  | 0x1C => some ⟨.u, .s, .s, .u, some 3, none, .unsigned 32⟩
  | _ => none

/-- Opcodes 0x70 to 0x7F (R170, R172, R175, R178, R182). -/
def form7 (lo q : Nat) : Option FieldForm :=
  match lo with
  | 0x0 | 0x1 => some ⟨.t, .s, .u, .u, none, none, .signed 32⟩
  | 0x2 => some ⟨.t, .s, .u, .u, some 0x3F, none, if q = 2 ∨ q = 3 then .unsigned 3 else .none⟩
  | 0x3 => some ⟨.s, .t, .u, .u, none, none, .none⟩
  | 0x4 => some ⟨.port, .t, .u, .u, some 7, some (if q = 2 then 0xF else 0x11), .none⟩
  | 0x5 => some ⟨.port, .u, .u, .u, none, none, .none⟩
  | 0x6 => some ⟨.port, .s, .s, .u, some 0x3F, none, .none⟩
  | 0x7 => some ⟨.s, .port, .u, .u, none, none, .none⟩
  | 0x8 => some ⟨.s, .port, .u, .u, none, some 3, .unsigned 3⟩
  | 0x9 => some ⟨.port, .s, .u, .u, some 0x3F, none, .none⟩
  | 0xA | 0xC => some ⟨.port, .port, .s, .u, some 0x101, none, .none⟩
  | 0xB => some ⟨.s, .s, .s, .s, some 0xF0F, none, .unsigned 3⟩
  | 0xD => some ⟨.port, .port, .s, .port, some 0x303, none, .none⟩
  | 0xE => some ⟨.s, .s, .s, .u, some 0x101, none, .unsigned 3⟩
  | 0xF => some ⟨.u, .s, .s, .u, some 0x101, none, .unsigned 3⟩
  | _ => none

/-- Opcodes 0x80 to 0x8D (R170). -/
def form8 (lo : Nat) : Option FieldForm :=
  match lo with
  | 0x0 | 0x1 | 0x4 => some ⟨.u, .s, .s, .u, none, none, .unsigned 31⟩
  | 0x2 => some ⟨.u, .s, .s, .u, none, none, .unsigned 1⟩
  | 0x3 => some (formDAB none none (.unsigned 1))
  | 0x5 | 0x7 | 0x8 | 0xB => some (formDA none .none)
  | 0x6 => some (formDAB (some 3) none .none)
  | 0x9 | 0xA => some ⟨.u, .s, .s, .u, none, none, .unsigned 22⟩
  | 0xC => some ⟨.port, .u, .u, .u, some 3, none, .none⟩
  | 0xD => some ⟨.port, .s, .s, .u, none, none, .unsigned 8⟩
  | _ => none

/-- Opcodes 0x90 to 0x9B (R347). -/
def form9 (lo q m : Nat) : Option FieldForm :=
  match lo with
  | 0x0 => some ⟨.acc, if 8 ≤ m then .any else if m % 2 = 1 then .s else .port, .s, .s, none, some 0xFF, .unsigned 14⟩
  | 0x1 => some ⟨.acc, .u, .u, .u, some 3, some 0x11, .none⟩
  | 0x2 => some ⟨.acc, .s, .u, .u, some 3, some 0x11, .none⟩
  | 0x3 => some ⟨if 8 ≤ m then .any else if m % 2 = 1 then .s else .port, .acc, .s, .u, roundings, some 0xFF, .none⟩
  | 0x4 => some ⟨.u, .port, .s, .s, none, some 0x33, .unsigned 5⟩
  | 0x5 =>
    match q with
    | 0 => some ⟨.u, .s, .u, .u, some 3, none, .unsigned 5⟩
    | 1 => some ⟨.u, .u, .u, .u, some 3, none, .none⟩
    | _ => some ⟨.u, .any, .u, .u, some 3, none, .none⟩
  | 0x6 => some ⟨.acc, .v, .u, .u, none, some 0x11, .none⟩
  | 0x7 => some ⟨.u, .s, .u, .u, some 0x7FDE, none, .none⟩
  | 0x8 => some ⟨.u, .s, .s, .u, some 0x7F, none, .unsigned 3⟩
  | 0x9 => some ⟨.s, .u, .u, .u, some 7, none, .none⟩
  | 0xA => some ⟨.u, .u, .u, .u, some 3, none, .none⟩
  | 0xB => some ⟨.s, .u, .u, .u, some 0xF, none, if q = 0 ∨ q = 3 then .none else .unsigned 5⟩
  | _ => none

/-- The class of B in the vector forms with .S (R369). -/
def clsBS (m : Nat) : Cls := if m = 0 then .v else if m = 1 then .s else .any

/-- Opcodes 0xA0 to 0xBF (R369, R377, R378). -/
def formAB (lo q m : Nat) : Option FieldForm :=
  match lo with
  | 0x00 | 0x01 | 0x02 | 0x03 | 0x04 | 0x05 => some ⟨.v, .v, clsBS m, .u, roundings, some 3, .none⟩
  | 0x06 | 0x0F => some ⟨.v, .v, .u, .u, roundings, none, .none⟩
  | 0x07 | 0x08 | 0x0B | 0x0C | 0x10 => some ⟨.v, .v, .u, .u, none, none, .none⟩
  | 0x09 | 0x0A => some ⟨.v, .v, clsBS m, .u, some 1, some 3, .none⟩
  | 0x0D => some ⟨.v, .v, .u, .u, some 0x7F, none, .none⟩
  | 0x0E => some ⟨.v, .v, .v, .u, roundings, none, .signed 16⟩
  | 0x11 => some ⟨.v, .v, .u, .u, some (if m = 9 then 0xFF else 0xF), some 0x1FFF, .unsigned 2⟩
  | 0x12 => some ⟨.v, .v, .u, .s, some 0x7F08, some (if q = 3 then 1 else 3), .unsigned 2⟩
  | 0x13 => some ⟨.v, .v, .u, .s, some 0x7F08, none, .unsigned 2⟩
  | 0x14 => some ⟨.pd, .v, .v, .u, some (if m = 0 then condsFloat else if m = 1 then condsInt else 0xFFF), some 3, .none⟩
  | 0x15 => some ⟨.v, .v, .v, .p, none, none, .none⟩
  | 0x16 | 0x17 | 0x18 => some ⟨.v, .v, clsBS m, .u, some 7, some 3, .none⟩
  | 0x19 | 0x1A | 0x1B | 0x1C => some ⟨.v, .v, clsBS m, .u, none, some 3, .none⟩
  | 0x1D | 0x1E | 0x1F =>
    some ⟨.v, .v, if m = 0 then .v else if m = 1 then .u else .any, .u, none, some 3, if m = 1 then .unsigned 5 else .none⟩
  | _ => none

/-- Opcodes 0xC0 to 0xD3 (R369). -/
def formCD (lo m : Nat) : Option FieldForm :=
  match lo with
  | 0x00 | 0x01 | 0x13 => some ⟨.v, .v, .u, .u, none, none, .none⟩
  | 0x02 => some ⟨.s, .v, .u, .u, some 0xFFF, none, .none⟩
  | 0x03 => some ⟨.v, .v, .u, .u, some 0xFFF, none, .none⟩
  | 0x04 =>
    match m with
    | 0 => some ⟨.v, .s, .u, .u, none, some 3, .none⟩
    | 1 => some ⟨.v, .v, .u, .u, none, some 3, .unsigned 8⟩
    | _ => some ⟨.v, .any, .u, .u, none, some 3, .none⟩
  | 0x05 => some ⟨.s, .v, .s, .u, none, none, .unsigned 8⟩
  | 0x06 => some ⟨.v, .s, .s, .u, none, none, .unsigned 8⟩
  | 0x07 => some ⟨.v, .v, .v, .u, none, none, .none⟩
  | 0x08 => some ⟨.v, .v, .s, .u, none, none, .unsigned 8⟩
  | 0x09 => some ⟨.v, .s, .s, .u, none, none, .signed 32⟩
  | 0x0A => some ⟨.v, .v, .u, .u, some 7, some 0xF, .none⟩
  | 0x0B => some ⟨.v, .v, .s, .s, none, none, .none⟩
  | 0x0C => some ⟨.v, .v, .v, .s, some 3, none, .none⟩
  | 0x0D => some ⟨.u, .s, .v, .s, scopes, some 3, .signed 48⟩
  | 0x0E => some ⟨.v, .s, .u, .u, some 3, none, .none⟩
  | 0x0F => some ⟨.v, .port, .s, .u, none, some 0x11, .none⟩
  | 0x10 => some ⟨.port, .v, .s, .u, none, some 0x11, .none⟩
  | 0x11 => some ⟨.s, .p, .u, .u, none, some 3, .none⟩
  | 0x12 =>
    match m with
    | 0 => some ⟨.pd, .v, .u, .u, none, some 7, .none⟩
    | 1 => some ⟨.pd, .v, .u, .u, none, some 7, .unsigned 5⟩
    | 2 => some ⟨.v, .p, .u, .u, none, some 7, .none⟩
    | _ => some ⟨.any, .any, .u, .u, none, some 7, .none⟩
  | _ => none

/-- Opcodes 0xE0 to 0xEF (R316, R405, R467). -/
def formE (lo q m : Nat) : Option FieldForm :=
  match lo with
  | 0x0 | 0x1 | 0x2 | 0x3 => some ⟨.s, .port, .port, .s, some 3, some 0xFF, .unsigned 3⟩
  | 0x4 => some ⟨.s, .port, .s, .s, some 3, some 0x11, .unsigned 3⟩
  | 0x5 => some ⟨.s, .port, .port, .s, none, some 0x11, .unsigned 3⟩
  | 0x6 => some ⟨.s, .u, .u, .u, some 7, none, .unsigned 3⟩
  | 0x7 =>
    match q with
    | 0 | 2 => some ⟨.u, .s, .u, .u, some 7, none, .unsigned 3⟩
    | 1 => some ⟨.s, .u, .u, .u, some 7, none, .unsigned 3⟩
    | _ => some ⟨.any, .any, .u, .u, some 7, none, .unsigned 3⟩
  | 0x8 => some (if m = 0 then ⟨.s, .s, .s, .u, none, some 3, .none⟩ else ⟨.s, .u, .u, .u, none, some 3, .none⟩)
  | 0x9 => some ⟨.s, .s, .s, .u, none, none, .none⟩
  | 0xA => some (if m = 0 then ⟨.u, .u, .u, .u, none, some 3, .unsigned 16⟩ else ⟨.u, .s, .u, .u, none, some 3, .unsigned 11⟩)
  | 0xB => some (if m = 0 then ⟨.s, .s, .u, .u, none, some 3, .none⟩ else ⟨.s, .s, .u, .u, none, some 3, .unsigned 4⟩)
  | 0xC => some ⟨.u, .u, .u, .u, none, none, .unsigned 16⟩
  | 0xD => some ⟨.u, .u, .u, .u, none, some 7, .none⟩
  | 0xE =>
    match m with
    | 0 => some ⟨.u, .s, .s, .s, some 0xF, some 7, .none⟩
    | 1 => some ⟨.u, .z, .z, .s, some 0xF, some 7, .none⟩
    | 2 => some ⟨.u, .z, .z, .z, some 0xF, some 7, .none⟩
    | _ => some ⟨.u, .any, .any, .any, some 0xF, some 7, .none⟩
  | 0xF => some (formDAB none none .none)
  | _ => none

/-- Opcodes 0xF0 to 0xFB (R316, R440, R494). -/
def formF (lo q : Nat) : Option FieldForm :=
  match lo with
  | 0x0 => some ⟨.s, .s, .s, .u, none, some 0x1E, .none⟩
  | 0x1 => some ⟨.s, .s, .u, .u, none, some 0x1E, .none⟩
  | 0x2 => some ⟨.u, .u, .u, .u, none, none, .none⟩
  | 0x3 => some (formDA none .none)
  | 0x4 => some ⟨.s, .u, .u, .u, none, none, .unsigned 32⟩
  | 0x5 => some ⟨.u, .u, .u, .u, none, none, .unsigned 16⟩
  | 0x6 =>
    match q with
    | 0 => some (formDA (some 0xF) .none)
    | 1 => some (formDA (some 0xF) (.unsigned 4))
    | 2 => some (formDA (some 0xF) (.unsigned 5))
    | 3 => some (formDAB (some 0xF) none (.unsigned 5))
    | _ => some ⟨.s, .s, .any, .u, some 0xF, none, .none⟩
  | 0x7 => some (formDAB (some 7) none .none)
  | 0x8 => some (formDAB none none (.unsigned 16))
  | 0x9 => some (formDAB none none .none)
  | 0xA => some (formDA (some 3) (.unsigned 16))
  | 0xB => some (formDAB none none .none)
  | _ => none

/-- The fields of an opcode, none where the map reserves it (R70). -/
def fieldForm (kLevel : Bool) (op q m : Nat) : Option FieldForm :=
  match op / 16 with
  | 0x0 | 0x1 => form01 (op % 32) q
  | 0x2 | 0x3 => form23 (op % 32) q m
  | 0x4 => form4 kLevel (op % 16) q
  | 0x5 | 0x6 => form56 (op - 0x50)
  | 0x7 => form7 (op % 16) q
  | 0x8 => form8 (op % 16)
  | 0x9 => form9 (op % 16) q m
  | 0xA | 0xB => formAB (op % 32) q m
  | 0xC | 0xD => formCD (op % 32) m
  | 0xE => formE (op % 16) q m
  | 0xF => formF (op % 16) q
  | _ => none

/-- The control registers of R62. -/
def isControlRegister (n : Nat) : Bool :=
  n = 0x001 || n = 0x002 || n = 0x004 || n = 0x005 || (0x800 ≤ n && n ≤ 0x80B)

/-- A list of mark codes in the nibbles of an immediate: no code of 4 to 7, and no nonzero nibble after a zero one (R289). -/
def markListOk (imm : Nat) : Bool :=
  let n := fun k : Nat => imm / 16 ^ k % 16
  let ok := fun k : Nat => !(4 ≤ n k && n k ≤ 7) && (k == 0 || n k == 0 || n (k - 1) != 0)
  ok 0 && ok 1 && ok 2 && ok 3

/-- The limits an instruction's own description sets on its immediate, tested after the width of R53: the DETAIL of a breach.
DEDUCED: R53 is read as the first test of an immediate that breaks both (log entry 3). -/
def immLimit (op q m imm : Nat) : Option Nat :=
  let bad := fun (b : Bool) (k : Nat) => if b then some k else none
  match op with
  | 0x25 | 0x26 => bad (64 < imm % 64 + imm / 64 % 64 + 1) 2
  | 0x37 | 0x38 => bad (!isControlRegister imm) 2
  | 0x40 => bad (imm = 0 || 16 < imm) 2
  | 0x43 => bad (imm = 0 || 64 < imm) 2
  | 0x46 => bad ((4 ≤ imm % 16 && imm % 16 ≤ 7) || (4 ≤ imm / 16 && imm / 16 ≤ 7)) 2
  | 0x47 => bad (if q = 0 then !markListOk imm else decide (imm ≠ 0)) 2
  | 0x4B => bad ((q = 0 && 3 ≤ imm / 32) || (q = 1 && 16 ≤ imm) || (q = 2 && 64 ≤ imm)) 2
  | 0x4E => bad (q = 0 && imm ≠ 0) 2
  | 0x72 => bad (6 ≤ imm) 2
  | 0xB1 =>
    bad (match m with
      | 0 | 1 | 2 => imm ≠ 0
      | 3 | 4 | 5 | 6 => 2 ≤ imm
      | _ => false) 2
  | 0xB2 | 0xB3 => bad (8 ≤ q && imm ≠ 0) 2
  | 0xE0 | 0xE1 | 0xE2 | 0xE3 => bad (m % 2 = 0 && imm ≠ 0) 2
  | 0xE4 => bad (imm < 2) 2
  | 0xE6 => bad ((q < 2 && imm ≠ 0) || (q = 2 && imm = 7)) 2
  | 0xE7 => bad ((q < 2 && 6 ≤ imm) || (q = 2 && imm ≠ 0)) 2
  | 0xEB => bad (m = 1 && 9 ≤ imm) 2
  | 0xF6 => bad (2 ≤ q && 14 ≤ imm) 2
  | _ => none

/-- The first breach of the fields in the order of R68, as SUB and DETAIL of R58. -/
def fieldBreach (f : FieldForm) (op : Nat) (o : Ops) : Option (Nat × Nat) :=
  ((f.d.breach o.d.toNat).map (fun k => (1, k))).or <|
  ((f.a.breach o.a.toNat).map (fun k => (2, k))).or <|
  ((f.b.breach o.b.toNat).map (fun k => (3, k))).or <|
  ((f.c.breach o.c.toNat).map (fun k => (4, k))).or <|
  ((maskBreach f.q o.q.toNat).map (fun k => (5, k))).or <|
  ((maskBreach f.m o.m.toNat).map (fun k => (7, k))).or <|
  ((f.imm.breach o.imm).map (fun k => (8, k))).or <|
  ((immLimit op o.q.toNat o.m.toNat o.imm.toNat).map (fun k => (8, k)))

/-- The Scroll opcodes split by M: an M of 2 or more is an unassigned subfunction (R67, R71). -/
def unassignedSub (op m : Nat) : Bool := (op = 0xE8 || op = 0xEA || op = 0xEB) && 2 ≤ m

/-- The rows of opcodes 0x00 to 0x0F, split by the qualifier or the modifier where the opcode map splits them. -/
noncomputable def build0 (lo q _m : Nat) (o : Ops) : Option Instr :=
  match lo with
  | 0 => some (.nop o)
  | 1 => some (.mov o)
  | 2 => if q = 0 then some (.movi o) else if q = 1 then some (.moviHi o) else none
  | 3 => some (.add o)
  | 4 => some (.sub o)
  | 5 => some (.addi o)
  | 6 => some (.mul o)
  | 7 => some (.mulh o)
  | 8 => some (.mulhu o)
  | 9 => some (.div o)
  | 10 => some (.divu o)
  | 11 => some (.rem o)
  | 12 => some (.remu o)
  | 13 => some (.and o)
  | 14 => some (.or o)
  | 15 => some (.xor o)
  | _ => none

/-- The rows of opcodes 0x10 to 0x1F, split by the qualifier or the modifier where the opcode map splits them. -/
noncomputable def build1 (lo _q _m : Nat) (o : Ops) : Option Instr :=
  match lo with
  | 0 => some (.andi o)
  | 1 => some (.ori o)
  | 2 => some (.xori o)
  | 3 => some (.shl o)
  | 4 => some (.shr o)
  | 5 => some (.sra o)
  | 6 => some (.shli o)
  | 7 => some (.shri o)
  | 8 => some (.srai o)
  | 9 => some (.rol o)
  | 10 => some (.slt o)
  | 11 => some (.sltu o)
  | 12 => some (.slti o)
  | 13 => some (.min o)
  | 14 => some (.max o)
  | 15 => some (.minu o)
  | _ => none

/-- The rows of opcodes 0x20 to 0x2F, split by the qualifier or the modifier where the opcode map splits them. -/
noncomputable def build2 (lo _q _m : Nat) (o : Ops) : Option Instr :=
  match lo with
  | 0 => some (.maxu o)
  | 1 => some (.clz o)
  | 2 => some (.ctz o)
  | 3 => some (.popc o)
  | 4 => some (.bswap o)
  | 5 => some (.ext o)
  | 6 => some (.ins o)
  | 7 => some (.sext o)
  | 8 => some (.lea o)
  | 9 => some (.cmpp o)
  | 10 => some (.beq o)
  | 11 => some (.bne o)
  | 12 => some (.blt o)
  | 13 => some (.bge o)
  | 14 => some (.bltu o)
  | 15 => some (.bgeu o)
  | _ => none

/-- The rows of opcodes 0x30 to 0x3F, split by the qualifier or the modifier where the opcode map splits them. -/
noncomputable def build3 (lo q m : Nat) (o : Ops) : Option Instr :=
  match lo with
  | 0 => some (.jmp o)
  | 1 => some (.jr o)
  | 2 => some (.call o)
  | 3 => some (.ret o)
  | 4 => some (.sel o)
  | 5 => some (.plog o)
  | 6 => if m = 0 then some (.pmov o) else if m = 1 then some (.pmovFrom o) else if m = 2 then some (.pmovTo o) else none
  | 7 => some (.mfc o)
  | 8 => some (.mtc o)
  | 9 => if q = 0 then some (.budget o) else if q = 1 then some (.budgetSet o) else none
  | 10 => some (.aend o)
  | 11 => some (.fadd o)
  | 12 => some (.fmul o)
  | 13 => some (.fdiv o)
  | 14 => if m = 0 then some (.fcvtF2i o) else if m = 1 then some (.fcvtI2f o) else if m = 2 then some (.fcvtU2f o) else if m = 3 then some (.fcvtF2bf o) else if m = 4 then some (.fcvtBf2f o) else if m = 5 then some (.fcvtF2h o) else if m = 6 then some (.fcvtH2f o) else if m = 7 then some (.fcvtF2e4 o) else if m = 8 then some (.fcvtE42f o) else none
  | 15 => some (.fcmp o)
  | _ => none

/-- The rows of opcodes 0x40 to 0x4F, split by the qualifier or the modifier where the opcode map splits them. -/
noncomputable def build4 (lo q m : Nat) (o : Ops) : Option Instr :=
  match lo with
  | 0 => some (.gpeek o)
  | 1 => some (.gskip o)
  | 2 => some (.gpush o)
  | 3 => some (.gpop o)
  | 4 => some (.gfstat o)
  | 5 => if q = 0 then some (.gresume o) else if q = 1 then some (.gresumeRecover o) else none
  | 6 => some (.markif o)
  | 7 => if q = 0 then some (.markemit o) else if q = 1 then some (.markemitR o) else none
  | 8 => some (.sigdec o)
  | 9 => if m = 0 then some (.sigwait o) else if m = 1 then some (.sigwaitPoll o) else none
  | 10 => some (.sigset o)
  | 11 => if q = 0 then some (.ligcfgTerm o) else if q = 1 then some (.ligcfgSrc o) else if q = 2 then some (.ligcfgTread o) else none
  | 12 => if q = 0 then some (.ligcntRd o) else if q = 1 then some (.ligcntSet o) else if q = 2 then some (.ligcntSub o) else if q = 3 then some (.ligcntClrv o) else none
  | 13 => some (.ligfire o)
  | 14 => if q = 0 then some (.gstate o) else if q = 1 then some (.gstateStk o) else none
  | 15 => some (.evwait o)
  | _ => none

/-- The rows of opcodes 0x50 to 0x5F, split by the qualifier or the modifier where the opcode map splits them. -/
noncomputable def build5 (lo _q _m : Nat) (o : Ops) : Option Instr :=
  match lo with
  | 0 => some (.ld o)
  | 1 => some (.st o)
  | 2 => some (.ldx o)
  | 3 => some (.stx o)
  | 4 => some (.ldv o)
  | 5 => some (.stv o)
  | 6 => some (.ldg o)
  | 7 => some (.sct o)
  | 8 => some (.spld o)
  | 9 => some (.spst o)
  | 10 => some (.spldv o)
  | 11 => some (.spstv o)
  | 12 => some (.aadd o)
  | 13 => some (.aand o)
  | 14 => some (.aor o)
  | 15 => some (.axor o)
  | _ => none

/-- The rows of opcodes 0x60 to 0x6F, split by the qualifier or the modifier where the opcode map splits them. -/
noncomputable def build6 (lo q m : Nat) (o : Ops) : Option Instr :=
  match lo with
  | 0 => some (.amin o)
  | 1 => some (.amax o)
  | 2 => some (.aminu o)
  | 3 => some (.amaxu o)
  | 4 => some (.aswp o)
  | 5 => some (.acas o)
  | 6 => some (.afadd o)
  | 7 => if m = 0 then some (.fence o) else if m = 1 then some (.fenceAcq o) else if m = 2 then some (.fenceRel o) else none
  | 8 => some (.ldacq o)
  | 9 => some (.strel o)
  | 10 => some (.pref o)
  | 11 => some (.cwb o)
  | 12 => if q = 0 then some (.cinv o) else if q = 1 then some (.cinvI o) else none
  | 13 => some (.ldnt o)
  | 14 => some (.stnt o)
  | _ => none

/-- The rows of opcodes 0x70 to 0x7F, split by the qualifier or the modifier where the opcode map splits them. -/
noncomputable def build7 (lo q _m : Nat) (o : Ops) : Option Instr :=
  match lo with
  | 0 => some (.tidset o)
  | 1 => some (.tidget o)
  | 2 => if q = 0 then some (.tidmodBase o) else if q = 1 then some (.tidmodSbase o) else if q = 2 then some (.tidmodSize o) else if q = 3 then some (.tidmodStride o) else if q = 4 then some (.tidmodValid o) else if q = 5 then some (.tidmodAddbase o) else none
  | 3 => some (.tidchk o)
  | 4 => some (.pbind o)
  | 5 => some (.punbind o)
  | 6 => some (.pseek o)
  | 7 => some (.pstat o)
  | 8 => some (.pwin o)
  | 9 => some (.pxform o)
  | 10 => some (.cpy o)
  | 11 => some (.cpys o)
  | 12 => some (.cpyt o)
  | 13 => some (.cpyq o)
  | 14 => some (.cpyr o)
  | 15 => some (.cpyw o)
  | _ => none

/-- The rows of opcodes 0x80 to 0x8F, split by the qualifier or the modifier where the opcode map splits them. -/
noncomputable def build8 (lo _q _m : Nat) (o : Ops) : Option Instr :=
  match lo with
  | 0 => some (.barinit o)
  | 1 => some (.bararm o)
  | 2 => some (.barwait o)
  | 3 => some (.bartest o)
  | 4 => some (.bararr o)
  | 5 => some (.sptlook o)
  | 6 => some (.sptins o)
  | 7 => some (.sptevict o)
  | 8 => some (.sptread o)
  | 9 => some (.feset o)
  | 10 => some (.feclr o)
  | 11 => some (.fetest o)
  | 12 => some (.pflush o)
  | 13 => some (.circ o)
  | _ => none

/-- The rows of opcodes 0x90 to 0x9F, split by the qualifier or the modifier where the opcode map splits them. -/
noncomputable def build9 (lo q _m : Nat) (o : Ops) : Option Instr :=
  match lo with
  | 0 => some (.mxmma o)
  | 1 => some (.mxzero o)
  | 2 => some (.mxldacc o)
  | 3 => some (.mxstacc o)
  | 4 => some (.mxwload o)
  | 5 => if q = 0 then some (.mxwdrop o) else if q = 1 then some (.mxwdropAll o) else none
  | 6 => some (.mxscale o)
  | 7 => some (.mxfmt o)
  | 8 => if q = 0 then some (.mxchainOff o) else if q = 1 then some (.mxchainScale o) else if q = 2 then some (.mxchainBias o) else if q = 3 then some (.mxchainResid o) else if q = 4 then some (.mxchainAct o) else if q = 5 then some (.mxchainClamp o) else if q = 6 then some (.mxchainQnt o) else none
  | 9 => if q = 0 then some (.mxskipOff o) else if q = 1 then some (.mxskipOn o) else if q = 2 then some (.mxskipRd o) else none
  | 10 => if q = 0 then some (.mxwait o) else if q = 1 then some (.mxwaitAll o) else none
  | 11 => if q = 0 then some (.mxstat o) else if q = 1 then some (.mxstatSlot o) else if q = 2 then some (.mxstatZmask o) else if q = 3 then some (.mxstatSkipcnt o) else none
  | _ => none

/-- The rows of opcodes 0xA0 to 0xAF, split by the qualifier or the modifier where the opcode map splits them. -/
noncomputable def buildA (lo _q _m : Nat) (o : Ops) : Option Instr :=
  match lo with
  | 0 => some (.vadd o)
  | 1 => some (.vsub o)
  | 2 => some (.vmul o)
  | 3 => some (.vfma o)
  | 4 => some (.vfms o)
  | 5 => some (.vdiv o)
  | 6 => some (.vsqrt o)
  | 7 => some (.vrsq o)
  | 8 => some (.vrcp o)
  | 9 => some (.vmin o)
  | 10 => some (.vmax o)
  | 11 => some (.vabs o)
  | 12 => some (.vneg o)
  | 13 => some (.vfn o)
  | 14 => some (.vscaleb o)
  | 15 => some (.vround o)
  | _ => none

/-- The rows of opcodes 0xB0 to 0xBF, split by the qualifier or the modifier where the opcode map splits them. -/
noncomputable def buildB (lo q m : Nat) (o : Ops) : Option Instr :=
  match lo with
  | 0 => some (.vclass o)
  | 1 => if m = 0 then some (.vcvtF2i o) else if m = 1 then some (.vcvtI2f o) else if m = 2 then some (.vcvtUi2f o) else if m = 3 then some (.vcvtF2bf o) else if m = 4 then some (.vcvtBf2f o) else if m = 5 then some (.vcvtF2h o) else if m = 6 then some (.vcvtH2f o) else if m = 7 then some (.vcvtF2e4 o) else if m = 8 then some (.vcvtE42f o) else if m = 9 then some (.vcvtF2e5 o) else if m = 10 then some (.vcvtE52f o) else if m = 11 then some (.vcvtF2i8 o) else if m = 12 then some (.vcvtI82f o) else none
  | 2 => if q = 3 then some (.vqntE4m3 o) else if 8 ≤ q then some (.vqntBfp o) else none
  | 3 => some (.vdqnt o)
  | 4 => some (.vcmp o)
  | 5 => some (.vsel o)
  | 6 => some (.viadd o)
  | 7 => some (.visub o)
  | 8 => some (.vimul o)
  | 9 => some (.vimad o)
  | 10 => some (.vand o)
  | 11 => some (.vor o)
  | 12 => some (.vxor o)
  | 13 => some (.vshl o)
  | 14 => some (.vshr o)
  | 15 => some (.vsra o)
  | _ => none

/-- The rows of opcodes 0xC0 to 0xCF, split by the qualifier or the modifier where the opcode map splits them. -/
noncomputable def buildC (lo q m : Nat) (o : Ops) : Option Instr :=
  match lo with
  | 0 => some (.vclz o)
  | 1 => some (.vpopc o)
  | 2 => some (.vred o)
  | 3 => some (.vscan o)
  | 4 => if m = 0 then some (.vbcast o) else if m = 1 then some (.vbcastLane o) else none
  | 5 => some (.vextr o)
  | 6 => some (.vins o)
  | 7 => some (.vperm o)
  | 8 => some (.vrot o)
  | 9 => some (.viota o)
  | 10 => some (.vsort o)
  | 11 => some (.vtopk o)
  | 12 => if q = 0 then some (.vgate o) else if q = 1 then some (.vgateRenorm o) else none
  | 13 => some (.vhist o)
  | 14 => some (.vprng o)
  | 15 => some (.vprd o)
  | _ => none

/-- The rows of opcodes 0xD0 to 0xDF, split by the qualifier or the modifier where the opcode map splits them. -/
noncomputable def buildD (lo _q m : Nat) (o : Ops) : Option Instr :=
  match lo with
  | 0 => some (.vpwr o)
  | 1 => some (.vpcnt o)
  | 2 => if m = 0 then some (.vplogNz o) else if m = 1 then some (.vplogBit o) else if m = 2 then some (.vplogP2v o) else none
  | 3 => some (.vmov o)
  | _ => none

/-- The rows of opcodes 0xE0 to 0xEF, split by the qualifier or the modifier where the opcode map splits them. -/
noncomputable def buildE (lo q m : Nat) (o : Ops) : Option Instr :=
  match lo with
  | 0 => some (.mgisect o)
  | 1 => some (.mgunion o)
  | 2 => some (.mgdiff o)
  | 3 => some (.mgmerge o)
  | 4 => some (.mgsteer o)
  | 5 => some (.mgseq o)
  | 6 => if q = 0 then some (.mgstat o) else if q = 1 then some (.mgstatPart o) else if q = 2 then some (.mgstatLeaf o) else none
  | 7 => if q = 0 then some (.mgcfgPivot o) else if q = 1 then some (.mgcfgPread o) else if q = 2 then some (.mgcfgMark o) else none
  | 8 => if m = 0 then some (.screcBegin o) else if m = 1 then some (.screcEnd o) else none
  | 9 => some (.scplay o)
  | 10 => if m = 0 then some (.scguard o) else if m = 1 then some (.scpatch o) else none
  | 11 => if m = 0 then some (.scinv o) else if m = 1 then some (.scstat o) else none
  | 12 => some (.trap o)
  | 13 => if m = 0 then some (.eret o) else if m = 1 then some (.eretSkip o) else if m = 2 then some (.eretKill o) else none
  | 14 => if m = 0 then some (.tlbinvPage o) else if m = 1 then some (.tlbinvAsid o) else if m = 2 then some (.tlbinvAll o) else none
  | 15 => some (.asidset o)
  | _ => none

/-- The rows of opcodes 0xF0 to 0xFF, split by the qualifier or the modifier where the opcode map splits them. -/
noncomputable def buildF (lo q _m : Nat) (o : Ops) : Option Instr :=
  match lo with
  | 0 => some (.ctxsave o)
  | 1 => some (.ctxload o)
  | 2 => some (.resume o)
  | 3 => some (.drain o)
  | 4 => some (.wfi o)
  | 5 => some (.brk o)
  | 6 => if q = 0 then some (.memctlTag o) else if q = 1 then some (.memctlFmr o) else if q = 2 then some (.memctlRd o) else if q = 3 then some (.memctlWr o) else none
  | 7 => if q = 0 then some (.balloonAdd o) else if q = 1 then some (.balloonRem o) else if q = 2 then some (.balloonPri o) else none
  | 8 => some (.qpost o)
  | 9 => some (.pinit o)
  | 10 => if q = 0 then some (.irqCore o) else if q = 1 then some (.irqHost o) else none
  | 11 => some (.walk o)
  | _ => none

/-- The constructor of an opcode and its canonical fields (R70, R71). -/
noncomputable def build (op q m : Nat) (o : Ops) : Option Instr :=
  match op / 16 with
  | 0 => build0 (op % 16) q m o
  | 1 => build1 (op % 16) q m o
  | 2 => build2 (op % 16) q m o
  | 3 => build3 (op % 16) q m o
  | 4 => build4 (op % 16) q m o
  | 5 => build5 (op % 16) q m o
  | 6 => build6 (op % 16) q m o
  | 7 => build7 (op % 16) q m o
  | 8 => build8 (op % 16) q m o
  | 9 => build9 (op % 16) q m o
  | 10 => buildA (op % 16) q m o
  | 11 => buildB (op % 16) q m o
  | 12 => buildC (op % 16) q m o
  | 13 => buildD (op % 16) q m o
  | 14 => buildE (op % 16) q m o
  | 15 => buildF (op % 16) q m o
  | _ => none

/-- The immediate, sign-extended to 64 bits. -/
def Ops.simm (o : Ops) : Word := o.imm.signExtend 64

/-- The immediate as an unsigned number. -/
def Ops.uimm (o : Ops) : Nat := o.imm.toNat

end Sys2Proof
end

