-- ==== Sys2Proof/WellFormed.lean ====
section
/-! DEFINITION. What an instruction must meet to have an encoding. -/

namespace Sys2Proof

/-- The stored form can carry the fields (R51, R52). -/
def Ops.fits (o : Ops) : Bool :=
  match o.form with
  | .c => o.c = 0 && o.q = 0 && o.g = 0 && o.m = 0 && (o.imm.setWidth 5).signExtend 48 = o.imm
  | .m => o.c = 0 && o.g = 0 && o.m = 0 && (o.imm.setWidth 32).signExtend 48 = o.imm
  | .l => true

/-- The qualifier and the modifier are those of the row (R71). -/
def Sub.admits (s : Sub) (q m : Nat) : Bool :=
  match s with
  | .any => true
  | .q n => q = n
  | .m n => m = n
  | .qFrom n => n ≤ q

/-- A well-formed instruction: one of the map, its fields within R53, R59 and R62 to R68, its row's subfunction, and a form that carries them.
A step of another agent is no instruction and has no encoding. -/
def Instr.wellFormed (i : Instr) : Bool :=
  match i.opcode?, i.ops? with
  | some op, some o =>
    match fieldForm true op o.q.toNat o.m.toNat with
    | some f => (fieldBreach f op o).isNone && i.fixes.admits o.q.toNat o.m.toNat && o.fits
    | none => false
  | _, _ => false

end Sys2Proof
end

