-- ==== Sys2Proof/Decode.lean ====
section
/-! DEFINITION. Reading an instruction from bytes and writing one to bytes (R47 to R52, R67, R68). -/

namespace Sys2Proof

/-- Why bytes are no instruction. `illegalOp` and `illegalField` are the decode faults of R58 with their SUB and DETAIL; `truncated` means fewer bytes than the form's length. -/
inductive DecodeError where
  | illegalOp (sub : Nat)
  | illegalField (sub detail : Nat)
  | truncated
  deriving DecidableEq, Repr

/-- Bytes, lowest address first, as one little-endian number. -/
def leNat : List Byte → Nat
  | [] => 0
  | b :: bs => b.toNat + 256 * leNat bs

/-- The n low bytes of a number, lowest first. -/
def leBytes : Nat → Nat → List Byte
  | 0, _ => []
  | n + 1, x => BitVec.ofNat 8 x :: leBytes n (x / 256)

/-- The stored form a first byte selects (R47). -/
def formOf (b : Byte) : Form :=
  if b.toNat % 2 = 0 then .c else if b.toNat % 4 = 1 then .m else .l

/-- Bits [hi:lo] of a number as a bit string of the width given. -/
def field (x lo w : Nat) : BitVec w := BitVec.ofNat w (x / 2 ^ lo)

/-- The opcode and the canonical fields of a stored instruction (R48 to R51): a field the form lacks is 0. -/
def expand (f : Form) (x : Nat) : Nat × Ops :=
  match f with
  | .c => ((field x 1 8).toNat,
      ⟨.c, field x 9 6, field x 15 6, field x 21 6, 0, 0, 0, 0, (field x 27 5).signExtend 48⟩)
  | .m => ((field x 2 8).toNat,
      ⟨.m, field x 10 6, field x 16 6, field x 22 6, 0, field x 28 4, 0, 0, (field x 32 32).signExtend 48⟩)
  | .l => ((field x 2 8).toNat,
      ⟨.l, field x 10 6, field x 16 6, field x 22 6, field x 28 6, field x 34 4, field x 38 4, field x 42 6, field x 48 48⟩)

/-- The instruction of an opcode and its fields, or the first decode fault of R68 (the tests on the level of R278 included). -/
noncomputable def decodeFields (kLevel : Bool) (op : Nat) (o : Ops) : Except DecodeError Instr :=
  if unassignedSub op o.m.toNat then .error (.illegalOp 2)
  else
    match fieldForm kLevel op o.q.toNat o.m.toNat with
    | none => .error (.illegalOp 0)
    | some f =>
      match fieldBreach f op o with
      | some (s, k) => .error (.illegalField s k)
      | none =>
        match build op o.q.toNat o.m.toNat o with
        | some i => .ok i
        | none => .error (.illegalOp 0)

/-- Reads one instruction from the head of a list of bytes and gives the rest. -/
noncomputable def decodeAt (kLevel : Bool) (bs : List Byte) : Except DecodeError (Instr × List Byte) :=
  match bs with
  | [] => .error .truncated
  | b :: _ =>
    let f := formOf b
    if bs.length < f.bytes then .error .truncated
    else
      let w := expand f (leNat (bs.take f.bytes))
      match decodeFields kLevel w.1 w.2 with
      | .error e => .error e
      | .ok i => .ok (i, bs.drop f.bytes)

/-- Reads one instruction as K-level does, where every target of R278 is admitted. -/
noncomputable def decode (bs : List Byte) : Except DecodeError (Instr × List Byte) := decodeAt true bs

/-- The stored word of an opcode and its fields, in their form (R48 to R50). -/
def wordOf (op : Nat) (o : Ops) : Nat :=
  match o.form with
  | .c => 2 * (op % 256) + 2 ^ 9 * o.d.toNat + 2 ^ 15 * o.a.toNat + 2 ^ 21 * o.b.toNat + 2 ^ 27 * (o.imm.toNat % 32)
  | .m => 1 + 4 * (op % 256) + 2 ^ 10 * o.d.toNat + 2 ^ 16 * o.a.toNat + 2 ^ 22 * o.b.toNat + 2 ^ 28 * o.q.toNat
      + 2 ^ 32 * (o.imm.toNat % 2 ^ 32)
  | .l => 3 + 4 * (op % 256) + 2 ^ 10 * o.d.toNat + 2 ^ 16 * o.a.toNat + 2 ^ 22 * o.b.toNat + 2 ^ 28 * o.c.toNat
      + 2 ^ 34 * o.q.toNat + 2 ^ 38 * o.g.toNat + 2 ^ 42 * o.m.toNat + 2 ^ 48 * o.imm.toNat

/-- The bytes of an instruction of the map, lowest address first; none for the step of another agent. -/
def encode (i : Instr) : Option (List Byte) :=
  match i.opcode?, i.ops? with
  | some op, some o => some (leBytes o.form.bytes (wordOf op o))
  | _, _ => none

/-- The instruction whose low nbits bits are w and whose other bits, up to the longest instruction, are 0. -/
noncomputable def decodeTableWord (nbits w : Nat) : Option Instr :=
  match decode (leBytes 12 (w % 2 ^ nbits)) with
  | .ok (i, _) => some i
  | .error _ => none

end Sys2Proof
end

