-- ==== Sys2Proof/Machine/SMap.lean ====
section
/-! DEFINITION. Sparse storage: a list of keys and values in one canonical form, keys strictly rising and no entry equal to what an unlisted key reads as. -/

namespace Sys2Proof.Machine

/-- Sparse data by key. Memory is one of these, a list of Host.Cell. -/
abbrev SMap (α : Type) := List (Nat × α)

/-- What a key reads as: the value listed first, or the value an unlisted key reads as. -/
def SMap.get {α : Type} (dflt : α) (m : SMap α) (k : Nat) : α :=
  match m with
  | [] => dflt
  | (k', v) :: t => if k' = k then v else SMap.get dflt t k

/-- The entries of the other keys. -/
def SMap.erase {α : Type} (m : SMap α) (k : Nat) : SMap α :=
  m.filter (fun e => e.1 ≠ k)

/-- An entry put before the first entry of a greater key. -/
def SMap.place {α : Type} (m : SMap α) (k : Nat) (v : α) : SMap α :=
  match m with
  | [] => [(k, v)]
  | (k', v') :: t => if k < k' then (k, v) :: (k', v') :: t else (k', v') :: SMap.place t k v

/-- Writing a key. Writing what an unlisted key reads as removes the entry. -/
def SMap.set {α : Type} [DecidableEq α] (dflt : α) (m : SMap α) (k : Nat) (v : α) : SMap α :=
  if v = dflt then SMap.erase m k else SMap.place (SMap.erase m k) k v

/-- The keys rise strictly. -/
def SMap.rising {α : Type} (m : SMap α) : Bool :=
  match m with
  | [] => true
  | [_] => true
  | (k, _) :: (k', v') :: t => decide (k < k') && SMap.rising ((k', v') :: t)

/-- The canonical form. -/
def SMap.wf {α : Type} [DecidableEq α] (dflt : α) (m : SMap α) : Bool :=
  SMap.rising m && m.all (fun e => decide (e.2 ≠ dflt))

end Sys2Proof.Machine
end

