-- ==== Sys2Proof/Machine/State.lean ====
section
/-! DEFINITION. The state of the FK960: five contexts and the engines of each core, the dies, the hub, main memory, and the model's own agenda. -/

namespace Sys2Proof.Machine

/-- What stops the machine. Each constructor says who raises it. -/
inductive Fault where
  /-- Raised by exec for an instruction on a halted core (R314): issue has stopped on every context until a warm reset. Safe: step never selects a halted core. -/
  | coreHalted
  deriving DecidableEq, Repr

/-- What the model declines to run. -/
inductive Refusal where
  /-- An instruction without its meaning yet, raised by the arm of exec that names it. Safe. -/
  | notModelled (mnemonic : String)
  deriving DecidableEq, Repr

/-- A mark code (R223). -/
abbrev Mark := BitVec 4

/-- The state of a context's parse (R233), with the codes of R285. -/
inductive ParseState where
  | parsing | action | mismatch | recovering | trapped | retired | noGroup
  deriving DecidableEq, Repr

/-- A parse stack entry: a symbol, or a frame entry with bit 15 set (R234), and the production it is credited to (R311). -/
structure StackEntry where
  entry : BitVec 16
  prod : Nat
  deriving DecidableEq, Repr

/-- Where a mark of the insertion buffer stands among the symbols of the lead port's stream, counted from the group's binding (R238). -/
inductive MarkPlace where
  /-- Immediately before stream symbol n. -/
  | before (n : Nat)
  /-- Immediately after the first DATA at or after stream symbol n, or before an EOT that comes first. -/
  | afterData (n : Nat)
  deriving DecidableEq, Repr

/-- An entry of the insertion buffer: a mark, or the place an invocation reserved (R411). -/
structure InsMark where
  place : MarkPlace
  code : Option Mark
  inv : Nat
  deriving DecidableEq, Repr

/-- The group a context holds (R19, R20, R323). `rcb` is the DPA of the region's RCB, which names the region in the model. -/
structure Group where
  slot : Nat
  lid : Word
  gidx : BitVec 32
  count : BitVec 32
  rcb : Nat
  asid : BitVec 9
  pri : BitVec 4
  deriving DecidableEq, Repr

/-- What a context waits for: the watchdog's code is R328's. -/
inductive Wait where
  | barrier | full | signal | ligature | mark | queue | divider | storage | invocation | port | irq
  deriving DecidableEq, Repr

/-- A tape area a launch or an instruction names (R445, R460). -/
structure Tape where
  area : Word
  size : Word
  patch : Word
  replay : Bool
  deriving DecidableEq, Repr

/-- The recording or replay a context is in (R445 to R473). `track` is the VA of the track's first record and `entry` that of its table entry; `nrec` counts the records written or handled.
Recording: the tags of R456 (slot plus 32), the scalars, tags and stack of the last snapshot, the flags of unrecorded instructions, whether a command was issued since the last guard, that guard's number and head, and the invocation whose result the last command's guards wait for (`owed`: bit 0 VALUE, bit 1 MARK).
`recs` holds the records of the track.
Replay: the supplied patch values, the last guard passed, the symbols still to consume and whether as recovery consumes them, what was consumed since the guard with the context's insertion buffer, position, EOT and fault record at the guard, and what the last command wrote. -/
structure Scroll where
  mode : BitVec 2
  area : Word
  entry : Nat
  track : Nat
  tlen : Nat
  nrec : Nat
  abt : Bool
  clean : Bool
  div : BitVec 16
  atBind : Bool
  fellBack : Bool
  tags : SMap (BitVec 6)
  lastTags : SMap (BitVec 6)
  lastScalars : SMap Word
  lastStack : List (BitVec 16)
  flags : BitVec 16
  cmdSince : Bool
  cons : Nat
  guardRec : Nat
  guardHead : BitVec 128
  owed : BitVec 2
  cmdInv : Option Nat
  cmdDst : Option Nat
  cmdMark : BitVec 20
  patches : SMap Word
  total : Nat
  pendCons : Nat
  recovers : Bool
  ending : Bool
  eaten : List Mark
  insBack : List InsMark
  posBack : BitVec 32
  eotBack : Bool
  recs : List (BitVec 128)
  frecBack : BitVec 256
  deriving DecidableEq, Repr

/-- No recording and no replay. -/
def Scroll.live : Scroll where
  mode := 0
  area := 0
  entry := 0
  track := 0
  tlen := 0
  nrec := 0
  abt := false
  clean := false
  div := 0
  atBind := false
  fellBack := false
  tags := []
  lastTags := []
  lastScalars := []
  lastStack := []
  flags := 0
  cmdSince := false
  cons := 0
  guardRec := 0
  guardHead := 0
  owed := 0
  cmdInv := none
  cmdDst := none
  cmdMark := 0
  patches := []
  total := 0
  pendCons := 0
  recovers := false
  ending := false
  eaten := []
  insBack := []
  posBack := 0
  eotBack := false
  recs := []
  frecBack := 0

/-- A context (R12, R223 to R241, R269, R348, R390, R416). `parsed`: its group has ended and retires once R21 holds. `draining`: the drain configuration of R15 is loaded in it. `errDone`: the error action of its recovery has ended (R243, R272). `evWait`: the counter and the threshold of the EVWAIT without .SUB in which it is blocked, and whether a cycle has satisfied it (R294, R295). -/
structure Ctx where
  s : SMap Word
  v : SMap VReg
  p : SMap PReg
  pc : Word
  st : ParseState
  errAction : Bool
  trapCause : BitVec 5
  trapDetail : BitVec 8
  trapFrom : ParseState
  group : Option Group
  stack : List StackEntry
  lastProd : Nat
  recProd : Nat
  queue : List Mark
  qbase : Nat
  nData : Nat
  ins : List InsMark
  pos : BitVec 32
  eotc : Bool
  frec : BitVec 256
  budget : BitVec 32
  loaded : BitVec 32
  counted : Nat
  seed : Word
  tt : SMap Desc
  mxFmt : BitVec 4
  mxRs : Word
  pivots : SMap (BitVec 32)
  mkPair : BitVec 8
  leaves : SMap Word
  predictor : List Word
  scroll : Scroll
  age : Nat
  slots : Nat
  waiting : Option Wait
  evWait : Option (Nat × Nat × Bool)
  waited : Nat
  wfiLeft : Option Nat
  gresume : Option Bool
  drained : Bool
  faulted : Bool
  fcause : BitVec 8
  syncInv : Option Nat
  waitInv : Nat
  parsed : Bool
  draining : Bool
  errDone : Bool
  deriving DecidableEq, Repr

/-- A context that holds no group, with the reset values of R62, R227 to R241, R285, R359 and R416; its registers hold 0 (log entry 5). -/
def Ctx.reset : Ctx where
  s := []
  v := []
  p := []
  pc := 0
  st := .noGroup
  errAction := false
  trapCause := 0
  trapDetail := 0
  trapFrom := .parsing
  group := none
  stack := []
  lastProd := 0
  recProd := 0
  queue := []
  qbase := 0
  nData := 0
  ins := []
  pos := 0
  eotc := false
  frec := 0
  budget := 0x1000
  loaded := 0
  counted := 0
  seed := 0
  tt := []
  mxFmt := 1
  mxRs := 64
  pivots := []
  mkPair := 0
  leaves := []
  predictor := []
  scroll := Scroll.live
  age := 0
  slots := 1
  waiting := none
  evWait := none
  waited := 0
  wfiLeft := none
  gresume := none
  drained := false
  faulted := false
  fcause := 0
  syncInv := none
  waitInv := 0
  parsed := false
  draining := false
  errDone := false

/-- One beat of a stream (R150, R399): its bytes, its blocks' scale bytes, the marks that follow it (R152), the sticky flags its conversion raised, its tile index, and its number among the beats read since the bind. -/
structure Beat where
  bytes : List Byte
  scales : List Byte
  marks : List Mark
  flags : BitVec 16
  idx : Nat
  no : Nat
  deriving DecidableEq, Repr

/-- A fault of a generator or of an invocation, waiting to be delivered (R160, R161, R173). -/
structure GenFault where
  cause : BitVec 5
  aux0 : Word
  aux1 : Word
  aux2 : Word
  tile : BitVec 40
  seq : Nat
  deriving DecidableEq, Repr

/-- A stream port (R146, R154 to R166, R178 to R183, R419, R500). `drops` are beats that GSKIP or recovery discards and that are still to be removed: the first invocation number they bar, and the beat's number on a lead port.
`links` holds the slots of a read port's links by the input at which they lie, 0 MX, 1 VX, 2 MG, 3 on the ports, 11 on the chain nodes, and `input` those at a write port's own input: so many beats more than the data queue's 32 may stand in `fifo`, or in `circ` (R36).
`sent` counts the beats of a lead port whose symbols have been sent. -/
structure Port where
  bound : Bool
  tid : BitVec 6
  gen : BitVec 16
  desc : Desc
  mode : BitVec 2
  wr : Bool
  ouop : BitVec 2
  seekOrg : SMap Nat
  seekLen : SMap Nat
  wins : SMap (BitVec 128)
  xTranspose : Bool
  xPermute : Option (BitVec 18)
  xBroadcast : Option (BitVec 32)
  xConvert : Option (BitVec 9)
  xQrow : Option (BitVec 5)
  cursor : Nat
  nBeats : Nat
  rowCursor : Nat
  fifo : List Beat
  outMarks : List Mark
  ended : Bool
  fault : Option GenFault
  cons : BitVec 2
  lead : Bool
  owner : Option CtxId
  kExtent : BitVec 16
  edge : BitVec 16
  drops : List (Nat × Option Nat)
  circ : List CircuitSymbol
  circLost : Bool
  discardIn : Bool
  links : SMap Nat
  input : Nat
  sent : Nat
  deriving DecidableEq, Repr

/-- An unbound port (R181 and the windows of R156 read 0). -/
def Port.reset : Port where
  bound := false
  tid := 0
  gen := 0
  desc := 0
  mode := 0
  wr := false
  ouop := 0
  seekOrg := []
  seekLen := []
  wins := []
  xTranspose := false
  xPermute := none
  xBroadcast := none
  xConvert := none
  xQrow := none
  cursor := 0
  nBeats := 0
  rowCursor := 0
  fifo := []
  outMarks := []
  ended := false
  fault := none
  cons := 0
  lead := false
  owner := none
  kExtent := 0
  edge := 0
  drops := []
  circ := []
  circLost := false
  discardIn := false
  links := []
  input := 0
  sent := 0

/-- A node of the function chain: its operation and parameters (R356). -/
structure ChainNode where
  op : BitVec 3
  pa : Word
  pb : Word
  deriving DecidableEq, Repr

/-- A node that is off (R338). -/
def ChainNode.off : ChainNode := ⟨0, 0, 0⟩

/-- An accumulator (R338): element (i, j) has key 128i + j; an unlisted element is +0 or 0. -/
structure Acc where
  int : Bool
  sat : Bool
  el : SMap (BitVec 40)
  deriving DecidableEq, Repr

/-- KIND FLOAT, every element +0, SAT 0 (R338). -/
def Acc.reset : Acc := ⟨false, false, []⟩

/-- A weight slot (R338, R357, R362): element (k, n) has key 128k + n, its BFP scale 128(k div 32) + n. -/
structure WSlot where
  valid : Bool
  busy : Bool
  zc : Bool
  fmt : BitVec 4
  k : Nat
  ngrp : Nat
  nzg : Nat
  zmask : Word
  el : SMap (BitVec 16)
  sc : SMap Byte
  deriving DecidableEq, Repr

/-- An invalid slot. -/
def WSlot.reset : WSlot := ⟨false, false, false, 0, 0, 0, 0, 0, [], []⟩

/-- Where an invocation stands (R31 to R35, R160, R319). -/
inductive InvState where
  | queued | running | starved | discarded
  deriving DecidableEq, Repr

/-- A frame as it was before a commit that waits for a chunk obtained storage in it (R444): its number, its FMR before and after, the bytes of the chunks it held, and the lines of the commit that reach it. -/
structure Undo where
  frame : Nat
  old : BitVec 1024
  new : BitVec 1024
  raw : List Byte
  lines : List Nat
  deriving DecidableEq, Repr

/-- A tile invocation (R31): the issuing instruction, what it captured, and how far it has come. `beats` holds the beats taken, with their ports, oldest first; `eotSent` tells that a circuit's sender has sent EOT, `asked` counts the beats that a receiver has asked for of a window. `undo` holds the frames whose storage changed for stores that wait for a chunk (R428, R444). -/
structure Inv where
  id : Nat
  op : Nat
  o : Ops
  ctx : CtxId
  pc : Word
  asid : BitVec 9
  pos : BitVec 32
  prod : Nat
  sd : Word
  sa : Word
  sb : Word
  sc : Word
  va : VReg
  pivots : List (BitVec 32)
  mkPair : BitVec 8
  chain : SMap ChainNode
  fmt : BitVec 4
  rs : Word
  skip : Bool
  held : Bool
  cycle : Word
  st : InvState
  beats : List (Nat × Beat)
  eotSent : Bool
  asked : Nat
  fault : Option GenFault
  waitsStorage : Option (Nat × Nat)
  seq : BitVec 16
  ports : List Nat
  undo : List Undo
  deriving DecidableEq, Repr

/-- A reservation of accumulators and weight slots for a region (R363). -/
structure Reservation where
  rcb : Nat
  accs : BitVec 4
  slots : BitVec 32
  owner : Option CtxId
  deriving DecidableEq, Repr

/-- A term of the Ligature (R42, R296). -/
structure Term where
  c0 : BitVec 32
  c1 : BitVec 32
  c2 : BitVec 32
  c3 : BitVec 32
  eng : BitVec 5
  configured : Bool
  deriving DecidableEq, Repr

/-- A term that was never configured. -/
def Term.reset : Term := ⟨0, 0, 0, 0, 0, false⟩

/-- What a cycle adds to the Ligature at its end (R294): the increments by counter, the subtractions with their counters, the engines that a term started, the LIGCNT writes (the counter, the form of R299 and the value), and the terms and routings configured. -/
structure Ligature where
  adds : SMap Nat
  subs : List (Nat × Nat)
  fired : List Nat
  writes : List (Nat × BitVec 2 × BitVec 16)
  terms : List (Nat × Term)
  routes : List (Nat × Word)
  deriving DecidableEq, Repr

/-- A cycle in which the Ligature has done nothing yet. -/
def Ligature.idle : Ligature := ⟨[], [], [], [], [], []⟩

/-- A translation held in a TLB (R322). -/
structure TlbEntry where
  asid : BitVec 9
  va : Nat
  size : Nat
  pte : Word
  deriving DecidableEq, Repr

/-- An expansion held in the instruction cache, by virtual address (R57). -/
structure CachedCode where
  asid : BitVec 9
  kLevel : Bool
  va : Nat
  bytes : List Byte
  deriving DecidableEq, Repr

/-- An interrupt queued at a core (R329). -/
structure Irq where
  source : BitVec 8
  aux1 : Word
  aux2 : Word
  deriving DecidableEq, Repr

/-- A trap's cause and detail (R310, R312). A detail register the manual states nothing of is none: trap entry writes a free value there (log entry 1). -/
structure TrapInfo where
  cause : BitVec 5
  aux0 : Option Word
  aux1 : Option Word
  aux2 : Option Word
  aux3 : Option Word
  deriving DecidableEq, Repr

/-- A trap condition of a context that waits for the core to leave a trap (R313), with its KEPC and ASID. -/
structure PendingTrap where
  ctx : BitVec 3
  kepc : Word
  asid : BitVec 9
  info : TrapInfo
  deriving DecidableEq, Repr

/-- An armed or running cut of a context (R332, R333); `started` once ERET let it begin. -/
structure Cut where
  ctx : CtxId
  area : Word
  asid : BitVec 9
  len : Nat
  started : Bool
  taken : Bool
  deriving DecidableEq, Repr

/-- What a cut saved beyond the bytes whose layout the manual gives: the context, the ports, every accumulator and weight slot it owned, at its reset value too (R335, R339), and the core it left. -/
structure Saved where
  ctx : Ctx
  ports : SMap Port
  accs : SMap Acc
  wslots : SMap WSlot
  resv : Option Reservation
  core : Nat
  deriving DecidableEq, Repr

/-- A scratchpad slot in a save area: its number, its tag entry, its data and its full bits (R335). -/
structure SavedSlot where
  slot : Nat
  tag : Word
  data : List Byte
  full : BitVec 256
  deriving DecidableEq, Repr

/-- An armed restore, with what was read from the save area (R336). -/
structure Restore where
  ctx : CtxId
  saved : Saved
  slots : List SavedSlot
  deriving DecidableEq, Repr

/-- A stream core (R11). `lig` holds what the cycle in progress adds to the Ligature. `snaps` holds the snapshot sets of its nodes by node number, twelve words each (R513, R524), `live` the counters of the interval in progress and its length, and `noted` what a node has done in this cycle: 1 a configuration, 2 a firing, 3 both. `store` holds the tape store's copies of records by device-physical address, the latest first (R447). `rank` is the model's own: what the order of R142 has reached in this cycle. -/
structure Core where
  u0 : Ctx
  u1 : Ctx
  u2 : Ctx
  u3 : Ctx
  k : Ctx
  cur : CtxId
  kvbr : Word
  kcause : Word
  kepc : Word
  kaux0 : Word
  kaux1 : Word
  kaux2 : Word
  kaux3 : Word
  kscratch : Word
  flags : BitVec 16
  wdx : BitVec 4
  inTrap : Bool
  asid : BitVec 9
  sstep : Word
  detmode : Word
  cycle : Word
  halted : Bool
  irqs : List Irq
  pend : List PendingTrap
  cut : Option Cut
  restore : Option Restore
  rr : Nat
  accs : SMap Acc
  wslots : SMap WSlot
  resv : List Reservation
  chain : SMap ChainNode
  skipOn : Bool
  skipCount : Word
  spm : SMap Byte
  full : SMap Bool
  tags : SMap Word
  ports : SMap Port
  invs : List Inv
  nextInv : Nat
  ev : SMap (BitVec 16)
  ovf : SMap Bool
  terms : SMap Term
  routes : SMap Word
  icache : List CachedCode
  l1tlb : List TlbEntry
  gram : SMap Byte
  actBase : Word
  image : Option Nat
  circuits : SMap (BitVec 128)
  debugTable : SMap (BitVec 128)
  traceCtl : Word
  traceWptr : Word
  copySeq : BitVec 16
  snaps : SMap (List (BitVec 32))
  live : SMap (List (BitVec 32))
  noted : SMap Nat
  store : List (Nat × BitVec 128)
  rank : Nat
  lig : Ligature
  deriving DecidableEq, Repr

/-- A core right after reset (R62, R110, R194, R268, R309, R338, R389); registers the manual gives no reset value hold 0 (log entry 5). -/
def Core.reset : Core where
  u0 := Ctx.reset
  u1 := Ctx.reset
  u2 := Ctx.reset
  u3 := Ctx.reset
  k := Ctx.reset
  cur := .u0
  kvbr := 0
  kcause := 0
  kepc := 0
  kaux0 := 0
  kaux1 := 0
  kaux2 := 0
  kaux3 := 0
  kscratch := 0
  flags := 0
  wdx := 0xB
  inTrap := false
  asid := 0
  sstep := 0
  detmode := 0
  cycle := 0
  halted := false
  irqs := []
  pend := []
  cut := none
  restore := none
  rr := 0
  accs := []
  wslots := []
  resv := []
  chain := []
  skipOn := true
  skipCount := 0
  spm := []
  full := []
  tags := []
  ports := []
  invs := []
  nextInv := 0
  ev := []
  ovf := []
  terms := []
  routes := []
  icache := []
  l1tlb := []
  gram := []
  actBase := 0
  image := none
  circuits := []
  debugTable := []
  traceCtl := 0
  traceWptr := 0
  copySeq := 0
  snaps := []
  live := []
  noted := []
  store := []
  rank := 0
  lig := Ligature.idle

/-- A write that waits for a chunk (R433): the core, and the context or the invocation that makes it, its line and the VA of it (R436), the port of an invocation's store to it, the length of the instruction, and the cycles left of its budget. -/
structure HeldWrite where
  core : Nat
  ctx : CtxId
  inv : Option Nat
  line : Nat
  va : Nat
  port : Nat
  len : Nat
  left : Nat
  deriving DecidableEq, Repr

/-- A compute die: its TLB, Well, memory controller, Margin recorder, bind slots and thermal state (R10, R421 to R443, R482, R513, R526 to R532).
`dirty` holds a dirty line's number and whether it is marked incompressible (bit 1); `l1` names the dirty lines that an L1 holds and the Well does not, each with its core, the latest stored first, and `copies` those that an L1 holds clean, the latest used first; `clean` holds the lines that the Well holds clean, the latest used first.
`raw` is the die's raw storage by byte address (R424, R425). `undone` holds the frames that a halted core's held commits changed, which are to be returned to what they were (R444).
`now` is the model's own: the Margin records of the cycle in progress, each with whether its event is fatal (R528). -/
structure Die where
  tlb : List TlbEntry
  dirty : SMap (BitVec 2)
  deferred : List Nat
  held : List HeldWrite
  bad : SMap (BitVec 8)
  fmrs : SMap (BitVec 1024)
  free : Nat
  low : Nat
  crit : Nat
  commit : Nat
  hwres : Nat
  kres : Nat
  hbudg : Nat
  recl : Word
  hwuse : Word
  saved : Word
  oos : Word
  lists : SMap (List Nat)
  prio : SMap (BitVec 4)
  lastVf : Nat
  margin : SMap (BitVec 256)
  mseq : BitVec 16
  mwptr : BitVec 12
  frz : Bool
  gate : BitVec 7
  trip : Bool
  bind : SMap (Option (BitVec 128))
  refused : List (Nat × BitVec 128 × Nat)
  noBind : Bool
  clean : List Nat
  l1 : List (Nat × Nat)
  copies : List (Nat × Nat)
  raw : SMap Byte
  undone : List Undo
  now : List (Bool × BitVec 256)
  deriving DecidableEq, Repr

/-- A die right after reset: the controller registers of R442, every FMR zero (R423, R530). -/
def Die.reset : Die where
  tlb := []
  dirty := []
  deferred := []
  held := []
  bad := []
  fmrs := []
  free := 129890304
  low := 65536
  crit := 16384
  commit := 16
  hwres := 131072
  kres := 2048
  hbudg := 12000
  recl := 0
  hwuse := 0
  saved := 0
  oos := 0
  lists := []
  prio := []
  lastVf := 255
  margin := []
  mseq := 0
  mwptr := 0
  frz := false
  gate := 0
  trip := false
  bind := []
  refused := []
  noBind := false
  clean := []
  l1 := []
  copies := []
  raw := []
  undone := []
  now := []

/-- A command queue (R477 to R481). `ind` is the stack of INDIRECT buffers: the next word's address and the words left. `hold` is the packet type that holds the queue, `words` are the words of that packet as they were read, and `stop` tells that parsing stops after the packet in progress. -/
structure Queue where
  err : BitVec 32
  msix : BitVec 11
  asid : BitVec 9
  wptr : BitVec 32
  rptr : BitVec 32
  base : BitVec 36
  state : BitVec 2
  log2 : BitVec 5
  seq : Nat
  pend : SMap Desc
  tape : Option Tape
  ind : List (Nat × Nat)
  hold : Option (BitVec 8)
  words : List Nat
  stop : Bool
  deriving DecidableEq, Repr

/-- An OFF queue (R477). -/
def Queue.reset : Queue := ⟨0, 0, 0, 0, 0, 0, 0, 0, 0, [], none, [], none, [], false⟩

/-- A launch of the launch table (R16 to R22, R481, R485 to R491). `ended` is the cycle in which its last group retired or was discarded. -/
structure Launch where
  q : Nat
  seq : Nat
  rcbVa : Word
  rcb : Nat
  asid : BitVec 9
  grid : BitVec 32
  icount : Word
  signal : Word
  int : Bool
  pkt : Nat
  descs : SMap Desc
  tape : Option Tape
  count : Option (BitVec 32)
  nextG : Nat
  bound : Nat
  retired : Nat
  disc : BitVec 32
  nfault : BitVec 32
  fgrp : BitVec 32
  fcause : BitVec 8
  status : BitVec 8
  closed : Bool
  ringWait : Bool
  ended : Option Nat
  deriving DecidableEq, Repr

/-- A loaded pipeline image (R497 to R501): its place, needs, the records that binding uses, and the circuit and debug tables of its region. -/
structure Image where
  va : Word
  asid : BitVec 9
  hash : Word
  ncore : Nat
  base : Nat
  needs : BitVec 256
  nodes : List (BitVec 256)
  links : List (BitVec 128)
  ports : List (BitVec 128)
  wins : List (BitVec 128)
  circuits : List (BitVec 128)
  debug : List (BitVec 128)
  actOff : Nat
  deriving DecidableEq, Repr

/-- A region (R13): its RCB's address, state, image, the first core used next (R484), who is told of a drain's end. -/
structure Region where
  rcbVa : Word
  asid : BitVec 9
  state : BitVec 2
  image : Option Image
  nextCore : Nat
  drainCore : Option Nat
  deriving DecidableEq, Repr

/-- The coalescing state of an event ring (R490): the function whose vectors it raises, records since its last interrupt, and the cycle of the oldest. -/
structure RingState where
  vf : Nat
  count : Nat
  oldest : Nat
  deriving DecidableEq, Repr

/-- A firmware image: its header of 4 KiB and its body (R519). -/
structure FwImage where
  head : List Byte
  body : List Byte
  deriving DecidableEq, Repr

/-- A firmware slot (R510, R518): the image it holds (none: the one it left the factory with), and the result of a check in progress with the image checked. -/
structure FwSlot where
  src : BitVec 28
  status : BitVec 8
  image : Option FwImage
  found : Option (BitVec 8 × FwImage)
  deriving DecidableEq, Repr

/-- A slot of a part that leaves the factory; STATUS reads 0xFF, no check made (R510). -/
def FwSlot.reset : FwSlot := ⟨0, 0xFF, none, none⟩

/-- What goes out over a Relfel link: a symbol of a KIND 1 circuit for a port of a core of the peer, bytes for an address of the peer or a read of some, of a window transfer (R514 to R516), and the answer to an access of the peer. -/
inductive PeerMsg where
  | stream (core port : Nat) (x : CircuitSymbol)
  | write (dpa : Nat) (bs : List Byte)
  | read (dpa n : Nat)
  | reply (x : CircuitSymbol)
  deriving DecidableEq, Repr

/-- The hub die (R9, R477 to R493, R504 to R522). `scribeUp` tells that the Scribe runs. `prods` is the model's own: the production credited to the command recorded at a DPA, plus 1 (R311). -/
structure Hub where
  roots : SMap Word
  queues : SMap Queue
  nextQ : Nat
  launches : SMap (Option Launch)
  accepted : List Nat
  regions : SMap (Option Region)
  rings : SMap RingState
  vfs : SMap Word
  relfel : SMap (BitVec 128)
  stage : BitVec 4
  spst : BitVec 4
  fest : BitVec 4
  scrst : BitVec 4
  fuse : BitVec 6
  fw : SMap FwSlot
  kbootErr : BitVec 8
  kbootDone : Bool
  kbootGo : Bool
  kblock : SMap Byte
  kdoorst : Word
  measure : BitVec 384
  nonce : SMap Byte
  attestGo : Bool
  attestDone : Bool
  report : SMap Byte
  msix : List (Nat × Nat)
  scribeUp : Bool
  cycle : Word
  saves : SMap (Option Saved)
  nextSave : Nat
  peerOut : List (Nat × PeerMsg)
  hostRead : List Byte
  prods : SMap Nat
  deriving DecidableEq, Repr

/-- The hub right after reset (R477, R505, R508, R509). -/
def Hub.reset : Hub where
  roots := []
  queues := []
  nextQ := 0
  launches := []
  accepted := []
  regions := []
  rings := []
  vfs := []
  relfel := []
  stage := 0
  spst := 0xF
  fest := 0xF
  scrst := 0xF
  fuse := 0
  fw := []
  kbootErr := 0
  kbootDone := false
  kbootGo := false
  kblock := []
  kdoorst := 0
  measure := 0
  nonce := []
  attestGo := false
  attestDone := false
  report := []
  msix := []
  scribeUp := false
  cycle := 0
  saves := []
  nextSave := 1
  peerOut := []
  hostRead := []
  prods := []

/-- What the agenda lets happen next: a step of another agent or of the hardware, that another of the module's 512 cores is looked at (R2), or a read of a BAR0 by the host: of 8 bytes at an offset of the PF's, or of 4 at an offset of a virtual function's (R504). -/
inductive Turn where
  | event (i : Instr)
  | focus (core : BitVec 9)
  | pfRead (off : BitVec 24)
  | vfRead (vf : BitVec 8) (off : BitVec 16)
  deriving DecidableEq, Repr

/-- A store that not every party need see yet, or a release of an object that is no store: an update of a completion object or a fence (R116, R119 to R133). `seq` numbers the instructions and commits that stored, and with the party gives its program order.
`addr` and `len` are its bytes, or the object's place; `old` is what the bytes held before, and is empty for an object. No party sees part of an aligned piece of `unit` bytes. `kind` is the page's ordering kind.
`ord` is what the party has since ordered the store before: 0 nothing, 1 the invocations it issues, 2 its later stores too, 3 its later loads too; 4 tells that a later store that every party sees took its place.
`rel` is how far a release reaches, 0 for none; with `fence` every later store of the party carries it, with `all` it covers the commits of the party's invocations too. `chain` marks an atomic read-modify-write.
`vis` is how far the store is visible: 4 to every party. `got` lists the invocations that cannot miss it, `readers` the contexts whose plain loads read it. `cyc` is the cycle of a scratchpad access. -/
structure Unseen where
  party : Nat
  seq : Nat
  addr : Nat
  len : Nat
  old : List Byte
  unit : Nat
  kind : Nat
  ord : Nat
  rel : Nat
  fence : Bool
  all : Bool
  chain : Bool
  vis : Nat
  got : List Nat
  readers : List Nat
  cyc : Option Nat
  deriving DecidableEq, Repr

/-- The machine. `core` is the core looked at, number `coreId`; `others` holds the other cores. `mem` is main memory by device-physical address, and `unseen` holds the stores to it and to the scratchpads that some parties may miss yet, the latest in each location's coherence order first.
`agenda`, `hwNext` and `free` are the model's own: which agents move next, whether the hardware moves before the core issues, and the count of free values taken. -/
structure State where
  core : Core
  coreId : Nat
  others : SMap Core
  dies : SMap Die
  hub : Hub
  mem : List Host.Cell
  agenda : List Turn
  hwNext : Bool
  free : Nat
  unseen : List Unseen
  deriving DecidableEq, Repr

/-- The machine right after cold reset. -/
def State.reset : State where
  core := Core.reset
  coreId := 0
  others := []
  dies := []
  hub := Hub.reset
  mem := []
  agenda := []
  hwNext := false
  free := 0
  unseen := []

/-- Main memory in its canonical form: addresses rise strictly, and no entry holds 0, which an unlisted address reads as. -/
def Memory.wf (m : List Host.Cell) : Bool := SMap.wf 0 m

end Sys2Proof.Machine
end

