-- ==== Sys2Proof/Machine/Ops.lean ====
section
/-! DEFINITION. The named operations over the state: contexts and registers, traps and the return from one, translation, memory. -/

namespace Sys2Proof.Machine

/-! ## Contexts and registers -/

/-- A context of a core. -/
def Core.ctxOf (c : Core) (i : CtxId) : Ctx :=
  match i with
  | .u0 => c.u0
  | .u1 => c.u1
  | .u2 => c.u2
  | .u3 => c.u3
  | .k => c.k

/-- A core with one context changed. -/
def Core.putCtx (c : Core) (i : CtxId) (x : Ctx) : Core :=
  match i with
  | .u0 => { c with u0 := x }
  | .u1 => { c with u1 := x }
  | .u2 => { c with u2 := x }
  | .u3 => { c with u3 := x }
  | .k => { c with k := x }

/-- The number of a context in registers and records: 0 to 3 for U0 to U3, 4 for K (R308). -/
def ctxNum : CtxId → Nat
  | .u0 => 0
  | .u1 => 1
  | .u2 => 2
  | .u3 => 3
  | .k => 4

/-- The U context of a number. -/
def uCtx (n : Nat) : CtxId :=
  match n % 4 with
  | 0 => .u0
  | 1 => .u1
  | 2 => .u2
  | _ => .u3

/-- The U contexts in ascending number. -/
def uCtxs : List CtxId := [.u0, .u1, .u2, .u3]

/-- The context of a number of R308, the K context from 4 on. -/
def ctxOfNum (n : Nat) : CtxId := if n < 4 then uCtx n else .k

/-- The state with another core component. -/
def State.putCore (s : State) (c : Core) : State := { s with core := c }

/-- The executing context. -/
def State.ctx (s : State) : Ctx := s.core.ctxOf s.core.cur

/-- The state with the executing context changed. -/
def State.putCtx (s : State) (x : Ctx) : State := { s with core := s.core.putCtx s.core.cur x }

/-- A context of the core looked at. -/
def State.ctxAt (s : State) (i : CtxId) : Ctx := s.core.ctxOf i

/-- The state with a context of the core looked at changed. -/
def State.putCtxAt (s : State) (i : CtxId) (x : Ctx) : State := { s with core := s.core.putCtx i x }

/-- The executing context runs at K-level. -/
def State.kLevel (s : State) : Bool := s.core.cur = .k

/-- Scalar register n of a context; s0 reads 0 (R59). -/
def Ctx.getS (x : Ctx) (n : Nat) : Word := if n = 0 then 0 else SMap.get 0 x.s n

/-- Writing scalar register n; a write to s0 is discarded (R59). -/
def Ctx.setS (x : Ctx) (n : Nat) (w : Word) : Ctx := if n = 0 then x else { x with s := SMap.set 0 x.s n w }

/-- Vector register n. -/
def Ctx.getV (x : Ctx) (n : Nat) : VReg := SMap.get 0 x.v n

/-- Writing vector register n. -/
def Ctx.setV (x : Ctx) (n : Nat) (w : VReg) : Ctx := { x with v := SMap.set 0 x.v n w }

/-- Predicate register n; p0 reads all ones (R59). -/
def Ctx.getP (x : Ctx) (n : Nat) : PReg := if n = 0 then BitVec.allOnes 256 else SMap.get 0 x.p n

/-- Writing predicate register n; p0 is no destination (R59). -/
def Ctx.setP (x : Ctx) (n : Nat) (w : PReg) : Ctx := if n = 0 then x else { x with p := SMap.set 0 x.p n w }

/-- S[n] of the executing context. -/
def State.getS (s : State) (n : BitVec 6) : Word := s.ctx.getS n.toNat
/-- S[n] := w. -/
def State.setS (s : State) (n : BitVec 6) (w : Word) : State := s.putCtx (s.ctx.setS n.toNat w)
/-- V[n] of the executing context. -/
def State.getV (s : State) (n : BitVec 6) : VReg := s.ctx.getV n.toNat
/-- V[n] := w. -/
def State.setV (s : State) (n : BitVec 6) (w : VReg) : State := s.putCtx (s.ctx.setV n.toNat w)
/-- P[n] of the executing context. -/
def State.getP (s : State) (n : BitVec 6) : PReg := s.ctx.getP n.toNat
/-- P[n] := w. -/
def State.setP (s : State) (n : BitVec 6) (w : PReg) : State := s.putCtx (s.ctx.setP n.toNat w)

/-- The sticky flags of R110 set in addition. -/
def State.addFlags (s : State) (f : BitVec 16) : State := { s with core := { s.core with flags := s.core.flags ||| f } }

/-- A free value: a number the manual does not state, fresh each time (log entry 1). -/
def State.takeFree (s : State) : Word × State := (Config.freeWord s.free, { s with free := s.free + 1 })

/-! ## Cores and dies -/

/-- Core n of the module. -/
def State.coreOf (s : State) (n : Nat) : Core := if n = s.coreId then s.core else SMap.get Core.reset s.others n

/-- The state with core n changed. -/
def State.putCoreAt (s : State) (n : Nat) (c : Core) : State :=
  if n = s.coreId then { s with core := c } else { s with others := SMap.set Core.reset s.others n c }

/-- The state that looks at core n. -/
def State.focus (s : State) (n : Nat) : State :=
  if n = s.coreId then s
  else
    { s with
      core := SMap.get Core.reset s.others n
      coreId := n
      others := SMap.set Core.reset (SMap.set Core.reset s.others s.coreId s.core) n Core.reset }

/-- Every core of the module changed: the core looked at and every core that differs from a reset core; the change must leave a reset core as it is. -/
def State.mapCores (s : State) (f : Nat → Core → Core) : State :=
  { s with
    core := f s.coreId s.core
    others := s.others.foldl (fun m e => SMap.set Core.reset m e.1 (f e.1 e.2)) s.others }

/-- Die d. -/
def State.die (s : State) (d : Nat) : Die := SMap.get Die.reset s.dies d
/-- The state with die d changed. -/
def State.putDie (s : State) (d : Nat) (x : Die) : State := { s with dies := SMap.set Die.reset s.dies d x }
/-- The die of the core looked at (R8). -/
def State.dieId (s : State) : Nat := s.coreId / 64
/-- The die whose window holds a DPA (R7). -/
def dieOfDpa (a : Nat) : Nat := a / 2 ^ 37

/-- The cycle of a core is gated (R531): with g/64 gating, g of each 64 cycles; which of them is a free value (log entry 10). -/
def State.gated (s : State) : Bool :=
  let g := (s.die s.dieId).gate.toNat
  let n := s.core.cycle.toNat
  if g = 0 then false else if 64 ≤ g then true else decide ((n + Config.gateStart g (n / 64)) % 64 < g)

/-! ## The counters of the nodes (R524) -/

/-- A counter one up, saturating. -/
def satUp (w : BitVec 32) : BitVec 32 := if w = BitVec.allOnes 32 then w else w + 1

/-- A node's counters after a cycle of a class; the last word is the interval's length. -/
def countCycle (l : List (BitVec 32)) (k : Nat) : List (BitVec 32) :=
  (List.range 12).map (fun i => let w := l.getD i 0; if i = k || i = 11 then satUp w else w)

/-- The class of a node's cycle: IDLE when it is gated, then CONFIG and FIRED by what the node did. The model does not follow what a node lacks: of the other nine classes a free value tells (log entry 50). -/
def nodeClass (noted : Nat) (gated : Bool) (f : Word) : Nat :=
  if gated then 10 else if noted % 2 = 1 then 0 else if noted / 2 = 1 then 1 else 2 + f.toNat % 9

/-- A cycle counted at every node that an image placed. -/
def Core.countNodes (c : Core) (gated : Bool) (free : Nat) : Core :=
  { c with live := c.live.map (fun e => (e.1, countCycle e.2 (nodeClass (SMap.get 0 c.noted e.1) gated (Config.freeWord (free + e.1))))), noted := [] }

/-- What a node does in this cycle is noted. -/
def Core.note (c : Core) (n k : Nat) : Core :=
  if (SMap.get [] c.live n).isEmpty then c else { c with noted := SMap.set 0 c.noted n (SMap.get 0 c.noted n ||| k) }

/-- Nodes consume or produce a beat. -/
def Core.fired (c : Core) (l : List Nat) : Core := l.foldl (fun a n => a.note n 2) c

/-- A configuration interval starts at a node: the counts of the interval just ended enter its snapshot set, and the live counters clear. -/
def Core.startInterval (c : Core) (n : Nat) : Core :=
  let l := SMap.get [] c.live n
  ({ c with snaps := if l.isEmpty then c.snaps else SMap.set [] c.snaps n l, live := SMap.set [] c.live n (List.replicate 12 0) }).note n 1

/-! ## The Margin recorder (R526 to R528) -/

/-- CORE and TIME of a record. -/
def marginCore (r : BitVec 256) : Nat := r.toNat / 2 ^ 23 % 512
def marginTime (r : BitVec 256) : Nat := r.toNat / 2 ^ 192

/-- A record put before those of a list that come after it: a fatal event's come last, in ascending core number (R528). -/
def insertMargin (e : Bool × BitVec 256) (l : List (Bool × BitVec 256)) : List (Bool × BitVec 256) :=
  match l with
  | [] => [e]
  | h :: t => if (h.1 && !e.1) || (h.1 = e.1 && marginCore e.2 < marginCore h.2) then e :: h :: t else h :: insertMargin e t

/-- Records written from a slot and a sequence number on. -/
def Die.writeMargin (d : Die) (wptr : BitVec 12) (seq : BitVec 16) (l : List (Bool × BitVec 256)) : Die :=
  match l with
  | [] => { d with mwptr := wptr, mseq := seq }
  | r :: t => Die.writeMargin { d with margin := SMap.set 0 d.margin wptr.toNat (r.2 + seq.setWidth 256) } (wptr + 1) (seq + 1) t

/-- A record that names a source-graph node is written and, for a fatal event, the recorder frozen at the end of the cycle: an event of the same cycle is recorded before it, in ascending core number; after it nothing is (R528). -/
def State.marginAt (s : State) (node : Nat) (d : Nat) (code cause : Nat) (addr detail : Word) (core ctx : Nat) (fatal : Bool) : State :=
  let x := s.die d
  let l := x.now.filter (fun e => marginTime e.2 = s.hub.cycle.toNat)
  if x.frz && l.isEmpty then s
  else
    let r : BitVec 256 := BitVec.ofNat 256
      (s.hub.cycle.toNat * 2 ^ 192 + addr.toNat * 2 ^ 128 + detail.toNat * 2 ^ 64 + node % 65536 * 2 ^ 48 + (cause % 256) * 2 ^ 40
        + (code % 256) * 2 ^ 32 + (core % 512) * 2 ^ 23 + (ctx % 16) * 2 ^ 19 + (d % 8) * 2 ^ 16)
    let l1 := if l.any (·.1) || fatal then insertMargin (fatal, r) l else l ++ [(fatal, r)]
    s.putDie d { x.writeMargin (x.mwptr - BitVec.ofNat 12 l.length) (x.mseq - BitVec.ofNat 16 l.length) l1 with frz := x.frz || fatal, now := l1 }

/-- A record to which no node applies. -/
def State.margin (s : State) (d : Nat) (code cause : Nat) (addr detail : Word) (core ctx : Nat) (fatal : Bool) : State :=
  s.marginAt 0xFFFF d code cause addr detail core ctx fatal

/-- The source-graph number of a node of the core looked at, by its unit and its port (R499, R523, R526): 0xFFFF when the image of the core places none. -/
def State.nodeNumber (s : State) (unit idx : Nat) : Nat :=
  match s.core.image.bind (fun n => (SMap.get none s.hub.regions n).bind (fun r => r.image)) with
  | none => 0xFFFF
  | some i =>
    ((i.nodes.find? (fun r => i.base + (r.extractLsb' 16 9).toNat = s.coreId && (r.extractLsb' 28 4).toNat = unit && (r.extractLsb' 32 3).toNat = idx)).map
      (fun r => (r.extractLsb' 0 16).toNat)).getD 0xFFFF

/-! ## Effects of an instruction -/

/-- A trap that reports KAUX0 and KAUX1. -/
def trapInfo (cause : BitVec 5) (aux0 aux1 : Word) : TrapInfo := ⟨cause, some aux0, some aux1, none, none⟩

/-- A trap that reports KAUX0 only. -/
def trapSub (cause : BitVec 5) (aux0 : Word) : TrapInfo := ⟨cause, some aux0, none, none, none⟩

/-- A trap that reports KAUX1 only. -/
def trapAddr (cause : BitVec 5) (aux1 : Word) : TrapInfo := ⟨cause, none, some aux1, none, none⟩

/-- A trap that reports no detail. -/
def trapBare (cause : BitVec 5) : TrapInfo := ⟨cause, none, none, none, none⟩

/-- The detail with free values where the manual states none; of KAUX0 the subcode only, its other bits are 0 (R58). -/
def TrapInfo.fill (t : TrapInfo) (n : Nat) : TrapInfo :=
  ⟨t.cause, some (t.aux0.getD (Config.freeWord n &&& 0xFF)), some (t.aux1.getD (Config.freeWord (n + 1))),
    some (t.aux2.getD (Config.freeWord (n + 2))), some (t.aux3.getD (Config.freeWord (n + 3)))⟩

/-- What the body of an instruction does: go on, transfer control, raise a class A trap or a class X trap (R311), or block its context. -/
inductive Eff where
  | next (s : State)
  | jump (s : State) (target : Word)
  | trap (t : TrapInfo) (s : State)
  | raise (t : TrapInfo) (s : State)
  | block (w : Wait) (s : State)

/-- The cause codes of R310. -/
abbrev cIllegalOp : BitVec 5 := 1
abbrev cIllegalField : BitVec 5 := 2
abbrev cPriv : BitVec 5 := 3
abbrev cAlign : BitVec 5 := 4
abbrev cPageNotPresent : BitVec 5 := 5
abbrev cPagePermission : BitVec 5 := 6
abbrev cOutOfSpace : BitVec 5 := 7
abbrev cBalloonAccess : BitVec 5 := 8
abbrev cMemUncorrectable : BitVec 5 := 9
abbrev cGrammarMismatch : BitVec 5 := 10
abbrev cActionBudget : BitVec 5 := 11
abbrev cFmtMismatch : BitVec 5 := 12
abbrev cTidInvalid : BitVec 5 := 13
abbrev cPortAlias : BitVec 5 := 14
abbrev cBarrierOverflow : BitVec 5 := 15
abbrev cReplayFault : BitVec 5 := 16
abbrev cPatchRange : BitVec 5 := 17
abbrev cDivideZero : BitVec 5 := 18
abbrev cStackOverflow : BitVec 5 := 19
abbrev cSaveFault : BitVec 5 := 20
abbrev cWatchdog : BitVec 5 := 21
abbrev cDebugStep : BitVec 5 := 22
abbrev cBreakpoint : BitVec 5 := 23
abbrev cSyscall : BitVec 5 := 24
abbrev cIfetch : BitVec 5 := 25
abbrev cCircuit : BitVec 5 := 26
abbrev cScratchRange : BitVec 5 := 27
abbrev cSignalInvalid : BitVec 5 := 28

/-! ## Memory as bytes -/

/-- The byte at a DPA; a byte never written reads 0 (R423, R530). -/
def State.byteAt (s : State) (a : Nat) : Byte := SMap.get 0 s.mem a

/-- n bytes from a DPA on, lowest first. -/
def State.bytesAt (s : State) (a n : Nat) : List Byte := (List.range n).map (fun i => s.byteAt (a + i))

/-- The 8 bytes at a DPA as one word, read coherently (R116, R322). -/
def State.wordAt (s : State) (a : Nat) : Word := BitVec.ofNat 64 (leNat (s.bytesAt a 8))

/-- A byte written at a DPA. -/
def State.pokeByte (s : State) (a : Nat) (b : Byte) : State := { s with mem := SMap.set 0 s.mem a b }

/-- Bytes written from a DPA on. -/
def State.pokeBytes (s : State) (a : Nat) (bs : List Byte) : State :=
  match bs with
  | [] => s
  | b :: t => State.pokeBytes (s.pokeByte a b) (a + 1) t

/-! ## The frames of main memory (R422, R423, R437, R438) -/

/-- A fault of an access: the cause, KAUX0[7:0] and KAUX1. -/
structure Flt where
  cause : BitVec 5
  sub : Nat
  addr : Nat
  deriving DecidableEq, Repr

/-- The FMR of the frame that holds a DPA. -/
def State.fmr (s : State) (a : Nat) : BitVec 1024 := SMap.get 0 (s.die (dieOfDpa a)).fmrs (a / 4096)

/-- A frame is committed when its offset in the die's window is below COMMIT × 4 GiB (R422). -/
def State.committed (s : State) (a : Nat) : Bool := decide (a % 2 ^ 37 < (s.die (dieOfDpa a)).commit * 2 ^ 32)

/-- BAL of an FMR. -/
def fmrBal (f : BitVec 1024) : Bool := f.getLsbD 662

/-- The CRC an FMR must carry, over its bits [703:0] (R423). -/
def fmrCrc (f : BitVec 1024) : BitVec 32 := crc32 (leBytes 88 (f.toNat % 2 ^ 704))

/-- The metadata of a line is bad: a reserved tag, or an FMR, other than the all-zero one, whose CRC does not match (R423, R438). -/
def fmrBad (f : BitVec 1024) (line : Nat) : Bool :=
  f ≠ 0 && (8 ≤ f.toNat / 2 ^ (12 * (line % 32)) % 16 || f.extractLsb' 704 32 ≠ fmrCrc f)

/-- A line is dirty in an L1 or a Well, so that no read reaches its stored form. -/
def State.isDirty (s : State) (line : Nat) : Bool := SMap.get 0 (s.die (dieOfDpa (line * 128))).dirty line ≠ 0

/-- What a read of a line's stored form meets (R438): 0x00 bad data, 0x01 bad metadata. -/
def State.lineBad (s : State) (line : Nat) : Option Nat :=
  if s.isDirty line then none
  else
    let b := SMap.get 0 (s.die (dieOfDpa (line * 128))).bad line
    if b = 2 || fmrBad (s.fmr (line * 128)) line then some 1 else if b = 1 then some 0 else none

/-- The fault of an access to the byte at a DPA: uncommitted, ballooned, or an uncorrectable line that the access must read (R437, R438). `va` is what KAUX1 names. -/
def frameFault (s : State) (reads : Bool) (dpa va : Nat) : Option Flt :=
  if s.committed dpa = false then some ⟨cBalloonAccess, 0x01, va⟩
  else if fmrBal (s.fmr dpa) then some ⟨cBalloonAccess, 0x00, va⟩
  else if reads then (s.lineBad (dpa / 128)).map (fun k => ⟨cMemUncorrectable, k, va / 128 * 128⟩)
  else none

/-- The first fault among n bytes of one page, ascending. A write that covers a whole line reads nothing of it (R438), unless its metadata is bad. -/
def frameFaults (s : State) (read : Bool) (dpa va : Nat) (n : Nat) : Option Flt :=
  (List.range n).findSome? (fun i =>
    let a := dpa + i
    if i = 0 || a % 128 = 0 then
      let whole := !read && a % 128 = 0 && i + 128 ≤ n
      frameFault s (!whole || s.lineBad (a / 128) = some 1) a (va + i)
    else none)

/-! ## Translation (R156 to R158, R320 to R326) -/

/-- How an access translates. -/
inductive Access where
  | read | write | fetch
  deriving DecidableEq, Repr

/-- Why a walk failed, in the order of the rows of R321; and that a table it must read lies in a frame that is ballooned or not committed (R437), or in a line that cannot be read (R438), with the subcode. -/
inductive WalkFail where
  | root | notPresent | kind | malformed
  | balloon (sub : Nat)
  | bad (sub : Nat)
  deriving DecidableEq, Repr

/-- The end of a walk: the entry, its level, the size of the page mapped, or why it failed. -/
structure WalkEnd where
  pte : Word
  level : Nat
  size : Nat
  fail : Option WalkFail
  deriving DecidableEq, Repr

/-- Bits [hi:lo] of a word as a number. -/
def bits (w : Word) (hi lo : Nat) : Nat := w.toNat / 2 ^ lo % 2 ^ (hi + 1 - lo)

/-- One bit of a word. -/
def bit (w : Word) (n : Nat) : Bool := w.getLsbD n

/-- DPA[39:12] of an entry, as an address. -/
def pteDpa (e : Word) : Nat := bits e 39 12 * 4096

/-- The breach of R320 and R321 an entry makes at a level, in the order of the rows. -/
def pteBreach (e : Word) (level : Nat) : Option WalkFail :=
  let reserved := bits e 63 40 ≠ 0 || bit e 11 || bit e 1
  let leaf := bit e 10
  if bit e 0 = false then some .notPresent
  else if bits e 8 7 = 3 then some .kind
  else if reserved then some .malformed
  else if leaf then
    if level = 4 || (level = 3 && bits e 29 12 ≠ 0) || (level = 2 && bits e 20 12 ≠ 0) || (level ≠ 1 && bit e 2) then some .malformed
    else none
  else if level = 1 || bits e 9 1 ≠ 0 then some .malformed
  else none

/-- The run of 16 entries of a CONT entry: every entry has CONT, the same bits [11:0], and the DPA rises by one page from a 64 KiB-aligned first entry (R321). -/
def contOk (s : State) (table idx : Nat) (e : Word) : Bool :=
  let first := idx / 16 * 16
  let base := pteDpa (s.wordAt (table + 8 * first))
  base % 65536 = 0 &&
    (List.range 16).all (fun i =>
      let x := s.wordAt (table + 8 * (first + i))
      bits x 11 0 = bits e 11 0 && bits x 63 40 = 0 && pteDpa x = base + 4096 * i)

/-- What keeps a walk from reading the entry at a DPA (R437, R438). -/
def tableBreach (s : State) (dpa : Nat) : Option WalkFail :=
  match frameFault s true dpa 0 with
  | none => none
  | some f => some (if f.cause = 8 then .balloon f.sub else .bad f.sub)

/-- The radix walk from a table at a level; the index of a level is 9 bits of the address (R321). -/
def walkFrom (s : State) (va : Nat) (level table : Nat) : WalkEnd :=
  match level with
  | 0 => ⟨0, 0, 0, some .malformed⟩
  | l + 1 =>
    let idx := va / 2 ^ (12 + 9 * l) % 512
    let e := s.wordAt (table + 8 * idx)
    match (tableBreach s (table + 8 * idx)).or (pteBreach e (l + 1)) with
    | some f => ⟨e, l + 1, 2 ^ (12 + 9 * l), some f⟩
    | none =>
      if bit e 10 then
        if l = 0 && bit e 2 then
          if contOk s table idx e then ⟨e, 1, 65536, none⟩ else ⟨e, 1, 65536, some .malformed⟩
        else ⟨e, l + 1, 2 ^ (12 + 9 * l), none⟩
      else walkFrom s va l (pteDpa e)

/-- The walk of a VA under an ASID, from the root the hub holds (R321, R323). -/
def walk (s : State) (asid : BitVec 9) (va : Nat) : WalkEnd :=
  let r := SMap.get 0 s.hub.roots asid.toNat
  if bit r 0 then walkFrom s va 4 (pteDpa r) else ⟨0, 4, 0, some .root⟩

/-- The fault of a failed walk: that of R321, or IFETCH with the reason of R55; that of the access itself where a table cannot be read (log entry 52). -/
def walkFault (f : WalkFail) (k : Access) (va : Nat) : Flt :=
  match k, f with
  | .fetch, .root => ⟨cIfetch, 0x03, va⟩
  | .fetch, .notPresent => ⟨cIfetch, 0x00, va⟩
  | .fetch, .kind => ⟨cIfetch, 0x05, va⟩
  | .fetch, .malformed => ⟨cIfetch, 0x04, va⟩
  | _, .root => ⟨cPageNotPresent, 0x01, va⟩
  | _, .notPresent => ⟨cPageNotPresent, 0x00, va⟩
  | _, .kind => ⟨cPagePermission, 0x02, va⟩
  | _, .malformed => ⟨cPagePermission, 0x04, va⟩
  | _, .balloon n => ⟨cBalloonAccess, n, va⟩
  | _, .bad n => ⟨cMemUncorrectable, n, va / 128 * 128⟩

/-- A translated address: the DPA and the attributes of its page, laid out as bits [11:0] of an entry (R320). -/
structure Xlat where
  dpa : Nat
  attr : Word
  deriving DecidableEq, Repr

/-- CheckPerm of R158, with execute and user as R55 gives for a fetch. -/
def checkPerm (kLevel : Bool) (k : Access) (va : Nat) (x : Xlat) : Except Flt Xlat :=
  match k with
  | .fetch =>
    if bit x.attr 5 = false then .error ⟨cIfetch, 0x01, va⟩
    else if kLevel = false && bit x.attr 4 = false then .error ⟨cIfetch, 0x02, va⟩
    else .ok x
  | .write =>
    if bit x.attr 3 = false then .error ⟨cPagePermission, 0x00, va⟩
    else if kLevel = false && bit x.attr 4 = false then .error ⟨cPagePermission, 0x01, va⟩
    else .ok x
  | .read => if kLevel = false && bit x.attr 4 = false then .error ⟨cPagePermission, 0x01, va⟩ else .ok x

/-- The translation a TLB entry gives. -/
def TlbEntry.xlat (e : TlbEntry) (va : Nat) : Xlat :=
  ⟨pteDpa e.pte / e.size * e.size + va % e.size, e.pte &&& 0xFFF#64⟩

/-- The entry of a TLB that maps a VA under an ASID. -/
def tlbFind (t : List TlbEntry) (asid : BitVec 9) (va : Nat) : Option TlbEntry :=
  t.find? (fun e => e.asid = asid && e.va ≤ va && va < e.va + e.size)

/-- A TLB with an entry put in; the oldest leaves when it is full (R322; log entry 6). -/
def tlbPut (t : List TlbEntry) (cap : Nat) (e : TlbEntry) : List TlbEntry := (e :: t).take cap

/-- Translation through the L1 TLB, the die TLB and the walk (the last lines of Translate in R158; R205), filling the TLBs (R322). -/
def translate (s : State) (asid : BitVec 9) (kLevel : Bool) (k : Access) (va : Nat) : Except Flt (Xlat × State) :=
  match tlbFind s.core.l1tlb asid va with
  | some e => (checkPerm kLevel k va (e.xlat va)).map (fun x => (x, s))
  | none =>
    let d := s.die s.dieId
    match tlbFind d.tlb asid va with
    | some e =>
      (checkPerm kLevel k va (e.xlat va)).map
        (fun x => (x, { s with core := { s.core with l1tlb := tlbPut s.core.l1tlb 64 e } }))
    | none =>
      let w := walk s asid va
      match w.fail with
      | some f => .error (walkFault f k va)
      | none =>
        let base := if w.size = 65536 then pteDpa w.pte / 65536 * 65536 else pteDpa w.pte
        let e : TlbEntry := ⟨asid, va / w.size * w.size, w.size, w.pte &&& 0xFFF#64 ||| BitVec.ofNat 64 base⟩
        (checkPerm kLevel k va (e.xlat va)).map
          (fun x => (x, ({ s with core := { s.core with l1tlb := tlbPut s.core.l1tlb 64 e } }).putDie s.dieId
            { d with tlb := tlbPut d.tlb 4096 e }))

/-- A part of an access that lies in one page: its DPA, its length and the page's attributes. -/
structure Part where
  dpa : Nat
  len : Nat
  attr : Word
  deriving DecidableEq, Repr

/-- An access cut at page boundaries, each part translated and checked, in ascending order (R120, R207): the first failure names the lowest failing byte.
`tr` translates an address; `frames` gives the fault of a part's frames. -/
def partsWith (tr : State → Nat → Except Flt (Xlat × State)) (frames : State → Nat → Nat → Nat → Option Flt) (fuel : Nat) (s : State) (va n : Nat) :
    Except Flt (List Part × State) :=
  match fuel with
  | 0 => .ok ([], s)
  | f + 1 =>
    if n = 0 then .ok ([], s)
    else
      let l := min n (4096 - va % 4096)
      match tr s va with
      | .error e => .error e
      | .ok (x, s1) =>
        match frames s1 x.dpa va l with
        | some e => .error e
        | none =>
          match partsWith tr frames f s1 (va + l) (n - l) with
          | .error e => .error e
          | .ok (ps, s2) => .ok (⟨x.dpa, l, x.attr⟩ :: ps, s2)

/-- The parts of n bytes at a VA. -/
def accessParts (s : State) (asid : BitVec 9) (kLevel : Bool) (k : Access) (va n : Nat) : Except Flt (List Part × State) :=
  partsWith (fun t a => translate t asid kLevel k a) (fun t => frameFaults t (k ≠ .write)) (n / 4096 + 2) s va n

/-- The bytes of the parts, lowest first. -/
def readParts (s : State) (ps : List Part) : List Byte := ps.flatMap (fun p => s.bytesAt p.dpa p.len)

/-! ## Dirty and clean lines (R10, R114, R209, R427, R435, R439, R441) -/

/-- The lines that a Well holds. -/
abbrev wellLines : Nat := 786432
/-- The lines that an L1 data cache holds. -/
abbrev l1Lines : Nat := 512

/-- A Well uses a line that it holds clean, or takes it in; the oldest clean line makes room (log entry 25). -/
def Die.useClean (d : Die) (l : Nat) : Die :=
  if SMap.get 0 d.dirty l ≠ 0 then d else { d with clean := (l :: d.clean.filter (fun k => k ≠ l)).take (wellLines - d.dirty.length) }

/-- A line becomes dirty in the Well, marked incompressible when the translation says so or it was so marked (R427, R439). -/
def State.dirtyLine (s : State) (dpa : Nat) (inc : Bool) : State :=
  let d := s.die (dieOfDpa dpa)
  let l := dpa / 128
  let old := SMap.get 0 d.dirty l
  s.putDie (dieOfDpa dpa) { d with
    dirty := SMap.set 0 d.dirty l (old ||| 1 ||| (if inc then 2 else 0))
    clean := d.clean.filter (fun k => k ≠ l)
    l1 := d.l1.filter (fun e => e.1 ≠ l)
    copies := d.copies.filter (fun e => e.1 ≠ l) }

/-- Every line of n bytes becomes dirty. -/
def State.dirtyLines (s : State) (dpa n : Nat) (inc : Bool) : State :=
  (List.range ((dpa + n - 1) / 128 + 1 - dpa / 128)).foldl (fun t i => t.dirtyLine ((dpa / 128 + i) * 128) inc) s

/-- Bytes stored over the parts: the bytes change and their lines are dirty in the Well. -/
def storeParts (s : State) (ps : List Part) (bs : List Byte) : State :=
  match ps with
  | [] => s
  | p :: t => storeParts ((s.pokeBytes p.dpa (bs.take p.len)).dirtyLines p.dpa p.len (bit p.attr 9)) t (bs.drop p.len)

/-- The lines that bytes reach. -/
def linesOf (dpa n : Nat) : List Nat := if n = 0 then [] else (List.range ((dpa + n - 1) / 128 + 1 - dpa / 128)).map (fun i => dpa / 128 + i)

/-- The lines that parts reach. -/
def linesOfParts (ps : List Part) : List Nat := ps.flatMap (fun p => linesOf p.dpa p.len)

/-- The first n of the entries of a core, and every entry of another. -/
def keepOf (core n : Nat) (l : List (Nat × Nat)) : List (Nat × Nat) :=
  match l with
  | [] => []
  | e :: t => if e.2 ≠ core then e :: keepOf core n t else match n with | 0 => keepOf core 0 t | k + 1 => e :: keepOf core k t

/-- A dirty line stands in the core's L1 and not yet in the Well; the L1's oldest dirty line goes to the Well when it is full (log entry 25). -/
def State.l1Line (s : State) (l : Nat) : State :=
  let i := dieOfDpa (l * 128)
  let d := s.die i
  s.putDie i { d with l1 := keepOf s.coreId l1Lines ((l, s.coreId) :: d.l1.filter (fun e => e.1 ≠ l)) }

/-- The lines of a load stand in the L1 of its core too; the oldest clean one makes room, and a dirty one stays as it is (R11; log entry 25). -/
def State.useL1 (s : State) (ls : List Nat) : State :=
  ls.foldl (fun t l =>
    let i := dieOfDpa (l * 128)
    let d := t.die i
    let own := d.l1.filter (fun e => e.2 = t.coreId)
    if own.any (fun e => e.1 = l) then t
    else t.putDie i { d with copies := keepOf t.coreId (l1Lines - own.length) ((l, t.coreId) :: d.copies.filter (fun e => e ≠ (l, t.coreId))) }) s

/-- A line is dirty in the Well itself (R441). -/
def State.wellDirty (s : State) (line : Nat) : Bool :=
  s.isDirty line && !(s.die (dieOfDpa (line * 128))).l1.any (fun e => e.1 = line)

/-- The Well holds a line, clean or dirty. -/
def State.wellHolds (s : State) (line : Nat) : Bool :=
  s.wellDirty line || (s.die (dieOfDpa (line * 128))).clean.contains line

/-- A load leaves its lines in the Well (R114). -/
def State.useLines (s : State) (ls : List Nat) : State :=
  ls.foldl (fun t l => let i := dieOfDpa (l * 128); t.putDie i ((t.die i).useClean l)) s

/-- An access to a line that neither an L1 nor the Well holds finds every way of its Well set taken by a deferred line, and waits (R435). The sets and ways of a Well are the part's (log entry 25). -/
def State.lineWaits (s : State) (line : Nat) : Bool :=
  let d := s.die (dieOfDpa (line * 128))
  !d.deferred.isEmpty && !s.isDirty line && !d.clean.contains line && !d.copies.any (fun e => e.1 = line)
    && (let same := d.deferred.filter (fun l => Config.wellSet l = Config.wellSet line)
        !same.isEmpty && decide (Config.wellWays ≤ same.length))

/-- An access waits for a way of the Well (R435). -/
def State.waitsWay (s : State) (ps : List Part) : Bool := (linesOfParts ps).any s.lineWaits

/-! ## ASIDs and the faults of accesses (R206, R306, R323) -/

/-- The ASID under which a context's accesses translate: the K context's is the ASID register (R306), a U context's its group's (R323). -/
def State.asidOf (s : State) (c : CtxId) : BitVec 9 :=
  match c with
  | .k => s.core.asid
  | _ =>
    match (s.ctxAt c).group with
    | some g => g.asid
    | none => 0

/-- The ASID of the executing context. -/
def State.curAsid (s : State) : BitVec 9 := s.asidOf s.core.cur

/-- The trap of a faulting access of an instruction, with R206's detail: the lane, or 0xFFFF, in KAUX2[15:0], and the write bit in KAUX2[16]. -/
def fltTrap (f : Flt) (lane : Nat) (write : Bool) : TrapInfo :=
  ⟨f.cause, some (BitVec.ofNat 64 f.sub), some (BitVec.ofNat 64 f.addr), some (BitVec.ofNat 64 (lane % 65536 + if write then 65536 else 0)), none⟩

/-! ## Halting, trap entry and the return (R311 to R314, R318) -/

/-- A group is ended: its context issues nothing further, an armed GRESUME is void, and it retires with FAULT once its invocations are gone (R21, R314, R318). -/
def Ctx.kill (x : Ctx) (cause : BitVec 8) : Ctx :=
  match x.group with
  | none => x
  | some _ =>
    { x with
      st := .parsing
      parsed := true
      errAction := false
      errDone := false
      gresume := none
      drained := true
      faulted := true
      fcause := if x.faulted then x.fcause else cause
      waiting := none
      evWait := none
      waited := 0 }

/-- The core halts (R314): issue stops on every context, the Margin recorder logs it, every group retires with FAULT and its invocations are discarded; the frames that their held commits changed are returned to what they were (R444). -/
def State.halt (s : State) (cause : BitVec 5) (kepc aux1 : Word) : State :=
  let c := s.core
  let s0 := s.margin s.dieId 0x01 cause.toNat aux1 kepc s.coreId 4 true
  let undone := c.invs.flatMap (·.undo)
  let s1 := (List.range 8).foldl (fun t i => t.putDie i { t.die i with
    held := (t.die i).held.filter (fun h => decide (h.core ≠ s.coreId))
    undone := (t.die i).undone ++ undone.filter (fun u => decide (dieOfDpa (u.frame * 4096) = i)) }) s0
  { s1 with core := { c with
    halted := true
    invs := []
    u0 := c.u0.kill (cause.setWidth 8)
    u1 := c.u1.kill (cause.setWidth 8)
    u2 := c.u2.kill (cause.setWidth 8)
    u3 := c.u3.kill (cause.setWidth 8) } }

/-- KCAUSE (R308). -/
def kcauseWord (cause : BitVec 5) (ctx : Nat) (inv irq : Bool) (ilen : Nat) : Word :=
  BitVec.ofNat 64 (cause.toNat + (if inv then 256 else 0) + (if irq then 512 else 0) + ctx % 8 * 1024 + ilen % 4 * 16384)

/-- The K registers a trap writes, INTRAP and the ASID (R312, steps 1 to 3). -/
def Core.saveTrap (c : Core) (kcause kepc : Word) (asid : BitVec 9) (t : TrapInfo) : Core :=
  { c with kcause := kcause, kepc := kepc, kaux0 := t.aux0.getD 0, kaux1 := t.aux1.getD 0, kaux2 := t.aux2.getD 0, kaux3 := t.aux3.getD 0, asid := asid, inTrap := true }

/-- The K context reads the vector entry of a cause under the new ASID and begins at the handler (R307, R312 step 4); a failure halts the core (R314), and an uncorrectable line met there is recorded (R438). -/
def State.enterHandler (s : State) (cause : BitVec 5) : State :=
  let va := bits s.core.kvbr 47 3 * 8 + 8 * cause.toNat
  match accessParts s s.core.asid true .read va 8 with
  | .error f =>
    let s1 := if f.cause = cMemUncorrectable then s.margin s.dieId 0x02 f.cause.toNat (BitVec.ofNat 64 f.addr) s.core.kepc s.coreId 4 false else s
    s1.halt cause s.core.kepc s.core.kaux1
  | .ok (ps, s1) =>
    let e := BitVec.ofNat 64 (leNat (readParts s1 ps))
    if bits e 63 48 ≠ 0 || bits e 1 0 ≠ 0 then s.halt cause s.core.kepc s.core.kaux1
    else { s1 with core := { s1.core with cur := .k, k := { s1.core.k with pc := e, waiting := none, evWait := none, waited := 0, wfiLeft := none } } }

/-- Trap entry (R312): the K registers, the ASID, INTRAP and the handler. -/
def State.takeTrap (s : State) (t : TrapInfo) (ctx : Nat) (inv irq : Bool) (kepc : Word) (ilen : Nat) (asid : BitVec 9) : State :=
  let s1 := { s with
    core := s.core.saveTrap (kcauseWord t.cause ctx inv irq ilen) kepc asid (t.fill s.free)
    free := s.free + 4 }
  s1.enterHandler t.cause

/-- A context becomes TRAPPED by a cause (R233, R285); what it was doing is kept for the return. -/
def Ctx.trap (x : Ctx) (t : TrapInfo) : Ctx :=
  { x with
    st := .trapped
    trapCause := t.cause
    trapDetail := (t.aux0.getD 0).setWidth 8
    trapFrom := if x.st = .trapped then x.trapFrom else x.st
    waiting := none
    evWait := none
    waited := 0 }

/-- A trap of a context, which becomes TRAPPED, taken at once. -/
def State.takeCtxTrap (s : State) (t : TrapInfo) (c : CtxId) (kepc : Word) (ilen : Nat) : State :=
  (s.putCtxAt c ((s.ctxAt c).trap t)).takeTrap t (ctxNum c) false false kepc ilen (s.asidOf c)

/-- The Margin record of a MEM_UNCORRECTABLE or an OUT_OF_SPACE (R438). -/
def State.logMem (s : State) (t : TrapInfo) (c : CtxId) : State :=
  if t.cause = cMemUncorrectable then s.margin s.dieId 0x02 t.cause.toNat (t.aux1.getD 0) (s.ctxAt c).pc s.coreId (ctxNum c) false
  else if t.cause = cOutOfSpace then s.margin s.dieId 0x03 t.cause.toNat (t.aux1.getD 0) (s.ctxAt c).pc s.coreId (ctxNum c) false
  else s

/-- A class A trap of the executing context (R311): KEPC the instruction, ILEN its length. One raised by the K context's own instruction halts the core (R314). -/
def State.trapA (s : State) (t : TrapInfo) (len : Nat) : State :=
  let s1 := s.logMem t s.core.cur
  match s.core.cur with
  | .k => { s1 with free := s1.free + 4 }.halt t.cause s1.core.k.pc (t.aux1.getD (Config.freeWord (s1.free + 1)))
  | c => s1.takeCtxTrap t c (s1.ctxAt c).pc (len / 4)

/-- A cause of class X (R310): R313 puts it behind the faults of generators and the WATCHDOG. -/
def isClassX (cause : BitVec 5) : Bool := cause = cReplayFault || cause = cPatchRange || cause = cSaveFault

/-- A class P, S or X trap of a U context (R311): taken at once, or left waiting while the core is in a trap; one of class X waits for its turn in the order of R313. -/
def State.raiseTrap (s : State) (t : TrapInfo) (c : CtxId) (kepc : Word) : State :=
  if s.core.inTrap || isClassX t.cause then
    let s1 := s.putCtxAt c ((s.ctxAt c).trap t)
    { s1 with core := { s1.core with pend := s1.core.pend ++ [⟨BitVec.ofNat 3 (ctxNum c), kepc, s.asidOf c, t⟩] } }
  else s.takeCtxTrap t c kepc 0

/-- The invocations of a terminated group (R318): those that run complete; stopped, discarded and queued ones are dropped. -/
def keepRunning (c : CtxId) (l : List Inv) : List Inv := l.filter (fun v => v.ctx ≠ c || v.st = .running)

/-- The return from a trap (R318): INTRAP clears, U issue resumes, the K context is not ready. -/
def State.leaveTrap (s : State) : State := { s with core := { s.core with inTrap := false, cur := .u0 } }

/-! ## Running an instruction -/

/-- The guard of an instruction, all 256 lanes (R60). -/
def guardMask (x : Ctx) (g : BitVec 4) : PReg :=
  let p := x.getP (g.toNat % 8)
  if g.getLsbD 3 then ~~~p else p

/-- Lane 0 of the guard (R61). -/
def State.guard0 (s : State) (o : Ops) : Bool := (guardMask s.ctx o.g).getLsbD 0

/-- The instruction would exceed its routine's budget (R29, R236): only in a U context (R271), and not in a replay (R461). -/
def State.overBudget (s : State) : Bool :=
  !s.kLevel && s.ctx.scroll.mode ≠ 2 && decide (s.ctx.loaded.toNat ≤ s.ctx.counted)

/-- The instruction is counted (R61) and control goes to the address given. -/
def State.goTo (s : State) (pc : Word) : State :=
  s.putCtx { s.ctx with pc := pc, counted := s.ctx.counted + 1, waiting := none, evWait := none, waited := 0 }

/-- The address of the next instruction (R54). -/
def State.nextPc (s : State) (o : Ops) : Word := s.ctx.pc + BitVec.ofNat 64 o.form.bytes

/-- The end of an instruction: the count and the next address, the trap, or the wait. -/
def finish (o : Ops) : Eff → Host.Outcome State Fault Refusal
  | .next s => .next (s.goTo (s.nextPc o))
  | .jump s t => .next (s.goTo t)
  | .trap t s => .next (s.trapA t o.form.bytes)
  | .raise t s => .next (s.raiseTrap t s.core.cur 0xFFFFFFFFFFFFFFFF)
  | .block w s => .next (s.putCtx { s.ctx with waiting := some w })

/-- The order of R68 after decode: PRIV, the budget, then the body. -/
def runAlways (kOnly : Bool) (o : Ops) (body : State → Eff) (s : State) : Host.Outcome State Fault Refusal :=
  if s.core.halted then .fault .coreHalted
  else if kOnly && !s.kLevel then finish o (.trap (trapSub cPriv 0) s)
  else if s.overBudget then finish o (.trap (trapBare cActionBudget) s)
  else finish o (body s)

/-- An instruction that tests lane 0 of its guard (R61): suppressed, it has no effect but its count. -/
def runInstr (o : Ops) (body : State → Eff) (s : State) : Host.Outcome State Fault Refusal :=
  runAlways false o (fun t => if t.guard0 o then body t else .next t) s

/-- A K-only instruction (R69). -/
def runK (o : Ops) (body : State → Eff) (s : State) : Host.Outcome State Fault Refusal :=
  runAlways true o (fun t => if t.guard0 o then body t else .next t) s

/-- MFC or MTC: a K-only control register at U-level raises PRIV, a decode fault, before the guard (R62, R68). -/
def runControl (o : Ops) (f : State → State) (s : State) : Host.Outcome State Fault Refusal :=
  if s.core.halted then .fault .coreHalted
  else if !s.kLevel && 0x800 ≤ o.imm.toNat then finish o (.trap (trapSub cPriv 1) s)
  else runInstr o (fun t => .next (f t)) s

/-- A vector form whose guard is a mask (R368). -/
def runVec (o : Ops) (body : State → Eff) (s : State) : Host.Outcome State Fault Refusal :=
  runAlways false o body s

/-- Guard, then a body that only changes the state. -/
def runPlain (o : Ops) (f : State → State) (s : State) : Host.Outcome State Fault Refusal :=
  runInstr o (fun t => .next (f t)) s

end Sys2Proof.Machine
end

