-- ==== Sys2Proof/Machine/Flags.lean ====
section
/-! DEFINITION. Number formats, rounding, conversion and quantisation with their sticky flags (R85 to R113). -/

namespace Sys2Proof.Machine

/-! ## Flags of KSTAT (R110) -/

abbrev flagNV : BitVec 16 := 0x002
abbrev flagNX : BitVec 16 := 0x004
abbrev flagOF : BitVec 16 := 0x008
abbrev flagUF : BitVec 16 := 0x010
abbrev flagDZ : BitVec 16 := 0x020
abbrev flagISAT : BitVec 16 := 0x040
abbrev flagNFQ : BitVec 16 := 0x080
abbrev flagQDEF : BitVec 16 := 0x100

/-- A flag when a condition holds. -/
def flagIf (b : Bool) (f : BitVec 16) : BitVec 16 := if b then f else 0

/-! ## Formats and values -/

/-- A floating format (R85): exponent bits, fraction bits, bias, and whether it has infinities. -/
structure FloatFmt where
  eb : Nat
  fb : Nat
  bias : Nat
  hasInf : Bool
  deriving DecidableEq, Repr

def fp32 : FloatFmt := ⟨8, 23, 127, true⟩
def w40 : FloatFmt := ⟨8, 31, 127, true⟩
def bf16 : FloatFmt := ⟨8, 7, 127, true⟩
def fp16 : FloatFmt := ⟨5, 10, 15, true⟩
def e5m2 : FloatFmt := ⟨5, 2, 15, true⟩
def e4m3 : FloatFmt := ⟨4, 3, 7, false⟩

/-- The width of a format. -/
def FloatFmt.width (f : FloatFmt) : Nat := 1 + f.eb + f.fb

/-- A value of a floating format: a finite value is ±(m × 2^e). -/
inductive FVal where
  | nan (neg : Bool)
  | inf (neg : Bool)
  | fin (neg : Bool) (m : Nat) (e : Int)
  deriving DecidableEq, Repr

/-- The value a bit pattern stands for (R85). -/
def unpack (f : FloatFmt) (x : Nat) : FVal :=
  let neg := x / 2 ^ (f.eb + f.fb) % 2 = 1
  let e := x / 2 ^ f.fb % 2 ^ f.eb
  let m := x % 2 ^ f.fb
  if f.hasInf && e = 2 ^ f.eb - 1 then (if m = 0 then .inf neg else .nan neg)
  else if !f.hasInf && e = 2 ^ f.eb - 1 && m = 2 ^ f.fb - 1 then .nan neg
  else if e = 0 then .fin neg m (1 - (f.bias : Int) - f.fb)
  else .fin neg (2 ^ f.fb + m) ((e : Int) - f.bias - f.fb)

/-- The sign bit of a format in place. -/
def signBit (f : FloatFmt) (neg : Bool) : Nat := if neg then 2 ^ (f.eb + f.fb) else 0

/-- The canonical NaN with a sign (R87). -/
def nanBits (f : FloatFmt) (neg : Bool) : Nat :=
  signBit f neg + (if f.hasInf then (2 ^ f.eb - 1) * 2 ^ f.fb + 2 ^ (f.fb - 1) else 2 ^ (f.eb + f.fb) - 1)

/-- ±Inf, or the largest finite value of a format without infinities. -/
def infBits (f : FloatFmt) (neg : Bool) : Nat :=
  signBit f neg + (if f.hasInf then (2 ^ f.eb - 1) * 2 ^ f.fb else 2 ^ (f.eb + f.fb) - 2)

/-- The largest finite magnitude. -/
def maxBits (f : FloatFmt) (neg : Bool) : Nat :=
  signBit f neg + (if f.hasInf then (2 ^ f.eb - 1) * 2 ^ f.fb - 1 else 2 ^ (f.eb + f.fb) - 2)

/-- ±0. -/
def zeroBits (f : FloatFmt) (neg : Bool) : Nat := signBit f neg

/-- Whether a rounded-down magnitude goes up by one, by the mode of R96: `r2` compares twice the remainder with the divisor. -/
def roundUp (mode : Nat) (neg odd : Bool) (exact : Bool) (r2 : Ordering) : Bool :=
  if exact then false
  else
    match mode with
    | 0 => r2 = .gt || (r2 = .eq && odd)
    | 1 => false
    | 2 => neg
    | _ => !neg

/-- A positive rational n/d × 2^e rounded to a whole number by a mode (R97): the number and whether it is exact. -/
def roundWhole (mode : Nat) (neg : Bool) (n d : Nat) (e : Int) : Nat × Bool :=
  let num := if 0 ≤ e then n * 2 ^ e.toNat else n
  let den := if 0 ≤ e then d else d * 2 ^ (-e).toNat
  let q := num / den
  let r := num % den
  let up := roundUp mode neg (q % 2 = 1) (r = 0) (compare (2 * r) den)
  (if up then q + 1 else q, r = 0)

/-- Floor(Log2(n/d)) for a positive rational. -/
def log2Rat (n d : Nat) : Int :=
  let k : Int := (Nat.log2 n : Int) - Nat.log2 d
  if 0 ≤ k then (if n < d * 2 ^ k.toNat then k - 1 else k)
  else (if n * 2 ^ (-k).toNat < d then k - 1 else k)

/-- How a conversion that overflows is handled (R99): SAT, or IEEE for FP8-E5M2. -/
def overflowBits (f : FloatFmt) (mode : Nat) (ieee neg : Bool) : Nat :=
  if !f.hasInf || (f.eb = 5 && f.fb = 2 && !ieee) then maxBits f neg
  else
    match mode with
    | 0 => infBits f neg
    | 1 => maxBits f neg
    | 2 => if neg then infBits f neg else maxBits f neg
    | _ => if neg then maxBits f neg else infBits f neg

/-- Round of R97 for the exact value ±(n/d × 2^e); a zero takes the sign given. -/
def roundRat (f : FloatFmt) (mode : Nat) (ieee : Bool) (neg : Bool) (n d : Nat) (e : Int) : Nat × BitVec 16 :=
  if n = 0 then (zeroBits f neg, 0)
  else
    let k := max (log2Rat n d + e) (1 - (f.bias : Int))
    let (r, exact) := roundWhole mode neg n d (e - (k - f.fb))
    let b := ((k + f.bias - 1).toNat) * 2 ^ f.fb + r
    let limit := if f.hasInf then (2 ^ f.eb - 1) * 2 ^ f.fb else 2 ^ (f.eb + f.fb) - 1
    if limit ≤ b then (overflowBits f mode ieee neg, flagOF ||| flagNX)
    else (signBit f neg + b, flagIf (!exact) flagNX ||| flagIf (!exact && b < 2 ^ f.fb) flagUF)

/-- Round of R97 for an exact value ±(m × 2^e). -/
def roundFin (f : FloatFmt) (mode : Nat) (neg : Bool) (m : Nat) (e : Int) : Nat × BitVec 16 :=
  roundRat f mode false neg m 1 e

/-- A value converted to a format (R99): rounding, overflow, infinities and NaN. -/
def convertTo (f : FloatFmt) (mode : Nat) (ieee : Bool) : FVal → Nat × BitVec 16
  | .nan n => (nanBits f n, 0)
  | .inf n => (infBits f n, flagIf (!f.hasInf) flagNFQ)
  | .fin n m e => roundRat f mode ieee n m 1 e

/-- A signed exact sum of two finite values, as a signed mantissa and an exponent. -/
def addExact (n1 : Bool) (m1 : Nat) (e1 : Int) (n2 : Bool) (m2 : Nat) (e2 : Int) : Int × Int :=
  let e := min e1 e2
  let a : Int := (m1 * 2 ^ (e1 - e).toNat : Nat)
  let b : Int := (m2 * 2 ^ (e2 - e).toNat : Nat)
  ((if n1 then -a else a) + (if n2 then -b else b), e)

/-- Sum of two values rounded to a format (R88, R97, R109). -/
def addVal (f : FloatFmt) (mode : Nat) (x y : FVal) : Nat × BitVec 16 :=
  match x, y with
  | .nan _, _ => (nanBits f false, 0)
  | _, .nan _ => (nanBits f false, 0)
  | .inf a, .inf b => if a = b then (infBits f a, 0) else (nanBits f false, flagNV)
  | .inf a, _ => (infBits f a, 0)
  | _, .inf b => (infBits f b, 0)
  | .fin a m1 e1, .fin b m2 e2 =>
    let (v, e) := addExact a m1 e1 b m2 e2
    if v = 0 then (zeroBits f (if m1 = 0 && m2 = 0 && a = b then a else mode = 2), 0)
    else roundFin f mode (v < 0) v.natAbs e

/-- The value with its sign inverted. -/
def FVal.neg : FVal → FVal
  | .nan n => .nan (!n)
  | .inf n => .inf (!n)
  | .fin n m e => .fin (!n) m e

/-- Product of two values as a value, with NV for 0 × Inf (R112). -/
def mulExact (x y : FVal) : FVal × BitVec 16 :=
  match x, y with
  | .nan _, _ => (.nan false, 0)
  | _, .nan _ => (.nan false, 0)
  | .inf a, .inf b => (.inf (a != b), 0)
  | .inf a, .fin b m _ => if m = 0 then (.nan false, flagNV) else (.inf (a != b), 0)
  | .fin a m _, .inf b => if m = 0 then (.nan false, flagNV) else (.inf (a != b), 0)
  | .fin a m1 e1, .fin b m2 e2 => (.fin (a != b) (m1 * m2) (e1 + e2), 0)

/-- An exact value rounded to a format; a NaN is canonical with sign 0 (R87). -/
def roundVal (f : FloatFmt) (mode : Nat) : FVal → Nat × BitVec 16
  | .nan _ => (nanBits f false, 0)
  | .inf n => (infBits f n, 0)
  | .fin n m e => roundFin f mode n m e

/-- Product rounded to a format. -/
def mulVal (f : FloatFmt) (mode : Nat) (x y : FVal) : Nat × BitVec 16 :=
  let (v, g) := mulExact x y
  let (r, h) := roundVal f mode v
  (r, g ||| h)

/-- Quotient rounded to a format: DZ for finite nonzero over zero, NV for 0/0 and Inf/Inf (R273). -/
def divVal (f : FloatFmt) (mode : Nat) (x y : FVal) : Nat × BitVec 16 :=
  match x, y with
  | .nan _, _ => (nanBits f false, 0)
  | _, .nan _ => (nanBits f false, 0)
  | .inf _, .inf _ => (nanBits f false, flagNV)
  | .inf a, .fin b _ _ => (infBits f (a != b), 0)
  | .fin a _ _, .inf b => (zeroBits f (a != b), 0)
  | .fin a m1 e1, .fin b m2 e2 =>
    if m2 = 0 then (if m1 = 0 then (nanBits f false, flagNV) else (infBits f (a != b), flagDZ))
    else roundRat f mode false (a != b) m1 m2 (e1 - e2)

/-- a × b + c with one rounding (R109). -/
def fmaVal (f : FloatFmt) (mode : Nat) (a b c : FVal) : Nat × BitVec 16 :=
  let (p, g) := mulExact a b
  if g ≠ 0 then (nanBits f false, g) else addVal f mode p c

/-- Integer square root by bits: the greatest r with r² ≤ n, searched from bit k down. -/
def isqrt (k : Nat) (n r : Nat) : Nat :=
  match k with
  | 0 => r
  | j + 1 => let t := r + 2 ^ j; isqrt j n (if t * t ≤ n then t else r)

/-- Square root rounded to a format (R373). -/
def sqrtVal (f : FloatFmt) (mode : Nat) (x : FVal) : Nat × BitVec 16 :=
  match x with
  | .nan _ => (nanBits f false, 0)
  | .inf n => if n then (nanBits f false, flagNV) else (infBits f false, 0)
  | .fin n m e =>
    if m = 0 then (zeroBits f n, 0)
    else if n then (nanBits f false, flagNV)
    else
      let odd := e % 2 ≠ 0
      let m1 := (if odd then 2 * m else m) * 2 ^ 80
      let e1 := (if odd then e - 1 else e) / 2 - 40
      let r := isqrt 64 m1 0
      roundFin f mode false (2 * r + if r * r = m1 then 0 else 1) (e1 - 1)

/-- Order of two values, none when unordered; −0 equals +0 (R65). -/
def cmpVal (x y : FVal) : Option Ordering :=
  match x, y with
  | .nan _, _ => none
  | _, .nan _ => none
  | .inf a, .inf b => some (if a = b then .eq else if a then .lt else .gt)
  | .inf a, _ => some (if a then .lt else .gt)
  | _, .inf b => some (if b then .gt else .lt)
  | .fin a m1 e1, .fin b m2 e2 =>
    let (v, _) := addExact a m1 e1 (!b) m2 e2
    some (if v = 0 then .eq else if v < 0 then .lt else .gt)

/-- The floating test of a condition code (R65). -/
def floatCond (cc : Nat) (x y : FVal) : Bool :=
  let o := cmpVal x y
  match cc with
  | 0 => o = some .eq
  | 1 => o ≠ some .eq
  | 2 => o = some .lt
  | 3 => o = some .gt || o = some .eq
  | 6 => o = some .lt || o = some .eq
  | 7 => o = some .gt
  | 10 => o = none
  | _ => o ≠ none

/-- Minimum or maximum: a NaN gives the canonical NaN, −0 counts as less than +0 (R372). -/
def minMaxBits (f : FloatFmt) (wantMax : Bool) (x y : Nat) : Nat :=
  match unpack f x, unpack f y with
  | .nan _, _ => nanBits f false
  | _, .nan _ => nanBits f false
  | a, b =>
    let lt := match cmpVal a b with
      | some .lt => true
      | some .gt => false
      | _ => decide (signBit f true ≤ x % 2 ^ f.width)
    if lt = wantMax then y else x

/-! ## Integers (R98, R100) -/

/-- Saturate of R98. -/
def saturate (x : Int) (n : Nat) : Int × BitVec 16 :=
  let lo : Int := -(2 ^ (n - 1) : Nat)
  let hi : Int := (2 ^ (n - 1) : Nat) - 1
  if x < lo then (lo, flagISAT) else if hi < x then (hi, flagISAT) else (x, 0)

/-- A floating value converted to an n-bit integer (R100). -/
def toInteger (n mode : Nat) (x : FVal) : Int × BitVec 16 :=
  match x with
  | .nan _ => (0, flagNV)
  | .inf neg => (if neg then -(2 ^ (n - 1) : Nat) else (2 ^ (n - 1) : Nat) - 1, flagISAT)
  | .fin neg m e =>
    let (r, exact) := roundWhole mode neg m 1 e
    let (v, g) := saturate (if neg then -(r : Int) else r) n
    (v, g ||| flagIf (!exact || g ≠ 0) flagNX)

/-- A whole number as a value. -/
def ofInteger (x : Int) : FVal := .fin (x < 0) x.natAbs 0

/-- FP32 bits of a 32-bit lane as a value. -/
def f32 (x : BitVec 32) : FVal := unpack fp32 x.toNat

/-- A result in FP32 bits. -/
def toF32 (r : Nat × BitVec 16) : BitVec 32 × BitVec 16 := (BitVec.ofNat 32 r.1, r.2)

/-! ## Block floating point (R90 to R93, R101, R102) -/

/-- The value of a mantissa of width w with its block's scale (R90). -/
def bfpVal (w : Nat) (scale : Byte) (mant : Nat) : FVal :=
  let x := (BitVec.ofNat w mant).toInt
  if scale = 0 then .fin false 0 0
  else if scale = 0xFF then .nan false
  else .fin (x < 0) x.natAbs ((scale.toNat : Int) - 127 - ((w : Int) - 2))

/-- The comparison of two magnitudes m × 2^e. -/
def magLt (m1 : Nat) (e1 : Int) (m2 : Nat) (e2 : Int) : Bool :=
  let e := min e1 e2
  decide (m1 * 2 ^ (e1 - e).toNat < m2 * 2 ^ (e2 - e).toNat)

/-- The largest magnitude among the finite values. -/
def maxMag (xs : List FVal) : Nat × Int :=
  xs.foldl (fun a x => match x with
    | .fin _ m e => if magLt a.1 a.2 m e then (m, e) else a
    | _ => a) (0, 0)

/-- QuantBFP of R101 over the covered elements: the scale byte, the mantissas of the covered elements, the flags. -/
def quantBfp (w : Nat) (poison : Bool) (xs : List FVal) : Byte × List Nat × BitVec 16 :=
  let nan := xs.any (fun x => match x with | .nan _ => true | _ => false)
  let inf := xs.any (fun x => match x with | .inf _ => true | _ => false)
  let g0 := flagIf (nan || inf) flagNFQ
  if nan || (inf && poison) then (0xFF, xs.map (fun _ => 0), g0)
  else
    let (am, ae) := maxMag xs
    let top : Int := (2 ^ (w - 1) : Nat) - 1
    if am = 0 && !inf then (0, xs.map (fun _ => 0), g0)
    else
      let e : Int := if am = 0 then 0 else max (log2Rat am 1 + ae) (-126)
      let lsb := e - ((w : Int) - 2)
      let rs := xs.map (fun x => match x with
        | .inf n => (if n then -top else top, (0 : BitVec 16))
        | .nan _ => (0, 0)
        | .fin n m ex =>
          let (k, exact) := roundWhole 0 n m 1 (ex - lsb)
          let v : Int := if n then -(k : Int) else k
          (max (-top) (min top v), flagIf (!exact) flagNX))
      (BitVec.ofInt 8 (e + 127), rs.map (fun r => (BitVec.ofInt w r.1).toNat), rs.foldl (fun g r => g ||| r.2) g0)

/-- Per-row quantisation to FP8-E4M3 (R102): the FP32 scale, the codes, the flags. -/
def quantRow (xs : List FVal) : BitVec 32 × List Byte × BitVec 16 :=
  let (am, ae) := maxMag xs
  let (scale, g0) : BitVec 32 × BitVec 16 :=
    if am = 0 then (0x3F800000, flagQDEF)
    else
      let r := roundRat fp32 0 false false am 448 ae
      (if r.1 = 0 then 1 else BitVec.ofNat 32 r.1, r.2)
  let (sm, se) := match f32 scale with
    | .fin _ m e => (m, e)
    | _ => (1, 0)
  let qs := xs.map (fun x => match x with
    | .nan n => (BitVec.ofNat 8 (nanBits e4m3 n), flagNFQ)
    | .inf n => (BitVec.ofNat 8 (infBits e4m3 n), flagNFQ)
    | .fin n m e =>
      let r := roundRat e4m3 0 false n m sm (e - se)
      (BitVec.ofNat 8 r.1, r.2 &&& ~~~flagOF))
  (scale, qs.map (·.1), qs.foldl (fun g r => g ||| r.2) g0)

end Sys2Proof.Machine
end

