-- ==== Sys2Proof/Machine/Order.lean ====
section
/-! DEFINITION. The scratchpad's bytes, and what each party sees of the stores to memory and to a scratchpad: visibility, coherence, releases, acquires, fences and forks (R115, R116, R119 to R133, R142).

Memory and the scratchpads change at once, in the coherence order of each location. A store to one of them stays among those that a party may yet miss until another party sees it; from then on every party sees it (R124).
A load decides for each such store, the latest first, whether it misses it. A release is carried by its store, or by an entry for the object that it updates. An acquire that reads it makes visible what it covers (log entry 9). -/

namespace Sys2Proof.Machine

/-! ## The scratchpad (R115, R138, R194) -/

/-- The size of the scratchpad. -/
abbrev spmSize : Nat := 0x400000

/-- SCRATCH_RANGE of n bytes at an offset: the lowest failing offset. -/
def spFlt (x n : Nat) : Option Flt := if spmSize < x + n then some ⟨cScratchRange, 0x00, max x spmSize⟩ else none

/-- n bytes of the scratchpad. -/
def Core.spBytes (c : Core) (off n : Nat) : List Byte := (List.range n).map (fun i => SMap.get 0 c.spm (off + i))

/-- Bytes put into the scratchpad. -/
def spPut (m : SMap Byte) (off : Nat) (bs : List Byte) : SMap Byte :=
  match bs with
  | [] => m
  | b :: t => spPut (SMap.set 0 m off b) (off + 1) t

/-- DIRTY of every valid slot that holds a byte of a range (R194). -/
def Core.markSlots (c : Core) (off n : Nat) : Core :=
  if n = 0 then c
  else
    { c with tags := (List.range ((off + n - 1) / 4096 + 1 - off / 4096)).foldl (fun m i =>
        let k := off / 4096 + i
        let e := SMap.get 0 m k
        if bit e 63 then SMap.set 0 m k (e ||| (1#64 <<< 61)) else m) c.tags }

/-- A store to the scratchpad; full bits do not change (R138). -/
def Core.spStore (c : Core) (off : Nat) (bs : List Byte) : Core :=
  { c with spm := spPut c.spm off bs }.markSlots off bs.length

/-- The granules of n bytes at an offset. -/
def granules (off n : Nat) : List Nat := if n = 0 then [] else (List.range ((off + n - 1) / 16 + 1 - off / 16)).map (fun i => off / 16 + i)

/-- Full bits of granules set or cleared. -/
def Core.setFull (c : Core) (gs : List Nat) (b : Bool) : Core :=
  { c with full := gs.foldl (fun m g => SMap.set false m g b) c.full }

/-- Every granule is full. -/
def Core.allFull (c : Core) (gs : List Nat) : Bool := gs.all (fun g => SMap.get false c.full g)

/-! ## Parties, scopes and places (R121, R122) -/

/-- Two ranges of bytes meet. -/
def meets (a n b m : Nat) : Bool := decide (a < b + m) && decide (b < a + n)

/-- The party that a context of a core is. -/
def partyOf (core : Nat) (c : CtxId) : Nat := 16 * core + ctxNum c

/-- The party that the accesses are which the ports of a context make for no invocation yet (R154). -/
def aheadParty (p : Nat) : Nat := p + 8

/-- The party that an invocation of a context is. -/
def invParty (p id : Nat) : Nat := 8192 * (id + 1) + p

/-- The front end, the Scribe and the host, whose stores every party sees at once. -/
abbrev hubParty : Nat := 8191

/-- A party is an invocation. -/
def isInvParty (p : Nat) : Bool := decide (8192 ≤ p)

/-- The party of the executing context. -/
def State.me (s : State) : Nat := partyOf s.coreId s.core.cur

/-- The party of an invocation of the core looked at. -/
def State.partyInv (s : State) (v : Inv) : Nat := invParty (partyOf s.coreId v.ctx) v.id

/-- The narrowest scope instance that holds two parties: 1 the context's, with its invocations, 2 the core's, 3 the die's, 4 the module's (R121). -/
def partyDist (a b : Nat) : Nat :=
  let x := a % 8192
  let y := b % 8192
  if x / 16 = y / 16 then (if x % 8 = y % 8 then 1 else 2) else if x / 1024 = y / 1024 then 3 else 4

/-- How far a scope of R64 reaches: the context, the core, the die, or the module and beyond (R121). -/
def scopeReach (scope : Nat) : Nat :=
  match scope with
  | 0 | 1 => 4
  | 2 => 3
  | 3 => 2
  | _ => 1

/-- The place of an offset of a core's scratchpad, beyond every DPA. -/
def spKey (core off : Nat) : Nat := 2 ^ 64 * (1 + core) + off

/-- The place of object n of a kind and a core: 0 the full bit of a granule, 1 a Ligature counter, 2 an invocation, 3 the interrupts of a core, 4 the front end and the Scribe, 5 a slot of the tag table, 6 a port. -/
def objKey (kind core n : Nat) : Nat := 2 ^ 64 * (1024 + 512 * kind + core) + n

/-- The places of the full bits of the granules of n bytes at an offset. -/
def fullKey (core off n : Nat) : Nat × Nat := (objKey 0 core (off / 16), if n = 0 then 0 else (off + n - 1) / 16 + 1 - off / 16)

/-- The place of a Ligature counter. -/
def evKey (core n : Nat) : Nat × Nat := (objKey 1 core n, 1)

/-- The place of the interrupts of a core. -/
def irqKey (core : Nat) : Nat × Nat := (objKey 3 core 0, 1)

/-- The place of the front end and the Scribe. -/
def hubKey : Nat × Nat := (objKey 4 0 0, 1)

/-- The place of a slot of the tag table. -/
def slotKey (core n : Nat) : Nat × Nat := (objKey 5 core n, 1)

/-- The place of the uses of a port. -/
def portKey (core n : Nat) : Nat × Nat := (objKey 6 core n, 1)

/-- The places of the invocations of a context on a unit whose numbers lie below n. -/
def invKeys (core : Nat) (c : CtxId) (unit n : Nat) : Nat × Nat := (objKey 2 core ((4 * ctxNum c + unit) * 2 ^ 40), n)

/-- The places of the invocations that a context has issued, on every unit. -/
def State.joinKeys (s : State) (c : CtxId) : List (Nat × Nat) := (List.range 4).map (fun u => invKeys s.coreId c u s.core.nextInv)

/-- The bytes that stand at a place, of memory or of the core's scratchpad. -/
def State.cells (s : State) (a n : Nat) : List Byte := if a < 2 ^ 64 then s.bytesAt a n else s.core.spBytes (a % 2 ^ 64) n

/-- The cycle in which an access to a place is ordered by R142: none for memory. -/
def State.cycleAt (s : State) (a : Nat) : Option Nat := if a < 2 ^ 64 then none else some s.core.cycle.toNat

/-! ## Stores that may be missed -/

/-- A store and its place in the list of them. -/
def Unseen.id (e : Unseen) : Nat × Nat := (e.seq, e.addr)

/-- A store to bytes meets a range. -/
def Unseen.stores (e : Unseen) (a n : Nat) : Bool := !e.old.isEmpty && meets e.addr e.len a n

/-- A party may miss a store (R119, R124, R131, R132): a context its own on a UO page; an invocation every one that does not come before its fork; any other party one that is not yet visible to it. -/
def Unseen.mayMiss (e : Unseen) (p : Nat) : Bool :=
  if e.party = p then decide (e.kind = 2) && decide (e.ord < 3) && decide (e.vis < 4) && !isInvParty p
  else if isInvParty p then !e.got.contains p
  else decide (e.vis < partyDist e.party p)

/-- Part of a store. -/
def Unseen.part (e : Unseen) (off n : Nat) : Unseen := { e with addr := e.addr + off, len := n, old := (e.old.drop off).take n }

/-- A store cut into what lies before a range, its atomic pieces that meet the range, and what lies behind (R123). -/
def Unseen.pieces (a n : Nat) (e : Unseen) : List Unseen :=
  if e.unit = 0 || e.len ≤ e.unit || !meets e.addr e.len a n then [e]
  else
    let lo := (max e.addr a - e.addr) / e.unit * e.unit
    let hi := min e.len ((min (e.addr + e.len) (a + n) - e.addr + e.unit - 1) / e.unit * e.unit)
    ([e.part 0 lo] ++ (List.range ((hi - lo + e.unit - 1) / e.unit)).map (fun i => e.part (lo + e.unit * i) (min e.unit (hi - lo - e.unit * i)))
      ++ [e.part hi (e.len - hi)]).filter (fun x => x.len ≠ 0)

/-- A release covers an earlier store of its party; one of an invocation covers what comes before its fork too, and one with `all` what the invocations of its context committed (R126, R131, R133). -/
def Unseen.covers (r e : Unseen) : Bool :=
  (decide (e.party = r.party) && decide (e.seq < r.seq)) || (e.got.contains r.party && decide (e.party % 8192 = r.party % 8192))
    || (r.all && decide (e.party % 8192 = r.party % 8192) && decide (e.seq < r.seq))

/-- What an acquire of party q, reaching `a`, sees with another party's r: a store that r releases, or a fence before r; each party lies in the other's scope instance (R122, R126, R129). -/
def Unseen.brings (q a : Nat) (r e : Unseen) : Bool :=
  decide (r.party ≠ q) && decide (e.party ≠ q) && decide (r.ord < 4) && decide (partyDist r.party q ≤ min (if e.fence then e.rel else r.rel) a)
    && (if e.fence then decide (e.party = r.party) && decide (e.seq < r.seq) else decide (e.vis < 4) && r.covers e)

/-- A store or an object still brings a store that some party may miss. -/
def Unseen.pending (l : List Unseen) (r : Unseen) : Bool :=
  decide (r.ord < 4) && l.any (fun x => decide (x.vis < 4) && ((decide (0 < r.rel) && r.covers x)
    || l.any (fun f => f.fence && decide (f.party = r.party) && decide (f.seq < r.seq) && f.covers x)))

/-- The invocations of every core, as parties. -/
def State.running (s : State) : List Nat :=
  s.core.invs.map s.partyInv ++ s.others.flatMap (fun e => if e.1 = s.coreId then [] else e.2.invs.map (fun v => invParty (partyOf e.1 v.ctx) v.id))

/-- Stores that every party sees are forgotten, but for those that an invocation in flight may have missed and those that bring others. -/
def State.pruned (s : State) : State :=
  { s with unseen := s.unseen.filter (fun e =>
      decide (e.vis < 4) || Unseen.pending s.unseen e || (!e.old.isEmpty && s.running.any (fun v => e.party ≠ v && !e.got.contains v))) }

/-- A store that every party sees, and that no acquire reads any longer when a later one took its place. -/
def Unseen.open' (e : Unseen) (gone : Bool) : Unseen := { e with vis := 4, ord := if gone then 4 else e.ord }

/-- A store takes the place of another: it covers its bytes and is no atomic read-modify-write of them. -/
def Unseen.replaces (r x : Unseen) : Bool := !r.chain && decide (r.addr ≤ x.addr) && decide (x.addr + x.len ≤ r.addr + r.len)

/-- Stores made visible to every party, each with the older stores to its bytes (R124). -/
def openIds (ids : List (Nat × Nat)) (rs : List Unseen) (l : List Unseen) : List Unseen :=
  match l with
  | [] => []
  | e :: t =>
    if ids.contains e.id then e.open' (rs.any (fun r => r.replaces e)) :: openIds ids (e :: rs) t
    else
      let ps := rs.foldl (fun u r => u.flatMap (Unseen.pieces r.addr r.len)) [e]
      let hit := fun (x : Unseen) => rs.any (fun r => x.stores r.addr r.len)
      ps.map (fun x => if hit x then x.open' (rs.any (fun r => r.replaces x)) else x) ++ openIds ids (ps.filter hit ++ rs) t

/-- Every party sees the stores made so far to a range; with `gone` another store takes their place. -/
def State.openRange (s : State) (gone : Bool) (a n : Nat) : State :=
  { s with unseen := (s.unseen.flatMap (Unseen.pieces a n)).map (fun (e : Unseen) =>
      if e.stores a n then e.open' (gone && decide (a ≤ e.addr) && decide (e.addr + e.len ≤ a + n)) else e) }.pruned

/-- The stores read with some: through an atomic read-modify-write, the next older one to its bytes too (R126). -/
def chained (ids rs : List (Nat × Nat)) (l : List Unseen) : List (Nat × Nat) :=
  match l with
  | [] => ids
  | e :: t =>
    if ids.contains e.id || rs.any (fun r => meets r.1 r.2 e.addr e.len) then
      chained (if ids.contains e.id then ids else ids ++ [e.id])
        (let r := rs.filter (fun r => !meets r.1 r.2 e.addr e.len); if e.chain then (e.addr, e.len) :: r else r) t
    else chained ids rs t

/-- The stores that an acquire sees with some, and with those in turn. -/
def brought (n q a : Nat) (l : List Unseen) (ids : List (Nat × Nat)) : List (Nat × Nat) :=
  match n with
  | 0 => ids
  | k + 1 =>
    brought k q a l (ids ++ (l.filter (fun e => !ids.contains e.id && l.any (fun r => ids.contains r.id && r.brings q a e))).map Unseen.id)

/-- Party q has read some stores: each is visible to every party from now on. An acquire that reaches `acq` sees what their releases cover; a context's plain load is noted for a fence that follows (R126, R128, R129). -/
def State.saw (s : State) (q : Nat) (acq : Option Nat) (src : List Unseen) : State :=
  let ids := (src.filter (fun e => e.party ≠ q)).map Unseen.id
  let u := openIds ids [] s.unseen
  let all := chained (src.map Unseen.id) [] u
  match acq with
  | some a => { s with unseen := openIds (brought u.length q a u all) [] u }.pruned
  | none => { s with unseen := if isInvParty q then u else u.map (fun (e : Unseen) => if all.contains e.id && !e.readers.contains q then { e with readers := q :: e.readers } else e) }.pruned

/-! ## Loads -/

/-- A byte that a store covers has its value not yet. -/
def Unseen.wanted (e : Unseen) (a : Nat) (bs : List (Byte × Bool)) : Bool :=
  !e.old.isEmpty && (List.range bs.length).any (fun i => decide (e.addr ≤ a + i) && decide (a + i < e.addr + e.len) && !(bs.getD i (0, true)).2)

/-- The bytes of an access at a place, those without their value that a store covers changed. -/
def Unseen.over (e : Unseen) (a : Nat) (bs : List (Byte × Bool)) (f : Nat → Byte → Byte × Bool) : List (Byte × Bool) :=
  (List.range bs.length).map (fun i =>
    let b := bs.getD i (0, true)
    if e.addr ≤ a + i && a + i < e.addr + e.len && !b.2 then f (a + i - e.addr) b.1 else b)

/-- What a load of bytes that no party sees part of reads (R119, R123, R124): the stores walked from the latest back, each missed or read; and the stores that its bytes were read from. A store older than one of another party that it reads is not missed. -/
def viewBytes (miss : Unseen → Nat → Bool) (q a : Nat) (l : List Unseen) (bs : List (Byte × Bool)) (src : List Unseen) : List Byte × List Unseen :=
  match l with
  | [] => (bs.map (·.1), src)
  | e :: t =>
    if e.wanted a bs = false then viewBytes miss q a t bs src
    else if miss e t.length && !src.any (fun f => decide (f.party ≠ q) && e.stores f.addr f.len) then
      viewBytes miss q a t (e.over a bs (fun i _ => (e.old.getD i 0, false))) src
    else viewBytes miss q a t (e.over a bs (fun _ b => (b, true))) (src ++ [e])

/-- A load of party q of n bytes at a place that no party sees part of; `acq` is how far an acquire reaches, which misses no store of its own (R119, R128). Where a store is kept that meets them, its choices are free. A scratchpad access sees those before it in its cycle (R142). -/
def State.look (s : State) (q : Nat) (acq : Option Nat) (a n : Nat) : List Byte × State :=
  if s.unseen.any (fun e => e.stores a n) = false then (s.cells a n, s)
  else
    let u := s.unseen.flatMap (Unseen.pieces a n)
    let now := s.cycleAt a
    let miss := fun (e : Unseen) (i : Nat) =>
      e.mayMiss q && !(acq.isSome && decide (e.party = q)) && !(now.isSome && decide (e.cyc = now)) && Config.misses s.free a i
    let r := viewBytes miss q a u ((s.cells a n).map (fun b => (b, false))) []
    (r.1, { s with unseen := u, free := s.free + 1 }.saw q acq r.2)

/-- The pieces that no party sees part of: the whole when it is aligned to its size, of 1, 2, 4 or 8 bytes, else its bytes (R123). -/
def unitOfAccess (a n : Nat) : Nat := if (n = 1 || n = 2 || n = 4 || n = 8) && a % n = 0 then n else 1

/-- Pieces of m bytes of n bytes at a place. -/
def piecesOf (m a n : Nat) : List (Nat × Nat) := (List.range ((n + m - 1) / m)).map (fun i => (a + m * i, min m (n - m * i)))

/-- Loads of pieces, one after another. -/
def State.lookAll (s : State) (q : Nat) (acq : Option Nat) (us : List (Nat × Nat)) : List (List Byte) × State :=
  us.foldl (fun r u => let x := r.2.look q acq u.1 u.2; (r.1 ++ [x.1], x.2)) ([], s)

/-- A load of n bytes at a place, in pieces of m bytes; a free choice tells in which direction they are loaded. -/
def State.loadIn (s : State) (q : Nat) (acq : Option Nat) (m a n : Nat) : List Byte × State :=
  if s.unseen.any (fun e => e.stores a n) = false then (s.cells a n, s)
  else
    let us := piecesOf m a n
    if 1 < us.length && Config.misses s.free a us.length then let r := s.lookAll q acq us.reverse; (r.1.reverse.flatten, r.2)
    else let r := s.lookAll q acq us; (r.1.flatten, r.2)

/-- A context's own SO stores become visible before its next SO access: every party sees one interleaving of the SO accesses (R119). -/
def State.settleSo (s : State) (p kind : Nat) : State :=
  if kind = 1 && s.unseen.any (fun e => decide (e.party = p) && decide (e.kind = 1)) then
    { s with unseen := s.unseen.map (fun (e : Unseen) => if e.party = p && e.kind = 1 then { e with vis := 4 } else e) }.pruned
  else s

/-- The ordering kind of a part's page (R118). -/
def Part.kind (x : Part) : Nat := bits x.attr 8 7

/-- The bytes that party q's load sees over parts, lowest first; an access that is split is no longer single-copy atomic (R120, R123). `m` is its size when it is aligned. -/
def readView (s : State) (q : Nat) (acq : Option Nat) (m : Nat) (ps : List Part) : List Byte × State :=
  match ps with
  | [] => ([], s)
  | x :: t =>
    let r := (s.settleSo q x.kind).loadIn q acq m x.dpa x.len
    let u := readView r.2 q acq m t
    (r.1 ++ u.1, u.2)

/-- What party q reads of its core's scratchpad. -/
def State.spLoad (s : State) (q m off n : Nat) : List Byte × State := s.loadIn q none m (spKey s.coreId off) n

/-! ## Stores -/

/-- The number of the next instruction or commit that stores. -/
def State.nextSeq (s : State) : Nat := s.unseen.foldl (fun n e => max n (e.seq + 1)) 0

/-- A plain store of a party, not yet placed. -/
def newStore (p seq kind unit : Nat) (cyc : Option Nat) : Unseen where
  party := p
  seq := seq
  addr := 0
  len := 0
  old := []
  unit := unit
  kind := kind
  ord := 0
  rel := 0
  fence := false
  all := false
  chain := false
  vis := 0
  got := []
  readers := []
  cyc := cyc

/-- A store may take its place in the coherence order before another: one that its party may miss, or an earlier one of its own on a UO page that nothing has ordered (R119); none comes between an atomic and what it read (R123), nor out of the order of R142. -/
def Unseen.passedBy (e f : Unseen) : Bool :=
  decide (f.vis < 4) && !f.chain && !(e.cyc.isSome && decide (f.cyc = e.cyc))
    && (if f.party = e.party then decide (f.kind = 2) && decide (e.kind = 2) && decide (f.ord < 2) && decide (f.seq ≠ e.seq) else f.mayMiss e.party)

/-- A store put in the coherence order before later ones to just its bytes, as free choices say; none where it comes last. -/
def placeBelow (bit : Nat → Bool) (e : Unseen) (new : List Byte) (l : List Unseen) : Option (List Unseen) :=
  match l with
  | [] => none
  | f :: t =>
    if f.stores e.addr e.len = false then (placeBelow bit e new t).map (fun u => f :: u)
    else if f.addr = e.addr && f.len = e.len && e.passedBy f && bit t.length then
      some ((placeBelow bit e new t).elim ({ f with old := new } :: { e with old := f.old } :: t) (fun u => f :: u))
    else none

/-- The store of one atomic piece noted before it is made: the bytes that the place holds after it. -/
def State.noteUnit (s : State) (e : Unseen) (a : Nat) (new : List Byte) : List Byte × State :=
  let x := { e with addr := a, len := new.length }
  match placeBelow (Config.misses s.free a) x new s.unseen with
  | some l => (s.cells a new.length, { s with unseen := l, free := s.free + 1 })
  | none => (new, { s with unseen := { x with old := s.cells a new.length } :: s.unseen, free := s.free + 1 })

/-- A plain store noted before it is made: the bytes that the place holds after it. -/
def State.noteStore (s : State) (e : Unseen) (a : Nat) (new : List Byte) : List Byte × State :=
  if new.isEmpty then ([], s)
  else if s.unseen.any (fun f => f.stores a new.length && e.passedBy f) then
    let t := { s with unseen := s.unseen.flatMap (Unseen.pieces a new.length) }
    (piecesOf e.unit a new.length).foldl (fun r u =>
      let x := r.2.noteUnit e u.1 ((new.drop (u.1 - a)).take u.2)
      (r.1 ++ x.1, x.2)) ([], t)
  else (new, { s with unseen := { e with addr := a, len := new.length, old := s.cells a new.length } :: s.unseen })

/-- A store that comes last in the coherence order, noted before it is made. -/
def State.noteLast (s : State) (e : Unseen) (a n : Nat) : State :=
  if n = 0 then s else { s with unseen := { e with addr := a, len := n, old := s.cells a n } :: s.unseen }

/-- A plain store over parts by a party, in pieces of m bytes; `l1` tells whether its lines go to the L1 (R209). -/
def State.plainStore (s : State) (l1 : Bool) (p seq m : Nat) (ps : List Part) (bs : List Byte) : State :=
  match ps with
  | [] => s
  | x :: t =>
    let r := (s.settleSo p x.kind).noteStore (newStore p seq x.kind m none) x.dpa (bs.take x.len)
    let u := storeParts r.2 [x] r.1
    State.plainStore (if l1 then (linesOf x.dpa x.len).foldl (fun (a : State) l => a.l1Line l) u else u) l1 p seq m t (bs.drop x.len)

/-- A byte under a mask. -/
def maskedByte (old : Byte) (e : Byte × Byte) : Byte := (old &&& ~~~e.2) ||| (e.1 &&& e.2)

/-- A store of bytes under masks noted: one that keeps bits of a byte comes last. -/
def State.noteMasked (s : State) (e : Unseen) (a : Nat) (bs : List (Byte × Byte)) : List Byte × State :=
  let new := ((s.cells a bs.length).zip bs).map (fun x => maskedByte x.1 x.2)
  if bs.all (fun b => b.2 = 0xFF) then s.noteStore e a new else (new, s.noteLast e a bs.length)

/-- Masked bytes stored over parts by a party; their lines are dirty until they are stored. -/
def State.storeMasked (s : State) (p seq m : Nat) (ps : List Part) (bs : List (Byte × Byte)) : State :=
  match ps with
  | [] => s
  | x :: t =>
    let r := (s.settleSo p x.kind).noteMasked (newStore p seq x.kind m none) x.dpa (bs.take x.len)
    State.storeMasked (storeParts r.2 [x] r.1) p seq m t (bs.drop x.len)

/-- Masked bytes stored in the scratchpad by a party; the full bit of every granule written is set (R138). -/
def State.spMasked (s : State) (p seq m off : Nat) (bs : List (Byte × Byte)) : State :=
  let a := spKey s.coreId off
  let r := s.noteMasked (newStore p seq 0 m (s.cycleAt a)) a bs
  r.2.putCore ((r.2.core.spStore off r.1).setFull (granules off bs.length) true)

/-- A store of a party to its core's scratchpad, in pieces of m bytes (R120, R142). -/
def State.spWrite (s : State) (p seq m off : Nat) (bs : List Byte) : State :=
  let a := spKey s.coreId off
  let r := s.noteStore (newStore p seq 0 m (s.cycleAt a)) a bs
  r.2.putCore (r.2.core.spStore off r.1)

/-- A store by an agent whose stores every party sees at once; with `chain` an atomic read-modify-write. An invocation in flight may have read before it (R132). -/
def storeSeen (s : State) (chain : Bool) (ps : List Part) (bs : List Byte) : State :=
  storeParts ((ps.foldl (fun (t : State) x =>
    (t.openRange (!chain) x.dpa x.len).noteLast { newStore hubParty s.nextSeq 0 1 none with vis := 4, ord := 3, chain := chain } x.dpa x.len) s).pruned) ps bs

/-- A context's own stores are ordered before what comes after: the invocations it issues with 1, its later stores with 2, its later loads too with 3 (R119, R129, R131). -/
def State.orderOwn (s : State) (p n : Nat) : State :=
  { s with unseen := s.unseen.map (fun e => if e.party = p then { e with ord := max e.ord n } else e) }

/-- The store of an access that is acquire, release or atomic is missed by no later load of its party, whatever its page (R119). -/
def orderedKind (kind : Nat) : Nat := if kind = 2 then 0 else kind

/-- A store with release order that reaches `rel`, 0 for none (R126, R128). -/
def State.storeOrdered (s : State) (q rel : Nat) (chain : Bool) (ps : List Part) (bs : List Byte) : State :=
  let u := if 0 < rel then s.orderOwn q 1 else s
  storeParts (ps.foldl (fun (t : State) x =>
    (t.settleSo q x.kind).noteLast { newStore q u.nextSeq (orderedKind x.kind) x.len none with rel := rel, chain := chain } x.dpa x.len) u) ps bs

/-! ## Releases, acquires, fences and forks (R126 to R133) -/

/-- The entry of a release of a party by an object. -/
def releaseEntry (p seq reach : Nat) (all : Bool) (key : Nat × Nat) : Unseen :=
  { newStore p seq 0 1 none with addr := key.1, len := key.2, ord := 3, rel := reach, all := all, chain := true, vis := 4 }

/-- A release of a party by an update of the objects at some places: it covers every earlier access of the party (R126, R128, R133). -/
def State.releaseBy (s : State) (p reach : Nat) (all : Bool) (keys : List (Nat × Nat)) : State :=
  let t := s.orderOwn p 1
  if t.unseen.any (fun x => decide (x.vis < 4)) then { t with unseen := keys.map (releaseEntry p s.nextSeq reach all) ++ t.unseen }.pruned else t

/-- The entries that stand at a range: each release by an object, and the newest stores to its bytes. -/
def newestAt (q a n : Nat) (l : List Unseen) : List Unseen :=
  l.filter (fun e => e.old.isEmpty && !e.fence && meets e.addr e.len a n)
    ++ (if l.any (fun e => e.stores a n) then (viewBytes (fun _ _ => false) q a l (List.replicate n (0, false)) []).2 else [])

/-- Party q reads an object at a place as it is, with an acquire that reaches `acq` (R126, R133). -/
def State.observe (s : State) (q : Nat) (acq : Option Nat) (a n : Nat) : State :=
  let src := newestAt q a n s.unseen
  if src.isEmpty then s else s.saw q acq src

/-- The read of an atomic read-modify-write, of the write that comes just before its own (R123). -/
def State.readAtomic (s : State) (q : Nat) (acq : Option Nat) (ps : List Part) : State :=
  ps.foldl (fun (t : State) x => (t.settleSo q x.kind).observe q acq x.dpa x.len) s

/-- An atomic read-modify-write of a party that writes bytes over parts. -/
def State.writeAtomic (s : State) (q : Nat) (acq : Option Nat) (rel : Nat) (ps : List Part) (bs : List Byte) : State :=
  (s.readAtomic q acq ps).storeOrdered q rel true ps bs

/-- The host or a peer reads parts: it sees the newest stores, and every party with it, and what they released (R116, R124, R126). -/
def State.seeParts (s : State) (ps : List Part) : State := ps.foldl (fun (t : State) x => t.observe hubParty (some 4) x.dpa x.len) s

/-- An acquire of a party through objects. -/
def State.acquireBy (s : State) (q reach : Nat) (keys : List (Nat × Nat)) : State :=
  keys.foldl (fun t k => t.observe q (some reach) k.1 k.2) s

/-- The releases by the objects at a range are forgotten: the object no longer holds what they wrote. -/
def State.forget (s : State) (a n : Nat) : State :=
  { s with unseen := (s.unseen.flatMap (Unseen.pieces a n)).filter (fun e => !(e.old.isEmpty && !e.fence && meets e.addr e.len a n)) }

/-- The releases by some objects are forgotten. -/
def State.forgetAll (s : State) (keys : List (Nat × Nat)) : State := keys.foldl (fun t k => t.forget k.1 k.2) s

/-- A release of a context by objects (R128). -/
def State.release (s : State) (c : CtxId) (scope : Nat) (keys : List (Nat × Nat)) : State := s.releaseBy (partyOf s.coreId c) (scopeReach scope) false keys

/-- An acquire of a context through objects (R128). -/
def State.acquire (s : State) (c : CtxId) (scope : Nat) (keys : List (Nat × Nat)) : State := s.acquireBy (partyOf s.coreId c) (scopeReach scope) keys

/-- The acquire of a fence: the earlier plain loads of the party provide the communication (R129). -/
def State.fenceReads (s : State) (p reach : Nat) : State :=
  { s with unseen := openIds (brought s.unseen.length p reach s.unseen ((s.unseen.filter (fun (e : Unseen) => e.readers.contains p)).map Unseen.id)) [] s.unseen }.pruned

/-- A full fence of a context (R129): its earlier stores are visible within the scope before what follows. -/
def State.fence (s : State) (c : CtxId) (scope : Nat) : State :=
  let p := partyOf s.coreId c
  let t := (s.orderOwn p 3).fenceReads p (scopeReach scope)
  { t with unseen := t.unseen.map (fun (e : Unseen) => if e.party = p then { e with vis := max e.vis (scopeReach scope) } else e) }.pruned

/-- An acquire fence of a context (R129, R131). -/
def State.fenceAcq (s : State) (c : CtxId) (scope : Nat) : State :=
  let p := partyOf s.coreId c
  (s.orderOwn p 1).fenceReads p (scopeReach scope)

/-- A release fence of a context (R129): each later store of it is a release. -/
def State.fenceRel (s : State) (c : CtxId) (scope : Nat) : State :=
  let p := partyOf s.coreId c
  let t := s.orderOwn p 2
  { t with unseen := { releaseEntry p s.nextSeq (scopeReach scope) false (0, 0) with fence := true } :: t.unseen }.pruned

/-- An invocation's accesses come after what its party sees now (R131, R44): what is visible to it, and the issuer's own stores but for plain UO stores that nothing has ordered. -/
def State.beginAfter (s : State) (p v : Nat) : State :=
  { s with unseen := s.unseen.map (fun e =>
      if !e.got.contains v && (decide (partyDist e.party v ≤ e.vis) || (decide (e.party = p) && (decide (e.kind ≠ 2) || decide (1 ≤ e.ord)))) then { e with got := v :: e.got } else e) }

/-- A release that covers a context's accesses and every commit of its invocations, which it has joined (R22, R333). -/
def State.releaseAll (s : State) (c : CtxId) (scope : Nat) (keys : List (Nat × Nat)) : State :=
  s.releaseBy (partyOf s.coreId c) (scopeReach scope) true keys

end Sys2Proof.Machine
end

