-- ==== Sys2Proof/Machine/Operands.lean ====
section
/-! DEFINITION. The operand forms shared by the families: widths, conditions, lanes, control registers (R62 to R65, R84, R364). -/

namespace Sys2Proof.Machine

/-- The bytes of a width code (R63). -/
def widthBytes (q : Nat) : Nat :=
  match q with
  | 0 => 8
  | 1 | 5 => 4
  | 2 | 6 => 2
  | _ => 1

/-- A loaded value extended to 64 bits as the width code says (R63). -/
def extendLoad (q : Nat) (x : Nat) : Word :=
  match q with
  | 0 => BitVec.ofNat 64 x
  | 1 => (BitVec.ofNat 32 x).signExtend 64
  | 2 => (BitVec.ofNat 16 x).signExtend 64
  | 3 => (BitVec.ofNat 8 x).signExtend 64
  | 5 => (BitVec.ofNat 32 x).setWidth 64
  | 6 => (BitVec.ofNat 16 x).setWidth 64
  | _ => (BitVec.ofNat 8 x).setWidth 64

/-- The integer test of a condition code (R65). -/
def intCond {w : Nat} (cc : Nat) (a b : BitVec w) : Bool :=
  match cc with
  | 0 => a = b
  | 1 => a ≠ b
  | 2 => a.slt b
  | 3 => b.sle a
  | 4 => a.ult b
  | 5 => b.ule a
  | 6 => a.sle b
  | 7 => b.slt a
  | 8 => a.ule b
  | _ => b.ult a

/-- Lane i of a vector register (R364). -/
def lane (v : VReg) (i : Nat) : BitVec 32 := v.extractLsb' (32 * i) 32

/-- The vector whose lane i is f i. -/
def ofLanes (f : Nat → BitVec 32) : VReg :=
  BitVec.ofNat 8192 ((List.range 256).foldr (fun i acc => (f i).toNat + 2 ^ 32 * acc) 0)

/-- The vector of a list of 256 lanes. -/
def ofLaneList (l : List (BitVec 32)) : VReg :=
  BitVec.ofNat 8192 (l.foldr (fun x acc => x.toNat + 2 ^ 32 * acc) 0)

/-- The predicate whose lane i is f i. -/
def ofPred (f : Nat → Bool) : PReg :=
  BitVec.ofNat 256 ((List.range 256).foldr (fun i acc => (if f i then 1 else 0) + 2 * acc) 0)

/-- A predicate all of whose lanes are one value. -/
def allLanes (b : Bool) : PReg := if b then BitVec.allOnes 256 else 0

/-- A packed element of width w of a vector's image (R365). -/
def packed (v : VReg) (w e : Nat) : Nat := v.toNat / 2 ^ (w * e) % 2 ^ w

/-- KSTAT as it reads (R110, R309). -/
def Core.kstat (c : Core) : Word :=
  BitVec.ofNat 64 (c.flags.toNat % 512 + c.wdx.toNat * 2 ^ 28 + (if c.inTrap then 2 ^ 24 else 0)
    + (if c.irqs.isEmpty then 0 else 2 ^ 23) + c.irqs.length * 2 ^ 18
    + (if c.cut.isSome || c.restore.isSome then 2 ^ 17 else 0))

/-- FEAT of a core (R45). -/
def featWord (core : Nat) : Word :=
  BitVec.ofNat 64 (8 * 2 ^ 32 + 0x40 * 2 ^ 24 + core / 64 * 2 ^ 16 + core % 64 * 2 ^ 8 + 0xFF)

/-- A value of KAUX3: bits [19:8] are reserved while KCAUSE tells of a class I trap (R6, R311). -/
def Core.aux3 (c : Core) (w : Word) : Word := if bit c.kcause 8 then w &&& 0xFFFFFFFFFFF000FF else w

/-- What MFC reads (R62, R268); reserved fields read 0 (R6). -/
def readControl (s : State) (n : Nat) : Word :=
  match n with
  | 0x001 => s.core.cycle
  | 0x002 => s.ctx.budget.setWidth 64
  | 0x004 => featWord s.coreId
  | 0x005 => s.ctx.seed
  | 0x800 => s.core.kvbr
  | 0x801 => s.core.kcause
  | 0x802 => s.core.kepc
  | 0x803 => s.core.kaux0
  | 0x804 => s.core.kaux1
  | 0x805 => s.core.kaux2
  | 0x806 => s.core.aux3 s.core.kaux3
  | 0x807 => s.core.kstat
  | 0x808 => s.core.kscratch
  | 0x809 => s.core.asid.setWidth 64
  | 0x80A => s.core.sstep
  | 0x80B => s.core.detmode
  | _ => 0

/-- What MTC does to a core's K registers; a write to a reserved field has no effect (R6), a W1C flag written with 1 clears (R268). -/
def Core.writeControl (c : Core) (n : Nat) (w : Word) : Core :=
  match n with
  | 0x800 => { c with kvbr := w &&& 0x0000FFFFFFFFFFF8 }
  | 0x801 => { c with kcause := w &&& 0xDF1F }
  | 0x802 => { c with kepc := w }
  | 0x803 => { c with kaux0 := w &&& 0x1FFFF }
  | 0x804 => { c with kaux1 := w }
  | 0x805 => { c with kaux2 := w }
  | 0x806 => { c with kaux3 := c.aux3 w }
  | 0x807 => { c with flags := c.flags &&& ~~~(w.setWidth 16 &&& 0x1FE), wdx := w.extractLsb' 28 4 }
  | 0x808 => { c with kscratch := w }
  | 0x809 => { c with asid := w.setWidth 9 }
  | 0x80A => { c with sstep := w &&& 0xF07 }
  | 0x80B => { c with detmode := w &&& 1 }
  | _ => c

/-- MTC (R62, R268): BUDGET and SEED belong to the context, CYCLE and FEAT are read-only. -/
def writeControl (s : State) (n : Nat) (w : Word) : State :=
  if n = 0x002 then s.putCtx { s.ctx with budget := w.setWidth 32 }
  else if n = 0x005 then s.putCtx { s.ctx with seed := w }
  else { s with core := s.core.writeControl n w }

/-- A word of a context's fault record (R241): word 0 lowest. -/
def Ctx.frecWord (x : Ctx) (n : Nat) : Word := x.frec.extractLsb' (64 * n) 64

/-- ERRCNT goes up by one, saturating (R241, R243). -/
def Ctx.countRecovery (x : Ctx) : Ctx :=
  if x.frec.extractLsb' 0 16 = 0xFFFF#16 then x else { x with frec := x.frec + 1 }

end Sys2Proof.Machine
end

