-- ==== Sys2Proof/Machine/Action.lean ====
section
/-! DEFINITION. The action unit: opcodes 0x00 to 0x3F (R248 to R275). -/

namespace Sys2Proof.Machine

/-- A form that reads S[A] and S[B] and writes S[D]. -/
def alu (o : Ops) (f : Word → Word → Word) (s : State) : Host.Outcome State Fault Refusal :=
  runPlain o (fun t => t.setS o.d (f (t.getS o.a) (t.getS o.b))) s

/-- A form that reads S[A] and a sign-extended immediate and writes S[D]. -/
def aluImm (o : Ops) (f : Word → Word → Word) (s : State) : Host.Outcome State Fault Refusal :=
  runPlain o (fun t => t.setS o.d (f (t.getS o.a) o.simm)) s

/-- A division: DIVIDE_ZERO with the dividend in KAUX1 for a zero divisor (R255). -/
def divide (o : Ops) (f : Word → Word → Word) (s : State) : Host.Outcome State Fault Refusal :=
  runInstr o (fun t =>
    if t.getS o.b = 0 then .trap (trapInfo cDivideZero 0 (t.getS o.a)) t
    else .next (t.setS o.d (f (t.getS o.a) (t.getS o.b)))) s

/-- 1 or 0. -/
def boolWord (b : Bool) : Word := if b then 1 else 0

/-- Leading zeros, 0 to 64. -/
def leadingZeros (w : Word) : Nat := if w = 0 then 64 else 63 - Nat.log2 w.toNat

/-- Trailing zeros, 0 to 64. -/
def trailingZeros (w : Word) : Nat := ((List.range 64).find? (fun i => w.getLsbD i)).getD 64

/-- The number of ones. -/
def ones (w : Word) : Nat := (List.range 64).foldl (fun n i => if w.getLsbD i then n + 1 else n) 0

/-- EXT of R259: bits [pos+len-1:pos], zero-extended or sign-extended. -/
def extractField (w : Word) (pos len : Nat) (signed : Bool) : Word :=
  let x := BitVec.ofNat len (w.toNat / 2 ^ pos)
  if signed then x.signExtend 64 else x.setWidth 64

/-- INS of R259. -/
def insertField (d a : Word) (pos len : Nat) : Word :=
  let mask : Word := BitVec.ofNat 64 ((2 ^ len - 1) * 2 ^ pos)
  (d &&& ~~~mask) ||| ((a <<< pos) &&& mask)

/-- The low 48 bits of an address. -/
def low48 (w : Word) : Word := w &&& 0x0000FFFFFFFFFFFF

/-- An instruction address (R54). -/
def aligned4 (w : Word) : Bool := w.toNat % 4 = 0

/-- A transfer of control; a target that is not a multiple of 4 raises ALIGN (R54, R265). -/
def transfer (s : State) (target : Word) : Eff :=
  if aligned4 target then .jump s target else .trap (trapAddr cAlign target) s

/-- The pc-relative target (R265). -/
def pcTarget (s : State) (o : Ops) : Word := low48 (s.ctx.pc + o.simm)

/-- A conditional branch (R265); one that does not transfer never checks its target. -/
def branch (o : Ops) (cc : Nat) (s : State) : Host.Outcome State Fault Refusal :=
  runInstr o (fun t => if intCond cc (t.getS o.a) (t.getS o.b) then transfer t (pcTarget t o) else .next t) s

/-- CALL pushes onto the return predictor of eight entries (R266). -/
def pushReturn (s : State) (w : Word) : State := s.putCtx { s.ctx with predictor := (w :: s.ctx.predictor).take 8 }

/-- RET pops the return predictor when it transfers (R266). -/
def popReturn (s : State) (target : Word) : State :=
  if aligned4 target then s.putCtx { s.ctx with predictor := s.ctx.predictor.tail } else s

/-- PLOG's lane operations (R263). -/
def plogOp (q : Nat) (a b : PReg) : PReg :=
  match q with
  | 0 => a &&& b
  | 1 => a ||| b
  | 2 => a ^^^ b
  | 3 => a &&& ~~~b
  | 4 => a ||| ~~~b
  | 5 => ~~~(a &&& b)
  | 6 => ~~~(a ||| b)
  | _ => ~~~(a ^^^ b)

/-- A predicate with one 64-lane quarter replaced (R264). -/
def setQuarter (p : PReg) (n : Nat) (w : Word) : PReg :=
  let mask : PReg := (BitVec.allOnes 64).setWidth 256 <<< (64 * n)
  (p &&& ~~~mask) ||| (w.setWidth 256 <<< (64 * n))

/-- What BUDGET writes (R270, R271). -/
def budgetLeft (s : State) : Word :=
  if s.kLevel then 0xFFFFFFFF else BitVec.ofNat 64 (s.ctx.loaded.toNat - (s.ctx.counted + 1))

/-- The end of a routine (R243, R272). -/
def endRoutine (s : State) : State :=
  if s.kLevel then s
  else
    let x := s.ctx
    s.putCtx (if x.errAction then { x with st := .recovering, errAction := false, errDone := true } else { x with st := .parsing })

/-- A scalar floating form (R273): the flags are set when it completes (R111). -/
def scalarFloat (o : Ops) (f : FVal → FVal → Nat × BitVec 16) (s : State) : Host.Outcome State Fault Refusal :=
  runPlain o (fun t =>
    let r := f (f32 ((t.getS o.a).setWidth 32)) (f32 ((t.getS o.b).setWidth 32))
    (t.setS o.d (BitVec.ofNat 64 r.1)).addFlags r.2) s

/-- A conversion of S[A] into S[D] with its flags (R274). -/
def convertScalar (o : Ops) (f : Word → Nat × BitVec 16) (s : State) : Host.Outcome State Fault Refusal :=
  runPlain o (fun t =>
    let r := f (t.getS o.a)
    (t.setS o.d (BitVec.ofNat 64 r.1)).addFlags r.2) s

/-- An integer result sign-extended to 64 bits. -/
def intResult (r : Int × BitVec 16) : Nat × BitVec 16 := ((BitVec.ofInt 64 r.1).toNat, r.2)

/-- NOP (R254). -/
def execNop (o : Ops) (s : State) : Host.Outcome State Fault Refusal :=
  runPlain o (fun t => t) s

/-- MOV (R254). -/
def execMov (o : Ops) (s : State) : Host.Outcome State Fault Refusal :=
  runPlain o (fun t => t.setS o.d (t.getS o.a)) s

/-- MOVI (R254). -/
def execMovi (o : Ops) (s : State) : Host.Outcome State Fault Refusal :=
  runPlain o (fun t => t.setS o.d o.simm) s

/-- MOVI.HI (R254): bits [63:32] from the immediate, the low half kept. -/
def execMoviHi (o : Ops) (s : State) : Host.Outcome State Fault Refusal :=
  runPlain o (fun t => t.setS o.d (o.imm.setWidth 32 ++ (t.getS o.d).setWidth 32)) s

/-- ADD (R255). -/
def execAdd (o : Ops) (s : State) : Host.Outcome State Fault Refusal :=
  alu o (fun a b => a + b) s

/-- SUB (R255). -/
def execSub (o : Ops) (s : State) : Host.Outcome State Fault Refusal :=
  alu o (fun a b => a - b) s

/-- MUL (R255). -/
def execMul (o : Ops) (s : State) : Host.Outcome State Fault Refusal :=
  alu o (fun a b => a * b) s

/-- AND (R255). -/
def execAnd (o : Ops) (s : State) : Host.Outcome State Fault Refusal :=
  alu o (fun a b => a &&& b) s

/-- OR (R255). -/
def execOr (o : Ops) (s : State) : Host.Outcome State Fault Refusal :=
  alu o (fun a b => a ||| b) s

/-- XOR (R255). -/
def execXor (o : Ops) (s : State) : Host.Outcome State Fault Refusal :=
  alu o (fun a b => a ^^^ b) s

/-- ADDI (R255). -/
def execAddi (o : Ops) (s : State) : Host.Outcome State Fault Refusal :=
  aluImm o (fun a b => a + b) s

/-- ANDI (R255). -/
def execAndi (o : Ops) (s : State) : Host.Outcome State Fault Refusal :=
  aluImm o (fun a b => a &&& b) s

/-- ORI (R255). -/
def execOri (o : Ops) (s : State) : Host.Outcome State Fault Refusal :=
  aluImm o (fun a b => a ||| b) s

/-- XORI (R255). -/
def execXori (o : Ops) (s : State) : Host.Outcome State Fault Refusal :=
  aluImm o (fun a b => a ^^^ b) s

/-- MULH (R255). -/
def execMulh (o : Ops) (s : State) : Host.Outcome State Fault Refusal :=
  alu o (fun a b => ((a.signExtend 128 * b.signExtend 128).extractLsb' 64 64)) s

/-- MULHU (R255). -/
def execMulhu (o : Ops) (s : State) : Host.Outcome State Fault Refusal :=
  alu o (fun a b => ((a.setWidth 128 * b.setWidth 128).extractLsb' 64 64)) s

/-- DIV (R255): the quotient rounds toward zero. -/
def execDiv (o : Ops) (s : State) : Host.Outcome State Fault Refusal :=
  divide o (fun a b => a.sdiv b) s

/-- DIVU (R255). -/
def execDivu (o : Ops) (s : State) : Host.Outcome State Fault Refusal :=
  divide o (fun a b => a.udiv b) s

/-- REM (R255): the sign of the dividend. -/
def execRem (o : Ops) (s : State) : Host.Outcome State Fault Refusal :=
  divide o (fun a b => a.srem b) s

/-- REMU (R255). -/
def execRemu (o : Ops) (s : State) : Host.Outcome State Fault Refusal :=
  divide o (fun a b => a.umod b) s

/-- SHL (R256). -/
def execShl (o : Ops) (s : State) : Host.Outcome State Fault Refusal :=
  alu o (fun a b => a <<< (b.toNat % 64)) s

/-- SHR (R256). -/
def execShr (o : Ops) (s : State) : Host.Outcome State Fault Refusal :=
  alu o (fun a b => a >>> (b.toNat % 64)) s

/-- SRA (R256). -/
def execSra (o : Ops) (s : State) : Host.Outcome State Fault Refusal :=
  alu o (fun a b => a.sshiftRight (b.toNat % 64)) s

/-- SHLI (R256). -/
def execShli (o : Ops) (s : State) : Host.Outcome State Fault Refusal :=
  runPlain o (fun t => t.setS o.d (t.getS o.a <<< o.uimm)) s

/-- SHRI (R256). -/
def execShri (o : Ops) (s : State) : Host.Outcome State Fault Refusal :=
  runPlain o (fun t => t.setS o.d (t.getS o.a >>> o.uimm)) s

/-- SRAI (R256). -/
def execSrai (o : Ops) (s : State) : Host.Outcome State Fault Refusal :=
  runPlain o (fun t => t.setS o.d ((t.getS o.a).sshiftRight o.uimm)) s

/-- ROL (R256). -/
def execRol (o : Ops) (s : State) : Host.Outcome State Fault Refusal :=
  alu o (fun a b => a.rotateLeft ((b.toNat + o.uimm) % 64)) s

/-- SLT (R257). -/
def execSlt (o : Ops) (s : State) : Host.Outcome State Fault Refusal :=
  alu o (fun a b => boolWord (a.slt b)) s

/-- SLTU (R257). -/
def execSltu (o : Ops) (s : State) : Host.Outcome State Fault Refusal :=
  alu o (fun a b => boolWord (a.ult b)) s

/-- SLTI (R257). -/
def execSlti (o : Ops) (s : State) : Host.Outcome State Fault Refusal :=
  aluImm o (fun a b => boolWord (a.slt b)) s

/-- MIN (R257). -/
def execMin (o : Ops) (s : State) : Host.Outcome State Fault Refusal :=
  alu o (fun a b => if b.slt a then b else a) s

/-- MAX (R257). -/
def execMax (o : Ops) (s : State) : Host.Outcome State Fault Refusal :=
  alu o (fun a b => if a.slt b then b else a) s

/-- MINU (R257). -/
def execMinu (o : Ops) (s : State) : Host.Outcome State Fault Refusal :=
  alu o (fun a b => if b.ult a then b else a) s

/-- MAXU (R257). -/
def execMaxu (o : Ops) (s : State) : Host.Outcome State Fault Refusal :=
  alu o (fun a b => if a.ult b then b else a) s

/-- CLZ (R258). -/
def execClz (o : Ops) (s : State) : Host.Outcome State Fault Refusal :=
  runPlain o (fun t => t.setS o.d (BitVec.ofNat 64 (leadingZeros (t.getS o.a)))) s

/-- CTZ (R258). -/
def execCtz (o : Ops) (s : State) : Host.Outcome State Fault Refusal :=
  runPlain o (fun t => t.setS o.d (BitVec.ofNat 64 (trailingZeros (t.getS o.a)))) s

/-- POPC (R258). -/
def execPopc (o : Ops) (s : State) : Host.Outcome State Fault Refusal :=
  runPlain o (fun t => t.setS o.d (BitVec.ofNat 64 (ones (t.getS o.a)))) s

/-- BSWAP (R258): the low bytes of the width in reverse order, zero-extended. -/
def execBswap (o : Ops) (s : State) : Host.Outcome State Fault Refusal :=
  runPlain o (fun t => t.setS o.d (BitVec.ofNat 64 (leNat (leBytes (8 / 2 ^ o.q.toNat) (t.getS o.a).toNat).reverse))) s

/-- EXT and EXT.S (R259). -/
def execExt (o : Ops) (s : State) : Host.Outcome State Fault Refusal :=
  runPlain o (fun t => t.setS o.d (extractField (t.getS o.a) (o.uimm % 64) (o.uimm / 64 % 64 + 1) (o.q = 1))) s

/-- INS (R259): the other bits of the destination stay. -/
def execIns (o : Ops) (s : State) : Host.Outcome State Fault Refusal :=
  runPlain o (fun t => t.setS o.d (insertField (t.getS o.d) (t.getS o.a) (o.uimm % 64) (o.uimm / 64 % 64 + 1))) s

/-- SEXT (R258). -/
def execSext (o : Ops) (s : State) : Host.Outcome State Fault Refusal :=
  runPlain o (fun t => t.setS o.d (extendLoad o.q.toNat (t.getS o.a).toNat)) s

/-- LEA (R260). -/
def execLea (o : Ops) (s : State) : Host.Outcome State Fault Refusal :=
  runPlain o (fun t => t.setS o.d (t.getS o.a + (t.getS o.b <<< o.q.toNat) + o.simm)) s

/-- CMPP (R261): every lane of the predicate takes the result. -/
def execCmpp (o : Ops) (s : State) : Host.Outcome State Fault Refusal :=
  runPlain o (fun t => t.setP o.d (allLanes (intCond o.q.toNat (t.getS o.a) (t.getS o.b + o.simm)))) s

/-- BEQ (R265). -/
def execBeq (o : Ops) (s : State) : Host.Outcome State Fault Refusal :=
  branch o 0 s

/-- BNE (R265). -/
def execBne (o : Ops) (s : State) : Host.Outcome State Fault Refusal :=
  branch o 1 s

/-- BLT (R265). -/
def execBlt (o : Ops) (s : State) : Host.Outcome State Fault Refusal :=
  branch o 2 s

/-- BGE (R265). -/
def execBge (o : Ops) (s : State) : Host.Outcome State Fault Refusal :=
  branch o 3 s

/-- BLTU (R265). -/
def execBltu (o : Ops) (s : State) : Host.Outcome State Fault Refusal :=
  branch o 4 s

/-- BGEU (R265). -/
def execBgeu (o : Ops) (s : State) : Host.Outcome State Fault Refusal :=
  branch o 5 s

/-- JMP (R265). -/
def execJmp (o : Ops) (s : State) : Host.Outcome State Fault Refusal :=
  runInstr o (fun t => transfer t (pcTarget t o)) s

/-- JR (R265). -/
def execJr (o : Ops) (s : State) : Host.Outcome State Fault Refusal :=
  runInstr o (fun t => transfer t (low48 (t.getS o.a + o.simm))) s

/-- CALL (R265, R266): the target is checked before the link is written. -/
def execCall (o : Ops) (s : State) : Host.Outcome State Fault Refusal :=
  runInstr o (fun t => if aligned4 (pcTarget t o) then .jump (pushReturn (t.setS o.d (t.nextPc o)) (t.nextPc o)) (pcTarget t o) else .trap (trapAddr cAlign (pcTarget t o)) t) s

/-- RET (R265, R266): it differs from JR in timing only. -/
def execRet (o : Ops) (s : State) : Host.Outcome State Fault Refusal :=
  runInstr o (fun t => transfer (popReturn t (low48 (t.getS o.a))) (low48 (t.getS o.a))) s

/-- SEL (R262). -/
def execSel (o : Ops) (s : State) : Host.Outcome State Fault Refusal :=
  runPlain o (fun t => t.setS o.d (if (t.getP o.c).getLsbD 0 then t.getS o.a else t.getS o.b)) s

/-- PLOG (R263). -/
def execPlog (o : Ops) (s : State) : Host.Outcome State Fault Refusal :=
  runPlain o (fun t => t.setP o.d (plogOp o.q.toNat (t.getP o.a) (t.getP o.b))) s

/-- PMOV (R264). -/
def execPmov (o : Ops) (s : State) : Host.Outcome State Fault Refusal :=
  runPlain o (fun t => t.setP o.d (t.getP o.a)) s

/-- PMOV.FROM (R264): one quarter from a scalar. -/
def execPmovFrom (o : Ops) (s : State) : Host.Outcome State Fault Refusal :=
  runPlain o (fun t => t.setP o.d (setQuarter (t.getP o.d) (o.uimm % 4) (t.getS o.a))) s

/-- PMOV.TO (R264): one quarter to a scalar. -/
def execPmovTo (o : Ops) (s : State) : Host.Outcome State Fault Refusal :=
  runPlain o (fun t => t.setS o.d ((t.getP o.a).extractLsb' (64 * (o.uimm % 4)) 64)) s

/-- MFC (R62, R268). -/
def execMfc (o : Ops) (s : State) : Host.Outcome State Fault Refusal :=
  runControl o (fun t => t.setS o.d (readControl t o.uimm)) s

/-- MTC (R62, R268). -/
def execMtc (o : Ops) (s : State) : Host.Outcome State Fault Refusal :=
  runControl o (fun t => writeControl t o.uimm (t.getS o.a)) s

/-- BUDGET (R270, R271): what is left of the routine, this instruction counted. -/
def execBudget (o : Ops) (s : State) : Host.Outcome State Fault Refusal :=
  runPlain o (fun t => t.setS o.d (budgetLeft t)) s

/-- BUDGET.SET (R270). -/
def execBudgetSet (o : Ops) (s : State) : Host.Outcome State Fault Refusal :=
  runPlain o (fun t => t.putCtx { t.ctx with budget := BitVec.ofNat 32 (min ((t.getS o.a).toNat + o.uimm) (2 ^ 32 - 1)) }) s

/-- AEND (R243, R272): the routine ends and the next slot is a parse step; after an error action the recovery is counted. In the K context it has no effect. -/
def execAend (o : Ops) (s : State) : Host.Outcome State Fault Refusal :=
  runPlain o (fun t => endRoutine t) s

/-- FADD (R273). -/
def execFadd (o : Ops) (s : State) : Host.Outcome State Fault Refusal :=
  scalarFloat o (fun x y => addVal fp32 o.q.toNat x y) s

/-- FMUL (R273). -/
def execFmul (o : Ops) (s : State) : Host.Outcome State Fault Refusal :=
  scalarFloat o (fun x y => mulVal fp32 o.q.toNat x y) s

/-- FDIV (R273). -/
def execFdiv (o : Ops) (s : State) : Host.Outcome State Fault Refusal :=
  scalarFloat o (fun x y => divVal fp32 o.q.toNat x y) s

/-- FCVT.F2I (R274, R100). -/
def execFcvtF2i (o : Ops) (s : State) : Host.Outcome State Fault Refusal :=
  convertScalar o (fun a => intResult (toInteger 32 o.q.toNat (f32 (a.setWidth 32)))) s

/-- FCVT.I2F (R274). -/
def execFcvtI2f (o : Ops) (s : State) : Host.Outcome State Fault Refusal :=
  convertScalar o (fun a => convertTo fp32 o.q.toNat false (ofInteger a.toInt)) s

/-- FCVT.U2F (R274). -/
def execFcvtU2f (o : Ops) (s : State) : Host.Outcome State Fault Refusal :=
  convertScalar o (fun a => convertTo fp32 o.q.toNat false (ofInteger a.toNat)) s

/-- FCVT.F2BF (R274, R97, R99). -/
def execFcvtF2bf (o : Ops) (s : State) : Host.Outcome State Fault Refusal :=
  convertScalar o (fun a => convertTo bf16 o.q.toNat false (unpack fp32 (a.toNat % 2 ^ fp32.width))) s

/-- FCVT.BF2F (R274, R97, R99). -/
def execFcvtBf2f (o : Ops) (s : State) : Host.Outcome State Fault Refusal :=
  convertScalar o (fun a => convertTo fp32 o.q.toNat false (unpack bf16 (a.toNat % 2 ^ bf16.width))) s

/-- FCVT.F2H (R274, R97, R99). -/
def execFcvtF2h (o : Ops) (s : State) : Host.Outcome State Fault Refusal :=
  convertScalar o (fun a => convertTo fp16 o.q.toNat false (unpack fp32 (a.toNat % 2 ^ fp32.width))) s

/-- FCVT.H2F (R274, R97, R99). -/
def execFcvtH2f (o : Ops) (s : State) : Host.Outcome State Fault Refusal :=
  convertScalar o (fun a => convertTo fp32 o.q.toNat false (unpack fp16 (a.toNat % 2 ^ fp16.width))) s

/-- FCVT.F2E4 (R274, R97, R99). -/
def execFcvtF2e4 (o : Ops) (s : State) : Host.Outcome State Fault Refusal :=
  convertScalar o (fun a => convertTo e4m3 o.q.toNat false (unpack fp32 (a.toNat % 2 ^ fp32.width))) s

/-- FCVT.E42F (R274, R97, R99). -/
def execFcvtE42f (o : Ops) (s : State) : Host.Outcome State Fault Refusal :=
  convertScalar o (fun a => convertTo fp32 o.q.toNat false (unpack e4m3 (a.toNat % 2 ^ e4m3.width))) s

/-- FCMP (R275): it sets no flag. -/
def execFcmp (o : Ops) (s : State) : Host.Outcome State Fault Refusal :=
  runPlain o (fun t => t.setP o.d (allLanes (floatCond o.q.toNat (f32 ((t.getS o.a).setWidth 32)) (f32 ((t.getS o.b).setWidth 32))))) s

end Sys2Proof.Machine
end

