-- ==== Sys2Proof/Machine/Compress.lean ====
section
/-! DEFINITION. Compressed main memory: line forms, frame metadata, storing a line, the pools and the Blotter, MEMCTL and BALLOON (R421 to R444). -/

namespace Sys2Proof.Machine

/-! ## Line forms (R425, R426) -/

/-- The bytes cut into words of n bytes, little-endian. -/
def wordsOf (n count : Nat) (bs : List Byte) : List Nat :=
  match count with
  | 0 => []
  | c + 1 => leNat (bs.take n) :: wordsOf n c (bs.drop n)

/-- Every delta from word 0 fits d bytes as a signed value, for words of n bytes. -/
def deltasFit (n d : Nat) (ws : List Nat) : Bool :=
  match ws with
  | [] => true
  | b :: _ => ws.all (fun w =>
      let x := (w + 2 ^ (8 * n) - b) % 2 ^ (8 * n)
      x < 2 ^ (8 * d - 1) || 2 ^ (8 * n) - 2 ^ (8 * d - 1) ≤ x)

/-- The sectors of a tag. -/
def tagSectors (t : Nat) : Nat :=
  match t with
  | 0 => 0
  | 1 => 1
  | 2 => 2
  | 3 | 4 => 3
  | 5 | 6 => 5
  | _ => 8

/-- The tag of a line's 128 bytes: the fewest sectors, then the lowest tag (R426). -/
def chooseTag (bs : List Byte) : Nat :=
  let w8 := wordsOf 8 16 bs
  let w4 := wordsOf 4 32 bs
  if w8.all (fun w => w = 0) then 0
  else if w8.all (fun w => w = w8.headD 0) then 1
  else if deltasFit 8 1 w8 then 2
  else if deltasFit 8 2 w8 then 3
  else if deltasFit 4 1 w4 then 4
  else if deltasFit 8 4 w8 then 5
  else if deltasFit 4 2 w4 then 6
  else 7

/-- The base and every delta of a line's words of n bytes, the deltas in d bytes each. -/
def deltaForm (n d : Nat) (ws : List Nat) : List Byte :=
  leBytes n (ws.headD 0) ++ ws.flatMap (fun w => leBytes d ((w + 2 ^ (8 * n) - ws.headD 0) % 2 ^ (8 * n)))

/-- The stored bytes of a line in the form of a tag (R425). -/
def lineForm (tag : Nat) (bs : List Byte) : List Byte :=
  let w8 := wordsOf 8 16 bs
  let w4 := wordsOf 4 32 bs
  let f := match tag with
    | 0 => []
    | 1 => leBytes 8 (w8.headD 0)
    | 2 => deltaForm 8 1 w8
    | 3 => deltaForm 8 2 w8
    | 4 => deltaForm 4 1 w4
    | 5 => deltaForm 8 4 w8
    | 6 => deltaForm 4 2 w4
    | _ => bs
  (f ++ List.replicate (16 * tagSectors tag - f.length) 0).take (16 * tagSectors tag)

/-- The words that a base and deltas give. -/
def undelta (n d count : Nat) (f : List Byte) : List Byte :=
  (wordsOf d count (f.drop n)).flatMap (fun x =>
    leBytes n ((leNat (f.take n) + (if x < 2 ^ (8 * d - 1) then x else x + 2 ^ (8 * n) - 2 ^ (8 * d))) % 2 ^ (8 * n)))

/-- The 128 bytes of a line read from its stored form (R425). -/
def readForm (tag : Nat) (f : List Byte) : List Byte :=
  match tag with
  | 0 => List.replicate 128 0
  | 1 => (List.replicate 16 (f.take 8)).flatten
  | 2 => undelta 8 1 16 f
  | 3 => undelta 8 2 16 f
  | 4 => undelta 4 1 32 f
  | 5 => undelta 8 4 16 f
  | 6 => undelta 4 2 32 f
  | _ => f

/-! ## Frame metadata (R423, R424) -/

/-- The fields of an FMR. `lines` holds the tag and offset of each of 32 lines; `chunks` the raw address of each chunk held, chunk 0 first. -/
structure Frame where
  lines : List (Nat × Nat)
  chunks : List Nat
  used : Nat
  hole : Nat
  bal : Bool
  inc : Bool
  pend : Bool
  bvf : Nat
  deriving DecidableEq, Repr

/-- A field of an FMR. -/
def fmrField (f : BitVec 1024) (lo w : Nat) : Nat := f.toNat / 2 ^ lo % 2 ^ w

/-- The fields read from an FMR. -/
def unpackFmr (f : BitVec 1024) : Frame where
  lines := (List.range 32).map (fun l => (fmrField f (12 * l) 4, fmrField f (12 * l + 4) 8))
  chunks := (List.range (fmrField f 658 4)).map (fun k => fmrField f (384 + 32 * k) 27)
  used := fmrField f 640 9
  hole := fmrField f 649 9
  bal := f.getLsbD 662
  inc := f.getLsbD 663
  pend := f.getLsbD 664
  bvf := fmrField f 665 8

/-- An FMR of fields, with its CRC: hardware rewrites the CRC with every change (R423, R428). -/
def packFmr (x : Frame) : BitVec 1024 :=
  let ls := x.lines.foldr (fun p a => p.1 + 16 * p.2 + 4096 * a) 0
  let cs := x.chunks.foldr (fun c a => c + 2 ^ 31 + 2 ^ 32 * a) 0
  let b := ls + 2 ^ 384 * cs + 2 ^ 640 * x.used + 2 ^ 649 * x.hole + 2 ^ 658 * x.chunks.length
    + (if x.bal then 2 ^ 662 else 0) + (if x.inc then 2 ^ 663 else 0) + (if x.pend then 2 ^ 664 else 0) + 2 ^ 665 * x.bvf
  let f := BitVec.ofNat 1024 b
  f ||| ((fmrCrc f).setWidth 1024 <<< 704)

/-- The frame of a DPA. -/
def State.frame (s : State) (dpa : Nat) : Frame := unpackFmr (s.fmr dpa)

/-- The state with a frame's FMR rewritten. -/
def State.putFrame (s : State) (dpa : Nat) (x : Frame) : State :=
  let i := dieOfDpa dpa
  let d := s.die i
  s.putDie i { d with fmrs := SMap.set 0 d.fmrs (dpa / 4096) (packFmr x) }

/-! ## Raw storage (R424, R425, R439) -/

/-- The raw address of a frame sector. -/
def Frame.rawAddr (x : Frame) (f : Nat) : Nat := x.chunks.getD (f / 32) 0 * 512 + f % 32 * 16

/-- Bytes of frame sectors from sector f on. -/
def Die.rawRead (d : Die) (x : Frame) (f n : Nat) : List Byte :=
  (List.range n).flatMap (fun k => (List.range 16).map (fun i => SMap.get 0 d.raw (x.rawAddr (f + k) + i)))

/-- Bytes put into frame sectors from sector f on. -/
def Die.rawWrite (d : Die) (x : Frame) (f : Nat) (bs : List Byte) : Die :=
  { d with raw := (List.range bs.length).foldl (fun m i => SMap.set 0 m (x.rawAddr (f + i / 16) + i % 16) (bs.getD i 0)) d.raw }

/-- The bytes of line l in main memory, read from its stored form. -/
def Die.storedLine (d : Die) (x : Frame) (l : Nat) : List Byte :=
  let (t, off) := x.lines.getD l (0, 0)
  readForm t (d.rawRead x off (tagSectors t))

/-! ## Taking chunks (R431 to R434) -/

/-- Who obtains storage: whether at K-level, and whether it stands at the head of the held writes of the die. -/
structure Writer where
  kLevel : Bool
  first : Bool
  deriving DecidableEq, Repr

/-- TakeChunk: from the pool, behind no held write; at K-level from the K reserve when the pool is empty. -/
def State.takeChunk (s : State) (i : Nat) (w : Writer) : Option (Nat × State) :=
  let d := s.die i
  let a := (Config.freeChunk s.free).toNat
  let s1 := { s with free := s.free + 1 }
  if 0 < d.free && (w.first || d.held.isEmpty) then some (a, s1.putDie i { d with free := d.free - 1 })
  else if w.kLevel && 0 < d.kres then some (a, s1.putDie i { d with kres := d.kres - 1 })
  else none

/-- TakeChunk until the frame holds n chunks. -/
def State.takeChunks (fuel : Nat) (s : State) (i : Nat) (w : Writer) (cs : List Nat) (n : Nat) : Option (List Nat × State) :=
  match fuel with
  | 0 => some (cs, s)
  | f + 1 =>
    if n ≤ cs.length then some (cs, s)
    else
      match s.takeChunk i w with
      | none => none
      | some (a, s1) => State.takeChunks f s1 i w (cs ++ [a]) n

/-! ## Storing a line (R428, R439) -/

/-- A line put among lines ascending in offset. -/
def insertLine (e : Nat × Nat × Nat) (l : List (Nat × Nat × Nat)) : List (Nat × Nat × Nat) :=
  match l with
  | [] => [e]
  | h :: t => if e.2.2 < h.2.2 then e :: h :: t else h :: insertLine e t

/-- The lines that hold sectors, with their numbers, ascending in offset. -/
def Frame.byOffset (x : Frame) : List (Nat × Nat × Nat) :=
  (((List.range 32).zip x.lines).filter (fun e => e.2.1 ≠ 0)).foldl (fun l e => insertLine e l) []

/-- New offsets of lines moved downward without a hole. -/
def packDown (l : List (Nat × Nat × Nat)) (at' : Nat) : List (Nat × Nat) :=
  match l with
  | [] => []
  | (i, t, _) :: rest => (i, at') :: packDown rest (at' + tagSectors t)

/-- Compact: lines move downward in ascending offset until no hole is left. -/
def Frame.compact (x : Frame) : Frame :=
  let moved := packDown x.byOffset 0
  { x with
    lines := ((List.range 32).zip x.lines).map (fun e => (e.2.1, ((moved.find? (fun m => m.1 = e.1)).map (·.2)).getD 0))
    used := x.used - x.hole
    hole := 0 }

/-- A line's tag and offset replaced. -/
def Frame.setLine (x : Frame) (l tag off : Nat) : Frame := { x with lines := x.lines.set l (tag, off) }

/-- The frame with every line RAW at its fixed place (R439). -/
def Frame.incompressible (x : Frame) (cs : List Nat) : Frame :=
  { x with lines := (List.range 32).map (fun l => (7, 8 * l)), chunks := cs, used := 256, hole := 0, inc := true }

/-- The frame after R428 for line l with a new tag, given the chunks it may need; none when TakeChunk fails. -/
def State.growLine (s : State) (i : Nat) (w : Writer) (x : Frame) (l tag : Nat) : Option (Frame × State) :=
  let n := tagSectors tag
  let (old, off) := x.lines.getD l (0, 0)
  let m := tagSectors old
  if n ≤ m then
    some ({ x.setLine l tag (if n = 0 then 0 else off) with hole := x.hole + (m - n) }, s)
  else
    let x1 := { x.setLine l 0 0 with hole := x.hole + m }
    let x2 := if 32 * x1.chunks.length < x1.used + n then x1.compact else x1
    match s.takeChunks 9 i w x2.chunks ((x2.used + n + 31) / 32) with
    | none => none
    | some (cs, s1) => some ({ x2.setLine l tag x2.used with used := x2.used + n, chunks := cs }, s1)

/-- The line leaves the dirty and the deferred lines, and is no longer bad; `keep` tells whether the Well keeps it clean. -/
def State.cleanLine (s : State) (line : Nat) (keep : Bool) : State :=
  let i := dieOfDpa (line * 128)
  let d := s.die i
  let e : Die := { d with
    dirty := SMap.set 0 d.dirty line 0
    deferred := d.deferred.filter (fun l => l ≠ line)
    bad := SMap.set 0 d.bad line 0
    clean := d.clean.filter (fun l => l ≠ line)
    l1 := d.l1.filter (fun x => x.1 ≠ line) }
  s.putDie i (if keep then e.useClean line else e)

/-- The forms of the lines that compaction moved stand at their new offsets, moved in ascending order of their old ones (R428). -/
def Die.moveForms (d : Die) (x y : Frame) (l : Option Nat) : Die :=
  x.byOffset.foldl (fun (e : Die) m =>
    let off := (y.lines.getD m.1 (0, 0)).2
    if l = some m.1 || off = m.2.2 then e else e.rawWrite y off (e.rawRead x m.2.2 (tagSectors m.2.1))) d

/-- The raw storage of a frame after a line was stored: the moved lines, then the line's new form. -/
def State.storeForm (s : State) (dpa : Nat) (x y : Frame) (bs : List Byte) : State :=
  let i := dieOfDpa dpa
  let l := dpa / 128 % 32
  let (t, off) := y.lines.getD l (0, 0)
  s.putDie i (((s.die i).moveForms x y (some l)).rawWrite y off (lineForm t bs))

/-- The raw storage of a frame that becomes incompressible: every line RAW in its place (R439). -/
def State.storeRaw (s : State) (dpa : Nat) (x y : Frame) (bs : List Byte) : State :=
  let i := dieOfDpa dpa
  let d := s.die i
  s.putDie i ((List.range 32).foldl (fun (e : Die) k => e.rawWrite y (8 * k) (if k = dpa / 128 % 32 then bs else d.storedLine x k)) d)

/-- The controller stores a line of its die, with the bytes memory now holds, in its smallest form or RAW (R426, R428, R439). None when storage fails. -/
def State.storeLine (s : State) (w : Writer) (line : Nat) (keep : Bool) : Option State :=
  let dpa := line * 128
  let i := dieOfDpa dpa
  let x := s.frame dpa
  let bs := s.bytesAt dpa 128
  let marked := (SMap.get 0 (s.die i).dirty line).getLsbD 1
  if x.inc then some ((s.storeForm dpa x x bs).cleanLine line keep)
  else if marked then
    match s.takeChunks 9 i w x.chunks 8 with
    | none => none
    | some (cs, s1) => let y := x.incompressible cs; some (((s1.storeRaw dpa x y bs).putFrame dpa y).cleanLine line keep)
  else
    match s.growLine i w x (line % 32) (chooseTag bs) with
    | none => none
    | some (y, s1) => some (((s1.storeForm dpa x y bs).putFrame dpa y).cleanLine line keep)

/-- Lines stored in the order given (R444): the state, or the line at which storage failed. -/
def State.storeLines (s : State) (w : Writer) (lines : List Nat) : Except Nat State :=
  match lines with
  | [] => .ok s
  | l :: t =>
    match s.storeLine w l true with
    | none => .error l
    | some s1 => State.storeLines s1 w t

/-- The dirty lines of a range of whole lines of one page, ascending. -/
def State.dirtyIn (s : State) (dpa n : Nat) : List Nat :=
  (List.range ((dpa + n + 127) / 128 - dpa / 128)).map (fun i => dpa / 128 + i) |>.filter s.isDirty

/-! ## Held writes of contexts (R433, R434) -/

/-- The held write of a context's instruction on the core looked at. -/
def State.heldOf (s : State) (i : Nat) (c : CtxId) : Option HeldWrite :=
  (s.die i).held.find? (fun h => h.core = s.coreId && h.ctx = c && h.inv = none)

/-- The writer that a context's instruction is, towards a die. -/
def State.writer (s : State) (i : Nat) (c : CtxId) : Writer :=
  ⟨c = .k, match (s.die i).held with
    | h :: _ => h.core = s.coreId && h.ctx = c && h.inv = none
    | [] => true⟩

/-- The held writes of a context's instruction leave the lists of the dies: the instruction is over without a chunk for them. -/
def State.dropHeld (s : State) (c : CtxId) : State :=
  let mine : HeldWrite → Bool := fun h => decide (h.core = s.coreId) && decide (h.ctx = c) && decide (h.inv = none)
  (List.range 8).foldl (fun t i => if (t.die i).held.any mine then t.putDie i { t.die i with held := (t.die i).held.filter (fun h => !mine h) } else t) s

/-- A write joins the held writes of a die. One that was held for an earlier line keeps its place, or the place it has on another die is given up; its budget runs from when it was first held (R433). -/
def State.holdOn (s : State) (i : Nat) (h : HeldWrite) : State :=
  let mine : HeldWrite → Bool := fun e => decide (e.core = h.core) && decide (e.ctx = h.ctx) && decide (e.inv = h.inv)
  let left := (((List.range 8).flatMap (fun k => (s.die k).held.filter mine)).head?.map (·.left)).getD (s.die i).hbudg
  let new := { h with left := left }
  let d := s.die i
  if d.held.any mine then s.putDie i { d with held := d.held.map (fun e => if mine e then new else e) }
  else
    let t := (List.range 8).foldl (fun (u : State) k => if (u.die k).held.any mine then u.putDie k { u.die k with held := (u.die k).held.filter (fun e => !mine e) } else u) s
    t.putDie i { t.die i with held := (t.die i).held ++ [new] }

/-- The instruction's write of a line joins the held writes (R433). -/
def State.holdWrite (s : State) (i line va len : Nat) (c : CtxId) : State := s.holdOn i ⟨s.coreId, c, none, line, va, 0, len, 0⟩

/-- A line that an L1 holds dirty is written back to the Well: the controller takes it from there (R221). -/
def State.toWell (s : State) (line : Nat) : State :=
  let i := dieOfDpa (line * 128)
  let d := s.die i
  if d.l1.any (fun e => e.1 = line) then s.putDie i { d with l1 := d.l1.filter (fun e => e.1 ≠ line) } else s

/-- The instruction's write of a line leaves the held writes with its store made: SAVED increments. -/
def State.unholdWrite (s : State) (i line : Nat) (c : CtxId) : State :=
  match s.heldOf i c with
  | none => s
  | some h =>
    let d := s.die i
    if h.line = line then s.putDie i { d with held := d.held.filter (fun g => g ≠ h), saved := d.saved + 1 } else s

/-! ## Write-backs, compaction and the Blotter (R427, R429, R432, R435) -/

/-- WELL_WRITEBACK (R427, R435): a dirty line is stored, or deferred when storage fails. A deferred line is not evicted. A line that only an L1 holds dirty comes to the Well first. -/
def State.wellWriteback (s : State) (line : Nat) : State :=
  let i := dieOfDpa (line * 128)
  let d := s.die i
  if !s.isDirty line || d.deferred.contains line then s
  else if !s.wellDirty line then s.putDie i { d with l1 := d.l1.filter (fun e => e.1 ≠ line) }
  else
    match s.storeLine ⟨false, false⟩ line false with
    | some s1 => s1
    | none => s.putDie i { d with deferred := d.deferred ++ [line] }

/-- DEFERRED_LINE_WRITEBACK (R435): the oldest deferred line, while the pool holds a chunk and no write is held. -/
def State.deferredWriteback (s : State) (i : Nat) : State :=
  let d := s.die i
  match d.deferred with
  | [] => s
  | l :: _ => if d.free = 0 || !d.held.isEmpty then s else (s.storeLine ⟨false, false⟩ l true).getD s

/-- IDLE_COMPACTION (R429): a frame with holes is compacted and its chunks above USED return to the pool. -/
def State.idleCompaction (s : State) (frame : Nat) : State :=
  let dpa := frame * 4096
  let x := s.frame dpa
  let keep := ((x.used - x.hole) + 31) / 32
  if x.bal || (x.hole = 0 && x.chunks.length ≤ keep) || s.fmr dpa = 0 then s
  else
    let y := x.compact
    let i := dieOfDpa dpa
    let s1 := (s.putDie i ((s.die i).moveForms x y none)).putFrame dpa { y with chunks := y.chunks.take keep }
    let d := s1.die i
    s1.putDie i { d with free := d.free + (y.chunks.length - keep) }

/-- The Blotter runs (R432). -/
def Die.blotting (d : Die) : Bool := decide (d.free < d.low) || !d.held.isEmpty

/-- The first source of R432 applies. Held writes take the chunks of the pool before the reserve does (R433). -/
def Die.canKres (d : Die) : Bool := d.blotting && d.held.isEmpty && decide (d.kres < 2048) && decide (0 < d.free)
/-- A balloon list holds a frame, and no earlier source applies. -/
def Die.canReclaim (d : Die) : Bool := d.blotting && !d.canKres && d.lists.any (fun e => !e.2.isEmpty)
/-- The hardware reserve gives chunks, and no earlier source applies. -/
def Die.canDraw (d : Die) : Bool :=
  d.blotting && !d.canKres && !d.canReclaim && (decide (d.free < d.crit) || !d.held.isEmpty) && decide (0 < d.hwres)
/-- The hardware reserve is refilled, and no earlier source applies; the Blotter must run, so that a write is held (log entry 26). -/
def Die.canRefill (d : Die) : Bool :=
  d.blotting && !d.canKres && !d.canReclaim && !d.canDraw && decide (d.low < d.free) && decide (d.hwres < 131072)

/-- BLOTTER_KRES_REFILL (R432). -/
def Die.kresRefill (d : Die) : Die :=
  if d.canKres then
    let n := min 64 (min (2048 - d.kres) d.free)
    { d with kres := d.kres + n, free := d.free - n }
  else d

/-- The VF whose list the Blotter serves next: the highest priority present, round-robin after the VF last served. -/
def Die.nextVf (d : Die) : Option Nat :=
  let vfs := (d.lists.filter (fun e => !e.2.isEmpty)).map (·.1)
  let pri := fun v => (SMap.get 0 d.prio v).toNat
  let top := vfs.foldl (fun m v => max m (pri v)) 0
  let at' := vfs.filter (fun v => pri v = top)
  match at'.find? (fun v => decide (d.lastVf < v)) with
  | some v => some v
  | none => at'.head?

/-- BLOTTER_RECLAIM (R432): one frame's chunks return to the pool; it keeps BAL. -/
def State.reclaim (s : State) (i : Nat) : State :=
  let d := s.die i
  if d.canReclaim then
    match d.nextVf with
    | none => s
    | some v =>
      match SMap.get [] d.lists v with
      | [] => s
      | f :: t =>
        let x := s.frame (f * 4096)
        let n := x.chunks.length
        let s1 := s.putFrame (f * 4096) { x with chunks := [], pend := false }
        let e := s1.die i
        s1.putDie i { e with lists := SMap.set [] e.lists v t, lastVf := v, free := e.free + n, recl := e.recl + BitVec.ofNat 64 n }
  else s

/-- BLOTTER_HWRES_DRAW (R432, R438). -/
def State.hwresDraw (s : State) (i : Nat) : State :=
  let d := s.die i
  if d.canDraw then
    let n := min 64 d.hwres
    (s.putDie i { d with hwres := d.hwres - n, free := d.free + n, hwuse := d.hwuse + BitVec.ofNat 64 n }).margin i 0x04 0 0 0 0x1FF 15 false
  else s

/-- BLOTTER_HWRES_REFILL (R432): FREE stays at or above LOW. -/
def Die.hwresRefill (d : Die) : Die :=
  if d.canRefill then
    let n := min 64 (min (131072 - d.hwres) (d.free - d.low))
    { d with hwres := d.hwres + n, free := d.free - n }
  else d

/-! ## The steps as rows of the table -/

/-- WELL_WRITEBACK (R427). -/
def execWellWriteback (line : Nat) (s : State) : Host.Outcome State Fault Refusal := .next (s.wellWriteback line)
/-- DEFERRED_LINE_WRITEBACK (R435). -/
def execDeferredLineWriteback (die : BitVec 3) (s : State) : Host.Outcome State Fault Refusal := .next (s.deferredWriteback die.toNat)
/-- IDLE_COMPACTION (R429). -/
def execIdleCompaction (frame : Nat) (s : State) : Host.Outcome State Fault Refusal := .next (s.idleCompaction frame)
/-- BLOTTER_KRES_REFILL (R432). -/
def execBlotterKresRefill (die : BitVec 3) (s : State) : Host.Outcome State Fault Refusal :=
  .next (s.putDie die.toNat (s.die die.toNat).kresRefill)
/-- BLOTTER_RECLAIM (R432). -/
def execBlotterReclaim (die : BitVec 3) (s : State) : Host.Outcome State Fault Refusal := .next (s.reclaim die.toNat)
/-- BLOTTER_HWRES_DRAW (R432). -/
def execBlotterHwresDraw (die : BitVec 3) (s : State) : Host.Outcome State Fault Refusal := .next (s.hwresDraw die.toNat)
/-- BLOTTER_HWRES_REFILL (R432). -/
def execBlotterHwresRefill (die : BitVec 3) (s : State) : Host.Outcome State Fault Refusal :=
  .next (s.putDie die.toNat (s.die die.toNat).hwresRefill)

/-! ## MEMCTL (R441, R442) -/

/-- STAT of a DPA (R441). -/
def State.lineStat (s : State) (a : Nat) : Nat :=
  if 2 ^ 40 ≤ a then 4
  else if s.committed a = false then 1
  else if fmrBal (s.fmr a) then 2
  else if fmrBad (s.fmr a) (a / 128) || SMap.get 0 (s.die (dieOfDpa a)).bad (a / 128) = 2 then 3
  else 0

/-- What MEMCTL.TAG writes (R441): the stored fields whatever STAT tells of the frame; 0 beyond the DPA space, where no line is. A reserved tag counts 8 sectors (log entry 26). -/
def State.tagWord (s : State) (a : Nat) : Word :=
  let st := s.lineStat a
  if st = 4 then BitVec.ofNat 64 (st * 2 ^ 60)
  else
    let x := s.frame a
    let (t, off) := x.lines.getD (a / 128 % 32) (0, 0)
    BitVec.ofNat 64 (st * 2 ^ 60 + t * 2 ^ 56 + off * 2 ^ 48 + tagSectors t * 2 ^ 44 + (if s.wellDirty (a / 128) then 2 ^ 43 else 0) + (if x.inc then 2 ^ 42 else 0))

/-- MEMCTL.TAG (R441). -/
def execMemctlTag (o : Ops) (s : State) : Host.Outcome State Fault Refusal :=
  runK o (fun t => .next (t.setS o.d (t.tagWord (t.getS o.a).toNat))) s

/-- MEMCTL.FMR (R441). -/
def execMemctlFmr (o : Ops) (s : State) : Host.Outcome State Fault Refusal :=
  runK o (fun t =>
    let a := (t.getS o.a).toNat
    .next (t.setS o.d (if t.lineStat a = 0 then (t.fmr a).extractLsb' (64 * o.uimm) 64 else 0))) s

/-- A controller register (R442). -/
def Die.reg (d : Die) (n : Nat) : Word :=
  match n with
  | 0 => BitVec.ofNat 64 d.free
  | 1 => BitVec.ofNat 64 d.low
  | 2 => BitVec.ofNat 64 d.crit
  | 3 => BitVec.ofNat 64 d.commit
  | 4 => BitVec.ofNat 64 d.hwres
  | 5 => BitVec.ofNat 64 d.kres
  | 6 => BitVec.ofNat 64 d.held.length
  | 7 => BitVec.ofNat 64 d.deferred.length
  | 8 => BitVec.ofNat 64 (d.lists.foldl (fun n e => n + e.2.length) 0)
  | 9 => BitVec.ofNat 64 d.hbudg
  | 10 => d.recl
  | 11 => d.hwuse
  | 12 => d.saved
  | 13 => d.oos
  | _ => 0

/-- MEMCTL.RD (R442). -/
def execMemctlRd (o : Ops) (s : State) : Host.Outcome State Fault Refusal :=
  runK o (fun t => .next (t.setS o.d (if (t.getS o.a).toNat < 8 then (t.die (t.getS o.a).toNat).reg o.uimm else 0))) s

/-- A frame of the die beyond a commit limit holds a chunk or is in a balloon list. -/
def Die.usedBeyond (d : Die) (commit : Nat) : Bool :=
  d.fmrs.any (fun e =>
    let x := unpackFmr e.2
    decide (commit * 2 ^ 20 ≤ e.1 % 2 ^ 25) && (!x.chunks.isEmpty || x.pend))

/-- A change of COMMIT (R422): each sixteenth moves 262,144 chunks between the pool and the FMR table. -/
def Die.setCommit (d : Die) (v : Nat) : Nat × Die :=
  if v < 16 || 32 < v then (1, d)
  else if d.commit ≤ v then
    let n := (v - d.commit) * 262144
    if d.free < n then (3, d) else (0, { d with commit := v, free := d.free - n })
  else if d.usedBeyond v then (4, d)
  else (0, { d with commit := v, free := d.free + (d.commit - v) * 262144 })

/-- MEMCTL.WR's status and the die it leaves (R442). -/
def Die.setReg (d : Die) (n v : Nat) : Nat × Die :=
  match n with
  | 1 => if 1 ≤ v && v ≤ 2 ^ 24 && d.crit < v then (0, { d with low := v }) else (1, d)
  | 2 => if v < d.low then (0, { d with crit := v }) else (1, d)
  | 3 => d.setCommit v
  | 9 => if 600 ≤ v && v ≤ 600000 then (0, { d with hbudg := v }) else (1, d)
  | _ => (5, d)

/-- MEMCTL.WR (R442). -/
def execMemctlWr (o : Ops) (s : State) : Host.Outcome State Fault Refusal :=
  runK o (fun t =>
    let i := (t.getS o.a).toNat
    if 8 ≤ i then .next (t.setS o.d 2)
    else
      let r := (t.die i).setReg o.uimm (t.getS o.b).toNat
      .next ((t.putDie i r.2).setS o.d (BitVec.ofNat 64 r.1))) s

/-! ## BALLOON (R443) -/

/-- Every cached copy of a frame's lines discarded, and its bytes lost. -/
def State.dropFrame (s : State) (dpa : Nat) : State :=
  let i := dieOfDpa dpa
  let d := s.die i
  let out := fun (l : Nat) => decide (l / 32 ≠ dpa / 4096)
  ({ s with
      mem := s.mem.filter (fun e => decide (e.1 / 4096 ≠ dpa / 4096))
      unseen := (s.unseen.flatMap (Unseen.pieces dpa 4096)).filter (fun e => !e.stores dpa 4096) }).putDie i
    { d with
      dirty := d.dirty.filter (fun e => out e.1)
      deferred := d.deferred.filter out
      bad := d.bad.filter (fun e => out e.1)
      clean := d.clean.filter out
      l1 := d.l1.filter (fun e => out e.1)
      copies := d.copies.filter (fun e => out e.1) }

/-- BALLOON.ADD of a frame to a VF's list: the status and the state. -/
def State.balloonAdd (s : State) (a vf : Nat) : Nat × State :=
  let i := dieOfDpa a
  if a % 4096 ≠ 0 || 2 ^ 40 ≤ a || s.committed a = false then (1, s)
  else if 256 ≤ vf then (2, s)
  else if fmrBal (s.fmr a) then (3, s)
  else if 65536 ≤ (s.die i).lists.foldl (fun n e => n + e.2.length) 0 then (4, s)
  else
    let x := s.frame a
    let s1 := (s.dropFrame a).putFrame a ⟨List.replicate 32 (0, 0), x.chunks, 0, 0, true, false, true, vf⟩
    let d := s1.die i
    (0, s1.putDie i { d with lists := SMap.set [] d.lists vf (SMap.get [] d.lists vf ++ [a / 4096]) })

/-- BALLOON.REM: the frame leaves its list and reads as zero. -/
def State.balloonRem (s : State) (a : Nat) : Nat × State :=
  let i := dieOfDpa a
  if a % 4096 ≠ 0 || 2 ^ 40 ≤ a || s.committed a = false then (1, s)
  else if !fmrBal (s.fmr a) then (3, s)
  else
    let x := s.frame a
    let s1 := (s.dropFrame a).putFrame a { x with bal := false, pend := false, bvf := 0 }
    let d := s1.die i
    (0, s1.putDie i { d with lists := SMap.set [] d.lists x.bvf ((SMap.get [] d.lists x.bvf).filter (fun f => f ≠ a / 4096)) })

/-- BALLOON.ADD (R443), a full fence of the K context at .dev when it completes. -/
def execBalloonAdd (o : Ops) (s : State) : Host.Outcome State Fault Refusal :=
  runK o (fun t =>
    let r := t.balloonAdd (t.getS o.a).toNat (t.getS o.b).toNat
    .next ((if r.1 = 0 then r.2.fence .k 1 else r.2).setS o.d (BitVec.ofNat 64 r.1))) s

/-- BALLOON.REM (R443). -/
def execBalloonRem (o : Ops) (s : State) : Host.Outcome State Fault Refusal :=
  runK o (fun t =>
    let r := t.balloonRem (t.getS o.a).toNat
    .next (r.2.setS o.d (BitVec.ofNat 64 r.1))) s

/-- BALLOON.PRI (R443): the priority on every die. -/
def execBalloonPri (o : Ops) (s : State) : Host.Outcome State Fault Refusal :=
  runK o (fun t =>
    let p := (t.getS o.a).toNat
    let vf := (t.getS o.b).toNat
    if 256 ≤ vf || 16 ≤ p then .next (t.setS o.d 2)
    else
      let t1 := (List.range 8).foldl (fun u i => u.putDie i { u.die i with prio := SMap.set 0 (u.die i).prio vf (BitVec.ofNat 4 p) }) t
      .next (t1.setS o.d 0)) s

end Sys2Proof.Machine
end

