-- ==== Sys2Proof/Machine/Rcb.lean ====
section
/-! DEFINITION. What the hub reads and writes in memory, and region control blocks with their effective fields (R474, R475, R478, R506). -/

namespace Sys2Proof.Machine

/-! ## Accesses of the hub (R478, R506) -/

/-- A translation by the walk alone, as the hub makes it. -/
def hubXlat (s : State) (asid : BitVec 9) (kLevel : Bool) (k : Access) (va : Nat) : Except Flt (Xlat × State) :=
  let w := walk s asid va
  if vaLimit ≤ va then .error ⟨cPagePermission, 0x03, va⟩
  else
    match w.fail with
    | some f => .error (walkFault f k va)
    | none => (checkPerm kLevel k va ⟨pteDpa w.pte / w.size * w.size + va % w.size, w.pte &&& 0xFFF#64⟩).map (fun x => (x, s))

/-- The parts of n bytes that the hub accesses at a VA. -/
def hubParts (s : State) (asid : BitVec 9) (kLevel : Bool) (k : Access) (va n : Nat) : Except Flt (List Part) :=
  (partsWith (fun t a => hubXlat t asid kLevel k a) (fun t => frameFaults t (k ≠ .write)) (n / 4096 + 2) s va n).map (·.1)

/-- n bytes that dispatch reads under an address space; it is not held to the user bit (log entry 21). -/
def State.hubRead (s : State) (asid : BitVec 9) (va n : Nat) : Except Flt (List Byte) :=
  (hubParts s asid true .read va n).map (readParts s)

/-- Bytes that dispatch writes under an address space. -/
def State.hubWrite (s : State) (asid : BitVec 9) (va : Nat) (bs : List Byte) : Except Flt State :=
  (hubParts s asid true .write va bs.length).map (fun ps => storeSeen s false ps bs)

/-- A number of n bytes that dispatch reads. -/
def State.hubNat (s : State) (asid : BitVec 9) (va n : Nat) : Except Flt Nat := (s.hubRead asid va n).map leNat

/-- The DPA at which the hub finds a VA. -/
def State.hubDpa (s : State) (asid : BitVec 9) (va : Nat) : Option Nat :=
  match hubParts s asid true .read va 1 with
  | .ok (p :: _) => some p.dpa
  | _ => none

/-! ## Region control blocks (R474, R475) -/

/-- An RCB as read: its VA and its 32 words. -/
structure RcbNode where
  va : Nat
  w : List Word
  deriving DecidableEq, Repr

/-- Word i of an RCB. -/
def RcbNode.word (n : RcbNode) (i : Nat) : Word := n.w.getD i 0

/-- The path from a region to its root, whether it is invalid, and whether an RCB of it could not be read. -/
structure RcbPath where
  nodes : List RcbNode
  bad : Bool
  unread : Bool
  deriving DecidableEq, Repr

/-- The path from an RCB on, at most 16 RCBs long (R475). -/
def rcbPath (fuel : Nat) (s : State) (asid : BitVec 9) (va : Nat) : RcbPath :=
  if va = 0 then ⟨[], false, false⟩
  else
    match fuel with
    | 0 => ⟨[], true, false⟩
    | f + 1 =>
      if va % 256 ≠ 0 then ⟨[], true, false⟩
      else
        match s.hubRead asid va 256 with
        | .error _ => ⟨[], false, true⟩
        | .ok bs =>
          let n : RcbNode := ⟨va, (wordsOf 8 32 bs).map (BitVec.ofNat 64)⟩
          let r := rcbPath f s asid (n.word 0).toNat
          ⟨n :: r.nodes, r.bad, r.unread⟩

/-- A reserved bit of an RCB is set (R474, R475). -/
def RcbNode.reserved (n : RcbNode) : Bool :=
  bits (n.word 1) 63 7 ≠ 0 || bits (n.word 2) 63 41 ≠ 0
    || bits (n.word 5) 63 48 ≠ 0 || bits (n.word 5) 39 34 ≠ 0 || bits (n.word 5) 31 25 ≠ 0 || bits (n.word 5) 7 4 ≠ 0
    || bits (n.word 7) 63 2 ≠ 0 || bits (n.word 8) 31 0 ≠ 0 || (n.w.drop 14).any (fun w => w ≠ 0)

/-- The RCB from which group n of fields takes its effective value; the last RCB of the path acts as if OVR bits 0 to 3, 5 and 6 were set. -/
def ownerOf (l : List RcbNode) (n : Nat) : Option RcbNode :=
  match l with
  | [] => none
  | [r] => if n ≠ 4 || bit (r.word 1) 4 then some r else none
  | h :: t => if bit (h.word 1) n then some h else ownerOf t n

/-- The effective fields of a region (R475). -/
structure Rcb where
  path : List RcbNode
  bad : Bool
  unread : Bool
  base : Nat
  cores : Nat
  bars : Nat
  spad : Nat
  tape : Nat
  pri : Nat
  fdom : Nat
  asid : BitVec 9
  cmode : Nat
  evr : Nat
  vf : Nat
  deriving DecidableEq, Repr

/-- The effective fields of the region whose RCB lies at a VA. -/
def State.rcb (s : State) (asid : BitVec 9) (va : Nat) : Rcb :=
  let p := rcbPath 16 s asid va
  let fld := fun (n i hi lo : Nat) => ((ownerOf p.nodes n).map (fun r => bits (r.word i) hi lo)).getD 0
  let cores := fld 0 2 15 0
  let cmode := match ownerOf p.nodes 4 with
    | some r => bits (r.word 5) 33 32
    | none => if cores ≤ 8 then 0 else 1
  { path := p.nodes
    bad := p.bad || p.nodes.any RcbNode.reserved || cmode = 3
    unread := p.unread
    base := fld 0 2 40 32
    cores := cores
    bars := fld 0 2 31 16
    spad := fld 0 3 63 0
    tape := fld 0 4 63 0
    pri := fld 1 5 3 0
    fdom := fld 2 5 15 8
    asid := BitVec.ofNat 9 (fld 3 5 24 16)
    cmode := cmode
    evr := fld 5 6 63 0
    vf := fld 6 5 47 40 }

/-- The region of an RCB's DPA, as the hub holds it. -/
def State.region (s : State) (rcb : Nat) : Option Region := SMap.get none s.hub.regions rcb

/-- The state with a region changed. -/
def State.putRegion (s : State) (rcb : Nat) (r : Region) : State :=
  { s with hub := { s.hub with regions := SMap.set none s.hub.regions rcb (some r) } }

/-- Every group of a launch has been bound or discarded, and has retired. -/
def Launch.over (l : Launch) : Bool := l.closed && l.bound = l.retired

/-- A launch as it stands in a cycle: the cycle in which it ended is noted (R489). -/
def Launch.at (l : Launch) (now : Word) : Launch := if l.over && l.ended.isNone then { l with ended := some now.toNat } else l

/-- Every launch of the launch table changed. -/
def State.mapLaunches (s : State) (f : Launch → Launch) : State :=
  { s with hub := { s.hub with launches := s.hub.launches.map (fun e => (e.1, e.2.map (fun l => (f l).at s.hub.cycle))) } }

/-- The virtual function that owns the region of a context's group. -/
def State.vfOf (s : State) (c : CtxId) : Option Nat :=
  match (s.ctxAt c).group with
  | none => none
  | some g => (s.region g.rcb).map (fun r => (s.rcb r.asid r.rcbVa.toNat).vf)

end Sys2Proof.Machine
end

