-- ==== Sys2Proof/Machine/Ductus.lean ====
section
/-! DEFINITION. The Ductus: the mark queue and the insertion buffer as one sequence, the grammar store, the parse step, mismatch and recovery (R223 to R247, R302, R303). -/

namespace Sys2Proof.Machine

abbrev mDATA : Mark := 0
abbrev mEOR : Mark := 1
abbrev mEOT : Mark := 4
abbrev mPRE : Mark := 5
abbrev mCFG : Mark := 6
abbrev mDRN : Mark := 7

/-- All ones, the KEPC of a trap that names no instruction (R311). -/
abbrev noPc : Word := 0xFFFFFFFFFFFFFFFF

/-! ## The sequence of symbols (R224, R235, R238) -/

/-- One place of the sequence: a symbol, a hardware mark, or a reserved or undecided place that Peek waits for (R411, R303). -/
inductive Item where
  | sym (m : Mark)
  | hw (m : Mark)
  | wait
  deriving DecidableEq, Repr

/-- The place of a MARKIF mark among symbols numbered from j: after the first DATA at or after n, or before an EOT that comes first. -/
def afterDataAt (n j : Nat) (q : List Mark) : Option Nat :=
  match q with
  | [] => none
  | m :: t => if n ≤ j && m = mDATA then some (j + 1) else if n ≤ j && m = mEOT then some j else afterDataAt n (j + 1) t

/-- The stream symbol before which an inserted mark stands, once that is settled. -/
def Ctx.placeOf (x : Ctx) (p : MarkPlace) : Option Nat :=
  match p with
  | .before n => some n
  | .afterData n => afterDataAt n x.qbase x.queue

/-- The marks at the gap before stream symbol j, in execution order. -/
def Ctx.gap (x : Ctx) (j : Nat) : List Item :=
  (x.ins.filter (fun e => x.placeOf e.place = some j)).map (fun e => match e.code with
    | some m => .sym m
    | none => .wait)

/-- The marks at the gap after the last symbol present: from the first one that an undecided earlier mark could precede, Peek waits. -/
def Ctx.lastGap (x : Ctx) (l : List InsMark) (j : Nat) : List Item :=
  match l with
  | [] => []
  | e :: t =>
    match x.placeOf e.place with
    | none => if t.any (fun f => x.placeOf f.place = some j) then [.wait] else []
    | some k =>
      if k = j then (match e.code with | some m => Item.sym m | none => Item.wait) :: x.lastGap t j else x.lastGap t j

/-- The symbols of the queue from number j on, each after the marks of its gap. -/
def Ctx.itemsFrom (x : Ctx) (j : Nat) (q : List Mark) : List Item :=
  match q with
  | [] => x.lastGap x.ins j
  | m :: t => x.gap j ++ (if m = mPRE || m = mDRN then Item.hw m else Item.sym m) :: x.itemsFrom (j + 1) t

/-- The sequence the parse reads. -/
def Ctx.items (x : Ctx) : List Item := x.itemsFrom x.qbase x.queue

/-- What Peek finds (R235). -/
inductive Seen where
  | sym (m : Mark)
  | hw (m : Mark)
  | stop
  | absent
  deriving DecidableEq, Repr

/-- The i-th symbol, counted from 1; EOT hides what follows it. -/
def peekIn (l : List Item) (i : Nat) : Seen :=
  match l with
  | [] => .absent
  | .wait :: _ => .absent
  | .hw m :: _ => .hw m
  | .sym m :: t => if i ≤ 1 then .sym m else if m = mEOT then .stop else peekIn t (i - 1)

/-- Peek(1): END once EOT has been consumed. -/
def Ctx.peek1 (x : Ctx) : Seen := if x.eotc then .stop else peekIn x.items 1

/-- Peek(2): EOT when Peek(1) is EOT. -/
def Ctx.peek2 (x : Ctx) : Seen :=
  if x.eotc then .stop else if x.peek1 = .sym mEOT then .sym mEOT else peekIn x.items 2

/-- A MARKIF place settled by the consumption of the stream symbol numbered j. -/
def settle (j : Nat) (m : Mark) (e : InsMark) : InsMark :=
  match e.place with
  | .before _ => e
  | .afterData n => if n ≤ j && m = mDATA then { e with place := .before (j + 1) } else e

/-- The list without its first element that meets a test. -/
def dropFirst {α : Type} (p : α → Bool) : List α → List α
  | [] => []
  | x :: t => if p x then t else x :: dropFirst p t

/-- Consume: takes Peek(1), advances the mark position, records EOT (R225, R235). -/
def Ctx.consume (x : Ctx) : Ctx :=
  let here : InsMark → Bool := fun e => decide (x.placeOf e.place = some x.qbase)
  if x.ins.any here then { x with ins := dropFirst here x.ins, pos := x.pos + 1 }
  else
    match x.queue with
    | [] => x
    | m :: t =>
      { x with
        queue := t
        qbase := x.qbase + 1
        ins := x.ins.map (settle x.qbase m)
        nData := if m = mDATA then x.nData + 1 else x.nData
        eotc := x.eotc || m = mEOT
        pos := x.pos + 1 }

/-- Peek(1) is a DATA of the stream. -/
def Ctx.dataNext (x : Ctx) : Bool :=
  !x.ins.any (fun e => decide (x.placeOf e.place = some x.qbase)) && x.queue.head? = some mDATA

/-! ## Discarded beats (R243, R282, R302) -/

/-- What the skip of the DATA numbered d does to a port of the context: the beat is barred to invocations numbered from bar on. -/
def Port.discard (p : Port) (c : CtxId) (bar d : Nat) : Port :=
  if p.bound && !p.wr && p.mode = 0 && p.owner = some c then
    if p.lead then (if p.cons = 0 then p else { p with drops := p.drops ++ [(bar, some d)] })
    else if p.ended && p.fifo.isEmpty then p
    else { p with drops := p.drops ++ [(bar, none)] }
  else p

/-- The beats of a port's skips removed from its data queue, in order: those that no invocation issued before the skip can take any longer; `early` tells whether one below a number is left. One that has yet to be read is removed when it is. -/
def Port.removeDrops (early : Nat → Bool) (p : Port) (ds : List (Nat × Option Nat)) : Port :=
  match ds with
  | [] => p
  | d :: t =>
    let gone := { p with drops := p.drops.erase d }
    if early d.1 then p
    else
      match d.2, p.fifo with
      | some n, l =>
        if l.any (fun b => b.no = n) then Port.removeDrops early { gone with fifo := l.filter (fun b => b.no ≠ n) } t
        else Port.removeDrops early (if n < p.nBeats then gone else p) t
      | none, _ :: f => Port.removeDrops early { gone with fifo := f } t
      | none, [] => if p.ended then Port.removeDrops early gone t else p

/-- The skips of a port take effect as far as they can (R243, R282). -/
def Core.settleDrops (c : Core) (pn : Nat) : Core :=
  let p := SMap.get Port.reset c.ports pn
  if p.drops.isEmpty then c
  else { c with ports := SMap.set Port.reset c.ports pn (p.removeDrops (fun n => c.invs.any (fun v => v.ports.contains pn && decide (v.id < n))) p.drops) }

/-- The skips of every port. -/
def Core.settleSkips (c : Core) : Core := (List.range 8).foldl Core.settleDrops c

/-- Every read port of the context discards a beat. In recovery no invocation of the context is pending, and that of a lead port is removed at once (R243). -/
def Core.discardBeat (c : Core) (u : CtxId) (d : Nat) : Core :=
  let x := c.ctxOf u
  let recovers := decide (x.st = .recovering) || (x.scroll.mode = 2 && x.scroll.recovers)
  let bar := fun (p : Port) => if p.lead && recovers then 0 else c.nextInv
  Core.settleSkips { c with ports := (List.range 8).foldl (fun m i => let p := SMap.get Port.reset m i; SMap.set Port.reset m i (p.discard u (bar p) d)) c.ports }

/-- One symbol of a context skipped, with the discard of a DATA's beats. -/
def Core.skipSymbol (c : Core) (u : CtxId) : Core :=
  let x := c.ctxOf u
  let c1 := if x.dataNext then c.discardBeat u x.nData else c
  c1.putCtx u x.consume

/-! ## The grammar store (R226 to R230) -/

/-- n bytes of the grammar store as a number. -/
def Core.gramNat (c : Core) (off n : Nat) : Nat := leNat ((List.range n).map (fun i => SMap.get 0 c.gram (off + i)))

/-- The nonterminal entry of a symbol. -/
def Core.ntEntry (c : Core) (x : Nat) : Word := BitVec.ofNat 64 (c.gramNat (0x40 + 8 * (x - 16)) 8)
/-- Its fields. -/
def ntErr (e : Word) : Nat := bits e 63 54
def ntSync (e : Word) (m : Mark) : Bool := e.getLsbD (38 + m.toNat)
def ntRec (e : Word) : Bool := bit e 37
def ntLa2 (e : Word) : Bool := bit e 36
def ntTable (e : Word) : Nat := bits e 31 16

/-- The action entry of a symbol: the byte offset of its routine. -/
def Core.actEntry (c : Core) (x : Nat) : Nat := c.gramNat (0x3C0 + 4 * (x - 128)) 4

/-- The right-hand side of a production, left to right. -/
def Core.prodSyms (c : Core) (p : Nat) : List Nat :=
  let e := c.gramNat (0x11C0 + 16 * p) 16
  (List.range (e / 2 ^ 12 % 16)).map (fun i => e / 2 ^ (16 + 10 * i) % 1024)

/-- A parse-table entry: the production, when valid. -/
def Core.ptEntry (c : Core) (off : Nat) : Option Nat :=
  let e := c.gramNat off 2
  if 0x8000 ≤ e then some (e % 512) else none

/-- The entry of a nonterminal for a look-ahead; END selects none. -/
def Core.ptLook (c : Core) (e : Word) (p1 p2 : Seen) : Option Nat :=
  match p1 with
  | .sym a =>
    if ntLa2 e then
      match p2 with
      | .sym b => c.ptEntry (ntTable e + 32 * a.toNat + 2 * b.toNat)
      | _ => none
    else c.ptEntry (ntTable e + 2 * a.toNat)
  | _ => none

/-- NNT and START of the header. -/
def Core.gramNnt (c : Core) : Nat := c.gramNat 0 8 / 2 ^ 16 % 128

/-- A stack entry that is a frame. -/
def StackEntry.isFrame (e : StackEntry) : Bool := e.entry.getLsbD 15

/-- Every frame entry on top of the stack removed (R234). The stack's top is the list's head. -/
def dropFrames (l : List StackEntry) : List StackEntry := l.dropWhile StackEntry.isFrame

/-! ## The parse machine (R234 to R237, R245, R246) -/

/-- The top symbol after the frames are dropped. -/
def Ctx.top (x : Ctx) : Option StackEntry := (dropFrames x.stack).head?

/-- What the look-ahead of the next parse step meets: nothing, an absent symbol, or a hardware mark. -/
inductive Look where
  | ready
  | absent
  | hw (m : Mark)
  deriving DecidableEq, Repr

/-- Look-ahead over what Peek returns. -/
def Seen.look : Seen → Look
  | .sym _ => .ready
  | .stop => .ready
  | .hw m => .hw m
  | .absent => .absent

/-- The look-ahead that the next parse step needs. -/
def Core.lookAhead (c : Core) (x : Ctx) : Look :=
  match x.top with
  | none => .ready
  | some e =>
    let n := e.entry.toNat % 1024
    if n < 16 then x.peek1.look
    else if n < 128 then
      match x.peek1.look with
      | .ready => if ntLa2 (c.ntEntry n) then x.peek2.look else .ready
      | l => l
    else .ready

/-- StartRoutine of R236, credited with a production (R311). -/
def Core.startRoutine (c : Core) (x : Ctx) (sym prod : Nat) (err : Bool) : Ctx :=
  { x with
    st := .action
    errAction := err
    loaded := x.budget
    counted := 0
    lastProd := prod
    pc := BitVec.ofNat 64 ((c.actBase.toNat + c.actEntry sym) % 2 ^ 48) }

/-- A context enters MISMATCH (R240). -/
def Ctx.mismatch (x : Ctx) : Ctx := { x with st := .mismatch }

/-- DRN reaches Peek(1): whatever its state the context stops, later symbols are discarded, and the group retires with FAULT once its invocations are done (R246). -/
def Ctx.drain (x : Ctx) : Ctx :=
  { x with st := .parsing, parsed := true, errAction := false, errDone := false, gresume := none, drained := true, faulted := true, queue := [], ins := [], waiting := none, evWait := none, waited := 0, syncInv := none }

/-- DRN takes effect on a context; a trap of it that waits is void. -/
def State.drainCtx (s : State) (u : CtxId) : State :=
  let t := s.putCtxAt u (s.ctxAt u).drain
  t.putCore { t.core with pend := t.core.pend.filter (fun p => decide (p.ctx.toNat ≠ ctxNum u)) }

/-- The body of ParseStep (R234) once the look-ahead is present. -/
def State.parseBody (s : State) (u : CtxId) : State :=
  let c := s.core
  let x := { s.ctxAt u with stack := dropFrames (s.ctxAt u).stack, waiting := none, waited := 0 }
  match x.stack with
  | [] => s.putCtxAt u (if x.eotc then { x with parsed := true } else x.mismatch)
  | e :: rest =>
    let n := e.entry.toNat % 1024
    if n < 16 then
      if x.peek1 = .sym (BitVec.ofNat 4 n) then s.putCtxAt u { x with stack := rest }.consume
      else s.putCtxAt u x.mismatch
    else if n < 128 then
      let nt := c.ntEntry n
      match c.ptLook nt x.peek1 x.peek2 with
      | none => s.putCtxAt u x.mismatch
      | some p =>
        let syms := c.prodSyms p
        let frame := if ntRec nt then 1 else 0
        if 64 < rest.length + frame + syms.length then
          (s.putCtxAt u x).raiseTrap (trapInfo cStackOverflow 1 (BitVec.ofNat 64 p)) u noPc
        else
          let body := syms.map (fun y => (⟨BitVec.ofNat 16 y, p⟩ : StackEntry))
          let base := if ntRec nt then (⟨BitVec.ofNat 16 (0x8000 + n), p⟩ : StackEntry) :: rest else rest
          s.putCtxAt u { x with stack := body ++ base }
    else s.putCtxAt u (c.startRoutine { x with stack := rest } n e.prod false)

/-- The armed cut of a context is taken by the Ductus (R245). -/
def State.takeCut (s : State) (u : CtxId) : State :=
  match s.core.cut with
  | some k => if k.ctx = u && k.started then { s with core := { s.core with cut := some { k with taken := true } } } else s
  | none => s

/-- The cut of a context has been taken: it issues nothing. -/
def Core.isCut (c : Core) (u : CtxId) : Bool :=
  match c.cut with
  | some k => k.ctx = u && k.taken
  | none => false

/-- A context is under the drain configuration, or DRN stands at its Peek(1). -/
def Ctx.drains (x : Ctx) : Bool := x.group.isSome && !x.parsed && (x.draining || peekIn x.items 1 = .hw mDRN)

/-- Under the drain configuration the Ductus consumes the symbols of a context as they arrive and discards them, whatever the context's state, until DRN (R15, R246). It takes no issue slot. -/
def State.drainStep (s : State) (u : CtxId) : State :=
  let x := s.ctxAt u
  if !x.drains || s.core.isCut u || u = .k then s
  else
    match peekIn x.items 1 with
    | .hw m => if m = mPRE then s.takeCut u else s.drainCtx u
    | .sym _ => s.putCtxAt u x.consume
    | _ => s

/-- PARSE_STEP: one parse step of a U context (R234), or the cut that its look-ahead reaches, or a step of its drain. It changes nothing when the context has no step to take. -/
def State.parseStep (s : State) (u : CtxId) : State :=
  let x := s.ctxAt u
  if s.core.halted || s.core.isCut u || u = .k then s
  else if x.drains then s.drainStep u
  else if s.core.inTrap || x.st ≠ .parsing || x.parsed || x.group.isNone then s
  else
    match s.core.lookAhead x with
    | .absent => s
    | .hw m => if m = mPRE then s.takeCut u else s.drainCtx u
    | .ready => s.parseBody u

/-! ## Mismatch and recovery (R240 to R244) -/

/-- The invocations a context issued that have neither ended nor been discarded. -/
def Core.pendingInvs (c : Core) (u : CtxId) : List Inv := c.invs.filter (fun v => v.ctx = u && v.st ≠ .discarded)

/-- The mark codes with a valid entry in a table row, as a bit set. -/
def Core.rowSet (c : Core) (off : Nat) : Nat :=
  (List.range 16).foldl (fun n i => if (c.ptEntry (off + 2 * i)).isSome then n + 2 ^ i else n) 0

/-- The expected set and whether it lists second marks (R242). At END a two-mark nonterminal has no row to list: the codes with a first mark are listed, with LA2 = 0 (DESIGN CHOICE, log entry 60). -/
def Core.expected (c : Core) (x : Ctx) (top : Option Nat) : Nat × Bool :=
  match top with
  | none => (0, false)
  | some n =>
    if n < 16 then (2 ^ n, false)
    else
      let e := c.ntEntry n
      if ntLa2 e then
        let row := match x.peek1 with
          | .sym a => c.rowSet (ntTable e + 32 * a.toNat)
          | _ => 0
        if row ≠ 0 then (row, true)
        else ((List.range 16).foldl (fun k i => if c.rowSet (ntTable e + 32 * i) ≠ 0 then k + 2 ^ i else k) 0, false)
      else (c.rowSet (ntTable e), false)

/-- The mark code Peek returned; 0 for END. -/
def Seen.code : Seen → Nat
  | .sym m => m.toNat
  | _ => 0

/-- The fault record of a mismatch (R241). The stack is as the parse step left it. -/
def Core.faultRecord (c : Core) (x : Ctx) : BitVec 256 :=
  let top := x.stack.head?.map (fun e => e.entry.toNat % 1024)
  let (ex, la2) := c.expected x top
  let w0 := ex * 2 ^ 48 + x.peek1.code * 2 ^ 44 + (if la2 then x.peek2.code * 2 ^ 40 + 2 ^ 39 else 0)
    + (match top with | some n => if n < 16 then 2 ^ 38 else 0 | none => 0)
    + (if x.peek1 = .stop then 2 ^ 37 else 0) + x.stack.length % 128 * 2 ^ 30 + top.getD 0 * 2 ^ 20 + x.frec.toNat % 65536
  let stk := ((x.stack.take 8).map (fun e => e.entry.toNat)).foldr (fun v a => v + 65536 * a) 0
  BitVec.ofNat 256 (w0 + x.pos.toNat * 2 ^ 64 + stk * 2 ^ 128)

/-- The topmost frame entry. -/
def Ctx.topFrame (x : Ctx) : Option StackEntry := x.stack.find? StackEntry.isFrame

/-- The trap of step 4 of R240; its handler observes the invocations that the mismatch waited for (R247). -/
def State.grammarTrap (s : State) (u : CtxId) : State :=
  (s.acquire .k 3 (s.joinKeys u)).raiseTrap (trapInfo cGrammarMismatch 0 ((s.ctxAt u).frecWord 1)) u noPc

/-- MISMATCH_RECORD_WRITE (R240): once the context's invocations are done and Peek(1) is present, the record is written and recovery or the trap follows; a replaying context, whose guard told that it was in MISMATCH, follows its tape instead (R461). The wait ends with an acquire at .ctx (R247). -/
def State.mismatchWrite (s : State) (u : CtxId) : State :=
  let x := s.ctxAt u
  if x.st ≠ .mismatch || x.scroll.mode = 2 || x.parsed || s.core.isCut u || !(s.core.pendingInvs u).isEmpty || s.core.halted then s
  else
    match x.peek1 with
    | .absent => s
    | .hw m => if m = mPRE then s.takeCut u else s.drainCtx u
    | _ =>
      let y := { x with frec := s.core.faultRecord x, waiting := none, waited := 0 }
      let t := s.acquire u 4 (s.joinKeys u)
      match y.topFrame with
      | some _ => t.putCtxAt u { y with st := .recovering }
      | none => (t.putCtxAt u y).grammarTrap u

/-- EOTR is set (R244). -/
def Ctx.setEotr (x : Ctx) : Ctx := { x with frec := x.frec ||| (1#256 <<< 19) }

/-- The sync mark consumed: the stack falls to below the frame, and the error action runs or the recovery is counted (R243, steps 3 to 6). -/
def Core.recovered (c : Core) (x : Ctx) (f : StackEntry) : Ctx :=
  let nt := c.ntEntry (f.entry.toNat % 1024)
  let y := { x with stack := (x.stack.dropWhile (fun (e : StackEntry) => !e.isFrame)).drop 1 }.consume
  if ntErr nt ≠ 0 then c.startRoutine y (ntErr nt) f.prod true else { y with st := .parsing }.countRecovery

/-- RECOVERY_STEP (R243, R244, R272): one mark skipped, the sync mark consumed, or, after the error action, the recovery counted and PARSING entered. -/
def State.recoveryStep (s : State) (u : CtxId) : State :=
  let x := { s.ctxAt u with waiting := none, waited := 0 }
  if x.st ≠ .recovering || x.parsed || s.core.inTrap || s.core.halted || s.core.isCut u then s
  else if x.errDone then s.putCtxAt u { x with st := .parsing, errDone := false }.countRecovery
  else
    match x.topFrame with
    | none => s
    | some f =>
      match x.peek1 with
      | .absent => s
      | .hw m => if m = mPRE then s.takeCut u else s.drainCtx u
      | .stop => (s.putCtxAt u x.setEotr).grammarTrap u
      | .sym m =>
        if ntSync (s.core.ntEntry (f.entry.toNat % 1024)) m then s.putCtxAt u (s.core.recovered x f)
        else if m = mEOT then (s.putCtxAt u x.setEotr).grammarTrap u
        else s.putCore ((s.core.putCtx u x).skipSymbol u)

/-! ## Arrivals (R153) -/

/-- The lead port of a context. -/
def Core.leadPort (c : Core) (u : CtxId) : Option Nat :=
  (List.range 8).find? (fun i => let p := SMap.get Port.reset c.ports i; p.bound && p.lead && p.owner = some u)

/-- MARK_ARRIVAL (R153): the lead port delivers the next symbol of its stream into the queue, if the queue of 64 has room. CFG never enters a queue (R223); it starts an interval of the port's counters (R524). -/
def State.markArrival (s : State) (u : CtxId) : State :=
  let x := s.ctxAt u
  match s.core.leadPort u with
  | none => s
  | some i =>
    let p := SMap.get Port.reset s.core.ports i
    match p.outMarks with
    | [] => s
    | m :: t =>
      if x.group = none || 64 ≤ x.queue.length then s
      else
        let c := { s.core with ports := SMap.set Port.reset s.core.ports i { p with outMarks := t } }
        s.putCore (if m = mCFG then c.startInterval i else c.putCtx u (if x.drained then x else { x with queue := x.queue ++ [m] }))

/-- MARK_ARRIVAL (R153). -/
def execMarkArrival (u : BitVec 2) (s : State) : Host.Outcome State Fault Refusal := .next (s.markArrival (uCtx u.toNat))

end Sys2Proof.Machine
end

