-- ==== Sys2Proof/Machine/MemInstr.lean ====
section
/-! DEFINITION. Loads, stores, atomics, fences and cache maintenance: opcodes 0x50 to 0x6E (R202 to R222). -/

namespace Sys2Proof.Machine

/-! ## Addresses and accesses (R204 to R207) -/

/-- The lane number of a scalar access (R206). -/
abbrev scalarLane : Nat := 0xFFFF

/-- PAGE_PERMISSION for an address whose n bytes pass the virtual space (R204). -/
def eaFlt (x : Word) (n : Nat) : Option Flt := if vaLimit < x.toNat + n then some ⟨cPagePermission, 0x03, x.toNat⟩ else none

/-- The address of [sA+off]. -/
def State.addr (s : State) (o : Ops) : Word := s.getS o.a + o.simm

/-- Bytes written at a VA by the executing context's plain store; none while it waits for a way of the Well (R435). -/
def State.writeVa (s : State) (va : Nat) (bs : List Byte) : Except Flt (Option State) :=
  match accessParts s s.curAsid s.kLevel .write va bs.length with
  | .error f => .error f
  | .ok (ps, s1) => .ok (if s1.waitsWay ps then none else some (s1.plainStore true s1.me s1.nextSeq (unitOfAccess va bs.length) ps bs))

/-- The trap of a scalar access. -/
def scalarTrap (f : Flt) (write : Bool) (s : State) : Eff := .trap (fltTrap f scalarLane write) s

/-- ALIGN of R206. -/
def alignFlt (a : Nat) : Flt := ⟨cAlign, 0x01, a⟩

/-- What a load is: plain, with the caches' use of LDNT (R209), or an acquire that reaches so far (R218). -/
inductive LoadKind where
  | plain | nt
  | acq (reach : Nat)
  deriving DecidableEq, Repr

/-- How far the acquire of a load reaches. -/
def LoadKind.reach : LoadKind → Option Nat
  | .acq n => some n
  | _ => none

/-- The bytes that a load sees at parts, in pieces of m bytes, and the caches after it: LDNT takes no line into a cache. -/
def State.loadParts (s : State) (k : LoadKind) (m : Nat) (ps : List Part) : List Byte × State :=
  let r := readView s s.me k.reach m ps
  (r.1, if k = .nt then r.2 else (r.2.useLines (linesOfParts ps)).useL1 (linesOfParts ps))

/-- A load of the width in q at an address (R208, R209, R218). -/
def loadAt (s : State) (q : Nat) (a : Word) (k : LoadKind) (done : State → Word → State) : Eff :=
  let n := widthBytes q
  match eaFlt a n with
  | some f => scalarTrap f false s
  | none =>
    if k.reach.isSome && a.toNat % n ≠ 0 then scalarTrap (alignFlt a.toNat) false s
    else
      match accessParts s s.curAsid s.kLevel .read a.toNat n with
      | .error f => scalarTrap f false s
      | .ok (ps, t) =>
        if k ≠ .nt && t.waitsWay ps then .block .storage t
        else let r := t.loadParts k (unitOfAccess a.toNat n) ps; .next (done r.2 (extendLoad q (leNat r.1)))

/-- A plain store of the width in q at an address (R208). -/
def storeAt (s : State) (q : Nat) (a : Word) (w : Word) : Eff :=
  let n := widthBytes q
  match eaFlt a n with
  | some f => scalarTrap f true s
  | none =>
    match s.writeVa a.toNat (leBytes n w.toNat) with
    | .error f => scalarTrap f true s
    | .ok none => .block .storage s
    | .ok (some t) => .next t

/-- A store with release order at a scope (R218). -/
def storeRel (s : State) (q scope : Nat) (a : Word) (w : Word) : Eff :=
  let n := widthBytes q
  match eaFlt a n with
  | some f => scalarTrap f true s
  | none =>
    if a.toNat % n ≠ 0 then scalarTrap (alignFlt a.toNat) true s
    else
      match accessParts s s.curAsid s.kLevel .write a.toNat n with
      | .error f => scalarTrap f true s
      | .ok (ps, t) => if t.waitsWay ps then .block .storage t else .next (t.storeOrdered t.me (scopeReach scope) false ps (leBytes n w.toNat))

/-- The address of LDX and STX. -/
def State.addrX (s : State) (o : Ops) : Word := s.getS o.a + s.getS o.b * BitVec.ofNat 64 (widthBytes o.q.toNat) + o.simm

/-- LD (R208). -/
def execLd (o : Ops) (s : State) : Host.Outcome State Fault Refusal :=
  runInstr o (fun t => loadAt t o.q.toNat (t.addr o) .plain (fun u w => u.setS o.d w)) s
/-- ST (R208). -/
def execSt (o : Ops) (s : State) : Host.Outcome State Fault Refusal :=
  runInstr o (fun t => storeAt t o.q.toNat (t.addr o) (t.getS o.d)) s
/-- LDX (R208). -/
def execLdx (o : Ops) (s : State) : Host.Outcome State Fault Refusal :=
  runInstr o (fun t => loadAt t o.q.toNat (t.addrX o) .plain (fun u w => u.setS o.d w)) s
/-- STX (R208). -/
def execStx (o : Ops) (s : State) : Host.Outcome State Fault Refusal :=
  runInstr o (fun t => storeAt t o.q.toNat (t.addrX o) (t.getS o.d)) s
/-- LDNT (R209): the coherent value, and no line taken into a cache. -/
def execLdnt (o : Ops) (s : State) : Host.Outcome State Fault Refusal :=
  runInstr o (fun t => loadAt t o.q.toNat (t.addr o) .nt (fun u w => u.setS o.d w)) s
/-- LDACQ (R218): an acquire at the scope in M. -/
def execLdacq (o : Ops) (s : State) : Host.Outcome State Fault Refusal :=
  runInstr o (fun t => loadAt t o.q.toNat (t.addr o) (.acq (scopeReach o.m.toNat)) (fun u w => u.setS o.d w)) s
/-- STREL (R218). -/
def execStrel (o : Ops) (s : State) : Host.Outcome State Fault Refusal :=
  runInstr o (fun t => storeRel t o.q.toNat o.m.toNat (t.addr o) (t.getS o.d)) s

/-! ## STNT, CWB, CINV (R209, R221, R222, R433) -/

/-- The distinct lines of parts, ascending, with the VA of each line; `va` is the VA of the first byte. -/
def partLines (ps : List Part) (va : Nat) : List (Nat × Nat) :=
  match ps with
  | [] => []
  | p :: t =>
    (List.range ((p.dpa + p.len + 127) / 128 - p.dpa / 128)).map (fun i => (p.dpa / 128 + i, va / 128 * 128 + 128 * i))
      ++ partLines t (va + p.len)

/-- Lines stored for the executing context's instruction: all, or none and the writer is held at the first that cannot be (R433). Nothing of it is held once it is over. -/
def State.storeForCtx (s s0 : State) (len : Nat) (ls : List (Nat × Nat)) : Eff :=
  match ls with
  | [] => .next (s.dropHeld s.core.cur)
  | (l, va) :: t =>
    let i := dieOfDpa (l * 128)
    match s.storeLine (s.writer i s.core.cur) l false with
    | some s1 => State.storeForCtx (s1.unholdWrite i l s.core.cur) s0 len t
    | none => .block .storage (s0.holdWrite i l va len s.core.cur)

/-- STNT (R209): a line that the Well holds, clean or dirty, is updated there; any other is merged and stored before the instruction completes. -/
def storeNt (s : State) (o : Ops) : Eff :=
  let n := widthBytes o.q.toNat
  let a := s.addr o
  match eaFlt a n with
  | some f => scalarTrap f true s
  | none =>
    match accessParts s s.curAsid s.kLevel .write a.toNat n with
    | .error f => scalarTrap f true (s.dropHeld s.core.cur)
    | .ok (ps, s1) =>
      let through := (partLines ps a.toNat).filter (fun l => !s1.wellHolds l.1)
      (s1.plainStore false s1.me s1.nextSeq (unitOfAccess a.toNat n) ps (leBytes n (s.getS o.d).toNat)).storeForCtx s o.form.bytes through

/-- STNT (R209). -/
def execStnt (o : Ops) (s : State) : Host.Outcome State Fault Refusal := runInstr o (fun t => storeNt t o) s

/-- The dirty lines of a page written back in ascending order; the first that finds no storage is dirty in the Well and holds the writer, the lines before it stay written back (R221). -/
def writeBackLines (s : State) (len : Nat) (ls : List (Nat × Nat)) : Eff :=
  match ls with
  | [] => .next s
  | (l, va) :: t =>
    let i := dieOfDpa (l * 128)
    match s.storeLine (s.writer i s.core.cur) l true with
    | some s1 => writeBackLines (s1.unholdWrite i l s.core.cur) len t
    | none => .block .storage ((s.toWell l).holdWrite i l va len s.core.cur)

/-- CWB over the pages of a range (R221): a page that fails translation is skipped. -/
def writeBackPages (pages : Nat) (s : State) (len va n : Nat) : Eff :=
  match pages with
  | 0 => .next s
  | p + 1 =>
    if n = 0 then .next s
    else
      let l := min n (4096 - va % 4096)
      match translate s s.curAsid s.kLevel .read va with
      | .error _ => writeBackPages p s len (va + l) (n - l)
      | .ok (x, s1) =>
        match writeBackLines s1 len ((partLines [⟨x.dpa, l, x.attr⟩] va).filter (fun e => s1.isDirty e.1)) with
        | .next s2 => writeBackPages p s2 len (va + l) (n - l)
        | e => e

/-- The range of CWB and CINV: its address, its length, or PAGE_PERMISSION. -/
def cacheRange (s : State) (o : Ops) : Except Flt (Nat × Nat) :=
  let a := (s.getS o.a).toNat
  let n := (s.getS o.b).toNat + o.uimm
  if n ≠ 0 && vaLimit < a + n then .error ⟨cPagePermission, 0x03, a⟩ else .ok (a, n)

/-- The held write of a context's instruction whose frame has been ballooned since (R443). -/
def State.heldBallooned (s : State) (c : CtxId) : Option HeldWrite :=
  ((List.range 8).findSome? (fun i => s.heldOf i c)).filter (fun h => fmrBal (s.fmr (h.line * 128)))

/-- CWB (R221); a held line whose frame was ballooned raises BALLOON_ACCESS when it is served (R443). -/
def cleanRange (s : State) (o : Ops) (andThen : State → Nat → Nat → State) : Eff :=
  match s.heldBallooned s.core.cur with
  | some h => scalarTrap ⟨cBalloonAccess, 0x00, h.va⟩ true (s.dropHeld s.core.cur)
  | none =>
    match cacheRange s o with
    | .error f => scalarTrap f false (s.dropHeld s.core.cur)
    | .ok (a, n) =>
      match writeBackPages (n / 4096 + 2) s o.form.bytes a n with
      | .next t => .next ((andThen t a n).dropHeld s.core.cur)
      | e => e

/-- The instruction-cache lines that hold a byte of a range are dropped with every expansion in them (R57, R222). The cache's lines are taken to be of 128 bytes (log entry 53). -/
def State.dropCode (s : State) (a n : Nat) : State :=
  if n = 0 then s
  else
    { s with core := { s.core with icache := s.core.icache.filter (fun e =>
        !(e.va / 128 * 128 < (a + n + 127) / 128 * 128 && a / 128 * 128 < (e.va + e.bytes.length + 127) / 128 * 128)) } }

/-- The copies that L1 caches and Wells hold of the lines of a range are invalidated (R222); a page that fails translation is skipped. -/
def dropLines (pages : Nat) (s : State) (va n : Nat) : State :=
  match pages with
  | 0 => s
  | p + 1 =>
    if n = 0 then s
    else
      let l := min n (4096 - va % 4096)
      match translate s s.curAsid s.kLevel .read va with
      | .error _ => dropLines p s (va + l) (n - l)
      | .ok (x, s1) =>
        let i := dieOfDpa x.dpa
        let ls := linesOf x.dpa l
        dropLines p (s1.putDie i { s1.die i with clean := (s1.die i).clean.filter (fun k => !ls.contains k), copies := (s1.die i).copies.filter (fun e => !ls.contains e.1) }) (va + l) (n - l)

/-- CWB (R221). -/
def execCwb (o : Ops) (s : State) : Host.Outcome State Fault Refusal := runInstr o (fun t => cleanRange t o (fun u _ _ => u)) s
/-- CINV (R222): what CWB does, then no copy of the lines is left in a cache. -/
def execCinv (o : Ops) (s : State) : Host.Outcome State Fault Refusal :=
  runInstr o (fun t => cleanRange t o (fun u a n => (dropLines (n / 4096 + 2) u a n).dropCode a n)) s
/-- CINV.I (R222). -/
def execCinvI (o : Ops) (s : State) : Host.Outcome State Fault Refusal :=
  runInstr o (fun t => match cacheRange t o with
    | .error f => scalarTrap f false t
    | .ok (a, n) => .next (t.dropCode a n)) s

/-- PREF (R220): the line comes into the Well; no value changes, and an address that would fault is ignored. -/
def execPref (o : Ops) (s : State) : Host.Outcome State Fault Refusal :=
  runPlain o (fun t =>
    match (if (eaFlt (t.addr o) 1).isSome then none else (accessParts t t.curAsid t.kLevel .read (t.addr o).toNat 1).toOption) with
    | some (ps, u) => if u.waitsWay ps then u else u.useLines (linesOfParts ps)
    | none => t) s

/-- FENCE (R129, R219): it orders every earlier access before every later one, as a release and an acquire. -/
def execFence (o : Ops) (s : State) : Host.Outcome State Fault Refusal := runPlain o (fun t => t.fence t.core.cur o.q.toNat) s
/-- FENCE.acq (R129, R219): it orders earlier loads before what follows, as an acquire; and the context's stores before the invocations that it issues (R131). -/
def execFenceAcq (o : Ops) (s : State) : Host.Outcome State Fault Refusal := runPlain o (fun t => t.fenceAcq t.core.cur o.q.toNat) s
/-- FENCE.rel (R129, R219): it orders every earlier access before later stores, as a release. -/
def execFenceRel (o : Ops) (s : State) : Host.Outcome State Fault Refusal :=
  runPlain o (fun t => t.fenceRel t.core.cur o.q.toNat) s

/-! ## Vector accesses (R207, R210, R211) -/

/-- The lanes a mask leaves. -/
def maskLanes (m : PReg) : List Nat := (List.range 256).filter (fun i => m.getLsbD i)

/-- Every unmasked lane checked and translated in ascending order: the lowest failing lane, or each lane's parts (R207). -/
def laneParts (s : State) (k : Access) (addr : Nat → Nat) (lanes : List Nat) : Except (Flt × Nat) (List (Nat × List Part) × State) :=
  match lanes with
  | [] => .ok ([], s)
  | i :: t =>
    let a := addr i
    if vaLimit < a + 4 then .error (⟨cPagePermission, 0x03, a⟩, i)
    else
      if a % 4 ≠ 0 then .error (alignFlt a, i)
      else
        match accessParts s s.curAsid s.kLevel k a 4 with
        | .error f => .error (f, i)
        | .ok (ps, s1) =>
          match laneParts s1 k addr t with
          | .error e => .error e
          | .ok (l, s2) => .ok ((i, ps) :: l, s2)

/-- A vector with the listed lanes replaced. -/
def setLanes (v : VReg) (l : List (Nat × BitVec 32)) : VReg :=
  ofLanes (fun i => match l.find? (fun e => e.1 = i) with
    | some e => e.2
    | none => lane v i)

/-- The lanes loaded in ascending order, each a plain load (R210, R211). -/
def loadLaneParts (s : State) (l : List (Nat × List Part)) : List (Nat × BitVec 32) × State :=
  match l with
  | [] => ([], s)
  | e :: t =>
    let r := s.loadParts .plain 4 e.2
    let u := loadLaneParts r.2 t
    ((e.1, BitVec.ofNat 32 (leNat r.1)) :: u.1, u.2)

/-- A vector load from lane addresses under the guard. -/
def loadLanes (s : State) (o : Ops) (addr : Nat → Nat) : Eff :=
  match laneParts s .read addr (maskLanes (guardMask s.ctx o.g)) with
  | .error (f, i) => .trap (fltTrap f i false) s
  | .ok (l, s1) =>
    if s1.waitsWay (l.flatMap (·.2)) then .block .storage s1
    else let r := loadLaneParts s1 l; .next (r.2.setV o.d (setLanes (r.2.getV o.d) r.1))

/-- Lanes stored in ascending order, the higher lane later (R211). -/
def storeLaneParts (s : State) (v : VReg) (l : List (Nat × List Part)) : State :=
  l.foldl (fun t e => t.plainStore true s.me s.nextSeq 4 e.2 (leBytes 4 (lane v e.1).toNat)) s

/-- A vector store to lane addresses under the guard. -/
def storeLanes (s : State) (o : Ops) (addr : Nat → Nat) : Eff :=
  match laneParts s .write addr (maskLanes (guardMask s.ctx o.g)) with
  | .error (f, i) => .trap (fltTrap f i true) s
  | .ok (l, s1) => if s1.waitsWay (l.flatMap (·.2)) then .block .storage s1 else .next (storeLaneParts s1 (s.getV o.d) l)

/-- The address of lane i of LDV and STV: the base, plus 4i exactly (R84). -/
def State.laneAddr (s : State) (o : Ops) (i : Nat) : Nat := (s.addr o).toNat + 4 * i
/-- The address of lane i of LDG and SCT. -/
def State.gatherAddr (s : State) (o : Ops) (i : Nat) : Nat := (s.getS o.a + (lane (s.getV o.b) i).signExtend 64 + o.simm).toNat

/-- A misaligned base is reported before any other lane check, at the lowest unmasked lane (R210); with every lane masked, at the base as lane 0 (log entry 54). -/
def baseAligned (s : State) (o : Ops) (write : Bool) (body : Eff) : Eff :=
  if (s.addr o).toNat % 4 = 0 then body
  else
    let i := ((maskLanes (guardMask s.ctx o.g)).head?).getD 0
    .trap (fltTrap (alignFlt (s.laneAddr o i)) i write) s

/-- LDV (R210). -/
def execLdv (o : Ops) (s : State) : Host.Outcome State Fault Refusal :=
  runVec o (fun t => baseAligned t o false (loadLanes t o (t.laneAddr o))) s
/-- STV (R210). -/
def execStv (o : Ops) (s : State) : Host.Outcome State Fault Refusal :=
  runVec o (fun t => baseAligned t o true (storeLanes t o (t.laneAddr o))) s
/-- LDG (R210). -/
def execLdg (o : Ops) (s : State) : Host.Outcome State Fault Refusal := runVec o (fun t => loadLanes t o (t.gatherAddr o)) s
/-- SCT (R210, R211). -/
def execSct (o : Ops) (s : State) : Host.Outcome State Fault Refusal := runVec o (fun t => storeLanes t o (t.gatherAddr o)) s

/-! ## Scratchpad accesses (R115, R138, R194, R212) -/

/-- The places of the full bits of granules of the core looked at. -/
def State.fullKeys (s : State) (gs : List Nat) : List (Nat × Nat) := gs.map (fun g => fullKey s.coreId (16 * g) 1)

/-- Full bits cleared; what an earlier setting released is read through them no more. -/
def State.clearFull (s : State) (gs : List Nat) : State :=
  (s.putCore (s.core.setFull gs false)).forgetAll (s.fullKeys gs)

/-- A scratchpad load's qualifiers (R212): .WAIT blocks while a granule is empty; .CLR clears in the same step. With either, a load that finds every granule full is an acquire at .core. -/
def spLoad (s : State) (o : Ops) (gs : List Nat) (done : State → State) : Eff :=
  let full := s.core.allFull gs
  if o.m.getLsbD 0 && !full then .block .full s
  else
    let t := if (o.m.getLsbD 0 || o.m.getLsbD 1) && full then s.acquire s.core.cur 3 (s.fullKeys gs) else s
    .next (if o.m.getLsbD 1 then (done t).clearFull gs else done t)

/-- SPLD (R212). -/
def execSpld (o : Ops) (s : State) : Host.Outcome State Fault Refusal :=
  runInstr o (fun t =>
    let a := (t.addr o).toNat
    let n := widthBytes o.q.toNat
    match spFlt a n with
    | some f => scalarTrap f false t
    | none => spLoad t o (granules a n) (fun u => let r := u.spLoad u.me (unitOfAccess a n) a n; r.2.setS o.d (extendLoad o.q.toNat (leNat r.1)))) s

/-- SPST (R212). -/
def execSpst (o : Ops) (s : State) : Host.Outcome State Fault Refusal :=
  runInstr o (fun t =>
    let a := (t.addr o).toNat
    let n := widthBytes o.q.toNat
    match spFlt a n with
    | some f => scalarTrap f true t
    | none => .next (t.spWrite t.me t.nextSeq (unitOfAccess a n) a (leBytes n (t.getS o.d).toNat))) s

/-- The lowest unmasked lane whose bytes pass the scratchpad. -/
def spLaneFlt (s : State) (o : Ops) : Option (Flt × Nat) :=
  (maskLanes (guardMask s.ctx o.g)).findSome? (fun i => (spFlt (s.laneAddr o i) 4).map (fun f => (f, i)))

/-- SPLDV (R212). -/
def execSpldv (o : Ops) (s : State) : Host.Outcome State Fault Refusal :=
  runVec o (fun t => baseAligned t o false (
    match spLaneFlt t o with
    | some (f, i) => .trap (fltTrap f i false) t
    | none =>
      let ls := maskLanes (guardMask t.ctx o.g)
      spLoad t o (ls.flatMap (fun i => granules (t.laneAddr o i) 4)) (fun u =>
        let r := u.lookAll u.me none (ls.map (fun i => (spKey u.coreId (t.laneAddr o i), 4)))
        r.2.setV o.d (setLanes (t.getV o.d) ((ls.zip r.1).map (fun e => (e.1, BitVec.ofNat 32 (leNat e.2)))))))) s

/-- SPSTV (R212). -/
def execSpstv (o : Ops) (s : State) : Host.Outcome State Fault Refusal :=
  runVec o (fun t => baseAligned t o true (
    match spLaneFlt t o with
    | some (f, i) => .trap (fltTrap f i true) t
    | none => .next ((maskLanes (guardMask t.ctx o.g)).foldl
        (fun u i => u.spWrite t.me t.nextSeq 4 (t.laneAddr o i) (leBytes 4 (lane (t.getV o.d) i).toNat)) t))) s

/-! ## Atomics (R214 to R217) -/

/-- The width of an atomic in bytes. -/
def atomBytes (o : Ops) : Nat := if o.m.getLsbD 0 then 4 else 8

/-- What an atomic computes: whether it writes, the new value, and the flags it sets. -/
structure AtomOp where
  op : Nat → Nat → Nat → Nat → Option Nat × BitVec 16
  signed : Bool

/-- The write of an atomic with its success order: an acquire by its read, a release by its write, and with both every earlier access comes before every later one (R128, R214). -/
def atomWrite (s : State) (o : Ops) (ps : List Part) (bs : List Byte) : State :=
  let r := scopeReach o.q.toNat
  let t := s.writeAtomic s.me (if o.m.getLsbD 1 then some r else none) (if o.m.getLsbD 2 then r else 0) ps bs
  if o.m.getLsbD 1 && o.m.getLsbD 2 then t.orderOwn s.me 3 else t

/-- The read of an ACAS that does not write, with its failure order (R214). -/
def casFail (s : State) (o : Ops) (ps : List Part) : State :=
  s.readAtomic s.me (if o.m.getLsbD 3 then some (scopeReach o.q.toNat) else none) ps

/-- The steps of R215 on one aligned word: range, alignment, translation as a write, the read, the decision, the write and S[D]; with its release and acquire edges (R128, R214). It reads the newest write of the word (R123). -/
def atomic (s : State) (o : Ops) (x : AtomOp) : Eff :=
  let n := atomBytes o
  let a := s.addr o
  match eaFlt a n with
  | some f => scalarTrap f true s
  | none =>
    if a.toNat % n ≠ 0 then scalarTrap (alignFlt a.toNat) true s
    else
      match accessParts s s.curAsid s.kLevel .write a.toNat n with
      | .error f => scalarTrap f true s
      | .ok (ps, s1) =>
        if s1.waitsWay ps then .block .storage s1
        else
          let old := leNat (readParts s1 ps)
          let r := x.op (8 * n) old ((s.getS o.b).toNat % 2 ^ (8 * n)) ((s.getS o.c).toNat % 2 ^ (8 * n))
          let s2 := match r.1 with
            | some new => atomWrite s1 o ps (leBytes n new)
            | none => casFail s1 o ps
          let ext := if n = 8 then BitVec.ofNat 64 old else if x.signed then (BitVec.ofNat 32 old).signExtend 64 else BitVec.ofNat 64 old
          .next ((s2.setS o.d ext).addFlags r.2)

/-- A number of w bits as a signed number. -/
def asSigned (w x : Nat) : Int := (BitVec.ofNat w x).toInt

/-- An atomic that always writes. -/
def atomWrites (f : Nat → Nat → Nat → Nat) (signed : Bool) : AtomOp := ⟨fun w old b _ => (some (f w old b), 0), signed⟩

/-- AADD (R215). -/
def execAadd (o : Ops) (s : State) : Host.Outcome State Fault Refusal :=
  runInstr o (fun t => atomic t o (atomWrites (fun w a b => (a + b) % 2 ^ w) true)) s
/-- AAND (R215). -/
def execAand (o : Ops) (s : State) : Host.Outcome State Fault Refusal :=
  runInstr o (fun t => atomic t o (atomWrites (fun _ a b => a &&& b) false)) s
/-- AOR (R215). -/
def execAor (o : Ops) (s : State) : Host.Outcome State Fault Refusal :=
  runInstr o (fun t => atomic t o (atomWrites (fun _ a b => a ||| b) false)) s
/-- AXOR (R215). -/
def execAxor (o : Ops) (s : State) : Host.Outcome State Fault Refusal :=
  runInstr o (fun t => atomic t o (atomWrites (fun _ a b => a ^^^ b) false)) s
/-- AMIN (R215). -/
def execAmin (o : Ops) (s : State) : Host.Outcome State Fault Refusal :=
  runInstr o (fun t => atomic t o (atomWrites (fun w a b => if asSigned w b < asSigned w a then b else a) true)) s
/-- AMAX (R215). -/
def execAmax (o : Ops) (s : State) : Host.Outcome State Fault Refusal :=
  runInstr o (fun t => atomic t o (atomWrites (fun w a b => if asSigned w a < asSigned w b then b else a) true)) s
/-- AMINU (R215). -/
def execAminu (o : Ops) (s : State) : Host.Outcome State Fault Refusal :=
  runInstr o (fun t => atomic t o (atomWrites (fun _ a b => Nat.min a b) false)) s
/-- AMAXU (R215). -/
def execAmaxu (o : Ops) (s : State) : Host.Outcome State Fault Refusal :=
  runInstr o (fun t => atomic t o (atomWrites (fun _ a b => Nat.max a b) false)) s
/-- ASWP (R215). -/
def execAswp (o : Ops) (s : State) : Host.Outcome State Fault Refusal :=
  runInstr o (fun t => atomic t o (atomWrites (fun _ _ b => b) false)) s
/-- ACAS (R215): it writes only when the old value equals S[B]. -/
def execAcas (o : Ops) (s : State) : Host.Outcome State Fault Refusal :=
  runInstr o (fun t => atomic t o ⟨fun _ old b c => (if old = b then some c else none, 0), false⟩) s
/-- AFADD (R215, R216): FP32, with the flags of R97. -/
def execAfadd (o : Ops) (s : State) : Host.Outcome State Fault Refusal :=
  runInstr o (fun t => atomic t o ⟨fun _ old b _ =>
    let r := addVal fp32 0 (unpack fp32 old) (unpack fp32 b)
    (some r.1, r.2), false⟩) s

end Sys2Proof.Machine
end

