-- ==== Sys2Proof/Machine/GrammarInstr.lean ====
section
/-! DEFINITION. Mark, grammar, signal and Ligature instructions: opcodes 0x40 to 0x4F (R276 to R301). -/

namespace Sys2Proof.Machine

/-! ## Target and status (R278, R279) -/

/-- The target context that M selects. -/
def State.target (s : State) (o : Ops) : CtxId := if o.m = 0 then s.core.cur else uCtx (o.m.toNat - 1)

/-- The target holds a group; the K context never does (R239). -/
def State.holdsGroup (s : State) (u : CtxId) : Bool := u ≠ .k && (s.ctxAt u).group.isSome

/-- The target may be changed: it is the executing U context in a routine, or a TRAPPED U context named from the K context. -/
def State.mayChange (s : State) (u : CtxId) : Bool :=
  if s.kLevel then u ≠ .k && (s.ctxAt u).st = .trapped else u = s.core.cur && (s.ctxAt u).st = .action

/-- Status 6 or 4 of a form that changes its target. -/
def State.refuseChange (s : State) (u : CtxId) : Option Nat :=
  if !s.holdsGroup u then some 6 else if !s.mayChange u then some 4 else none

/-! ## Reading and reshaping the parse (R281 to R287) -/

/-- GPEEK's code for the n-th symbol of a target; none while it is absent. -/
def peekCode (x : Ctx) (n : Nat) : Option Nat :=
  if x.eotc then some 0x10
  else
    match peekIn x.items n with
    | .sym m => some m.toNat
    | .stop => some 0x10
    | .hw _ => some 0x12
    | .absent => none

/-- GPEEK (R281). -/
def execGpeek (o : Ops) (s : State) : Host.Outcome State Fault Refusal :=
  runInstr o (fun t =>
    let u := t.target o
    if !t.holdsGroup u then .next (t.setS o.d 0x13)
    else
      match peekCode (t.ctxAt u) o.uimm with
      | some k => .next (t.setS o.d (BitVec.ofNat 64 k))
      | none => if o.q = 0 && u = t.core.cur then .block .mark t else .next (t.setS o.d 0x11)) s

/-- How far a GSKIP of c symbols gets: the count, and whether it met an absent symbol. -/
def skipReach (l : List Item) (c : Nat) : Nat × Bool :=
  match l with
  | [] => (0, c ≠ 0)
  | .wait :: _ => (0, c ≠ 0)
  | .hw _ :: _ => (0, false)
  | .sym m :: t =>
    match c with
    | 0 => (0, false)
    | k + 1 => if m = mEOT then (0, false) else let r := skipReach t k; (r.1 + 1, r.2)

/-- n symbols skipped. -/
def Core.skipSymbols (c : Core) (u : CtxId) (n : Nat) : Core :=
  match n with
  | 0 => c
  | k + 1 => Core.skipSymbols (c.skipSymbol u) u k

/-- GSKIP (R282). -/
def execGskip (o : Ops) (s : State) : Host.Outcome State Fault Refusal :=
  runInstr o (fun t =>
    let u := t.target o
    match t.refuseChange u with
    | some k => .next (t.setS o.d (BitVec.ofNat 64 (256 * k)))
    | none =>
      let x := t.ctxAt u
      let r := if x.eotc then (0, false) else skipReach x.items (min ((t.getS o.a).toNat + o.uimm) 16)
      if r.2 && o.q = 0 && u = t.core.cur then .block .mark t
      else
        let t1 := t.putCore (t.core.skipSymbols u r.1)
        .next (t1.setS o.d (BitVec.ofNat 64 ((if r.2 then 0x300 else 0) + r.1)))) s

/-- The symbol is valid for the grammar loaded (R283). -/
def Core.validSymbol (c : Core) (x : Nat) (frame : Bool) : Bool :=
  if frame then 16 ≤ x && x ≤ 15 + c.gramNnt && ntRec (c.ntEntry x)
  else x < 5 || (8 ≤ x && x < 16) || (16 ≤ x && x ≤ 15 + c.gramNnt) || (128 ≤ x && c.actEntry x ≠ 0xFFFFFFFF)

/-- GPUSH (R283), credited as R311 gives. -/
def execGpush (o : Ops) (s : State) : Host.Outcome State Fault Refusal :=
  runPlain o (fun t =>
    let u := t.target o
    match t.refuseChange u with
    | some k => t.setS o.d (BitVec.ofNat 64 k)
    | none =>
      let x := ((t.getS o.a).toNat + o.uimm) % 1024
      let y := t.ctxAt u
      if !t.core.validSymbol x (o.q = 1) then t.setS o.d 1
      else if 64 ≤ y.stack.length then t.setS o.d 2
      else
        let e := BitVec.ofNat 16 (x + if o.q = 1 then 0x8000 else 0)
        (t.putCtxAt u { y with stack := ⟨e, y.lastProd⟩ :: y.stack }).setS o.d 0) s

/-- GPOP (R284). -/
def execGpop (o : Ops) (s : State) : Host.Outcome State Fault Refusal :=
  runPlain o (fun t =>
    let u := t.target o
    match t.refuseChange u with
    | some k => t.setS o.d (BitVec.ofNat 64 (k * 2 ^ 24))
    | none =>
      let y := t.ctxAt u
      let k := min o.uimm y.stack.length
      let last := if k = 0 then 0 else ((y.stack.getD (k - 1) ⟨0, 0⟩).entry).toNat
      (t.putCtxAt u { y with stack := y.stack.drop k }).setS o.d (BitVec.ofNat 64 (last + k * 2 ^ 16))) s

/-- GFSTAT (R286): a target with no group reads zero. -/
def execGfstat (o : Ops) (s : State) : Host.Outcome State Fault Refusal :=
  runPlain o (fun t =>
    let u := t.target o
    t.setS o.d (if t.holdsGroup u then (t.ctxAt u).frecWord o.uimm else 0)) s

/-- The target was trapped in a parse step (R287). -/
def Ctx.parseTrapped (x : Ctx) : Bool :=
  x.st = .trapped && (x.trapCause = cGrammarMismatch || (x.trapCause = cStackOverflow && x.trapDetail = 1))

/-- GRESUME and GRESUME.RECOVER (R287): armed until the core leaves the handler. -/
def resumeParse (o : Ops) (recover : Bool) (t : State) : State :=
  let u := t.target o
  let y := t.ctxAt u
  if !t.holdsGroup u then t.setS o.d 6
  else if !t.mayChange u || !y.parseTrapped then t.setS o.d 4
  else if recover && y.topFrame.isNone then t.setS o.d 5
  else (t.putCtxAt u { y with gresume := some recover, frec := y.frec &&& ~~~(1#256 <<< 19) }).setS o.d 0

/-- GRESUME (R287). -/
def execGresume (o : Ops) (s : State) : Host.Outcome State Fault Refusal := runPlain o (resumeParse o false) s
/-- GRESUME.RECOVER (R287). -/
def execGresumeRecover (o : Ops) (s : State) : Host.Outcome State Fault Refusal := runPlain o (resumeParse o true) s

/-- The STATE code of R285; an error action is part of RECOVERING (R233). -/
def Ctx.stateCode (x : Ctx) : Nat :=
  match x.st with
  | .parsing => 0
  | .action => if x.errAction then 3 else 1
  | .mismatch => 2
  | .recovering => 3
  | .trapped => 4
  | .retired => 5
  | .noGroup => 6

/-- GSTATE's word (R285). -/
def Ctx.stateWord (x : Ctx) : Word :=
  BitVec.ofNat 64 (x.pos.toNat * 2 ^ 32 + x.stateCode * 2 ^ 29 + (if x.eotc then 2 ^ 28 else 0) + x.stack.length * 2 ^ 21
    + x.queue.length * 2 ^ 14 + x.ins.length * 2 ^ 9 + (if x.queue.any (fun m => m = mPRE || m = mDRN) then 256 else 0)
    + (if x.st = .trapped then x.trapCause.toNat else 0))

/-- GSTATE (R285). -/
def execGstate (o : Ops) (s : State) : Host.Outcome State Fault Refusal :=
  runPlain o (fun t =>
    let u := t.target o
    t.setS o.d (if u = .k then BitVec.ofNat 64 (6 * 2 ^ 29) else (t.ctxAt u).stateWord)) s

/-- GSTATE.STK (R285). -/
def execGstateStk (o : Ops) (s : State) : Host.Outcome State Fault Refusal :=
  runPlain o (fun t =>
    let u := t.target o
    t.setS o.d (if u = .k then 0 else (((t.ctxAt u).stack.getD o.uimm ⟨0, 0⟩).entry).setWidth 64)) s

/-! ## Placing marks (R237, R238, R288, R289, R303) -/

/-- STACK_OVERFLOW of the insertion buffer. -/
def bufferFull (x : Ctx) : TrapInfo := trapInfo cStackOverflow 2 (BitVec.ofNat 64 x.ins.length)

/-- MARKIF (R288): the mark of the outcome stands after the next DATA (R238). -/
def execMarkif (o : Ops) (s : State) : Host.Outcome State Fault Refusal :=
  runInstr o (fun t =>
    if t.kLevel then .next t
    else
      let p := t.getP o.a
      let test := if o.q = 1 then p = BitVec.allOnes 256 else p ≠ 0
      let code : Mark := if test then o.imm.extractLsb' 0 4 else o.imm.extractLsb' 4 4
      let x := t.ctx
      if code = 0 then .next t
      else if 16 ≤ x.ins.length then .trap (bufferFull x) t
      else .next (t.putCtx { x with ins := x.ins ++ [⟨.afterData x.qbase, some code, 0⟩] })) s

/-- The marks of a list of nibbles, up to the first zero. -/
def markList (n : Nat) (w : BitVec 48) : List Mark :=
  match n with
  | 0 => []
  | k + 1 => if w.extractLsb' 0 4 = 0#4 then [] else w.extractLsb' 0 4 :: markList k (w >>> 4)

/-- Marks placed before Peek(1) of a target. Before a PRE or DRN that is the next symbol, or comes next, they stand before it, though R303 speaks of grammar-visible symbols alone (DESIGN CHOICE, log entry 60). -/
def emitMarks (o : Ops) (ms : List Mark) (t : State) : Eff :=
  let u := t.target o
  match t.refuseChange u with
  | some k => .next (t.setS o.d (BitVec.ofNat 64 k))
  | none =>
    let x := t.ctxAt u
    if ms.any (fun m => m = 0 || (4 ≤ m.toNat && m.toNat ≤ 7)) then .next (t.setS o.d 1)
    else if 16 < x.ins.length + ms.length then
      if u = t.core.cur then .trap (bufferFull x) t else .next (t.setS o.d 2)
    else .next ((t.putCtxAt u { x with ins := x.ins ++ ms.map (fun m => ⟨.before x.qbase, some m, 0⟩) }).setS o.d 0)

/-- MARKEMIT (R289, R303). -/
def execMarkemit (o : Ops) (s : State) : Host.Outcome State Fault Refusal := runInstr o (emitMarks o (markList 4 o.imm)) s
/-- MARKEMIT.R (R289). -/
def execMarkemitR (o : Ops) (s : State) : Host.Outcome State Fault Refusal :=
  runInstr o (fun t => emitMarks o [(t.getS o.a).setWidth 4] t) s

/-! ## Signals (R140, R290 to R293) -/

/-- A signal word: range, alignment and translation (R290), then its parts. -/
def signalAt (s : State) (a : Word) (write : Bool) (body : State → List Part → Eff) : Eff :=
  match eaFlt a 8 with
  | some f => scalarTrap f write s
  | none =>
    if a.toNat % 8 ≠ 0 then scalarTrap ⟨cSignalInvalid, 0, a.toNat⟩ write s
    else
      match accessParts s s.curAsid s.kLevel (if write then .write else .read) a.toNat 8 with
      | .error f => scalarTrap f write s
      | .ok (ps, t) => if t.waitsWay ps then .block .storage t else body t ps

/-- An atomic update of a signal word with release order at a scope (R141, R291, R293). -/
def updateSignal (s : State) (o : Ops) (f : Word → Word) : Eff :=
  signalAt s (s.addr o) true (fun u ps =>
    let old := BitVec.ofNat 64 (leNat (readParts u ps))
    .next ((u.writeAtomic u.me none (scopeReach o.q.toNat) ps (leBytes 8 (f old).toNat)).setS o.d old))

/-- SIGDEC (R291): an atomic decrement with release order. -/
def execSigdec (o : Ops) (s : State) : Host.Outcome State Fault Refusal :=
  runInstr o (fun t => updateSignal t o (fun old => old - t.getS o.b)) s

/-- SIGSET (R293): an atomic exchange with release order. -/
def execSigset (o : Ops) (s : State) : Host.Outcome State Fault Refusal :=
  runInstr o (fun t => updateSignal t o (fun _ => t.getS o.b)) s

/-- SIGWAIT (R292): it blocks until a read returns a value at or below the threshold, which is an acquire at its scope; a read that does not end it is none. -/
def execSigwait (o : Ops) (s : State) : Host.Outcome State Fault Refusal :=
  runInstr o (fun t => signalAt t (t.addr o) false (fun u ps =>
    let r := u.loadParts (.acq (scopeReach o.q.toNat)) 8 ps
    let v := BitVec.ofNat 64 (leNat r.1)
    if v.sle (t.getS o.b) then .next (r.2.setS o.d v) else .block .signal (u.loadParts (.acq 0) 8 ps).2)) s

/-- SIGWAIT.POLL (R292): one read, an acquire at its scope. -/
def execSigwaitPoll (o : Ops) (s : State) : Host.Outcome State Fault Refusal :=
  runInstr o (fun t => signalAt t (t.addr o) false (fun u ps =>
    let r := u.loadParts (.acq (scopeReach o.q.toNat)) 8 ps
    .next (r.2.setS o.d (BitVec.ofNat 64 (leNat r.1))))) s

/-! ## The Ligature and the cycle (R41 to R44, R136, R142, R294 to R301) -/

/-- A counter of the core. -/
def Core.evCount (c : Core) (n : Nat) : Nat := (SMap.get 0 c.ev n).toNat

/-- A counter set. -/
def Core.setEv (c : Core) (n v : Nat) : Core := { c with ev := SMap.set 0 c.ev n (BitVec.ofNat 16 v) }

/-- OVF of a counter set or cleared. -/
def Core.setOvf (c : Core) (n : Nat) (b : Bool) : Core := { c with ovf := SMap.set false c.ovf n b }

/-- An increment of the cycle (R41, R294). -/
def Core.addEv (c : Core) (n k : Nat) : Core := { c with lig := { c.lig with adds := SMap.set 0 c.lig.adds n (SMap.get 0 c.lig.adds n + k) } }

/-- A subtraction of the cycle. -/
def Core.subEv (c : Core) (n k : Nat) : Core := { c with lig := { c.lig with subs := c.lig.subs ++ [(n, k)] } }

/-- A LIGCNT write of the cycle: the form of R299 and its value. -/
def Core.writeEv (c : Core) (n : Nat) (q : BitVec 2) (v : BitVec 16) : Core := { c with lig := { c.lig with writes := c.lig.writes ++ [(n, q, v)] } }

/-- What a cycle subtracts from a counter. -/
def Ligature.taken (l : Ligature) (n : Nat) : Nat := l.subs.foldl (fun k e => if e.1 = n then k + e.2 else k) 0

/-- The subtractions and increments of a cycle applied to a counter: saturating at 0xFFFF, which sets OVF (R41, R294). -/
def Core.settleEv (c : Core) (n : Nat) : Core :=
  let v := c.evCount n - c.lig.taken n + SMap.get 0 c.lig.adds n
  if 0xFFFF < v then (c.setEv n 0xFFFF).setOvf n true else c.setEv n v

/-- A LIGCNT write applied (R299). -/
def Core.applyEv (c : Core) (w : Nat × BitVec 2 × BitVec 16) : Core :=
  match w.2.1 with
  | 1 => (c.setEv w.1 w.2.2.toNat).setOvf w.1 false
  | 2 => c.setEv w.1 (c.evCount w.1 - w.2.2.toNat)
  | 3 => c.setOvf w.1 false
  | _ => c

/-- The end of a cycle of the Ligature (R294): the subtractions, then every increment, then the LIGCNT writes; what LIGCFG configured is in force from the next cycle on. -/
def Core.endLigature (c : Core) : Core :=
  if c.lig = Ligature.idle then c
  else
    let d := c.lig.writes.foldl Core.applyEv ((List.range 16).foldl Core.settleEv c)
    { d with
      terms := d.lig.terms.foldl (fun m e => SMap.set Term.reset m e.1 e.2) d.terms
      routes := d.lig.routes.foldl (fun m e => SMap.set 0 m e.1 e.2) d.routes
      lig := Ligature.idle }

/-- A condition of a term (R296): in force, its counter, its threshold. -/
def condOn (w : BitVec 32) : Bool := w.getLsbD 31
def condCtr (w : BitVec 32) : Nat := w.toNat / 2 ^ 16 % 16
def condThr (w : BitVec 32) : Nat := w.toNat % 2 ^ 16

/-- The conditions of a term that are in force. -/
def Term.conds (t : Term) : List (BitVec 32) := [t.c0, t.c1, t.c2, t.c3].filter condOn

/-! ### Firing, and the cycle -/

/-- An invocation by its number. -/
def Core.inv (c : Core) (id : Nat) : Option Inv := c.invs.find? (fun v => v.id = id)

/-- An invocation replaced. -/
def Core.putInv (c : Core) (v : Inv) : Core := { c with invs := c.invs.map (fun w => if w.id = v.id then v else w) }

/-- The invocation replaced in the state. -/
def State.putInv (s : State) (v : Inv) : State := s.putCore (s.core.putInv v)

/-- The unit of an opcode: 0 MX, 1 VX, 2 MG, 3 a copy or CIRC (R46, R311). -/
def unitOf (op : Nat) : Nat :=
  if 0x90 ≤ op && op ≤ 0x9B then 0 else if 0xA0 ≤ op && op ≤ 0xD3 then 1 else if 0xE0 ≤ op && op ≤ 0xE7 then 2 else 3

/-- The oldest invocation held at an engine; it is held for a Ligature start from the cycle after its issue (R294). -/
def Core.heldAt (c : Core) (u : Nat) : Option Inv := c.invs.find? (fun v => unitOf v.op = u && v.held && v.st = .queued && v.cycle ≠ c.cycle)

/-- A term is satisfied by the counts at the start of the cycle. -/
def Core.satisfied (c : Core) (t : Term) : Bool :=
  t.configured && !t.conds.isEmpty && t.conds.all (fun w => condThr w ≤ c.evCount (condCtr w))

/-- The terms that fire in this cycle, ascending, each with the invocation it starts (R43, R294, R295): a satisfied term whose engine holds an invocation and has not been started in the cycle, none of whose counters has been subtracted from in the cycle. `subs` and `engines` are those used so far. -/
def Core.firingFrom (c : Core) (fuel n : Nat) (subs engines : List Nat) : List (Nat × Term × Inv) :=
  match fuel with
  | 0 => []
  | f + 1 =>
    let t := SMap.get Term.reset c.terms n
    let free := c.satisfied t && !engines.contains t.eng.toNat && !t.conds.any (fun w => subs.contains (condCtr w))
    match (if free then c.heldAt t.eng.toNat else none) with
    | some v => (n, t, v) :: Core.firingFrom c f (n + 1) (t.conds.map condCtr ++ subs) (t.eng.toNat :: engines)
    | none => Core.firingFrom c f (n + 1) subs engines

/-- The terms that fire now. -/
def Core.firing (c : Core) : List (Nat × Term × Inv) := c.firingFrom 32 0 (c.lig.subs.map (·.1)) c.lig.fired

/-- A term fires: its invocation is held no longer, and its thresholds are subtracted at the end of the cycle (R294). -/
def Core.fire (c : Core) (t : Term) (v : Inv) : Core :=
  let d := t.conds.foldl (fun (d : Core) w => d.subEv (condCtr w) (condThr w)) (c.putInv { v with held := false })
  { d with lig := { d.lig with fired := d.lig.fired ++ [t.eng.toNat] } }

/-- LIGATURE_TERM_FIRE (R42, R43): every term that fires in the cycle. Its invocation observes what the increments it counts released (R300). -/
def State.fireTerm (s : State) : State :=
  let l := s.core.firing
  (l.foldl (fun (t : State) e => (t.acquireBy (t.partyInv e.2.2) 2 (e.2.1.conds.map (fun w => evKey t.coreId (condCtr w)))).beginAfter (t.partyInv e.2.2) (t.partyInv e.2.2)) s).putCore (l.foldl (fun c e => c.fire e.2.1 e.2.2) s.core)

/-- A cycle satisfies the EVWAIT without .SUB in which a context is blocked: it ends (R294, R295). -/
def Ctx.meetEv (c : Core) (x : Ctx) : Ctx :=
  match x.evWait with
  | some (n, k, _) => if x.waiting = some .ligature && decide (k ≤ c.evCount n) then { x with evWait := some (n, k, true) } else x
  | none => x

/-- Every satisfied EVWAIT without .SUB of the core ends. -/
def Core.meetEvs (c : Core) : Core :=
  { c with u0 := c.u0.meetEv c, u1 := c.u1.meetEv c, u2 := c.u2.meetEv c, u3 := c.u3.meetEv c, k := c.k.meetEv c }

/-- One cycle passes: the core's Ligature has evaluated every term and every wait and ends its cycle (R294), and time runs on. -/
def State.tick (s : State) : State :=
  let t := if s.core.halted then s else s.fireTerm
  let c := (t.core.meetEvs.endLigature).countNodes s.gated t.free
  { t with
    core := { c with
      cycle := c.cycle + 1
      rank := 0
      k := { c.k with wfiLeft := c.k.wfiLeft.map (fun n => n - 1) } }
    hub := { t.hub with cycle := t.hub.cycle + 1 }
    dies := t.dies.map (fun e => (e.1, { e.2 with held := e.2.held.map (fun h => { h with left := h.left - 1 }) }))
    free := if c.live.isEmpty then t.free else t.free + 19 }

/-- The places of the order in which a cycle's accesses take effect (R136, R142): 0 to 3 the U contexts and 4 the K context, 5 MX, 6 VX, 7 MG, 8 to 15 the copies at P0 to P7, 16 the arrivals of circuits. -/
abbrev arrivalRank : Nat := 16

/-- Something of a rank happens: in the cycle in progress, or in the next when a later rank has been reached. -/
def State.atRank (s : State) (r : Nat) : State :=
  let t := if r < s.core.rank then s.tick else s
  { t with core := { t.core with rank := r } }

/-- What sends a pulse: an engine (0 MX, 1 VX, 2 MG), a copy end at a destination port, a phase flip of a barrier (R41, R297). -/
inductive Pulse where
  | engine (n : Nat)
  | copyEnd (port : Nat)
  | flip (bar : Nat)
  deriving DecidableEq, Repr

/-- A counter's routing takes a pulse. -/
def routeTakes (w : Word) (p : Pulse) : Bool :=
  match p with
  | .engine n => w.getLsbD n
  | .copyEnd q => w.getLsbD (3 + q)
  | .flip b => bit w 63 && bits w 53 32 = b

/-- A pulse counted by every counter whose routing takes it. -/
def Core.pulse (c : Core) (p : Pulse) : Core :=
  (List.range 16).foldl (fun d n => if routeTakes (SMap.get 0 c.routes n) p then d.addEv n 1 else d) c

/-- The places of the counters of the core that have been incremented since another state of it. -/
def State.evKeys (s : State) (c : Core) : List (Nat × Nat) :=
  ((List.range 16).filter (fun n => SMap.get 0 c.lig.adds n ≠ SMap.get 0 s.core.lig.adds n)).map (evKey s.coreId)

/-- Two of the numbers are equal. -/
def hasRepeat (l : List Nat) : Bool :=
  match l with
  | [] => false
  | x :: t => t.contains x || hasRepeat t

/-- LIGCFG.TERM (R296): reserved bits of a condition are ignored. It takes effect from the next cycle on (R294). -/
def execLigcfgTerm (o : Ops) (s : State) : Host.Outcome State Fault Refusal :=
  runPlain o (fun t =>
    let m : BitVec 32 := 0x800FFFFF
    let a := t.getS o.a
    let b := t.getS o.b
    let x : Term := ⟨a.setWidth 32 &&& m, a.extractLsb' 32 32 &&& m, b.setWidth 32 &&& m, b.extractLsb' 32 32 &&& m, BitVec.ofNat 5 (o.uimm / 32), true⟩
    if hasRepeat (x.conds.map condCtr) then t.setS o.d 1
    else (t.putCore { t.core with lig := { t.core.lig with terms := t.core.lig.terms ++ [(o.uimm % 32, x)] } }).setS o.d 0) s

/-- LIGCFG.SRC (R297). -/
def execLigcfgSrc (o : Ops) (s : State) : Host.Outcome State Fault Refusal :=
  runInstr o (fun t =>
    let w := t.getS o.a &&& 0x803FFFFF000007FF
    let off := bits w 53 32
    if bit w 63 && off % 8 ≠ 0 then .trap (trapAddr cAlign (BitVec.ofNat 64 off)) t
    else if bit w 63 && spmSize ≤ off then .trap (trapInfo cScratchRange 0 (BitVec.ofNat 64 off)) t
    else .next ((t.putCore { t.core with lig := { t.core.lig with routes := t.core.lig.routes ++ [(o.uimm % 16, w)] } }).setS o.d 0)) s

/-- LIGCFG.TREAD (R298): bits [28:24] and 30 of the lower condition show the engine and whether the term has been configured. -/
def execLigcfgTread (o : Ops) (s : State) : Host.Outcome State Fault Refusal :=
  runPlain o (fun t =>
    let x := SMap.get Term.reset t.core.terms (o.uimm % 32)
    let (lo, hi) := if o.imm.getLsbD 5 then (x.c2, x.c3) else (x.c0, x.c1)
    t.setS o.d (BitVec.ofNat 64 (hi.toNat * 2 ^ 32 + lo.toNat + x.eng.toNat * 2 ^ 24 + if x.configured then 2 ^ 30 else 0))) s

/-- What every form of LIGCNT writes first (R299). -/
def ligcntWord (c : Core) (n : Nat) : Word := BitVec.ofNat 64 (c.evCount n + if SMap.get false c.ovf n then 65536 else 0)

/-- LIGCNT.RD (R299). -/
def execLigcntRd (o : Ops) (s : State) : Host.Outcome State Fault Refusal :=
  runPlain o (fun t => t.setS o.d (ligcntWord t.core o.a.toNat)) s
/-- What LIGCNT writes at the end of the cycle, S[B] read after S[D] was written (R84, R299). -/
def ligcntWrite (q : BitVec 2) (o : Ops) (t : State) : State :=
  let u := t.setS o.d (ligcntWord t.core o.a.toNat)
  u.putCore (u.core.writeEv o.a.toNat q ((u.getS o.b).setWidth 16))

/-- LIGCNT.SET (R299): the cycle's increments are lost. -/
def execLigcntSet (o : Ops) (s : State) : Host.Outcome State Fault Refusal := runPlain o (ligcntWrite 1 o) s
/-- LIGCNT.SUB (R299): not below 0. -/
def execLigcntSub (o : Ops) (s : State) : Host.Outcome State Fault Refusal := runPlain o (ligcntWrite 2 o) s
/-- LIGCNT.CLRV (R299). -/
def execLigcntClrv (o : Ops) (s : State) : Host.Outcome State Fault Refusal := runPlain o (ligcntWrite 3 o) s

/-- The count of LIGFIRE and the threshold of EVWAIT (R300, R301). -/
def ligAmount (s : State) (o : Ops) : Nat := min ((s.getS o.b).toNat + o.uimm) 0xFFFF

/-- LIGFIRE (R300): a release at .core. -/
def execLigfire (o : Ops) (s : State) : Host.Outcome State Fault Refusal :=
  runPlain o (fun t =>
    let u := t.putCore (t.core.addEv o.d.toNat (ligAmount t o))
    if ligAmount t o = 0 then u else u.release t.core.cur 3 [evKey t.coreId o.d.toNat]) s

/-- An EVWAIT.SUB may subtract from a counter in this cycle: nothing has subtracted from it, and no term that can fire tests it (R295). -/
def Core.mayTake (c : Core) (n : Nat) : Bool :=
  !c.lig.subs.any (fun e => e.1 = n) && !c.firing.any (fun e => e.2.1.conds.any (fun w => condCtr w = n))

/-- EVWAIT (R301): it blocks until the counter reaches the threshold, or a cycle of its wait has satisfied it (R294); with .SUB it subtracts, behind every term that fires (R295). An EVWAIT that ends is an acquire at .core. -/
def execEvwait (o : Ops) (s : State) : Host.Outcome State Fault Refusal :=
  runInstr o (fun t =>
    let n := o.a.toNat
    let k := ligAmount t o
    if t.ctx.evWait = some (n, k, true) || (k ≤ t.core.evCount n && (o.q = 0 || k = 0 || t.core.mayTake n)) then
      .next ((if o.q = 1 && k ≠ 0 then t.putCore (t.core.subEv n k) else t).acquire t.core.cur 3 [evKey t.coreId n])
    else .block .ligature (t.putCtx { t.ctx with evWait := if o.q = 0 then some (n, k, false) else none })) s

end Sys2Proof.Machine
end

