-- ==== Sys2Proof/Machine/Ports.lean ====
section
/-! DEFINITION. Stream ports: tensor descriptors, traversal, translation windows, transforms, and the instructions that bind and configure ports: opcodes 0x70 to 0x79 and 0x8C (R144 to R184, R399, R419). -/

namespace Sys2Proof.Machine

/-! ## Tensor descriptors (R144, R145, R177) -/

/-- A field of a descriptor. -/
def dField (t : Desc) (lo w : Nat) : Nat := t.toNat / 2 ^ lo % 2 ^ w

def dBase (t : Desc) : Nat := dField t 0 48
def dGen (t : Desc) : BitVec 16 := t.extractLsb' 48 16
def dRank (t : Desc) : Nat := dField t 64 3
def dV (t : Desc) : Bool := t.getLsbD 67
def dSp (t : Desc) : Bool := t.getLsbD 68
def dFmt (t : Desc) : Nat := dField t 80 4
def dScf (t : Desc) : Nat := dField t 84 1
def dBsh (t : Desc) : Nat := dField t 85 3
/-- The mark code for the end of dimension d. -/
def dMark (t : Desc) (d : Nat) : Mark := BitVec.ofNat 4 (dField t (88 + 4 * d) 4)
/-- Tile rows and tile columns. -/
def dRows (t : Desc) : Nat := dField t 112 8 + 1
def dCols (t : Desc) : Nat := dField t 120 8 + 1
def dSize (t : Desc) (d : Nat) : Nat := dField t (128 + 24 * d) 24
def dStride (t : Desc) (d : Nat) : Int := (BitVec.ofNat 32 (dField t (272 + 32 * d) 32)).toInt
def dSbase (t : Desc) : Nat := dField t 464 48

/-- The bits of an element, or of a mantissa, of a format code (R66). -/
def fmtBits (f : Nat) : Nat :=
  match f with
  | 0 | 5 => 32
  | 1 | 2 => 16
  | 3 | 4 | 6 | 8 => 8
  | 7 => 4
  | 9 => 7
  | 10 => 6
  | 11 => 5
  | 12 => 4
  | 13 => 3
  | _ => 2

/-- A BFP format. -/
def fmtBfp (f : Nat) : Bool := 8 ≤ f && f ≤ 14

/-- The floating format of codes 0 to 4. -/
def fmtFloat (f : Nat) : Option FloatFmt :=
  match f with
  | 0 => some fp32
  | 1 => some bf16
  | 2 => some fp16
  | 3 => some e4m3
  | 4 => some e5m2
  | _ => none

/-- The blocks along dimension 0. -/
def dBlocks (t : Desc) : Nat := (dSize t 0 + 31) / 32

/-- The bytes that dimension 0 covers from the lowest address of a line on (R147). -/
def dLine (t : Desc) : Nat :=
  if fmtBfp (dFmt t) then dBlocks t * (4 * fmtBits (dFmt t))
  else if dFmt t = 7 then (dSize t 0 + 1) / 2
  else fmtBits (dFmt t) / 8

/-- Dimensions that contribute a stride of their own to the address range. -/
def dSpan (t : Desc) (d : Nat) : Int :=
  if d = 0 && (fmtBfp (dFmt t) || dFmt t = 7) then 0 else ((dSize t d : Int) - 1) * dStride t d

/-- The lowest and highest byte of the elements and of the scale array lie within the space (R145). -/
def dInRange (t : Desc) : Bool :=
  let ds := List.range (dRank t)
  let lo : Int := ds.foldl (fun a d => a + min 0 (dSpan t d)) (dBase t)
  let hi : Int := ds.foldl (fun a d => a + max 0 (dSpan t d)) (dBase t) + dLine t
  let lim : Int := if dSp t then (spmSize : Nat) else (vaLimit : Nat)
  let scales : Nat := dBlocks t * ((List.range 5).foldl (fun a d => a * dSize t (d + 1)) 1)
  decide (0 ≤ lo) && decide (hi ≤ lim) && (!fmtBfp (dFmt t) || decide ((dSbase t + scales : Int) ≤ lim))

/-- TIDCHK's reason (R177): the first condition of R145 that fails, 0 for a valid descriptor. -/
def tidReason (t : Desc) : Nat :=
  let f := dFmt t
  let w := fmtBits f
  let packed := fmtBfp f || f = 7
  if !dV t || dRank t = 0 || dRank t = 7 || f = 15 then 0x01
  else if (List.range 6).any (fun d => if d < dRank t then dSize t d = 0 else dSize t d ≠ 1) then 0x02
  else if (List.range 6).any (fun d => 4 ≤ (dMark t d).toNat && (dMark t d).toNat ≤ 7) then 0x03
  else if (if fmtBfp f then dBsh t ≠ 5 || dScf t ≠ 1 else dBsh t ≠ 0 || dScf t ≠ 0) then 0x04
  else if packed && dStride t 0 ≠ 0 then 0x05
  else if !packed && dStride t 0 ≠ 0 && (dStride t 0).natAbs ≠ w / 8 then 0x06
  else if (if fmtBfp f then dCols t % 32 ≠ 0 else dCols t * w % 128 ≠ 0) then 0x07
  else if 16384 < dCols t * dRows t * w / 8 then 0x08
  else if !dInRange t then 0x09
  else if dField t 69 11 ≠ 0 then 0x0A
  else 0x00

/-- The element at a coordinate: its byte address and bit offset (R147). -/
def elemAddr (t : Desc) (c : List Nat) : Nat × Nat :=
  let a : Int := ([1, 2, 3, 4, 5] : List Nat).foldl (fun a d => a + (c.getD d 0 : Int) * dStride t d) (dBase t)
  let c0 := c.getD 0 0
  if fmtBfp (dFmt t) then
    let w := fmtBits (dFmt t)
    ((a + (c0 / 32 * (4 * w) : Nat)).toNat, c0 % 32 * w)
  else if dFmt t = 7 then ((a + (c0 / 2 : Nat)).toNat, 4 * (c0 % 2))
  else ((a + c0 * dStride t 0).toNat, 0)

/-- The scale byte of the block that holds a coordinate (R148). -/
def scaleAddr (t : Desc) (c : List Nat) : Nat :=
  let line := ([5, 4, 3, 2, 1] : List Nat).foldl (fun a d => c.getD d 0 + dSize t d * a) 0
  dSbase t + c.getD 0 0 / 32 + dBlocks t * line

/-! ## Traversal (R150 to R152, R164, R180) -/

/-- The source dimension of a traversal dimension; PERMUTE names it. -/
def Port.source (p : Port) (xf : Bool) (i : Nat) : Nat :=
  match p.xPermute with
  | some w => if xf && i < dRank p.desc then w.toNat / 2 ^ (3 * i) % 8 else i
  | none => i

/-- The origin and extent of a source dimension in the range in force. -/
def Port.org (p : Port) (d : Nat) : Nat := SMap.get 0 p.seekOrg d
/-- The extent of a source dimension in the range in force (0 in the map: the whole dimension). -/
def Port.len (p : Port) (d : Nat) : Nat := let l := SMap.get 0 p.seekLen d; if l = 0 then dSize p.desc d else l

/-- The dimension BROADCAST repeats and its extent. -/
def Port.bcast (p : Port) (xf : Bool) : Option (Nat × Nat) :=
  if xf then p.xBroadcast.map (fun w => (w.toNat % 8, w.toNat / 256)) else none

/-- The extent along traversal dimension i. -/
def Port.ext (p : Port) (xf : Bool) (i : Nat) : Nat :=
  let d := p.source xf i
  match p.bcast xf with
  | some (b, e) => if b = d then e else p.len d
  | none => p.len d

/-- The tiles along traversal dimension i. -/
def Port.tilesAlong (p : Port) (xf : Bool) (i : Nat) : Nat :=
  let e := p.ext xf i
  if i = 0 then (e + dCols p.desc - 1) / dCols p.desc else if i = 1 then (e + dRows p.desc - 1) / dRows p.desc else e

/-- The beats of a traversal. -/
def Port.tiles (p : Port) (xf : Bool) : Nat := (List.range 6).foldl (fun n i => n * p.tilesAlong xf i) 1

/-- The tile coordinate along traversal dimension i of the tile numbered idx. -/
def Port.tileAt (p : Port) (xf : Bool) (idx i : Nat) : Nat :=
  idx / (List.range i).foldl (fun n k => n * p.tilesAlong xf k) 1 % p.tilesAlong xf i

/-- The traversal coordinate of element (row, column) of a tile, and whether it lies in the traversal. -/
def Port.coord (p : Port) (xf : Bool) (idx row col : Nat) : List Nat × Bool :=
  let c0 := p.tileAt xf idx 0 * dCols p.desc + col
  let c1 := p.tileAt xf idx 1 * dRows p.desc + row
  (c0 :: c1 :: ([2, 3, 4, 5] : List Nat).map (fun i => p.tileAt xf idx i), c0 < p.ext xf 0 && c1 < p.ext xf 1)

/-- The tensor coordinate of a traversal coordinate. -/
def Port.tensorCoord (p : Port) (xf : Bool) (c : List Nat) : List Nat :=
  (List.range 6).map (fun d =>
    let i := ((List.range 6).find? (fun i => p.source xf i = d)).getD d
    let x := match p.bcast xf with
      | some (b, _) => if b = d then 0 else c.getD i 0
      | none => c.getD i 0
    p.org d + x)

/-- The marks after the tile numbered idx: those of every dimension that ends there, ascending (R152). -/
def Port.marksAfter (p : Port) (xf : Bool) (idx : Nat) : List Mark :=
  (List.range (dRank p.desc)).filterMap (fun d =>
    let m := dMark p.desc (p.source xf d)
    if m ≠ 0 && (List.range (d + 1)).all (fun k => p.tileAt xf idx k + 1 = p.tilesAlong xf k) then some m else none)

/-- The engine-side format (R182). -/
def Port.engineFmt (p : Port) (xf : Bool) : Nat :=
  if !xf then dFmt p.desc
  else
    match p.xConvert, p.xQrow with
    | some w, _ => w.toNat % 16
    | none, some w => w.toNat % 16
    | none, none => dFmt p.desc

/-- The bytes of an engine-side tile. -/
def Port.tileBytes (p : Port) (xf : Bool) : Nat := dCols p.desc * dRows p.desc * fmtBits (p.engineFmt xf) / 8

/-- The scale bytes of an engine-side tile. -/
def Port.tileScales (p : Port) (xf : Bool) : Nat := if fmtBfp (p.engineFmt xf) then dCols p.desc / 32 * dRows p.desc else 0

/-- The bytes of a beat, scale bytes included (R185). -/
def Port.beatBytes (p : Port) (xf : Bool) : Nat := p.tileBytes xf + p.tileScales xf

/-- A transform stage is set. -/
def Port.hasXform (p : Port) : Bool :=
  p.xTranspose || p.xPermute.isSome || p.xBroadcast.isSome || p.xConvert.isSome || p.xQrow.isSome

/-! ## Elements (R85, R89, R90, R92, R399) -/

/-- Elements of w bits each from bytes, the first in the lowest bits. -/
def elemsOf (w n : Nat) (bs : List Byte) : List Nat :=
  if w % 8 = 0 then wordsOf (w / 8) n bs
  else let x := leNat bs; (List.range n).map (fun i => x / 2 ^ (w * i) % 2 ^ w)

/-- Bytes of elements of w bits each. -/
def bytesOf (w : Nat) (es : List Nat) : List Byte :=
  if w % 8 = 0 then es.flatMap (fun e => leBytes (w / 8) e)
  else leBytes (es.length * w / 8) (es.foldr (fun e a => e + 2 ^ w * a) 0)

/-- The value of an element code of a format, with its block's scale. -/
def codeVal (f code : Nat) (scale : Byte) : FVal :=
  match fmtFloat f with
  | some g => unpack g code
  | none =>
    if fmtBfp f then bfpVal (fmtBits f) scale code
    else ofInteger (BitVec.ofNat (fmtBits f) code).toInt

/-- A code converted from one of the formats 0 to 7 to another (R98 to R100). -/
def convertCode (src dst mode : Nat) (ieee : Bool) (code : Nat) : Nat × BitVec 16 :=
  match fmtFloat dst with
  | some g => convertTo g mode ieee (codeVal src code 0)
  | none =>
    let w := fmtBits dst
    match fmtFloat src with
    | some _ => let r := toInteger w mode (codeVal src code 0); ((BitVec.ofInt w r.1).toNat, r.2)
    | none => let r := saturate (BitVec.ofNat (fmtBits src) code).toInt w; ((BitVec.ofInt w r.1).toNat, r.2)

/-- A tile of rows by columns with dimensions 0 and 1 swapped. -/
def transposeTile (n : Nat) (es : List Nat) : List Nat :=
  let a := es.toArray
  (List.range (n * n)).map (fun k => a.getD (k % n * n + k / n) 0)

/-! ## Translation windows (R156 to R158) -/

/-- Fields of a window entry. -/
def winVlim (w : BitVec 128) : Nat := w.toNat / 2 ^ 92 % 2 ^ 36
def winVbase (w : BitVec 128) : Nat := w.toNat / 2 ^ 56 % 2 ^ 36
def winDbase (w : BitVec 128) : Nat := w.toNat / 2 ^ 28 % 2 ^ 28
def winV (w : BitVec 128) : Bool := w.getLsbD 0
def winChk (w : BitVec 128) : Bool := w.getLsbD 1

/-- The attributes of an entry, laid out as bits [11:0] of a PTE. -/
def winAttr (w : BitVec 128) : Word :=
  let b := fun (n m : Nat) => if w.getLsbD n then 2 ^ m else 0
  BitVec.ofNat 64 (b 7 9 + b 6 8 + b 5 7 + b 4 4 + b 3 3)

/-- The pages of a window from index i on pass the walker's check (R157). -/
def winPagesOk (fuel : Nat) (s : State) (asid : BitVec 9) (w : BitVec 128) (i : Nat) : Bool :=
  match fuel with
  | 0 => true
  | f + 1 =>
    let va := (winVbase w + i) * 4096
    let x := walk s asid va
    let dpa := pteDpa x.pte / x.size * x.size + va % x.size
    let mask : Word := 0x398
    x.fail.isNone && dpa = (winDbase w + i) * 4096 && (x.pte &&& mask) = (winAttr w &&& mask) && winPagesOk f s asid w (i + 1)

/-- A port of the core. -/
def State.port (s : State) (p : Nat) : Port := SMap.get Port.reset s.core.ports p
/-- The state with a port changed. -/
def State.putPort (s : State) (p : Nat) (x : Port) : State := { s with core := { s.core with ports := SMap.set Port.reset s.core.ports p x } }

/-- Who accesses memory through a port: the context of the access, its address space and level, and the party whose load or store it is. -/
structure Reader where
  ctx : CtxId
  asid : BitVec 9
  kLevel : Bool
  party : Nat
  deriving DecidableEq, Repr

/-- The first window that covers an address and holds after its check; a check sets CHK or clears V. -/
def winFind (fuel : Nat) (s : State) (p e : Nat) (asid : BitVec 9) (va : Nat) : Option (BitVec 128) × State :=
  match fuel with
  | 0 => (none, s)
  | f + 1 =>
    let x := s.port p
    let w := SMap.get 0 x.wins e
    if winV w && winVbase w ≤ va / 4096 && va / 4096 ≤ winVlim w then
      if winChk w then (some w, s)
      else if winPagesOk (winVlim w + 1 - winVbase w) s asid w 0 then
        let w1 := w ||| 2
        (some w1, s.putPort p { x with wins := SMap.set 0 x.wins e w1 })
      else winFind f (s.putPort p { x with wins := SMap.set 0 x.wins e (w &&& ~~~1#128) }) p (e + 1) asid va
    else winFind f s p (e + 1) asid va

/-- Translate of R158 through a port: its windows, lowest first, then the TLBs and the walk. What the check of a window left stays when the access faults (R157). -/
def portTranslate (s : State) (p : Nat) (r : Reader) (k : Access) (va : Nat) : Except (Flt × State) (Xlat × State) :=
  match winFind 4 s p 0 r.asid va with
  | (some w, s1) =>
    match checkPerm r.kLevel k va ⟨(winDbase w * 4096 + va) - winVbase w * 4096, winAttr w⟩ with
    | .error f => .error (f, s1)
    | .ok x => .ok (x, s1)
  | (none, s1) =>
    match translate s1 r.asid r.kLevel k va with
    | .error f => .error (f, s1)
    | .ok y => .ok y

/-- The parts of n bytes that a port accesses at a VA, cut at page boundaries, ascending. A write's frames are checked at its commit (R437). -/
def portParts (fuel : Nat) (s : State) (p : Nat) (r : Reader) (k : Access) (va n : Nat) : Except (Flt × State) (List Part × State) :=
  match fuel with
  | 0 => .ok ([], s)
  | f + 1 =>
    if n = 0 then .ok ([], s)
    else
      let l := min n (4096 - va % 4096)
      match portTranslate s p r k va with
      | .error e => .error e
      | .ok (x, s1) =>
        match if k = .write then none else frameFaults s1 true x.dpa va l with
        | some e => .error (e, s1)
        | none =>
          match portParts f s1 p r k (va + l) (n - l) with
          | .error e => .error e
          | .ok (ps, s2) => .ok (⟨x.dpa, l, x.attr⟩ :: ps, s2)

/-! ## Reading a tile (R149 to R151, R399) -/

/-- No fault: the access waits for a way of the Well and is made again (R435). -/
def wayWait : Flt := ⟨0, 0, 0⟩

/-- Bytes read at an address of a tensor's space, as a plain load of the reader sees them: no party's atomic access, so each byte by itself (R123). -/
def tensorBytes (s : State) (p : Nat) (r : Reader) (sp : Bool) (va n : Nat) : Except (Flt × State) (List Byte × State) :=
  if sp then .ok (s.spLoad r.party 1 va n)
  else
    match portParts (n / 4096 + 2) s p r .read va n with
    | .error f => .error f
    | .ok (ps, s1) =>
      if s1.waitsWay ps then .error (wayWait, s1)
      else let u := readView s1 r.party none 1 ps; .ok (u.1, u.2.useLines (linesOfParts ps))

/-- The bytes at each address of a list, in order; a repeated address is read once. -/
def readSpans (s : State) (p : Nat) (r : Reader) (sp : Bool) (n : Nat) (as' : List Nat) (last : Option (Nat × List Byte)) :
    Except (Flt × State) (List (List Byte) × State) :=
  match as' with
  | [] => .ok ([], s)
  | a :: t =>
    match last.filter (fun l => l.1 = a) with
    | some l => (readSpans s p r sp n t (some l)).map (fun x => (l.2 :: x.1, x.2))
    | none =>
      match tensorBytes s p r sp a n with
      | .error f => .error f
      | .ok (cs, s1) => (readSpans s1 p r sp n t (some (a, cs))).map (fun x => (cs :: x.1, x.2))

/-- The elements of a row stand one after another in memory. -/
def Port.contiguous (p : Port) (xf : Bool) : Bool :=
  p.source xf 0 = 0 && (match p.bcast xf with | some (b, _) => b ≠ 0 | none => true)
    && (fmtBfp (dFmt p.desc) || dFmt p.desc = 7 || dStride p.desc 0 = ((fmtBits (dFmt p.desc) / 8 : Nat) : Int))

/-- The tensor coordinates of a row's elements that lie in the traversal. -/
def Port.rowCoords (p : Port) (xf : Bool) (idx row : Nat) : List (List Nat) :=
  (List.range (dCols p.desc)).filterMap (fun j =>
    let c := p.coord xf idx row j
    if c.2 then some (p.tensorCoord xf c.1) else none)

/-- The row rule of R149, on the lowest address of the row's elements that lie in the traversal: those beyond it the port does not generate (DESIGN CHOICE, log entry 55). -/
def Port.rowBreach (p : Port) (cs : List (List Nat)) : Option Nat :=
  let lo := cs.foldl (fun m c => min m (elemAddr p.desc c).1) (2 ^ 50)
  if cs.isEmpty then none else if lo % (if fmtBfp (dFmt p.desc) then 4 else 16) = 0 then none else some lo

/-- The scale bytes that go with each 32 elements of a row: the byte read, or a free value where the elements lie in different blocks (log entry 55). -/
def groupScales (free : Nat) (as' : List Nat) (ss : List (List Byte)) : List Byte :=
  (List.range ss.length).map (fun b =>
    let g := (as'.drop (32 * b)).take 32
    if g.all (fun a => a = g.headD 0) then (ss.getD b []).headD 0 else Config.freeByte (free + b))

/-- The codes of a row's covered elements, and the scale bytes of its blocks. -/
def readRow (s : State) (pn : Nat) (p : Port) (r : Reader) (xf : Bool) (cs : List (List Nat)) : Except (Flt × State) (List Nat × List Byte × State) :=
  let t := p.desc
  let w := fmtBits (dFmt t)
  match p.rowBreach cs with
  | some a => .error (⟨cAlign, 0, a⟩, s)
  | none =>
    if fmtBfp (dFmt t) && p.contiguous xf then
      let blocks := (List.range ((cs.length + 31) / 32)).map (fun b => cs.getD (32 * b) [])
      match readSpans s pn r (dSp t) (4 * w) (blocks.map (fun c => (elemAddr t c).1)) none with
      | .error f => .error f
      | .ok (bs, s1) =>
        match readSpans s1 pn r (dSp t) 1 (blocks.map (scaleAddr t)) none with
        | .error f => .error f
        | .ok (ss, s2) => .ok ((bs.flatMap (elemsOf w 32)).take cs.length, ss.map (fun b => b.headD 0), s2)
    else if p.contiguous xf then
      match cs with
      | [] => .ok ([], [], s)
      | c :: _ =>
        match tensorBytes s pn r (dSp t) (elemAddr t c).1 ((cs.length * w + 7) / 8) with
        | .error f => .error f
        | .ok (bs, s1) => .ok (elemsOf w cs.length bs, [], s1)
    else
      let n := if fmtBfp (dFmt t) then 4 * w else (w + 7) / 8
      match readSpans s pn r (dSp t) n (cs.map (fun c => (elemAddr t c).1)) none with
      | .error f => .error f
      | .ok (bs, s1) =>
        let es := (bs.zip cs).map (fun e => leNat e.1 / 2 ^ (elemAddr t e.2).2 % 2 ^ w)
        if fmtBfp (dFmt t) then
          let at' := cs.map (scaleAddr t)
          match readSpans s1 pn r (dSp t) 1 ((List.range ((cs.length + 31) / 32)).map (fun b => at'.getD (32 * b) 0)) none with
          | .error f => .error f
          | .ok (ss, s2) => .ok (es, groupScales s2.free at' ss, { s2 with free := s2.free + ss.length })
        else .ok (es, [], s1)

/-- A list padded with a value to a length. -/
def padTo {α : Type} (n : Nat) (d : α) (l : List α) : List α := (l ++ List.replicate (n - l.length) d).take n

/-- The rows of a tile, from row number r on, each padded with zeros; with every scale byte, and the count of bytes read (R151, R357). -/
def readRows (rows : Nat) (s : State) (pn : Nat) (p : Port) (r : Reader) (xf : Bool) (idx row : Nat) : Except (Flt × State) (List Nat × List Byte × State) :=
  match rows with
  | 0 => .ok ([], [], s)
  | k + 1 =>
    match readRow s pn p r xf (p.rowCoords xf idx row) with
    | .error f => .error f
    | .ok (es, ss, s1) =>
      match readRows k s1 pn p r xf idx (row + 1) with
      | .error f => .error f
      | .ok (et, st, s2) =>
        .ok (padTo (dCols p.desc) 0 es ++ et, (if fmtBfp (dFmt p.desc) then padTo (dCols p.desc / 32) 0 ss else []) ++ st, s2)

/-- The read transform's value stages on a tile (R164, R182): TRANSPOSE2D, then CONVERT. Where TRANSPOSE2D meets a BFP tile the manual gives no scales: they are free. -/
def Port.readStages (p : Port) (xf : Bool) (free : Nat) (es : List Nat) (ss : List Byte) : List Nat × List Byte × BitVec 16 :=
  let tr := xf && p.xTranspose
  let e1 := if tr then transposeTile (dCols p.desc) es else es
  let s1 := if tr then (List.range ss.length).map (fun i => Config.freeByte (free + i)) else ss
  match if xf then p.xConvert else none with
  | some w =>
    let rs := e1.map (convertCode (dFmt p.desc) (w.toNat % 16) (w.toNat / 16 % 16) (w.getLsbD 8))
    (rs.map (·.1), s1, rs.foldl (fun g r => g ||| r.2) 0)
  | none => (e1, s1, 0)

/-- One beat of a read port: the tile numbered idx as it reaches the engine. -/
def readTile (s : State) (pn : Nat) (r : Reader) (xf : Bool) (idx : Nat) : Except (Flt × State) (Beat × State) :=
  let p := s.port pn
  match readRows (dRows p.desc) s pn p r xf idx 0 with
  | .error f => .error f
  | .ok (es, ss, s1) =>
    let x := p.readStages xf s1.free es ss
    .ok (⟨bytesOf (fmtBits (p.engineFmt xf)) x.1, x.2.1, p.marksAfter xf idx, x.2.2, idx, p.nBeats⟩, { s1 with free := s1.free + ss.length })

/-! ## Writing a tile (R151, R164, R165) -/

/-- TILE when no tile is named: all ones (R311). -/
abbrev noTile : Nat := 0xFFFFFFFFFF

/-- Bytes a port stores at an address for a tile, each with the mask of the bits it changes; `breach` is the lowest byte of its tile row when the row breaks R149. -/
structure PWrite where
  port : Nat
  sp : Bool
  addr : Nat
  data : List (Byte × Byte)
  tile : Nat
  breach : Option Nat
  deriving DecidableEq, Repr

/-- Whole bytes. -/
def wholeBytes (bs : List Byte) : List (Byte × Byte) := bs.map (fun b => (b, 0xFF))

/-- INT4 codes packed two to a byte; of an odd last code only the low nibble is stored. -/
def nibbles (es : List Nat) : List (Byte × Byte) :=
  match es with
  | [] => []
  | [a] => [(BitVec.ofNat 8 a, 0x0F)]
  | a :: b :: t => (BitVec.ofNat 8 (a + 16 * b), 0xFF) :: nibbles t

/-- A code of n bits at a bit offset of some bytes: the bytes it lies in, with their masks. -/
def maskedSpan (off n code : Nat) : Nat × List (Byte × Byte) :=
  let k := (off % 8 + n + 7) / 8
  let at' := fun (x : Nat) => leBytes k (x * 2 ^ (off % 8))
  (off / 8, (at' code).zip (at' (2 ^ n - 1)))

/-- The stores of a BFP element that stands in a block of its own: its mantissa, with zeros from the end of the traversal to the end of the block behind the last one (R151), and the block's scale. -/
def bfpElemWrites (pn : Nat) (p : Port) (c : List Nat) (code : Nat) (scale : Byte) : List PWrite :=
  let t := p.desc
  let w := fmtBits (dFmt t)
  let a := elemAddr t c
  let last := decide (c.getD 0 0 + 1 = p.org 0 + p.len 0)
  let m := maskedSpan a.2 (if last then 32 * w - a.2 else w) code
  [⟨pn, dSp t, a.1 + m.1, m.2, noTile, none⟩, ⟨pn, dSp t, scaleAddr t c, wholeBytes [scale], noTile, none⟩]

/-- The stores of a row's covered elements, given their codes in the tensor's format and, for BFP, the scale of each block. A BFP block is written whole (R151); where PERMUTE takes the row's elements from different blocks, each goes into its own block with the scale of its 32 (log entry 55). -/
def rowWrites (pn : Nat) (p : Port) (xf : Bool) (cs : List (List Nat)) (es : List Nat) (ss : List Byte) : List PWrite :=
  let t := p.desc
  let w := fmtBits (dFmt t)
  if fmtBfp (dFmt t) && !p.contiguous xf then
    ((cs.zip es).zip (List.range cs.length)).flatMap (fun e => bfpElemWrites pn p e.1.1 e.1.2 (ss.getD (e.2 / 32) 0))
  else if fmtBfp (dFmt t) then
    (List.range ((cs.length + 31) / 32)).flatMap (fun b =>
      let c := cs.getD (32 * b) []
      let ms := padTo 32 0 ((es.drop (32 * b)).take (min 32 (cs.length - 32 * b)))
      [⟨pn, dSp t, (elemAddr t c).1, wholeBytes (bytesOf w ms), noTile, none⟩, ⟨pn, dSp t, scaleAddr t c, wholeBytes [ss.getD b 0], noTile, none⟩])
  else if p.contiguous xf && (cs.head?.map (fun c => (elemAddr t c).2)).getD 0 = 0 then
    match cs with
    | [] => []
    | c :: _ => [⟨pn, dSp t, (elemAddr t c).1, if dFmt t = 7 then nibbles (es.take cs.length) else wholeBytes (bytesOf w (es.take cs.length)), noTile, none⟩]
  else
    (cs.zip es).map (fun e =>
      let a := elemAddr t e.1
      ⟨pn, dSp t, a.1, if dFmt t = 7 then [(BitVec.ofNat 8 (e.2 * 2 ^ a.2), if a.2 = 0 then 0x0F else 0xF0)] else wholeBytes (bytesOf w [e.2]), noTile, none⟩)

/-- The values of a row's blocks quantised to the tensor's BFP format over their covered elements (R101, R164). -/
def quantRows (w : Nat) (poison : Bool) (vs : List FVal) : List Nat × List Byte × BitVec 16 :=
  (List.range ((vs.length + 31) / 32)).foldl (fun a b =>
    let blk := (vs.drop (32 * b)).take 32
    let r := quantBfp w poison blk
    (a.1 ++ padTo 32 0 r.2.1, a.2.1 ++ [r.1], a.2.2 ||| r.2.2)) ([], [], 0)

/-- One row of a write port's tile: engine-side codes through CONVERT or QROW to stores, and the flags. -/
def Port.writeRow (pn : Nat) (p : Port) (xf : Bool) (cs : List (List Nat)) (es : List Nat) (ss : List Byte) : List PWrite × BitVec 16 :=
  if cs.isEmpty then ([], 0)
  else
    match (if xf then p.xConvert else none), (if xf then p.xQrow else none) with
    | some w, _ =>
      let rs := (es.take cs.length).map (convertCode (w.toNat % 16) (dFmt p.desc) (w.toNat / 16 % 16) (w.getLsbD 8))
      (rowWrites pn p xf cs (rs.map (·.1)) [], rs.foldl (fun g r => g ||| r.2) 0)
    | none, some w =>
      let r := quantRows (fmtBits (dFmt p.desc)) (w.getLsbD 4) ((es.take cs.length).map (fun e => codeVal (w.toNat % 16) e 0))
      (rowWrites pn p xf cs r.1 r.2.1, r.2.2)
    | none, none => (rowWrites pn p xf cs es ss, 0)

/-- The stores of a tile of engine-side bytes at tile number idx, with the flags its conversion raises. Where TRANSPOSE2D meets a BFP tile the manual gives no scales: they are free, from the count `free` on. -/
def Port.writeTile (free pn : Nat) (p : Port) (xf : Bool) (idx : Nat) (bs : List Byte) (ss : List Byte) : List PWrite × BitVec 16 :=
  let n := dCols p.desc
  let w := fmtBits (p.engineFmt xf)
  let all := elemsOf w (n * dRows p.desc) bs
  let tr := xf && p.xTranspose
  let es := if tr then transposeTile n all else all
  let sc := if tr then (List.range ss.length).map (fun i => Config.freeByte (free + i)) else ss
  (List.range (dRows p.desc)).foldl (fun a i =>
    let cs := p.rowCoords xf idx i
    let r := p.writeRow pn xf cs ((es.drop (n * i)).take n) ((sc.drop (n / 32 * i)).take (n / 32))
    (a.1 ++ r.1.map (fun x => { x with tile := idx, breach := p.rowBreach cs }), a.2 ||| r.2)) ([], 0)

/-- An element of an ORDERED-UPDATE port's tensor combined with an incoming value (R155), by code, in the tensor's format; with the flags of a floating sum. -/
def ouCombine (op : BitVec 2) (fmt old new : Nat) : Nat × BitVec 16 :=
  let w := fmtBits fmt
  match op, fmtFloat fmt with
  | 0, some f => addVal f 0 (unpack f old) (unpack f new)
  | 1, some f => (minMaxBits f false old new, 0)
  | 2, some f => (minMaxBits f true old new, 0)
  | 0, none => ((old + new) % 2 ^ w, 0)
  | 1, none => (if (BitVec.ofNat w new).slt (BitVec.ofNat w old) then new else old, 0)
  | 2, none => (if (BitVec.ofNat w old).slt (BitVec.ofNat w new) then new else old, 0)
  | _, _ => (new, 0)

/-- The bytes that an ORDERED-UPDATE port stores over old ones: each whole element combined, a later one of the stream after an earlier one. -/
def Port.updateBytes (p : Port) (old : List Byte) (new : List (Byte × Byte)) : List (Byte × Byte) × BitVec 16 :=
  let n := fmtBits (dFmt p.desc) / 8
  let k := new.length / n
  let r := ((wordsOf n k old).zip (wordsOf n k (new.map (·.1)))).map (fun e => ouCombine p.ouop (dFmt p.desc) e.1 e.2)
  (wholeBytes (r.flatMap (fun x => leBytes n x.1)), r.foldl (fun f x => f ||| x.2) 0)

/-- The bytes stored, as R185 counts them. A byte that holds two INT4 elements, and under PERMUTE a byte of a BFP block or a scale, counts once for each element stored into it (DESIGN CHOICE, log entry 55). -/
def writeCount (ws : List PWrite) : Nat := ws.foldl (fun n w => n + w.data.length) 0

/-! ## Faults of port instructions (R173) -/

/-- The detail of R173: KAUX2 holds the port and the tensor, 0xFF where none applies. -/
def unitTrap (cause : BitVec 5) (sub : Option Nat) (a1 : Option Nat) (port tensor : Nat) (hi : Nat) : TrapInfo :=
  ⟨cause, sub.map (BitVec.ofNat 64), a1.map (BitVec.ofNat 64), some (BitVec.ofNat 64 (port % 256 + tensor % 256 * 256 + hi * 65536)), none⟩

/-- A fault that names a port only. -/
def portTrap (cause : BitVec 5) (sub : Nat) (port : Nat) : TrapInfo := unitTrap cause (some sub) none port 0xFF 0

/-! ## Tensor table (R174 to R177) -/

/-- Descriptor n of the executing context. -/
def State.getT (s : State) (n : BitVec 6) : Desc := SMap.get 0 s.ctx.tt n.toNat
/-- Descriptor n replaced. -/
def State.setT (s : State) (n : BitVec 6) (t : Desc) : State := s.putCtx { s.ctx with tt := SMap.set 0 s.ctx.tt n.toNat t }

/-- A field of a descriptor replaced. -/
def dPut (t : Desc) (lo w x : Nat) : Desc :=
  let m : Desc := BitVec.ofNat 512 ((2 ^ w - 1) * 2 ^ lo)
  (t &&& ~~~m) ||| BitVec.ofNat 512 (x % 2 ^ w * 2 ^ lo)

/-- GEN advanced modulo 2^16. -/
def dNextGen (t : Desc) (gen : BitVec 16) : Desc := dPut t 48 16 ((gen + 1).toNat)

/-- The 64 bytes that TIDSET reads and TIDGET writes: the alignment and the translation. -/
def tensorAccess (s : State) (o : Ops) (write : Bool) : Except TrapInfo (List Part × State) :=
  let a := s.addr o
  if a.toNat % 8 ≠ 0 then .error (unitTrap cAlign none (some a.toNat) 0xFF o.d.toNat 0)
  else
    match eaFlt a 64 with
    | some f => .error (unitTrap f.cause (some f.sub) (some f.addr) 0xFF o.d.toNat 0)
    | none =>
      match accessParts s s.curAsid s.kLevel (if write then .write else .read) a.toNat 64 with
      | .error f => .error (unitTrap f.cause (some f.sub) (some f.addr) 0xFF o.d.toNat 0)
      | .ok r => .ok r

/-- The eight accesses of a descriptor, each ordered by itself (R174). -/
def wordParts (ps : List Part) : List Part := ps.flatMap (fun p => (List.range (p.len / 8)).map (fun i => ⟨p.dpa + 8 * i, 8, p.attr⟩))

/-- TIDSET (R174): eight plain loads. -/
def execTidset (o : Ops) (s : State) : Host.Outcome State Fault Refusal :=
  runInstr o (fun t => match tensorAccess t o false with
    | .error e => .trap e t
    | .ok (ps, u) =>
      if u.waitsWay ps then .block .storage u
      else let r := u.loadParts .plain 8 (wordParts ps); .next (r.2.setT o.d (dNextGen (BitVec.ofNat 512 (leNat r.1)) (dGen (t.getT o.d))))) s

/-- TIDGET (R174): eight plain stores. -/
def execTidget (o : Ops) (s : State) : Host.Outcome State Fault Refusal :=
  runInstr o (fun t => match tensorAccess t o true with
    | .error e => .trap e t
    | .ok (ps, u) => if u.waitsWay ps then .block .storage u else .next (u.plainStore true u.me u.nextSeq 8 (wordParts ps) (leBytes 64 (t.getT o.d).toNat))) s

/-- TIDMOD (R175): one field changed, then GEN. -/
def tidmod (o : Ops) (f : Desc → Word → Desc) (s : State) : Host.Outcome State Fault Refusal :=
  runPlain o (fun t => let d := t.getT o.d; t.setT o.d (dNextGen (f d (t.getS o.a)) (dGen d))) s

/-- TIDMOD.BASE (R175). -/
def execTidmodBase (o : Ops) (s : State) : Host.Outcome State Fault Refusal := tidmod o (fun d w => dPut d 0 48 w.toNat) s
/-- TIDMOD.SBASE (R175). -/
def execTidmodSbase (o : Ops) (s : State) : Host.Outcome State Fault Refusal := tidmod o (fun d w => dPut d 464 48 w.toNat) s
/-- TIDMOD.SIZE (R175). -/
def execTidmodSize (o : Ops) (s : State) : Host.Outcome State Fault Refusal := tidmod o (fun d w => dPut d (128 + 24 * o.uimm) 24 w.toNat) s
/-- TIDMOD.STRIDE (R175). -/
def execTidmodStride (o : Ops) (s : State) : Host.Outcome State Fault Refusal := tidmod o (fun d w => dPut d (272 + 32 * o.uimm) 32 w.toNat) s
/-- TIDMOD.VALID (R175). -/
def execTidmodValid (o : Ops) (s : State) : Host.Outcome State Fault Refusal := tidmod o (fun d w => dPut d 67 1 w.toNat) s
/-- TIDMOD.ADDBASE (R175): wrapping. -/
def execTidmodAddbase (o : Ops) (s : State) : Host.Outcome State Fault Refusal := tidmod o (fun d w => dPut d 0 48 (dBase d + w.toNat)) s

/-- TIDCHK (R177): it never faults. -/
def execTidchk (o : Ops) (s : State) : Host.Outcome State Fault Refusal :=
  runPlain o (fun t => let d := t.getT o.a; t.setS o.d (BitVec.ofNat 64 (tidReason d + (dGen d).toNat * 65536))) s

/-! ## Binding and configuring (R163, R178 to R184, R419) -/

/-- No invocation that the core holds uses the port. -/
def Core.quiescentPort (c : Core) (p : Nat) : Bool := !c.invs.any (fun v => v.ports.contains p)

/-- The traversal begins again: nothing of the earlier one that no invocation has taken is kept, and the beats whose DATA was not delivered are not counted (R419). -/
def Port.restart (p : Port) : Port :=
  { p with
    cursor := 0
    nBeats := if p.wr then 0 else p.nBeats - p.outMarks.count mDATA
    rowCursor := 0
    fifo := []
    outMarks := []
    ended := false
    fault := none
    drops := []
    sent := 0 }

/-- The limits of the transform stages against the descriptor (R182): the cause and KAUX0[7:0] of the first that is broken. Of several that are broken the manual names no first: they are tested in the order of R164's table (DESIGN CHOICE, log entry 60). A reserved rounding code of CONVERT breaks a limit, 0x21 (DESIGN CHOICE, log entry 55). -/
def Port.xformBreach (p : Port) : Option (BitVec 5 × Nat) :=
  let t := p.desc
  let read := !p.wr && p.mode ≠ 2
  if p.xTranspose && dCols t ≠ dRows t then some (cTidInvalid, 0x21)
  else if (match p.xPermute with
    | some w =>
      let e := fun i => w.toNat / 2 ^ (3 * i) % 8
      (List.range 6).any (fun i => if i < dRank t then dRank t ≤ e i else e i ≠ 0) || hasRepeat ((List.range (dRank t)).map e)
    | none => false) then some (cTidInvalid, 0x21)
  else if (match p.xBroadcast with
    | some w => !read || 6 ≤ w.toNat % 8 || dSize t (w.toNat % 8) ≠ 1 || w.toNat / 256 = 0
    | none => false) then some (cTidInvalid, 0x21)
  else if (match p.xConvert with
    | some w => 8 ≤ w.toNat % 16 || 8 ≤ dFmt t
    | none => false) then some (cFmtMismatch, 0x03)
  else if (match p.xConvert with
    | some w => decide (4 ≤ w.toNat / 16 % 16)
    | none => false) then some (cTidInvalid, 0x21)
  else if (match p.xQrow with
    | some w => 3 ≤ w.toNat % 16 || !fmtBfp (dFmt t)
    | none => false) then some (cFmtMismatch, 0x03)
  else if p.xQrow.isSome && !p.wr then some (cTidInvalid, 0x21)
  else none

/-- A zero stride on a written dimension whose SIZE exceeds 1 (R166). -/
def zeroStride (t : Desc) : Option Nat :=
  (List.range (dRank t)).find? (fun d => !(d = 0 && (fmtBfp (dFmt t) || dFmt t = 7)) && 1 < dSize t d && dStride t d = 0)

/-- The checks of PBIND in order (R178) for a port as it would be bound. -/
def bindBreach (p : Port) (pn tn : Nat) : Option TrapInfo :=
  let t := p.desc
  let f := dFmt t
  if tidReason t ≠ 0 then some (unitTrap cTidInvalid (some (tidReason t)) none pn tn 0)
  else
    match if p.wr || p.mode = 2 then zeroStride t else none with
    | some d => some (unitTrap cPortAlias (some 0x01) (some d) pn tn 0)
    | none =>
      if p.mode = 2 && (fmtBfp f || f = 7) then some (unitTrap cFmtMismatch (some 0x02) none pn tn 0)
      else if fmtBfp f && p.kExtent ≠ 0 && dBlocks t ≠ (p.kExtent.toNat + 31) / 32 then
        some (unitTrap cFmtMismatch (some 0x04) (some p.kExtent.toNat) pn tn p.edge.toNat)
      else p.xformBreach.map (fun e => unitTrap e.1 (some e.2) none pn tn 0)

/-- The DATA symbols that a context's lead port has delivered since the group was bound. -/
def Ctx.delivered (x : Ctx) : Nat := x.nData + x.queue.count mDATA

/-- The port as a binding by a context leaves it: the descriptor and GEN copied, the whole tensor in range, the transform stages kept. A lead port stays the lead port of its group only. Its beats are numbered on from the DATA delivered. -/
def Port.bindTo (p : Port) (t : Desc) (tn : BitVec 6) (mode : BitVec 2) (wr : Bool) (op : BitVec 2) (c : CtxId) (delivered : Nat) : Port :=
  { p.restart with
    bound := true
    tid := tn
    gen := dGen t
    desc := t
    mode := mode
    wr := wr
    ouop := op
    seekOrg := []
    seekLen := []
    nBeats := if wr then 0 else delivered
    lead := p.lead && decide (p.owner = some c)
    owner := some c }

/-- PBIND (R178). -/
def execPbind (o : Ops) (s : State) : Host.Outcome State Fault Refusal :=
  runInstr o (fun t =>
    let pn := o.d.toNat
    if !t.core.quiescentPort pn then .block .port t
    else
      let x := (t.port pn).bindTo (t.getT o.a) o.a (o.q.setWidth 2) (o.m.getLsbD 2) (o.m.setWidth 2) t.core.cur t.ctx.delivered
      match bindBreach x pn o.a.toNat with
      | some e => .trap e t
      | none => .next (t.putPort pn x)) s

/-- PUNBIND (R179): windows and transform stages are kept; what PSTAT shows of the binding reads 0, its reset value (DESIGN CHOICE, log entry 55). A lead port stays its group's. -/
def execPunbind (o : Ops) (s : State) : Host.Outcome State Fault Refusal :=
  runInstr o (fun t =>
    let pn := o.d.toNat
    if !t.core.quiescentPort pn then .block .port t
    else
      let p := t.port pn
      .next (t.putPort pn { p.restart with bound := false, tid := 0, gen := 0, desc := 0, mode := 0, wr := false, ouop := 0, seekOrg := [], seekLen := [], owner := if p.lead then p.owner else none })) s

/-- PSEEK's limits (R180). -/
def seekBad (t : Desc) (d a n : Nat) : Bool :=
  dRank t ≤ d || n = 0 || dSize t d < a + n || (d = 0 && a % dCols t ≠ 0) || (d = 1 && a % dRows t ≠ 0)

/-- PSEEK (R180, R419). -/
def execPseek (o : Ops) (s : State) : Host.Outcome State Fault Refusal :=
  runInstr o (fun t =>
    let pn := o.d.toNat
    let p := t.port pn
    let d := o.q.toNat
    let a := (t.getS o.a).toNat
    let n := (t.getS o.b).toNat
    if !t.core.quiescentPort pn then .block .port t
    else if !p.bound then .trap (portTrap cTidInvalid 0x20 pn) t
    else if seekBad p.desc d a n then .trap (unitTrap cTidInvalid (some 0x24) (some d) pn p.tid.toNat 0) t
    else .next (t.putPort pn { p.restart with seekOrg := SMap.set 0 p.seekOrg d a, seekLen := SMap.set 0 p.seekLen d n })) s

/-- The invocations queued at a port: the copies, circuits and merges that use it (R185, R406). -/
def Core.portCount (c : Core) (p : Nat) : Nat := (c.invs.filter (fun v => decide (2 ≤ unitOf v.op) && v.ports.contains p)).length

/-- The port that a copy writes. -/
def Inv.destPort (v : Inv) : Nat := if v.op = 0x7A || v.op = 0x7C || v.op = 0x7D || v.op = 0x8D then v.o.d.toNat else v.o.uimm

/-- The place of an invocation's end in the order of a cycle: its engine's, or that of a copy's destination port (R136, R142, R185). -/
def Inv.rank (v : Inv) : Nat :=
  if unitOf v.op < 3 then 5 + unitOf v.op else 8 + v.destPort

/-- The slots of the links in force at a port: those at the input of a read port's consumer, which its record names for a lead port, and which is the user of the oldest invocation queued at another; those at a write port's own input (R36). -/
def Core.slotsAt (c : Core) (pn : Nat) : Nat :=
  let p := SMap.get Port.reset c.ports pn
  let at' := fun (k : Nat) => SMap.get 0 p.links k
  if p.wr then p.input
  else if p.lead then (if p.cons = 0 then 0 else at' (p.cons.toNat - 1))
  else
    match c.invs.find? (fun v => v.ports.contains pn) with
    | none => 0
    | some v => if v.op = 0x93 then ((List.range 8).map (fun k => at' (11 + k))).sum else if unitOf v.op < 3 then at' (unitOf v.op) else at' (3 + v.destPort)

/-- The beats in the data queue of a write port (R159): those that a circuit has brought it; those that an engine or a copy has handed it and holds until its end are a free value (log entry 55). -/
def Core.writeQueue (c : Core) (pn free : Nat) : Nat :=
  let p := SMap.get Port.reset c.ports pn
  if c.quiescentPort pn then 0
  else if c.invs.any (fun v => v.op = 0x8D && v.ports.contains pn) then min 32 (p.circ.countP (fun x => match x with | .beat _ _ => true | _ => false) - p.input)
  else (Config.freeWord (free + 1)).toNat % 33

/-- PSTAT's word (R181). The line requests in flight are a free value from 0 to 64 while an invocation uses the port, or its generator may run ahead as a lead port's does (log entry 55). -/
def portWord (c : Core) (pn free : Nat) : Word :=
  let p := SMap.get Port.reset c.ports pn
  let b := fun (x : Bool) (n : Nat) => if x then 2 ^ n else 0
  let inf := if !c.quiescentPort pn || p.lead then (Config.freeWord free).toNat % 65 else 0
  BitVec.ofNat 64 (b p.bound 63 + p.mode.toNat * 2 ^ 61 + b p.wr 60 + p.ouop.toNat * 2 ^ 58 + p.tid.toNat * 2 ^ 52 + p.gen.toNat * 2 ^ 36
    + b p.fault.isSome 35 + b (c.quiescentPort pn) 34 + b p.xTranspose 29 + b p.xPermute.isSome 30 + b p.xBroadcast.isSome 31
    + b p.xConvert.isSome 32 + b p.xQrow.isSome 33 + (if p.wr then c.writeQueue pn free else min 32 (p.fifo.length - c.slotsAt pn)) * 2 ^ 23 + inf * 2 ^ 16
    + min 8 (c.portCount pn) * 2 ^ 12)

/-- PSTAT (R181). -/
def execPstat (o : Ops) (s : State) : Host.Outcome State Fault Refusal :=
  runPlain o (fun t => ({ t with free := t.free + 2 } : State).setS o.d (portWord t.core o.a.toNat t.free)) s

/-- PWIN (R183); with .CLR the entry's V falls once the port is quiescent. -/
def execPwin (o : Ops) (s : State) : Host.Outcome State Fault Refusal :=
  runInstr o (fun t =>
    let pn := o.a.toNat
    let p := t.port pn
    let e := o.uimm / 2
    let w := SMap.get 0 p.wins e
    let half := w.extractLsb' (64 * (o.uimm % 2)) 64
    if o.m = 1 then
      if !t.core.quiescentPort pn then .block .port t
      else .next ((t.putPort pn { p with wins := SMap.set 0 p.wins e (w &&& ~~~1#128) }).setS o.d half)
    else .next (t.setS o.d half)) s

/-- The parameter bits of a stage (R182). -/
def xformMask (q : Nat) : Word :=
  match q with
  | 2 => 0x3FFFF
  | 3 => 0xFFFFFF07
  | 4 => 0x1FF
  | 5 => 0x1F
  | _ => 0

/-- A port with one stage set or removed. -/
def Port.setStage (p : Port) (q : Nat) (on : Bool) (w : Word) : Port :=
  match q with
  | 0 => { p with xTranspose := false, xPermute := none, xBroadcast := none, xConvert := none, xQrow := none }
  | 1 => { p with xTranspose := on }
  | 2 => { p with xPermute := if on then some (w.setWidth 18) else none }
  | 3 => { p with xBroadcast := if on then some (w.setWidth 32) else none }
  | 4 => { p with xConvert := if on then some (w.setWidth 9) else none }
  | _ => { p with xQrow := if on then some (w.setWidth 5) else none }

/-- PXFORM (R182): limits are checked on a bound port, and again at each PBIND. Its faults name no tensor, and beats that the port has already read keep the transform they were read under (DESIGN CHOICE, log entry 55). -/
def execPxform (o : Ops) (s : State) : Host.Outcome State Fault Refusal :=
  runInstr o (fun t =>
    let pn := o.d.toNat
    let q := o.q.toNat
    let w := t.getS o.a
    let p := t.port pn
    let y := p.setStage q (bit w 63) w
    if !t.core.quiescentPort pn then .block .port t
    else if q ≠ 0 && (w &&& ~~~(xformMask q) &&& 0x7FFFFFFFFFFFFFFF) ≠ 0 then .trap (portTrap cTidInvalid 0x21 pn) t
    else
      match if p.bound && q ≠ 0 && bit w 63 then y.xformBreach else none with
      | some e => .trap (portTrap e.1 e.2 pn) t
      | none => .next (t.putPort pn y)) s

/-- PFLUSH (R184), an acquire at .core; with .WIN the windows are walked again. -/
def execPflush (o : Ops) (s : State) : Host.Outcome State Fault Refusal :=
  runInstr o (fun t =>
    let pn := o.d.toNat
    let p := t.port pn
    if !t.core.quiescentPort pn then .block .port t
    else if o.q = 1 then
      .next ((t.acquire t.core.cur 3 [portKey t.coreId pn]).putPort pn { p with wins := (List.range 4).foldl (fun m e => SMap.set 0 m e (SMap.get 0 m e &&& ~~~2#128)) p.wins })
    else .next (t.acquire t.core.cur 3 [portKey t.coreId pn])) s

end Sys2Proof.Machine
end

