-- ==== Sys2Proof/Machine/Scratch.lean ====
section
/-! DEFINITION. Barriers, the scratchpad tag table and full bits: opcodes 0x80 to 0x8B (R134 to R139, R192 to R199). -/

namespace Sys2Proof.Machine

/-! ## Barriers (R134 to R137, R192, R193) -/

/-- A barrier word. -/
def Core.barWord (c : Core) (off : Nat) : Word := BitVec.ofNat 64 (leNat (c.spBytes off 8))

/-- A barrier word written. -/
def Core.putBar (c : Core) (off : Nat) (w : Word) : Core := c.spStore off (leBytes 8 w.toNat)

/-- PH, EXP and ARR of a barrier word. -/
def barPh (w : Word) : Bool := bit w 63
def barExp (w : Word) : Nat := bits w 62 32
def barArr (w : Word) : Nat := bits w 31 0

/-- A barrier word of its fields. -/
def barOf (ph : Bool) (e a : Nat) : Word := BitVec.ofNat 64 ((if ph then 2 ^ 63 else 0) + e % 2 ^ 31 * 2 ^ 32 + a % 2 ^ 32)

/-- Arrive (R135): none when the count would pass EXP. A flip sends its pulse (R297). -/
def Core.arrive (c : Core) (off n : Nat) : Option Core :=
  if n = 0 then some c
  else
    let w := c.barWord off
    let a := barArr w + n
    if barExp w < a then none
    else if a = barExp w then some ((c.putBar off (barOf (!barPh w) (barExp w) 0)).pulse (.flip off))
    else some (c.putBar off (barOf (barPh w) (barExp w) a))

/-- A barrier word written by a party in one atomic step (R123, R135): every party sees it. -/
def State.barStep (s : State) (off : Nat) (c : Core) : State := (s.openRange false (spKey s.coreId off) 8).putCore c

/-- What a change of a barrier word releases: the word, and the counters that its pulse increments (R135, R297). -/
def State.barKeys (s : State) (c : Core) (off : Nat) : List (Nat × Nat) := (spKey s.coreId off, 8) :: s.evKeys c

/-- The checks of a barrier offset: alignment, then range (R185, R192). -/
def barBreach (off port tensor : Nat) : Option TrapInfo :=
  if off % 8 ≠ 0 then some (unitTrap cAlign none (some off) port tensor 0)
  else if spmSize ≤ off then some (unitTrap cScratchRange (some 0) (some off) port tensor 0)
  else none

/-- BARRIER_OVERFLOW of an instruction; the manual gives it no detail. -/
def barOverflow : TrapInfo := unitTrap cBarrierOverflow none none 0xFF 0xFF 0

/-- The body of a barrier instruction at S[A], after the offset's checks. -/
def withBar (s : State) (o : Ops) (body : Nat → Eff) : Eff :=
  let off := (s.getS o.a).toNat
  match barBreach off 0xFF 0xFF with
  | some e => .trap e s
  | none => body off

/-- S[B] + Imm, exact. -/
def barCount (s : State) (o : Ops) : Nat := (s.getS o.b).toNat + o.uimm

/-- BARINIT (R192). -/
def execBarinit (o : Ops) (s : State) : Host.Outcome State Fault Refusal :=
  runInstr o (fun t => withBar t o (fun off =>
    let e := barCount t o
    if 2 ^ 31 ≤ e then .trap barOverflow t else .next ((t.barStep off (t.core.putBar off (barOf false e 0))).forget (spKey t.coreId off) 8))) s

/-- BARARM (R192); a flip is a release at .core (R135). -/
def execBararm (o : Ops) (s : State) : Host.Outcome State Fault Refusal :=
  runInstr o (fun t => withBar t o (fun off =>
    let e := barCount t o
    let w := t.core.barWord off
    if 2 ^ 31 ≤ e || e < barArr w then .trap barOverflow t
    else if 0 < e && barArr w = e then
      let u := t.barStep off ((t.core.putBar off (barOf (!barPh w) e 0)).pulse (.flip off))
      .next (u.release t.core.cur 3 (u.barKeys t.core off))
    else .next (t.barStep off (t.core.putBar off (barOf (barPh w) e (barArr w)))))) s

/-- BARARR (R192): an arrival, which is a release at .core (R133). -/
def execBararr (o : Ops) (s : State) : Host.Outcome State Fault Refusal :=
  runInstr o (fun t => withBar t o (fun off =>
    let e := barCount t o
    match if 2 ^ 32 ≤ e then none else t.core.arrive off e with
    | none => .trap barOverflow t
    | some c =>
      let u := t.barStep off c
      .next (u.release t.core.cur 3 (u.barKeys t.core off)))) s

/-- The phase that BARWAIT and BARTEST name: S[B][0] xor Imm[0]. -/
def namedPhase (s : State) (o : Ops) : Bool := (s.getS o.b).getLsbD 0 ^^ o.imm.getLsbD 0

/-- BARWAIT (R193): an acquire at .core when it ends. -/
def execBarwait (o : Ops) (s : State) : Host.Outcome State Fault Refusal :=
  runInstr o (fun t => withBar t o (fun off =>
    if barPh (t.core.barWord off) = namedPhase t o then .block .barrier t else .next (t.acquire t.core.cur 3 [(spKey t.coreId off, 8)]))) s

/-- BARTEST (R193): an acquire at .core when it answers 1. -/
def execBartest (o : Ops) (s : State) : Host.Outcome State Fault Refusal :=
  runInstr o (fun t => withBar t o (fun off =>
    let w := t.core.barWord off
    let u := if barPh w = namedPhase t o then t else t.acquire t.core.cur 3 [(spKey t.coreId off, 8)]
    .next (u.setS o.d (BitVec.ofNat 64 (barArr w * 2 ^ 32 + if barPh w = namedPhase t o then 0 else 1))))) s

/-! ## The tag table (R194 to R197) -/

/-- A tag entry. -/
def Core.tag (c : Core) (slot : Nat) : Word := SMap.get 0 c.tags slot
/-- A tag entry replaced. -/
def Core.putTag (c : Core) (slot : Nat) (w : Word) : Core := { c with tags := SMap.set 0 c.tags slot w }

def tagV (w : Word) : Bool := bit w 63
def tagBusy (w : Word) : Bool := bit w 62
def tagLive (w : Word) : Bool := bit w 60
def tagCtx (w : Word) : Nat := bits w 59 57
def tagAsid (w : Word) : BitVec 9 := w.extractLsb' 48 9
def tagVpn (w : Word) : Nat := bits w 47 12

/-- A tag entry of its fields (R194). -/
def tagOf (v busy dirty live : Bool) (ctx : CtxId) (asid : BitVec 9) (vpn : Nat) : Word :=
  let b := fun (x : Bool) (n : Nat) => if x then 2 ^ n else 0
  BitVec.ofNat 64 (b v 63 + b busy 62 + b dirty 61 + b live 60 + ctxNum ctx * 2 ^ 57 + asid.toNat * 2 ^ 48 + vpn % 2 ^ 36 * 4096)

/-- The slot whose entry meets a test, lowest first; only listed entries can have V or BUSY. -/
def Core.findTag (c : Core) (p : Nat → Word → Bool) : Option Nat := (c.tags.find? (fun e => p e.1 e.2)).map (·.1)

/-- SCRATCH_RANGE for a slot index (R173). -/
def slotTrap (sub i : Nat) : TrapInfo := unitTrap cScratchRange (some sub) (some i) 0xFF 0xFF 0

/-- SPTLOOK (R195): a hit is an acquire at .core. -/
def execSptlook (o : Ops) (s : State) : Host.Outcome State Fault Refusal :=
  runPlain o (fun t =>
    let a := t.getS o.a
    let hit := t.core.findTag (fun _ w => tagV w && !tagBusy w && tagAsid w = t.curAsid && tagVpn w = bits a 47 12)
    match hit with
    | some i => (t.acquire t.core.cur 3 [slotKey t.coreId i]).setS o.d (BitVec.ofNat 64 (i * 4096 + bits a 11 0))
    | none => t.setS o.d (BitVec.allOnes 64)) s

/-- SPTINS (R196). -/
def execSptins (o : Ops) (s : State) : Host.Outcome State Fault Refusal :=
  runInstr o (fun t =>
    let i := (t.getS o.b).toNat
    let vpn := bits (t.getS o.a) 47 12
    if 1024 ≤ i then .trap (slotTrap 1 i) t
    else if tagV (t.core.tag i) || tagBusy (t.core.tag i) then .next (t.setS o.d 1)
    else if (t.core.findTag (fun j w => j ≠ i && (tagV w || tagBusy w) && tagAsid w = t.curAsid && tagVpn w = vpn)).isSome then .next (t.setS o.d 2)
    else .next ((t.putCore (t.core.putTag i (tagOf true false false (o.q = 1) t.core.cur t.curAsid vpn))).setS o.d 0)) s

/-- SPTEVICT (R197). -/
def execSptevict (o : Ops) (s : State) : Host.Outcome State Fault Refusal :=
  runInstr o (fun t =>
    let i := (t.getS o.a).toNat
    if 1024 ≤ i then .trap (slotTrap 1 i) t
    else if tagBusy (t.core.tag i) then .block .port t
    else .next ((t.putCore (t.core.putTag i 0)).setS o.d (t.core.tag i))) s

/-- SPTREAD (R197). -/
def execSptread (o : Ops) (s : State) : Host.Outcome State Fault Refusal :=
  runInstr o (fun t =>
    let i := (t.getS o.a).toNat
    if 1024 ≤ i then .trap (slotTrap 1 i) t else .next (t.setS o.d (t.core.tag i))) s

/-! ## Full bits (R198, R199) -/

/-- FESET, a release at .core, and FECLR over S[A] to S[A] + L − 1 (R198). -/
def fullRange (o : Ops) (b : Bool) (t : State) : Eff :=
  let a := (t.getS o.a).toNat
  let n := barCount t o
  if n = 0 then .next t
  else
    match spFlt a n with
    | some f => .trap (unitTrap f.cause (some 0) (some f.addr) 0xFF 0xFF 0) t
    | none => .next (if b then (t.release t.core.cur 3 [fullKey t.coreId a n]).putCore (t.core.setFull (granules a n) true)
        else (t.putCore (t.core.setFull (granules a n) false)).forget (fullKey t.coreId a n).1 (fullKey t.coreId a n).2)

/-- FESET (R198). -/
def execFeset (o : Ops) (s : State) : Host.Outcome State Fault Refusal := runInstr o (fullRange o true) s
/-- FECLR (R198). -/
def execFeclr (o : Ops) (s : State) : Host.Outcome State Fault Refusal := runInstr o (fullRange o false) s

/-- FETEST (R199): an acquire at .core when the bit is set. -/
def execFetest (o : Ops) (s : State) : Host.Outcome State Fault Refusal :=
  runInstr o (fun t =>
    let a := (t.getS o.a).toNat
    if spmSize ≤ a then .trap (unitTrap cScratchRange (some 0) (some a) 0xFF 0xFF 0) t
    else if SMap.get false t.core.full (a / 16) then .next ((t.acquire t.core.cur 3 [fullKey t.coreId a 1]).setS o.d 1)
    else .next (t.setS o.d 0)) s

end Sys2Proof.Machine
end

