-- ==== Sys2Proof/Machine/Invoke.lean ====
section
/-! DEFINITION. Tile invocations: issue, the beats they take, held stores and the commit (R31 to R35, R158 to R162, R185, R427, R433, R444). -/

namespace Sys2Proof.Machine

/-! ## Faults of generators and invocations (R160, R161, R173) -/

/-- The low half of KAUX2: port, tensor, and the two bytes above them (R173, R346). -/
def unitAux2 (port tensor hi : Nat) : Nat := port % 256 + tensor % 256 * 256 + hi % 65536 * 65536

/-- A fault with the detail of a trap and a tile number, and the cycle in which it arose, plus 1. Of KAUX0 only the subcode is not 0 (R58, R173). -/
def State.genFault (s : State) (t : TrapInfo) (tile : Nat) : GenFault × State :=
  (⟨t.cause, t.aux0.getD (Config.freeWord s.free &&& 0xFF), t.aux1.getD (Config.freeWord (s.free + 1)), t.aux2.getD 0, BitVec.ofNat 40 tile, s.core.cycle.toNat + 1⟩,
    { s with free := s.free + 2 })

/-- The two bytes above port and tensor in the detail of an invocation's fault: slot and accumulator, 0xFF where none applies, for MX (R346). -/
def Inv.hi (v : Inv) : Nat :=
  match v.op with
  | 0x90 => (v.sb.toNat + v.o.uimm) % 32 + 256 * v.o.d.toNat
  | 0x91 | 0x92 | 0x96 => 0xFF + 256 * v.o.d.toNat
  | 0x93 => 0xFF + 256 * v.o.a.toNat
  | 0x94 => v.sb.toNat + v.o.uimm + 256 * 0xFF
  | 0x95 => (if v.o.q = 1 then 0xFF else v.sa.toNat + v.o.uimm) + 256 * 0xFF
  | _ => 0

/-- The trap that a faulting access of a port reports. -/
def accessTrap (f : Flt) (port tensor hi : Nat) : TrapInfo :=
  unitTrap f.cause (if f.cause = cAlign then none else some f.sub) (some f.addr) port tensor hi

/-- The record of a MEM_UNCORRECTABLE that the generator of a port meets (R438); it names the port's node (R526). -/
def State.logUnit (s : State) (pn : Nat) (c : CtxId) (pc : Word) (f : Flt) : State :=
  if f.cause = cMemUncorrectable then s.marginAt (s.nodeNumber 3 pn) s.dieId 0x02 f.cause.toNat (BitVec.ofNat 64 f.addr) pc s.coreId (ctxNum c) false else s

/-- A generator stops on a faulting access of a tile (R160). -/
def State.stopPort (s : State) (pn : Nat) (f : Flt) (tile : Nat) (x : Reader) : State :=
  let p := s.port pn
  let pc := ((s.core.invs.find? (fun v => v.ports.contains pn)).map (·.pc)).getD 0
  let r := (s.logUnit pn x.ctx pc f).genFault (accessTrap f pn (if p.bound then p.tid.toNat else 0xFF) 0) tile
  r.2.putPort pn { p with fault := some r.1 }

/-! ## Invocations of a core -/

/-- An invocation gone, and with it what kept the beats of a skip (R282). -/
def Core.dropInv (c : Core) (id : Nat) : Core := Core.settleSkips { c with invs := c.invs.filter (fun w => w.id ≠ id) }

/-- The invocation was issued at K-level. -/
def Inv.kLevel (v : Inv) : Bool := v.ctx = .k

/-- An invocation as the reader of a port. -/
def State.readerOf (s : State) (v : Inv) : Reader := ⟨v.ctx, v.asid, v.kLevel, s.partyInv v⟩

/-- The invocations that an engine's queue holds, the running one included. -/
def Core.engineCount (c : Core) (u : Nat) : Nat := (c.invs.filter (fun v => unitOf v.op = u)).length

/-- The queue of an engine (R32), or the queue of some port of a copy or a merge (R185, R406), is full. -/
def Core.queueFull (c : Core) (op : Nat) (ports : List Nat) : Bool :=
  (unitOf op ≠ 3 && 8 ≤ c.engineCount (unitOf op)) || (2 ≤ unitOf op && ports.any (fun p => 8 ≤ c.portCount p))

/-- The invocation that an instruction issues, with what it captures (R31). -/
def State.newInv (s : State) (op : Nat) (o : Ops) (ports : List Nat) (held : Bool) : Inv where
  id := s.core.nextInv
  op := op
  o := o
  ctx := s.core.cur
  pc := s.ctx.pc
  asid := s.curAsid
  pos := if s.kLevel then 0 else s.ctx.pos
  prod := if s.kLevel then 0 else s.ctx.lastProd
  sd := s.getS o.d
  sa := s.getS o.a
  sb := s.getS o.b
  sc := s.getS o.c
  va := s.getV o.a
  pivots := (List.range 6).map (fun i => SMap.get 0 s.ctx.pivots i)
  mkPair := s.ctx.mkPair
  chain := s.core.chain
  fmt := s.ctx.mxFmt
  rs := s.ctx.mxRs
  skip := s.core.skipOn
  held := held
  cycle := s.core.cycle
  st := .queued
  beats := []
  eotSent := false
  asked := 0
  fault := none
  waitsStorage := none
  seq := 0
  ports := ports
  undo := []

/-- The invocation joins its queues; its accesses come after its issuer's (R131). -/
def State.addInv (s : State) (v : Inv) : State :=
  (s.beginAfter (partyOf s.coreId v.ctx) (s.partyInv v)).putCore { s.core with invs := s.core.invs ++ [v], nextInv := s.core.nextInv + 1 }

/-- An instruction issues an invocation, or its context waits for room in a queue (R32, R185). -/
def State.issue (s : State) (op : Nat) (o : Ops) (ports : List Nat) (held : Bool) : Eff :=
  if s.core.queueFull op ports then .block .queue s else .next (s.addInv (s.newInv op o ports held))

/-- A barrier register's checks at issue (R185); register 0 names no barrier. -/
def barCheck (s : State) (r : BitVec 6) (port tensor : Nat) : Option TrapInfo :=
  if r = 0 then none else barBreach (s.getS r).toNat port tensor

/-! ## Beats (R150 to R154, R159, R302, R420) -/

/-- A beat read by a generator: it enters the data queue, or is discarded where the lead port names no consumer; a lead port's symbols follow (R153, R302), unless a drain has ended its marks, or the beat is read again and they have been sent. -/
def Port.accept (p : Port) (b : Beat) : Port :=
  let last := p.ended || decide (p.cursor + 1 = p.tiles true)
  { p with
    cursor := p.cursor + 1
    nBeats := p.nBeats + 1
    fifo := if p.lead && p.cons = 0 then p.fifo else p.fifo ++ [b]
    outMarks := if p.lead && !p.ended && p.sent ≤ p.cursor then p.outMarks ++ mDATA :: b.marks ++ (if last then [mEOT] else []) else p.outMarks
    ended := last
    sent := max p.sent (p.cursor + 1) }

/-- One access of a read port's traversal (R158). -/
def State.portStep (s : State) (pn : Nat) (r : Reader) : Except (Flt × State) State :=
  match readTile s pn r true (s.port pn).cursor with
  | .error f => .error f
  | .ok (b, s1) => let t := s1.putPort pn ((s1.port pn).accept b); .ok (t.putCore ((t.core.settleDrops pn).fired [pn]))

/-- The port is bound for STREAM reading, or for STREAM writing. -/
def Port.streams (p : Port) (wr : Bool) : Bool := p.bound && p.wr = wr && p.mode = 0

/-- The skip that discards the beat of a number, for an invocation numbered id (R243, R282). -/
def dropOf (drops : List (Nat × Option Nat)) (id no : Nat) : Option (Nat × Option Nat) :=
  drops.find? (fun d => decide (d.1 ≤ id) && (d.2 = none || d.2 = some no))

/-- One of the beats numbered in a list stays, for an invocation numbered id. -/
def staysOne (id : Nat) (drops : List (Nat × Option Nat)) (nos : List Nat) : Bool :=
  match nos with
  | [] => false
  | n :: t =>
    match dropOf drops id n with
    | none => true
    | some d => staysOne id (drops.erase d) t

/-- A beat remains in a read port's traversal for an invocation numbered id: a skip takes one beat at most. -/
def Port.hasBeat (p : Port) (id : Nat) : Bool :=
  !(p.lead && p.cons = 0) &&
    staysOne id p.drops (p.fifo.map (·.no) ++ (List.range (min (p.tiles true - p.cursor) (p.drops.length + 1))).map (fun i => p.nBeats + i))

/-- The nodes that fire with an invocation: its engine, and the chain nodes of MXSTACC (R524). -/
def Inv.nodes (v : Inv) : List Nat :=
  (if unitOf v.op < 3 then [8 + unitOf v.op] else [])
    ++ (if v.op = 0x93 then v.chain.filterMap (fun e => if e.2.op = 0 then none else some (11 + e.1)) else [])

/-- What an invocation gets when it asks for the next beat: the beat; none, at the end of the traversal; nothing, its generator having stopped; or nothing yet. -/
inductive Took where
  | beat (b : Beat) (s : State)
  | dry (s : State)
  | stopped (s : State)
  | waits (s : State)

/-- The next beat of a port, its access made when the data queue is empty. A lead port whose marks have yet to enter the mark queue makes none (R153). -/
def State.takeBeat (fuel : Nat) (s : State) (v : Inv) (pn : Nat) : Took :=
  match fuel with
  | 0 => .dry s
  | f + 1 =>
    let p := s.port pn
    match p.fifo with
    | b :: t =>
      match dropOf p.drops v.id b.no with
      | some d => State.takeBeat f (s.putPort pn { p with fifo := t, drops := p.drops.erase d }) v pn
      | none => let u := s.putPort pn { p with fifo := t }; .beat b (u.putCore (u.core.fired (pn :: v.nodes)))
    | [] =>
      if p.fault.isSome then .stopped s
      else if (p.lead && p.cons = 0) || p.tiles true ≤ p.cursor then .dry s
      else if p.lead && !p.outMarks.isEmpty then .waits s
      else
        match s.portStep pn (s.readerOf v) with
        | .error (e, s1) => if e = wayWait then .waits s1 else .stopped (s1.stopPort pn e p.cursor (s.readerOf v))
        | .ok s1 => State.takeBeat f s1 v pn

/-- The beats that an invocation has taken of a port, oldest first. -/
def Inv.taken (v : Inv) (pn : Nat) : List Beat := v.beats.filterMap (fun e => if e.1 = pn then some e.2 else none)

/-- An invocation takes beats of a port until it has enough or the traversal ends. An error is the state in which it starves, or goes on waiting, with what it has (R160). -/
def State.gather (fuel : Nat) (s : State) (v : Inv) (pn : Nat) (enough : List Beat → Bool) : Except State (Inv × State) :=
  match fuel with
  | 0 => .ok (v, s)
  | f + 1 =>
    if enough (v.taken pn) then .ok (v, s)
    else
      let p := s.port pn
      match s.takeBeat (2 * (p.fifo.length + p.drops.length) + 3) v pn with
      | .stopped s1 => .error (s1.putInv { v with st := .starved })
      | .waits s1 => .error (s1.putInv v)
      | .dry s1 => .ok (v, s1)
      | .beat b s1 => State.gather f s1 { v with beats := v.beats ++ [(pn, b)] } pn enough

/-- The flags that the conversions of an invocation's beats raised. -/
def Inv.beatFlags (v : Inv) : BitVec 16 := v.beats.foldl (fun f e => f ||| e.2.flags) 0

/-! ## Discarding (R34, R35, R189, R357, R409) -/

/-- The beats that a port's data queue holds (R159). -/
abbrev fifoLimit : Nat := 32

/-- A port with beats at its head again; what its data queue and its k link slots cannot hold is read afresh. -/
def Port.unread (k : Nat) (p : Port) (l : List Beat) : Port :=
  let q := l ++ p.fifo
  match q[fifoLimit + k]? with
  | none => { p with fifo := q }
  | some b => { p with fifo := q.take (fifoLimit + k), cursor := b.idx, nBeats := b.no, ended := p.lead && p.ended }

/-- A copy through an unbound port: CPYS, CPYR, CPYW. What it has read stands in its beats. -/
def Inv.linear (v : Inv) : Bool := v.op = 0x7B || v.op = 0x7E || v.op = 0x7F

/-- The beats an invocation took stand at the head of their ports again. -/
def Core.returnBeats (c : Core) (v : Inv) : Core :=
  if v.linear then c else { c with ports := (List.range 8).foldl (fun m pn =>
      let l := v.taken pn
      if l.isEmpty then m else SMap.set Port.reset m pn ((SMap.get Port.reset m pn).unread (c.slotsAt pn) l)) c.ports }

/-- The scratchpad slot that a CPYR or CPYW moves. -/
def Inv.copySlot (v : Inv) : Option Nat := if v.op = 0x7E then some v.sd.toNat else if v.op = 0x7F then some v.sa.toNat else none

/-- Another copy of the slot is in flight (R189). -/
def Core.slotShared (c : Core) (v : Inv) : Bool := c.invs.any (fun w => w.id ≠ v.id && w.st ≠ .discarded && w.copySlot.isSome && w.copySlot = v.copySlot)

/-- The context may name an accumulator, or a slot (R339, R363). -/
def Core.mayUse (c : Core) (x : CtxId) (acc slot : Option Nat) : Bool :=
  x = .k || c.resv.any (fun r => r.owner = some x
    && (match acc with | some a => r.accs.getLsbD a | none => true) && (match slot with | some n => r.slots.getLsbD n | none => true))

/-- The slot of a copy or of a weight load that does not end: BUSY clears unless another copy of the slot is in flight (R189), a load leaves a slot that its context may name invalid (R357). -/
def Core.releaseSlot (c : Core) (v : Inv) : Core :=
  match v.copySlot with
  | some n => if c.slotShared v then c else c.putTag n (c.tag n &&& ~~~(1#64 <<< 62))
  | none => if v.op = 0x94 && c.mayUse v.ctx none (some (v.sb.toNat + v.o.uimm)) then { c with wslots := SMap.set WSlot.reset c.wslots (v.sb.toNat + v.o.uimm) WSlot.reset } else c

/-- An invocation's held write leaves the lists of the dies. -/
def State.unholdInv (s : State) (v : Inv) (saved : Bool) : State :=
  (List.range 8).foldl (fun t i =>
    let d := t.die i
    let mine : HeldWrite → Bool := fun h => decide (h.core = t.coreId) && decide (h.inv = some v.id)
    if d.held.any mine then t.putDie i { d with held := d.held.filter (fun h => !mine h), saved := if saved then d.saved + 1 else d.saved } else t) s

/-- A line stored with the bytes that memory holds; one that finds no storage is dirty in the Well and deferred (R435). -/
def State.restoreLine (s : State) (line : Nat) : State :=
  let i := dieOfDpa (line * 128)
  match s.storeLine ⟨false, false⟩ line true with
  | some t => t
  | none =>
    let d := s.die i
    s.putDie i { d with dirty := SMap.set 0 d.dirty line (SMap.get 0 d.dirty line ||| 1), deferred := if d.deferred.contains line then d.deferred else d.deferred ++ [line] }

/-- A frame returned to the state it had before a commit (R444); the chunks taken for it return to the pool. In a frame that something else has changed since, the commit's lines are stored anew with the bytes that they had. -/
def State.undoFrame (s : State) (u : Undo) : State :=
  let a := u.frame * 4096
  if s.fmr a ≠ u.new then (if fmrBal (s.fmr a) then s else u.lines.foldl State.restoreLine s)
  else
    let i := dieOfDpa a
    let d := s.die i
    let x := unpackFmr u.old
    s.putDie i (({ d with
      fmrs := SMap.set 0 d.fmrs u.frame u.old
      free := d.free + ((unpackFmr u.new).chunks.length - x.chunks.length) } : Die).rawWrite x 0 u.raw)

/-- An invocation is discarded by a fault of its own: nothing of it stays, and the core holds it until RESUME (R34, R319). -/
def State.discard (s : State) (v : Inv) (t : TrapInfo) (tile : Nat) : State :=
  let r := (v.undo.foldl State.undoFrame s).genFault t tile
  let u := r.2.unholdInv v false
  let c := (u.core.returnBeats v).releaseSlot v
  (u.putCore c).putInv { v with st := .discarded, fault := some r.1, beats := [], eotSent := false, asked := 0, waitsStorage := none, undo := [] }

/-! ## Commit (R34, R133, R135, R138, R166, R427, R433, R444) -/

/-- What an invocation does when it ends, once it has all its inputs. -/
structure Commit where
  writes : List PWrite
  bar : Option Nat
  arrive : Nat
  flags : BitVec 16
  after : State → State
  pulse : Pulse

/-- The port of a store that no port makes: MXSTACC.RAW's. -/
abbrev noPort : Nat := 8

/-- The stores of an invocation in the order in which they take effect: by port, then by stream (R166). -/
def portOrder (ws : List PWrite) : List PWrite := (List.range 9).flatMap (fun p => ws.filter (fun w => w.port = p))

/-- Every store checked against the row rule and, to memory, translated; or the store and the fault at which its generator stops (R149, R160). -/
def xlatWrites (s : State) (v : Inv) (ws : List PWrite) : Except (PWrite × Flt × State) (List (PWrite × List Part) × State) :=
  match ws with
  | [] => .ok ([], s)
  | w :: t =>
    match w.breach with
    | some a => .error (w, ⟨cAlign, 0, a⟩, s)
    | none =>
      match if w.sp then .ok ([], s) else portParts (w.data.length / 4096 + 2) s w.port (s.readerOf v) .write w.addr w.data.length with
      | .error (f, s1) => .error (w, f, s1)
      | .ok (ps, s1) => (xlatWrites s1 v t).map (fun r => ((w, ps) :: r.1, r.2))

/-- The bytes that a store leaves, and its flags: those of a port of the ORDERED-UPDATE mode combine with the bytes the earlier stores left (R155). -/
def State.storedBytes (s : State) (e : PWrite × List Part) : List (Byte × Byte) × BitVec 16 :=
  let p := s.port e.1.port
  if p.bound && p.mode = 2 then
    p.updateBytes (if e.1.sp then s.core.spBytes e.1.addr e.1.data.length else readParts s e.2) e.1.data
  else (e.1.data, 0)

/-- The bytes of an element of a port's tensor that no party sees part of (R123); MXSTACC.RAW, which stores through no port, stores elements of 8. -/
def State.storeUnit (s : State) (port : Nat) : Nat :=
  if 8 ≤ port then 8 else let f := dFmt (s.port port).desc; if fmtBfp f then 1 else max 1 (fmtBits f / 8)

/-- One store of a party made (R133); `seq` numbers the commit. -/
def applyWrite (p seq : Nat) (s : State) (e : PWrite × List Part) : State :=
  let r := s.storedBytes e
  let t := if r.2 = 0 then s else s.addFlags r.2
  if e.1.sp then t.spMasked p seq (s.storeUnit e.1.port) e.1.addr r.1 else t.storeMasked p seq (s.storeUnit e.1.port) e.2 r.1

/-- Every store of an invocation made. -/
def applyWrites (s : State) (v : Inv) (l : List (PWrite × List Part)) : State := l.foldl (applyWrite (s.partyInv v) s.nextSeq) s

/-- A line with the VA of it put among lines that ascend. -/
def putLine (l : List (Nat × Nat)) (e : Nat × Nat) : List (Nat × Nat) :=
  match l with
  | [] => [e]
  | h :: t => if e.1 < h.1 then e :: h :: t else if e.1 = h.1 then h :: t else h :: putLine t e

/-- The lines that the stores reach, ascending in DPA. -/
def writeLines (l : List (PWrite × List Part)) : List (Nat × Nat) :=
  (l.flatMap (fun e => partLines e.2 e.1.addr)).foldl putLine []

/-- The lines stored one after another (R444), or the line and VA for which no storage was found, with what the earlier lines left. -/
def storeInvLines (s : State) (v : Inv) (ls : List (Nat × Nat)) : Except (Nat × Nat × State) State :=
  match ls with
  | [] => .ok s
  | (l, va) :: t =>
    let first := match (s.die (dieOfDpa (l * 128))).held with
      | h :: _ => h.core = s.coreId && h.inv = some v.id
      | [] => true
    match s.storeLine ⟨v.kLevel, first⟩ l (s.wellHolds l) with
    | some s1 => storeInvLines s1 v t
    | none => .error (l, va, s)

/-- The frames that a commit of some lines has changed so far, with what they were before it. -/
def undoList (s t : State) (l : List Undo) (lines : List Nat) : List Undo :=
  (lines.map (fun x => x / 32)).foldl (fun u f =>
    let a := f * 4096
    if s.fmr a = t.fmr a then u
    else if u.any (fun e => e.frame = f) then u.map (fun e => if e.frame = f then { e with new := t.fmr a } else e)
    else
      let x := s.frame a
      u ++ [⟨f, s.fmr a, t.fmr a, (s.die (dieOfDpa a)).rawRead x 0 (32 * x.chunks.length), lines.filter (fun k => k / 32 = f)⟩]) l

/-- The storage of the dies as another state has it: FMRs, pools and raw storage. -/
def State.withStorage (s t : State) : State :=
  (List.range 8).foldl (fun (u : State) i =>
    let d := t.die i
    u.putDie i { u.die i with fmrs := d.fmrs, free := d.free, kres := d.kres, raw := d.raw }) { s with free := t.free }

/-- The invocation's write of a line by a port is held for a chunk (R433). What the earlier lines of the commit obtained stays theirs (R444): t is the state in which they are stored. -/
def State.holdInv (s t : State) (v : Inv) (ls : List (Nat × Nat)) (line va port : Nat) : State :=
  let i := dieOfDpa (line * 128)
  ((s.withStorage t).holdOn i ⟨s.coreId, v.ctx, some v.id, line, va, port, 0, 0⟩).putInv
    { v with waitsStorage := some (i, line), undo := undoList s t v.undo (ls.map (·.1)) }

/-- The DPA of each byte that a store changes whole. -/
def wholeDpas (ps : List Part) (data : List (Byte × Byte)) : List Nat :=
  match ps with
  | [] => []
  | p :: t => ((List.range p.len).filter (fun i => (data.getD i (0, 0)).2 = 0xFF)).map (fun i => p.dpa + i) ++ wholeDpas t (data.drop p.len)

/-- The stores of a commit together replace a whole line: they are merged in it (R427, R438). -/
def replacesLine (l : List (PWrite × List Part)) (line : Nat) : Bool :=
  let as' := l.flatMap (fun e => wholeDpas e.2 e.1.data)
  (List.range 128).all (fun i => as'.contains (128 * line + i))

/-- The first fault among n bytes of one page that a commit stores, ascending (R437, R438). -/
def commitFaults (s : State) (l : List (PWrite × List Part)) (dpa va n : Nat) : Option Flt :=
  (List.range n).findSome? (fun i =>
    let a := dpa + i
    if i = 0 || a % 128 = 0 then
      frameFault s (match s.lineBad (a / 128) with | none => false | some k => k = 1 || !replacesLine l (a / 128)) a (va + i)
    else none)

/-- The frames that the stores reach: the first fault (R437, R438). -/
def writeFrames (s : State) (l : List (PWrite × List Part)) : Option (PWrite × Flt) :=
  l.findSome? (fun e =>
    let r := e.2.foldl (fun (a : Nat × Option Flt) p => (a.1 + p.len, match a.2 with | some f => some f | none => commitFaults s l p.dpa a.1 p.len)) (e.1.addr, none)
    r.2.map (fun f => (e.1, f)))

/-- The port whose store reaches a line first. -/
def linePort (l : List (PWrite × List Part)) (line : Nat) : Nat :=
  ((l.find? (fun e => e.2.any (fun p => decide (p.dpa / 128 ≤ line) && decide (line ≤ (p.dpa + p.len - 1) / 128)))).map (fun e => e.1.port)).getD noPort

/-- The region of an invocation's group is DRAINING: its port stores are discarded downstream (R15, R35). -/
def State.drains (s : State) (v : Inv) : Bool :=
  match (s.ctxAt v.ctx).group with
  | some g => (s.region g.rcb).any (fun r => r.state = 3)
  | none => false

/-- An invocation writes a register, whose first use joins it (R397, R408): vD of a VPRD, S[D] of a merge. -/
def Inv.hasResult (v : Inv) : Bool := v.op = 0xCF || (decide (0xE0 ≤ v.op) && decide (v.op ≤ 0xE5) && v.o.d ≠ 0)

/-- What the commit of an invocation updates (R133): its barrier, the full bits that it sets, and the counters incremented since another state of the core. -/
def State.commitKeys (s : State) (c : Core) (bar : Option Nat) (ws : List PWrite) : List (Nat × Nat) :=
  (match bar with | some b => [(spKey s.coreId b, 8)] | none => []) ++ (ws.filter (·.sp)).map (fun w => fullKey s.coreId w.addr w.data.length) ++ s.evKeys c

/-- What the end of an invocation shows beside: itself, its ports (R184), its scratchpad slot (R195). -/
def State.endKeys (s : State) (v : Inv) : List (Nat × Nat) :=
  (let k := invKeys s.coreId v.ctx (unitOf v.op) 0; (k.1 + v.id, 1)) :: v.ports.map (portKey s.coreId) ++ (v.copySlot.map (slotKey s.coreId)).toList

/-- The completion of an invocation, a release at .core (R133). One that writes a register is joined as it does (log entry 9). -/
def State.complete (s : State) (v : Inv) (keys : List (Nat × Nat)) : State :=
  let t := s.releaseBy (s.partyInv v) 2 false (s.endKeys v ++ keys)
  if v.hasResult then t.acquire v.ctx 4 (t.endKeys v) else t

/-- An arrival at a barrier (R135): none when the count would pass EXP. -/
def State.arriveAt (s : State) (bar : Option Nat) (n : Nat) : Option State :=
  match bar with
  | some b => (s.core.arrive b n).map (s.barStep b)
  | none => some s

/-- An invocation ends: its stores are translated, its barrier arrives before them (R135), or behind those of MG (R407), its storage is obtained, and everything takes effect together, as a release at .core (R133); or it starves, is discarded or waits for storage, with no store of it done.
A BARRIER_OVERFLOW names the first of the invocation's ports, and no tensor (DESIGN CHOICE, log entry 60). -/
def State.commit (s : State) (v : Inv) (k0 : Commit) : State :=
  let k := if s.drains v then { k0 with writes := k0.writes.filter (fun w => decide (w.port = noPort)) } else k0
  let tensor := fun (pn : Nat) => let p := s.port pn; if p.bound then p.tid.toNat else 0xFF
  match xlatWrites s v (portOrder k.writes) with
  | .error (w, f, s1) => (s1.stopPort w.port f w.tile (s.readerOf v)).putInv { v with st := .starved }
  | .ok (l, s1) =>
    match writeFrames s1 l with
    | some (w, f) => (s1.logUnit w.port v.ctx v.pc f).discard v (accessTrap f w.port (tensor w.port) v.hi) w.tile
    | none =>
      match (if unitOf v.op = 2 then (applyWrites s1 v l).arriveAt k.bar k.arrive else (s1.arriveAt k.bar k.arrive).map (fun t => applyWrites t v l)) with
      | none => s1.discard v (unitTrap cBarrierOverflow none none (v.ports.headD 0xFF) 0xFF v.hi) noTile
      | some s2 =>
        let ls := writeLines l
        match storeInvLines s2 v ls with
        | .error (line, va, t) => s1.holdInv t v ls line va (linePort l line)
        | .ok s3 =>
          let s4 := k.after ((s3.addFlags (k.flags ||| v.beatFlags)).unholdInv v true)
          let s5 := s4.putCore ((s4.core.pulse k.pulse).fired (v.nodes ++ (l.map (fun e => e.1.port)).filter (fun p => decide (p < noPort))))
          ((s5.complete v (s5.commitKeys s1.core (if k.arrive = 0 then none else k.bar) (l.map (fun e => e.1)))).putCore (s5.core.dropInv v.id)).pruned

end Sys2Proof.Machine
end

