-- ==== Sys2Proof/Machine/Copies.lean ====
section
/-! DEFINITION. Asynchronous copies, the copy trace and circuits: opcodes 0x7A to 0x7F and 0x8D (R165, R167 to R169, R185 to R191, R200, R201, R514 to R517, R525). -/

namespace Sys2Proof.Machine

/-! ## Elements by coordinate (R147, R151, R186) -/

/-- A place in the traversal numbered along its dimensions, dimension 0 counted in units. -/
def Port.linear (p : Port) (xf : Bool) (unit : Nat) (c : List Nat) : Nat :=
  let n0 := (p.ext xf 0 + unit - 1) / unit
  let hi := ([5, 4, 3, 2, 1] : List Nat).foldl (fun a i => c.getD i 0 + p.ext xf i * a) 0
  c.getD 0 0 / unit + n0 * hi

/-- The places of a traversal. -/
def Port.places (p : Port) (xf : Bool) (unit : Nat) : Nat :=
  (p.ext xf 0 + unit - 1) / unit * (List.range 5).foldl (fun a i => a * p.ext xf (i + 1)) 1

/-- The elements of a source by place, none where their beat was discarded; its scales by block, and the flags of its conversion. -/
structure Source where
  codes : Array (Option Nat)
  scales : Array Byte
  flags : BitVec 16

/-- The elements of one tile put into their places. -/
def Source.put (x : Source) (p : Port) (xf : Bool) (idx : Nat) (b : Beat) : Source :=
  let n := dCols p.desc
  let es := elemsOf (fmtBits (p.engineFmt xf)) (n * dRows p.desc) b.bytes
  let codes := (es.zip (List.range es.length)).foldl (fun (a : Array (Option Nat)) e =>
    let c := p.coord xf idx (e.2 / n) (e.2 % n)
    if c.2 then a.setIfInBounds (p.linear xf 1 c.1) (some e.1) else a) x.codes
  let scales := (b.scales.zip (List.range b.scales.length)).foldl (fun (a : Array Byte) e =>
    let c := p.coord xf idx (e.2 / (n / 32)) (e.2 % (n / 32) * 32)
    if c.2 then a.setIfInBounds (p.linear xf 32 c.1) e.1 else a) x.scales
  ⟨codes, scales, x.flags ||| b.flags⟩

/-- A copy stops at a tile of a port, with what it has (R160, R191), or goes on waiting. -/
def State.starveAt (s : State) (v : Inv) (pn : Nat) (f : Flt) (tile : Nat) : State :=
  if f = wayWait then s.putInv v else (s.stopPort pn f tile (s.readerOf v)).putInv { v with st := .starved }

/-- Tiles of a traversal read from tile k on, or the state at which the generator stops; a tile that a skip discards is passed over (R243, R282). -/
def readTiles (n : Nat) (s : State) (v : Inv) (pn : Nat) (xf : Bool) (k : Nat) (x : Source) : Except State (Source × State) :=
  match n with
  | 0 => .ok (x, s)
  | m + 1 =>
    let p := s.port pn
    match if p.cursor ≤ k then dropOf p.drops v.id (p.nBeats + k - p.cursor) else none with
    | some d => readTiles m (s.putPort pn { p with drops := p.drops.erase d }) v pn xf (k + 1) x
    | none =>
      match readTile s pn (s.readerOf v) xf k with
      | .error (f, s1) => .error (s1.starveAt v pn f k)
      | .ok (b, s1) => readTiles m s1 v pn xf (k + 1) (x.put (s1.port pn) xf k b)

/-- The tiles of a list read. -/
def readListed (s : State) (v : Inv) (pn : Nat) (xf : Bool) (ks : List Nat) (x : Source) : Except State (Source × State) :=
  match ks with
  | [] => .ok (x, s)
  | k :: t =>
    match readTiles 1 s v pn xf k x with
    | .error u => .error u
    | .ok (y, u) => readListed u v pn xf t y

/-- The generator of a lead port without a consumer runs on to the end of its traversal under a copy, as far as the mark queue takes its symbols (R153, R302); an error is the state in which the copy waits or starves. -/
def State.runThrough (fuel : Nat) (s : State) (v : Inv) (pn : Nat) : Except State State :=
  match fuel with
  | 0 => .ok s
  | f + 1 =>
    let p := s.port pn
    if !(p.lead && p.cons = 0) || p.tiles true ≤ p.cursor then .ok s
    else if p.fault.isSome then .error (s.putInv { v with st := .starved })
    else if !p.outMarks.isEmpty then .error (s.putInv v)
    else
      match s.portStep pn (s.readerOf v) with
      | .error (e, t) => .error (t.starveAt v pn e p.cursor)
      | .ok t => State.runThrough f t v pn

/-- The tiles that a copy reads by itself: those before the first that it takes as a beat; and where it applies no stage of a lead port that has one, those of the beats it took, and those beyond the numbers of the port's beats. -/
def ownTiles (p : Port) (w : Inv) (pn : Nat) (xf : Bool) (first : Nat) : List Nat :=
  (List.range (if p.hasXform && !xf then p.tiles xf else first)).filter (fun k => k < first || (w.taken pn).any (fun b => b.idx = k) || p.tiles true ≤ k)

/-- The whole traversal of a read port. A copy takes the beats that its port has read or has yet to read, and reads again those that earlier invocations took, or that a lead port without a consumer has discarded; CPY, which applies no stage, reads the tiles of a port that has one by itself (log entry 55). -/
def readSource (s0 : State) (v : Inv) (pn : Nat) (xf : Bool) : Except State (Source × Inv × State) :=
  let p := s0.port pn
  let x : Source := ⟨Array.replicate (p.places xf 1) none, Array.replicate (p.places xf 32) 0, 0⟩
  if p.hasXform && !xf && !p.lead then (readTiles (p.tiles xf) s0 v pn xf 0 x).map (fun r => (r.1, v, r.2))
  else
    match s0.runThrough (p.tiles true + 1) v pn with
    | .error t => .error t
    | .ok s =>
      let first := ((v.taken pn ++ (s.port pn).fifo).head?.map (·.idx)).getD (s.port pn).cursor
      match s.gather (p.tiles true + 1) v pn (fun _ => false) with
      | .error t => .error t
      | .ok (w, t) =>
        (readListed t w pn xf (ownTiles p w pn xf first) x).map (fun r =>
          (if p.hasXform && !xf then r.1 else (w.taken pn).foldl (fun y b => y.put (r.2.port pn) xf b.idx b) r.1, w, r.2))

/-- The stores of one tile of a write port of which some elements are not delivered: each element alone, a BFP block whole. -/
def Port.writeSome (pn : Nat) (p : Port) (xf : Bool) (k : Nat) (code : List Nat → Option Nat) (scale : List Nat → Byte) : List PWrite × BitVec 16 :=
  let n := dCols p.desc
  let unit := if fmtBfp (dFmt p.desc) then 32 else 1
  (List.range (dRows p.desc * (n / unit))).foldl (fun a i =>
    let row := i / (n / unit)
    let at' := (List.range unit).filterMap (fun j =>
      let col := i % (n / unit) * unit + j
      let c := p.coord xf k row col
      let d := if xf && p.xTranspose then p.coord xf k col row else c
      if c.2 then some (p.tensorCoord xf c.1, d.1) else none)
    if at'.any (fun e => (code e.2).isSome) then
      let r := p.writeRow pn xf (at'.map (·.1)) (at'.map (fun e => (code e.2).getD 0)) [scale ((at'.headD ([], [])).2)]
      (a.1 ++ r.1.map (fun w => { w with tile := k, breach := p.rowBreach (p.rowCoords xf k row) }), a.2 ||| r.2)
    else a) ([], 0)

/-- Every tile of a write port stored from elements and scales by coordinate; an element that is not delivered is not stored. -/
def Port.writeAll (free pn : Nat) (p : Port) (xf : Bool) (code : List Nat → Option Nat) (scale : List Nat → Byte) : List PWrite × BitVec 16 :=
  let n := dCols p.desc
  (List.range (p.tiles xf)).foldl (fun a k =>
    let es := (List.range (n * dRows p.desc)).map (fun i => let c := p.coord xf k (i / n) (i % n); if c.2 then code c.1 else some 0)
    let ss := if fmtBfp (p.engineFmt xf) then
        (List.range (n / 32 * dRows p.desc)).map (fun i => scale (p.coord xf k (i / (n / 32)) (i % (n / 32) * 32)).1)
      else []
    let r := if es.all (·.isSome) then p.writeTile (free + n * k) pn xf k (bytesOf (fmtBits (p.engineFmt xf)) (es.map (·.getD 0))) ss
      else p.writeSome pn xf k code scale
    (a.1 ++ r.1, a.2 ||| r.2)) ([], 0)

/-- A port at the end of its traversal: a lead port's remaining symbols are delivered (R153). -/
def Port.atEnd (p : Port) : Port :=
  let n := p.tiles true
  let rest := if p.wr then [] else (List.range (n - p.cursor)).flatMap (fun i => mDATA :: p.marksAfter true (p.cursor + i))
  { p with
    cursor := n
    nBeats := if p.wr then 0 else p.nBeats + (n - p.cursor)
    fifo := []
    outMarks := if p.lead && !p.ended then p.outMarks ++ rest ++ [mEOT] else p.outMarks
    ended := !p.wr
    drops := if p.lead then p.drops else [] }

/-! ## The copy trace (R190, R525) -/

/-- The lowest address of the elements that a port's traversal touches. -/
def Port.lowestElem (p : Port) (xf : Bool) : Nat :=
  (elemAddr p.desc ((List.range 6).map (fun d =>
    let n := match p.bcast xf with | some (b, _) => if b = d then 1 else p.len d | none => p.len d
    p.org d + if dStride p.desc d < 0 then n - 1 else 0))).1

/-- The lowest address that a port's traversal touches, scale bytes included. -/
def Port.lowest (p : Port) (xf : Bool) : Nat :=
  if fmtBfp (dFmt p.desc) then min (p.lowestElem xf) (scaleAddr p.desc ((List.range 6).map p.org)) else p.lowestElem xf

/-- The bytes that a destination stores when its traversal is written whole (R185). -/
def Port.storedBytes (pn : Nat) (p : Port) (xf : Bool) : Nat := writeCount (p.writeAll 0 pn xf (fun _ => some 0) (fun _ => 0)).1

/-- A trace record (R190). -/
def traceRec (time : Word) (src dst n : Nat) (bar : Option Nat) (kind op ctx port : Nat) (seq : BitVec 16) : Nat :=
  time.toNat * 2 ^ 192 + src % 2 ^ 48 * 2 ^ 144 + dst % 2 ^ 48 * 2 ^ 96 + n % 2 ^ 32 * 2 ^ 64 + (bar.getD (2 ^ 22 - 1)) % 2 ^ 22 * 2 ^ 42
    + kind % 4 * 2 ^ 40 + op % 256 * 2 ^ 32 + ctx % 256 * 2 ^ 24 + port % 256 * 2 ^ 16 + seq.toNat

/-- The ring is enabled. -/
def Core.tracing (c : Core) : Bool := bit c.traceCtl 0

/-- A record appended to the ring, the oldest overwritten (R525). -/
def State.trace (s : State) (r : Nat) : State :=
  let c := s.core
  let a := bits c.traceCtl 39 12 * 4096 + 32 * (c.traceWptr.toNat % 2 ^ bits c.traceCtl 6 2)
  let s1 := if s.committed a && !fmrBal (s.fmr a) then (s.pokeBytes a (leBytes 32 r)).dirtyLines a 32 false else s
  s1.putCore { s1.core with traceWptr := s1.core.traceWptr + 1 }

/-- The barrier of a copy: field B. -/
def Inv.copyBar (v : Inv) : Option Nat := if v.o.b = 0 then none else some v.sb.toNat

/-- The source, the destination, the bytes and the destination port of a copy. -/
def copyShape (s : State) (v : Inv) : Nat × Nat × Nat × Nat :=
  let pa := s.port v.o.a.toNat
  let pd := s.port v.o.d.toNat
  match v.op with
  | 0x7B => (v.sa.toNat, v.sd.toNat, v.sc.toNat, v.o.uimm)
  | 0x7E => (v.sa.toNat, v.sd.toNat * 4096, 4096, v.o.uimm)
  | 0x7F => (v.sa.toNat * 4096, tagVpn (s.core.tag v.sa.toNat) * 4096, 4096, v.o.uimm)
  | 0x7D => (pa.lowest false, min (pd.lowest false) ((s.port v.o.c.toNat).lowest false),
      Port.storedBytes v.o.d.toNat pd false + Port.storedBytes v.o.c.toNat (s.port v.o.c.toNat) false, v.o.d.toNat)
  | op => (pa.lowest (op = 0x7C), pd.lowest (op = 0x7C), Port.storedBytes v.o.d.toNat pd (op = 0x7C), v.o.d.toNat)

/-- The copy asks for trace records and the ring takes them. -/
def traces (s : State) (v : Inv) : Bool := v.o.q.getLsbD 3 && v.op ≠ 0x8D && s.core.tracing

/-- A record of a copy of the kind given: n is the bytes that it stores. -/
def State.traceCopy (s : State) (v : Inv) (kind n : Nat) : State :=
  if traces s v then
    let (src, dst, _, port) := copyShape s v
    if kind ≠ 0 && n = 0 then s else s.trace (traceRec s.core.cycle src dst n v.copyBar kind v.op (ctxNum v.ctx) port v.seq)
  else s

/-- A copy receives its sequence number and makes its issue record, with the bytes of its whole traversal: which beats a later skip discards is not known yet (DESIGN CHOICE, log entry 55). -/
def State.stampCopy (s : State) (v : Inv) : State :=
  let n := s.core.copySeq
  let s1 := (s.putCore { s.core with copySeq := n + 1 }).putInv { v with seq := n }
  s1.traceCopy { v with seq := n } 0 (copyShape s v).2.2.1

/-! ## Issue (R185 to R189) -/

/-- A copy joins the queues of its ports, under an address space, with its issue record. -/
def issueCopy (s : State) (op : Nat) (o : Ops) (ports : List Nat) (asid : BitVec 9) (onIssue : State → Inv → State) : Eff :=
  if s.core.queueFull op ports then .block .queue s
  else
    let v := { s.newInv op o ports false with asid := asid }
    .next ((onIssue (s.addInv v) v).stampCopy v)

/-- The form's own breach, then that of the barrier (R185). -/
def copyChecks (s : State) (o : Ops) (own : Option TrapInfo) (port tensor : Nat) (issue : Eff) : Eff :=
  match own with
  | some e => .trap e s
  | none =>
    match barCheck s o.b port tensor with
    | some e => .trap e s
    | none => issue

/-- The first dimension in which extents differ. -/
def extDiff (a d : Nat → Nat) : Option Nat := (List.range 6).find? (fun i => a i ≠ d i)

/-- The byte ranges that a port's traversal spans, from their first byte to past their last: that of its elements and, of a BFP tensor, that of its scales. -/
def Port.spans (p : Port) (xf : Bool) : List (Nat × Nat) :=
  let n := fun (d : Nat) => match p.bcast xf with | some (b, _) => if b = d then 1 else p.len d | none => p.len d
  let hi := (elemAddr p.desc ((List.range 6).map (fun d => p.org d + if dStride p.desc d < 0 then 0 else n d - 1))).1
  let bfp := fmtBfp (dFmt p.desc)
  let w := if bfp then 4 * fmtBits (dFmt p.desc) else (fmtBits (dFmt p.desc) + 7) / 8
  (p.lowestElem xf, hi + w) ::
    if bfp then [(scaleAddr p.desc ((List.range 6).map p.org), scaleAddr p.desc ((List.range 6).map (fun d => p.org d + (n d - 1))) + 1)] else []

/-- The bytes of a port's elements, row by row, for the overlap rule of R167. -/
def Port.bytesTouched (p : Port) (xf : Bool) : List Nat :=
  (List.range (p.tiles xf)).flatMap (fun k => (List.range (dRows p.desc)).flatMap (fun r => (p.rowCoords xf k r).flatMap (fun c =>
    let a := (elemAddr p.desc c).1
    if fmtBfp (dFmt p.desc) then (List.range (4 * fmtBits (dFmt p.desc))).map (fun i => a + i) ++ [scaleAddr p.desc c]
    else (List.range ((fmtBits (dFmt p.desc) + 7) / 8)).map (fun i => a + i))))

/-- The lowest byte that both ports touch, in one space. -/
def overlapByte (a d : Port) (xf : Bool) : Option Nat :=
  if dSp a.desc ≠ dSp d.desc || !(a.spans xf).any (fun x => (d.spans xf).any (fun y => decide (x.1 < y.2 ∧ y.1 < x.2))) then none
  else
    let bd := d.bytesTouched xf
    ((a.bytesTouched xf).filter (fun x => bd.contains x)).foldl (fun m x => match m with | some y => some (min x y) | none => some x) none

/-- The issue checks of CPY and CPYT in order (R186). A fault of one port names that port and no tensor; one of both names D and its tensor (DESIGN CHOICE, log entry 55). -/
def copyBreach (s : State) (o : Ops) (xf : Bool) : Option TrapInfo :=
  let a := s.port o.a.toNat
  let d := s.port o.d.toNat
  let t := fun (c : BitVec 5) (sub : Nat) (a1 : Option Nat) => unitTrap c (some sub) a1 o.d.toNat d.tid.toNat 0
  if !a.streams false then some (portTrap cTidInvalid 0x20 o.a.toNat)
  else if !d.streams true then some (portTrap cTidInvalid 0x20 o.d.toNat)
  else
    match extDiff (a.ext xf) (d.ext xf) with
    | some i => some (t cTidInvalid 0x24 (some i))
    | none =>
      if a.engineFmt xf ≠ d.engineFmt xf then some (t cFmtMismatch 0x01 none)
      else if xf && (a.hasXform || d.hasXform) then (overlapByte a d xf).map (fun b => t cPortAlias 0x02 (some b))
      else none

/-- CPY (R186). -/
def execCpy (o : Ops) (s : State) : Host.Outcome State Fault Refusal :=
  runInstr o (fun t => copyChecks t o (copyBreach t o false) o.d.toNat (t.port o.d.toNat).tid.toNat
    (issueCopy t 0x7A o [o.a.toNat, o.d.toNat] t.curAsid (fun u _ => u))) s

/-- CPYT (R186). -/
def execCpyt (o : Ops) (s : State) : Host.Outcome State Fault Refusal :=
  runInstr o (fun t => copyChecks t o (copyBreach t o true) o.d.toNat (t.port o.d.toNat).tid.toNat
    (issueCopy t 0x7C o [o.a.toNat, o.d.toNat] t.curAsid (fun u _ => u))) s

/-- The dimension that C takes in place of dimension i. -/
def swap01 (i : Nat) : Nat := if i = 0 then 1 else if i = 1 then 0 else i

/-- The issue checks of CPYQ in order (R187), then that of a transforming copy (R164, R167): CPYQ sets QDUAL on its ports. The 0x20 of ports that are not distinct names port C with its tensor, that of one port names it alone (DESIGN CHOICE, log entry 55). -/
def dualBreach (s : State) (o : Ops) : Option TrapInfo :=
  let pa := s.port o.a.toNat
  let pd := s.port o.d.toNat
  let pc := s.port o.c.toNat
  let t := fun (c : BitVec 5) (sub : Nat) (a1 : Option Nat) (pn : Nat) (edge : Nat) => unitTrap c (some sub) a1 pn (s.port pn).tid.toNat edge
  if !pa.streams false then some (portTrap cTidInvalid 0x20 o.a.toNat)
  else if !pd.streams true then some (portTrap cTidInvalid 0x20 o.d.toNat)
  else if !pc.streams true then some (portTrap cTidInvalid 0x20 o.c.toNat)
  else if dCols pa.desc ≠ 32 || dRows pa.desc ≠ 32 then some (t cTidInvalid 0x21 none o.a.toNat 0)
  else if pa.hasXform then some (t cTidInvalid 0x21 none o.a.toNat 0)
  else if pd.hasXform then some (t cTidInvalid 0x21 none o.d.toNat 0)
  else if pc.hasXform then some (t cTidInvalid 0x21 none o.c.toNat 0)
  else if 3 ≤ dFmt pa.desc then some (t cFmtMismatch 0x03 none o.a.toNat 0)
  else if !fmtBfp (dFmt pd.desc) then some (t cFmtMismatch 0x03 none o.d.toNat 0)
  else if !fmtBfp (dFmt pc.desc) then some (t cFmtMismatch 0x03 none o.c.toNat 0)
  else
    match extDiff (pa.ext false) (pd.ext false) with
    | some i => some (t cTidInvalid 0x24 (some i) o.d.toNat 0)
    | none =>
      match extDiff (fun i => pa.ext false (swap01 i)) (pc.ext false) with
      | some i => some (t cTidInvalid 0x24 (some i) o.c.toNat 0)
      | none =>
        if pd.kExtent ≠ 0 && dBlocks pd.desc ≠ (pd.kExtent.toNat + 31) / 32 then some (t cFmtMismatch 0x04 (some pd.kExtent.toNat) o.d.toNat pd.edge.toNat)
        else if pc.kExtent ≠ 0 && dBlocks pc.desc ≠ (pc.kExtent.toNat + 31) / 32 then some (t cFmtMismatch 0x04 (some pc.kExtent.toNat) o.c.toNat pc.edge.toNat)
        else if hasRepeat [o.a.toNat % 8, o.d.toNat % 8, o.c.toNat % 8] then some (t cTidInvalid 0x20 none o.c.toNat 0)
        else
          match overlapByte pa pd false, overlapByte pa pc false with
          | some b, _ => some (t cPortAlias 0x02 (some b) o.d.toNat 0)
          | none, some b => some (t cPortAlias 0x02 (some b) o.c.toNat 0)
          | none, none => none

/-- CPYQ (R187). -/
def execCpyq (o : Ops) (s : State) : Host.Outcome State Fault Refusal :=
  runInstr o (fun t => copyChecks t o (dualBreach t o) o.d.toNat (t.port o.d.toNat).tid.toNat
    (issueCopy t 0x7D o [o.a.toNat, o.d.toNat, o.c.toNat] t.curAsid (fun u _ => u))) s

/-- The issue checks of CPYS in order (R188). -/
def linearBreach (s : State) (o : Ops) : Option TrapInfo :=
  let pn := o.uimm
  let n := (s.getS o.c).toNat
  let bad := fun (sp : Bool) (a : Nat) => !sp && vaLimit < a + n
  let out := fun (sp : Bool) (a : Nat) => if sp && n ≠ 0 then spFlt a n else none
  let ss := o.q.getLsbD 0
  let ds := o.q.getLsbD 1
  if (s.port pn).bound then some (portTrap cTidInvalid 0x23 pn)
  else if 0x7FFFFFFF < n || (n ≠ 0 && (bad ss (s.getS o.a).toNat || bad ds (s.getS o.d).toNat)) then some (unitTrap cTidInvalid (some 0x22) (some n) pn 0xFF 0)
  else
    match out ss (s.getS o.a).toNat, out ds (s.getS o.d).toNat with
    | some f, _ => some (unitTrap cScratchRange (some 0) (some f.addr) pn 0xFF 0)
    | none, some f => some (unitTrap cScratchRange (some 0) (some f.addr) pn 0xFF 0)
    | none, none => none

/-- CPYS (R188). -/
def execCpys (o : Ops) (s : State) : Host.Outcome State Fault Refusal :=
  runInstr o (fun t => copyChecks t o (linearBreach t o) o.uimm 0xFF (issueCopy t 0x7B o [o.uimm] t.curAsid (fun u _ => u))) s

/-- The issue checks of CPYR (R189). -/
def slotReadBreach (s : State) (o : Ops) : Option TrapInfo :=
  let i := (s.getS o.d).toNat
  let a := (s.getS o.a).toNat
  if (s.port o.uimm).bound then some (portTrap cTidInvalid 0x23 o.uimm)
  else if 1024 ≤ i then some (unitTrap cScratchRange (some 1) (some i) o.uimm 0xFF 0)
  else if a % 4096 ≠ 0 then some (unitTrap cAlign none (some a) o.uimm 0xFF 0)
  else if tagV (s.core.tag i) || tagBusy (s.core.tag i) then some (unitTrap cScratchRange (some 2) (some i) o.uimm 0xFF 0)
  else none

/-- CPYR's entry at issue and at commit (R189). -/
def slotEntry (v : Inv) (busy : Bool) : Word := tagOf (!busy) busy false false v.ctx v.asid (bits v.sa 47 12)

/-- CPYR (R189). -/
def execCpyr (o : Ops) (s : State) : Host.Outcome State Fault Refusal :=
  runInstr o (fun t => copyChecks t o (slotReadBreach t o) o.uimm 0xFF
    (issueCopy t 0x7E o [o.uimm] t.curAsid (fun u v => u.putCore (u.core.putTag v.sd.toNat (slotEntry v true))))) s

/-- The issue checks of CPYW (R189). -/
def slotWriteBreach (s : State) (o : Ops) : Option TrapInfo :=
  let i := (s.getS o.a).toNat
  if (s.port o.uimm).bound then some (portTrap cTidInvalid 0x23 o.uimm)
  else if 1024 ≤ i then some (unitTrap cScratchRange (some 1) (some i) o.uimm 0xFF 0)
  else if !tagV (s.core.tag i) then some (unitTrap cScratchRange (some 3) (some i) o.uimm 0xFF 0)
  else none

/-- BUSY of a slot set. -/
def Core.busySlot (c : Core) (i : Nat) : Core := c.putTag i (c.tag i ||| (1#64 <<< 62))

/-- CPYW (R189): the page is the one that the slot's entry names, in the entry's address space. -/
def execCpyw (o : Ops) (s : State) : Host.Outcome State Fault Refusal :=
  runInstr o (fun t => copyChecks t o (slotWriteBreach t o) o.uimm 0xFF
    (issueCopy t 0x7F o [o.uimm] (tagAsid (t.core.tag (t.getS o.a).toNat)) (fun u v => u.putCore (u.core.busySlot v.sa.toNat)))) s

/-! ## The end of a copy (R185 to R191) -/

/-- The commit of a copy, with its trace records. -/
def State.commitCopy (s : State) (v : Inv) (port : Nat) (ws : List PWrite) (flags : BitVec 16) (after : State → State) : State :=
  s.commit v ⟨ws, v.copyBar, writeCount ws, flags, fun t => after ((t.traceCopy v 1 (writeCount ws)).traceCopy v 2 (writeCount ws)), .copyEnd port⟩

/-- CPY and CPYT end: every element of A's traversal stands at its coordinate of D's. -/
def endCpy (s : State) (v : Inv) (xf : Bool) : State :=
  let a := v.o.a.toNat
  let d := v.o.d.toNat
  match readSource s v a xf with
  | .error t => t
  | .ok (x, w, s1) =>
    let p := s1.port d
    let r := p.writeAll s1.free d xf (fun c => x.codes.getD (p.linear xf 1 c) none) (fun c => x.scales.getD (p.linear xf 32 c) 0)
    ({ s1 with free := s1.free + if p.xTranspose then dCols p.desc * p.tiles xf else 0 } : State).commitCopy w d r.1 (x.flags ||| r.2)
      (fun t => (t.putPort a (t.port a).atEnd).putPort d (t.port d).atEnd)

/-- CPYQ ends: row blocks to D, column blocks to C (R165). Its copy end is that of port D alone, where R136 has it stand (DESIGN CHOICE, log entry 60). -/
def endCpyq (s : State) (v : Inv) : State :=
  let a := v.o.a.toNat
  let d := v.o.d.toNat
  let c := v.o.c.toNat
  match readSource s v a false with
  | .error t => t
  | .ok (x, w, s1) =>
    let pa := s1.port a
    let mode := BitVec.ofNat 5 (dFmt pa.desc + if v.o.q.getLsbD 0 then 16 else 0)
    let code := fun (l : List Nat) => x.codes.getD (pa.linear false 1 l) none
    let r := Port.writeAll 0 d { s1.port d with xQrow := some mode } true code (fun _ => 0)
    let q := Port.writeAll 0 c { s1.port c with xQrow := some mode } true (fun l => code ((List.range 6).map (fun i => l.getD (swap01 i) 0))) (fun _ => 0)
    s1.commitCopy w d (r.1 ++ q.1) (x.flags ||| r.2 ||| q.2)
      (fun t => ((t.putPort a (t.port a).atEnd).putPort d (t.port d).atEnd).putPort c (t.port c).atEnd)

/-- The source of a copy through an unbound port: whether it is the scratchpad, its address or offset, and its bytes. -/
def Inv.linearSource (v : Inv) : Bool × Nat × Nat :=
  match v.op with
  | 0x7B => (v.o.q.getLsbD 0, v.sa.toNat, v.sc.toNat)
  | 0x7E => (false, v.sa.toNat, 4096)
  | _ => (true, v.sa.toNat * 4096, 4096)

/-- What a copy through an unbound port has read. -/
def Inv.bytesRead (v : Inv) : List Byte := v.beats.flatMap (fun e => e.2.bytes)

/-- The next piece of such a copy's source read, up to the end of a page (R132, R188, R189); or the state in which it starves. -/
def State.linearPiece (s : State) (v : Inv) : Except State (Inv × State) :=
  let x := v.linearSource
  let done := v.bytesRead.length
  let a := x.2.1 + done
  match (if x.1 then none else eaFlt (BitVec.ofNat 64 a) 1) with
  | some f => .error (s.starveAt v v.o.uimm f noTile)
  | none =>
    match tensorBytes s v.o.uimm (s.readerOf v) x.1 a (min (x.2.2 - done) (4096 - a % 4096)) with
    | .error (f, t) => .error (t.starveAt v v.o.uimm f noTile)
    | .ok (bs, t) => .ok ({ v with beats := v.beats ++ [(v.o.uimm, ⟨bs, [], [], 0, 0, 0⟩)] }, t)

/-- The rest of such a copy's source read. -/
def State.linearAll (fuel : Nat) (s : State) (v : Inv) : Except State (Inv × State) :=
  match fuel with
  | 0 => .ok (v, s)
  | f + 1 =>
    if v.linearSource.2.2 ≤ v.bytesRead.length then .ok (v, s)
    else
      match s.linearPiece v with
      | .error t => .error t
      | .ok (w, t) => State.linearAll f t w

/-- The pieces of such a copy's source, and one more. -/
def Inv.linearFuel (v : Inv) : Nat := v.linearSource.2.2 / 4096 + 2

/-- The running copy through an unbound port that has more to read. -/
def State.linearOn (s : State) (pn : Nat) : Option Inv :=
  s.core.invs.find? (fun v => v.linear && v.st = .running && v.ports.contains pn && decide (v.bytesRead.length < v.linearSource.2.2))

/-- CPYS ends. -/
def endCpys (s : State) (v : Inv) : State :=
  match s.linearAll v.linearFuel v with
  | .error t => t
  | .ok (w, t) =>
    t.commitCopy w v.o.uimm (if v.sc = 0 then [] else [⟨v.o.uimm, v.o.q.getLsbD 1, v.sd.toNat, wholeBytes w.bytesRead, noTile, none⟩]) 0 (fun t => t)

/-- CPYR ends: the page is in the slot and the tag is valid, in one step. -/
def endCpyr (s : State) (v : Inv) : State :=
  match s.linearAll v.linearFuel v with
  | .error t => t
  | .ok (w, t) =>
    t.commitCopy w v.o.uimm [⟨v.o.uimm, true, v.sd.toNat * 4096, wholeBytes w.bytesRead, noTile, none⟩] 0
      (fun t => t.putCore (t.core.putTag v.sd.toNat (slotEntry v false)))

/-- CPYW ends: the slot is in its page, clean; BUSY stays while another copy of the slot is in flight (R189). -/
def endCpyw (s : State) (v : Inv) : State :=
  let i := v.sa.toNat
  match s.linearAll v.linearFuel v with
  | .error t => t
  | .ok (w, t) =>
    t.commitCopy w v.o.uimm [⟨v.o.uimm, false, tagVpn (s.core.tag i) * 4096, wholeBytes w.bytesRead, noTile, none⟩] 0
      (fun t => t.putCore (t.core.putTag i (t.core.tag i &&& ~~~((if t.core.slotShared v then 1#64 else 3#64) <<< 61))))

/-! ## Circuits (R168, R169, R200, R201, R514 to R516) -/

/-- What an entry that no image wrote reads as in the model: no entry has its reserved bits set. -/
abbrev noCircuit : BitVec 128 := BitVec.allOnes 128

/-- An end of a circuit as one core sees it. -/
structure CircEnd where
  kind : Nat
  port : Nat
  farCore : Nat
  farPort : Nat
  link : Nat
  win : Nat
  off : Nat
  deriving DecidableEq, Repr

/-- The end that a core has of circuit n of its table (R514). -/
def Core.circEnd (c : Core) (coreId n : Nat) : Option CircEnd :=
  let e := SMap.get noCircuit c.circuits n
  let f := fun (lo w : Nat) => e.toNat / 2 ^ lo % 2 ^ w
  if e = noCircuit then none
  else if f 39 9 = coreId then some ⟨f 0 2, f 6 3, f 9 9, f 18 3, f 24 4, f 28 4, f 48 48⟩
  else if f 0 2 = 0 && f 9 9 = coreId then some ⟨0, f 18 3, f 39 9, f 6 3, 0, 0, 0⟩
  else some ⟨f 0 2, 8, 0, 0, 0, 0, 0⟩

/-- A window of a link (R515). -/
def State.window (s : State) (link win : Nat) : BitVec 128 := SMap.get 0 s.hub.relfel (16 * link + win)

/-- The window stops a KIND 2 transfer before it begins (R515). -/
def windowShut (w : BitVec 128) (vf : Option Nat) (sends : Bool) : Bool :=
  !w.getLsbD 0 || vf ≠ some (w.toNat / 2 ^ 16 % 256) || !w.getLsbD (if sends then 2 else 1)

/-- The bytes of a window. -/
def windowBytes (w : BitVec 128) : Nat := (w.toNat / 2 ^ 36 % 2 ^ 28 + 1) * 4096

/-- A CIRCUIT fault: KAUX1 the circuit's number (R173). It names the port, and no tensor though one is bound, as a CIRC's barrier faults do (DESIGN CHOICE, log entry 60). -/
def circTrap (sub n port : Nat) : TrapInfo := unitTrap cCircuit (some sub) (some n) port 0xFF 0

/-- The issue checks of CIRC (R200, R515). -/
def circBreach (s : State) (o : Ops) (n : Nat) : Option TrapInfo :=
  let pn := o.d.toNat
  let p := s.port pn
  match s.core.circEnd s.coreId n with
  | none => some (circTrap 1 n pn)
  | some e =>
    if e.port ≠ pn || !(p.bound && p.mode = 0 && dSp p.desc) then some (circTrap 2 n pn)
    else if p.circLost then some (circTrap 3 n pn)
    else if e.kind = 2 && windowShut (s.window e.link e.win) (s.vfOf s.core.cur) (!p.wr) then some (circTrap 3 n pn)
    else none

/-- The circuit that CIRC names: S[A] + Imm. -/
def circNumber (a : Word) (o : Ops) : Nat := a.toNat + o.uimm

/-- CIRC (R200). -/
def execCirc (o : Ops) (s : State) : Host.Outcome State Fault Refusal :=
  runInstr o (fun t => copyChecks t o (circBreach t o (circNumber (t.getS o.a) o)) o.d.toNat 0xFF (t.issue 0x8D o [o.d.toNat] false)) s

/-- The end that a CIRC invocation serves. -/
def Core.invEnd (c : Core) (coreId : Nat) (v : Inv) : Option CircEnd := c.circEnd coreId (circNumber v.sa v.o)

/-- The running CIRC of a port. -/
def Core.circOn (c : Core) (p : Nat) : Option Inv := c.invs.find? (fun v => v.op = 0x8D && v.st = .running && v.ports.contains p)

/-- A CIRC ends: its barrier takes the bytes sent, for a sender, and the copy end of its port is counted. -/
def State.endCirc (s : State) (v : Inv) (n : Nat) : State := s.commit v ⟨[], v.copyBar, n, 0, fun t => t, .copyEnd v.o.d.toNat⟩

/-- A CIRC that has written a window ends: its barrier arrival is a release at .sys (R516). -/
def State.endWindow (s : State) (v : Inv) (n : Nat) : State :=
  let t := s.endCirc v n
  t.releaseBy (s.partyInv v) 4 false (s.endKeys v ++ t.commitKeys s.core v.copyBar [])

/-- The bytes that a sender has sent, scale bytes included (R185). -/
def Inv.sent (v : Inv) : Nat := v.beats.foldl (fun n e => n + e.2.bytes.length + e.2.scales.length) 0

/-- A sender's next symbols: a beat with its marks, or EOT at the end of its traversal; none while its generator is stopped. A CIRC on a port whose traversal has ended sends EOT alone: it does not begin it again (DESIGN CHOICE, log entry 60). -/
def State.nextSymbols (s : State) (v : Inv) : List CircuitSymbol × State :=
  let pn := v.o.d.toNat
  let p := s.port pn
  match s.takeBeat (2 * (p.fifo.length + p.drops.length) + 3) v pn with
  | .stopped t => ([], t.putInv { v with st := .starved })
  | .waits t => ([], t)
  | .dry t => ([.mark mEOT], t)
  | .beat b t => (.beat b.bytes b.scales :: b.marks.map .mark, t.putInv { v with beats := v.beats ++ [(pn, b)] })

/-- The far CIRC of a receiver, on this module, when its port sends: its core and invocation. -/
def State.farCirc (s : State) (e : CircEnd) (pn : Nat) : Option (Nat × Inv) :=
  let c := s.coreOf e.farCore
  match c.circOn e.farPort with
  | none => none
  | some w =>
    match c.invEnd e.farCore w with
    | some g => if g.kind = 0 && g.farCore = s.coreId && g.farPort = pn && !(SMap.get Port.reset c.ports e.farPort).wr then some (e.farCore, w) else none
    | none => none

/-- A receiver's invocation without a symbol at hand takes the next from its far end, whose read of it the receiver joins (R168); at EOT the far end's invocation ends (R200). -/
def State.refill (s : State) (v : Inv) (e : CircEnd) (pn : Nat) : State :=
  let me := s.coreId
  match s.farCirc e pn with
  | none => s
  | some (far, w) =>
    let r := (s.focus far).nextSymbols w
    let t := if r.1 = [.mark mEOT] then (r.2.atRank w.rank).endCirc w w.sent else r.2
    let key := invKeys far w.ctx 3 0
    let u := ((t.releaseBy (t.partyInv w) 4 false [(key.1 + w.id, 1)]).focus me).acquireBy (s.partyInv v) 4 [(key.1 + w.id, 1)]
    u.putPort pn { u.port pn with circ := (u.port pn).circ ++ r.1 }

/-- A beat, the head symbol of the port's circuit, commits on arrival (R168, R200, R201), its barrier arrival first (R135); or it ends the invocation with CIRCUIT 0x04 or BARRIER_OVERFLOW. A row that breaks R149 stops the generator before the beat, and under a drain the beat is discarded (R15). -/
def State.landBeat (s0 : State) (v : Inv) (e : CircEnd) (bs ss : List Byte) : State :=
  let pn := v.o.d.toNat
  let p := s0.port pn
  let s := s0.putPort pn { p with circ := p.circ.drop 1 }
  let n := circNumber v.sa v.o
  let past := decide (windowBytes (s.window e.link e.win) < e.off + (p.cursor + 1) * p.beatBytes true)
  let all := bs ++ ss
  if all.length ≠ p.beatBytes true || p.tiles true ≤ p.cursor || (e.kind = 2 && past) then s.discard v (circTrap 4 n pn) noTile
  else if s.drains v then s.putPort pn { s.port pn with cursor := p.cursor + 1 }
  else
    let r := p.writeTile s.free pn true p.cursor (all.take (p.tileBytes true)) (all.drop (p.tileBytes true))
    match r.1.findSome? (·.breach) with
    | some a => (s0.stopPort pn ⟨cAlign, 0, a⟩ p.cursor (s.readerOf v)).putInv { v with st := .starved }
    | none =>
      match s.arriveAt v.copyBar (writeCount r.1) with
      | none => s.discard v (unitTrap cBarrierOverflow none none pn 0xFF 0) noTile
      | some t =>
        let s0' := (applyWrites t v (r.1.map (fun w => (w, [])))).addFlags r.2
        let s1 := s0'.putCore (s0'.core.fired [pn])
        let s2 : State := { (s1.putPort pn { s1.port pn with cursor := p.cursor + 1 }).releaseBy (s1.partyInv v) 2 false (s1.commitKeys s.core v.copyBar r.1) with free := s1.free + p.tileScales true }
        if e.kind = 2 && p.cursor + 1 = p.tiles true then s2.endCirc v 0 else s2

/-- The head symbol of a receiver's circuit takes effect. -/
def State.landSymbol (s : State) (v : Inv) (e : CircEnd) : State :=
  let pn := v.o.d.toNat
  let p := s.port pn
  match p.circ with
  | [] => s
  | .beat bs ss :: _ => s.landBeat v e bs ss
  | .mark m :: t => let s1 := s.putPort pn { p with circ := t }; if m = mEOT then s1.endCirc v 0 else if m = mCFG then s1.putCore (s1.core.startInterval pn) else s1
  | .refused :: t => (s.putPort pn { p with circ := t }).discard v (circTrap 3 (circNumber v.sa v.o) pn) noTile

/-- The beats that stand in a circuit. -/
def circBeats (l : List CircuitSymbol) : Nat := l.countP (fun x => match x with | .beat _ _ => true | _ => false)

/-- A symbol of a peer has room at a receiving end, and a beat of a window has been asked for. -/
def State.takesSymbol (s : State) (v : Inv) (e : CircEnd) (x : CircuitSymbol) : Bool :=
  let pn := v.o.d.toNat
  let p := s.port pn
  match x with
  | .beat _ _ => decide (circBeats p.circ < 32 + p.input) && (e.kind ≠ 2 || decide (p.cursor + circBeats p.circ < v.asked))
  | _ => true

/-- CIRCUIT_BEAT_ARRIVAL (R168): one symbol reaches the port. A symbol from a peer enters the port's circuit, while its data queue and its link have room (R36, R159), and of a window only what was asked for; an EOT that a peer returns to a sending end that has sent its own tells that it has accepted the transfer, a refusal ends a window transfer with CIRCUIT 0x03 (R515). -/
def State.circArrival (s : State) (pn : Nat) (fromPeer : Option CircuitSymbol) : State :=
  match s.core.circOn pn with
  | none => s
  | some v =>
    match s.core.invEnd s.coreId v with
    | none => s
    | some e =>
      if !(s.port pn).wr then
        if e.kind ≠ 0 && fromPeer = some (.mark mEOT) then (if !v.eotSent then s else if e.kind = 2 then s.endWindow v v.sent else s.endCirc v v.sent)
        else if e.kind = 2 && fromPeer = some .refused then s.discard v (circTrap 3 (circNumber v.sa v.o) pn) noTile
        else s
      else
        let s1 := match fromPeer with
          | some x => if e.kind = 0 || !s.takesSymbol v e x then s else s.putPort pn { s.port pn with circ := (s.port pn).circ ++ [x] }
          | none => if e.kind = 0 && (s.port pn).circ.isEmpty then s.refill v e pn else s
        s1.landSymbol v e

/-- CIRCUIT_BEAT_ARRIVAL (R168), the last of a cycle (R142). -/
def execCircuitBeatArrival (p : BitVec 3) (fromPeer : Option CircuitSymbol) (s : State) : Host.Outcome State Fault Refusal :=
  .next ((s.atRank arrivalRank).circArrival p.toNat fromPeer)

/-- The address in the peer of byte n of a window transfer (R514, R515). -/
def windowAddr (w : BitVec 128) (e : CircEnd) (n : Nat) : Nat := w.toNat / 2 ^ 64 % 2 ^ 28 * 4096 + e.off + n

/-- A message goes out over a link. -/
def State.sendLink (s : State) (link : Nat) (l : List PeerMsg) : State := { s with hub := { s.hub with peerOut := s.hub.peerOut ++ l.map (fun x => (link, x)) } }

/-- What a sending end of KIND 1 or 2 sends of some symbols, `done` bytes being sent: each symbol to its port, or the bytes of the beats to their place in the window, of a beat the elements before the scales (DESIGN CHOICE, log entry 60). -/
def peerMsgs (w : BitVec 128) (e : CircEnd) (done : Nat) (l : List CircuitSymbol) : List PeerMsg :=
  if e.kind = 2 then l.filterMap (fun x => match x with | .beat bs ss => some (.write (windowAddr w e done) (bs ++ ss)) | _ => none)
  else l.map (fun x => .stream e.farCore e.farPort x)

/-- A receiving end may ask its window for another beat: its traversal has one, and its queue has room. -/
def State.mayAsk (s : State) (v : Inv) (_ : CircEnd) : Bool :=
  let p := s.port v.o.d.toNat
  decide (v.asked < p.tiles true) && decide (v.asked < p.cursor + 32 + p.input) && !s.core.halted

/-- A receiving end asks its window for the bytes of its next beat; bytes beyond the window end it once the beats before them have landed (R515, R516). -/
def State.askPeer (s : State) (v : Inv) (e : CircEnd) : State :=
  let pn := v.o.d.toNat
  let p := s.port pn
  let w := s.window e.link e.win
  let n := p.beatBytes true
  if windowBytes w < e.off + (v.asked + 1) * n then
    if v.asked ≤ p.cursor then s.discard v (circTrap 4 (circNumber v.sa v.o) pn) noTile else s
  else (s.putInv { v with asked := v.asked + 1 }).sendLink e.link [.read (windowAddr w e (v.asked * n)) n]

/-- A sending end towards a peer sends its next beat over the link; a byte beyond the window ends it (R514, R515). -/
def State.sendPeer (s : State) (v : Inv) (e : CircEnd) : State :=
  let pn := v.o.d.toNat
  let n := circNumber v.sa v.o
  if e.kind = 2 && windowBytes (s.window e.link e.win) < e.off + v.sent + (s.port pn).beatBytes true && (s.port pn).hasBeat v.id then
    s.discard v (circTrap 4 n pn) noTile
  else
    let r := s.nextSymbols v
    let t := if r.1 = [.mark mEOT] then r.2.putInv { v with eotSent := true } else r.2
    t.sendLink e.link (peerMsgs (s.window e.link e.win) e v.sent r.1)

/-- One end of a circuit is lost: its transfer in progress faults with CIRCUIT 0x03 (R169); what it committed stays. -/
def State.loseEnd (s : State) (pn : Nat) : State :=
  let s1 := s.putPort pn { s.port pn with circLost := true, circ := [] }
  match s1.core.invs.find? (fun v => v.op = 0x8D && v.ports.contains pn && v.st ≠ .discarded) with
  | none => s1
  | some v => s1.discard { v with beats := [] } (circTrap 3 (circNumber v.sa v.o) pn) noTile

/-- The far ends, within the module, of the circuits of a port of the core looked at, by the circuit tables of the cores (R169). -/
def State.farEnds (s : State) (pn : Nat) : List (Nat × Nat) :=
  (((s.coreId, s.core) :: s.others).flatMap (fun c => c.2.circuits.filterMap (fun n =>
    match c.2.circEnd c.1 n.1 with
    | some e =>
      if e.kind ≠ 0 then none
      else if c.1 = s.coreId && e.port = pn then some (e.farCore, e.farPort)
      else if e.farCore = s.coreId && e.farPort = pn then some (c.1, e.port)
      else none
    | none => none))).eraseDups

/-- CIRCUIT_LOSS (R169): a circuit's end is lost, and within the module its far end with it. -/
def State.circLoss (s : State) (pn : Nat) : State :=
  let me := s.coreId
  ((s.farEnds pn).foldl (fun (t : State) e => (t.focus e.1).loseEnd e.2) (s.loseEnd pn)).focus me

/-- The circuits of a port are rebuilt, at both ends within the module (R169): CTXLOAD, or a new image. -/
def State.rebuildCirc (s : State) (pn : Nat) : State :=
  let me := s.coreId
  ((s.farEnds pn ++ [(me, pn)]).foldl (fun (t : State) e => let u := t.focus e.1; u.putPort e.2 { u.port e.2 with circLost := false }) s).focus me

/-- CIRCUIT_LOSS (R169). -/
def execCircuitLoss (p : BitVec 3) (s : State) : Host.Outcome State Fault Refusal := .next (s.circLoss p.toNat)

/-- The ports of a core whose circuits use a link. -/
def Core.linkPorts (c : Core) (coreId link : Nat) : List Nat :=
  c.circuits.filterMap (fun e => match c.circEnd coreId e.1 with
    | some x => if x.kind ≠ 0 && x.port < 8 && x.link = link then some x.port else none
    | none => none)

/-- RELFEL_LINK_FAILURE (R517). -/
def execRelfelLinkFailure (link : BitVec 4) (s : State) : Host.Outcome State Fault Refusal :=
  let me := s.coreId
  let ids := s.coreId :: s.others.map (·.1)
  let s1 := ids.foldl (fun t i => let u := t.focus i; (u.core.linkPorts i link.toNat).foldl (fun w p => w.loseEnd p) u) s
  .next ((s1.focus me).margin 0 0x08 0 0 (link.setWidth 64) 0x1FF 15 false)

end Sys2Proof.Machine
end

