-- ==== Sys2Proof/Machine/Sha.lean ====
section
/-! DEFINITION. SHA-384 over bytes, which the manual names for images and measurements (R497, R519, R522; log entry 41). -/

namespace Sys2Proof.Machine

/-- The greatest x with x^k at most n, bit by bit from bit m - 1 down. -/
def iroot (k n : Nat) (m : Nat) (x : Nat) : Nat :=
  match m with
  | 0 => x
  | b + 1 => let y := x + 2 ^ b; iroot k n b (if y ^ k ≤ n then y else x)

/-- The first primes: 80 of them serve the round constants. -/
def shaPrimes : List Nat := (List.range 410).filter (fun n => 1 < n && (List.range n).all (fun d => d < 2 || n % d ≠ 0))

/-- The round constants: the first 64 bits of the fraction of the cube roots of the first 80 primes. -/
def shaK : List (BitVec 64) := shaPrimes.map (fun p => BitVec.ofNat 64 (iroot 3 (p * 2 ^ 192) 68 0))

/-- The initial value: the first 64 bits of the fraction of the square roots of the 9th to the 16th prime. -/
def shaInit : List (BitVec 64) := ((shaPrimes.drop 8).take 8).map (fun p => BitVec.ofNat 64 (iroot 2 (p * 2 ^ 128) 68 0))

/-- The padded message: a 1 bit, zeros, and the length in bits as a 128-bit big-endian number. -/
def shaPad (bs : List (BitVec 8)) : List (BitVec 8) :=
  let n := bs.length
  bs ++ 0x80#8 :: List.replicate ((239 - n % 128) % 128) 0#8 ++ (leBytes 16 (8 * n)).reverse

/-- The message schedule, newest word first, extended by n words. -/
def shaExtend (n : Nat) (w : List (BitVec 64)) : List (BitVec 64) :=
  match n with
  | 0 => w
  | k + 1 =>
    let g := fun (i : Nat) => w.getD i 0
    let s0 := (g 14).rotateRight 1 ^^^ (g 14).rotateRight 8 ^^^ (g 14) >>> 7
    let s1 := (g 1).rotateRight 19 ^^^ (g 1).rotateRight 61 ^^^ (g 1) >>> 6
    shaExtend k ((g 15 + s0 + g 6 + s1) :: w)

/-- One round over the eight working words. -/
def shaRound (st : List (BitVec 64)) (kw : BitVec 64 × BitVec 64) : List (BitVec 64) :=
  match st with
  | [a, b, c, d, e, f, g, h] =>
    let t1 := h + (e.rotateRight 14 ^^^ e.rotateRight 18 ^^^ e.rotateRight 41) + ((e &&& f) ^^^ (~~~e &&& g)) + kw.1 + kw.2
    let t2 := (a.rotateRight 28 ^^^ a.rotateRight 34 ^^^ a.rotateRight 39) + ((a &&& b) ^^^ (a &&& c) ^^^ (b &&& c))
    [t1 + t2, a, b, c, d + t1, e, f, g]
  | _ => st

/-- Big-endian words of 8 bytes. -/
def shaWords (n : Nat) (bs : List (BitVec 8)) : List (BitVec 64) :=
  (List.range n).map (fun i => BitVec.ofNat 64 (leNat ((bs.drop (8 * i)).take 8).reverse))

/-- One block of 128 bytes. -/
def shaBlock (st : List (BitVec 64)) (b : List (BitVec 8)) : List (BitVec 64) :=
  let w := (shaExtend 64 (shaWords 16 b).reverse).reverse
  List.zipWith (· + ·) st ((shaK.zip w).foldl shaRound st)

/-- The blocks of a padded message, one after another. -/
def shaBlocks (n : Nat) (st : List (BitVec 64)) (bs : List (BitVec 8)) : List (BitVec 64) :=
  match n with
  | 0 => st
  | k + 1 => shaBlocks k (shaBlock st (bs.take 128)) (bs.drop 128)

/-- SHA-384: 48 bytes in the order in which they are written. -/
def sha384 (bs : List (BitVec 8)) : List (BitVec 8) :=
  let p := shaPad bs
  ((shaBlocks (p.length / 128) shaInit p).take 6).flatMap (fun w => (leBytes 8 w.toNat).reverse)

end Sys2Proof.Machine
end

