-- ==== Sys2Proof/Machine/Stream.lean ====
section
/-! DEFINITION. The elements of a port's stream in stream order, and elements put one after another into a write port's traversal (R151, R399, R402, R410). -/

namespace Sys2Proof.Machine

/-- The traversal coordinate of the element at a row and column of the tile as the engine sees it; TRANSPOSE2D swaps the two. -/
def Port.engineCoord (p : Port) (idx row col : Nat) : List Nat × Bool :=
  if p.xTranspose then p.coord true idx col row else p.coord true idx row col

/-- The tile rows in memory that break the row rule (R149), each with its lowest byte. -/
def Port.rowBreaches (p : Port) (idx : Nat) : List (Option Nat) :=
  (List.range (dRows p.desc)).map (fun i => p.rowBreach (p.rowCoords true idx i))

/-- The tensor coordinates of a tile's elements that lie in the traversal, in stream order, each with the breach of its row in memory. -/
def Port.tileCoords (p : Port) (idx : Nat) : List (List Nat × Option Nat) :=
  let n := dCols p.desc
  let rows := p.rowBreaches idx
  (List.range (n * dRows p.desc)).filterMap (fun e =>
    let c := p.engineCoord idx (e / n) (e % n)
    if c.2 then some (p.tensorCoord true c.1, (rows.getD (if p.xTranspose then e % n else e / n) none)) else none)

/-- The codes of a beat's elements that lie in the traversal, in stream order. -/
def Port.beatElems (p : Port) (b : Beat) : List Nat :=
  let n := dCols p.desc
  let es := elemsOf (fmtBits (p.engineFmt true)) (n * dRows p.desc) b.bytes
  (es.zip (List.range es.length)).filterMap (fun e => if (p.engineCoord b.idx (e.2 / n) (e.2 % n)).2 then some e.1 else none)

/-- The next beat of a port, with some of its elements taken already: where the next element stands. -/
structure Place where
  tile : Nat
  taken : Nat
  deriving DecidableEq, Repr

/-- Where a write port's next element stands. -/
def Port.place (p : Port) : Place := ⟨p.cursor, p.nBeats⟩

/-- The next tile of a write port none of whose elements is written. -/
def Port.nextTile (p : Port) : Nat := if p.nBeats = 0 then p.cursor else p.cursor + 1

/-- A write port whose next element stands at a place. -/
def Port.setPlace (p : Port) (x : Place) : Port := { p with cursor := x.tile, nBeats := x.taken }

/-- The stores of elements put one after another from a place on: the stores, the flags, the place after them, and the elements for which the traversal has no room. -/
def Port.placeElems (fuel : Nat) (pn : Nat) (p : Port) (x : Place) (es : List Nat) : List PWrite × BitVec 16 × Place × List Nat :=
  match fuel with
  | 0 => ([], 0, x, es)
  | f + 1 =>
    if es.isEmpty || p.tiles true ≤ x.tile then ([], 0, x, es)
    else
      let cs := (p.tileCoords x.tile).drop x.taken
      let r := (cs.zip es).foldl (fun (a : List PWrite × BitVec 16) e =>
        let w := p.writeRow pn true [e.1.1] [e.2] []
        (a.1 ++ w.1.map (fun y => { y with tile := x.tile, breach := e.1.2 }), a.2 ||| w.2)) ([], 0)
      let next : Place := if cs.length ≤ es.length then ⟨x.tile + 1, 0⟩ else ⟨x.tile, x.taken + es.length⟩
      let t := Port.placeElems f pn p next (es.drop cs.length)
      (r.1 ++ t.1, r.2 ||| t.2.1, t.2.2)

end Sys2Proof.Machine
end

