-- ==== Sys2Proof/Machine/VectorFn.lean ====
section
/-! DEFINITION. The functions of VFN and VGATE, correctly rounded (R375, R392): evaluated in fixed point between bounds 2^-400 apart, which decide the rounding; where they do not, the value is left to Config (log entry 4). -/

namespace Sys2Proof.Machine

/-! ## Fixed point with 700 fraction bits -/

/-- The fraction bits. -/
abbrev fxBits : Nat := 700

/-- 1.0. -/
abbrev fxOne : Int := 2 ^ 700

/-- A product. -/
def fxMul (a b : Int) : Int := a * b / fxOne

/-- A quotient. -/
def fxDiv (a b : Int) : Int := a * fxOne / b

/-- m × 2^e, signed. -/
def fxOf (neg : Bool) (m : Nat) (e : Int) : Int :=
  let v : Int := if 0 ≤ e + 700 then ((m * 2 ^ (e + 700).toNat : Nat) : Int) else ((m / 2 ^ (-e - 700).toNat : Nat) : Int)
  if neg then -v else v

/-- The exponential series from term n on. -/
def expSeries (fuel n : Nat) (r term : Int) : Int :=
  match fuel with
  | 0 => 0
  | f + 1 => term + expSeries f (n + 1) r (fxMul term r / (n + 1 : Nat))

/-- Σ x^(2k+1)/(2k+1), with the sign of every second term given: atanh x, or atan x. -/
def atanSeries (fuel k : Nat) (alt : Bool) (x2 pow : Int) : Int :=
  match fuel with
  | 0 => 0
  | f + 1 =>
    let t := pow / (2 * k + 1 : Nat)
    (if alt && k % 2 = 1 then -t else t) + atanSeries f (k + 1) alt x2 (fxMul pow x2)

/-- atanh of x with |x| ≤ 1/3. -/
def fxAtanh (x : Int) : Int := atanSeries 240 0 false (fxMul x x) x

/-- ln 2 = 2 atanh(1/3). -/
def fxLn2 : Int := 2 * fxAtanh (fxOne / 3)

/-- atan(1/n). -/
def fxAtanInv (n : Int) : Int := let x := fxOne / n; atanSeries 170 0 true (fxMul x x) x

/-- π = 16 atan(1/5) − 4 atan(1/239). -/
def fxPi : Int := 16 * fxAtanInv 5 - 4 * fxAtanInv 239

/-- e^x for |x| below 2^16: 2^k times the series of the rest. -/
def fxExp (x : Int) : Int :=
  let k := x / fxLn2
  let y := expSeries 170 0 (x - k * fxLn2) fxOne
  if 0 ≤ k then y * 2 ^ k.toNat else y / 2 ^ (-k).toNat

/-- ln f for f between 1 and 2. -/
def fxLn (f : Int) : Int := 2 * fxAtanh (fxDiv (f - fxOne) (f + fxOne))

/-- The series of sin (from term 1) or cos (from term 0). -/
def trigSeries (fuel n : Nat) (x2 term : Int) : Int :=
  match fuel with
  | 0 => 0
  | f + 1 => term + trigSeries f (n + 2) x2 (-(fxMul term x2) / ((n + 1) * (n + 2) : Nat))

/-- sin x, by the quarter turn nearest below. -/
def fxSin (x : Int) : Int :=
  let h := fxPi / 2
  let k := x / h
  let r := x - k * h
  let r2 := fxMul r r
  let s := trigSeries 90 1 r2 r
  let c := trigSeries 90 0 r2 fxOne
  match k % 4 with
  | 0 => s
  | 1 => c
  | 2 => -s
  | _ => -c

/-- Σ (−1)^n x^(2n+1) / (2^n n! (2n+1)). -/
def phiSeries (fuel n : Nat) (x2 term : Int) : Int :=
  match fuel with
  | 0 => 0
  | f + 1 => term / (2 * n + 1 : Nat) + phiSeries f (n + 1) x2 (-(fxMul term x2) / (2 * (n + 1) : Nat))

/-- The square root of a fixed-point number by bits. -/
def fxSqrt (x : Int) : Int := (isqrt 720 (x.toNat * 2 ^ 700) 0 : Nat)

/-- Φ(x), the standard normal distribution, for |x| ≤ 16. -/
def fxPhi (x : Int) : Int := fxOne / 2 + fxDiv (phiSeries 700 0 (fxMul x x) x) (fxSqrt (2 * fxPi))

/-! ## The rounding -/

/-- A value known within 2^-400 rounded to FP32, when both bounds agree. -/
def fxRound (fn : Nat) (x : BitVec 32) (v : Int) : Nat × BitVec 16 :=
  let w : Nat := 2 ^ 300
  let a := v.natAbs
  let lo := roundFin fp32 0 (decide (v < 0)) (a - w) (-700)
  let hi := roundFin fp32 0 (decide (v < 0)) (a + w) (-700)
  if w < a && lo = hi then lo
  else
    let r := Config.transcendental fn (x.setWidth 64)
    ((r.setWidth 32).toNat, r.extractLsb' 32 16)

/-- A nonzero value too small for FP32. -/
def fnTiny (neg : Bool) : Nat × BitVec 16 := roundFin fp32 0 neg 1 (-400)

/-- A value too large for FP32. -/
def fnHuge : Nat × BitVec 16 := roundFin fp32 0 false 1 400

/-- A value that differs from ±m × 2^e by far less than half its last place, towards zero. -/
def fnBelow (neg : Bool) (m : Nat) (e : Int) : Nat × BitVec 16 := roundFin fp32 0 neg (m * 2 ^ 64 - 1) (e - 64)

/-- The canonical NaN with its flags. -/
def fnNan (g : BitVec 16) : Nat × BitVec 16 := (nanBits fp32 false, g)

/-- 2^x (R375). -/
def fnExp2 (x : BitVec 32) : Nat × BitVec 16 :=
  match f32 x with
  | .nan _ => fnNan 0
  | .inf n => (if n then 0 else infBits fp32 false, 0)
  | .fin n m e =>
    let v := fxOf n m e
    if m = 0 then (0x3F800000, 0)
    else if 130 * fxOne ≤ v then fnHuge
    else if v ≤ -160 * fxOne then fnTiny false
    else if v % fxOne = 0 then roundFin fp32 0 false 1 (v / fxOne)
    else fxRound 0 x (fxExp (fxMul v fxLn2))

/-- log₂ x (R375). -/
def fnLog2 (x : BitVec 32) : Nat × BitVec 16 :=
  match f32 x with
  | .nan _ => fnNan 0
  | .inf n => if n then fnNan flagNV else (infBits fp32 false, 0)
  | .fin n m e =>
    if m = 0 then (infBits fp32 true, flagDZ)
    else if n then fnNan flagNV
    else
      let k := log2Rat m 1
      let f := fxOf false m (-k)
      let t := k + e
      if f = fxOne then (if t = 0 then (0, 0) else roundFin fp32 0 (decide (t < 0)) t.natAbs 0)
      else fxRound 1 x (t * fxOne + fxDiv (fxLn f) fxLn2)

/-- sin x (R375). -/
def fnSin (x : BitVec 32) : Nat × BitVec 16 :=
  match f32 x with
  | .nan _ => fnNan 0
  | .inf _ => fnNan flagNV
  | .fin n m e => if m = 0 then (zeroBits fp32 n, 0) else fxRound 2 x (fxSin (fxOf n m e))

/-- tanh x (R375). -/
def fnTanh (x : BitVec 32) : Nat × BitVec 16 :=
  match f32 x with
  | .nan _ => fnNan 0
  | .inf n => (if n then 0xBF800000 else 0x3F800000, 0)
  | .fin n m e =>
    let v := fxOf false m e
    if m = 0 then (zeroBits fp32 n, 0)
    else if 32 * fxOne ≤ v then fnBelow n 1 0
    else
      let y := fxExp (2 * v)
      let t := fxDiv (y - fxOne) (y + fxOne)
      fxRound 3 x (if n then -t else t)

/-- 1/(1 + e^−x) in fixed point. -/
def fxSigmoid (v : Int) : Int := fxDiv fxOne (fxOne + fxExp (-v))

/-- The logistic function (R375). -/
def fnSigmoid (x : BitVec 32) : Nat × BitVec 16 :=
  match f32 x with
  | .nan _ => fnNan 0
  | .inf n => (if n then 0 else 0x3F800000, 0)
  | .fin n m e =>
    let v := fxOf n m e
    if m = 0 then (0x3F000000, 0)
    else if 64 * fxOne ≤ v then fnBelow false 1 0
    else if v ≤ -160 * fxOne then fnTiny false
    else fxRound 4 x (fxSigmoid v)

/-- x Φ(x) (R375). -/
def fnGelu (x : BitVec 32) : Nat × BitVec 16 :=
  match f32 x with
  | .nan _ => fnNan 0
  | .inf n => (if n then zeroBits fp32 true else infBits fp32 false, 0)
  | .fin n m e =>
    let v := fxOf n m e
    if m = 0 then (zeroBits fp32 n, 0)
    else if 16 * fxOne ≤ v then fnBelow false m e
    else if v ≤ -16 * fxOne then fnTiny true
    else fxRound 5 x (fxMul v (fxPhi v))

/-- x/(1 + e^−x) (R375). -/
def fnSilu (x : BitVec 32) : Nat × BitVec 16 :=
  match f32 x with
  | .nan _ => fnNan 0
  | .inf n => (if n then zeroBits fp32 true else infBits fp32 false, 0)
  | .fin n m e =>
    let v := fxOf n m e
    if m = 0 then (zeroBits fp32 n, 0)
    else if 64 * fxOne ≤ v then fnBelow false m e
    else if v ≤ -160 * fxOne then fnTiny true
    else fxRound 6 x (fxMul v (fxSigmoid v))

/-- e^x, as the softmax of VGATE takes it (R392). -/
def fnExp (x : BitVec 32) : Nat × BitVec 16 :=
  match f32 x with
  | .nan _ => fnNan 0
  | .inf n => (if n then 0 else infBits fp32 false, 0)
  | .fin n m e =>
    let v := fxOf n m e
    if m = 0 then (0x3F800000, 0)
    else if 100 * fxOne ≤ v then fnHuge
    else if v ≤ -120 * fxOne then fnTiny false
    else fxRound 7 x (fxExp v)

/-- 2^24 × e^(d / 2^16) as a whole number, ties to even, for d ≤ 0 (R392). -/
def fnExpFix (d : Int) : Nat :=
  if 0 ≤ d then 2 ^ 24
  else if d < -0x200000 then 0
  else
    let v := fxExp (d * fxOne / 65536)
    let w : Nat := 2 ^ 300
    let near := fun (a : Nat) => (roundWhole 0 false a 1 (24 - 700)).1
    if near (v.natAbs - w) = near (v.natAbs + w) then near v.natAbs else (Config.transcendental 8 (BitVec.ofInt 64 d)).toNat % 2 ^ 25

/-- VFN by its function code (R375). -/
def vfn (q : Nat) (x : BitVec 32) : BitVec 32 × BitVec 16 :=
  toF32 (match q with
    | 0 => fnExp2 x
    | 1 => fnLog2 x
    | 2 => fnSin x
    | 3 => fnTanh x
    | 4 => fnSigmoid x
    | 5 => fnGelu x
    | _ => fnSilu x)

/-- 1/x (R375). -/
def fnRcp (x : BitVec 32) : BitVec 32 × BitVec 16 := toF32 (divVal fp32 0 (.fin false 1 0) (f32 x))

/-- 1/√x: one rounding of the exact value (R375). -/
def fnRsq (x : BitVec 32) : BitVec 32 × BitVec 16 :=
  toF32 (match f32 x with
    | .nan _ => fnNan 0
    | .inf n => if n then fnNan flagNV else (0, 0)
    | .fin n m e =>
      if m = 0 then (infBits fp32 n, flagDZ)
      else if n then fnNan flagNV
      else
        let odd := e % 2 ≠ 0
        let m1 := if odd then 2 * m else m
        let h := (if odd then e - 1 else e) / 2
        let q := 2 ^ 240 / m1
        let r := isqrt 130 q 0
        let exact := decide (r * r * m1 = 2 ^ 240)
        roundFin fp32 0 false (2 * r + if exact then 0 else 1) (-121 - h))

end Sys2Proof.Machine
end

