-- ==== Sys2Proof/Machine/Matrix.lean ====
section
/-! DEFINITION. The matrix engine: opcodes 0x90 to 0x9B (R338 to R362) and the order of its sums (R103 to R106). -/

namespace Sys2Proof.Machine

/-! ## Formats, K steps and groups (R340, R341) -/

/-- The K step of a B format. -/
def mxKstep (f : Nat) : Nat :=
  match f with
  | 1 | 2 => 32
  | 7 | 12 => 128
  | 11 => 96
  | 13 => 160
  | 14 => 256
  | _ => 64

/-- The bytes of a K-group of a B format. -/
def mxGroupBytes (f : Nat) : Nat := if fmtBfp f then 512 * fmtBits f + 128 else 512 * fmtBits f

/-- A format that B can have. -/
def mxBFormat (f : Nat) : Bool := f ≠ 0 && f ≠ 5 && f < 15

/-- The accumulator KIND of a pair of formats, INT when true; none for a pair that is not allowed. -/
def mxPair (fa fb : Nat) : Option Bool :=
  if (fa = 1 && fb = 1) || (fa = 2 && fb = 2) then some false
  else if (fa = 3 || fa = 4) && (fb = 3 || fb = 4) then some false
  else if fmtBfp fa && fmtBfp fb then some false
  else if (fa = 6 || fa = 7) && (fb = 6 || fb = 7) then some true
  else none

/-! ## Accumulators and slots as arrays (R338) -/

/-- An accumulator of the core. -/
def Core.acc (c : Core) (n : Nat) : Acc := SMap.get Acc.reset c.accs n
/-- An accumulator replaced. -/
def Core.putAcc (c : Core) (n : Nat) (a : Acc) : Core := { c with accs := SMap.set Acc.reset c.accs n a }
/-- A weight slot of the core. -/
def Core.wslot (c : Core) (n : Nat) : WSlot := SMap.get WSlot.reset c.wslots n
/-- A weight slot replaced. -/
def Core.putWslot (c : Core) (n : Nat) (w : WSlot) : Core := { c with wslots := SMap.set WSlot.reset c.wslots n w }

/-- Sparse data as an array. -/
def fillArray {α : Type} (n : Nat) (d : α) (m : SMap α) : Array α := m.foldl (fun a e => a.setIfInBounds e.1 e.2) (Array.replicate n d)

/-- An array as sparse data in canonical form. -/
def sparse {α : Type} [DecidableEq α] (d : α) (a : Array α) : SMap α :=
  (List.range a.size).filterMap (fun i => let x := a.getD i d; if x = d then none else some (i, x))

/-- The elements of an accumulator, row by row. -/
def Acc.cells (a : Acc) : Array (BitVec 40) := fillArray 8192 0 a.el

/-- An accumulator of cells. -/
def accOf (int sat : Bool) (cells : Array (BitVec 40)) : Acc := ⟨int, sat, sparse 0 cells⟩

/-- The values of one K-group of a slot, by 128 × (row of the group) + column; what is not stored reads as zero. -/
def WSlot.group (w : WSlot) (g : Nat) : Array FVal :=
  let sc := fillArray (128 * 64) 0 w.sc
  let z := Array.replicate 4096 (codeVal w.fmt.toNat 0 0)
  w.el.foldl (fun a e => if e.1 / 4096 = g then a.setIfInBounds (e.1 % 4096) (codeVal w.fmt.toNat e.2.toNat (sc.getD (128 * g + e.1 % 128) 0)) else a)
    (if fmtBfp w.fmt.toNat then z.mapIdx (fun i _ => codeVal w.fmt.toNat 0 (sc.getD (128 * g + i % 128) 0)) else z)

/-- A left operand: 64 rows of Ks codes, and the scale byte of each group of each row. -/
structure LeftTile where
  fmt : Nat
  ks : Nat
  codes : Array Nat
  scales : Array Byte

/-- Element (i, k) of a left operand. -/
def LeftTile.val (a : LeftTile) (i k : Nat) : FVal := codeVal a.fmt (a.codes.getD (a.ks * i + k) 0) (a.scales.getD (a.ks / 32 * i + k / 32) 0)

/-- A value that is not finite. -/
def FVal.special : FVal → Bool
  | .fin _ _ _ => false
  | _ => true

/-- The non-finite summary bit of group g (R350). -/
def LeftTile.summary (a : LeftTile) (g : Nat) : Bool := (List.range 64).any (fun i => (List.range 32).any (fun k => (a.val i (32 * g + k)).special))

/-! ## Group sums (R103 to R105) -/

/-- The products of a group so far: NaN and the infinities met, NV, and the exact sum n × 2^e. -/
structure Products where
  nan : Bool
  nv : Bool
  pinf : Bool
  ninf : Bool
  n : Int
  e : Int

/-- A product added exactly. -/
def Products.add (p : Products) (x y : FVal) : Products :=
  match mulExact x y with
  | (.nan _, g) => { p with nan := true, nv := p.nv || g ≠ 0 }
  | (.inf s, _) => if s then { p with ninf := true } else { p with pinf := true }
  | (.fin s m e, _) =>
    if m = 0 then p
    else
      let r := addExact (p.n < 0) p.n.natAbs p.e s m e
      { p with n := r.1, e := r.2 }

/-- A group's sum in W40, rounded once (R103); an exact zero is +0 (R104). A NaN sum sets NV for a product 0 × Inf and for opposite infinities; that opposite infinities set it also where another product has a NaN operand R103 does not settle (DESIGN CHOICE, log entry 60). -/
def groupSum (xs ys : Nat → FVal) : Nat × BitVec 16 :=
  let p := (List.range 32).foldl (fun (p : Products) k => p.add (xs k) (ys k)) ⟨false, false, false, false, 0, 0⟩
  let opp := p.pinf && p.ninf
  if p.nan || opp then (nanBits w40 false, flagIf (p.nv || opp) flagNV)
  else if p.pinf || p.ninf then (infBits w40 p.ninf, 0)
  else if p.n = 0 then (0, 0)
  else roundFin w40 0 (p.n < 0) p.n.natAbs p.e

/-- An element plus a group sum (R103). -/
def addGroup (x : BitVec 40) (g : Nat) : BitVec 40 × BitVec 16 :=
  let r := addVal w40 0 (unpack w40 x.toNat) (unpack w40 g)
  (BitVec.ofNat 40 r.1, r.2)

/-- The whole number of an integer code. -/
def FVal.whole : FVal → Int
  | .fin s m e => (if s then -(m : Int) else m) * (2 ^ e.toNat : Nat)
  | _ => 0

/-- An element plus a group's exact whole sum, saturating (R95, R105). -/
def addWhole (x : BitVec 40) (xs ys : Nat → FVal) : BitVec 40 × BitVec 16 :=
  let r := saturate (x.toInt + (List.range 32).foldl (fun (a : Int) k => a + (xs k).whole * (ys k).whole) 0) 40
  (BitVec.ofInt 40 r.1, r.2)

/-- Every cell of an accumulator changed, with the flags. -/
def mapCells (cells : Array (BitVec 40)) (f : Nat → BitVec 40 → BitVec 40 × BitVec 16) : Array (BitVec 40) × BitVec 16 :=
  (List.range 8192).foldl (fun (a : Array (BitVec 40) × BitVec 16) n =>
    let r := f n (a.1.getD n 0)
    (a.1.setIfInBounds n r.1, a.2 ||| r.2)) (cells, 0)

/-- The work of an MXMMA: its cells, its flags, the groups skipped. -/
structure MmaWork where
  cells : Array (BitVec 40)
  flags : BitVec 16
  skipped : Nat

/-- One group of an MXMMA (R349, R350). -/
def mmaGroup (a : LeftTile) (w : WSlot) (int skip : Bool) (g0 : Nat) (x : MmaWork) (g : Nat) : MmaWork :=
  let zero := w.ngrp ≤ g0 + g || w.zmask.getLsbD (g0 + g)
  if skip && zero && !a.summary g then
    ⟨if int then x.cells else (mapCells x.cells (fun _ c => addGroup c 0)).1, x.flags, x.skipped + 1⟩
  else
    let b := w.group (g0 + g)
    let ys := fun (j k : Nat) => b.getD (128 * k + j) (codeVal w.fmt.toNat 0 0)
    let r := mapCells x.cells (fun n c =>
      let xs := fun k => a.val (n / 128) (32 * g + k)
      if int then addWhole c xs (ys (n % 128))
      else
        let s := groupSum xs (ys (n % 128))
        let t := addGroup c s.1
        (t.1, t.2 ||| s.2))
    ⟨r.1, x.flags ||| r.2, x.skipped⟩

/-! ## Detail and ownership (R339, R346, R363) -/

/-- A start check's trap of an MX invocation. -/
def mxTrap (s : State) (v : Inv) (cause : BitVec 5) (sub : Nat) (pn : Nat) : TrapInfo :=
  let p := s.port pn
  unitTrap cause (some sub) none (if pn < 8 then pn else 0xFF) (if pn < 8 && p.bound then p.tid.toNat else 0xFF) v.hi

/-- An issue check's trap that names slot and accumulator. -/
def mxIssueTrap (cause : BitVec 5) (sub : Option Nat) (a1 : Option Nat) (slot acc : Nat) : TrapInfo := unitTrap cause sub a1 0xFF 0xFF (slot % 256 + acc * 256)

/-- Slot and accumulator put into a barrier's trap. -/
def mxBarCheck (s : State) (r : BitVec 6) (slot acc : Nat) : Option TrapInfo :=
  (barCheck s r 0xFF 0xFF).map (fun t => { t with aux2 := some (BitVec.ofNat 64 (unitAux2 0xFF 0xFF (slot % 256 + acc * 256))) })

/-- The first breach found, or the issue. -/
def issueUnless (s : State) (l : List (Option TrapInfo)) (e : Eff) : Eff :=
  match l.findSome? (fun x => x) with
  | some t => .trap t s
  | none => e

/-- Alignment and range of a scratchpad operand at issue. -/
def mxSpCheck (off align n slot acc : Nat) : Option TrapInfo :=
  if off % align ≠ 0 then some (mxIssueTrap cAlign none (some off) slot acc)
  else (spFlt off n).map (fun f => mxIssueTrap cScratchRange (some 0) (some f.addr) slot acc)

/-- The invocation waits for the Ligature. -/
def isLS (o : Ops) : Bool := o.m.getLsbD 2

/-! ## MXMMA (R348 to R350) -/

/-- MXMMA's selector. -/
def mxSel (sb : Word) (o : Ops) : Nat := sb.toNat + o.uimm

/-- MXMMA (R348). -/
def execMxmma (o : Ops) (s : State) : Host.Outcome State Fault Refusal :=
  runInstr o (fun t =>
    let sel := mxSel (t.getS o.b) o
    let acc := o.d.toNat
    let sp := o.m.getLsbD 0
    issueUnless t
      [ if sel % 256 / 32 ≠ 0 || 2 ^ 14 ≤ sel then some (mxIssueTrap cTidInvalid (some 0x30) none 0xFF acc) else none
      , if sp then mxSpCheck (t.getS o.a).toNat 16 1 sel acc else none
      , mxBarCheck t o.c sel acc ]
      (t.issue 0x90 o (if sp then [] else [o.a.toNat]) (isLS o))) s

/-- A row of a scratchpad left operand: its codes, then its scale bytes (R348). -/
def spRow (s : State) (v : Inv) (ks i : Nat) : List Nat × List Byte :=
  let w := fmtBits v.fmt.toNat
  let off := v.sa.toNat + v.rs.toNat * i
  let rb := ks * w / 8
  (elemsOf w ks (s.spLoad (s.partyInv v) 1 off rb).1, if fmtBfp v.fmt.toNat then (s.spLoad (s.partyInv v) 1 (off + rb) (ks / 32)).1 else [])

/-- Bytes of the scratchpad read by an invocation: every party sees the stores that it saw (R124). -/
def State.spSaw (s : State) (v : Inv) (off n : Nat) : State := (s.spLoad (s.partyInv v) 1 off n).2

/-- The slot, the first group and the K step of an MXMMA. -/
def Inv.mmaSlot (v : Inv) : Nat := mxSel v.sb v.o % 32
/-- The first group. -/
def Inv.mmaGroup0 (v : Inv) : Nat := mxSel v.sb v.o / 256
/-- A comes from the scratchpad. -/
def Inv.fromSp (v : Inv) : Bool := v.o.m.getLsbD 0

/-- The format of A. -/
def Inv.mmaFmt (s : State) (v : Inv) : Nat := if v.fromSp then v.fmt.toNat else (s.port v.o.a.toNat).engineFmt true

/-- The start checks of an MXMMA, in order (R345, R348, R349). -/
def mmaStart (s : State) (v : Inv) : Option TrapInfo :=
  let pn := if v.fromSp then 0xFF else v.o.a.toNat
  let p := s.port pn
  let w := s.core.wslot v.mmaSlot
  let fb := w.fmt.toNat
  let fa := v.mmaFmt s
  let ks := mxKstep fb
  let g0 := v.mmaGroup0
  let rowBytes := ks * fmtBits v.fmt.toNat / 8 + if fmtBfp v.fmt.toNat then ks / 32 else 0
  let row := fun i => v.sa.toNat + i * v.rs.toNat
  let outside := (List.range 64).find? fun i => spmSize < row i + rowBytes
  if !v.fromSp && !p.streams false then some (mxTrap s v cTidInvalid 0x20 pn)
  else if !s.core.mayUse v.ctx (some v.o.d.toNat) (some v.mmaSlot) then some (mxTrap s v cTidInvalid 0x35 pn)
  else if !w.valid then some (mxTrap s v cTidInvalid 0x31 pn)
  else if !v.fromSp && (dCols p.desc ≠ ks || dRows p.desc ≠ 64 || !p.hasBeat v.id) then some (mxTrap s v cTidInvalid 0x33 pn)
  else if v.fromSp && outside.isSome then some (unitTrap cScratchRange (some 0) (outside.map fun i => max spmSize (row i)) 0xFF 0xFF v.hi)
  else if v.fromSp && v.rs.toNat < rowBytes then some (mxTrap s v cTidInvalid 0x33 pn)
  else
    match mxPair fa fb with
    | none => some (mxTrap s v cFmtMismatch 0x10 pn)
    | some int =>
      if g0 % (ks / 32) ≠ 0 || w.ngrp ≤ g0 then some (mxTrap s v cTidInvalid 0x31 pn)
      else if !v.o.m.getLsbD 1 && (s.core.acc v.o.d.toNat).int ≠ int then some (mxTrap s v cFmtMismatch 0x11 pn)
      else none

/-- The barrier that a field of an invocation names. -/
def barOfReg (r : BitVec 6) (w : Word) : Option Nat := if r = 0 then none else some w.toNat

/-- An MXMMA with its left operand at hand ends (R349). -/
def mmaCommit (s : State) (v : Inv) (a : LeftTile) : State :=
  let w := s.core.wslot v.mmaSlot
  let old := s.core.acc v.o.d.toNat
  let z := v.o.m.getLsbD 1
  let int := (mxPair a.fmt w.fmt.toNat).getD false
  let x := (List.range (a.ks / 32)).foldl (fun x g => mmaGroup a w int v.skip v.mmaGroup0 x g) ⟨if z then Array.replicate 8192 0 else old.cells, 0, 0⟩
  let sat := (!z && old.sat) || x.flags &&& flagISAT ≠ 0
  s.commit v ⟨[], barOfReg v.o.c v.sc, 1, x.flags,
    fun t => t.putCore { t.core.putAcc v.o.d.toNat (accOf int sat x.cells) with skipCount := t.core.skipCount + BitVec.ofNat 64 x.skipped }, .engine 0⟩

/-- MXMMA's end: its tile is read, or it starves. -/
def endMxmma (s : State) (v : Inv) : State :=
  let ks := mxKstep (s.core.wslot v.mmaSlot).fmt.toNat
  if v.fromSp then
    let rows := (List.range 64).map (spRow s v ks)
    let n := ks * fmtBits v.fmt.toNat / 8 + if fmtBfp v.fmt.toNat then ks / 32 else 0
    mmaCommit ((List.range 64).foldl (fun (t : State) i => t.spSaw v (v.sa.toNat + v.rs.toNat * i) n) s) v ⟨v.fmt.toNat, ks, (rows.flatMap (·.1)).toArray, (rows.flatMap (·.2)).toArray⟩
  else
    let pn := v.o.a.toNat
    match s.gather 2 v pn (fun l => !l.isEmpty) with
    | .error t => t
    | .ok (v1, s1) =>
      match v1.taken pn with
      | [] => s1.discard v1 (mxTrap s1 v cTidInvalid 0x33 pn) noTile
      | b :: _ =>
        let fa := (s1.port pn).engineFmt true
        mmaCommit s1 v1 ⟨fa, ks, (elemsOf (fmtBits fa) (64 * ks) b.bytes).toArray, b.scales.toArray⟩

/-! ## Accumulator instructions (R352 to R354) -/

/-- MXZERO (R352). -/
def execMxzero (o : Ops) (s : State) : Host.Outcome State Fault Refusal := runInstr o (fun t => t.issue 0x91 o [] (isLS o)) s

/-- The start check that an accumulator is the context's. -/
def accStart (s : State) (v : Inv) (acc : Nat) : Option TrapInfo := if s.core.mayUse v.ctx (some acc) none then none else some (mxTrap s v cTidInvalid 0x35 0xFF)

/-- MXZERO's end. -/
def endMxzero (s : State) (v : Inv) : State :=
  s.commit v ⟨[], none, 0, 0, fun t => t.putCore (t.core.putAcc v.o.d.toNat ⟨v.o.q = 1, false, []⟩), .engine 0⟩

/-- MXLDACC (R353). -/
def execMxldacc (o : Ops) (s : State) : Host.Outcome State Fault Refusal :=
  runInstr o (fun t => issueUnless t [mxSpCheck (t.getS o.a).toNat 8 65536 0xFF o.d.toNat] (t.issue 0x92 o [] (isLS o))) s

/-- MXLDACC's end. -/
def endMxldacc (s : State) (v : Inv) : State :=
  let cells := (List.range 8192).map (fun n => BitVec.ofNat 40 (leNat (s.spLoad (s.partyInv v) 1 (v.sa.toNat + 8 * n) 5).1))
  (s.spSaw v v.sa.toNat 65536).commit v ⟨[], none, 0, 0, fun t => t.putCore (t.core.putAcc v.o.d.toNat (accOf (v.o.q = 1) false cells.toArray)), .engine 0⟩

/-- MXSCALE (R354). -/
def execMxscale (o : Ops) (s : State) : Host.Outcome State Fault Refusal := runInstr o (fun t => t.issue 0x96 o [] (isLS o)) s

/-- MXSCALE's start checks. -/
def scaleStart (s : State) (v : Inv) : Option TrapInfo :=
  match accStart s v v.o.d.toNat with
  | some t => some t
  | none => if (s.core.acc v.o.d.toNat).int then some (mxTrap s v cFmtMismatch 0x11 0xFF) else none

/-- MXSCALE's end. -/
def endMxscale (s : State) (v : Inv) : State :=
  let a := s.core.acc v.o.d.toNat
  let r := mapCells a.cells (fun n c => let m := mulVal w40 0 (unpack w40 c.toNat) (f32 (lane v.va (n / 128))); (BitVec.ofNat 40 m.1, m.2))
  s.commit v ⟨[], none, 0, r.2, fun t => t.putCore (t.core.putAcc v.o.d.toNat (accOf false a.sat r.1)), .engine 0⟩

/-! ## The function chain (R355, R356) -/

/-- The port that a chain node reads, or, for QNT, writes. -/
def ChainNode.port (n : ChainNode) : Option Nat :=
  match n.op.toNat with
  | 1 | 2 => if bit n.pb 8 then some (bits n.pb 2 0) else none
  | 3 | 6 => some (bits n.pb 2 0)
  | _ => none

/-- The port that a node reads. -/
def ChainNode.reads (n : ChainNode) : Option Nat := if n.op = 6#3 then none else n.port
/-- The port to which a QNT node writes its scales. -/
def ChainNode.scalePort (n : ChainNode) : Option Nat := if n.op = 6#3 then n.port else none

/-- A node of a chain. -/
def chainNode (c : SMap ChainNode) (k : Nat) : ChainNode := SMap.get ChainNode.off c k

/-- The nodes that are on, in order, with their numbers. -/
def chainOn (c : SMap ChainNode) : List (Nat × ChainNode) := ((List.range 8).map (fun k => (k, chainNode c k))).filter (fun e => e.2.op ≠ 0)

/-- The ports of a chain. -/
def chainPorts (c : SMap ChainNode) : List Nat := (chainOn c).filterMap (fun e => e.2.port)

/-- MXCHAIN's parameters are not allowed (R356): a bit that the table does not name for the node is set, or a value is out of its limits. -/
def chainBad (q : Nat) (a b : Word) : Bool :=
  match q with
  | 0 => a ≠ 0 || b ≠ 0
  | 1 | 2 => bits a 63 32 ≠ 0 || bits b 7 3 ≠ 0 || bits b 63 9 ≠ 0
  | 4 => 6 ≤ a.toNat || b ≠ 0
  | 5 =>
    let lo := f32 (a.setWidth 32)
    let hi := f32 (a.extractLsb' 32 32)
    b ≠ 0 || floatCond 10 lo hi || floatCond 7 lo hi
  | _ => a ≠ 0 || 8 ≤ b.toNat

/-- A node configured. -/
def chainSet (o : Ops) (q : Nat) (t : State) : Eff :=
  let a := t.getS o.a
  let b := t.getS o.b
  if chainBad q a b then .trap (unitTrap cTidInvalid (some 0x34) none 0xFF 0xFF 0xFFFF) t
  else .next (t.putCore { t.core with chain := SMap.set ChainNode.off t.core.chain o.uimm ⟨BitVec.ofNat 3 q, a, b⟩ })

/-- MXCHAIN.OFF (R356). -/
def execMxchainOff (o : Ops) (s : State) : Host.Outcome State Fault Refusal := runInstr o (chainSet o 0) s
/-- MXCHAIN.SCALE (R356). -/
def execMxchainScale (o : Ops) (s : State) : Host.Outcome State Fault Refusal := runInstr o (chainSet o 1) s
/-- MXCHAIN.BIAS (R356). -/
def execMxchainBias (o : Ops) (s : State) : Host.Outcome State Fault Refusal := runInstr o (chainSet o 2) s
/-- MXCHAIN.RESID (R356). -/
def execMxchainResid (o : Ops) (s : State) : Host.Outcome State Fault Refusal := runInstr o (chainSet o 3) s
/-- MXCHAIN.ACT (R356). -/
def execMxchainAct (o : Ops) (s : State) : Host.Outcome State Fault Refusal := runInstr o (chainSet o 4) s
/-- MXCHAIN.CLAMP (R356). -/
def execMxchainClamp (o : Ops) (s : State) : Host.Outcome State Fault Refusal := runInstr o (chainSet o 5) s
/-- MXCHAIN.QNT (R356). -/
def execMxchainQnt (o : Ops) (s : State) : Host.Outcome State Fault Refusal := runInstr o (chainSet o 6) s

/-- A value and the flags raised on the way to it. -/
abbrev Flagged := BitVec 32 × BitVec 16

/-- An operation on FP32 bits after which the flags add up. -/
def Flagged.step (x : Flagged) (r : Nat × BitVec 16) : Flagged := (BitVec.ofNat 32 r.1, x.2 ||| r.2)

/-- An activation of node ACT (R356). -/
def actNode (code : Nat) (x : BitVec 32) : Nat × BitVec 16 :=
  match code with
  | 0 => (x.toNat, 0)
  | 1 => (match f32 x with
    | .nan _ => x.toNat
    | y => if floatCond 7 y (.fin false 0 0) then x.toNat else 0, 0)
  | 2 => fnGelu x
  | 3 => fnSilu x
  | 4 => fnTanh x
  | _ => fnSigmoid x

/-- CLAMP: the lesser of hi and the greater of x and lo; NaN passes (R356). -/
def clampNode (a : Word) (x : BitVec 32) : Nat :=
  match f32 x with
  | .nan _ => x.toNat
  | _ => minMaxBits fp32 false (minMaxBits fp32 true x.toNat (bits a 31 0)) (bits a 63 32)

/-- A node that acts on each element; c is the node's value there. -/
def nodeElem (n : ChainNode) (c : BitVec 32) (x : Flagged) : Flagged :=
  match n.op.toNat with
  | 1 => x.step (mulVal fp32 0 (f32 x.1) (f32 c))
  | 2 | 3 => x.step (addVal fp32 0 (f32 x.1) (f32 c))
  | 4 => x.step (actNode (bits n.pa 3 0) x.1)
  | 5 => x.step (clampNode n.pa x.1, 0)
  | _ => x

/-- A row through QNT: the value of each code, and the row's scale (R102, R356). -/
def nodeRow (row : List Flagged) : List Flagged × BitVec 32 :=
  let r := quantRow (row.map (fun x => f32 x.1))
  ((row.zip r.2.1).map (fun e => (BitVec.ofNat 32 (convertTo fp32 0 false (unpack e4m3 e.2.toNat)).1, e.1.2 ||| r.2.2)), r.1)

/-- A row of 128 elements through the nodes, with the scales that QNT nodes give. `val k j` is the value of node k at column j. -/
def chainRow (nodes : List (Nat × ChainNode)) (val : Nat → Nat → BitVec 32) (row : List Flagged) (scales : List (Nat × BitVec 32)) :
    List Flagged × List (Nat × BitVec 32) :=
  match nodes with
  | [] => (row, scales)
  | (k, n) :: t =>
    if n.op = 6 then
      let r := nodeRow row
      chainRow t val r.1 (scales ++ [((n.port).getD 0, r.2)])
    else chainRow t val ((row.zip (List.range row.length)).map (fun e => nodeElem n (val k e.2) e.1)) scales

/-! ## MXSTACC (R355) -/

/-- MXSTACC's destination is the scratchpad. -/
def Inv.raw (v : Inv) : Bool := v.o.m.getLsbD 0

/-- MXSTACC (R355). -/
def execMxstacc (o : Ops) (s : State) : Host.Outcome State Fault Refusal :=
  runInstr o (fun t =>
    let raw := o.m.getLsbD 0
    issueUnless t [if raw then mxSpCheck (t.getS o.d).toNat 8 65536 0xFF o.a.toNat else none, mxBarCheck t o.b 0xFF o.a.toNat]
      (t.issue 0x93 o (if raw then [] else o.d.toNat :: chainPorts t.core.chain) (isLS o))) s

/-- The breach of the chain's ports (R356). -/
def chainBreach (s : State) (v : Inv) (target : Nat) : Option TrapInfo :=
  let ps := chainPorts v.chain
  (chainOn v.chain).findSome? (fun e =>
    match e.2.port with
    | none => none
    | some q =>
      let p := s.port q
      let isQ := e.2.op = 6
      if !p.streams isQ || q = v.o.d.toNat || 1 < ps.count q then some (mxTrap s v cTidInvalid 0x34 q)
      else if isQ && (target ≠ 3 || p.engineFmt true ≠ 0 || p.xQrow.isSome) then some (mxTrap s v cFmtMismatch 0x12 q)
      else if !isQ && 3 ≤ p.engineFmt true then some (mxTrap s v cFmtMismatch 0x12 q)
      else none)

/-- The rows of a write port's traversal. -/
def Port.rowTotal (p : Port) : Nat := (List.range 5).foldl (fun n i => n * p.ext true (i + 1)) 1

/-- The start checks of an MXSTACC, in order. -/
def drainStart (s : State) (v : Inv) : Option TrapInfo :=
  let pn := if v.raw then 0xFF else v.o.d.toNat
  let p := s.port pn
  if !v.raw && !p.streams true then some (mxTrap s v cTidInvalid 0x20 pn)
  else if !s.core.mayUse v.ctx (some v.o.a.toNat) none then some (mxTrap s v cTidInvalid 0x35 pn)
  else if v.raw then none
  else if 128 < p.ext true 0 || p.rowTotal ≤ p.rowCursor then some (mxTrap s v cTidInvalid 0x33 pn)
  else if 8 ≤ p.engineFmt true then some (mxTrap s v cFmtMismatch 0x12 pn)
  else chainBreach s v (p.engineFmt true)

/-- An accumulator element as a value. -/
def Acc.value (a : Acc) (x : BitVec 40) : FVal := if a.int then ofInteger x.toInt else unpack w40 x.toNat

/-- Convert of R355: to the target's code. -/
def drainConvert (target mode : Nat) (v : FVal) : Nat × BitVec 16 :=
  match fmtFloat target with
  | some g => convertTo g mode false v
  | none => let w := fmtBits target; let r := toInteger w mode v; ((BitVec.ofInt w r.1).toNat, r.2)

/-- An element drained with no node on: an INT element to an integer target saturates (R98, R106). -/
def drainPlain (a : Acc) (target mode : Nat) (x : BitVec 40) : Nat × BitVec 16 :=
  if a.int && (fmtFloat target).isNone then
    let r := saturate x.toInt (fmtBits target)
    ((BitVec.ofInt (fmtBits target) r.1).toNat, r.2)
  else drainConvert target mode (a.value x)

/-- Row i of a drain: the codes and their flags, and QNT's scales. -/
def drainRow (a : Acc) (cells : Array (BitVec 40)) (nodes : List (Nat × ChainNode)) (val : Nat → Nat → Nat → BitVec 32) (target mode i : Nat) :
    List (Nat × BitVec 16) × List (Nat × BitVec 32) :=
  let row := (List.range 128).map (fun j => cells.getD (128 * i + j) 0)
  if nodes.isEmpty then (row.map (drainPlain a target mode), [])
  else
    let r := chainRow nodes (fun k j => val k i j) (row.map (fun x => let c := convertTo fp32 0 false (a.value x); (BitVec.ofNat 32 c.1, c.2))) []
    (r.1.map (fun x => let c := drainConvert target mode (f32 x.1); (c.1, x.2 ||| c.2)), r.2)

/-- The number of a traversal row. -/
def Port.rowNumber (p : Port) (c : List Nat) : Nat := ([5, 4, 3, 2, 1] : List Nat).foldl (fun a i => c.getD i 0 + p.ext true i * a) 0

/-- One row of a tile of a drain: the elements that this drain covers. Only the conversions of elements that are stored raise flags (DESIGN CHOICE, log entry 56). -/
def drainTileRow (pn : Nat) (p : Port) (rows : Array (List (Nat × BitVec 16))) (k r : Nat) : List PWrite × BitVec 16 :=
  let es := (List.range (dCols p.desc)).filterMap (fun c =>
    let e := p.coord true k (if p.xTranspose then c else r) (if p.xTranspose then r else c)
    let m := p.coord true k r c
    let n := p.rowNumber e.1
    if e.2 && m.2 && p.rowCursor ≤ n && n < p.rowCursor + 64 then
      some (p.tensorCoord true m.1, ((rows.getD (n - p.rowCursor) []).getD (e.1.getD 0 0) (0, 0)))
    else none)
  let w := p.writeRow pn true (es.map (·.1)) (es.map (fun e => e.2.1)) []
  (w.1.map (fun x => { x with tile := k, breach := p.rowBreach (p.rowCoords true k r) }), es.foldl (fun g e => g ||| e.2.2) w.2)

/-- The stores of a drain. -/
def drainWrites (pn : Nat) (p : Port) (rows : Array (List (Nat × BitVec 16))) : List PWrite × BitVec 16 :=
  (List.range (p.tiles true)).foldl (fun a k => (List.range (dRows p.desc)).foldl (fun b r =>
    let x := drainTileRow pn p rows k r
    (b.1 ++ x.1, b.2 ||| x.2)) a) ([], 0)

/-- The elements that a chain port's taken beats give, from the place where the last drain stopped. -/
def chainElems (s : State) (v : Inv) (q : Nat) : List Nat := ((v.taken q).flatMap (s.port q).beatElems).drop (s.port q).rowCursor

/-- The values a node reads: one row of 128 for SCALE and BIAS, 64 rows for RESID. -/
def ChainNode.need (n : ChainNode) : Nat := if n.op = 3 then 8192 else 128

/-- The chain's ports gathered. -/
def gatherChain (nodes : List (Nat × ChainNode)) (s : State) (v : Inv) : Except State (Inv × State) :=
  match nodes with
  | [] => .ok (v, s)
  | (_, n) :: t =>
    match n.reads with
    | none => gatherChain t s v
    | some q =>
      match s.gather 8193 v q (fun l => n.need ≤ (l.flatMap (s.port q).beatElems).length - (s.port q).rowCursor) with
      | .error e => .error e
      | .ok (v1, s1) => gatherChain t s1 v1

/-- The value of a node at (i, j): its constant, or the element of its port; where the port has none the manual gives no value. -/
def chainVal (s : State) (v : Inv) (nodes : List (Nat × ChainNode)) : Nat → Nat → Nat → BitVec 32 :=
  let tabs := nodes.map (fun e => match e.2.reads with
    | some q => (e.1, ((chainElems s v q).map (fun c => BitVec.ofNat 32 (convertCode ((s.port q).engineFmt true) 0 0 false c).1)).toArray)
    | none => (e.1, #[]))
  fun k i j =>
    let n := chainNode v.chain k
    match n.port with
    | none => n.pa.setWidth 32
    | some _ =>
      let x := if n.op = 3 then 128 * i + j else j
      match (tabs.find? (fun e => e.1 = k)).bind (fun e => e.2[x]?) with
      | some w => w
      | none => (Config.freeWord (s.free + 8192 * k + x)).setWidth 32

/-- The last beat of a chain port returns to it when some of its elements are left; how many of them are taken. -/
def leftover (t : State) (v : Inv) (nodes : List (Nat × ChainNode)) : State :=
  nodes.foldl (fun u e => match e.2.reads with
    | none => u
    | some q =>
      let p := u.port q
      let sizes := (v.taken q).map (fun b => (p.beatElems b).length)
      let left := sizes.foldl (· + ·) 0 - p.rowCursor - e.2.need
      match (v.taken q).getLast? with
      | some b =>
        if 0 < left then u.putPort q { p with fifo := b :: p.fifo, rowCursor := (p.beatElems b).length - left }
        else u.putPort q { p with rowCursor := 0 }
      | none => u) t

/-- The scales of QNT nodes, one per row, put on their ports (R356). -/
def qntWrites (s : State) (scales : List (Nat × BitVec 32)) (nodes : List (Nat × ChainNode)) : List PWrite × List (Nat × Place) :=
  nodes.foldl (fun a e => match e.2.scalePort with
    | none => a
    | some q =>
      let p := s.port q
      let r := p.placeElems (p.tiles true + 1) q p.place ((scales.filter (fun x => x.1 = q)).map (fun x => x.2.toNat))
      (a.1 ++ r.1, a.2 ++ [(q, r.2.2.1)])) ([], [])

/-- The accumulator after a drain with .Z. -/
def drained (v : Inv) (t : State) : State :=
  if v.o.m.getLsbD 1 then t.putCore (t.core.putAcc v.o.a.toNat ⟨(t.core.acc v.o.a.toNat).int, false, []⟩) else t

/-- MXSTACC's end with .RAW. -/
def endRaw (s : State) (v : Inv) : State :=
  let a := s.core.acc v.o.a.toNat
  let bs := a.cells.toList.flatMap (fun x => leBytes 8 (if a.int then (x.signExtend 64).toNat else x.toNat))
  s.commit v ⟨[⟨noPort, true, v.sd.toNat, wholeBytes bs, noTile, none⟩], barOfReg v.o.b v.sb, 65536, 0, drained v, .engine 0⟩

/-- MXSTACC's end through the chain to a port. -/
def endDrain (s : State) (v : Inv) : State :=
  let nodes := chainOn v.chain
  match gatherChain nodes s v with
  | .error t => t
  | .ok (v1, s1) =>
    let pn := v.o.d.toNat
    let p := s1.port pn
    let a := s1.core.acc v.o.a.toNat
    let cells := a.cells
    let val := chainVal s1 v1 nodes
    let rows := (List.range 64).map (drainRow a cells nodes val (p.engineFmt true) v.o.q.toNat)
    let w := drainWrites pn p (rows.map (·.1)).toArray
    let q := qntWrites s1 ((rows.take (p.rowTotal - p.rowCursor)).flatMap (·.2)) nodes
    ({ s1 with free := s1.free + 65536 }).commit v1 ⟨w.1 ++ q.1, barOfReg v.o.b v.sb, writeCount (w.1 ++ q.1), w.2,
      fun t =>
        let t1 := leftover (drained v t) v1 nodes
        let t2 := q.2.foldl (fun (u : State) (e : Nat × Place) => u.putPort e.1 ((u.port e.1).setPlace e.2)) t1
        t2.putPort pn { t2.port pn with rowCursor := p.rowCursor + 64 }, .engine 0⟩

/-- MXSTACC's end. -/
def endMxstacc (s : State) (v : Inv) : State := if v.raw then endRaw s v else endDrain s v

/-! ## Weights (R357, R358) -/

/-- The slot that MXWLOAD and MXWDROP name. -/
def weightSlot (w : Word) (o : Ops) : Nat := w.toNat + o.uimm

/-- A slot number out of range. -/
def slotCheck (n : Nat) : Option TrapInfo := if 32 ≤ n then some (mxIssueTrap cTidInvalid (some 0x30) none 0xFF 0xFF) else none

/-- MXWLOAD (R357). -/
def execMxwload (o : Ops) (s : State) : Host.Outcome State Fault Refusal :=
  runInstr o (fun t =>
    let n := weightSlot (t.getS o.b) o
    issueUnless t [slotCheck n, mxBarCheck t o.c n 0xFF] (t.issue 0x94 o [o.a.toNat] (isLS o))) s

/-- The K-groups of an extent. -/
def groupsOf (k : Nat) : Nat := (k + 31) / 32

/-- The start checks of an MXWLOAD, in order. -/
def loadStart (s : State) (v : Inv) : Option TrapInfo :=
  let pn := v.o.a.toNat
  let p := s.port pn
  let f := p.engineFmt true
  let k := p.ext true 0
  if !p.streams false then some (mxTrap s v cTidInvalid 0x20 pn)
  else if !s.core.mayUse v.ctx none (some (weightSlot v.sb v.o)) then some (mxTrap s v cTidInvalid 0x35 pn)
  else if !mxBFormat f then some (mxTrap s v cFmtMismatch 0x10 pn)
  else if k = 0 || 2048 < k || 128 < p.ext true 1 || p.rowTotal ≠ p.ext true 1 || !p.hasBeat v.id then some (mxTrap s v cTidInvalid 0x33 pn)
  else if !v.o.m.getLsbD 0 && 16384 < groupsOf k * mxGroupBytes f then some (mxTrap s v cTidInvalid 0x32 pn)
  else none

/-- A slot's codes by 128k + n and its scales by 128g + n, from the beats of a load as they reach the engine. An element that no beat of the load brings has no value that the manual gives. -/
def loadArrays (s : State) (p : Port) (bs : List Beat) : Array (BitVec 16) × Array Byte :=
  let f := p.engineFmt true
  let w := fmtBits f
  let n := dCols p.desc
  let k := p.ext true 0
  let full := bs.length = p.tiles true
  let free := fun (i : Nat) => if full || k ≤ i / 128 || p.ext true 1 ≤ i % 128 then 0 else BitVec.ofNat 16 ((Config.freeWord (s.free + i)).toNat % 2 ^ w)
  let el0 := if full then Array.replicate (128 * 2048) 0 else ((List.range (128 * 2048)).map free).toArray
  let sc0 := if full then Array.replicate (128 * 64) 0 else ((List.range (128 * 64)).map (fun i => Config.freeByte (s.free + i))).toArray
  bs.foldl (fun (a : Array (BitVec 16) × Array Byte) b =>
    let es := elemsOf w (n * dRows p.desc) b.bytes
    let el := (es.zip (List.range es.length)).foldl (fun (x : Array (BitVec 16)) e =>
      let c := p.coord true b.idx (e.2 / n) (e.2 % n)
      if c.2 then x.setIfInBounds (128 * c.1.getD 0 0 + c.1.getD 1 0) (BitVec.ofNat 16 e.1) else x) a.1
    let sc := (b.scales.zip (List.range b.scales.length)).foldl (fun (x : Array Byte) e =>
      let c := p.coord true b.idx (e.2 / (n / 32)) (e.2 % (n / 32) * 32)
      if c.2 then x.setIfInBounds (128 * (c.1.getD 0 0 / 32) + c.1.getD 1 0) e.1 else x) a.2
    (el, sc)) (el0, sc0)

/-- A stored value of a slot is ±0; a BFP mantissa of 0 is, whatever the scale (R357). -/
def zeroCode (f : Nat) (code : BitVec 16) (scale : Byte) : Bool :=
  if fmtBfp f then scale = 0 || code.toNat % 2 ^ fmtBits f = 0
  else
    match codeVal f code.toNat scale with
    | .fin _ m _ => m = 0
    | _ => false

/-- The K-groups in which a beat of a load holds a value that is not ±0. -/
def beatGroups (p : Port) (b : Beat) : List Nat :=
  let f := p.engineFmt true
  let n := dCols p.desc
  let es := elemsOf (fmtBits f) (n * dRows p.desc) b.bytes
  ((es.zip (List.range es.length)).filterMap (fun e =>
    let c := p.coord true b.idx (e.2 / n) (e.2 % n)
    if c.2 && !zeroCode f (BitVec.ofNat 16 e.1) (b.scales.getD (e.2 / 32) 0) then some (c.1.getD 0 0 / 32) else none)).eraseDups

/-- The groups not marked zero among the beats of a load pass the limit (R357). -/
def passesLimit (p : Port) (bs : List Beat) : Bool :=
  decide (16384 < (bs.flatMap (beatGroups p)).eraseDups.length * mxGroupBytes (p.engineFmt true))

/-- ZMASK of a load: the groups whose values are all ±0. -/
def loadZmask (f groups : Nat) (el : Array (BitVec 16)) (sc : Array Byte) : Word :=
  (List.range groups).foldl (fun m g =>
    if (List.range 4096).all (fun i => zeroCode f (el.getD (4096 * g + i) 0) (sc.getD (128 * g + i % 128) 0)) then m ||| (1#64 <<< g) else m) 0

/-- The bytes that a load's port reads for its elements (R357). -/
def loadBytes (p : Port) : Nat :=
  let f := dFmt p.desc
  let k := p.ext true 0
  p.ext true 1 * (if fmtBfp f then groupsOf k * (4 * fmtBits f + 1) else (k * fmtBits f + 7) / 8)

/-- MXWLOAD's end. -/
def endMxwload (s : State) (v : Inv) : State :=
  let pn := v.o.a.toNat
  let zc := v.o.m.getLsbD 0
  let past := fun (l : List Beat) => zc && passesLimit (s.port pn) l
  match s.gather ((s.port pn).tiles true + 1) v pn past with
  | .error t => t
  | .ok (v1, s1) =>
    let p := s1.port pn
    let f := p.engineFmt true
    let g := groupsOf (p.ext true 0)
    let a := loadArrays s1 p (v1.taken pn)
    let zm := loadZmask f g a.1 a.2
    let nz := g - ((List.range g).filter (fun i => zm.getLsbD i)).length
    if past (v1.taken pn) || (zc && 16384 < nz * mxGroupBytes f) then s1.discard v1 (mxTrap s1 v cTidInvalid 0x32 pn) noTile
    else
      let keep := fun (i : Nat) => !(zc && zm.getLsbD i)
      let w : WSlot := ⟨true, false, zc, BitVec.ofNat 4 f, p.ext true 0, g, nz, zm,
        (sparse 0 a.1).filter (fun e => keep (e.1 / 4096)), (sparse 0 a.2).filter (fun e => fmtBfp f && keep (e.1 / 128))⟩
      ({ s1 with free := s1.free + 2 ^ 18 }).commit v1 ⟨[], barOfReg v.o.c v.sc, loadBytes p, 0,
        fun t => t.putCore (t.core.putWslot (weightSlot v.sb v.o) w), .engine 0⟩

/-- MXWDROP (R358). -/
def execMxwdrop (o : Ops) (s : State) : Host.Outcome State Fault Refusal :=
  runInstr o (fun t => issueUnless t [slotCheck (weightSlot (t.getS o.a) o)] (t.issue 0x95 o [] false)) s

/-- MXWDROP.ALL (R358). -/
def execMxwdropAll (o : Ops) (s : State) : Host.Outcome State Fault Refusal := runInstr o (fun t => t.issue 0x95 o [] false) s

/-- MXWDROP's start check. -/
def dropStart (s : State) (v : Inv) : Option TrapInfo :=
  if v.o.q = 1 || s.core.mayUse v.ctx none (some (weightSlot v.sa v.o)) then none else some (mxTrap s v cTidInvalid 0x35 0xFF)

/-- The slots that a drop clears. -/
def dropSlots (s : State) (v : Inv) : List Nat :=
  if v.o.q = 1 then (List.range 32).filter (fun n => s.core.mayUse v.ctx none (some n)) else [weightSlot v.sa v.o]

/-- MXWDROP's end. -/
def endMxwdrop (s : State) (v : Inv) : State :=
  s.commit v ⟨[], none, 0, 0, fun t => t.putCore ((dropSlots t v).foldl (fun c n => c.putWslot n WSlot.reset) t.core), .engine 0⟩

/-! ## Formats, skipping, waiting and status (R359 to R362) -/

/-- MXFMT (R359). -/
def execMxfmt (o : Ops) (s : State) : Host.Outcome State Fault Refusal :=
  runInstr o (fun t =>
    let rs := t.getS o.a
    if rs.toNat % 16 ≠ 0 || rs = 0 || 65536 < rs.toNat then .trap (mxIssueTrap cTidInvalid (some 0x33) none 0xFF 0xFF) t
    else .next (t.putCtx { t.ctx with mxFmt := o.q, mxRs := rs })) s

/-- MXSKIP writes the previous setting and sets the new one (R360). -/
def skipSet (o : Ops) (b : Option Bool) (t : State) : State :=
  (t.putCore { t.core with skipOn := b.getD t.core.skipOn }).setS o.d (if t.core.skipOn then 1 else 0)

/-- MXSKIP.OFF (R360). -/
def execMxskipOff (o : Ops) (s : State) : Host.Outcome State Fault Refusal := runPlain o (skipSet o (some false)) s
/-- MXSKIP.ON (R360). -/
def execMxskipOn (o : Ops) (s : State) : Host.Outcome State Fault Refusal := runPlain o (skipSet o (some true)) s
/-- MXSKIP.RD (R360). -/
def execMxskipRd (o : Ops) (s : State) : Host.Outcome State Fault Refusal := runPlain o (skipSet o none) s

/-- MXWAIT (R361): an acquire at .core when it ends. -/
def execMxwait (o : Ops) (s : State) : Host.Outcome State Fault Refusal :=
  runInstr o (fun t => if t.core.invs.any (fun v => unitOf v.op = 0 && v.ctx = t.core.cur) then .block .invocation t
    else .next (t.acquire t.core.cur 3 [invKeys t.coreId t.core.cur 0 t.core.nextInv])) s

/-- MXWAIT.ALL (R361): the invocations queued when it first executed. -/
def execMxwaitAll (o : Ops) (s : State) : Host.Outcome State Fault Refusal :=
  runInstr o (fun t =>
    let n := if t.ctx.waiting = some .invocation then t.ctx.waitInv else t.core.nextInv
    if t.core.invs.any (fun v => unitOf v.op = 0 && v.id < n) then .block .invocation (t.putCtx { t.ctx with waitInv := n })
    else .next (t.acquire t.core.cur 3 ([CtxId.u0, .u1, .u2, .u3, .k].map (fun c => invKeys t.coreId c 0 n)))) s

/-- The pipe of an MX invocation: 0 array, 1 loader, 2 drain (R342). -/
def mxPipe (op : Nat) : Nat := if op = 0x93 then 2 else if op = 0x94 || op = 0x95 then 1 else 0

/-- An invocation that has started and has not ended. -/
def Inv.started (v : Inv) : Bool := v.st = .running || v.st = .starved

/-- Bit i of a word for each i that meets a test. -/
def bitsWhere (n : Nat) (f : Nat → Bool) : Nat := (List.range n).foldl (fun w i => if f i then w + 2 ^ i else w) 0

/-- MXSTAT (R362): the engine. -/
def mxWord (c : Core) : Word :=
  BitVec.ofNat 64 (c.engineCount 0 * 2 ^ 52 + bitsWhere 4 (fun n => (c.acc n).int) * 2 ^ 48 + bitsWhere 4 (fun n => (c.acc n).sat) * 2 ^ 44
    + (if c.skipOn then 2 ^ 43 else 0) + bitsWhere 3 (fun n => c.invs.any (fun v => unitOf v.op = 0 && v.started && mxPipe v.op = n)) * 2 ^ 40
    + bitsWhere 8 (fun k => (chainNode c.chain k).op ≠ 0) * 2 ^ 32 + bitsWhere 32 (fun n => (c.wslot n).valid))

/-- The tag of a slot (R362). -/
def WSlot.word (w : WSlot) : Word :=
  let b := fun (x : Bool) (n : Nat) => if x then 2 ^ n else 0
  BitVec.ofNat 64 (b w.valid 63 + b w.busy 62 + b w.zc 61 + w.fmt.toNat * 2 ^ 48 + w.nzg % 256 * 2 ^ 32 + w.ngrp % 256 * 2 ^ 24 + w.k % 65536)

/-- MXSTAT (R362). -/
def execMxstat (o : Ops) (s : State) : Host.Outcome State Fault Refusal := runPlain o (fun t => t.setS o.d (mxWord t.core)) s
/-- MXSTAT.SLOT (R362). -/
def execMxstatSlot (o : Ops) (s : State) : Host.Outcome State Fault Refusal := runPlain o (fun t => t.setS o.d (t.core.wslot o.uimm).word) s
/-- MXSTAT.ZMASK (R362). -/
def execMxstatZmask (o : Ops) (s : State) : Host.Outcome State Fault Refusal := runPlain o (fun t => t.setS o.d (t.core.wslot o.uimm).zmask) s
/-- MXSTAT.SKIPCNT (R362). -/
def execMxstatSkipcnt (o : Ops) (s : State) : Host.Outcome State Fault Refusal := runPlain o (fun t => t.setS o.d t.core.skipCount) s

/-- The start checks of an MX invocation (R345). -/
def mxStart (s : State) (v : Inv) : Option TrapInfo :=
  match v.op with
  | 0x90 => mmaStart s v
  | 0x91 | 0x92 => accStart s v v.o.d.toNat
  | 0x93 => drainStart s v
  | 0x94 => loadStart s v
  | 0x95 => dropStart s v
  | _ => scaleStart s v

/-- The end of an MX invocation. -/
def endMx (s : State) (v : Inv) : State :=
  match v.op with
  | 0x90 => endMxmma s v
  | 0x91 => endMxzero s v
  | 0x92 => endMxldacc s v
  | 0x93 => endMxstacc s v
  | 0x94 => endMxwload s v
  | 0x95 => endMxwdrop s v
  | _ => endMxscale s v

/-- The accumulators and slots that an MX invocation reads, then those that it writes, as (accumulator mask, slot mask) (R342). -/
def mxReads (v : Inv) : Nat × Nat :=
  match v.op with
  | 0x90 => (2 ^ v.o.d.toNat, 2 ^ v.mmaSlot)
  | 0x93 => (2 ^ v.o.a.toNat, 0)
  | 0x96 => (2 ^ v.o.d.toNat, 0)
  | _ => (0, 0)

/-- What an MX invocation writes. -/
def mxWrites (s : State) (v : Inv) : Nat × Nat :=
  match v.op with
  | 0x93 => (if v.o.m.getLsbD 1 then 2 ^ v.o.a.toNat else 0, 0)
  | 0x94 => (0, 2 ^ weightSlot v.sb v.o)
  | 0x95 => (0, (dropSlots s v).foldl (fun m n => m + 2 ^ n) 0)
  | _ => (2 ^ v.o.d.toNat, 0)

/-- An earlier invocation's use of accumulators and slots keeps a later one from starting (R342). -/
def mxHazard (s : State) (early late : Inv) : Bool :=
  let er := mxReads early
  let ew := mxWrites s early
  let lr := mxReads late
  let lw := mxWrites s late
  let meet := fun (a b : Nat × Nat) => a.1 &&& b.1 ≠ 0 || a.2 &&& b.2 ≠ 0
  meet ew lr || meet ew lw || meet er lw

end Sys2Proof.Machine
end

