-- ==== Sys2Proof/Machine/Merge.lean ====
section
/-! DEFINITION. The merge engine: opcodes 0xE0 to 0xE7 (R401 to R418). -/

namespace Sys2Proof.Machine

/-! ## Lists and keys (R401 to R403) -/

/-- The trap of an MG check: the port, and its tensor. -/
def mgTrap (s : State) (cause : BitVec 5) (sub pn : Nat) : TrapInfo :=
  unitTrap cause (some sub) none pn (if (s.port pn).bound then (s.port pn).tid.toNat else 0xFF) 0

/-- The trap of a key of a list: its index, and bit 8 for list B (R417). -/
def keyTrap (sub index pn : Nat) (listB : Bool) : TrapInfo := unitTrap cTidInvalid (some sub) (some index) pn (if listB then 1 else 0) 0

/-- Two keys compare as unsigned, or signed with .S. -/
def keyLt (signed : Bool) (a b : BitVec 32) : Bool := if signed then a.slt b else a.ult b

/-- A beat ends its list. -/
def Beat.endsList (b : Beat) : Bool := b.marks.contains mEOR

/-- The keys of the beats taken of a port. -/
def Inv.keys (s : State) (v : Inv) (pn : Nat) : List (BitVec 32) := ((v.taken pn).flatMap (s.port pn).beatElems).map (BitVec.ofNat 32)

/-- The list of a port is whole among the beats taken. -/
def Inv.listWhole (s : State) (v : Inv) (pn : Nat) : Bool :=
  let p := s.port pn
  (v.taken pn).any Beat.endsList || (p.fifo.isEmpty && p.fault.isNone && (p.tiles true ≤ p.cursor || (p.lead && p.cons = 0)))

/-- An invocation takes the next beat of the port that `need` names, until it names none: so many beats at most. An error is the state in which it starves, or goes on waiting, with what it has (R160, R418). -/
def State.feed (fuel : Nat) (s : State) (v : Inv) (need : State → Inv → Option Nat) : Except State (Inv × State) :=
  match fuel with
  | 0 => .ok (v, s)
  | f + 1 =>
    match need s v with
    | none => .ok (v, s)
    | some pn =>
      match s.gather 2 v pn (fun l => (v.taken pn).length < l.length) with
      | .error t => .error t
      | .ok (v1, s1) => State.feed f s1 v1 need

/-- The beats that the lists of some ports can have, with the ends of their traversals. -/
def State.feedFuel (s : State) (pns : List Nat) : Nat := pns.foldl (fun n pn => n + (s.port pn).tiles true + 1) 1

/-- The key of a row: bytes 0 to 3 (R402). -/
def Beat.key (b : Beat) : BitVec 32 := BitVec.ofNat 32 (leNat (b.bytes.take 4))

/-! ## Set operations (R410, R411) -/

/-- What a set operation meets at its pointers; `waits` says whose next key it waits for: list B's, or list A's. -/
structure SetWork where
  cnt : Nat
  out : List (BitVec 32)
  fault : Option (Nat × Nat × Bool)
  waits : Option Bool

/-- A key emitted, or the end of the output's room (0x53). -/
def SetWork.emit (x : SetWork) (room : Option Nat) (k : BitVec 32) : SetWork :=
  if x.fault.isSome then x
  else if (match room with | some n => decide (n ≤ x.cnt) | none => false) then { x with fault := some (0x53, 0, false) }
  else { x with cnt := x.cnt + 1, out := k :: x.out }

/-- A key below its predecessor (0x52). -/
def SetWork.check (x : SetWork) (signed listB : Bool) (i : Nat) (prev : BitVec 32) (next : Option (BitVec 32)) : SetWork :=
  match next with
  | none => x
  | some k => if x.fault.isNone && keyLt signed k prev then { x with fault := some (0x52, i, listB) } else x

/-- The loop of R410: op 0 intersection, 1 union, 2 difference, 3 merge. It stops where a list that is not whole has no next key. -/
def setLoop (fuel : Nat) (op : Nat) (signed : Bool) (room : Option Nat) (wholeA wholeB : Bool) (as bs : List (BitVec 32)) (i j : Nat) (x : SetWork) : SetWork :=
  match fuel with
  | 0 => x
  | f + 1 =>
    if x.fault.isSome then x
    else
      match as, bs with
      | [], [] => { x with waits := if !wholeA then some false else if !wholeB then some true else none }
      | a :: ta, [] =>
        if !wholeB then { x with waits := some true }
        else
          let y := if op ≠ 0 then x.emit room a else x
          setLoop f op signed room wholeA wholeB ta [] (i + 1) j (y.check signed false (i + 1) a ta.head?)
      | [], b :: tb =>
        if !wholeA then { x with waits := some false }
        else
          let y := if op = 1 || op = 3 then x.emit room b else x
          setLoop f op signed room wholeA wholeB [] tb i (j + 1) (y.check signed true (j + 1) b tb.head?)
      | a :: ta, b :: tb =>
        if keyLt signed a b then
          let y := if op ≠ 0 then x.emit room a else x
          setLoop f op signed room wholeA wholeB ta (b :: tb) (i + 1) j (y.check signed false (i + 1) a ta.head?)
        else if keyLt signed b a then
          let y := if op = 1 || op = 3 then x.emit room b else x
          setLoop f op signed room wholeA wholeB (a :: ta) tb i (j + 1) (y.check signed true (j + 1) b tb.head?)
        else
          let y := if op = 0 || op = 1 then x.emit room a else if op = 3 then (x.emit room a).emit room b else x
          let z := (y.check signed false (i + 1) a ta.head?).check signed true (j + 1) b tb.head?
          setLoop f op signed room wholeA wholeB ta tb (i + 1) (j + 1) z

/-- The elements that a write port's traversal has left. -/
def Port.room (p : Port) : Nat := (List.range (p.tiles true - p.cursor)).foldl (fun n i => n + (p.tileCoords (p.cursor + i)).length) 0 - p.nBeats

/-- A set operation emits its keys. -/
def Inv.emits (v : Inv) : Bool := v.o.m.getLsbD 0

/-- A set operation over the keys taken so far. -/
def setWork (s : State) (v : Inv) : SetWork :=
  let as := v.keys s v.o.a.toNat
  let bs := v.keys s v.o.b.toNat
  setLoop (as.length + bs.length + 1) (v.op - 0xE0) (v.o.q = 1) (if v.emits then some (s.port v.o.uimm).room else none)
    (v.listWhole s v.o.a.toNat) (v.listWhole s v.o.b.toNat) as bs 0 0 ⟨0, [], none, none⟩

/-- A port of INT32 rows of one element row (R410). -/
def Port.keyed (p : Port) : Bool := dFmt p.desc = 5 && p.engineFmt true = 5 && dRows p.desc = 1

/-- The start checks of a set operation, in order (R410). -/
def setStart (s : State) (v : Inv) : Option TrapInfo :=
  let a := v.o.a.toNat
  let b := v.o.b.toNat
  let e := v.o.uimm
  if !(s.port a).streams false then some (mgTrap s cTidInvalid 0x20 a)
  else if !(s.port b).streams false || a = b then some (mgTrap s cTidInvalid 0x20 b)
  else if !(s.port a).keyed then some (mgTrap s cFmtMismatch 0x30 a)
  else if !(s.port b).keyed then some (mgTrap s cFmtMismatch 0x30 b)
  else if v.emits && (!(s.port e).streams true || !(s.port e).keyed || e = a || e = b) then some (mgTrap s cTidInvalid 0x51 e)
  else none

/-- The barrier of a merge invocation. -/
def Inv.mgBar (v : Inv) : Option Nat := if v.o.c = 0 then none else some v.sc.toNat

/-- S[D] of the issuing context written. -/
def State.writeD (s : State) (v : Inv) (w : Word) : State := s.putCtxAt v.ctx ((s.ctxAt v.ctx).setS v.o.d.toNat w)

/-- The place reserved by .MK takes its mark, or is removed (R411). -/
def State.settleMark (s : State) (v : Inv) (cnt : Nat) : State :=
  if v.o.m.getLsbD 1 && v.ctx ≠ .k then
    let code : Mark := if cnt = 0 then v.mkPair.extractLsb' 4 4 else v.mkPair.extractLsb' 0 4
    let x := s.ctxAt v.ctx
    let mine := fun (e : InsMark) => e.code = none && e.inv = v.id
    let put := fun (l : List InsMark) => if code = 0 then l.filter (fun e => !mine e) else l.map (fun e => if mine e then { e with code := some code } else e)
    s.putCtxAt v.ctx { x with ins := put x.ins, scroll := { x.scroll with insBack := put x.scroll.insBack } }
  else s

/-- A set operation that waits for no key ends (R407, R410). -/
def commitSet (s : State) (v : Inv) : State :=
  let x := setWork s v
  let e := v.o.uimm
  match x.fault with
  | some (sub, i, listB) => s.discard v (if sub = 0x53 then mgTrap s cTidInvalid 0x53 e else keyTrap 0x52 i (if listB then v.o.b.toNat else v.o.a.toNat) listB) noTile
  | none =>
    let p := s.port e
    let w := if v.emits then p.placeElems (p.tiles true + 1) e p.place (x.out.reverse.map BitVec.toNat) else ([], 0, p.place, [])
    s.commit v ⟨w.1, v.mgBar, 1, w.2.1,
      fun t => ((if v.emits then t.putPort e ((t.port e).setPlace w.2.2.1) else t).writeD v (BitVec.ofNat 64 x.cnt)).settleMark v x.cnt, .engine 2⟩

/-- The port whose next key a set operation waits for. -/
def setNeed (s : State) (v : Inv) : Option Nat :=
  let x := setWork s v
  if x.fault.isSome then none else x.waits.map (fun b => if b then v.o.b.toNat else v.o.a.toNat)

/-- A set operation's end: its lists are read as its pointers need them, or it starves (R418). -/
def endSet (s : State) (v : Inv) : State :=
  match s.feed (s.feedFuel [v.o.a.toNat, v.o.b.toNat]) v setNeed with
  | .error t => t
  | .ok (v1, s1) => commitSet s1 v1

/-- A merge invocation's port checks at issue: its barrier. -/
def mgIssue (s : State) (op : Nat) (o : Ops) (ports : List Nat) (own : Option TrapInfo) : Eff :=
  match own with
  | some e => .trap e s
  | none =>
    match barCheck s o.c o.a.toNat 0xFF with
    | some e => .trap e s
    | none => s.issue op o ports.eraseDups (o.m.getLsbD 2)

/-- A set operation with .MK of a U context reserves the place of its mark (R411). -/
def issueSet (s : State) (op : Nat) (o : Ops) : Eff :=
  let ports := (o.a.toNat :: o.b.toNat :: if o.m.getLsbD 0 then [o.uimm] else [])
  let x := s.ctx
  if o.m.getLsbD 1 && !s.kLevel then
    match mgIssue s op o ports (if 16 ≤ x.ins.length then some (bufferFull x) else none) with
    | .next t => .next (t.putCtx { t.ctx with ins := t.ctx.ins ++ [⟨.afterData t.ctx.qbase, none, s.core.nextInv⟩] })
    | e => e
  else mgIssue s op o ports none

/-- MGISECT (R410). -/
def execMgisect (o : Ops) (s : State) : Host.Outcome State Fault Refusal := runInstr o (fun t => issueSet t 0xE0 o) s
/-- MGUNION (R410). -/
def execMgunion (o : Ops) (s : State) : Host.Outcome State Fault Refusal := runInstr o (fun t => issueSet t 0xE1 o) s
/-- MGDIFF (R410). -/
def execMgdiff (o : Ops) (s : State) : Host.Outcome State Fault Refusal := runInstr o (fun t => issueSet t 0xE2 o) s
/-- MGMERGE (R410). -/
def execMgmerge (o : Ops) (s : State) : Host.Outcome State Fault Refusal := runInstr o (fun t => issueSet t 0xE3 o) s

/-! ## Steering (R412) -/

/-- The port of a leaf. -/
def leafPort (w : Word) (i : Nat) : Nat := bits w (4 * i + 2) (4 * i)

/-- Pivots rise, as Q compares them. -/
def rising32 (signed : Bool) (l : List (BitVec 32)) : Bool :=
  match l with
  | a :: b :: t => !keyLt signed b a && rising32 signed (b :: t)
  | _ => true

/-- A context's pivots. -/
def Ctx.pivotList (x : Ctx) : List (BitVec 32) := (List.range 6).map (fun i => SMap.get 0 x.pivots i)

/-- MGSTEER's issue checks (R412). -/
def steerBad (s : State) (o : Ops) : Bool :=
  let w := s.getS o.b
  let n := o.uimm
  (List.range n).any (fun i => bit w (4 * i + 3)) || w.toNat / 2 ^ (4 * n) ≠ 0 || !rising32 (o.q = 1) (s.ctx.pivotList.take (n - 1))

/-- MGSTEER (R412). -/
def execMgsteer (o : Ops) (s : State) : Host.Outcome State Fault Refusal :=
  runInstr o (fun t => mgIssue t 0xE4 o (o.a.toNat :: (List.range o.uimm).map (leafPort (t.getS o.b)))
    (if steerBad t o then some (unitTrap cTidInvalid (some 0x55) none o.a.toNat 0xFF 0) else none)) s

/-- The leaf ports of a steer. -/
def Inv.leafPorts (v : Inv) : List Nat := (List.range v.o.uimm).map (leafPort v.sb)

/-- The start checks of MGSTEER, in order. -/
def steerStart (s : State) (v : Inv) : Option TrapInfo :=
  let a := v.o.a.toNat
  if !(s.port a).streams false then some (mgTrap s cTidInvalid 0x20 a)
  else
    match v.leafPorts.find? (fun q => !(s.port q).streams true || q = a) with
    | some q => some (mgTrap s cTidInvalid 0x51 q)
    | none => (v.leafPorts.find? (fun q => (s.port q).tileBytes true ≠ (s.port a).tileBytes true)).map (fun q => mgTrap s cFmtMismatch 0x30 q)

/-- Rows written to ports one beat after another: the stores, the flags, and each port's next tile. -/
structure RowWork where
  writes : List PWrite
  flags : BitVec 16
  next : SMap Nat
  full : Option Nat
  used : Nat

/-- A row written as the next beat of a port, or the port found full (0x53). `next` holds the tile after the last one written, `used` counts the free values drawn. -/
def RowWork.put (x : RowWork) (s : State) (q : Nat) (b : Beat) : RowWork :=
  if x.full.isSome then x
  else
    let p := s.port q
    let n := SMap.get 0 x.next q
    let k := if n = 0 then p.nextTile else n
    if p.tiles true ≤ k then { x with full := some q }
    else
      let r := p.writeTile (s.free + x.used) q true k b.bytes b.scales
      { x with writes := x.writes ++ r.1, flags := x.flags ||| r.2, next := SMap.set 0 x.next q (k + 1), used := x.used + b.scales.length }

/-- The ports stand behind the rows written. -/
def RowWork.move (x : RowWork) (t : State) : State :=
  x.next.foldl (fun u e => u.putPort e.1 ((u.port e.1).setPlace ⟨e.2, 0⟩)) { t with free := t.free + x.used }

/-- The leaf of a key: the pivots at or below it (R412). -/
def Inv.leafOf (v : Inv) (k : BitVec 32) : Nat := ((v.pivots.take (v.o.uimm - 1)).filter (fun p => !keyLt (v.o.q = 1) k p)).length

/-- The rows that MGSTEER has taken, written to their leaves. -/
def steerWork (s : State) (v : Inv) : RowWork :=
  (v.taken v.o.a.toNat).foldl (fun (x : RowWork) b => x.put s (leafPort v.sb (v.leafOf b.key)) b) ⟨[], 0, [], none, 0⟩

/-- MGSTEER needs rows until its list is whole or a leaf is full. -/
def steerNeed (s : State) (v : Inv) : Option Nat :=
  if v.listWhole s v.o.a.toNat || (steerWork s v).full.isSome then none else some v.o.a.toNat

/-- MGSTEER's end. -/
def endSteer (s : State) (v : Inv) : State :=
  match s.feed (s.feedFuel [v.o.a.toNat]) v steerNeed with
  | .error t => t
  | .ok (v1, s1) =>
    let rows := v1.taken v.o.a.toNat
    let x := steerWork s1 v1
    match x.full with
    | some q => s1.discard v1 (mgTrap s1 cTidInvalid 0x53 q) noTile
    | none =>
      let counts : SMap Word := (List.range 7).foldl (fun m i => SMap.set 0 m i (BitVec.ofNat 64 (rows.filter (fun b => v.leafOf b.key = i)).length)) []
      s1.commit v1 ⟨x.writes, v.mgBar, 1, x.flags,
        fun t =>
          let u := (x.move t).writeD v (BitVec.ofNat 64 rows.length)
          u.putCtxAt v.ctx { u.ctxAt v.ctx with leaves := counts }, .engine 2⟩

/-! ## Sequence order (R413) -/

/-- MGSEQ (R413). -/
def execMgseq (o : Ops) (s : State) : Host.Outcome State Fault Refusal :=
  runInstr o (fun t => mgIssue t 0xE5 o [o.a.toNat, o.b.toNat, o.uimm] none) s

/-- The start checks of MGSEQ, in order. -/
def seqStart (s : State) (v : Inv) : Option TrapInfo :=
  let a := v.o.a.toNat
  let b := v.o.b.toNat
  let e := v.o.uimm
  if !(s.port a).streams false then some (mgTrap s cTidInvalid 0x20 a)
  else if !(s.port b).streams false || a = b then some (mgTrap s cTidInvalid 0x20 b)
  else if !(s.port e).streams true || e = a || e = b then some (mgTrap s cTidInvalid 0x51 e)
  else if (s.port a).tileBytes true ≠ (s.port e).tileBytes true then some (mgTrap s cFmtMismatch 0x30 a)
  else if (s.port b).tileBytes true ≠ (s.port e).tileBytes true then some (mgTrap s cFmtMismatch 0x30 b)
  else none

/-- The rows in sequence order, last first, the next number, the gap (the index of the key in its list, and the list), and the list whose head has yet to arrive: list B, or list A. -/
structure SeqWork where
  out : List Beat
  e : BitVec 32
  gap : Option (Nat × Bool)
  waits : Option Bool

/-- The loop of R413: each step waits until each list's head has arrived or that list has ended. -/
def seqLoop (fuel : Nat) (wholeA wholeB : Bool) (as bs : List Beat) (i j : Nat) (e : BitVec 32) (out : List Beat) : SeqWork :=
  match fuel with
  | 0 => ⟨out, e, none, none⟩
  | f + 1 =>
    if as.isEmpty && !wholeA then ⟨out, e, none, some false⟩
    else if bs.isEmpty && !wholeB then ⟨out, e, none, some true⟩
    else
      match as, bs with
      | [], [] => ⟨out, e, none, none⟩
      | a :: ta, bs =>
        if a.key = e then seqLoop f wholeA wholeB ta bs (i + 1) j (e + 1) (a :: out)
        else
          match bs with
          | b :: tb => if b.key = e then seqLoop f wholeA wholeB (a :: ta) tb i (j + 1) (e + 1) (b :: out) else ⟨out, e, some (i, false), none⟩
          | [] => ⟨out, e, some (i, false), none⟩
      | [], b :: tb => if b.key = e then seqLoop f wholeA wholeB [] tb i (j + 1) (e + 1) (b :: out) else ⟨out, e, some (j, true), none⟩

/-- MGSEQ over the rows taken so far. -/
def seqWork (s : State) (v : Inv) : SeqWork :=
  let as := v.taken v.o.a.toNat
  let bs := v.taken v.o.b.toNat
  seqLoop (as.length + bs.length + 1) (v.listWhole s v.o.a.toNat) (v.listWhole s v.o.b.toNat) as bs 0 0 (v.sd.setWidth 32) []

/-- The rows of MGSEQ written to its port. -/
def SeqWork.rows (r : SeqWork) (s : State) (v : Inv) : RowWork :=
  r.out.reverse.foldl (fun (x : RowWork) b => x.put s v.o.uimm b) ⟨[], 0, [], none, 0⟩

/-- MGSEQ that waits for no row ends. -/
def commitSeq (s : State) (v : Inv) : State :=
  let r := seqWork s v
  let x := r.rows s v
  match x.full, r.gap with
  | some q, _ => s.discard v (mgTrap s cTidInvalid 0x53 q) noTile
  | none, some (i, listB) => s.discard v (keyTrap 0x54 i (if listB then v.o.b.toNat else v.o.a.toNat) listB) noTile
  | none, none => s.commit v ⟨x.writes, v.mgBar, 1, x.flags, fun t => (x.move t).writeD v (r.e.setWidth 64), .engine 2⟩

/-- The port whose next row MGSEQ waits for. -/
def seqNeed (s : State) (v : Inv) : Option Nat :=
  let r := seqWork s v
  if (r.rows s v).full.isSome then none else r.waits.map (fun b => if b then v.o.b.toNat else v.o.a.toNat)

/-- MGSEQ's end. -/
def endSeq (s : State) (v : Inv) : State :=
  match s.feed (s.feedFuel [v.o.a.toNat, v.o.b.toNat]) v seqNeed with
  | .error t => t
  | .ok (v1, s1) => commitSeq s1 v1

/-- The start checks of a merge invocation. -/
def mgStart (s : State) (v : Inv) : Option TrapInfo := if v.op = 0xE4 then steerStart s v else if v.op = 0xE5 then seqStart s v else setStart s v

/-- The end of a merge invocation. -/
def endMg (s : State) (v : Inv) : State := if v.op = 0xE4 then endSteer s v else if v.op = 0xE5 then endSeq s v else endSet s v

/-! ## Status and configuration (R414 to R416) -/

/-- The running invocation of the engine. -/
def Core.mgRunning (c : Core) : Option Inv := c.invs.find? (fun v => unitOf v.op = 2 && (v.st = .running || v.st = .starved))

/-- MGSTAT (R414). -/
def mgWord (c : Core) : Word :=
  BitVec.ofNat 64 (c.engineCount 2 * 2 ^ 52 + (match c.mgRunning with
    | some v => 2 ^ 51 + (if v.st = .starved || v.ports.any (fun q => (SMap.get Port.reset c.ports q).fault.isSome) then 2 ^ 50 else 0) + (v.op - 0xE0) * 2 ^ 47
    | none => 7 * 2 ^ 47))

/-- The count that the running invocation has reached (R415): for the rows and keys it has taken. -/
def mgPart (s : State) : Nat :=
  match s.core.mgRunning with
  | none => 0
  | some v =>
    if v.op = 0xE4 then (v.taken v.o.a.toNat).length
    else if v.op = 0xE5 then (seqWork s v).out.length
    else (setWork s v).cnt

/-- MGSTAT (R414). -/
def execMgstat (o : Ops) (s : State) : Host.Outcome State Fault Refusal := runPlain o (fun t => t.setS o.d (mgWord t.core)) s
/-- MGSTAT.PART (R415). -/
def execMgstatPart (o : Ops) (s : State) : Host.Outcome State Fault Refusal := runPlain o (fun t => t.setS o.d (BitVec.ofNat 64 (mgPart t))) s
/-- MGSTAT.LEAF (R415). -/
def execMgstatLeaf (o : Ops) (s : State) : Host.Outcome State Fault Refusal := runPlain o (fun t => t.setS o.d (SMap.get 0 t.ctx.leaves o.uimm)) s

/-- MGCFG.PIVOT (R416). -/
def execMgcfgPivot (o : Ops) (s : State) : Host.Outcome State Fault Refusal :=
  runPlain o (fun t => t.putCtx { t.ctx with pivots := SMap.set 0 t.ctx.pivots o.uimm ((t.getS o.a).setWidth 32) }) s
/-- MGCFG.PREAD (R416). -/
def execMgcfgPread (o : Ops) (s : State) : Host.Outcome State Fault Refusal :=
  runPlain o (fun t => t.setS o.d ((SMap.get 0 t.ctx.pivots o.uimm).setWidth 64)) s
/-- MGCFG.MARK (R416). -/
def execMgcfgMark (o : Ops) (s : State) : Host.Outcome State Fault Refusal :=
  runInstr o (fun t =>
    let w := t.getS o.a
    let hw := fun (n : Nat) => 4 ≤ n && n ≤ 7
    if 256 ≤ w.toNat || hw (bits w 3 0) || hw (bits w 7 4) then .trap (unitTrap cTidInvalid (some 0x55) none 0xFF 0xFF 0) t
    else .next (t.putCtx { t.ctx with mkPair := w.setWidth 8 })) s

end Sys2Proof.Machine
end

