-- ==== Sys2Proof/Machine/Vector.lean ====
section
/-! DEFINITION. The vector engine: opcodes 0xA0 to 0xD3 (R364 to R398), with the trees of R107 and R108. -/

namespace Sys2Proof.Machine

/-! ## Lanes under the guard (R364, R365, R368) -/

/-- A lane's new value with its flags. -/
abbrev Lane := BitVec 32 × BitVec 16

/-- An element-wise form: unmasked lanes of V[D] take their values and set their flags. -/
def laneWise (o : Ops) (f : State → Nat → Lane) (t : State) : State :=
  let m := guardMask t.ctx o.g
  let v := t.getV o.d
  let rs := (List.range 256).map (fun i => if m.getLsbD i then f t i else (lane v i, 0))
  (t.setV o.d (ofLaneList (rs.map (·.1)))).addFlags (rs.foldl (fun g r => g ||| r.2) 0)

/-- An element-wise form as an instruction. -/
def runLanes (o : Ops) (f : State → Nat → Lane) (s : State) : Host.Outcome State Fault Refusal := runVec o (fun t => .next (laneWise o f t)) s

/-- Lane i of A. -/
def aLane (t : State) (o : Ops) (i : Nat) : BitVec 32 := lane (t.getV o.a) i
/-- Lane i of B, or S[B][31:0] with .S (R370). -/
def bLane (t : State) (o : Ops) (i : Nat) : BitVec 32 := if o.m = 1 then (t.getS o.b).setWidth 32 else lane (t.getV o.b) i
/-- Lane i of D. -/
def dLane (t : State) (o : Ops) (i : Nat) : BitVec 32 := lane (t.getV o.d) i

/-- A floating form of two operands. -/
def float2 (o : Ops) (f : FVal → FVal → Nat × BitVec 16) (s : State) : Host.Outcome State Fault Refusal :=
  runLanes o (fun t i => toF32 (f (f32 (aLane t o i)) (f32 (bLane t o i)))) s

/-- A fused form. -/
def float3 (o : Ops) (neg : Bool) (s : State) : Host.Outcome State Fault Refusal :=
  runLanes o (fun t i =>
    let c := f32 (dLane t o i)
    toF32 (fmaVal fp32 o.q.toNat (f32 (aLane t o i)) (f32 (bLane t o i)) (if neg then c.neg else c))) s

/-- A form of one operand. -/
def float1 (o : Ops) (f : BitVec 32 → Lane) (s : State) : Host.Outcome State Fault Refusal := runLanes o (fun t i => f (aLane t o i)) s

/-- A form of integer lanes. -/
def int2 (o : Ops) (f : BitVec 32 → BitVec 32 → Lane) (s : State) : Host.Outcome State Fault Refusal :=
  runLanes o (fun t i => f (aLane t o i) (bLane t o i)) s

/-- VABS and VNEG: a NaN becomes the canonical NaN (R372). -/
def signOp (x : BitVec 32) (y : BitVec 32) : Lane :=
  match f32 x with
  | .nan _ => (BitVec.ofNat 32 (nanBits fp32 false), 0)
  | _ => (y, 0)

/-- VROUND (R373). -/
def roundLane (mode : Nat) (x : BitVec 32) : Lane :=
  match f32 x with
  | .nan _ => (BitVec.ofNat 32 (nanBits fp32 false), 0)
  | .inf _ => (x, 0)
  | .fin n m e =>
    let r := roundWhole mode n m 1 e
    (BitVec.ofNat 32 (roundFin fp32 0 n r.1 0).1, flagIf (!r.2) flagNX)

/-- VSCALEB (R376). -/
def scalebLane (mode : Nat) (n imm : Int) (a : BitVec 32) : Lane :=
  match f32 a with
  | .fin s m e => toF32 (roundFin fp32 mode s m (e + max (-512) (min 512 (n + imm))))
  | v => toF32 (roundVal fp32 mode v)

/-- The class bit of a lane (R374). -/
def classLane (x : BitVec 32) : BitVec 32 :=
  match f32 x with
  | .nan _ => 0x100
  | .inf n => if n then 0x1 else 0x80
  | .fin n m _ => if m = 0 then (if n then 0x8 else 0x10) else if m < 2 ^ 23 then (if n then 0x4 else 0x20) else if n then 0x2 else 0x40

/-! ## Packed elements (R365, R377 to R379) -/

/-- Packed element e of width w replaced. -/
def setPacked (v : VReg) (w e x : Nat) : VReg :=
  (v &&& ~~~(BitVec.ofNat 8192 ((2 ^ w - 1) * 2 ^ (w * e)))) ||| BitVec.ofNat 8192 (x % 2 ^ w * 2 ^ (w * e))

/-- A narrowing conversion into part p of V[D]; guard lane i governs element i of the part (R368, R377). -/
def narrow (o : Ops) (w : Nat) (f : BitVec 32 → Nat × BitVec 16) (s : State) : Host.Outcome State Fault Refusal :=
  runVec o (fun t =>
    let m := guardMask t.ctx o.g
    let r := (List.range 256).foldl (fun (a : VReg × BitVec 16) i =>
      if m.getLsbD i then
        let x := f (aLane t o i)
        (setPacked a.1 w (256 * o.uimm + i) x.1, a.2 ||| x.2)
      else a) (t.getV o.d, 0)
    .next ((t.setV o.d r.1).addFlags r.2)) s

/-- A widening conversion from part p of V[A], exact (R377). -/
def widen (o : Ops) (w : Nat) (f : Nat → FVal) (s : State) : Host.Outcome State Fault Refusal :=
  runLanes o (fun t i => toF32 (convertTo fp32 0 false (f (packed (t.getV o.a) w (256 * o.uimm + i))))) s

/-- The lanes of A with masked lanes as +0 (R378). -/
def quantInput (t : State) (o : Ops) : List FVal :=
  let m := guardMask t.ctx o.g
  (List.range 256).map (fun i => if m.getLsbD i then f32 (aLane t o i) else .fin false 0 0)

/-- VQNT to FP8-E4M3: one row (R378). -/
def quantE4m3 (t : State) (o : Ops) : State :=
  let r := quantRow (quantInput t o)
  let v := (r.2.1.zip (List.range 256)).foldl (fun (a : VReg) e => setPacked a 8 (256 * o.uimm + e.2) e.1.toNat) (t.getV o.d)
  ((t.setV o.d v).setS o.c (r.1.setWidth 64)).addFlags r.2.2

/-- VQNT to BFP: eight blocks (R378). -/
def quantBlocks (t : State) (o : Ops) : State :=
  let w := fmtBits o.q.toNat
  let xs := quantInput t o
  let rs := (List.range 8).map (fun b => quantBfp w (o.m = 1) ((xs.drop (32 * b)).take 32))
  let v := ((rs.flatMap (fun r => r.2.1)).zip (List.range 256)).foldl (fun (a : VReg) e => setPacked a w e.2 e.1) (t.getV o.d)
  let sc := rs.foldr (fun r a => r.1.toNat + 256 * a) 0
  ((t.setV o.d v).setS o.c (BitVec.ofNat 64 sc)).addFlags (rs.foldl (fun g r => g ||| r.2.2) 0)

/-- VDQNT of destination lane i (R379). -/
def dequantLane (t : State) (o : Ops) (i : Nat) : Lane :=
  let q := o.q.toNat
  if q = 3 then toF32 (mulVal fp32 0 (unpack e4m3 (packed (t.getV o.a) 8 (256 * o.uimm + i))) (f32 ((t.getS o.c).setWidth 32)))
  else
    let w := fmtBits q
    toF32 (roundVal fp32 0 (bfpVal w ((t.getS o.c).extractLsb' (8 * (i / 32)) 8) (packed (t.getV o.a) w i)))

/-! ## Integer lanes (R380 to R383) -/

/-- A compare into P[D]: a masked lane is set to 0 (R380). -/
def predWise (o : Ops) (f : State → Nat → Bool) (s : State) : Host.Outcome State Fault Refusal :=
  runVec o (fun t => let m := guardMask t.ctx o.g; .next (t.setP o.d (ofPred (fun i => m.getLsbD i && f t i)))) s

/-- VIADD and VISUB by Q: wrapping, saturated to signed, saturated to unsigned (R382). -/
def addLane (q : Nat) (sub : Bool) (a b : BitVec 32) : Lane :=
  let op := fun (x y : Int) => if sub then x - y else x + y
  match q with
  | 0 => (if sub then a - b else a + b, 0)
  | 1 => let r := saturate (op a.toInt b.toInt) 32; (BitVec.ofInt 32 r.1, r.2)
  | _ =>
    let x := op a.toNat b.toNat
    let y := max 0 (min (2 ^ 32 - 1) x)
    (BitVec.ofInt 32 y, flagIf (decide (y ≠ x)) flagISAT)

/-- VIMUL by Q (R382). -/
def mulLane (q : Nat) (a b : BitVec 32) : BitVec 32 :=
  match q with
  | 0 => a * b
  | 1 => BitVec.ofInt 32 (a.toInt * b.toInt / 2 ^ 32)
  | _ => BitVec.ofNat 32 (a.toNat * b.toNat / 2 ^ 32)

/-- The shift count of lane i (R383). -/
def shiftLane (t : State) (o : Ops) (i : Nat) : Nat := if o.m = 1 then o.uimm else (lane (t.getV o.b) i).toNat % 32

/-! ## Trees (R107, R108, R384) -/

/-- An operation of VRED and VSCAN. -/
def redOp (q : Nat) (a b : BitVec 32) : Lane :=
  match q with
  | 0 => toF32 (addVal fp32 0 (f32 a) (f32 b))
  | 1 => toF32 (mulVal fp32 0 (f32 a) (f32 b))
  | 2 => (BitVec.ofNat 32 (minMaxBits fp32 false a.toNat b.toNat), 0)
  | 3 => (BitVec.ofNat 32 (minMaxBits fp32 true a.toNat b.toNat), 0)
  | 4 => (a + b, 0)
  | 5 => (if b.slt a then b else a, 0)
  | 6 => (if a.slt b then b else a, 0)
  | 7 => (if b.ult a then b else a, 0)
  | 8 => (if a.ult b then b else a, 0)
  | 9 => (a &&& b, 0)
  | 10 => (a ||| b, 0)
  | _ => (a ^^^ b, 0)

/-- The identity of an operation. -/
def redIdentity (q : Nat) : BitVec 32 :=
  match q with
  | 0 => 0x80000000
  | 1 => 0x3F800000
  | 2 => 0x7F800000
  | 3 => 0xFF800000
  | 5 => 0x7FFFFFFF
  | 6 => 0x80000000
  | 7 | 9 => 0xFFFFFFFF
  | _ => 0

/-- One level of the tree from the level below. -/
def treeLevel (f : BitVec 32 → BitVec 32 → Lane) (l : List Lane) : List Lane :=
  match l with
  | a :: b :: t => (let r := f a.1 b.1; (r.1, a.2 ||| b.2 ||| r.2)) :: treeLevel f t
  | _ => []

/-- The levels of the tree from the level given upwards; flags gather towards the root. -/
def treeLevels (n : Nat) (f : BitVec 32 → BitVec 32 → Lane) (l : List Lane) : List (List Lane) :=
  match n with
  | 0 => [l]
  | k + 1 => l :: treeLevels k f (treeLevel f l)

/-- The lanes that enter a tree: masked lanes as the identity. -/
def treeInput (m : PReg) (ident : BitVec 32) (x : Nat → BitVec 32) : List Lane := (List.range 256).map (fun i => (if m.getLsbD i then x i else ident, 0))

/-- The root of the tree (R107). -/
def treeRoot (f : BitVec 32 → BitVec 32 → Lane) (l : List Lane) : Lane := ((treeLevels 8 f l).getLastD []).headD (0, 0)

/-- VSCAN's lane i: the blocks of [0, i], largest first, combined left to right (R108). -/
def scanLane (f : BitVec 32 → BitVec 32 → Lane) (levels : Array (Array Lane)) (i : Nat) : Lane :=
  let blocks := ([8, 7, 6, 5, 4, 3, 2, 1, 0] : List Nat).filter (fun l => (i + 1) / 2 ^ l % 2 = 1)
  let vals := blocks.map (fun l => (levels.getD l #[]).getD ((i + 1) / 2 ^ l - 1) (0, 0))
  match vals with
  | [] => (0, 0)
  | x :: t => t.foldl (fun a y => let r := f a.1 y.1; (r.1, a.2 ||| y.2 ||| r.2)) x

/-- VRED's extension to 64 bits (R384). -/
def redExtend (q : Nat) (x : BitVec 32) : Word := if 4 ≤ q && q ≤ 6 then x.signExtend 64 else x.setWidth 64

/-! ## Sorting, selection, gates and random bits (R387 to R393) -/

/-- An element put before the first that it precedes or equals. -/
def insertBy {α : Type} (before : α → α → Bool) (x : α) (l : List α) : List α :=
  match l with
  | [] => [x]
  | y :: t => if before x y then x :: y :: t else y :: insertBy before x t

/-- A stable sort. -/
def sortBy {α : Type} (before : α → α → Bool) (l : List α) : List α := l.foldr (insertBy before) []

/-- The place of FP32 bits in VSORT's order (R387). -/
def sortKeyF (x : BitVec 32) : Int :=
  match f32 x with
  | .nan _ => 2 ^ 33
  | _ => if x.getLsbD 31 then -((x.toNat - 2 ^ 31 : Nat) : Int) - 1 else x.toNat

/-- VSORT's key. -/
def sortKey (q : Nat) (x : BitVec 32) : Int := if q = 0 then sortKeyF x else if q = 1 then x.toInt else x.toNat

/-- VSORT (R387). -/
def vsort (t : State) (o : Ops) : State :=
  let v := t.getV o.a
  let ls := maskLanes (guardMask t.ctx o.g)
  let key := fun i => sortKey o.q.toNat (lane v i)
  let sorted := (sortBy (fun a b : Nat => if o.m.getLsbD 0 then decide (key b ≤ key a) else decide (key a ≤ key b)) ls).toArray
  let old := t.getV o.d
  t.setV o.d (ofLanes (fun j => match sorted[j]? with
    | some i => if o.m.getLsbD 1 then BitVec.ofNat 32 i else lane v i
    | none => lane old j))

/-- Mix64 of R388. -/
def mix64 (x : Word) : Word :=
  let z := x + 0x9E3779B97F4A7C15
  let z := (z ^^^ (z >>> 30)) * 0xBF58476D1CE4E5B9
  let z := (z ^^^ (z >>> 27)) * 0x94D049BB133111EB
  z ^^^ (z >>> 31)

/-- Fx of R388. -/
def fxScore (x : BitVec 32) : Int :=
  match f32 x with
  | .nan _ => -(2 ^ 23)
  | .inf n => if n then -(2 ^ 23) else 2 ^ 23 - 1
  | .fin n m e => let r := (roundWhole 0 n m 1 (e + 16)).1; max (-(2 ^ 23)) (min (2 ^ 23 - 1) (if n then -(r : Int) else r))

/-- The rank of an FP32 score: −0 equals +0, NaN below −Inf (R391). -/
def topScore (x : BitVec 32) : Int :=
  match f32 x with
  | .nan _ => -(2 ^ 33)
  | _ => if x.getLsbD 31 then -((x.toNat - 2 ^ 31 : Nat) : Int) else x.toNat

/-- VTOPK (R391). -/
def vtopk (t : State) (o : Ops) : State :=
  let v := t.getV o.a
  let fx := bit t.core.detmode 0
  let k := min (t.getS o.b).toNat 256
  let tok := mix64 (t.getS o.c)
  let rank := fun (i : Nat) => if fx then (fxScore (lane v i), 0) else (topScore (lane v i), (mix64 (t.ctx.seed ^^^ tok ^^^ BitVec.ofNat 64 i)).toNat)
  let ls := (maskLanes (guardMask t.ctx o.g)).map (fun i => (i, rank i))
  let best := ((sortBy (fun (a b : Nat × Int × Nat) => b.2.1 < a.2.1 || (b.2.1 = a.2.1 && decide (b.2.2 ≤ a.2.2))) ls).take k).toArray
  t.setV o.d (ofLanes (fun j => match best[j]? with
    | some e => BitVec.ofNat 32 e.1
    | none => 0xFFFFFFFF))

/-- The entries that VGATE includes: the lane and the score (R392). -/
def gateEntries (t : State) (o : Ops) : List (Nat × BitVec 32) :=
  let m := guardMask t.ctx o.g
  (List.range (min (t.getS o.c).toNat 256)).filterMap (fun j =>
    let x := (lane (t.getV o.b) j).toNat
    if m.getLsbD j && x < 256 then some (j, lane (t.getV o.a) x) else none)

/-- Lanes of entries, +0 elsewhere. -/
def gateWrite (t : State) (o : Ops) (l : List (Nat × BitVec 32)) (g : BitVec 16) : State :=
  let a := l.foldl (fun (a : Array (BitVec 32)) e => a.setIfInBounds e.1 e.2) (Array.replicate 256 0)
  (t.setV o.d (ofLaneList a.toList)).addFlags g

/-- The FADD tree over entries, excluded lanes as −0. -/
def gateSum (l : List (Nat × BitVec 32)) : Lane :=
  let a := l.foldl (fun (a : Array Lane) e => a.setIfInBounds e.1 (e.2, 0)) (Array.replicate 256 (0x80000000, 0))
  treeRoot (redOp 0) a.toList

/-- Each entry over a sum. -/
def gateDivide (t : State) (o : Ops) (l : List (Nat × BitVec 32)) (g : BitVec 16) : State :=
  let sum := gateSum l
  let ws := l.map (fun e => (e.1, toF32 (divVal fp32 0 (f32 e.2) (f32 sum.1))))
  gateWrite t o (ws.map (fun e => (e.1, e.2.1))) (ws.foldl (fun f e => f ||| e.2.2) (g ||| sum.2))

/-- A fixed-point weight n / sum as FP32: rounded to 24 fraction bits. -/
def gateFix (n sum : Nat) : BitVec 32 := BitVec.ofNat 32 (roundFin fp32 0 false (roundWhole 0 false (n * 2 ^ 24) sum 0).1 (-24)).1

/-- VGATE's softmax (R392). -/
def gateSoftmax (t : State) (o : Ops) : State :=
  let l := gateEntries t o
  match l with
  | [] => gateWrite t o [] 0
  | h :: r =>
    if bit t.core.detmode 0 then
      let fs := l.map (fun e => (e.1, fxScore e.2))
      let m := fs.foldl (fun (m : Int) e => max m e.2) (fxScore h.2)
      let es := fs.map (fun e => (e.1, fnExpFix (e.2 - m)))
      let sum := es.foldl (fun n e => n + e.2) 0
      gateWrite t o (es.map (fun e => (e.1, gateFix e.2 sum))) 0
    else
      let m := r.foldl (fun a e => minMaxBits fp32 true a e.2.toNat) (minMaxBits fp32 true h.2.toNat h.2.toNat)
      let es := l.map (fun e =>
        let d := addVal fp32 0 (f32 e.2) (unpack fp32 m).neg
        let x := fnExp (BitVec.ofNat 32 d.1)
        (e.1, BitVec.ofNat 32 x.1, d.2 ||| x.2))
      gateDivide t o (es.map (fun e => (e.1, e.2.1))) (es.foldl (fun g e => g ||| e.2.2) 0)

/-- VGATE's renormalisation (R392). -/
def gateRenorm (t : State) (o : Ops) : State :=
  let l := gateEntries t o
  if l.isEmpty then gateWrite t o [] (flagIf (bit t.core.detmode 0) flagNV)
  else if bit t.core.detmode 0 then
    let gs := l.map (fun e => (e.1, (max (fxScore e.2) 0).toNat))
    let sum := gs.foldl (fun n e => n + e.2) 0
    if sum = 0 then gateWrite t o [] flagNV else gateWrite t o (gs.map (fun e => (e.1, gateFix e.2 sum))) 0
  else gateDivide t o l 0

/-- VPRNG's lane i (R393). -/
def prngLane (t : State) (o : Ops) (i : Nat) : BitVec 32 :=
  let x := mix64 (t.ctx.seed ^^^ mix64 (t.getS o.a + BitVec.ofNat 64 i))
  if o.q = 1 then BitVec.ofNat 32 (roundFin fp32 0 false (bits x 31 8) (-24)).1 else x.setWidth 32

/-! ## The histogram (R394) -/

/-- The bins with their counts, ascending. -/
def histBins (t : State) (o : Ops) : List (Nat × Nat) :=
  let nb := min (t.getS o.c).toNat 256
  let v := t.getV o.b
  let a := (maskLanes (guardMask t.ctx o.g)).foldl (fun (a : Array Nat) i =>
    let x := (lane v i).toNat
    if x < nb then a.setIfInBounds x (a.getD x 0 + 1) else a) (Array.replicate 256 0)
  (List.range 256).filterMap (fun b => let n := a.getD b 0; if n = 0 then none else some (b, n))

/-- The additions of VHIST, ascending: each an atomic of R215, a release that reaches `rel`. -/
def histAdds (s : State) (rel : Nat) (l : List ((Nat × List Part) × (Nat × Nat))) : State :=
  l.foldl (fun u e => u.writeAtomic u.me none rel e.1.2 (leBytes 4 ((leNat (readParts u e.1.2) + e.2.2) % 2 ^ 32))) s

/-- VHIST's body. With .REL each addition is a release. -/
def histogram (t : State) (o : Ops) : Eff :=
  let base := t.addr o
  let bins := histBins t o
  match eaFlt base 4 with
  | some f => scalarTrap f true t
  | none =>
    if base.toNat % 4 ≠ 0 then scalarTrap (alignFlt base.toNat) true t
    else
      match laneParts t .write (fun b => base.toNat + 4 * b) (bins.map (·.1)) with
      | .error (f, b) => .trap (fltTrap f b true) t
      | .ok (l, t1) =>
        if t1.waitsWay (l.flatMap (·.2)) then .block .storage t1
        else .next (histAdds t1 (if o.m.getLsbD 0 then scopeReach o.q.toNat else 0) (l.zip bins))

/-! ## Port forms (R395 to R397) -/

/-- A port form is issued to the engine's queue. -/
def portForm (o : Ops) (op : Nat) (pn : Nat) (s : State) : Host.Outcome State Fault Refusal :=
  runInstr o (fun t =>
    let p := t.port pn
    match barCheck t o.b pn (if p.bound then p.tid.toNat else 0xFF) with
    | some e => .trap e t
    | none => t.issue op o [pn] (o.m.getLsbD 2)) s

/-- The start checks of VPRD and VPWR, in order (R395, R396). -/
def vxStart (s : State) (v : Inv) : Option TrapInfo :=
  let wr := v.op = 0xD0
  let pn := v.ports.headD 0
  let p := s.port pn
  let t := fun (c : BitVec 5) (sub : Nat) => unitTrap c (some sub) none pn (if p.bound then p.tid.toNat else 0xFF) 0
  if !p.streams wr then some (t cTidInvalid 0x20)
  else if 1024 < p.tileBytes true then some (t cTidInvalid 0x40)
  else if fmtBfp (p.engineFmt true) then some (t cFmtMismatch 0x20)
  else if (if wr then p.tiles true ≤ p.nextTile else !p.hasBeat v.id) then some (t cTidInvalid 0x41)
  else none

/-- The barrier of a port form. -/
def Inv.vxBar (v : Inv) : Option Nat := if v.o.b = 0 then none else some v.sb.toNat

/-- VPRD's end (R395). -/
def endVprd (s : State) (v : Inv) : State :=
  let pn := v.o.a.toNat
  match s.gather 2 v pn (fun l => !l.isEmpty) with
  | .error t => t
  | .ok (v1, s1) =>
    match v1.taken pn with
    | [] => s1.discard v1 (unitTrap cTidInvalid (some 0x41) none pn (s1.port pn).tid.toNat 0) noTile
    | b :: _ =>
      s1.commit v1 ⟨[], v.vxBar, b.bytes.length, 0,
        fun t => t.putCtxAt v.ctx ((t.ctxAt v.ctx).setV v.o.d.toNat (BitVec.ofNat 8192 (leNat b.bytes))), .engine 1⟩

/-- VPWR's end (R396). -/
def endVpwr (s : State) (v : Inv) : State :=
  let pn := v.o.d.toNat
  let p := s.port pn
  let r := p.writeTile s.free pn true p.nextTile (leBytes (p.tileBytes true) v.va.toNat) []
  s.commit v ⟨r.1, v.vxBar, writeCount r.1, r.2, fun t => t.putPort pn ((t.port pn).setPlace ⟨p.nextTile + 1, 0⟩), .engine 1⟩

/-- The end of a VX invocation. -/
def endVx (s : State) (v : Inv) : State := if v.op = 0xCF then endVprd s v else endVpwr s v

/-! ## The instructions -/

/-- VADD (R371). -/
def execVadd (o : Ops) (s : State) : Host.Outcome State Fault Refusal :=
  float2 o (addVal fp32 o.q.toNat) s

/-- VSUB (R371). -/
def execVsub (o : Ops) (s : State) : Host.Outcome State Fault Refusal :=
  float2 o (fun a b => addVal fp32 o.q.toNat a b.neg) s

/-- VMUL (R371). -/
def execVmul (o : Ops) (s : State) : Host.Outcome State Fault Refusal :=
  float2 o (mulVal fp32 o.q.toNat) s

/-- VDIV (R371). -/
def execVdiv (o : Ops) (s : State) : Host.Outcome State Fault Refusal :=
  float2 o (divVal fp32 o.q.toNat) s

/-- VFMA (R371). -/
def execVfma (o : Ops) (s : State) : Host.Outcome State Fault Refusal :=
  float3 o false s

/-- VFMS (R371). -/
def execVfms (o : Ops) (s : State) : Host.Outcome State Fault Refusal :=
  float3 o true s

/-- VSQRT (R373). -/
def execVsqrt (o : Ops) (s : State) : Host.Outcome State Fault Refusal :=
  float1 o (fun x => toF32 (sqrtVal fp32 o.q.toNat (f32 x))) s

/-- VRSQ (R375). -/
def execVrsq (o : Ops) (s : State) : Host.Outcome State Fault Refusal :=
  float1 o fnRsq s

/-- VRCP (R375). -/
def execVrcp (o : Ops) (s : State) : Host.Outcome State Fault Refusal :=
  float1 o fnRcp s

/-- VMIN (R372). -/
def execVmin (o : Ops) (s : State) : Host.Outcome State Fault Refusal :=
  int2 o (fun a b => (BitVec.ofNat 32 (minMaxBits fp32 false a.toNat b.toNat), 0)) s

/-- VMAX (R372). -/
def execVmax (o : Ops) (s : State) : Host.Outcome State Fault Refusal :=
  int2 o (fun a b => (BitVec.ofNat 32 (minMaxBits fp32 true a.toNat b.toNat), 0)) s

/-- VABS (R372). -/
def execVabs (o : Ops) (s : State) : Host.Outcome State Fault Refusal :=
  float1 o (fun x => signOp x (x &&& 0x7FFFFFFF)) s

/-- VNEG (R372). -/
def execVneg (o : Ops) (s : State) : Host.Outcome State Fault Refusal :=
  float1 o (fun x => signOp x (x ^^^ 0x80000000)) s

/-- VFN (R375). -/
def execVfn (o : Ops) (s : State) : Host.Outcome State Fault Refusal :=
  float1 o (vfn o.q.toNat) s

/-- VSCALEB (R376). -/
def execVscaleb (o : Ops) (s : State) : Host.Outcome State Fault Refusal :=
  runLanes o (fun t i => scalebLane o.q.toNat (lane (t.getV o.b) i).toInt o.simm.toInt (aLane t o i)) s

/-- VROUND (R373). -/
def execVround (o : Ops) (s : State) : Host.Outcome State Fault Refusal :=
  float1 o (roundLane o.q.toNat) s

/-- VCLASS (R374). -/
def execVclass (o : Ops) (s : State) : Host.Outcome State Fault Refusal :=
  float1 o (fun x => (classLane x, 0)) s

/-- VCVT.F2I (R377, R100). -/
def execVcvtF2i (o : Ops) (s : State) : Host.Outcome State Fault Refusal :=
  float1 o (fun x => let r := toInteger 32 (o.q.toNat % 4) (f32 x); (BitVec.ofInt 32 r.1, r.2)) s

/-- VCVT.I2F (R377). -/
def execVcvtI2f (o : Ops) (s : State) : Host.Outcome State Fault Refusal :=
  float1 o (fun x => toF32 (roundVal fp32 (o.q.toNat % 4) (ofInteger x.toInt))) s

/-- VCVT.UI2F (R377). -/
def execVcvtUi2f (o : Ops) (s : State) : Host.Outcome State Fault Refusal :=
  float1 o (fun x => toF32 (roundVal fp32 (o.q.toNat % 4) (ofInteger x.toNat))) s

/-- VCVT.F2BF (R377, R99). -/
def execVcvtF2bf (o : Ops) (s : State) : Host.Outcome State Fault Refusal :=
  narrow o 16 (fun x => convertTo bf16 (o.q.toNat % 4) (o.q.getLsbD 2) (f32 x)) s

/-- VCVT.F2H (R377, R99). -/
def execVcvtF2h (o : Ops) (s : State) : Host.Outcome State Fault Refusal :=
  narrow o 16 (fun x => convertTo fp16 (o.q.toNat % 4) (o.q.getLsbD 2) (f32 x)) s

/-- VCVT.F2E4 (R377, R99). -/
def execVcvtF2e4 (o : Ops) (s : State) : Host.Outcome State Fault Refusal :=
  narrow o 8 (fun x => convertTo e4m3 (o.q.toNat % 4) (o.q.getLsbD 2) (f32 x)) s

/-- VCVT.F2E5 (R377, R99). -/
def execVcvtF2e5 (o : Ops) (s : State) : Host.Outcome State Fault Refusal :=
  narrow o 8 (fun x => convertTo e5m2 (o.q.toNat % 4) (o.q.getLsbD 2) (f32 x)) s

/-- VCVT.F2I8 (R377, R100). -/
def execVcvtF2i8 (o : Ops) (s : State) : Host.Outcome State Fault Refusal :=
  narrow o 8 (fun x => let r := toInteger 8 (o.q.toNat % 4) (f32 x); ((BitVec.ofInt 8 r.1).toNat, r.2)) s

/-- VCVT.BF2F (R377). -/
def execVcvtBf2f (o : Ops) (s : State) : Host.Outcome State Fault Refusal :=
  widen o 16 (unpack bf16) s

/-- VCVT.H2F (R377). -/
def execVcvtH2f (o : Ops) (s : State) : Host.Outcome State Fault Refusal :=
  widen o 16 (unpack fp16) s

/-- VCVT.E42F (R377). -/
def execVcvtE42f (o : Ops) (s : State) : Host.Outcome State Fault Refusal :=
  widen o 8 (unpack e4m3) s

/-- VCVT.E52F (R377). -/
def execVcvtE52f (o : Ops) (s : State) : Host.Outcome State Fault Refusal :=
  widen o 8 (unpack e5m2) s

/-- VCVT.I82F (R377). -/
def execVcvtI82f (o : Ops) (s : State) : Host.Outcome State Fault Refusal :=
  widen o 8 (fun x => ofInteger (BitVec.ofNat 8 x).toInt) s

/-- VQNT.E4M3 (R378). -/
def execVqntE4m3 (o : Ops) (s : State) : Host.Outcome State Fault Refusal :=
  runVec o (fun t => .next (quantE4m3 t o)) s

/-- VQNT to a BFP format (R378). -/
def execVqntBfp (o : Ops) (s : State) : Host.Outcome State Fault Refusal :=
  runVec o (fun t => .next (quantBlocks t o)) s

/-- VDQNT (R379). -/
def execVdqnt (o : Ops) (s : State) : Host.Outcome State Fault Refusal :=
  runLanes o (fun t i => dequantLane t o i) s

/-- VCMP (R380). -/
def execVcmp (o : Ops) (s : State) : Host.Outcome State Fault Refusal :=
  predWise o (fun t i =>
    let a := aLane t o i
    let b := lane (t.getV o.b) i
    if o.m = 1 then intCond o.q.toNat a b else floatCond o.q.toNat (f32 a) (f32 b)) s

/-- VSEL (R381). -/
def execVsel (o : Ops) (s : State) : Host.Outcome State Fault Refusal :=
  runLanes o (fun t i => (if (t.getP o.c).getLsbD i then aLane t o i else lane (t.getV o.b) i, 0)) s

/-- VIADD (R382). -/
def execViadd (o : Ops) (s : State) : Host.Outcome State Fault Refusal :=
  int2 o (addLane o.q.toNat false) s

/-- VISUB (R382). -/
def execVisub (o : Ops) (s : State) : Host.Outcome State Fault Refusal :=
  int2 o (addLane o.q.toNat true) s

/-- VIMUL (R382). -/
def execVimul (o : Ops) (s : State) : Host.Outcome State Fault Refusal :=
  int2 o (fun a b => (mulLane o.q.toNat a b, 0)) s

/-- VIMAD (R382). -/
def execVimad (o : Ops) (s : State) : Host.Outcome State Fault Refusal :=
  runLanes o (fun t i => (aLane t o i * bLane t o i + dLane t o i, 0)) s

/-- VAND (R382). -/
def execVand (o : Ops) (s : State) : Host.Outcome State Fault Refusal :=
  int2 o (fun a b => (a &&& b, 0)) s

/-- VOR (R382). -/
def execVor (o : Ops) (s : State) : Host.Outcome State Fault Refusal :=
  int2 o (fun a b => (a ||| b, 0)) s

/-- VXOR (R382). -/
def execVxor (o : Ops) (s : State) : Host.Outcome State Fault Refusal :=
  int2 o (fun a b => (a ^^^ b, 0)) s

/-- VSHL (R383). -/
def execVshl (o : Ops) (s : State) : Host.Outcome State Fault Refusal :=
  runLanes o (fun t i => (aLane t o i <<< shiftLane t o i, 0)) s

/-- VSHR (R383). -/
def execVshr (o : Ops) (s : State) : Host.Outcome State Fault Refusal :=
  runLanes o (fun t i => (aLane t o i >>> shiftLane t o i, 0)) s

/-- VSRA (R383). -/
def execVsra (o : Ops) (s : State) : Host.Outcome State Fault Refusal :=
  runLanes o (fun t i => ((aLane t o i).sshiftRight (shiftLane t o i), 0)) s

/-- VCLZ (R382). -/
def execVclz (o : Ops) (s : State) : Host.Outcome State Fault Refusal :=
  float1 o (fun x => (if x = 0 then 32 else BitVec.ofNat 32 (31 - Nat.log2 x.toNat), 0)) s

/-- VPOPC (R382). -/
def execVpopc (o : Ops) (s : State) : Host.Outcome State Fault Refusal :=
  float1 o (fun x => (BitVec.ofNat 32 ((List.range 32).filter (fun i => x.getLsbD i)).length, 0)) s

/-- VRED (R384). -/
def execVred (o : Ops) (s : State) : Host.Outcome State Fault Refusal :=
  runVec o (fun t =>
    let q := o.q.toNat
    let r := treeRoot (redOp q) (treeInput (guardMask t.ctx o.g) (redIdentity q) (aLane t o))
    .next ((t.setS o.d (redExtend q r.1)).addFlags r.2)) s

/-- VSCAN (R384). -/
def execVscan (o : Ops) (s : State) : Host.Outcome State Fault Refusal :=
  runVec o (fun t =>
    let q := o.q.toNat
    let levels := ((treeLevels 8 (redOp q) (treeInput (guardMask t.ctx o.g) (redIdentity q) (aLane t o))).map List.toArray).toArray
    let rs := (List.range 256).map (scanLane (redOp q) levels)
    .next ((t.setV o.d (ofLaneList (rs.map (·.1)))).addFlags (rs.foldl (fun g r => g ||| r.2) 0))) s

/-- VBCAST (R385). -/
def execVbcast (o : Ops) (s : State) : Host.Outcome State Fault Refusal :=
  runLanes o (fun t _ => ((t.getS o.a).setWidth 32, 0)) s

/-- VBCAST.LANE (R385). -/
def execVbcastLane (o : Ops) (s : State) : Host.Outcome State Fault Refusal :=
  runLanes o (fun t _ => (aLane t o o.uimm, 0)) s

/-- The lane that S[B] + Imm names (R385). -/
def laneIndex (t : State) (o : Ops) : Nat := ((t.getS o.b).toNat + o.uimm) % 256

/-- VEXTR (R385). -/
def execVextr (o : Ops) (s : State) : Host.Outcome State Fault Refusal :=
  runPlain o (fun t => t.setS o.d ((aLane t o (laneIndex t o)).setWidth 64)) s

/-- VINS (R385). -/
def execVins (o : Ops) (s : State) : Host.Outcome State Fault Refusal :=
  runLanes o (fun t i => (if i = laneIndex t o then (t.getS o.a).setWidth 32 else dLane t o i, 0)) s

/-- VPERM (R385). -/
def execVperm (o : Ops) (s : State) : Host.Outcome State Fault Refusal :=
  runLanes o (fun t i => let x := lane (t.getV o.b) i; (if x.toNat < 256 then aLane t o x.toNat else 0, 0)) s

/-- VROT (R385). -/
def execVrot (o : Ops) (s : State) : Host.Outcome State Fault Refusal :=
  runLanes o (fun t i => (aLane t o ((i + laneIndex t o) % 256), 0)) s

/-- VIOTA (R385). -/
def execViota (o : Ops) (s : State) : Host.Outcome State Fault Refusal :=
  runLanes o (fun t i => ((t.getS o.a + BitVec.ofNat 64 i * (t.getS o.b + o.simm)).setWidth 32, 0)) s

/-- VSORT (R387). -/
def execVsort (o : Ops) (s : State) : Host.Outcome State Fault Refusal :=
  runVec o (fun t => .next (vsort t o)) s

/-- VTOPK (R391). -/
def execVtopk (o : Ops) (s : State) : Host.Outcome State Fault Refusal :=
  runVec o (fun t => .next (vtopk t o)) s

/-- VGATE, softmax (R392). -/
def execVgate (o : Ops) (s : State) : Host.Outcome State Fault Refusal :=
  runVec o (fun t => .next (gateSoftmax t o)) s

/-- VGATE.RENORM (R392). -/
def execVgateRenorm (o : Ops) (s : State) : Host.Outcome State Fault Refusal :=
  runVec o (fun t => .next (gateRenorm t o)) s

/-- VHIST (R394). -/
def execVhist (o : Ops) (s : State) : Host.Outcome State Fault Refusal :=
  runVec o (fun t => histogram t o) s

/-- VPRNG (R393). -/
def execVprng (o : Ops) (s : State) : Host.Outcome State Fault Refusal :=
  runLanes o (fun t i => (prngLane t o i, 0)) s

/-- VPRD (R395, R397). -/
def execVprd (o : Ops) (s : State) : Host.Outcome State Fault Refusal :=
  portForm o 0xCF o.a.toNat s

/-- VPWR (R396, R397). -/
def execVpwr (o : Ops) (s : State) : Host.Outcome State Fault Refusal :=
  portForm o 0xD0 o.d.toNat s

/-- VPCNT (R386). -/
def execVpcnt (o : Ops) (s : State) : Host.Outcome State Fault Refusal :=
  runVec o (fun t =>
    let m := t.getP o.a &&& guardMask t.ctx o.g
    let ls := maskLanes m
    .next (t.setS o.d (BitVec.ofNat 64 (if o.m = 1 then ls.headD 256 else ls.length)))) s

/-- VPLOG.NZ (R386). -/
def execVplogNz (o : Ops) (s : State) : Host.Outcome State Fault Refusal :=
  predWise o (fun t i => aLane t o i ≠ 0) s

/-- VPLOG.BIT (R386). -/
def execVplogBit (o : Ops) (s : State) : Host.Outcome State Fault Refusal :=
  predWise o (fun t i => (aLane t o i).getLsbD o.uimm) s

/-- VPLOG.P2V (R386). -/
def execVplogP2v (o : Ops) (s : State) : Host.Outcome State Fault Refusal :=
  runLanes o (fun t i => (if (t.getP o.a).getLsbD i then 0xFFFFFFFF else 0, 0)) s

/-- VMOV (R381). -/
def execVmov (o : Ops) (s : State) : Host.Outcome State Fault Refusal :=
  runLanes o (fun t i => (aLane t o i, 0)) s

end Sys2Proof.Machine
end

