-- ==== Sys2Proof/Machine/Engine.lean ====
section
/-! DEFINITION. The engines at work: starts, ends, port accesses, Ligature firings and the delivery of faults (R31 to R35, R42, R43, R160 to R162, R311, R342, R406, R420). -/

namespace Sys2Proof.Machine

/-! ## Starts (R33, R185, R342, R406, R531) -/

/-- Two invocations use one port. -/
def Inv.sharesPort (v w : Inv) : Bool := v.ports.any (fun p => w.ports.contains p)

/-- The pipes of two invocations of one engine are one: MX has three (R342). -/
def samePipe (v w : Inv) : Bool := unitOf v.op ≠ 0 || mxPipe v.op = mxPipe w.op

/-- An earlier invocation keeps a later one from starting: the order of the engine, its pipe, MX's hazards, and the queue of a port. -/
def blocksStart (s : State) (early late : Inv) : Bool :=
  let u := unitOf late.op
  let same := decide (u = unitOf early.op) && decide (u ≠ 3)
  (same && (!early.started || samePipe early late || (u = 0 && mxHazard s early late)))
    || (2 ≤ u && early.sharesPort late && (2 ≤ unitOf early.op || early.st ≠ .queued))

/-- The invocations issued before one. -/
def Core.earlier (c : Core) (v : Inv) : List Inv := c.invs.takeWhile (fun w => w.id ≠ v.id)

/-- An invocation may start now. -/
def canStart (s : State) (v : Inv) : Bool :=
  v.st = .queued && !v.held && !s.gated && !s.core.halted && !(s.core.earlier v).any (fun w => blocksStart s w v)

/-- The start checks of an invocation; copies and circuits have made theirs at issue. -/
def startBreach (s : State) (v : Inv) : Option TrapInfo :=
  match unitOf v.op with
  | 0 => mxStart s v
  | 1 => vxStart s v
  | 2 => mgStart s v
  | _ => none

/-- A slot under load is BUSY (R357). -/
def State.markBusy (s : State) (v : Inv) : State :=
  if v.op = 0x94 then
    let n := weightSlot v.sb v.o
    s.putCore (s.core.putWslot n { s.core.wslot n with busy := true })
  else s

/-- INVOCATION_START (R342): a failed start check discards the invocation. -/
def State.startInv (s : State) (id : Nat) : State :=
  match s.core.inv id with
  | none => s
  | some v =>
    if !canStart s v then s
    else
      match startBreach s v with
      | some t => s.discard v t noTile
      | none => (s.putInv { v with st := .running }).markBusy v

/-- INVOCATION_START (R342). -/
def execInvocationStart (id : Nat) (s : State) : Host.Outcome State Fault Refusal := .next (s.startInv id)

/-! ## Ends (R34) -/

/-- An invocation may end now: it runs, waits for no storage, and no earlier invocation that started and has not ended uses a port of it. -/
def canCommit (s : State) (v : Inv) : Bool :=
  v.st = .running && v.waitsStorage.isNone && v.op ≠ 0x8D && !(s.core.earlier v).any (fun w => w.started && w.sharesPort v)

/-- The end of an invocation. -/
def State.endInv (s : State) (v : Inv) : State :=
  match unitOf v.op with
  | 0 => endMx s v
  | 1 => endVx s v
  | 2 => endMg s v
  | _ =>
    match v.op with
    | 0x7A => endCpy s v false
    | 0x7B => endCpys s v
    | 0x7C => endCpy s v true
    | 0x7D => endCpyq s v
    | 0x7E => endCpyr s v
    | _ => endCpyw s v

/-- INVOCATION_COMMIT (R34). -/
def State.commitInv (s : State) (id : Nat) : State :=
  match s.core.inv id with
  | none => s
  | some v => if canCommit s v then (s.atRank v.rank).endInv v else s

/-- INVOCATION_COMMIT (R34). -/
def execInvocationCommit (id : Nat) (s : State) : Host.Outcome State Fault Refusal := .next (s.commitInv id)

/-! ## Port accesses (R15, R154, R158, R420) -/

/-- The ports that an invocation writes. -/
def Inv.outputPorts (v : Inv) : List Nat :=
  match v.op with
  | 0x7A | 0x7C | 0xD0 => [v.o.d.toNat]
  | 0x93 => v.o.d.toNat :: (chainOn v.chain).filterMap (fun e => e.2.scalePort)
  | 0x7D => [v.o.d.toNat, v.o.c.toNat]
  | 0xE0 | 0xE1 | 0xE2 | 0xE3 => if v.emits then [v.o.uimm] else []
  | 0xE4 => v.leafPorts
  | 0xE5 => [v.o.uimm]
  | _ => []

/-- An invocation reads the beats of a port: CPYS, CPYR and CPYW use a port without its binding. -/
def Inv.reads (v : Inv) (pn : Nat) : Bool := v.ports.contains pn && !v.linear && !v.outputPorts.contains pn

/-- The invocation that a stopped port serves. -/
def Core.servedBy (c : Core) (pn : Nat) : Option Inv :=
  match c.invs.find? (fun v => v.st = .starved && v.ports.contains pn) with
  | some v => some v
  | none => c.invs.find? (fun v => v.ports.contains pn)

/-- The reader of a port: the owner of a lead port while its group holds its start token (R15), else the oldest invocation queued that reads it (R420). -/
def State.reader (s : State) (pn : Nat) : Option Reader :=
  let p := s.port pn
  if p.lead then
    match p.owner with
    | none => none
    | some c =>
      let x := s.ctxAt c
      if x.group.isSome && !x.parsed && !x.draining then
        some ⟨c, s.asidOf c, c = .k, ((s.core.servedBy pn).map s.partyInv).getD (aheadParty (partyOf s.coreId c))⟩
      else none
  else (s.core.invs.find? (fun v => v.reads pn && v.st ≠ .discarded)).map s.readerOf

/-- A sending end of a circuit towards a peer. -/
def State.peerSender (s : State) (pn : Nat) : Option (Inv × CircEnd) :=
  match s.core.circOn pn with
  | none => none
  | some v =>
    match s.core.invEnd s.coreId v with
    | some e => if e.kind ≠ 0 && !(s.port pn).wr && !v.eotSent then some (v, e) else none
    | none => none

/-- A receiving end of a circuit that reads a window of a peer. -/
def State.peerReader (s : State) (pn : Nat) : Option (Inv × CircEnd) :=
  match s.core.circOn pn with
  | none => none
  | some v =>
    match s.core.invEnd s.coreId v with
    | some e => if e.kind = 2 && (s.port pn).wr && s.mayAsk v e then some (v, e) else none
    | none => none

/-- The ports of a context whose cut has begun generate no further beats: PRE stands directly after the last one (R333). -/
def Core.cutting (c : Core) (u : Option CtxId) : Bool :=
  match c.cut with
  | some k => k.started && u = some k.ctx
  | none => false

/-- A generator may make its next access: its data queue and the slots of its links have room (R36, R159), and a lead port's marks have entered the mark queue (R153). -/
def State.canAccess (s : State) (pn : Nat) : Bool :=
  let p := s.port pn
  p.streams false && p.fault.isNone && (!p.ended || p.lead) && p.cursor < p.tiles true && p.fifo.length < fifoLimit + s.core.slotsAt pn && !(p.lead && !p.outMarks.isEmpty)
    && (s.reader pn).isSome && !s.core.halted && !s.core.cutting p.owner

/-- PORT_ACCESS (R158): one access of a traversal, a piece of a copy's source, or a beat sent to a peer or asked of it. -/
def State.portAccess (s : State) (pn : Nat) : State :=
  match (s.peerSender pn).orElse (fun _ => s.peerReader pn) with
  | some (v, e) => if (s.port pn).wr then s.askPeer v e else s.sendPeer v e
  | none =>
    match (if s.core.halted then none else s.linearOn pn) with
    | some v =>
      match s.linearPiece v with
      | .error t => t
      | .ok (w, t) => t.putInv w
    | none =>
      if !s.canAccess pn then s
      else
        match s.reader pn with
        | none => s
        | some r =>
          match s.portStep pn r with
          | .error (f, t) => if f = wayWait then t else t.stopPort pn f (s.port pn).cursor r
          | .ok t => t

/-- PORT_ACCESS (R158). -/
def execPortAccess (p : BitVec 3) (s : State) : Host.Outcome State Fault Refusal := .next (s.portAccess p.toNat)

/-! ## The Ligature (R42, R43, R294 to R296) -/

/-- LIGATURE_TERM_FIRE (R42). -/
def execLigatureTermFire (s : State) : Host.Outcome State Fault Refusal := .next s.fireTerm

/-! ## Faults (R160 to R162, R311, R313, R319) -/

/-- A move that counts only when it changes the invocations or the ports of the core, or what waits for a peer. -/
def progress (s t : State) : Option State :=
  if t.core.invs = s.core.invs && t.core.ports = s.core.ports && t.hub.peerOut = s.hub.peerOut then none else some t

/-- The end of an invocation that can be reached now. -/
def State.endMade (s : State) (v : Inv) : Option State := if canCommit s v then progress s ((s.atRank v.rank).endInv v) else none

/-- A symbol stands at the port of a circuit that receives. -/
def Core.arrivalPends (c : Core) (pn : Nat) : Bool :=
  let p := SMap.get Port.reset c.ports pn
  (c.circOn pn).isSome && p.wr && !p.circ.isEmpty

/-- The core is at a quiescent point (R161, R433): no write of it is held, no invocation can start, none that runs can go on, no generator has an access to make and no arrival is pending. A circuit that waits for symbols is no work in flight. -/
def State.quiescent (s : State) : Bool :=
  !s.dies.any (fun e => e.2.held.any (fun h => h.core = s.coreId))
    && !s.core.invs.any (fun v => canStart s v || (v.st = .running && (v.waitsStorage.isSome || (s.endMade v).isSome)))
    && !(List.range 8).any (fun p => s.canAccess p || (s.peerSender p).isSome || (s.peerReader p).isSome || (s.linearOn p).isSome || s.core.arrivalPends p)

/-- A fault that waits for delivery: the port that stopped, and the invocation it concerns. -/
structure Pending where
  fault : GenFault
  port : Option Nat
  inv : Option Inv

/-- The faults not yet delivered, ports ascending, then invocations. -/
def Core.pendingFaults (c : Core) : List Pending :=
  (c.ports.filterMap (fun e => match e.2.fault with
    | some f => if f.seq = 0 then none else some ⟨f, some e.1, c.servedBy e.1⟩
    | none => none))
  ++ c.invs.filterMap (fun v => match v.fault with
    | some f => if f.seq = 0 then none else some ⟨f, none, some v⟩
    | none => none)

/-- The fault that arose first; of one cycle, that of the lowest port (R161). -/
def firstFault (l : List Pending) : Option Pending :=
  l.foldl (fun a p => match a with
    | some b => if p.fault.seq < b.fault.seq then some p else a
    | none => some p) none

/-- UNIT of R311. -/
def invUnit (v : Inv) : Nat := if v.op = 0x93 then 4 else unitOf v.op

/-- A fault is reported once. -/
def Core.delivered (c : Core) (p : Pending) : Core :=
  match p.port, p.inv with
  | some pn, _ =>
    let q := SMap.get Port.reset c.ports pn
    { c with ports := SMap.set Port.reset c.ports pn { q with fault := q.fault.map (fun f => { f with seq := 0 }) } }
  | none, some v => c.putInv { v with fault := v.fault.map (fun f => { f with seq := 0 }) }
  | none, none => c

/-- The iteration vector in KAUX2 and KAUX3 (R311). -/
def iterationVector (f : GenFault) (v : Option Inv) : Word × Word :=
  let tile := f.tile.toNat
  let pos := (v.map (fun w => w.pos.toNat)).getD 0
  let prod := (v.map (fun w => w.prod)).getD 0
  let unit := (v.map invUnit).getD 3
  (BitVec.ofNat 64 (f.aux2.toNat % 2 ^ 16 + (v.map (fun w => w.hi)).getD 0 % 2 ^ 16 * 2 ^ 16 + tile % 2 ^ 32 * 2 ^ 32),
    BitVec.ofNat 64 (tile / 2 ^ 32 % 256 + unit * 2 ^ 20 + prod % 512 * 2 ^ 23 + pos * 2 ^ 32))

/-- The context and the address space that a fault's trap names. -/
def faultContext (s : State) (p : Pending) : CtxId × BitVec 9 :=
  match p.inv with
  | some v => (v.ctx, v.asid)
  | none =>
    match p.port with
    | some pn => let c := ((s.port pn).owner).getD .u0; (c, s.asidOf c)
    | none => (.u0, 0)

/-- A fault may be delivered. -/
def State.canDeliver (s : State) : Bool := !s.core.inTrap && !s.core.halted && !s.core.pendingFaults.isEmpty && s.quiescent

/-- GENERATOR_FAULT_DELIVERY (R161): a class I trap. Where no invocation is concerned the manual names no issuing instruction. -/
def State.deliverFault (s : State) : State :=
  if !s.canDeliver then s
  else
    match firstFault s.core.pendingFaults with
    | none => s
    | some p =>
      let (c, a) := faultContext s p
      let iv := iterationVector p.fault p.inv
      let kepc := match p.inv with
        | some v => v.pc
        | none => Config.freeWord s.free
      (({ s with free := s.free + 1 }).putCore (s.core.delivered p)).takeTrap
        ⟨p.fault.cause, some p.fault.aux0, some p.fault.aux1, some iv.1, some iv.2⟩ (ctxNum c) true false kepc 0 a

/-- GENERATOR_FAULT_DELIVERY (R161). -/
def execGeneratorFaultDelivery (s : State) : Host.Outcome State Fault Refusal := .next s.deliverFault

/-- The invocation begins again: a slot is BUSY again, a copy has a new sequence number and issue record. -/
def State.reissue (s : State) (v : Inv) : State :=
  let s1 := s.putInv { v with st := .queued, fault := none, beats := [], undo := [] }
  let s2 := match v.op with
    | 0x7E => s1.putCore (s1.core.busySlot v.sd.toNat)
    | 0x7F => s1.putCore (s1.core.busySlot v.sa.toNat)
    | _ => s1
  if unitOf v.op = 3 && v.op ≠ 0x8D then s2.stampCopy { v with st := .queued, fault := none, beats := [], undo := [] } else s2

/-- The contents of a data queue are read afresh by an invocation that begins again. -/
def Port.refresh (p : Port) : Port :=
  match p.fifo with
  | [] => p
  | b :: _ => if p.lead then p else { p with fifo := [], cursor := b.idx, nBeats := b.no, ended := false }

/-- RESUME (R319): stopped generators and starved invocations go on, discarded invocations are reissued in their places; the drain configuration starts none (R15). -/
def State.resumeAll (s : State) : State :=
  let c := s.core
  let back := c.invs.filter (fun v => v.st = .discarded && !(c.ctxOf v.ctx).draining)
  let ports := c.ports.foldl (fun m e =>
    let p := if back.any (fun v => v.ports.contains e.1) && !e.2.wr then e.2.refresh else e.2
    SMap.set Port.reset m e.1 { p with fault := none }) c.ports
  let s1 := s.putCore { c with ports := ports, invs := c.invs.map (fun v => if v.st = .starved then { v with st := .running } else v) }
  back.foldl (fun t v => t.reissue v) s1

end Sys2Proof.Machine
end

