-- ==== Sys2Proof/Machine/Roles.lean ====
section
/-! DEFINITION. What the fields of an instruction name: the scalar registers it reads and writes, the registers it uses, whether it is a command (R59, R397, R408, R448, R449). -/

namespace Sys2Proof.Machine

/-- The forms whose D field is read and not written. -/
def readsD (op : Nat) : Bool :=
  match op with
  | 0x51 | 0x53 | 0x55 | 0x57 | 0x59 | 0x5B | 0x69 | 0x6E | 0x7B | 0x7E | 0x93 => true
  | _ => false

/-- The forms that read D and write it. -/
def updatesD (op q : Nat) : Bool := op = 0x26 || (op = 0x02 && q = 1) || op = 0xE5

/-- The classes of the fields of an opcode. -/
def formFields (op : Nat) (o : Ops) : FieldForm :=
  (fieldForm true op o.q.toNat o.m.toNat).getD ⟨.u, .u, .u, .u, none, none, .none⟩

/-- The scalar registers that an instruction reads, in the order D, A, B, C (R449). -/
def scalarReads (op : Nat) (o : Ops) : List (BitVec 6) :=
  let f := formFields op o
  (if f.d = .s && (readsD op || updatesD op o.q.toNat) then [o.d] else []) ++ (if f.a = .s then [o.a] else [])
    ++ (if f.b = .s then [o.b] else []) ++ (if f.c = .s && op ≠ 0xB2 then [o.c] else [])

/-- The scalar register that an instruction writes. -/
def scalarDest (op : Nat) (o : Ops) : Option (BitVec 6) :=
  let f := formFields op o
  if op = 0xB2 then some o.c else if f.d = .s && !readsD op then some o.d else none

/-- The registers of a class that an instruction reads or writes. -/
def usesRegs (cls : Cls) (op : Nat) (o : Ops) : List (BitVec 6) :=
  let f := formFields op o
  (if f.d = cls then [o.d] else []) ++ (if f.a = cls then [o.a] else []) ++ (if f.b = cls then [o.b] else []) ++ (if f.c = cls then [o.c] else [])

/-- A Scroll form (R467). -/
def isScroll (op : Nat) : Bool := 0xE8 ≤ op && op ≤ 0xEB

/-- The instructions that the tape holds as commands (R448). -/
def isCommand (op : Nat) : Bool :=
  match op with
  | 0x29 | 0x34 | 0x35 | 0x36 | 0x38 | 0x3F => true
  | 0x40 | 0x42 | 0x43 | 0x44 | 0x45 | 0x4E => false
  | _ => 0x40 ≤ op && op ≤ 0xFB && !isScroll op

/-- The vector forms whose guard is a mask of lanes (R210, R212, R368). -/
def isMasked (op : Nat) : Bool :=
  match op with
  | 0x54 | 0x55 | 0x56 | 0x57 | 0x5A | 0x5B => true
  | 0xC5 | 0xCF | 0xD0 => false
  | _ => 0xA0 ≤ op && op ≤ 0xD3

/-- An instruction of a context executes: lane 0 of its guard is 1 (R61), or its guard is a mask. -/
def executes (x : Ctx) (op : Nat) (o : Ops) : Bool := isMasked op || (guardMask x o.g).getLsbD 0

/-- The conditional branches. -/
def isBranch (op : Nat) : Bool := 0x2A ≤ op && op ≤ 0x2F

end Sys2Proof.Machine
end

