-- ==== Sys2Proof/Machine/Scroll.lean ====
section
/-! DEFINITION. The Scroll: tape areas, recording, the start of a replay, and the seven Scroll forms (R445 to R460, R467 to R473). -/

namespace Sys2Proof.Machine

/-! ## Tape areas (R445, R446) -/

/-- The offset of the first track for g groups. -/
def tapeFirst (g : Nat) : Nat := (0x40 + 16 * g + 4095) / 4096 * 4096

/-- TLEN of an area of a size for g groups. -/
def tapeTlen (g size : Nat) : Nat := if g = 0 then 0 else (size - tapeFirst g) / (g * 4096) * 4096

/-- Bytes written to a tape area, or none when a page is not present, writable and pinned (R445, R458). -/
def State.tapeWrite (s : State) (asid : BitVec 9) (va : Nat) (bs : List Byte) : Option State :=
  match hubParts s asid true .write va bs.length with
  | .error _ => none
  | .ok ps => if ps.all (fun p => bit p.attr 6) then some (storeSeen s false ps bs) else none

/-- A page of an area is present, writable and pinned. -/
def tapePageOk (s : State) (asid : BitVec 9) (va : Nat) : Bool :=
  let w := walk s asid va
  decide (va < vaLimit) && w.fail.isNone && bit w.pte 3 && bit w.pte 6

/-- The first n pages of an area are present, writable and pinned. -/
def tapePagesOk (n : Nat) (s : State) (asid : BitVec 9) (va : Nat) : Bool :=
  match n with
  | 0 => true
  | k + 1 => if tapePageOk s asid va then tapePagesOk k s asid (va + 4096) else false

/-- Header word n of an area. -/
def State.tapeWord (s : State) (asid : BitVec 9) (area n : Nat) : Word :=
  match s.hubNat asid (area + 8 * n) 8 with
  | .ok x => BitVec.ofNat 64 x
  | .error _ => 0

/-- The low word of the image hash of a group's region (R497). -/
def State.groupHash (s : State) (g : Group) : Word :=
  match s.region g.rcb with
  | some r => (r.image.map (fun i => i.hash)).getD 0
  | none => 0

/-- A context's Scroll state replaced. -/
def State.putScroll (s : State) (u : CtxId) (x : Scroll) : State := s.putCtxAt u { s.ctxAt u with scroll := x }

/-- The context goes on live, with what SCSTAT reports (R473). -/
def Scroll.toLive (y : Scroll) (clean : Bool) : Scroll := { Scroll.live with abt := y.abt, clean := clean, div := y.div, nrec := y.nrec }

/-- Bits of header word 0. -/
abbrev tapeValid : Word := 1#64 <<< 63
abbrev tapeStale : Word := 1#64 <<< 62
abbrev tapeBad : Word := 1#64 <<< 61

/-- DONE advances; the tape becomes BAD, or VALID once every track is closed (R459). -/
def State.tapeDone (s : State) (asid : BitVec 9) (area : Nat) (bad : Bool) : State :=
  let w0 := s.tapeWord asid area 0
  let w3 := s.tapeWord asid area 3
  let done := (bits w3 63 32 + 1) % 2 ^ 32
  let v := if bad then w0 ||| tapeBad else if done = bits w0 31 0 && !bit w0 61 then w0 ||| tapeValid else w0
  match s.tapeWrite asid (area + 24) (leBytes 8 (bits w3 31 0 + done * 2 ^ 32)) with
  | none => s
  | some t => (t.tapeWrite asid area (leBytes 8 v.toNat)).getD t

/-- The place of a tape's header, whose words a recording's end releases and a replay acquires (R459, R460). -/
def State.tapeKey (s : State) (asid : BitVec 9) (area : Nat) : List (Nat × Nat) := ((s.hubDpa asid area).map (fun d => (d, 64))).toList

/-- A track is aborted: ABT, and OVF when it would pass TLEN; the context continues live (R458). DONE is a release at .dev (R459). -/
def State.abortTrack (s : State) (u : CtxId) (ovf : Bool) : State :=
  let x := (s.ctxAt u).scroll
  if x.mode ≠ 1 then s
  else
    let t := s.putScroll u { x with mode := 0, abt := true, owed := 0, cmdInv := none, tags := [], recs := [] }
    match t.tapeWrite (s.asidOf u) x.entry (leBytes 16 (2 ^ 61 + if ovf then 2 ^ 62 else 0)) with
    | none => t
    | some t1 => (t1.tapeDone (s.asidOf u) x.area.toNat true).release u 1 (s.tapeKey (s.asidOf u) x.area.toNat)

/-- The records that a tape store holds: 256 KiB of them (R11). -/
abbrev storeRecords : Nat := 16384

/-- A record enters the tape store of the core looked at; the oldest copy makes room (R447; log entry 25). -/
def State.keepRecord (s : State) (asid : BitVec 9) (va : Nat) (r : BitVec 128) : State :=
  match s.hubDpa asid va with
  | none => s
  | some d => s.putCore { s.core with store := ((d, r) :: s.core.store.filter (fun e => e.1 ≠ d)).take storeRecords }

/-- Records that stand one after another enter the tape store, oldest first. -/
def State.keepRecords (s : State) (asid : BitVec 9) (va : Nat) (rs : List (BitVec 128)) : State :=
  match rs with
  | [] => s
  | r :: t => State.keepRecords (s.keepRecord asid va r) asid (va + 16) t

/-- Records appended to the track of a recording context. -/
def State.putRecords (s : State) (u : CtxId) (rs : List Nat) : State :=
  let x := (s.ctxAt u).scroll
  if x.mode ≠ 1 then s
  else if x.tlen < 16 * (x.nrec + rs.length) then s.abortTrack u true
  else
    match s.tapeWrite (s.asidOf u) (x.track + 16 * x.nrec) (rs.flatMap (leBytes 16)) with
    | none => s.abortTrack u false
    | some t => (t.keepRecords (s.asidOf u) (x.track + 16 * x.nrec) (rs.map (BitVec.ofNat 128))).putScroll u { x with nrec := x.nrec + rs.length, recs := x.recs ++ rs.map (BitVec.ofNat 128) }

/-! ## Snapshots and guards (R452, R453) -/

/-- The scalars of a snapshot: all of them, or those whose value or tag changed. -/
def scalarItems (full : Bool) (x : Ctx) (y : Scroll) : List Nat :=
  (List.range 63).filterMap (fun i =>
    let r := i + 1
    let tag := SMap.get 0 y.tags r
    if full || x.getS r ≠ SMap.get 0 y.lastScalars r || tag ≠ SMap.get 0 y.lastTags r then
      some (r * 2 ^ 118 + if tag = 0 then (x.getS r).toNat else 2 ^ 117 + tag.toNat % 32 * 2 ^ 112)
    else none)

/-- The parse stack, bottom first. -/
def Ctx.stackUp (x : Ctx) : List (BitVec 16) := x.stack.reverse.map (fun e => e.entry)

/-- The blocks of four stack entries of a snapshot: all of them, or those that changed. -/
def stackItems (full : Bool) (now old : List (BitVec 16)) : List Nat :=
  (List.range ((max 1 (max now.length old.length) + 3) / 4)).filterMap (fun b =>
    let n := (now.drop (4 * b)).take 4
    let o := (old.drop (4 * b)).take 4
    if 4 * b < max 1 now.length && full || n ≠ o then
      some (2 ^ 124 + now.length * 2 ^ 117 + 4 * b * 2 ^ 111 + n.foldr (fun e a => e.toNat + 65536 * a) 0)
    else none)

/-- The action address of a context, or all ones when its next step is a parse step. -/
def Ctx.actionAddr (x : Ctx) : Nat := if x.st = .action then x.pc.toNat % 2 ^ 48 else 2 ^ 48 - 1

/-- The ACTION item. -/
def actionItem (x : Ctx) (flags : BitVec 16) : Nat :=
  2 * 2 ^ 124 + x.stateCode * 2 ^ 120 + flags.toNat * 2 ^ 96 + (x.loaded.toNat - x.counted) * 2 ^ 64 + x.actionAddr

/-- A GUARD (type 1) or END (type 3) with its snapshot of the context `at'`, appended to the track of a recording context. END's DATA is NREC. -/
def State.writeGuard (s : State) (u : CtxId) (at' : Ctx) (type kind data : Nat) (full : Bool) : State :=
  let x := (s.ctxAt u).scroll
  if x.mode ≠ 1 then s
  else
    let items := scalarItems full at' x ++ stackItems full at'.stackUp x.lastStack ++ [actionItem at' x.flags]
    let d := if type = 3 then x.nrec + 1 + items.length else data
    let head := type * 2 ^ 126 + kind * 2 ^ 123 + items.length * 2 ^ 116 + at'.pos.toNat * 2 ^ 64 + d
    let t := s.putRecords u (head :: items)
    let y := (t.ctxAt u).scroll
    if y.mode ≠ 1 then t
    else
      t.putScroll u { y with
        guardRec := x.nrec
        guardHead := BitVec.ofNat 128 head
        cons := 0
        cmdSince := false
        flags := 0
        lastScalars := at'.s
        lastTags := y.tags
        lastStack := at'.stackUp }

/-- A symbol that the parse consumed counts in CONS of the last guard, and in DATA of a RECOVER guard when recovery consumed it (R452). -/
def State.noteConsumed (s : State) (u : CtxId) (recovery : Bool) : State :=
  let x := (s.ctxAt u).scroll
  if x.mode ≠ 1 then s
  else
    let more := if recovery && x.guardHead.extractLsb' 123 3 = 6 && x.guardHead.extractLsb' 0 16 ≠ 0xFFFF then 1 else 0
    let head := BitVec.ofNat 128 (x.guardHead.toNat + 2 ^ 100 + more)
    match s.tapeWrite (s.asidOf u) (x.track + 16 * x.guardRec) (leBytes 16 head.toNat) with
    | none => s.abortTrack u false
    | some t => (t.keepRecord (s.asidOf u) (x.track + 16 * x.guardRec) head).putScroll u { x with cons := x.cons + 1, guardHead := head, recs := x.recs.set x.guardRec head }

/-- TSIG: the CRC over the number and bytes 0x08 to 0x39 of every valid descriptor. -/
def Ctx.tsig (x : Ctx) : Nat :=
  (crc32 ((List.range 64).flatMap (fun i =>
    let t := SMap.get 0 x.tt i
    if t.getLsbD 67 then BitVec.ofNat 8 i :: ((leBytes 64 t.toNat).drop 8).take 50 else []))).toNat

/-- The origin and length of a port's traversal along a dimension (R180). -/
def Port.rangeAlong (p : Port) (d : Nat) : Nat × Nat :=
  let l := SMap.get 0 p.seekLen d
  (SMap.get 0 p.seekOrg d, if l = 0 then p.desc.toNat / 2 ^ (128 + 24 * d) % 2 ^ 24 else l)

/-- LSIG: the CRC over the lead port's descriptor bytes 0x08 to 0x39 and its traversal range; a context without a lead port has none. -/
def Core.lsig (c : Core) (u : CtxId) : Nat :=
  match c.leadPort u with
  | none => (crc32 []).toNat
  | some i =>
    let p := SMap.get Port.reset c.ports i
    (crc32 (((leBytes 64 p.desc.toNat).drop 8).take 50
      ++ (List.range 6).flatMap (fun d => let r := p.rangeAlong d; leBytes 4 r.1 ++ leBytes 4 r.2))).toNat

/-- DATA of a START guard. -/
def State.startData (s : State) (u : CtxId) : Nat := (s.ctxAt u).tsig * 2 ^ 32 + s.core.lsig u

/-! ## Recording (R455 to R459, R469) -/

/-- SCREC.BEGIN's track: the status of R468 and, for status 0, the state in which the context records. `at'` is the context at the START guard. -/
def State.beginTrack (s : State) (u : CtxId) (at' : Ctx) (area size : Word) : Nat × State :=
  let x := s.ctxAt u
  let asid := s.asidOf u
  let a := area.toNat
  if x.scroll.mode ≠ 0 then (1, s)
  else
    match x.group with
    | none => (4, s)
    | some g =>
      let n := g.count.toNat
      let tlen := tapeTlen n size.toNat
      if a % 4096 ≠ 0 || tlen < 4096 then (2, s)
      else if !tapePagesOk ((size.toNat + 4095) / 4096) s asid a then (3, s)
      else
        let w0 := s.tapeWord asid a 0
        let entry := a + 0x40 + 16 * g.gidx.toNat
        let used := match s.hubNat asid entry 16 with
          | .ok v => v ≠ 0
          | .error _ => true
        let hash := s.groupHash g
        let differs := bit w0 63 || s.tapeWord asid a 1 ≠ hash || bits w0 31 0 ≠ n || s.tapeWord asid a 7 ≠ size
        if used || (w0 ≠ 0 && differs) then (7, s)
        else
          let head := leBytes 8 (2 ^ 40 + 8 * 2 ^ 32 + n) ++ leBytes 8 hash.toNat ++ List.replicate 40 (0 : Byte) ++ leBytes 8 size.toNat
          match (if w0 = 0 then s.tapeWrite asid a head else some s) with
          | none => (3, s)
          | some t =>
            let y : Scroll := { Scroll.live with
              mode := 1
              area := area
              entry := entry
              track := a + tapeFirst n + g.gidx.toNat * tlen
              tlen := tlen
              clean := x.scroll.clean
              div := x.scroll.div }
            (0, (t.putScroll u y).writeGuard u at' 1 0 (s.startData u) true)

/-- A track is closed: END, then its entry with NREC, CRC and CLOSED, then DONE, a release at .dev (R459). `at'` is the context at END. -/
def State.closeTrack (s : State) (u : CtxId) (at' : Ctx) : State :=
  let t := s.writeGuard u at' 3 5 0 false
  let x := (t.ctxAt u).scroll
  if x.mode ≠ 1 then t
  else
    let asid := s.asidOf u
    let crc := (crc32 (x.recs.flatMap (fun r => leBytes 16 r.toNat))).toNat
    match t.tapeWrite asid x.entry (leBytes 16 (2 ^ 63 + x.nrec % 2 ^ 32 + crc * 2 ^ 64)) with
    | none => t.abortTrack u false
    | some t1 => ((t1.tapeDone asid x.area.toNat false).release u 1 (s.tapeKey asid x.area.toNat)).putScroll u { x with mode := 0, abt := false, tags := [], owed := 0, cmdInv := none, recs := [] }

/-- Scalar operands of a command as it recorded them: the value, or the patch slot of a tagged register (R449, R456). -/
def recordedOperands (x : Ctx) (op : Nat) (o : Ops) : List (Nat × Bool) :=
  (scalarReads op o).map (fun r =>
    let tag := SMap.get 0 x.scroll.tags r.toNat
    if tag = 0 then ((x.getS r.toNat).toNat, false) else (tag.toNat % 32, true))

/-- The head of a CMD record (R451). -/
def cmdHead (op : Nat) (o : Ops) (nx mask : Nat) : Nat :=
  nx * 2 ^ 124 + mask * 2 ^ 120 + o.g.toNat * 2 ^ 116 + o.imm.toNat * 2 ^ 42 + o.m.toNat * 2 ^ 36
    + o.q.toNat * 2 ^ 32 + o.c.toNat * 2 ^ 26 + o.b.toNat * 2 ^ 20 + o.a.toNat * 2 ^ 14 + o.d.toNat * 2 ^ 8 + op

/-- Operands two to a continuation record, low half first. -/
def operandRecords : List Nat → List Nat
  | [] => []
  | [a] => [a]
  | a :: b :: t => (a + b * 2 ^ 64) :: operandRecords t

/-- The records of a command executed in a context (R451). -/
def commandRecords (x : Ctx) (op : Nat) (o : Ops) : List Nat :=
  let l := recordedOperands x op o
  let mask := l.foldr (fun e a => 2 * a + if e.2 then 1 else 0) 0
  let conts := operandRecords (l.map (·.1))
  cmdHead op o conts.length mask :: conts

/-- A mark guard follows the command: MARKIF, MARKEMIT, GSKIP, a set operation with .MK (R452). -/
def marksAfter (op : Nat) (o : Ops) : Bool :=
  op = 0x41 || op = 0x46 || op = 0x47 || (0xE0 ≤ op && op ≤ 0xE3 && o.m.getLsbD 1)

/-- DATA of a MARK guard for the marks placed: their number and codes, first lowest. -/
def marksData (l : List Mark) : BitVec 20 :=
  BitVec.ofNat 20 (l.length % 16 * 65536 + (l.take 4).foldr (fun m a => m.toNat + 16 * a) 0)

/-- The value that GSKIP writes to S[D][15:0]; a suppressed one writes none. -/
def gskipValue (s : State) (o : Ops) : BitVec 20 :=
  if !s.guard0 o then 0
  else
    match execGskip { o with d := 63 } s with
    | .next t => ((t.ctx.getS 63).setWidth 16).setWidth 20
    | _ => 0

/-- DATA of the MARK guard of a command that has completed at once. -/
def marksOf (s t : State) (u : CtxId) (op : Nat) (o : Ops) : BitVec 20 :=
  if op = 0x41 then gskipValue s o
  else marksData (((t.ctxAt u).ins.drop (s.ctxAt u).ins.length).filterMap (fun e => e.code))

/-- The mark that a set operation placed once it has committed (R411). -/
def Ctx.markOf (x : Ctx) (id : Nat) : BitVec 20 :=
  marksData ((x.ins.filter (fun e => decide (e.inv = id) && e.code.isSome)).filterMap (fun e => e.code))

/-- The guards that a recording context owes after a command whose result has arrived. -/
def State.payGuards (s : State) (u : CtxId) : State :=
  let x := s.ctxAt u
  let y := x.scroll
  let waits := match y.cmdInv with
    | some id => s.core.invs.any (fun v => decide (v.id = id))
    | none => false
  if y.mode ≠ 1 || y.owed = 0 || waits then s
  else
    let s1 := s.putScroll u { y with owed := 0, cmdInv := none }
    let s2 := if y.owed.getLsbD 0 then s1.writeGuard u x 1 1 (x.getS (y.cmdDst.getD 0)).toNat false else s1
    if y.owed.getLsbD 1 then s2.writeGuard u x 1 2 (match y.cmdInv with | some id => x.markOf id | none => y.cmdMark).toNat false else s2

/-- The device-physical address of the record that stands next on a track, recorded or replayed. -/
def State.recordDpa (s : State) (u : CtxId) : Option Nat :=
  let y := (s.ctxAt u).scroll
  match hubParts s (s.asidOf u) true .read (y.track + 16 * y.nrec) 16 with
  | .ok (p :: _) => some p.dpa
  | _ => none

/-- The production credited to a command recorded next is kept for its replays (R461); the record has no place for it. -/
def State.noteProd (s : State) (u : CtxId) : State :=
  match s.recordDpa u with
  | some a => { s with hub := { s.hub with prods := SMap.set 0 s.hub.prods a ((s.ctxAt u).lastProd + 1) } }
  | none => s

/-- Recording a command that has been issued: s before it, t after it (R457). -/
def recordCommand (s t : State) (u : CtxId) (op : Nat) (o : Ops) : State :=
  let x := s.ctxAt u
  let t1 := (t.noteProd u).putRecords u (commandRecords x op o)
  let y := (t1.ctxAt u).scroll
  if y.mode ≠ 1 then t1
  else
    let dst := (scalarDest op o).bind (fun r => if executes x op o && r ≠ 0 then some r.toNat else none)
    let issued := decide (s.core.nextInv < t.core.nextInv) && decide (0xE0 ≤ op) && decide (op ≤ 0xE5)
    let t2 := t1.putScroll u { y with
      cmdSince := true
      owed := (if dst.isSome then 1 else 0) + (if marksAfter op o then 2 else 0)
      cmdInv := if issued then some s.core.nextInv else none
      cmdDst := dst
      cmdMark := if marksAfter op o then marksOf s t u op o else 0
      tags := match dst with
        | some r => SMap.set 0 y.tags r 0
        | none => y.tags }
    t2.payGuards u

/-- What stands before an unrecorded instruction of a context x that records: the abort when it reads a tagged register (R456), or the BRANCH guard (R452). -/
def State.beforeOther (t : State) (x : Ctx) (u : CtxId) (op : Nat) (o : Ops) : State :=
  let ran := executes x op o
  if ran && op ≠ 0x01 && (scalarReads op o).any (fun r => SMap.get 0 x.scroll.tags r.toNat ≠ 0) then t.abortTrack u false
  else
    let taken := ran && (!isBranch op || intCond (op - 0x2A) (x.getS o.a.toNat) (x.getS o.b.toNat))
    if isBranch op || o.g ≠ 0 then t.writeGuard u x 1 3 (if taken then 1 else 0) false else t

/-- A Scroll form of a recording context writes its own records, so the guard before it, or the abort, comes before it executes. -/
def State.beforeScroll (s : State) (u : CtxId) (op : Nat) (o : Ops) : State :=
  if u ≠ .k && (s.ctxAt u).scroll.mode = 1 && isScroll op then s.beforeOther (s.ctxAt u) u op o else s

/-- Recording an instruction that is no command: what stands before it, the tags of R456, the flags it raised. -/
def recordOther (s t : State) (u : CtxId) (op : Nat) (o : Ops) (raised : BitVec 16) : State :=
  let x := s.ctxAt u
  let t1 := if isScroll op then t else t.beforeOther x u op o
  let y := (t1.ctxAt u).scroll
  if y.mode ≠ 1 then t1
  else
    let tags := match scalarDest op o with
      | some r => if executes x op o && r ≠ 0 then SMap.set 0 y.tags r.toNat (if op = 0x01 then SMap.get 0 x.scroll.tags o.a.toNat else 0) else y.tags
      | none => y.tags
    t1.putScroll u { y with tags := tags, flags := y.flags ||| raised }

/-- What recording adds to an instruction of a recording context that has completed: s before it, t after it. -/
def recordInstr (s t : State) (u : CtxId) (op : Nat) (o : Ops) (raised : BitVec 16) : State :=
  if (s.ctxAt u).scroll.mode ≠ 1 || (t.ctxAt u).scroll.mode ≠ 1 then t
  else if isCommand op then recordCommand s t u op o
  else recordOther s t u op o raised

/-- The forms by which the K context changes a parse: on a recording context they abort its track (R458). -/
def abortsTrack (op : Nat) : Bool := op = 0x41 || op = 0x42 || op = 0x43 || op = 0x45 || op = 0x47

/-- What an executed K instruction does to the track of the context it names: s before it, t after it. -/
def recordK (s t : State) (op : Nat) (o : Ops) : State :=
  if abortsTrack op && o.m ≠ 0 && s.guard0 o then t.abortTrack (uCtx (o.m.toNat - 1)) false else t

/-- A step of the Ductus with what recording adds: SYNC before a step that consumes, RECOVER before recovery, SYNC at a cut, and CONS (R452, R458). -/
def State.recorded (s : State) (u : CtxId) (f : State → State) : State :=
  let t := f s
  let x := s.ctxAt u
  let y := t.ctxAt u
  if x.scroll.mode ≠ 1 || y.scroll.mode ≠ 1 || x.drains then t
  else if x.st = .mismatch && y.st = .recovering then t.writeGuard u x 1 6 0 false
  else if t.core.isCut u && !s.core.isCut u then t.writeGuard u x 1 5 0 false
  else if y.pos = x.pos then t
  else
    let t1 := if x.scroll.cmdSince || x.scroll.cons = 0xFFFF then t.writeGuard u x 1 5 0 false else t
    t1.noteConsumed u (x.st = .recovering)

/-- A step of the Ductus for a context that does not replay. -/
def ductusStep (f : State → State) (u : CtxId) (s : State) : State :=
  if (s.ctxAt u).scroll.mode = 2 then s else s.recorded u f

/-- PARSE_STEP (R234); a gated cycle has none (R531). -/
def execParseStep (u : BitVec 2) (s : State) : Host.Outcome State Fault Refusal :=
  .next (if s.gated then s else ductusStep (fun t => t.parseStep (uCtx u.toNat)) (uCtx u.toNat) s)

/-- MISMATCH_RECORD_WRITE (R240). -/
def execMismatchRecordWrite (u : BitVec 2) (s : State) : Host.Outcome State Fault Refusal :=
  .next (ductusStep (fun t => t.mismatchWrite (uCtx u.toNat)) (uCtx u.toNat) s)

/-- RECOVERY_STEP (R243); a gated cycle has none (R531). -/
def execRecoveryStep (u : BitVec 2) (s : State) : Host.Outcome State Fault Refusal :=
  .next (if s.gated then s else ductusStep (fun t => t.recoveryStep (uCtx u.toNat)) (uCtx u.toNat) s)

/-! ## Records as a replay reads them (R450 to R454, R461) -/

/-- A record of a track: the copy in the core's tape store when it holds one, else what the area holds (R447). -/
def readRecord (s : State) (asid : BitVec 9) (track i : Nat) : Except Flt Nat :=
  match hubXlat s asid true .read (track + 16 * i) with
  | .error f => .error f
  | .ok (x, _) =>
    match s.core.store.find? (fun e => e.1 = x.dpa) with
    | some e => .ok e.2.toNat
    | none => s.hubNat asid (track + 16 * i) 16

/-- n records from the i-th on. -/
def readRecords (n : Nat) (s : State) (asid : BitVec 9) (track i : Nat) : Except Flt (List Nat) :=
  match n with
  | 0 => .ok []
  | k + 1 =>
    match readRecord s asid track i with
    | .error f => .error f
    | .ok r => (readRecords k s asid track (i + 1)).map (fun l => r :: l)

/-- The type of a record. -/
def recType (r : Nat) : Nat := r / 2 ^ 126 % 4
/-- NX of a CMD. -/
def recNx (r : Nat) : Nat := r / 2 ^ 124 % 4
/-- PMASK of a CMD. -/
def recPmask (r : Nat) : Nat := r / 2 ^ 120 % 16
/-- KIND, NS, CONS, POS and DATA of a GUARD or END. -/
def recKind (r : Nat) : Nat := r / 2 ^ 123 % 8
def recNs (r : Nat) : Nat := r / 2 ^ 116 % 128
def recCons (r : Nat) : Nat := r / 2 ^ 100 % 65536
def recPos (r : Nat) : Nat := r / 2 ^ 64 % 2 ^ 32
def recData (r : Nat) : Nat := r % 2 ^ 64

/-- The opcode and fields of a CMD head. -/
def cmdFields (r : Nat) : Nat × Ops :=
  (r % 256, ⟨.l, field r 8 6, field r 14 6, field r 20 6, field r 26 6, field r 32 4, field r 116 4, field r 36 6, field r 42 48⟩)

/-- A CMD head is well formed. -/
def cmdOk (r : Nat) : Bool :=
  let (op, o) := cmdFields r
  let n := (scalarReads op o).length
  r / 2 ^ 90 % 2 ^ 26 = 0 && isCommand op && recNx r = (n + 1) / 2 && recPmask r < 2 ^ n
    && (match fieldForm false op o.q.toNat o.m.toNat with
      | some f => (fieldBreach f op o).isNone
      | none => false)

/-- A GUARD or END head is well formed, standing at record i of a track of n records. -/
def guardOk (r i n : Nat) : Bool :=
  r / 2 ^ 96 % 16 = 0
    && (if recType r = 3 then recKind r = 5 && recData r = n && i + 1 + recNs r = n else recKind r ≠ 7)

/-- What is wrong with the records from the i-th up to the next GUARD or END, that guard and its items included: the subcode of REPLAY_FAULT and the record. -/
def checkSegment (fuel : Nat) (s : State) (asid : BitVec 9) (track n i : Nat) : Option (Nat × Nat) :=
  let sub := fun (f : Flt) => if f.cause = cMemUncorrectable then 1 else 2
  match fuel with
  | 0 => some (1, i)
  | k + 1 =>
    if n ≤ i then some (1, i)
    else
      match readRecord s asid track i with
      | .error f => some (sub f, i)
      | .ok r =>
        match recType r with
        | 0 =>
          if !cmdOk r || n < i + 1 + recNx r then some (1, i)
          else
            match readRecords (recNx r) s asid track (i + 1) with
            | .error f => some (sub f, i)
            | .ok _ => checkSegment k s asid track n (i + 1 + recNx r)
        | 2 => if r / 2 ^ 64 % 2 ^ 45 ≠ 0 then some (1, i) else checkSegment k s asid track n (i + 1)
        | _ =>
          if !guardOk r i n then some (1, i)
          else
            match readRecords (recNs r) s asid track (i + 1) with
            | .error f => some (sub f, i)
            | .ok l => if l.all (fun e => e / 2 ^ 124 % 16 ≤ 2) then none else some (1, i)

/-- A class X trap of the Scroll (R466): the subcode, the record's VA or the slot where there is one, and the group's index. -/
def scrollTrap (cause : BitVec 5) (sub : Nat) (at' : Option Nat) (g : BitVec 32) : TrapInfo :=
  ⟨cause, some (BitVec.ofNat 64 sub), at'.map (BitVec.ofNat 64), some (g.setWidth 64), none⟩

/-! ## The start of a replay (R460, R470) -/

/-- How a replay starts: with a status and live, with a fault, or replaying. -/
inductive PlayStart where
  | status (k : Nat)
  | fault (t : TrapInfo)
  | ok (s : State)

/-- A word of the patch vector, read as the group reads it. -/
def patchWord (s : State) (asid : BitVec 9) (pv n : Nat) : Except Flt Word :=
  (hubParts s asid false .read (pv + 8 * n) 8).map (fun ps => BitVec.ofNat 64 (leNat (readParts s ps)))

/-- The values of the supplied and declared slots, or the VA that could not be read. -/
def patchValues (slots : List Nat) (s : State) (asid : BitVec 9) (pv : Nat) : Except Flt (SMap Word) :=
  match slots with
  | [] => .ok []
  | k :: t =>
    match patchWord s asid pv (1 + k) with
    | .error f => .error f
    | .ok w => (patchValues t s asid pv).map (fun l => SMap.set 0 l k w)

/-- The width less 1 of a slot in header words 4 to 6. -/
def slotWid (s : State) (asid : BitVec 9) (area k : Nat) : Nat :=
  ((s.tapeWord asid area 4).toNat + (s.tapeWord asid area 5).toNat * 2 ^ 64 + (s.tapeWord asid area 6).toNat * 2 ^ 128) / 2 ^ (6 * k) % 64

/-- Check 4 of R460: the patch values, or the subcode of PATCH_RANGE and its KAUX1. -/
def checkPatches (s : State) (asid : BitVec 9) (area pv : Nat) : Except (Nat × Nat) (SMap Word) :=
  let declared := (List.range 32).filter (fun k => bit (s.tapeWord asid area 2) (32 + k))
  match (if pv = 0 then Except.ok 0 else patchWord s asid pv 0) with
  | .error f => .error (3, f.addr)
  | .ok sup =>
    match patchValues (declared.filter (fun k => bit sup k)) s asid pv with
    | .error f => .error (3, f.addr)
    | .ok vals =>
      match declared.find? (fun k => !bit sup k) with
      | some k => .error (1, k)
      | none =>
        match declared.find? (fun k => decide (2 ^ (slotWid s asid area k + 1) ≤ (SMap.get 0 vals k).toNat)) with
        | some k => .error (2, k)
        | none => .ok vals

/-- The depth that a guard's snapshot gives the stack, if it gives one. -/
def itemsDepth (l : List Nat) : Option Nat := (l.find? (fun e => e / 2 ^ 124 % 16 = 1)).map (fun e => e / 2 ^ 117 % 128)

/-- The track of a replay read and its START guard held against the context (R460, check 5). -/
def State.openTrack (s : State) (u : CtxId) (g : Group) (area tlen n crc : Nat) (vals : SMap Word) : PlayStart :=
  let asid := s.asidOf u
  let track := area + tapeFirst g.count.toNat + g.gidx.toNat * tlen
  let bad := fun (sub : Nat) (at' : Option Nat) => PlayStart.fault (scrollTrap cReplayFault sub at' g.gidx)
  if tlen < 16 * n then bad 1 none
  else
    match s.hubRead asid track (16 * n) with
    | .error f => bad (if f.cause = cMemUncorrectable then 1 else 2) (some (f.addr / 16 * 16))
    | .ok bs =>
      if (crc32 bs).toNat ≠ crc then bad 1 none
      else
        match checkSegment 1 s asid track n 0, readRecord s asid track 0 with
        | none, .ok h =>
          match readRecords (recNs h) s asid track 1 with
          | .error _ => bad 2 (some track)
          | .ok items =>
            if recKind h ≠ 0 || recType h ≠ 1 then bad 1 (some track)
            else
              match checkSegment (n + 1) s asid track n (1 + recNs h) with
              | some (sub, i) => bad sub (some (track + 16 * i))
              | none =>
                let x := s.ctxAt u
                if recData h ≠ s.startData u || recPos h ≠ x.pos.toNat || itemsDepth items ≠ some x.stack.length then .status 5
                else
                  let w3 := s.tapeWord asid area 3
                  let t := (s.tapeWrite asid (area + 24) (leBytes 8 (bits w3 63 32 * 2 ^ 32 + (bits w3 31 0 + 1) % 2 ^ 32))).getD s
                  .ok (t.putScroll u { Scroll.live with
                    mode := 2
                    area := BitVec.ofNat 64 area
                    track := track
                    tlen := tlen
                    total := n
                    abt := x.scroll.abt
                    div := x.scroll.div
                    patches := vals })
        | some (sub, i), _ => bad sub (some (track + 16 * i))
        | _, .error f => bad (if f.cause = cMemUncorrectable then 1 else 2) (some track)

/-- The header of a tape that a start reads, an acquire at .dev (R460). -/
def State.readHeader (s : State) (u : CtxId) (area pv : Word) : State :=
  let x := s.ctxAt u
  if x.scroll.mode = 0 && x.group.isSome && area.toNat % 4096 = 0 && pv.toNat % 8 = 0 && tapePageOk s (s.asidOf u) area.toNat then
    s.acquire u 1 (s.tapeKey (s.asidOf u) area.toNat)
  else s

/-- The checks of R460 in order; status 2 for a TLEN below 4,096 (R468) where the area's size is known (DEDUCED, log entry 58). `size` is the area size of a REPLAY packet. -/
def State.startReplay (s : State) (u : CtxId) (area pv : Word) (size : Option Word) : PlayStart :=
  let x := s.ctxAt u
  let asid := s.asidOf u
  let a := area.toNat
  if x.scroll.mode ≠ 0 then .status 1
  else
    match x.group with
    | none => .status 4
    | some g =>
      if a % 4096 ≠ 0 || pv.toNat % 8 ≠ 0 then .status 2
      else if !tapePagesOk ((0x40 + 16 * (g.gidx.toNat + 1) + 4095) / 4096) s asid a then .status 3
      else
        let w0 := s.tapeWord asid a 0
        let entry := match s.hubNat asid (a + 0x40 + 16 * g.gidx.toNat) 16 with
          | .ok v => v
          | .error _ => 0
        let own := s.tapeWord asid a 7
        if !bit w0 63 || entry / 2 ^ 63 % 2 = 0 then .fault (scrollTrap cReplayFault 3 none g.gidx)
        else if bit w0 62 then .status 6
        else if s.tapeWord asid a 1 ≠ s.groupHash g || bits w0 31 0 ≠ g.count.toNat || (match size with | some z => z ≠ own | none => false) then .status 5
        else if tapeTlen g.count.toNat own.toNat < 4096 then .status 2
        else if !tapePagesOk ((own.toNat + 4095) / 4096) s asid a then .status 3
        else
          match checkPatches s asid a pv.toNat with
          | .error (sub, k) => .fault (scrollTrap cPatchRange sub (some k) g.gidx)
          | .ok vals => s.openTrack u g a (tapeTlen g.count.toNat own.toNat) (entry % 2 ^ 32) (entry / 2 ^ 64 % 2 ^ 32) vals

/-! ## The forms (R467 to R473) -/

/-- SCREC.BEGIN (R469). -/
def execScrecBegin (o : Ops) (s : State) : Host.Outcome State Fault Refusal :=
  runPlain o (fun t =>
    let t0 := t.setS o.d 0
    let r := t0.beginTrack t.core.cur { t0.ctx with pc := t.nextPc o, counted := t.ctx.counted + 1 } (t.getS o.a) (t.getS o.b)
    if r.1 = 0 then r.2 else t.setS o.d (BitVec.ofNat 64 r.1)) s

/-- SCREC.END (R469). What it writes when the track cannot be closed the manual does not say (log entry 1). -/
def execScrecEnd (o : Ops) (s : State) : Host.Outcome State Fault Refusal :=
  runPlain o (fun t =>
    let x := t.ctx
    if x.group.isNone || t.kLevel then t.setS o.d 4
    else if x.scroll.mode ≠ 1 then t.setS o.d 1
    else
      let t1 := t.closeTrack t.core.cur { x with pc := t.nextPc o, counted := x.counted + 1 }
      if t1.ctx.scroll.abt then let f := t1.takeFree; f.2.setS o.d f.1
      else t1.setS o.d (BitVec.ofNat 64 (t1.ctx.scroll.nrec * 2 ^ 32))) s

/-- SCPLAY (R470): after a class X fault of its own it writes status 8 when it executes again (R466). -/
def execScplay (o : Ops) (s : State) : Host.Outcome State Fault Refusal :=
  runInstr o (fun t =>
    let u := t.core.cur
    let y := t.ctx.scroll
    if y.fellBack then .next ((t.putScroll u { y with fellBack := false }).setS o.d 8)
    else
      let t0 := t.readHeader u (t.getS o.a) (t.getS o.b)
      match t0.startReplay u (t.getS o.a) (t.getS o.b) none with
      | .status k => .next (t0.setS o.d (BitVec.ofNat 64 k))
      | .fault i => .raise i (t0.putScroll u { y with fellBack := true })
      | .ok t1 => .next (t1.setS o.d 0)) s

/-- SCGUARD (R471). -/
def execScguard (o : Ops) (s : State) : Host.Outcome State Fault Refusal :=
  runPlain o (fun t => t.writeGuard t.core.cur { t.ctx with pc := t.nextPc o, counted := t.ctx.counted + 1 } 1 4 (o.uimm % 65536) false) s

/-- PMASK and WID take a slot's declaration (R471). -/
def declareSlot (s : State) (asid : BitVec 9) (area slot width : Nat) : Option State :=
  let w2 := s.tapeWord asid area 2
  let old := slotWid s asid area slot
  let new := if bit w2 (32 + slot) then min old (width - 1) else width - 1
  let wid := (s.tapeWord asid area 4).toNat + (s.tapeWord asid area 5).toNat * 2 ^ 64 + (s.tapeWord asid area 6).toNat * 2 ^ 128
  let wid' := wid - old * 2 ^ (6 * slot) + new * 2 ^ (6 * slot)
  (s.tapeWrite asid (area + 16) (leBytes 8 (w2 ||| 1#64 <<< (32 + slot)).toNat)).bind (fun t => t.tapeWrite asid (area + 32) (leBytes 24 wid'))

/-- SCPATCH (R456, R471). -/
def execScpatch (o : Ops) (s : State) : Host.Outcome State Fault Refusal :=
  runPlain o (fun t =>
    let u := t.core.cur
    let slot := o.uimm % 32
    let width := o.uimm / 32 + 1
    let v := t.getS o.a
    if t.ctx.scroll.mode ≠ 1 then t
    else if 2 ^ width ≤ v.toNat then t.abortTrack u false
    else
      let t1 := t.putRecords u [2 * 2 ^ 126 + slot * 2 ^ 121 + (width - 1) * 2 ^ 115 + o.a.toNat * 2 ^ 109 + v.toNat]
      let y := t1.ctx.scroll
      if y.mode ≠ 1 then t1
      else
        match declareSlot t1 t1.curAsid y.area.toNat slot width with
        | none => t1.abortTrack u false
        | some t2 => t2.putScroll u { y with tags := if o.a = 0 then y.tags else SMap.set 0 y.tags o.a.toNat (BitVec.ofNat 6 (32 + slot)) }) s

/-- No tape store of the module holds a copy of a record in n pages of an area any longer (R472). -/
def State.dropRecords (s : State) (asid : BitVec 9) (va n : Nat) : State :=
  let pages := (List.range n).filterMap (fun i => s.hubDpa asid (va + 4096 * i))
  s.mapCores (fun _ c => { c with store := c.store.filter (fun e => !pages.contains (e.1 / 4096 * 4096)) })

/-- SCINV (R472): status 2 when GCOUNT and SIZE of the header make TLEN less than 4,096, status 3 when a page of the area, of the size that its header gives, is not present, writable or pinned (R468). Every tape store's copies of records that lie in the area's pages go. In the K context it has no effect (R467, DEDUCED, log entry 58). -/
def execScinv (o : Ops) (s : State) : Host.Outcome State Fault Refusal :=
  runPlain o (fun t =>
    let a := (t.getS o.a).toNat
    if t.kLevel then t
    else if a % 4096 ≠ 0 then t.setS o.d 2
    else if !tapePageOk t t.curAsid a then t.setS o.d 3
    else if tapeTlen (bits (t.tapeWord t.curAsid a 0) 31 0) (t.tapeWord t.curAsid a 7).toNat < 4096 then t.setS o.d 2
    else if !tapePagesOk (((t.tapeWord t.curAsid a 7).toNat + 4095) / 4096) t t.curAsid a then t.setS o.d 3
    else
      match t.tapeWrite t.curAsid a (leBytes 8 (t.tapeWord t.curAsid a 0 &&& ~~~(tapeValid ||| tapeStale)).toNat) with
      | none => t.setS o.d 3
      | some t1 => (t1.dropRecords t.curAsid a (((t.tapeWord t.curAsid a 7).toNat + 4095) / 4096)).setS o.d 0) s

/-- The Scroll state of a context as SCSTAT reads it (R473). -/
def Scroll.word (y : Scroll) : Word :=
  BitVec.ofNat 64 (y.mode.toNat * 2 ^ 62 + (if y.abt then 2 ^ 61 else 0) + (if y.clean then 2 ^ 60 else 0) + y.div.toNat * 2 ^ 32 + y.nrec % 2 ^ 32)

/-- SCSTAT (R473). In the K context it has no effect (R467, DEDUCED, log entry 58). -/
def execScstat (o : Ops) (s : State) : Host.Outcome State Fault Refusal :=
  runInstr o (fun t =>
    if t.kLevel then .next t
    else if o.uimm < 8 then loadAt t 0 (t.getS o.a + BitVec.ofNat 64 (8 * o.uimm)) .plain (fun u w => u.setS o.d w)
    else .next (t.setS o.d t.ctx.scroll.word)) s

end Sys2Proof.Machine
end

