-- ==== Sys2Proof/Machine/Supervisor.lean ====
section
/-! DEFINITION. K-level: system calls, the return from a trap, translation control, interrupts, the watchdog, the drain of a region, and the cut and restore of a context (R304 to R337). -/

namespace Sys2Proof.Machine

/-! ## Other cores (R8) -/

/-- A change made with core n looked at. -/
def State.withCore (s : State) (n : Nat) (f : State → State) : State := (f (s.focus n)).focus s.coreId

/-- A change made at the core looked at and at every core that differs from a reset core. -/
def State.forCores (s : State) (f : State → State) : State :=
  (s.coreId :: s.others.map (·.1)).foldl (fun t n => t.withCore n f) s

/-- The U contexts whose group belongs to a region. -/
def Core.groupsOf (c : Core) (rcb : Nat) : List CtxId :=
  uCtxs.filter (fun u => (c.ctxOf u).group.any (fun g => decide (g.rcb = rcb)))

/-! ## Ending a group's work (R21, R318) -/

/-- The faults of ports that no invocation uses are no longer delivered. -/
def Core.quiet (c : Core) (pns : List Nat) : Core :=
  { c with ports := c.ports.map (fun e =>
      (e.1, if pns.contains e.1 && !c.invs.any (fun v => v.ports.contains e.1) then { e.2 with fault := none } else e.2)) }

/-- Invocations dropped without effect: their slots, their held writes and the faults of their ports go with them. -/
def State.dropInvs (s : State) (p : Inv → Bool) : State :=
  let out := s.core.invs.filter p
  let t := out.foldl (fun (a : State) (v : Inv) => ((v.undo.foldl State.undoFrame a).putCore (a.core.releaseSlot v)).unholdInv v false) s
  t.putCore ({ t.core with invs := t.core.invs.filter (fun v => !p v) }.quiet (out.flatMap Inv.ports)).settleSkips

/-- The faults of a context's ports are no longer delivered. -/
def Core.quietPorts (c : Core) (u : CtxId) : Core :=
  { c with ports := c.ports.map (fun e => (e.1, if e.2.owner = some u then { e.2 with fault := none } else e.2)) }

/-- A group is terminated (R318): what runs completes; what is stopped, discarded or queued is dropped, and its completion objects are not updated. -/
def State.killGroup (s : State) (u : CtxId) (cause : BitVec 8) : State :=
  let t := s.putCtxAt u ((s.ctxAt u).kill cause)
  let t1 := t.dropInvs (fun v => v.ctx = u && v.st ≠ .running)
  let t2 := t1.dropHeld u
  t2.putCore { t2.core.quietPorts u with pend := t2.core.pend.filter (fun p => decide (p.ctx.toNat ≠ ctxNum u)) }

/-! ## System calls (R315, R317) -/

/-- SYSCALL or BREAKPOINT with the immediate in KAUX1; nothing in the K context. -/
def callTrap (cause : BitVec 5) (o : Ops) (s : State) : Host.Outcome State Fault Refusal :=
  runInstr o (fun t => if t.kLevel then .next t else .trap (trapInfo cause 0 (BitVec.ofNat 64 (o.uimm % 65536))) t) s

/-- TRAP (R317). -/
def execTrap (o : Ops) (s : State) : Host.Outcome State Fault Refusal := callTrap cSyscall o s
/-- BRK (R317). -/
def execBrk (o : Ops) (s : State) : Host.Outcome State Fault Refusal := callTrap cBreakpoint o s

/-! ## The drain of a region (R13 to R15, R246, R337) -/

/-- STATE of a region's RCB in memory (R474). -/
def State.writeRcb (s : State) (r : Region) (off : Nat) (w : Word) : State :=
  match s.hubWrite r.asid (r.rcbVa.toNat + off) (leBytes 8 w.toNat) with
  | .ok t => t
  | .error _ => s

/-- A region enters a state. -/
def State.setRegionState (s : State) (rcb : Nat) (st : BitVec 2) : State :=
  match s.region rcb with
  | none => s
  | some r => (s.putRegion rcb { r with state := st }).writeRcb r 0x38 (st.setWidth 64)

/-- What the ports of a context hold is consumed and discarded, but for a port that an invocation still uses (R15). -/
def Core.discardInputs (c : Core) (u : CtxId) : Core :=
  { c with ports := c.ports.map (fun e =>
      (e.1, if e.2.owner = some u && !c.invs.any (fun v => v.ports.contains e.1) then { e.2 with fault := none, fifo := [], circ := [], drops := [] } else e.2)) }

/-- DRN enters at the source of a context, directly after the last symbol generated: the context is under the drain configuration (R15, R337). Where no lead port is bound any more, it enters the mark queue itself, whatever that holds (DESIGN CHOICE, log entry 60). -/
def Core.enterDrn (c : Core) (u : CtxId) : Core :=
  let x := c.ctxOf u
  match c.leadPort u with
  | some i =>
    let p := SMap.get Port.reset c.ports i
    { c.putCtx u { x with draining := true } with ports := SMap.set Port.reset c.ports i { p with outMarks := p.outMarks ++ [mDRN], ended := true } }
  | none => c.putCtx u { x with draining := true, queue := x.queue ++ [mDRN] }

/-- The ports of some contexts that are ends of circuits. -/
def State.circPorts (s : State) (us : List CtxId) : List Nat :=
  (List.range 8).filter (fun p =>
    (s.port p).owner.any (fun u => us.contains u)
      && (s.core.circuits.any (fun e => (s.core.circEnd s.coreId e.1).any (fun x => x.port = p)) || !(s.farEnds p).isEmpty))

/-- What DRN at every source does to a core: no invocation of the region's groups starts, their circuits are lost (R169), DRN enters. -/
def State.drainCoreOf (s : State) (rcb : Nat) : State :=
  let us := s.core.groupsOf rcb
  let t := s.dropInvs (fun v => us.contains v.ctx && (v.st = .queued || v.st = .discarded))
  let t1 := (t.circPorts us).foldl (fun (a : State) p => a.circLoss p) t
  us.foldl (fun (a : State) u => a.putCore ((a.core.enterDrn u).discardInputs u)) t1

/-- A step of the drain of a context: a symbol, or DRN, and the inputs that nothing uses any more (R15, R246). A replay is over then (R465). -/
def State.drainMove (s : State) (u : CtxId) : State :=
  let x := s.ctxAt u
  if !x.drains then s
  else
    let t := (if x.scroll.mode = 2 then s.putScroll u (x.scroll.toLive false) else s).drainStep u
    t.putCore (t.core.discardInputs u)

/-- The launches of a region in flight bind no further group and complete with FAULT (R337). -/
def Launch.drain (l : Launch) : Launch := { l with closed := true, status := if l.status = 0 then 1 else l.status }

/-- DRAIN applied to a region; a core that is given hears of its end. -/
def State.drainRegion (s : State) (rcb : Nat) (issuer : Option Nat) : State :=
  match s.region rcb with
  | none => s
  | some r =>
    let t := (s.putRegion rcb { r with drainCore := issuer }).setRegionState rcb 3
    let t1 := t.forCores (fun a => a.drainCoreOf rcb)
    t1.mapLaunches (fun l => if l.rcb = rcb then l.drain else l)

/-- DRAIN's status and state (R337). -/
def State.startDrain (s : State) (va : Word) : Nat × State :=
  match hubParts s s.curAsid true .read va.toNat 1 with
  | .error _ => (3, s)
  | .ok ps =>
    let rcb := (ps.map (fun p => p.dpa)).headD 0
    match s.region rcb with
    | none => (1, s)
    | some r => if r.state = 0 then (1, s) else if r.state = 3 then (2, s) else (0, s.drainRegion rcb (some s.coreId))

/-- DRAIN (R337). -/
def execDrain (o : Ops) (s : State) : Host.Outcome State Fault Refusal :=
  runK o (fun t => let r := t.startDrain (t.getS o.a); .next (r.2.setS o.d (BitVec.ofNat 64 r.1))) s

/-- An interrupt joins a core's queue of 16 (R329). -/
def Core.queueIrq (c : Core) (i : Irq) : Core := { c with irqs := c.irqs ++ [i] }

/-- A core's interrupt queue has room. -/
def Core.irqRoom (c : Core) : Bool := decide (c.irqs.length < 16)

/-- The tokens of a region on a core (R15): the beats and symbols at the ports of its groups, and at unowned ports of a core that holds its image; and the invocations of its groups, with the beats at their inputs. -/
def Core.tokens (c : Core) (rcb : Nat) : Nat :=
  let us := c.groupsOf rcb
  let mine := fun (u : Option CtxId) => match u with
    | some x => us.contains x
    | none => c.image = some rcb
  c.ports.foldl (fun n e => if mine e.2.owner then n + e.2.fifo.length + e.2.circ.length else n) 0
    + c.invs.foldl (fun n v => if us.contains v.ctx then n + 1 + v.beats.length else n) 0

/-- The occupancy tree of a region reports no tokens: their sum over the module is 0 and no group of it is bound (R15). -/
def State.drained (s : State) (rcb : Nat) : Bool :=
  (s.coreId :: s.others.map (·.1)).all (fun n => ((s.coreOf n).groupsOf rcb).isEmpty && decide ((s.coreOf n).tokens rcb = 0))

/-- The end of a drain may take effect: the issuing core's queue has room for its interrupt. -/
def State.canEndDrain (s : State) (rcb : Nat) : Bool :=
  match s.region rcb with
  | none => false
  | some r => r.state = 3 && s.drained rcb && (match r.drainCore with | some n => (s.coreOf n).irqRoom | none => true)

/-- REGION_DRAIN_COMPLETE (R14): the region is UNARMED, holds no image and reserves nothing (R363). -/
def State.endDrain (s : State) (rcb : Nat) : State :=
  match s.region rcb with
  | none => s
  | some r =>
    if !s.canEndDrain rcb then s
    else
      let t := s.mapCores (fun _ c => { c with resv := c.resv.filter (fun v => decide (v.rcb ≠ rcb)), image := if c.image = some rcb then none else c.image })
      let t1 := ((t.putRegion rcb { r with state := 0, image := none, drainCore := none }).writeRcb r 0x38 0).writeRcb r 0x58 0
      let t2 := t1.writeRcb r 0x60 0
      match r.drainCore with
      | none => t2
      | some n => t2.putCoreAt n ((t2.coreOf n).queueIrq ⟨0x04, BitVec.ofNat 64 rcb, 0⟩)

/-- REGION_DRAIN_COMPLETE (R14). -/
def execRegionDrainComplete (rcb : Nat) (s : State) : Host.Outcome State Fault Refusal := .next (s.endDrain rcb)

/-! ## Save areas (R332 to R336) -/

/-- The nodes of the loaded image on the core looked at. -/
def State.coreNodes (s : State) : List (BitVec 256) :=
  match s.core.image.bind (fun r => s.region r) with
  | some r =>
    match r.image with
    | some i => i.nodes.filter (fun n => decide (i.base + n.toNat / 2 ^ 16 % 512 = s.coreId))
    | none => []
  | none => []

/-- The LIVE slots of a context (R194). -/
def Core.liveSlots (c : Core) (u : CtxId) : List Nat :=
  (c.tags.filter (fun e => tagLive e.2 && decide (tagCtx e.2 = ctxNum u))).map (·.1)

/-- The accumulators that a context owns by a reservation (R363). -/
def Core.ownAccs (c : Core) (u : CtxId) : List Nat :=
  (List.range 4).filter (fun a => (c.resv.find? (fun v => v.owner = some u)).any (fun v => v.accs.getLsbD a))

/-- The accumulators that the record of a node holds for a context: of an MX node those that it names and the context owns (R335). -/
def Core.recordAccs (c : Core) (u : CtxId) (n : BitVec 256) : List Nat :=
  if n.toNat / 2 ^ 28 % 16 = 0 then (c.ownAccs u).filter (fun a => n.getLsbD (72 + a)) else []

/-- The bytes of an accumulator in a record: a head with its number, KIND in bit 8 and SAT in bit 9, then its elements, five bytes each (log entry 40). -/
abbrev accLen : Nat := 16 + 5 * 16384

/-- The length of a node's record. -/
def Core.recordLen (c : Core) (u : CtxId) (n : BitVec 256) : Nat := 16 + accLen * (c.recordAccs u n).length

/-- The bytes that a cut of a context needs. -/
def State.saveLen (s : State) (u : CtxId) : Nat := 0x9440 + (s.coreNodes.map (s.core.recordLen u)).sum + 4144 * (s.core.liveSlots u).length

/-- The full bits of a slot. -/
def Core.slotFull (c : Core) (i : Nat) : BitVec 256 :=
  BitVec.ofNat 256 ((List.range 256).foldl (fun n k => if SMap.get false c.full (256 * i + k) then n + 2 ^ k else n) 0)

/-- A slot as it is saved: its head, its data and its full bits. -/
def Core.slotBytes (c : Core) (i : Nat) : List Byte :=
  leBytes 16 (i + (SMap.get 0 c.tags i).toNat * 2 ^ 64) ++ c.spBytes (4096 * i) 4096 ++ leBytes 32 (c.slotFull i).toNat

/-- An accumulator in a record. -/
def accBytes (n : Nat) (a : Acc) : List Byte :=
  leBytes 16 (n + (if a.int then 2 ^ 8 else 0) + (if a.sat then 2 ^ 9 else 0)) ++ (List.range 16384).flatMap (fun i => leBytes 5 (SMap.get 0 a.el i).toNat)

/-- The accumulator that a record holds, with its number. -/
def accOfBytes (b : List Byte) : Nat × Acc :=
  let h := leNat (b.take 16)
  (h % 4, ⟨h / 2 ^ 8 % 2 = 1, h / 2 ^ 9 % 2 = 1,
    ((List.range 16384).map (fun i => (i, BitVec.ofNat 40 (leNat ((b.drop (16 + 5 * i)).take 5))))).filter (fun e => e.2 ≠ 0)⟩)

/-- A node record: its head, and the accumulators of an MX record (R335; log entry 40). -/
def Core.nodeRecord (c : Core) (u : CtxId) (n : BitVec 256) : List Byte :=
  leBytes 16 (c.recordLen u n + n.toNat % 65536 * 2 ^ 32 + n.toNat / 2 ^ 28 % 16 * 2 ^ 48)
    ++ (c.recordAccs u n).flatMap (fun a => accBytes a (SMap.get Acc.reset c.accs a))

/-- What n records hold: their bytes, and the accumulators among them. -/
def recordsOf (n : Nat) (b : List Byte) : Nat × List (Nat × Acc) :=
  match n with
  | 0 => (0, [])
  | k + 1 =>
    let len := leNat (b.take 4)
    let r := recordsOf k (b.drop (max 16 len))
    let own := if leNat ((b.drop 6).take 2) = 0 then (List.range ((len - 16) / accLen)).map (fun i => accOfBytes ((b.drop 16).drop (accLen * i))) else []
    (max 16 len + r.1, own ++ r.2)

/-- Marks as a number, four bits each, the first lowest. -/
def marksNat (l : List Mark) : Nat := l.foldr (fun m n => m.toNat + 16 * n) 0

/-- The parse state: the number under which the model keeps what the cut saved; the depths of the stack, of the mark queue and of the insertion buffer; the stack, the fault record, the position, BUDGET, SEED, the queue, the buffer's codes; then free bytes. The order is the model's own (log entry 40). -/
def parseBytes (x : Ctx) (serial free : Nat) : List Byte :=
  leBytes 8 serial ++ leBytes 1 x.stack.length ++ leBytes 1 x.queue.length ++ leBytes 1 x.ins.length ++ leBytes 5 0
    ++ (List.range 64).flatMap (fun i => leBytes 2 (((x.stack[i]?).map (fun e => e.entry.toNat)).getD 0))
    ++ leBytes 32 x.frec.toNat ++ leBytes 4 x.pos.toNat ++ leBytes 4 x.budget.toNat ++ leBytes 8 x.seed.toNat
    ++ leBytes 32 (marksNat (x.queue.take 64)) ++ leBytes 8 (marksNat ((x.ins.take 16).map (fun e => e.code.getD 0)))
    ++ (List.range 24).map (fun i => Config.freeByte (free + i))

/-- A context's parse state as 256 bytes hold it; what the bytes do not tell, the credit of a stack entry and the place of a buffered mark, is as it was saved. -/
def savedParse (x : Ctx) (b : List Byte) : Ctx :=
  let w := fun (off n : Nat) => leNat ((b.drop off).take n)
  let mark := fun (off i : Nat) => BitVec.ofNat 4 (w off 32 / 16 ^ i)
  { x with
    stack := (List.range (min 64 (w 8 1))).map (fun i => ⟨BitVec.ofNat 16 (w (16 + 2 * i) 2), ((x.stack[i]?).map (fun e => e.prod)).getD 0⟩)
    queue := (List.range (min 64 (w 9 1))).map (mark 192)
    ins := (List.range x.ins.length).zipWith (fun i (e : InsMark) => { e with code := e.code.map (fun _ => BitVec.ofNat 4 (w 224 8 / 16 ^ i)) }) x.ins
    frec := BitVec.ofNat 256 (w 144 32)
    pos := BitVec.ofNat 32 (w 176 4)
    budget := BitVec.ofNat 32 (w 180 4)
    seed := BitVec.ofNat 64 (w 184 8) }

/-- Bytes 0x40 to the end of a save area. -/
def State.saveBody (s : State) (u : CtxId) (serial : Nat) : List Byte :=
  let x := s.ctxAt u
  (List.range 64).flatMap (fun i => leBytes 8 (x.getS i).toNat)
    ++ (List.range 8).flatMap (fun i => leBytes 32 (x.getP i).toNat)
    ++ parseBytes x serial s.free
    ++ (List.range 64).flatMap (fun i => leBytes 64 (SMap.get 0 x.tt i).toNat)
    ++ (List.range 32).flatMap (fun i => leBytes 1024 (x.getV i).toNat)
    ++ s.coreNodes.flatMap (s.core.nodeRecord u)
    ++ (s.core.liveSlots u).flatMap (fun i => s.core.slotBytes i)

/-- The header of a save area (R335). -/
def State.saveHeader (s : State) (u : CtxId) (body : List Byte) : List Byte :=
  match (s.ctxAt u).group with
  | none => []
  | some g =>
    leBytes 8 (2 ^ 63 + 2 ^ 32 + (64 + body.length)) ++ leBytes 8 (g.gidx.toNat * 2 ^ 32 + g.asid.toNat) ++ leBytes 8 (s.groupHash g).toNat
      ++ leBytes 8 g.lid.toNat ++ leBytes 8 (s.coreNodes.length % 65536 * 65536 + (s.core.liveSlots u).length) ++ leBytes 8 s.core.cycle.toNat
      ++ leBytes 8 (crc32 body).toNat ++ leBytes 8 0

/-- A write to a save area: the state, or the failing byte and whether an uncorrectable error made it fail (R334). -/
def State.saveWrite (s : State) (asid : BitVec 9) (va : Nat) (bs : List Byte) : Except (Nat × Bool) State :=
  match hubParts s asid true .write va bs.length with
  | .error f => .error (f.addr, f.cause = cMemUncorrectable)
  | .ok ps =>
    match ps.foldl (fun (a : Nat × Option Nat) p => (a.1 + p.len, if a.2.isNone && !bit p.attr 6 then some a.1 else a.2)) (va, none) with
    | (_, some b) => .error (b, false)
    | _ => .ok (storeSeen s false ps bs)

/-- CTXSAVE's status (R332). -/
def State.saveStatus (s : State) (u : CtxId) (area size : Word) (need : Nat) : Nat :=
  if (s.ctxAt u).group.isNone then 1
  else if s.core.cut.isSome || s.core.restore.isSome then 2
  else if area.toNat % 4096 ≠ 0 then 3
  else if size.toNat < need then 4
  else if !tapePagesOk ((size.toNat + 4095) / 4096) s s.curAsid area.toNat then 5
  else 0

/-- CTXSAVE (R332). -/
def execCtxsave (o : Ops) (s : State) : Host.Outcome State Fault Refusal :=
  runK o (fun t =>
    let u := uCtx (o.m.toNat - 1)
    let need := t.saveLen u
    let k := t.saveStatus u (t.getS o.a) (t.getS o.b) need
    let t1 := if k = 0 then t.putCore { t.core with cut := some ⟨u, t.getS o.a, t.curAsid, need, false, false⟩ } else t
    .next (t1.setS o.d (BitVec.ofNat 64 (k + need % 2 ^ 32 * 2 ^ 32)))) s

/-- Registers as a save area holds them. -/
def savedRegs (x : Ctx) (b : List Byte) : Ctx :=
  let w := fun (off n i : Nat) => leNat ((b.drop (off + n * i)).take n)
  { savedParse x ((b.drop 0x340).take 256) with
    s := (List.range 63).foldl (fun m i => SMap.set 0 m (i + 1) (BitVec.ofNat 64 (w 0x40 8 (i + 1)))) []
    p := (List.range 7).foldl (fun m i => SMap.set 0 m (i + 1) (BitVec.ofNat 256 (w 0x240 32 (i + 1)))) []
    tt := (List.range 64).foldl (fun m i => SMap.set 0 m i (BitVec.ofNat 512 (w 0x440 64 i))) []
    v := (List.range 32).foldl (fun m i => SMap.set 0 m i (BitVec.ofNat 8192 (w 0x1440 1024 i))) [] }

/-- The slots of a save area. -/
def savedSlots (n : Nat) (b : List Byte) : List SavedSlot :=
  (List.range n).map (fun i =>
    let r := b.drop (4144 * i)
    ⟨leNat (r.take 16) % 1024, BitVec.ofNat 64 (leNat ((r.drop 8).take 8)), (r.drop 16).take 4096, BitVec.ofNat 256 (leNat ((r.drop 4112).take 32))⟩)

/-- A slot or an accumulator of a save area is held by another context (R336). -/
def State.saveClash (s : State) (u : CtxId) (x : Saved) (l : List SavedSlot) : Bool :=
  l.any (fun e => let t := s.core.tag e.slot; (tagV t || tagBusy t) && decide (tagCtx t ≠ ctxNum u))
    || (match x.resv with
      | some r => s.core.resv.any (fun v => v.owner.isSome && v.owner ≠ some u && v.accs &&& r.accs ≠ 0)
      | none => false)

/-- CTXLOAD's status, and the restore that it arms (R336). -/
def State.loadStatus (s : State) (u : CtxId) (area : Word) : Except Nat Restore :=
  let a := area.toNat
  if (s.ctxAt u).group.isSome || s.core.cut.isSome || s.core.restore.isSome then .error 1
  else
    match s.hubRead s.curAsid a 64 with
    | .error _ => .error 5
    | .ok h =>
      let w := fun (i : Nat) => leNat ((h.drop (8 * i)).take 8)
      let nodes := w 4 / 65536 % 65536
      let slots := w 4 % 2048
      let len := w 0 % 2 ^ 32
      if w 0 / 2 ^ 63 = 0 || w 0 / 2 ^ 32 % 256 ≠ 1 || len < 0x9440 + 16 * nodes + 4144 * slots then .error 2
      else
        match s.hubRead s.curAsid a len with
        | .error _ => .error 5
        | .ok b =>
          let recs := recordsOf nodes (b.drop 0x9440)
          if len ≠ 0x9440 + recs.1 + 4144 * slots || (crc32 (b.drop 64)).toNat ≠ w 6 % 2 ^ 32 then .error 2
          else
            match SMap.get none s.hub.saves (leNat ((b.drop 0x340).take 8)) with
            | none => .error 2
            | some x =>
              let mine := match s.core.image.bind (fun r => s.region r) with
                | some r => (r.image.map (fun i => i.hash)).getD 0
                | none => 0
              let l := savedSlots slots (b.drop (0x9440 + recs.1))
              if BitVec.ofNat 64 (w 2) ≠ mine then .error 3
              else if s.saveClash u x l then .error 4
              else .ok ⟨u, { x with ctx := savedRegs x.ctx b, accs := recs.2 }, l⟩

/-- The save area that a CTXLOAD reads, an acquire at .dev: all but status 1 have read it (R336). -/
def State.readArea (s : State) (u : CtxId) (area : Word) : State :=
  if (s.ctxAt u).group.isSome || s.core.cut.isSome || s.core.restore.isSome then s else s.acquire .k 1 (s.tapeKey s.curAsid area.toNat)

/-- CTXLOAD (R336). -/
def execCtxload (o : Ops) (s : State) : Host.Outcome State Fault Refusal :=
  runK o (fun t =>
    let u := uCtx (o.m.toNat - 1)
    let t0 := t.readArea u (t.getS o.a)
    match t.loadStatus u (t.getS o.a) with
    | .error k => .next (t0.setS o.d (BitVec.ofNat 64 k))
    | .ok r => .next ((t0.putCore { t.core with restore := some r }).setS o.d 0)) s

/-- A reservation passes from its owner (R363): to the lowest-numbered other context that holds a group of the region, or to none. -/
def Core.passResv (c : Core) (u : CtxId) : Core :=
  { c with resv := c.resv.map (fun r =>
      if r.owner = some u then { r with owner := (c.groupsOf r.rcb).find? (fun v => v ≠ u) } else r) }

/-- A reservation of a region without an owner is taken by a context (R363). -/
def Core.takeResv (c : Core) (rcb : Nat) (u : CtxId) : Core :=
  { c with resv := c.resv.map (fun r => if r.rcb = rcb && r.owner.isNone then { r with owner := some u } else r) }

/-- The windows that an image gives a port of a core, with CHK 0 (R500). -/
def Image.windowsOf (i : Image) (core pn : Nat) : SMap (BitVec 128) :=
  i.wins.foldl (fun m w =>
    let f := fun (lo n : Nat) => w.toNat / 2 ^ lo % 2 ^ n
    if i.base + f 8 9 = core && f 17 3 = pn then SMap.set 0 m (f 20 2) (w &&& ~~~(0xFFFFF02#128)) else m) []

/-- A port's group is restored on another core: a transfer that waits for the end it left faults (R169). -/
def State.circMoved (s : State) (old pn : Nat) : State :=
  let t := s.focus old
  if t.core.invs.any (fun v => v.op = 0x8D && v.ports.contains pn) then s
  else ((t.farEnds pn).foldl (fun (a : State) e => (a.focus e.1).loseEnd e.2) t).focus s.coreId

/-- The ports of a group that has moved from another core: their circuits are lost there, and rebuilt here (R169, R336). -/
def State.portsMoved (s : State) (old : Nat) (pns : List Nat) : State :=
  let t := if old = s.coreId then s else pns.foldl (fun (a : State) p => a.circMoved old p) s
  pns.foldl (fun (a : State) p => a.rebuildCirc p) t

/-- A number on each element of a list. -/
def numbered {α : Type} (l : List α) : List (Nat × α) := (List.range l.length).zip l

/-- A list as a table that reads d elsewhere. -/
def tableOf (d : BitVec 128) (l : List (BitVec 128)) : SMap (BitVec 128) := (numbered l).filter (fun e => e.2 ≠ d)

/-- An armed restore would change a port that an invocation uses: it waits, as an instruction would (R163). -/
def Core.restoreWaits (c : Core) : Bool := c.restore.any (fun r => r.saved.ports.any (fun e => !c.quiescentPort e.1))

/-- A port as it comes to another core with its group: the beats that its skips discard are barred to every invocation there, since the group has none in flight. -/
def Port.moved (p : Port) (u : CtxId) : Port := { p with owner := some u, drops := p.drops.map (fun d => (0, d.2)) }

/-- At ERET, or once the ports are quiescent, an armed restore gives its context the saved group (R163, R336). Its first step is an acquire at .dev of the area, which CTXLOAD's own has made visible to every party already.
The ports of the group's numbers, and its weight slots, are taken over whoever held them on the core: R336 refuses for scratchpad slots and accumulators alone (DESIGN CHOICE, log entry 60). -/
def State.contextRestore (s : State) : State :=
  match s.core.restore with
  | none => s
  | some r =>
    if s.core.restoreWaits then s
    else
    let c := s.core
    let img := c.image.bind (fun n => (s.region n).bind (fun g => g.image))
    let ports := r.saved.ports.foldl (fun m e =>
      let wins := match img with
        | some i => i.windowsOf s.coreId e.1
        | none => e.2.wins.map (fun w => (w.1, w.2 &&& ~~~(2#128)))
      SMap.set Port.reset m e.1 { e.2.moved r.ctx with wins := wins, circLost := false }) c.ports
    let c0 := match img with
      | some i => { c with circuits := tableOf noCircuit i.circuits, debugTable := tableOf 0 i.debug }
      | none => c
    let c1 := { c0 with restore := none, ports := ports, accs := r.saved.accs.foldl (fun m e => SMap.set Acc.reset m e.1 e.2) c.accs, wslots := r.saved.wslots.foldl (fun m e => SMap.set WSlot.reset m e.1 e.2) c.wslots }
    let c2 := r.slots.foldl (fun (a : Core) e =>
      let b := a.spStore (4096 * e.slot) e.data
      let f := (List.range 256).foldl (fun m k => SMap.set false m (256 * e.slot + k) (e.full.getLsbD k)) b.full
      { b.putTag e.slot ((e.tag &&& ~~~(7#64 <<< 57)) ||| BitVec.ofNat 64 (ctxNum r.ctx * 2 ^ 57)) with full := f }) c1
    let c3 := match r.saved.ctx.group with
      | some g => c2.takeResv g.rcb r.ctx
      | none => c2
    (s.putCore (c3.putCtx r.ctx r.saved.ctx).settleSkips).portsMoved r.saved.core (r.saved.ports.map (·.1))

/-- At ERET an armed cut begins (R333): the header is not valid, PRE enters directly after the last symbol generated, or where no lead port is bound any more the mark queue itself (DESIGN CHOICE, log entry 60). -/
def State.beginCut (s : State) : State :=
  match s.core.cut with
  | none => s
  | some k =>
    if k.started then s
    else
      let t := (s.tapeWrite k.asid k.area.toNat (leBytes 8 0)).getD s
      let c := { t.core with cut := some { k with started := true } }
      match c.leadPort k.ctx with
      | some i =>
        let p := SMap.get Port.reset c.ports i
        t.putCore { c with ports := SMap.set Port.reset c.ports i { p with outMarks := p.outMarks ++ [mPRE] } }
      | none => let x := c.ctxOf k.ctx; t.putCore (c.putCtx k.ctx { x with queue := x.queue ++ [mPRE] })

/-- PRE withdrawn from a context and its sources (R334). -/
def Core.withdrawPre (c : Core) (u : CtxId) : Core :=
  let x := c.ctxOf u
  let c1 := c.putCtx u { x with queue := x.queue.filter (fun m => m ≠ mPRE) }
  { c1 with ports := c1.ports.map (fun e => (e.1, if e.2.owner = some u then { e.2 with outMarks := e.2.outMarks.filter (fun m => m ≠ mPRE) } else e.2)) }

/-- A context without a group: its registers keep what they held. -/
def Ctx.vacate (x : Ctx) : Ctx :=
  { x with
    group := none
    st := .noGroup
    errAction := false
    stack := []
    queue := []
    qbase := 0
    nData := 0
    ins := []
    eotc := false
    drained := false
    faulted := false
    gresume := none
    waiting := none
    evWait := none
    waited := 0
    age := 0
    syncInv := none
    parsed := false
    draining := false
    errDone := false
    scroll := Scroll.live }

/-- The effective fault domain of a context's group. -/
def State.fdomOf (s : State) (u : CtxId) : Option Nat :=
  match (s.ctxAt u).group with
  | none => none
  | some g => (s.region g.rcb).map (fun r => (s.rcb r.asid r.rcbVa.toNat).fdom)

/-- Every armed region of the module with a fault-domain number is drained, and the Margin recorder tells of it (R334). -/
def State.drainDomain (s : State) (u : CtxId) (at' : Nat) : State :=
  let dom := s.fdomOf u
  let t := s.margin s.dieId 0x05 0 (BitVec.ofNat 64 at') 0 s.coreId (ctxNum u) true
  t.hub.regions.foldl (fun (a : State) e =>
    match e.2 with
    | some r => if r.state ≠ 0 && r.state ≠ 3 && dom = some (a.rcb r.asid r.rcbVa.toNat).fdom then a.drainRegion e.1 none else a
    | none => a) t

/-- A cut is aborted: PRE is withdrawn, the context keeps running. -/
def State.abortCut (s : State) (u : CtxId) : State := s.putCore { s.core.withdrawPre u with cut := none }

/-- Every sink has seen PRE: the Ductus took the cut, no invocation of the context is left, and the interrupt has room. -/
def Core.canCut (c : Core) : Bool :=
  match c.cut with
  | some k => k.taken && !c.invs.any (fun v => v.ctx = k.ctx) && c.irqRoom && !c.halted
  | none => false

/-- The context, the ports, the accumulators and the weight slots that a cut takes off a core (R335, R339). -/
def Core.saved (c : Core) (u : CtxId) (core : Nat) : Saved :=
  let x := c.ctxOf u
  let r := c.resv.find? (fun v => v.owner = some u)
  let slots := (List.range 32).filter (fun n => r.any (fun v => v.slots.getLsbD n))
  ⟨{ x with waiting := none, evWait := none, waited := 0, age := 0, draining := false }, c.ports.filter (fun e => e.2.owner = some u),
    (c.ownAccs u).map (fun a => (a, SMap.get Acc.reset c.accs a)), slots.map (fun n => (n, SMap.get WSlot.reset c.wslots n)), r, core⟩

/-- The core once a cut is complete. -/
def Core.afterCut (c : Core) (u : CtxId) (area : Word) : Core :=
  let c1 := { c with
    cut := none
    ports := c.ports.filter (fun e => e.2.owner ≠ some u)
    resv := c.resv.map (fun (r : Reservation) => if r.owner = some u then { r with owner := none } else r) }
  (c1.putCtx u (c1.ctxOf u).vacate).queueIrq ⟨0x02, area, BitVec.ofNat 64 (ctxNum u)⟩

/-- CUT_COMPLETE (R333), or the end of a cut whose save area fails (R334). It releases the context's stores at .dev. -/
def State.completeCut (s : State) : State :=
  match s.core.cut with
  | none => s
  | some k =>
    if !s.core.canCut then s
    else
      let u := k.ctx
      let s1 := s.putCore (s.core.withdrawPre u)
      let serial := s1.hub.nextSave
      let body := s1.saveBody u serial
      let fail := fun (e : Nat × Bool) =>
        if e.2 then (s.abortCut u).drainDomain u e.1
        else (s.abortCut u).raiseTrap (trapInfo cSaveFault 1 (BitVec.ofNat 64 e.1)) u noPc
      match s1.saveWrite k.asid (k.area.toNat + 64) body with
      | .error e => fail e
      | .ok t =>
        match t.saveWrite k.asid k.area.toNat (s1.saveHeader u body) with
        | .error e => fail e
        | .ok t1 =>
          let t2 := t1.putCore (t1.core.afterCut u k.area)
          { t2.releaseAll u 1 (t1.tapeKey k.asid k.area.toNat) with free := t2.free + 24, hub := { t2.hub with saves := SMap.set none t2.hub.saves serial (some (s1.core.saved u s.coreId)), nextSave := serial + 1 } }

/-- CUT_COMPLETE (R333). -/
def execCutComplete (s : State) : Host.Outcome State Fault Refusal := .next s.completeCut

/-! ## The return from a trap (R311, R318) -/

/-- The class of a cause as ERET treats it (R310). -/
inductive TrapClass where
  | a | i | p | s | x | q
  deriving DecidableEq, Repr

/-- The class of the trap that KCAUSE and KAUX0 describe. -/
def Core.trapClass (c : Core) : TrapClass :=
  let code := bits c.kcause 4 0
  if bits c.kcause 12 10 = 7 then .q
  else if bit c.kcause 8 then .i
  else if code = 10 || (code = 19 && bits c.kaux0 7 0 = 1) then .p
  else if code = 21 || code = 22 then .s
  else if code = 16 || code = 17 || code = 20 then .x
  else .a

/-- A replaying context passes over the command that trapped (R461). -/
def State.passCommand (s : State) (u : CtxId) : State :=
  let y := (s.ctxAt u).scroll
  match readRecord s (s.asidOf u) y.track y.nrec with
  | .ok r => s.putScroll u { y with nrec := y.nrec + 1 + recNx r }
  | .error _ => s

/-- The trapped context goes on where R311 says; `skip` is .SKIP. A KEPC that a handler left misaligned, or beyond the address space, is taken as it is: the context fetches there (DESIGN CHOICE, log entry 53). -/
def State.returnTo (s : State) (u : CtxId) (skip : Bool) : State :=
  let c := s.core
  let x := s.ctxAt u
  let back := { x with st := x.trapFrom }
  if x.st ≠ .trapped then s
  else
    match c.trapClass with
    | .a =>
      if x.scroll.mode = 2 then (if skip then (s.putCtxAt u back).passCommand u else s.putCtxAt u back)
      else s.putCtxAt u { back with pc := c.kepc + if skip then BitVec.ofNat 64 (4 * bits c.kcause 15 14) else 0 }
    | .s => s.putCtxAt u (if c.kepc = noPc then back else { back with pc := c.kepc })
    | .x => s.putCtxAt u back
    | _ => s

/-- An armed GRESUME takes effect (R287). -/
def Ctx.applyResume (x : Ctx) : Ctx :=
  match x.gresume with
  | none => x
  | some recover => if x.st = .trapped then { x with st := if recover then .recovering else .parsing, gresume := none } else { x with gresume := none }

/-- Every armed GRESUME of a core. -/
def Core.applyResumes (c : Core) : Core :=
  { c with u0 := c.u0.applyResume, u1 := c.u1.applyResume, u2 := c.u2.applyResume, u3 := c.u3.applyResume }

/-- What M selects for the trapped context (R318): 0 it goes on, 1 .SKIP, 2 .KILL. -/
def State.afterTrap (s : State) (m : Nat) : State :=
  let n := bits s.core.kcause 12 10
  if n < 4 then
    if m = 2 then s.killGroup (uCtx n) (BitVec.ofNat 8 (bits s.core.kcause 4 0)) else s.returnTo (uCtx n) (m = 1)
  else if n = 4 && m = 2 then s.dropInvs (fun v => v.ctx = .k && v.st ≠ .running)
  else s

/-- ERET (R318): a full fence of .dev over the K context's accesses, then the rest. -/
def State.eret (s : State) (m : Nat) : State :=
  let t := (s.fence .k 1).afterTrap m
  ((t.putCore t.core.applyResumes).leaveTrap).beginCut.contextRestore

/-- An ERET form: PRIV at U-level, then the guard. -/
def eretWith (m : Nat) (o : Ops) (s : State) : Host.Outcome State Fault Refusal :=
  if s.core.halted then .fault .coreHalted
  else if !s.kLevel then finish o (.trap (trapSub cPriv 0) s)
  else if s.guard0 o then .next (s.eret m)
  else finish o (.next s)

/-- ERET (R318). -/
def execEret (o : Ops) (s : State) : Host.Outcome State Fault Refusal := eretWith 0 o s
/-- ERET.SKIP (R318). -/
def execEretSkip (o : Ops) (s : State) : Host.Outcome State Fault Refusal := eretWith 1 o s
/-- ERET.KILL (R318). -/
def execEretKill (o : Ops) (s : State) : Host.Outcome State Fault Refusal := eretWith 2 o s

/-- RESUME (R319): a full fence of .dev over the K context's accesses, then the rest. -/
def execResume (o : Ops) (s : State) : Host.Outcome State Fault Refusal := runK o (fun t => .next (t.fence .k 1).resumeAll) s

/-! ## Translation control (R324 to R326) -/

/-- CHK cleared in the windows of a port that meet a test. -/
def Port.uncheck (p : Port) (f : BitVec 128 → Bool) : Port :=
  { p with wins := p.wins.map (fun e => (e.1, if f e.2 then e.2 &&& ~~~(2#128) else e.2)) }

/-- What an invalidation does to a core: the L1 TLB entries that meet a test go, and the windows that meet one lose CHK. -/
def Core.invalidate (c : Core) (f : TlbEntry → Bool) (w : Option CtxId → BitVec 128 → Bool) : Core :=
  { c with
    l1tlb := c.l1tlb.filter (fun e => !f e)
    ports := c.ports.map (fun e => (e.1, e.2.uncheck (w e.2.owner))) }

/-- The cores of a scope (R325): .sys and .dev the module, .die the executing die, .core the executing core. -/
def inScope (s : State) (q n : Nat) : Bool :=
  match q with
  | 0 | 1 => true
  | 2 => n / 64 = s.dieId
  | _ => n = s.coreId

/-- An invalidation in a scope. The TLB of the executing core's die may serve that core, so .core acts on it too. -/
def State.invalidate (s : State) (q : Nat) (f : TlbEntry → Bool) (w : Core → Option CtxId → BitVec 128 → Bool) : State :=
  let t := s.mapCores (fun n c => if inScope s q n then c.invalidate f (w c) else c)
  { t with dies := t.dies.map (fun e =>
      (e.1, if q ≤ 1 || e.1 = s.dieId then { e.2 with tlb := e.2.tlb.filter (fun x => !f x) } else e.2)) }

/-- The ASID of a port's owner is a, or the port has no owner. -/
def ownedBy (c : Core) (a : BitVec 9) (u : Option CtxId) : Bool :=
  match u with
  | none => true
  | some .k => c.asid = a
  | some v => (c.ctxOf v).group.any (fun g => g.asid = a)

/-- A window holds a byte of a range. -/
def winMeets (w : BitVec 128) (lo hi : Nat) : Bool := decide (winVbase w * 4096 < hi) && decide (lo < winVlim w * 4096 + 4096)

/-- TLBINV.PAGE (R325). A page that it invalidates may reach past the range. -/
def execTlbinvPage (o : Ops) (s : State) : Host.Outcome State Fault Refusal :=
  runK o (fun t =>
    let lo := (t.getS o.a).toNat
    let hi := min (lo + (t.getS o.b).toNat) vaLimit
    let a := (t.getS o.c).setWidth 9
    let gone := fun (e : TlbEntry) => e.asid = a && decide (e.va < hi) && decide (lo < e.va + e.size)
    let pages := t.dies.flatMap (fun d => d.2.tlb.filter gone)
    if t.getS o.b = 0 then .next t
    else .next (t.invalidate o.q.toNat gone (fun c u w =>
      ownedBy c a u && (winMeets w lo hi || (pages ++ c.l1tlb.filter gone).any (fun e => winMeets w e.va (e.va + e.size)))))) s

/-- TLBINV.ASID (R325). -/
def execTlbinvAsid (o : Ops) (s : State) : Host.Outcome State Fault Refusal :=
  runK o (fun t =>
    let a := (t.getS o.c).setWidth 9
    .next (t.invalidate o.q.toNat (fun e => e.asid = a) (fun c u _ => ownedBy c a u))) s

/-- TLBINV.ALL (R325). -/
def execTlbinvAll (o : Ops) (s : State) : Host.Outcome State Fault Refusal :=
  runK o (fun t => .next (t.invalidate o.q.toNat (fun _ => true) (fun _ _ _ => true))) s

/-- The root of an ASID set (R324). -/
def State.setRoot (s : State) (a : BitVec 9) (w : Word) : State :=
  let t := s.invalidate 1 (fun e => e.asid = a) (fun c u _ => ownedBy c a u)
  { t with hub := { t.hub with roots := SMap.set 0 t.hub.roots a.toNat (w &&& 0xFFFFFFF001#64) } }

/-- ASIDSET (R324), a full fence of the K context at .dev. -/
def execAsidset (o : Ops) (s : State) : Host.Outcome State Fault Refusal :=
  runK o (fun t =>
    let a := t.getS o.a
    .next (if 512 ≤ a.toNat then t.setS o.d 1 else ((t.setRoot (a.setWidth 9) (t.getS o.b)).fence .k 1).setS o.d 0)) s

/-- SIZE of WALK. -/
def sizeCode (n : Nat) : Nat := if n = 4096 then 0 else if n = 65536 then 1 else if n = 2097152 then 2 else 3

/-- What WALK writes (R326); a field that the end of the walk leaves without a meaning is a free value (log entry 1), and so is every field when a table cannot be read (log entry 52). Bits [55:40] are 0. -/
def walkWord (s : State) (asid : BitVec 9) (va : Word) : Word :=
  let f := (Config.freeWord s.free).toNat
  let rest := f / 16 % 16 * 2 ^ 56 + f / 256 % 2 ^ 40
  if vaLimit ≤ va.toNat then BitVec.ofNat 64 (5 * 2 ^ 60 + rest)
  else
    let w := walk s asid va.toNat
    match w.fail with
    | none => BitVec.ofNat 64 ((w.level - 1) * 2 ^ 58 + sizeCode w.size * 2 ^ 56
        + (pteDpa w.pte / w.size * w.size + va.toNat % w.size) / 4096 * 4096 + bits w.pte 11 0)
    | some .root => BitVec.ofNat 64 (2 ^ 60 + rest)
    | some (.balloon _) => BitVec.ofNat 64 (f % 16 * 2 ^ 60 + rest)
    | some (.bad _) => BitVec.ofNat 64 (f % 16 * 2 ^ 60 + rest)
    | some k =>
      let st := match k with
        | .notPresent => 2
        | .malformed => 3
        | _ => 4
      BitVec.ofNat 64 (st * 2 ^ 60 + (w.level - 1) * 2 ^ 58 + f % 4 * 2 ^ 56 + f / 4 % 2 ^ 28 * 4096 + bits w.pte 11 0)

/-- WALK (R326). -/
def execWalk (o : Ops) (s : State) : Host.Outcome State Fault Refusal :=
  runK o (fun t => .next ({ t with free := t.free + 1 }.setS o.d (walkWord t ((t.getS o.b).setWidth 9) (t.getS o.a)))) s

/-! ## Interrupts and WFI (R329 to R331) -/

/-- IRQ.CORE (R330): a release at .sys when it is sent. -/
def execIrqCore (o : Ops) (s : State) : Host.Outcome State Fault Refusal :=
  runK o (fun t =>
    let n := (t.getS o.a).toNat
    if 512 ≤ n then .next (t.setS o.d 2)
    else if !(t.coreOf n).irqRoom then .next (t.setS o.d 1)
    else
      .next (((t.putCoreAt n ((t.coreOf n).queueIrq ⟨0x01, BitVec.ofNat 64 (t.coreId * 65536 + o.uimm % 65536), 0⟩)).release .k 0 [irqKey n]).setS o.d 0)) s

/-- An MSI-X interrupt of a function goes to the host. -/
def State.raiseMsix (s : State) (fn vec : Nat) : State := { s with hub := { s.hub with msix := s.hub.msix ++ [(fn, vec)] } }

/-- IRQ.HOST (R330): a release at .sys when it is sent. -/
def execIrqHost (o : Ops) (s : State) : Host.Outcome State Fault Refusal :=
  runK o (fun t =>
    let n := (t.getS o.a).toNat
    if 256 ≤ n then .next (t.setS o.d 2) else .next (((t.raiseMsix n (o.uimm % 2048)).release .k 0 [hubKey]).setS o.d 0)) s

/-- WFI (R331): it ends when an interrupt is queued or its limit has passed. -/
def execWfi (o : Ops) (s : State) : Host.Outcome State Fault Refusal :=
  runK o (fun t =>
    let x := t.ctx
    if !t.core.irqs.isEmpty then .next ((t.putCtx { x with wfiLeft := none }).setS o.d 1)
    else if x.waiting = some .irq then
      if x.wfiLeft = some 0 then .next ((t.putCtx { x with wfiLeft := none }).setS o.d 0) else .block .irq t
    else .block .irq (t.putCtx { x with wfiLeft := if o.uimm = 0 then none else some o.uimm })) s

/-- The watchdog of a U context has run out (R328): of a context in TRAPPED alone it does not. -/
def Core.expired (c : Core) (u : CtxId) : Bool :=
  let x := c.ctxOf u
  u ≠ .k && c.wdx ≠ 0 && x.group.isSome && x.st ≠ .trapped && decide (2 ^ (c.wdx.toNat + 15) ≤ x.waited) && !c.inTrap && !c.halted

/-- A watchdog that R313 puts before a rank has run out: WATCHDOG of context n has rank 1 + n. -/
def Core.expiredBefore (c : Core) (rank : Nat) : Bool := uCtxs.any (fun u => c.expired u && decide (1 + ctxNum u < rank))

/-- INTERRUPT_DELIVERY (R329): the oldest queued interrupt enters once nothing that R313 puts before it is pending. -/
def State.canInterrupt (s : State) : Bool :=
  !s.core.inTrap && !s.core.halted && s.core.pend.isEmpty && !s.core.irqs.isEmpty && !s.core.expiredBefore 10 && !s.canDeliver

/-- The oldest interrupt taken, an acquire at .sys (R330). -/
def State.deliverIrq (s : State) : State :=
  match s.core.irqs with
  | [] => s
  | i :: t =>
    if s.canInterrupt then
      ((s.putCore { s.core with irqs := t }).acquire .k 0 [irqKey s.coreId]).takeTrap ⟨0, some (i.source.setWidth 64), some i.aux1, some i.aux2, none⟩ 7 false true noPc 0 s.core.asid
    else s

/-- INTERRUPT_DELIVERY (R329). -/
def execInterruptDelivery (s : State) : Host.Outcome State Fault Refusal := .next s.deliverIrq

/-! ## Pending traps, the watchdog, aging (R24, R25, R313, R328) -/

/-- The rank of a waiting condition in R313: 0 before a generator fault, then WATCHDOG by context, then class X. -/
def PendingTrap.rank (p : PendingTrap) : Nat :=
  if p.info.cause = cWatchdog then 1 + p.ctx.toNat
  else if isClassX p.info.cause then 10
  else 0

/-- The waiting condition that R313 puts first; among equals the oldest. -/
def firstPending (l : List PendingTrap) : Option PendingTrap :=
  l.foldl (fun a p => match a with
    | some b => if p.rank < b.rank then some p else a
    | none => some p) none

/-- A waiting condition may be taken. -/
def State.canTrap (s : State) : Bool :=
  !s.core.inTrap && !s.core.halted
    && (match firstPending s.core.pend with | some p => p.rank = 0 || (!s.core.expiredBefore p.rank && !s.canDeliver) | none => false)

/-- TRAP_ENTRY (R312): the first waiting condition is taken. -/
def State.takePending (s : State) : State :=
  match firstPending s.core.pend with
  | none => s
  | some p =>
    if s.canTrap then (s.putCore { s.core with pend := s.core.pend.erase p }).takeTrap p.info p.ctx.toNat false false p.kepc 0 p.asid else s

/-- TRAP_ENTRY (R312). -/
def execTrapEntry (s : State) : Host.Outcome State Fault Refusal := .next s.takePending

/-- KAUX0 of WATCHDOG; a wait that R328 gives no code leaves it open (log entry 1). -/
def Wait.code : Wait → Option Word
  | .barrier => some 1
  | .full => some 2
  | .signal => some 3
  | .ligature => some 4
  | .mark => some 5
  | .queue => some 6
  | .divider => some 7
  | .storage => some 8
  | _ => none

/-- Nothing that R313 puts before the WATCHDOG of a context is ready. -/
def State.watchdogFirst (s : State) (u : CtxId) : Bool :=
  !s.core.pend.any (fun p => decide (p.rank < 1 + ctxNum u)) && !s.core.expiredBefore (1 + ctxNum u) && !s.canDeliver

/-- WATCHDOG (R328): class S, with KEPC at the blocked instruction, or all ones for a parse wait. A group whose parse has ended waits for something that R328 gives no code. -/
def State.watchdog (s : State) (u : CtxId) : State :=
  let x := s.ctxAt u
  if s.core.expired u && s.watchdogFirst u then
    s.raiseTrap ⟨cWatchdog, if x.parsed then none else (x.waiting.getD .mark).code, none, none, none⟩ u (if x.st = .action then x.pc else noPc)
  else s

/-- WATCHDOG (R328). -/
def execWatchdog (u : BitVec 2) (s : State) : Host.Outcome State Fault Refusal := .next (s.watchdog (uCtx u.toNat))

end Sys2Proof.Machine
end

