-- ==== Sys2Proof/Machine/Pinit.lean ====
section
/-! DEFINITION. Pipeline images: reading one, the checks of R38, and loading it into a region (R36 to R40, R226 to R232, R363, R494, R496 to R501). -/

namespace Sys2Proof.Machine

/-! ## Load reports (R38, R40) -/

/-- A failed check: its code, INDEX and AUX. -/
structure LoadFault where
  check : Nat
  index : Nat
  aux : Nat
  deriving DecidableEq, Repr

/-- The load report of R40. -/
def loadReport (f : LoadFault) : Word := BitVec.ofNat 64 (f.check % 256 + f.index % 65536 * 2 ^ 32 + f.aux % 256 * 2 ^ 48)

/-- The report of an image that passed every check. -/
def loadOk : Word := 0

/-- IMAGE_FORMAT at a byte offset of the image. -/
def badImage (off : Nat) : LoadFault := ⟨1, off / 16, 0⟩

/-- The first fault that a list of items gives. -/
def firstBad {α : Type} (l : List α) (f : α → Option LoadFault) : Except LoadFault Unit :=
  match l.findSome? f with
  | some e => .error e
  | none => .ok ()

/-! ## The bytes of an image (R497, R498) -/

/-- n bytes of an image from an offset on, as a number. -/
def imgNat (b : List Byte) (off n : Nat) : Nat := leNat ((b.drop off).take n)

/-- Bits [lo + w - 1 : lo] of a record. -/
def recField (r lo w : Nat) : Nat := r / 2 ^ lo % 2 ^ w

/-- A section: its TYPE, place, size, record count, and the offset of its table entry. -/
structure Section where
  type : Nat
  off : Nat
  size : Nat
  count : Nat
  entry : Nat
  deriving DecidableEq, Repr

/-- The record size of a section type; 0 where it has none. -/
def sectionRecord (t : Nat) : Nat :=
  match t with
  | 1 | 2 => 32
  | 3 | 4 | 5 | 8 | 9 => 16
  | _ => 0

/-- The section table of n entries. -/
def imgSections (b : List Byte) (n : Nat) : List Section :=
  (List.range n).map (fun i =>
    let e := 0x40 + 16 * i
    ⟨imgNat b e 2, imgNat b (e + 4) 4, imgNat b (e + 8) 4, imgNat b (e + 12) 4, e⟩)

/-- Two sections share a byte. -/
def Section.overlaps (x y : Section) : Bool := decide (x.off < y.off + y.size) && decide (y.off < x.off + x.size)

/-- A section entry breaks R498, given the entries before it. -/
def Section.bad (b : List Byte) (len tableEnd : Nat) (before : List Section) (x : Section) : Bool :=
  let r := sectionRecord x.type
  x.type = 0 || 10 < x.type || imgNat b (x.entry + 2) 2 ≠ 0 || x.off % 16 ≠ 0 || x.off < tableEnd || len < x.off + x.size
    || (r ≠ 0 && x.size ≠ r * x.count) || (x.type = 1 && x.count ≠ 1)
    || before.any (fun y => y.type = x.type || x.overlaps y)

/-- The first section entry that breaks R498. -/
def firstBadSection (b : List Byte) (len tableEnd : Nat) (before : List Section) : List Section → Option LoadFault
  | [] => none
  | x :: t => if x.bad b len tableEnd before then some (badImage x.entry) else firstBadSection b len tableEnd (x :: before) t

/-- The header is well formed, but for the hash (R497). -/
def headerOk (b : List Byte) : Bool :=
  let nsec := imgNat b 6 2
  let len := imgNat b 8 4
  let ncore := imgNat b 12 2
  imgNat b 0 4 = 0x4C574D49 && imgNat b 4 2 = 1 && decide (1 ≤ nsec) && decide (nsec ≤ 15) && len % 16 = 0
    && decide (0x40 + 16 * nsec ≤ len) && decide (1 ≤ ncore) && decide (ncore ≤ 512) && imgNat b 14 2 = 0

/-- HASH is the SHA-384 of the image with the field read as zero (R497). -/
def hashOk (b : List Byte) : Bool :=
  decide (sha384 (b.take 16 ++ List.replicate 48 0 ++ b.drop 64) = (b.drop 16).take 48)

/-- The bytes of an image in an address space; an image that cannot be read is malformed (R496). -/
def readImage (s : State) (asid : BitVec 9) (va : Nat) : Except LoadFault (List Byte) :=
  if va % 4096 ≠ 0 then .error (badImage 0)
  else
    match s.hubRead asid va 64 with
    | .error _ => .error (badImage 0)
    | .ok h =>
      if !headerOk h then .error (badImage 0)
      else
        match s.hubRead asid va (imgNat h 8 4) with
        | .error _ => .error (badImage 0)
        | .ok b => if hashOk b then .ok b else .error (badImage 0)

/-- The section of a type. -/
def sectionOf (l : List Section) (t : Nat) : Option Section := l.find? (fun x => x.type = t)

/-- The sections of an image, checked (R498). -/
def checkSections (b : List Byte) : Except LoadFault (List Section) :=
  let n := imgNat b 6 2
  let l := imgSections b n
  match firstBadSection b (imgNat b 8 4) (0x40 + 16 * n) [] l with
  | some e => .error e
  | none => if [1, 2, 6, 7].all (fun t => (sectionOf l t).isSome) then .ok l else .error (badImage 0)

/-- The records of a section, each with its offset in the image. -/
def sectionRecords (b : List Byte) (l : List Section) (t : Nat) : List (Nat × Nat) :=
  match sectionOf l t with
  | none => []
  | some x =>
    let r := sectionRecord t
    (List.range x.count).map (fun i => (x.off + r * i, imgNat b (x.off + r * i) r))

/-! ## Records (R499, R500, R501) -/

/-- A node record breaks R499 or names a reservation twice on its core (R363), given the records before it. -/
def nodeBad (ncore : Nat) (before : List Nat) (r : Nat) : Bool :=
  let unit := recField r 28 4
  let nin := recField r 64 4
  let nout := recField r 68 4
  recField r 224 32 ≠ 0 || recField r 108 20 ≠ 0 || recField r 35 29 ≠ 0 || recField r 25 3 ≠ 0
    || 4 < unit || ncore ≤ recField r 16 9 || 8 < nin || 8 < nout
    || recField r (128 + 6 * nin) (48 - 6 * nin) ≠ 0 || recField r (176 + 6 * nout) (48 - 6 * nout) ≠ 0
    || (unit ≠ 0 && recField r 72 36 ≠ 0) || (unit ≠ 3 && unit ≠ 4 && recField r 32 3 ≠ 0)
    || (unit = 0 && before.any (fun y => recField y 28 4 = 0 && recField y 16 9 = recField r 16 9
        && recField y 72 36 &&& recField r 72 36 ≠ 0))

/-- Beats per firing of an input and of an output of a node. -/
def nodeIn (r k : Nat) : Nat := recField r (128 + 6 * k) 6 + 1
def nodeOut (r k : Nat) : Nat := recField r (176 + 6 * k) 6 + 1

/-- The fields of a link record. -/
structure Link where
  edge : Nat
  src : Nat
  fout : Nat
  dst : Nat
  tin : Nat
  slots : Nat
  cfmt : Nat
  pfmt : Nat
  fv : Bool
  conv : Bool
  k : Nat
  scnt : Nat
  deriving DecidableEq, Repr

/-- A link record's fields (R500). -/
def linkOf (r : Nat) : Link :=
  let f := recField r
  ⟨f 0 16, f 16 16, f 32 4, f 48 16, f 64 4, f 68 7, f 75 4, f 79 4, f 83 1 = 1, f 84 1 = 1, f 85 16, f 101 16⟩

/-- A link record breaks R500. More than 64 slots is a check of its own. -/
def linkBad (nodes : List Nat) (r : Nat) : Bool :=
  let k := linkOf r
  recField r 117 11 ≠ 0 || recField r 36 12 ≠ 0 || nodes.length ≤ k.src || nodes.length ≤ k.dst
    || recField (nodes.getD k.src 0) 68 4 ≤ k.fout || recField (nodes.getD k.dst 0) 64 4 ≤ k.tin
    || (!k.fv && recField r 75 42 ≠ 0)

/-- A port record breaks R500, given the records before it. -/
def portBad (ncore : Nat) (before : List Nat) (r : Nat) : Bool :=
  let place := fun (x : Nat) => (recField x 16 9, recField x 0 3)
  recField r 80 48 ≠ 0 || recField r 34 14 ≠ 0 || recField r 25 7 ≠ 0 || recField r 15 1 ≠ 0 || recField r 3 2 = 3
    || ncore ≤ recField r 16 9 || before.any (fun y => place y = place r)

/-- A window record breaks R500. -/
def windowBad (ncore r : Nat) : Bool := recField r 22 6 ≠ 0 || recField r 2 1 ≠ 0 || ncore ≤ recField r 8 9

/-- A circuit record breaks R501 or R514: its core is one of the region's. -/
def circuitBad (ncore r : Nat) : Bool :=
  recField r 96 32 ≠ 0 || recField r 32 7 ≠ 0 || recField r 21 3 ≠ 0 || recField r 2 4 ≠ 0 || recField r 0 2 = 3
    || ncore ≤ recField r 39 9 || (recField r 0 2 ≠ 2 && recField r 48 48 ≠ 0)

/-- A debug record breaks R501 or R523. -/
def debugBad (ncore r : Nat) : Bool :=
  recField r 96 32 ≠ 0 || recField r 48 16 ≠ 0 || recField r 41 3 ≠ 0 || recField r 24 8 ≠ 0 || ncore ≤ recField r 32 9

/-- The first record of a section that a test, given the records before it, finds bad. -/
def firstBadRecord (bad : List Nat → Nat → Bool) (before : List Nat) : List (Nat × Nat) → Option LoadFault
  | [] => none
  | x :: t => if bad before x.2 then some (badImage x.1) else firstBadRecord bad (x.2 :: before) t

/-- Every placed core has exactly one lead port record (R500). -/
def leadsOk (ncore : Nat) (ports : List Nat) : Bool :=
  (List.range ncore).all (fun c => (ports.filter (fun r => recField r 16 9 = c && recField r 14 1 = 1)).length = 1)

/-- The record sections, in the order of their types; the region has so many cores. -/
def checkRecords (b : List Byte) (l : List Section) (cores : Nat) : Except LoadFault Unit :=
  let ncore := imgNat b 12 2
  let recs := sectionRecords b l
  let nodes := (recs 2).map (·.2)
  let needsBad := fun (_ : List Nat) (r : Nat) => recField r 192 64 ≠ 0 || recField r 32 32 ≠ 0 || recField r 0 16 ≠ ncore
  firstBad [firstBadRecord needsBad [] (recs 1), firstBadRecord (nodeBad ncore) [] (recs 2),
    firstBadRecord (fun _ r => linkBad nodes r) [] (recs 3), firstBadRecord (portBad ncore) [] (recs 4),
    if leadsOk ncore ((recs 4).map (·.2)) then none else some (badImage (((sectionOf l 4).map (·.entry)).getD 0)),
    firstBadRecord (fun _ r => windowBad ncore r) [] (recs 5), firstBadRecord (fun _ r => circuitBad (max ncore cores) r) [] (recs 8),
    firstBadRecord (fun _ r => debugBad ncore r) [] (recs 9)] id

/-! ## Budgets (R38, R363) -/

/-- The accumulators and weight slots that the image's MX records reserve, on every core of the region (R339, R363). -/
def reservedBy (nodes : List Nat) : BitVec 4 × BitVec 32 :=
  nodes.foldl (fun a r => if recField r 28 4 = 0 then
    (a.1 ||| BitVec.ofNat 4 (recField r 72 4), a.2 ||| BitVec.ofNat 32 (recField r 76 32)) else a) (0, 0)

/-- The cores of a region, BASE to BASE + CORES − 1; a number of 512 or more is no core of the module. -/
def regionCores (base cores : Nat) : List Nat := (List.range (min cores (512 - base))).map (fun i => base + i)

/-- Another armed region reserves something of the image on one of the region's cores. -/
def reservedElsewhere (s : State) (rcb base cores : Nat) (nodes : List Nat) : Bool :=
  let m := reservedBy nodes
  (regionCores base cores).any (fun n =>
    (s.coreOf n).resv.any (fun r => r.rcb ≠ rcb && (r.accs &&& m.1 ≠ 0 || r.slots &&& m.2 ≠ 0)))

/-- The BUDGET check: the resource that the region does not grant. A core number of 512 or more is no core of the module. -/
def budgetFault (s : State) (r : Rcb) (rcb ncore needs : Nat) (nodes : List Nat) : Option LoadFault :=
  if r.cores < ncore || 512 < r.base + ncore then some ⟨3, 0, 0⟩
  else if r.spad < recField needs 64 64 then some ⟨3, 1, 0⟩
  else if r.bars < recField needs 16 16 then some ⟨3, 2, 0⟩
  else if r.tape < recField needs 128 64 then some ⟨3, 3, 0⟩
  else if reservedElsewhere s rcb r.base r.cores nodes then some ⟨3, 4, 0⟩
  else none

/-! ## Links (R36 to R39) -/

/-- FORMAT_AGREE and SCALE_COUNT. -/
def formatFault (links : List Link) : Option LoadFault :=
  match (numbered links).find? (fun e => e.2.fv && e.2.pfmt ≠ e.2.cfmt && !e.2.conv) with
  | some e => some ⟨4, e.1, 0⟩
  | none => (links.find? (fun k => k.fv && (fmtBfp k.pfmt || fmtBfp k.cfmt) && k.scnt ≠ (k.k + 31) / 32)).map (fun k => ⟨5, k.edge, 0⟩)

/-- The core of a link's consumer. -/
def Link.core (nodes : List Nat) (k : Link) : Nat := recField (nodes.getD k.dst 0) 16 9

/-- SLOT_COUNT: a link above 64 slots, or a core whose links total more than 512. -/
def slotFault (nodes : List Nat) (links : List Link) : Option LoadFault :=
  let n := numbered links
  match n.find? (fun e => decide (64 < e.2.slots)) with
  | some e => some ⟨6, e.1, 0⟩
  | none => (n.find? (fun e => decide (512 < (links.filter (fun k => k.core nodes = e.2.core nodes)).foldl (fun a k => a + k.slots) 0))).map
      (fun e => ⟨6, e.1, 0⟩)

/-- The nodes that a set of nodes reaches over links, n rounds on. -/
def reachRounds (n : Nat) (links : List Link) (l : List Nat) : List Nat :=
  match n with
  | 0 => l
  | k + 1 => reachRounds k links ((l ++ (links.filter (fun e => l.contains e.src)).map (·.dst)).eraseDups)

/-- ZERO_SLOT_LOOP: the lowest link on a cycle of 0-slot links. -/
def loopFault (links : List Link) : Option LoadFault :=
  let zero := links.filter (fun k => k.slots = 0)
  ((numbered links).find? (fun e => e.2.slots = 0 && (reachRounds zero.length zero [e.2.dst]).contains e.2.src)).map (fun e => ⟨7, e.1, 0⟩)

/-- What the edges taken so far fix of a node's firing count: the component it belongs to, and its count there as a fraction. -/
structure Rate where
  comp : Nat
  num : Nat
  den : Nat
  deriving DecidableEq, Repr

/-- The balance f(producer) × produced = f(consumer) × consumed added to what is fixed, or none when it cannot hold. -/
def addBalance (nodes : List Nat) (m : List Rate) (k : Link) : Option (List Rate) :=
  let p := m.getD k.src ⟨0, 1, 1⟩
  let c := m.getD k.dst ⟨0, 1, 1⟩
  let out := nodeOut (nodes.getD k.src 0) k.fout
  let inn := nodeIn (nodes.getD k.dst 0) k.tin
  let n := p.num * out * c.den
  let d := p.den * inn * c.num
  if p.comp = c.comp then (if n = d then some m else none)
  else
    some (m.map (fun r => if r.comp = c.comp then
      let g := Nat.gcd (r.num * n) (r.den * d)
      ⟨p.comp, r.num * n / g, r.den * d / g⟩ else r))

/-- The links in ascending edge number, then link number. -/
def byEdge (links : List Link) : List Link := links.mergeSort (fun a b => decide (a.edge ≤ b.edge))

/-- The first edge on which no positive whole firing counts balance. -/
def rateFault (nodes : List Nat) (m : List Rate) : List Link → Option LoadFault
  | [] => none
  | k :: t =>
    match addBalance nodes m k with
    | none => some ⟨8, k.edge, 0⟩
    | some m1 => rateFault nodes m1 t

/-- The most beats that a node of a link moves over it per firing. -/
def Link.beats (nodes : List Nat) (k : Link) : Nat := max (nodeOut (nodes.getD k.src 0) k.fout) (nodeIn (nodes.getD k.dst 0) k.tin)

/-- The cycles that close at the first link's producer, as the links of a path grow at most n longer; a path meets no node twice. -/
def cyclesFrom (n : Nat) (links : List Link) (path : List Link) : List (List Link) :=
  match n, path with
  | _, [] => []
  | 0, _ => []
  | f + 1, k :: _ =>
    let first := (path.getLast?.map (·.src)).getD 0
    if k.dst = first then [path]
    else (links.filter (fun e => e.src = k.dst && !path.any (fun x => x.src = e.src))).flatMap (fun e => cyclesFrom f links (e :: path))

/-- The lowest edge of a cycle that holds fewer slots than R39 requires. -/
def cycleFault (nodes : List Nat) (links : List Link) : Option LoadFault :=
  let short := (links.flatMap (fun k => cyclesFrom (links.length + 1) links [k])).filter (fun c =>
    decide (c.foldl (fun a k => a + k.slots) 0 < c.foldl (fun a k => max a (k.beats nodes)) 0))
  ((short.map (fun c => c.foldl (fun a k => min a k.edge) 65535)).foldl (fun a e => some (match a with | some x => min x e | none => e)) (none : Option Nat)).map
    (fun e => ⟨8, e, 0⟩)

/-- Checks 0x04 to 0x08 in their order. -/
def linkFault (nodes : List Nat) (links : List Link) : Option LoadFault :=
  (formatFault links).orElse (fun _ => (slotFault nodes links).orElse (fun _ => (loopFault links).orElse (fun _ =>
    (rateFault nodes ((List.range nodes.length).map (fun i => ⟨i, 1, 1⟩)) (byEdge links)).orElse (fun _ => cycleFault nodes links))))

/-! ## The grammar (R226 to R232, R501) -/

/-- A production: its left-hand side, its LEN field and its right-hand side. -/
structure Production where
  lhs : Nat
  len : Nat
  rhs : List Nat
  deriving DecidableEq, Repr

/-- A grammar as the image carries it. -/
structure Grammar where
  start : Nat
  nnt : Nat
  nprod : Nat
  nts : List Word
  acts : List Nat
  prods : List Production
  deriving DecidableEq, Repr

/-- A production entry (R229). -/
def prodOf (r : Nat) : Production :=
  let n := recField r 12 4
  ⟨recField r 0 10, n, (List.range (min n 8)).map (fun i => recField r (16 + 10 * i) 10)⟩

/-- Where the productions begin in a GRAMMAR section. -/
def prodsAt (nnt : Nat) : Nat := (8 + 8 * nnt + 3584 + 15) / 16 * 16

/-- The grammar of a section, checked against the layouts of R227 to R230 and R501. -/
def readGrammar (b : List Byte) (x : Section) : Except LoadFault Grammar :=
  let h := imgNat b x.off 8
  let nnt := recField h 16 7
  let nprod := recField h 32 10
  let at' := x.off + prodsAt nnt
  let nts := (List.range nnt).map (fun i => imgNat b (x.off + 8 + 8 * i) 8)
  let acts := (List.range 896).map (fun i => imgNat b (x.off + 8 + 8 * nnt + 4 * i) 4)
  let prods := (List.range nprod).map (fun i => imgNat b (at' + 16 * i) 16)
  if x.size < 8 || x.size < prodsAt nnt + 16 * nprod then .error (badImage x.entry)
  else if recField h 42 22 ≠ 0 || recField h 23 9 ≠ 0 || recField h 10 6 ≠ 0 then .error (badImage x.off)
  else
    match (numbered nts).find? (fun e => recField e.2 32 4 ≠ 0 || recField e.2 0 32 ≠ 0) with
    | some e => .error (badImage (x.off + 8 + 8 * e.1))
    | none =>
      match (numbered acts).find? (fun e => e.2 % 4 ≠ 0 && e.2 ≠ 0xFFFFFFFF) with
      | some e => .error (badImage (x.off + 8 + 8 * nnt + 4 * e.1))
      | none =>
        match (numbered prods).find? (fun e => recField e.2 96 32 ≠ 0 || recField e.2 10 2 ≠ 0) with
        | some e => .error (badImage (at' + 16 * e.1))
        | none => .ok ⟨recField h 0 10, nnt, nprod, nts.map (BitVec.ofNat 64), acts, prods.map prodOf⟩

/-- A symbol is a declared nonterminal. -/
def Grammar.isNt (g : Grammar) (y : Nat) : Bool := 16 ≤ y && decide (y < 16 + g.nnt) && decide (y < 128)

/-- An action symbol without a routine. -/
def Grammar.noRoutine (g : Grammar) (y : Nat) : Bool := g.acts.getD (y - 128) 0xFFFFFFFF = 0xFFFFFFFF

/-- A right-hand-side symbol that R231 rejects. -/
def Grammar.badSym (g : Grammar) (y : Nat) : Bool :=
  (5 ≤ y && y ≤ 7) || (16 ≤ y && decide (y < 128) && !g.isNt y) || (128 ≤ y && g.noRoutine y)

/-- A production is at fault (R231). -/
def Grammar.badProd (g : Grammar) (i : Nat) (p : Production) : Bool :=
  let starts := decide (p.lhs = g.start)
  512 ≤ i || 8 < p.len || p.rhs.any g.badSym || !g.isNt p.lhs
    || (starts && p.rhs.getLast? ≠ some 4) || (if starts then p.rhs.dropLast else p.rhs).contains 4

/-- A nonterminal's attributes are at fault (R231). -/
def Grammar.badNt (g : Grammar) (e : Word) : Bool :=
  let sync := bits e 53 38
  if ntRec e then sync = 0 || sync / 32 % 8 ≠ 0 || (ntErr e ≠ 0 && (ntErr e < 128 || g.noRoutine (ntErr e)))
  else sync ≠ 0 || ntErr e ≠ 0

/-- The size in bytes of a nonterminal's parse table. -/
def tableSize (e : Word) : Nat := if ntLa2 e then 512 else 32

/-- GRAMMAR_SIZE (R231). -/
def Grammar.sizeFault (g : Grammar) : Option LoadFault :=
  match (numbered g.prods).find? (fun e => g.badProd e.1 e.2) with
  | some e => some ⟨9, e.1, 0⟩
  | none =>
    if 112 < g.nnt || !g.isNt g.start || (List.range g.nnt).any (fun i => !g.prods.any (fun p => p.lhs = 16 + i)) || g.nts.any g.badNt
        || 0x10000 < 0x31C0 + (g.nts.map tableSize).sum then some ⟨9, 0xFFFF, 0⟩
    else none

/-- Two strings of marks joined, cut to two; a string that ends in EOT was padded with EOT. -/
def joinLook (a b : List (List Nat)) : List (List Nat) := (a.flatMap (fun x => b.map (fun y => (x ++ y).take 2))).eraseDups

/-- The look-ahead strings of a symbol, given those of the nonterminals. EOT is padded with EOT; an action symbol derives the empty string (R232). -/
def symLook (f : List (List (List Nat))) (y : Nat) : List (List Nat) :=
  if y = 4 then [[4, 4]] else if y < 16 then [[y]] else if y < 128 then f.getD (y - 16) [] else [[]]

/-- The look-ahead strings of a string of symbols. -/
def strLook (f : List (List (List Nat))) (l : List Nat) : List (List Nat) := l.foldr (fun y a => joinLook (symLook f y) a) [[]]

/-- A map over the nonterminals repeated until nothing is added, n rounds at most. -/
def fixRounds (n : Nat) (step : List (List (List Nat)) → List (List (List Nat))) (f : List (List (List Nat))) : List (List (List Nat)) :=
  match n with
  | 0 => f
  | k + 1 =>
    let g := step f
    if (g.map (·.length)).sum = (f.map (·.length)).sum then f else fixRounds k step g

/-- FIRST of every nonterminal, as strings of at most two marks. -/
def Grammar.first (g : Grammar) : List (List (List Nat)) :=
  fixRounds (184 * g.nnt) (fun f => (List.range g.nnt).map (fun i =>
    ((g.prods.filter (fun p => p.lhs = 16 + i)).flatMap (fun p => strLook f p.rhs)).eraseDups)) (List.replicate g.nnt [])

/-- What stands behind each occurrence of a symbol in a string. -/
def behind (y : Nat) : List Nat → List (List Nat)
  | [] => []
  | z :: t => if z = y then t :: behind y t else behind y t

/-- FOLLOW of every nonterminal. -/
def Grammar.follow (g : Grammar) (fst : List (List (List Nat))) : List (List (List Nat)) :=
  fixRounds (184 * g.nnt) (fun f => (List.range g.nnt).map (fun i =>
    ((if 16 + i = g.start then [[4, 4]] else []) ++
      g.prods.flatMap (fun (p : Production) => (behind (16 + i) p.rhs).flatMap (fun t => joinLook (strLook fst t) (symLook f p.lhs)))).eraseDups))
    (List.replicate g.nnt [])

/-- The productions of each nonterminal with the strings that claim its entries. -/
def Grammar.claims (g : Grammar) : List (List (Nat × List (List Nat))) :=
  let fst := g.first
  let fol := g.follow fst
  (List.range g.nnt).map (fun i =>
    let depth := if ntLa2 (g.nts.getD i 0) then 2 else 1
    (numbered g.prods).filterMap (fun e => if e.2.lhs = 16 + i then
      some (e.1, (joinLook (strLook fst e.2.rhs) (fol.getD i [])).map (fun w => w.take depth)) else none))

/-- The look-ahead strings of a depth, in ascending offset. -/
def lookStrings (la2 : Bool) : List (List Nat) :=
  if la2 then (List.range 16).flatMap (fun a => (List.range 16).map (fun b => [a, b])) else (List.range 16).map (fun a => [a])

/-- The productions that claim an entry. -/
def claimants (l : List (Nat × List (List Nat))) (w : List Nat) : List Nat := (l.filter (fun e => e.2.contains w)).map (·.1)

/-- GRAMMAR_CONFLICT (R232). -/
def Grammar.conflictFault (g : Grammar) (cl : List (List (Nat × List (List Nat)))) : Option LoadFault :=
  let fst := g.first
  (List.range g.nnt).findSome? (fun i =>
    if (fst.getD i []).isEmpty then some ⟨0xA, 16 + i, 0x5F⟩
    else
      ((lookStrings (ntLa2 (g.nts.getD i 0))).find? (fun w => decide (1 < (claimants (cl.getD i []) w).length))).map
        (fun w => ⟨0xA, 16 + i, w.getD 0 0 * 16 + w.getD 1 0xF⟩))

/-- The offset of a nonterminal's parse table: packed from 0x31C0 on (R226). -/
def Grammar.table (g : Grammar) (i : Nat) : Nat := 0x31C0 + ((g.nts.take i).map tableSize).sum

/-- The parse table of a nonterminal. -/
def Grammar.tableBytes (g : Grammar) (cl : List (List (Nat × List (List Nat)))) (i : Nat) : List Byte :=
  (lookStrings (ntLa2 (g.nts.getD i 0))).flatMap (fun w => match claimants (cl.getD i []) w with
    | p :: _ => leBytes 2 (0x8000 + p)
    | [] => leBytes 2 0)

/-- The bytes of the grammar store (R226). -/
def Grammar.store (g : Grammar) (b : List Byte) (x : Section) (cl : List (List (Nat × List (List Nat)))) : SMap Byte :=
  let head := leBytes 8 (imgNat b x.off 8)
  let nts := (numbered g.nts).flatMap (fun e => leBytes 8 (e.2.toNat + g.table e.1 * 65536))
  let acts := g.acts.flatMap (leBytes 4)
  let prods := (b.drop (x.off + prodsAt g.nnt)).take (16 * g.nprod)
  let all := head ++ List.replicate 56 0 ++ padTo 896 0 nts ++ acts ++ padTo 8192 0 prods ++ (List.range g.nnt).flatMap (g.tableBytes cl)
  (numbered all).filter (fun e => e.2 ≠ 0)

/-! ## PINIT (R38, R496) -/

/-- An image that passed the checks, with what loading it writes. -/
structure Loaded where
  image : Image
  gram : SMap Byte
  actBase : Word
  cores : Nat

/-- The checks of R38 in order for the region of an RCB, whose effective fields are r. -/
def checkImage (s : State) (r : Rcb) (rcb : Nat) (va : Word) : Except LoadFault Loaded :=
  if r.unread then .error (badImage 0)
  else
    match readImage s r.asid va.toNat with
    | .error e => .error e
    | .ok b =>
      match checkSections b with
      | .error e => .error e
      | .ok l =>
        match checkRecords b l r.cores, sectionOf l 6, sectionOf l 7 with
        | .error e, _, _ => .error e
        | .ok _, some gs, some as' =>
          match readGrammar b gs with
          | .error e => .error e
          | .ok g =>
            let recs := fun t => (sectionRecords b l t).map (·.2)
            let ncore := imgNat b 12 2
            let needs := (recs 1).headD 0
            let nodes := recs 2
            let busy := (s.region rcb).any (fun x => x.state = 2 || x.state = 3)
            let cl := g.claims
            let fault := (if busy then some ⟨2, 0, 0⟩ else none).orElse (fun _ => (budgetFault s r rcb ncore needs nodes).orElse (fun _ =>
              (linkFault nodes ((recs 3).map linkOf)).orElse (fun _ => g.sizeFault.orElse (fun _ => g.conflictFault cl))))
            match fault with
            | some e => .error e
            | none => .ok
                { image := { va := va, asid := r.asid, hash := BitVec.ofNat 64 (imgNat b 16 8), ncore := ncore, base := r.base, needs := BitVec.ofNat 256 needs, nodes := nodes.map (BitVec.ofNat 256), links := (recs 3).map (BitVec.ofNat 128), ports := (recs 4).map (BitVec.ofNat 128), wins := (recs 5).map (BitVec.ofNat 128), circuits := (recs 8).map (fun x => BitVec.ofNat 128 (x + r.base * 2 ^ 39)), debug := (recs 9).map (fun x => BitVec.ofNat 128 (x + r.base * 2 ^ 32)), actOff := as'.off }
                  gram := g.store b gs cl
                  actBase := va + BitVec.ofNat 64 as'.off
                  cores := r.cores }
        | .ok _, _, _ => .error (badImage 0)

/-- What an image writes into every core of its region: the circuit table, and its reservations (R363, R501). -/
def Core.grant (c : Core) (rcb : Nat) (x : Loaded) : Core :=
  let m := reservedBy (x.image.nodes.map BitVec.toNat)
  { c with
    circuits := tableOf noCircuit x.image.circuits
    resv := c.resv.filter (fun r => decide (r.rcb ≠ rcb)) ++ (if m = (0, 0) then [] else [⟨rcb, m.1, m.2, none⟩]) }

/-- What an image writes into a core that it places (R496, R501). -/
def Core.configure (c : Core) (core rcb : Nat) (x : Loaded) : Core :=
  { c with
    gram := x.gram
    actBase := x.actBase
    image := some rcb
    debugTable := tableOf 0 x.image.debug
    ports := (List.range 8).foldl (fun p i =>
      let q := SMap.get Port.reset p i
      let w := (x.image.windowsOf core i).foldl (fun a e => SMap.set 0 a e.1 e.2) q.wins
      SMap.set Port.reset p i { q with wins := w, circLost := false }) c.ports }

/-- The image would write the windows of a port that an invocation uses (R163). -/
def Loaded.waits (x : Loaded) (s : State) : Bool :=
  (List.range x.image.ncore).any (fun i =>
    (List.range 8).any (fun p => !(x.image.windowsOf (x.image.base + i) p).isEmpty && !(s.coreOf (x.image.base + i)).quiescentPort p))

/-- The number of a placed node among the snapshot sets of its core (R499, R513). -/
def snapNode (r : Nat) : Nat :=
  match recField r 28 4 with
  | 0 => 8
  | 1 => 9
  | 2 => 10
  | 3 => recField r 32 3
  | _ => 11 + recField r 32 3

/-- An interval starts at every node that an image places on a core (R524). -/
def Core.startIntervals (c : Core) (off : Nat) (nodes : List Nat) : Core :=
  ((nodes.filter (fun r => recField r 16 9 = off)).map snapNode).eraseDups.foldl Core.startInterval c

/-- The circuits of the core looked at are rebuilt (R169). -/
def State.rebuildAll (s : State) : State :=
  s.core.circuits.foldl (fun (a : State) e => match s.core.circEnd s.coreId e.1 with
    | some x => if x.port < 8 then a.rebuildCirc x.port else a
    | none => a) s

/-- A region takes an image: its cores, its RCB and its state (R496). -/
def State.loadImage (s : State) (asid : BitVec 9) (rcbVa : Word) (rcb : Nat) (x : Loaded) : State :=
  let all := regionCores x.image.base x.cores
  let t := (List.range x.image.ncore).foldl (fun (a : State) i =>
    let n := x.image.base + i
    a.putCoreAt n (((a.coreOf n).configure n rcb x).startIntervals i (x.image.nodes.map BitVec.toNat))) s
  let t0 := all.foldl (fun (a : State) n => a.putCoreAt n ((a.coreOf n).grant rcb x)) t
  let t1 := all.foldl (fun (a : State) n => a.withCore n State.rebuildAll) t0
  let r : Region := ⟨rcbVa, asid, 1, some x.image, 0, none⟩
  (((t1.putRegion rcb r).writeRcb r 0x58 x.image.va).writeRcb r 0x60 x.image.hash).writeRcb r 0x38 1

/-- PINIT of an image into the region whose RCB lies at a DPA: the load report, and LREP written. -/
def State.pinit (s : State) (asid : BitVec 9) (rcbVa : Word) (rcb : Nat) (va : Word) : Word × State :=
  let r := s.rcb asid rcbVa.toNat
  let a := match checkImage s r rcb va with
    | .error e => (loadReport e, s)
    | .ok x => (loadOk, s.loadImage asid rcbVa rcb x)
  (a.1, a.2.writeRcb ⟨rcbVa, asid, 0, none, 0, none⟩ 0x68 a.1)

/-- PINIT of an image waits until the ports whose windows it writes are quiescent (R163). -/
def State.pinitWaits (s : State) (asid : BitVec 9) (rcbVa rcb : Nat) (va : Word) : Bool :=
  match checkImage s (s.rcb asid rcbVa) rcb va with
  | .ok x => x.waits s
  | .error _ => false

/-- PINIT (R496); its completion is a release at .dev. -/
def execPinit (o : Ops) (s : State) : Host.Outcome State Fault Refusal :=
  runK o (fun t =>
    let a := t.getS o.a
    if a.toNat % 256 ≠ 0 then scalarTrap (alignFlt a.toNat) true t
    else
      match eaFlt a 256 with
      | some f => scalarTrap f true t
      | none =>
        match accessParts t t.curAsid true .write a.toNat 256 with
        | .error f => scalarTrap f true t
        | .ok (ps, t1) =>
          let rcb := (ps.map (fun p => p.dpa)).headD 0
          let r := t1.pinit t1.curAsid a rcb (t1.getS o.b)
          if t1.pinitWaits t1.curAsid a.toNat rcb (t1.getS o.b) then .block .port t1
          else .next ((r.2.release .k 1 (hubKey :: ps.map (fun p => (p.dpa, p.len)))).setS o.d r.1)) s

end Sys2Proof.Machine
end

