-- ==== Sys2Proof/Machine/Dispatching.lean ====
section
/-! DEFINITION. Queues, command packets, launches, bind records, retirement and completion (R16 to R22, R363, R455, R460, R474 to R495). -/

namespace Sys2Proof.Machine

/-! ## Queues (R477, R478) -/

/-- A queue. -/
def State.queue (s : State) (q : Nat) : Queue := SMap.get Queue.reset s.hub.queues q

/-- The state with a queue changed. -/
def State.putQueue (s : State) (q : Nat) (x : Queue) : State :=
  { s with hub := { s.hub with queues := SMap.set Queue.reset s.hub.queues q x } }

/-- A launch of the launch table. -/
def State.launch (s : State) (i : Nat) : Option Launch := SMap.get none s.hub.launches i

/-- The state with a launch changed. -/
def State.putLaunch (s : State) (i : Nat) (l : Option Launch) : State :=
  { s with hub := { s.hub with launches := SMap.set none s.hub.launches i (l.map (fun m => m.at s.hub.cycle)) } }

/-- The words of a queue's ring. -/
def Queue.size (x : Queue) : Nat := 2 ^ x.log2.toNat

/-- The VA of ring word n. -/
def Queue.wordVa (x : Queue) (n : Nat) : Nat := x.base.toNat * 4096 + 4 * (n % x.size)

/-- LOG2 is one of 10 to 24. -/
def Queue.sized (x : Queue) : Bool := 10 ≤ x.log2.toNat && x.log2.toNat ≤ 24

/-- A queue whose parsing has stopped (R477). -/
def Queue.off (x : Queue) : Queue := { x with state := 0, ind := [], hold := none, words := [], stop := false }

/-- The buffers that are not done, innermost first. -/
def Queue.buffers (x : Queue) : List (Nat × Nat) := x.ind.dropWhile (fun e => e.2 = 0)

/-- A packet of the ring is in progress: it holds its queue, or the buffer of an INDIRECT has words left (R477). -/
def Queue.busy (x : Queue) : Bool := x.hold.isSome || !x.buffers.isEmpty

/-- The words that the front end can read next. -/
def Queue.avail (x : Queue) : Nat :=
  match x.buffers with
  | e :: _ => e.2
  | [] => (x.wptr - x.rptr).toNat

/-- The VA of the i-th word ahead. -/
def Queue.aheadVa (x : Queue) (i : Nat) : Nat :=
  match x.buffers with
  | e :: _ => e.1 + 4 * i
  | [] => x.wordVa (x.rptr.toNat + i)

/-- The i-th word ahead, read under the queue's ASID. -/
def State.wordAhead (s : State) (q i : Nat) : Except Flt Nat := let x := s.queue q; s.hubNat x.asid (x.aheadVa i) 4

/-- The word offset of the packet in progress within the outermost ring. -/
def Queue.errAt (x : Queue) : Nat := (if x.buffers.isEmpty then x.rptr.toNat else (x.rptr - 4).toNat) % x.size

/-- n words passed. -/
def Queue.advance (x : Queue) (n : Nat) : Queue :=
  match x.buffers with
  | e :: t => { x with ind := (e.1 + 4 * n, e.2 - n) :: t }
  | [] => { x with rptr := x.rptr + BitVec.ofNat 32 n, ind := [] }

/-- A reason recorded in ERR, and the queue's vector raised. -/
def State.queueReason (s : State) (q off reason : Nat) : State :=
  let x := s.queue q
  (s.putQueue q { x with err := BitVec.ofNat 32 (off % 2 ^ 24 * 256 + reason) }).raiseMsix (q / 16) x.msix.toNat

/-- A packet error (R481). -/
def State.queueError (s : State) (q reason : Nat) : State :=
  let x := s.queue q
  (s.queueReason q x.errAt reason).putQueue q { x with err := BitVec.ofNat 32 (x.errAt % 2 ^ 24 * 256 + reason), state := 2, ind := [], hold := none, words := [], stop := false }

/-- A doorbell (R478); those of a LOST queue and of a disabled function are ignored. -/
def State.doorbell (s : State) (q : Nat) (w : BitVec 32) : State :=
  let x := s.queue q
  if x.state = 3 || !bit (SMap.get 0 s.hub.vfs (q / 16)) 31 then s else s.putQueue q { x with wptr := w }

/-- DOORBELL_WRITE (R478). -/
def execDoorbellWrite (q : BitVec 12) (wptr : BitVec 32) (s : State) : Host.Outcome State Fault Refusal := .next (s.doorbell q.toNat wptr)

/-- A PF write of STATE (R477). A write of 0 while a packet is in progress leaves STATE at RUNNING until that packet has ended (log entry 59). -/
def State.writeQueueState (s : State) (q : Nat) (v : BitVec 2) : State :=
  let x := s.queue q
  if x.state = 3 || v = 2 || v = 3 then s
  else if v = 0 then s.putQueue q (if x.state = 1 && x.busy then { x with stop := true } else x.off)
  else if x.state = 1 then s
  else s.putQueue q { x.off with err := 0, state := if x.sized then 1 else 0 }

/-- QUEUE_STATE_WRITE (R477). -/
def execQueueStateWrite (q : BitVec 12) (value : BitVec 2) (s : State) : Host.Outcome State Fault Refusal := .next (s.writeQueueState q.toNat value)

/-- QPOST (R495): a release at .sys. -/
def execQpost (o : Ops) (s : State) : Host.Outcome State Fault Refusal :=
  runK o (fun t =>
    let q := (t.getS o.a).toNat
    let b := t.getS o.b
    let n := o.uimm % 65536
    let x := t.queue q
    if 4096 ≤ q then .next (t.setS o.d 2)
    else if x.state ≠ 1 then .next (t.setS o.d 3)
    else if n = 0 || b.toNat % 4 ≠ 0 then .next (t.setS o.d 4)
    else if x.size < (x.wptr - x.rptr).toNat + 4 then .next (t.setS o.d 1)
    else
      let words := [0x05030000, b.toNat % 2 ^ 32, b.toNat / 2 ^ 32, n]
      let put := fun (a : Except Flt State) (e : Nat × Nat) => match a with
        | .error f => Except.error f
        | .ok u => u.hubWrite x.asid (x.wordVa (x.wptr.toNat + e.1)) (leBytes 4 e.2)
      match (numbered words).foldl put (Except.ok t) with
      | .error f => scalarTrap f true t
      | .ok u => .next (((u.putQueue q { x with wptr := x.wptr + 4 }).release .k 0 [hubKey]).setS o.d 0)) s

/-! ## Packets (R480, R481) -/

/-- A packet: its TYPE, FLAGS and body words. -/
structure Packet where
  type : Nat
  flags : Nat
  body : List Nat
  deriving DecidableEq, Repr

/-- Body word i. -/
def Packet.word (p : Packet) (i : Nat) : Nat := p.body.getD i 0

/-- The 64-bit value in body words i and i + 1. -/
def Packet.wide (p : Packet) (i : Nat) : Nat := p.word i + p.word (i + 1) * 2 ^ 32

/-- A packet's words as they were read, and the packet that words give (R478). -/
def Packet.words (p : Packet) : List Nat := (p.type * 2 ^ 24 + p.body.length * 2 ^ 16 + p.flags) :: p.body
def packetOf : List Nat → Option Packet
  | [] => none
  | h :: t => some ⟨h / 2 ^ 24, h % 65536, t⟩

/-- The COUNT that a type takes; none for NOP, whose COUNT is free. -/
def packetCount (t : Nat) : Option Nat :=
  match t with
  | 1 => some 7
  | 2 => some 3
  | 3 => some 4
  | 4 => some 4
  | 5 => some 3
  | 6 => some 6
  | 7 => some 0
  | 8 => some 4
  | 9 => some 6
  | _ => none

/-- What the front end finds next in a queue: nothing complete, an error with its reason, or a packet. -/
inductive Parsed where
  | wait
  | error (reason : Nat)
  | packet (p : Packet)

/-- n words ahead from the i-th on. -/
def State.wordsAhead (n : Nat) (s : State) (q i : Nat) : Except Flt (List Nat) :=
  match n with
  | 0 => .ok []
  | k + 1 =>
    match s.wordAhead q i with
    | .error f => .error f
    | .ok w => (State.wordsAhead k s q (i + 1)).map (fun l => w :: l)

/-- The next packet of a queue. -/
def State.parsePacket (s : State) (q : Nat) : Parsed :=
  let x := s.queue q
  if x.avail = 0 then .wait
  else
    match s.wordAhead q 0 with
    | .error _ => .error 6
    | .ok h =>
      let t := h / 2 ^ 24
      let n := h / 2 ^ 16 % 256
      let fl := h % 65536
      if 9 < t then .error 1
      else if (packetCount t).any (fun k => k ≠ n) then .error 2
      else if (if t = 1 || t = 3 then fl / 2 else fl) ≠ 0 then .error 3
      else if x.avail < 1 + n then (if x.buffers.isEmpty then .wait else .error 5)
      else
        match State.wordsAhead n s q 1 with
        | .error _ => .error 6
        | .ok l => .packet ⟨t, fl, l⟩

/-- A queue has no launch in flight (R481). -/
def State.fenced (s : State) (q : Nat) : Bool := !s.hub.launches.any (fun e => e.2.any (fun l => decide (l.q = q)))

/-- A free entry of the launch table. -/
def State.freeLaunch (s : State) : Option Nat := (List.range 4096).find? (fun i => (s.launch i).isNone)

/-- What is wrong with a packet's body: the reason (R481, R491). -/
def Packet.breach (p : Packet) (x : Queue) : Option Nat :=
  match p.type with
  | 1 => if p.wide 0 % 256 ≠ 0 || p.wide 3 % 4 ≠ 0 || p.wide 5 % 8 ≠ 0 then some 7 else none
  | 2 =>
    let t := p.word 0 % 64
    let n := p.word 0 / 256 % 128
    if p.word 0 / 64 % 4 ≠ 0 || p.word 0 / 2 ^ 15 ≠ 0 then some 3
    else if n = 0 || 64 < n || 64 < t + n then some 10
    else if p.wide 1 % 8 ≠ 0 then some 7
    else none
  | 3 | 4 => if p.wide 0 % 8 ≠ 0 then some 7 else none
  | 5 =>
    if p.wide 0 % 4 ≠ 0 then some 7
    else if p.word 2 = 0 || 2 ^ 24 < p.word 2 then some 10
    else if 4 ≤ x.buffers.length then some 4
    else none
  | 6 => if p.wide 0 % 256 ≠ 0 || p.wide 4 % 8 ≠ 0 then some 7 else none
  | _ => none

/-- A PINIT packet's image would change the windows of a port in use: the packet waits for the port's quiescent point (R163). -/
def State.pinitHeld (s : State) (asid : BitVec 9) (p : Packet) : Bool :=
  (s.hubDpa asid (p.wide 0)).any (fun rcb => s.pinitWaits asid (p.wide 0) rcb (BitVec.ofNat 64 (p.wide 2)))

/-- The condition that holds the queue at a packet is met: FENCE, SIGNAL and PINIT wait for the queue's launches, PINIT for the ports that it changes, LAUNCH for room in the table, WAIT for its word. A word that cannot be read is found when the packet acts. -/
def State.packetReady (s : State) (q : Nat) (p : Packet) : Bool :=
  match p.type with
  | 1 => s.freeLaunch.isSome
  | 3 | 7 => s.fenced q
  | 6 => s.fenced q && !s.pinitHeld (s.queue q).asid p
  | 4 =>
    match s.hubNat (s.queue q).asid (p.wide 0) 8 with
    | .ok v => (BitVec.ofNat 64 v).sle (BitVec.ofNat 64 (p.wide 2))
    | .error _ => true
  | _ => true

/-- LAUNCH: the launch that enters the table. A status other than 0 completes it at once (R13, R475, R481). -/
def State.newLaunch (s : State) (q : Nat) (p : Packet) (rcb : Nat) : Launch :=
  let x := s.queue q
  let r := s.rcb x.asid (p.wide 0)
  let armed := (s.region rcb).any (fun g => g.state = 1 || g.state = 2)
  let status : BitVec 8 := if r.bad || r.vf ≠ q / 16 then 4 else if !armed then 2 else 0
  let g := BitVec.ofNat 32 (p.word 2)
  let direct := p.wide 3 = 0
  { q := q
    seq := x.seq
    rcbVa := BitVec.ofNat 64 (p.wide 0)
    rcb := rcb
    asid := x.asid
    grid := g
    icount := BitVec.ofNat 64 (p.wide 3)
    signal := BitVec.ofNat 64 (p.wide 5)
    int := p.flags % 2 = 1
    pkt := x.errAt
    descs := x.pend
    tape := x.tape
    count := if direct then some g else none
    nextG := 0
    bound := 0
    retired := 0
    disc := 0
    nfault := 0
    fgrp := BitVec.allOnes 32
    fcause := 0
    status := status
    closed := status ≠ 0 || (direct && g = 0)
    ringWait := false
    ended := none }

/-- The effect of a packet whose condition is met; an error is the reason. -/
def State.packetEffect (s : State) (q : Nat) (p : Packet) : Except Nat State :=
  let x := s.queue q
  match p.type with
  | 1 =>
    match s.hubDpa x.asid (p.wide 0), s.freeLaunch with
    | some rcb, some i =>
      if (s.rcb x.asid (p.wide 0)).unread then .error 6
      else
        let t := (s.putLaunch i (some (s.newLaunch q p rcb))).putQueue q { x with pend := [], tape := none, seq := (x.seq + 1) % 2 ^ 52 }
        .ok { t with hub := { t.hub with accepted := t.hub.accepted ++ [i] } }
    | _, _ => .error 6
  | 2 =>
    let n := p.word 0 / 256 % 128
    match s.hubRead x.asid (p.wide 1) (64 * n) with
    | .error _ => .error 6
    | .ok bs =>
      let put := fun (m : SMap Desc) (i : Nat) => SMap.set 0 m (p.word 0 % 64 + i) (BitVec.ofNat 512 (leNat ((bs.drop (64 * i)).take 64)))
      .ok (s.putQueue q { x with pend := (List.range n).foldl put x.pend })
  | 3 =>
    match s.hubNat x.asid (p.wide 0) 8 with
    | .error _ => .error 6
    | .ok old =>
      let new := if p.flags % 2 = 1 then BitVec.ofNat 64 (p.wide 2) else BitVec.ofNat 64 old - BitVec.ofNat 64 (p.wide 2)
      match s.hubWrite x.asid (p.wide 0) (leBytes 8 new.toNat) with
      | .error _ => .error 6
      | .ok t => .ok t
  | 4 =>
    match s.hubNat x.asid (p.wide 0) 8 with
    | .error _ => .error 6
    | .ok _ => .ok s
  | 6 =>
    match hubParts s x.asid true .write (p.wide 0) 256, hubParts s x.asid true .write (p.wide 4) 8 with
    | .ok (a :: _), .ok _ =>
      let r := s.pinit x.asid (BitVec.ofNat 64 (p.wide 0)) a.dpa (BitVec.ofNat 64 (p.wide 2))
      match r.2.hubWrite x.asid (p.wide 4) (leBytes 8 r.1.toNat) with
      | .error _ => .error 6
      | .ok t => .ok t
    | _, _ => .error 6
  | 8 => .ok (s.putQueue q { x with tape := some ⟨BitVec.ofNat 64 (p.wide 0), BitVec.ofNat 64 (p.wide 2), 0, false⟩ })
  | 9 => .ok (s.putQueue q { x with tape := some ⟨BitVec.ofNat 64 (p.wide 0), BitVec.ofNat 64 (p.wide 2), BitVec.ofNat 64 (p.wide 4), true⟩ })
  | _ => .ok s

/-- The packet is passed; INDIRECT's buffer is next. Parsing that is to stop stops when no packet is in progress (R477). -/
def State.passPacket (s : State) (q : Nat) (p : Packet) : State :=
  let x := (s.queue q).advance (1 + p.body.length)
  let y := { x with hold := none, words := [], ind := if p.type = 5 then (p.wide 0, p.word 2) :: x.ind else x.ind }
  s.putQueue q (if y.stop && !y.busy then y.off else y)

/-- A packet runs, or holds its queue. -/
def State.runPacket (s : State) (q : Nat) (p : Packet) : State :=
  match p.breach (s.queue q) with
  | some k => s.queueError q k
  | none =>
    if s.packetReady q p then
      match s.packetEffect q p with
      | .error k => s.queueError q k
      | .ok t => t.passPacket q p
    else s.putQueue q { s.queue q with hold := some (BitVec.ofNat 8 p.type), words := p.words }

/-- The front end has served a queue; the next in number is the first looked at (R479). -/
def State.turnTaken (s : State) (q : Nat) : State := { s with hub := { s.hub with nextQ := (q + 1) % 4096 } }

/-- The front end's turn at a queue, when it has a packet of the types wanted to parse, once its image has passed the boot's check (R518). An error of the header alone is met whatever the type. -/
def State.queueTurn (s : State) (q : Nat) (wanted : Nat → Bool) : Option State :=
  let x := s.queue q
  if s.hub.fest ≠ 0 || x.state ≠ 1 || x.hold.isSome then none
  else
    match s.parsePacket q with
    | .wait => none
    | .error k => some ((s.queueError q k).turnTaken q)
    | .packet p => if wanted p.type then some ((s.runPacket q p).turnTaken q) else none

/-- The front end's turn at a queue whose next packet has the type given. -/
def State.packetTurn (s : State) (q type : Nat) : State := (s.queueTurn q (fun t => decide (t = type))).getD s

/-- NOP_PACKET (R480). -/
def execNopPacket (q : BitVec 12) (s : State) : Host.Outcome State Fault Refusal := .next (s.packetTurn q.toNat 0)
/-- LAUNCH_PACKET (R481). -/
def execLaunchPacket (q : BitVec 12) (s : State) : Host.Outcome State Fault Refusal := .next (s.packetTurn q.toNat 1)
/-- BIND_PACKET (R481). -/
def execBindPacket (q : BitVec 12) (s : State) : Host.Outcome State Fault Refusal := .next (s.packetTurn q.toNat 2)
/-- SIGNAL_PACKET (R481). -/
def execSignalPacket (q : BitVec 12) (s : State) : Host.Outcome State Fault Refusal := .next (s.packetTurn q.toNat 3)
/-- WAIT_PACKET (R481). -/
def execWaitPacket (q : BitVec 12) (s : State) : Host.Outcome State Fault Refusal := .next (s.packetTurn q.toNat 4)
/-- INDIRECT_PACKET (R481). -/
def execIndirectPacket (q : BitVec 12) (s : State) : Host.Outcome State Fault Refusal := .next (s.packetTurn q.toNat 5)
/-- PINIT_PACKET (R481). -/
def execPinitPacket (q : BitVec 12) (s : State) : Host.Outcome State Fault Refusal := .next (s.packetTurn q.toNat 6)
/-- FENCE_PACKET (R481). -/
def execFencePacket (q : BitVec 12) (s : State) : Host.Outcome State Fault Refusal := .next (s.packetTurn q.toNat 7)
/-- RECORD_PACKET (R481). -/
def execRecordPacket (q : BitVec 12) (s : State) : Host.Outcome State Fault Refusal := .next (s.packetTurn q.toNat 8)
/-- REPLAY_PACKET (R481). -/
def execReplayPacket (q : BitVec 12) (s : State) : Host.Outcome State Fault Refusal := .next (s.packetTurn q.toNat 9)

/-- The packet that holds a queue, when its condition is met: its words are not read again (R478). -/
def State.heldPacket (s : State) (q : Nat) : Option Packet :=
  let x := s.queue q
  if s.hub.fest ≠ 0 || x.state ≠ 1 || x.hold.isNone then none else (packetOf x.words).filter (fun p => s.packetReady q p)

/-- QUEUE_HOLD_RELEASE (R481). -/
def State.releaseHold (s : State) (q : Nat) : State :=
  match s.heldPacket q with
  | some p => s.runPacket q p
  | none => s

/-- QUEUE_HOLD_RELEASE (R481). -/
def execQueueHoldRelease (q : BitVec 12) (s : State) : Host.Outcome State Fault Refusal := .next (s.releaseHold q.toNat)

/-! ## A lost queue, the Scribe's reset (R492, R493) -/

/-- The groups of a launch not yet bound are discarded, and it takes a status. -/
def Launch.close (l : Launch) (status : BitVec 8) : Launch :=
  { l with
    disc := if l.closed then l.disc else l.disc + ((l.count.getD l.grid) - BitVec.ofNat 32 l.nextG)
    closed := true
    status := status }

/-- QUEUE_LOST (R493). -/
def State.loseQueue (s : State) (q : Nat) : State :=
  ((s.putQueue q { (s.queue q).off with state := 3 }).mapLaunches (fun l => if l.q = q then l.close 3 else l)).margin 0 0x07 0 0 (BitVec.ofNat 64 q) 0x1FF 15 false

/-- QUEUE_LOST (R493). -/
def execQueueLost (q : BitVec 12) (s : State) : Host.Outcome State Fault Refusal := .next (s.loseQueue q.toNat)

/-- SCRIBE_RESET (R492). -/
def execScribeReset (s : State) : Host.Outcome State Fault Refusal :=
  .next ({ s with hub := { s.hub with scribeUp := false } }.margin 0 0x06 0 0 0 0x1FF 15 false)

/-- SCRIBE_RELOAD_COMPLETE (R492); a Scribe whose image was refused stays in reset (R518). -/
def execScribeReloadComplete (s : State) : Host.Outcome State Fault Refusal :=
  .next (if s.hub.scrst = 0 then { s with hub := { s.hub with scribeUp := true } } else s)

/-! ## Bind records (R476, R482 to R484) -/

/-- SCRIBE_BIND_WRITE (R482): a record enters an empty slot, while the Scribe runs. -/
def State.scribeWrite (s : State) (d slot : Nat) (r : BitVec 128) : State :=
  let x := s.die d
  if !s.hub.scribeUp || (SMap.get none x.bind slot).isSome then s
  else s.putDie d { x with bind := SMap.set none x.bind slot (some r) }

/-- SCRIBE_BIND_WRITE (R484). -/
def execScribeBindWrite (die : BitVec 3) (slot : BitVec 8) (record : BitVec 128) (s : State) : Host.Outcome State Fault Refusal :=
  .next (s.scribeWrite die.toNat slot.toNat record)

/-- The fields of a bind record. -/
def bindGidx (r : BitVec 128) : Nat := recField r.toNat 96 32
def bindSlot (r : BitVec 128) : Nat := recField r.toNat 72 12
def bindCtx (r : BitVec 128) : Nat := recField r.toNat 64 3
def bindCore (r : BitVec 128) : Nat := recField r.toNat 0 9

/-- The record that puts group g of the launch in an entry on a context of a core. -/
def bindRecord (g slot ctx core : Nat) : BitVec 128 := BitVec.ofNat 128 (g * 2 ^ 96 + slot % 4096 * 2 ^ 72 + ctx % 8 * 2 ^ 64 + core % 512)

/-- The needs of a group of an image: contexts, barrier slots, scratchpad and tape bytes (R499). -/
structure Needs where
  cores : Nat
  bars : Nat
  spad : Nat
  tape : Nat
  deriving DecidableEq, Repr

/-- An image's per-group needs. -/
def Image.groupNeeds (i : Image) : Needs := ⟨1, recField i.needs.toNat 16 16, recField i.needs.toNat 64 64, recField i.needs.toNat 128 64⟩

/-- The U fields of an RCB. -/
def State.usedOf (s : State) (asid : BitVec 9) (va : Nat) : Except Flt Needs :=
  (s.hubNat asid (va + 0x40) 24).map (fun u => ⟨recField u 32 16, recField u 48 16, recField u 64 64, recField u 128 64⟩)

/-- The U fields written. -/
def State.putUsed (s : State) (asid : BitVec 9) (va : Nat) (u : Needs) : Except Flt State :=
  s.hubWrite asid (va + 0x40) (leBytes 24 (u.cores % 65536 * 2 ^ 32 + u.bars % 65536 * 2 ^ 48 + u.spad % 2 ^ 64 * 2 ^ 64 + u.tape % 2 ^ 64 * 2 ^ 128))

/-- A node's own budgets, which bind where its OVR bit 0 is set and at a root. -/
def RcbNode.exceeded (n : RcbNode) (u : Needs) : Bool :=
  bits (n.word 2) 15 0 < u.cores || bits (n.word 2) 31 16 < u.bars || (n.word 3).toNat < u.spad || (n.word 4).toNat < u.tape

/-- The U fields of every RCB of a path with a group's needs added; none where they cannot be read. -/
def addUsed (s : State) (asid : BitVec 9) (need : Needs) (l : List RcbNode) : List (RcbNode × Option Needs) :=
  l.map (fun n => (n, match s.usedOf asid n.va with
    | .ok u => some ⟨u.cores + need.cores, u.bars + need.bars, u.spad + need.spad, u.tape + need.tape⟩
    | .error _ => none))

/-- A budget of a path would be exceeded (R476); `whole` tells that the last RCB is the root. -/
def pathExceeded (whole : Bool) : List (RcbNode × Option Needs) → Bool
  | [] => false
  | (n, u) :: t => ((bit (n.word 1) 0 || (whole && t.isEmpty)) && u.any (fun v => n.exceeded v)) || pathExceeded whole t

/-- U fields written along a path, all or none. -/
def State.putAllUsed (s : State) (asid : BitVec 9) (l : List (Nat × Needs)) : Except Nat State :=
  l.foldl (fun (a : Except Nat State) (e : Nat × Needs) => match a with
    | .error k => .error k
    | .ok t => match t.putUsed asid e.1 e.2 with
      | .error _ => .error 6
      | .ok t1 => .ok t1) (.ok s)

/-- Binding a group adds its needs on its region's path (R476). Every budget that can be read is tested before code 6 (R483). -/
def State.chargeGroup (s : State) (asid : BitVec 9) (r : Rcb) (need : Needs) : Except Nat State :=
  let l := addUsed s asid need r.path
  if pathExceeded (!r.unread) l then .error 5
  else if r.unread || l.any (fun e => e.2.isNone) then .error 6
  else s.putAllUsed asid (l.filterMap (fun e => e.2.map (fun u => (e.1.va, u))))

/-- Retiring a group subtracts them. -/
def State.refundGroup (s : State) (asid : BitVec 9) (r : Rcb) (need : Needs) : State :=
  let less := r.path.map (fun n => match s.usedOf asid n.va with
    | .ok u => some (n.va, (⟨u.cores - need.cores, u.bars - need.bars, u.spad - need.spad, u.tape - need.tape⟩ : Needs))
    | .error _ => none)
  if r.unread || less.contains none then s
  else
    match s.putAllUsed asid (less.filterMap id) with
    | .ok t => t
    | .error _ => s

/-- An earlier launch of the same queue to the same region still has groups to bind (R18). -/
def State.laterTurn (s : State) (slot : Nat) (l : Launch) : Bool :=
  (s.hub.accepted.takeWhile (fun i => i ≠ slot)).any (fun i => (s.launch i).any (fun e => e.q = l.q && e.rcb = l.rcb && !e.closed))

/-- The region of a launch has an image that places a core. -/
def State.places (s : State) (l : Launch) (core : Nat) : Bool :=
  ((s.region l.rcb).bind (fun r => r.image)).any (fun i => decide (i.base ≤ core) && decide (core < i.base + i.ncore))

/-- Checks 1 to 3 of R483. -/
def State.bindCheck (s : State) (r : BitVec 128) : Option Nat :=
  let n := r.toNat
  let core := bindCore r
  let c := s.coreOf core
  if recField n 84 12 ≠ 0 || recField n 67 5 ≠ 0 || recField n 9 55 ≠ 0 || 4 ≤ bindCtx r then some 1
  else
    match s.launch (bindSlot r) with
    | none => some 1
    | some l =>
      if !s.places l core || c.halted then some 2
      else if (c.ctxOf (uCtx (bindCtx r))).group.isSome || c.restore.any (fun x => x.ctx = uCtx (bindCtx r)) then some 3
      else none

/-- The indirect count is read when the first group is about to bind (R16, R17, R491). -/
def State.readCount (s : State) (slot : Nat) (l : Launch) : State :=
  match l.count with
  | some _ => s
  | none =>
    match s.hubNat l.asid l.icount.toNat 4 with
    | .error _ => s.putLaunch slot (some (l.close 5))
    | .ok n =>
      let k := BitVec.ofNat 32 (min n l.grid.toNat)
      s.putLaunch slot (some { l with count := some k, disc := l.grid - k, closed := k = 0 })

/-- The port records of an image for a core (R500). -/
def Image.portsOf (i : Image) (core : Nat) : List (BitVec 128) := i.ports.filter (fun r => i.base + recField r.toNat 16 9 = core)

/-- A node record is that of a port of a core. -/
def Image.isPort (i : Image) (core pn : Nat) (n : BitVec 256) : Bool :=
  recField n.toNat 28 4 = 3 && recField n.toNat 32 3 = pn && i.base + recField n.toNat 16 9 = core

/-- The input at which the slots of a link lie: its consumer's, 0 MX, 1 VX, 2 MG, 3 on the ports, 11 on the chain nodes. -/
def inputOf (n : BitVec 256) : Nat :=
  match recField n.toNat 28 4 with
  | 3 => 3 + recField n.toNat 32 3
  | 4 => 11 + recField n.toNat 32 3
  | u => u

/-- The slots of the links that leave a port's node, by the input of their consumer (R36). -/
def Image.slotsAfter (i : Image) (core pn : Nat) : SMap Nat :=
  i.links.foldl (fun m l =>
    let k := linkOf l.toNat
    match i.nodes[k.dst]? with
    | some n => if (i.nodes[k.src]?).any (i.isPort core pn) then SMap.set 0 m (inputOf n) (SMap.get 0 m (inputOf n) + k.slots) else m
    | none => m) []

/-- The slots of the links that end at a port's node: they lie at its input (R36). -/
def Image.slotsBefore (i : Image) (core pn : Nat) : Nat :=
  (i.links.map (fun l => let k := linkOf l.toNat; if (i.nodes[k.dst]?).any (i.isPort core pn) then k.slots else 0)).sum

/-- A port record acts as a PBIND (R500) on a port that is quiescent. -/
def State.bindPort (s : State) (u : CtxId) (slots : Nat → SMap Nat × Nat) (r : BitVec 128) : Except TrapInfo State :=
  let f := recField r.toNat
  let pn := f 0 3
  let t := SMap.get 0 (s.ctxAt u).tt (f 8 6)
  let p := (s.port pn).bindTo t (BitVec.ofNat 6 (f 8 6)) (BitVec.ofNat 2 (f 3 2)) (f 5 1 = 1) (BitVec.ofNat 2 (f 6 2)) u 0
  let p1 := { p with lead := f 14 1 = 1, cons := BitVec.ofNat 2 (f 32 2), kExtent := BitVec.ofNat 16 (f 48 16), edge := BitVec.ofNat 16 (f 64 16), links := (slots pn).1, input := (slots pn).2 }
  match bindBreach p1 pn (f 8 6) with
  | some e => .error e
  | none => .ok (s.putPort pn p1)

/-- The port records of a core applied in their order; a failing one retires the group with FAULT. -/
def State.bindPorts (s : State) (u : CtxId) (slots : Nat → SMap Nat × Nat) : List (BitVec 128) → State
  | [] => s
  | r :: t =>
    match s.bindPort u slots r with
    | .error e => s.putCtxAt u ((s.ctxAt u).kill (e.cause.setWidth 8))
    | .ok s1 => State.bindPorts s1 u slots t

/-- The context of a group that has just been bound (R20, R400). -/
def startCtx (g : Group) (start : Nat) (descs : SMap Desc) : Ctx :=
  { Ctx.reset with
    s := SMap.set 0 (SMap.set 0 [] 1 (g.gidx.setWidth 64)) 2 (g.count.setWidth 64)
    st := .parsing
    group := some g
    stack := [⟨BitVec.ofNat 16 start, 0⟩]
    tt := descs
    slots := g.pri.toNat + 1 }

/-- A launch that records or replays begins its tape at the bind (R455, R460). -/
def State.bindTape (s : State) (u : CtxId) (t : Option Tape) : State :=
  let x := s.ctxAt u
  match t with
  | none => s
  | some k =>
    if x.parsed then s
    else if k.replay then
      let t := s.readHeader u k.area k.patch
      match t.startReplay u k.area k.patch (some k.size) with
      | .status 3 => t.raiseTrap (scrollTrap cReplayFault 2 none ((x.group.map (fun g => g.gidx)).getD 0)) u noPc
      | .status _ => t
      | .fault e => t.raiseTrap e u noPc
      | .ok s1 => s1.putScroll u { (s1.ctxAt u).scroll with atBind := true }
    else
      let r := s.beginTrack u x k.area k.size
      if r.1 = 0 then r.2.putScroll u { (r.2.ctxAt u).scroll with atBind := true } else s

/-- The group enters its context on the core looked at. -/
def State.bindHere (s : State) (u : CtxId) (g : Group) (l : Launch) : State :=
  let start := s.core.gramNat 0 8 % 1024
  let s1 := s.putCtxAt u (startCtx g start l.descs)
  let s2 := match (s.region g.rcb).bind (fun r => r.image) with
    | some i => s1.bindPorts u (fun p => (i.slotsAfter s.coreId p, i.slotsBefore s.coreId p)) (i.portsOf s.coreId)
    | none => s1
  ((s2.putCore (s2.core.takeResv g.rcb u)).acquire u 0 [hubKey]).bindTape u l.tape

/-- A group of a launch bound by a record (R20, R483). -/
def State.bindGroup (s : State) (r : BitVec 128) (l : Launch) (rc : Rcb) (k : BitVec 32) : State :=
  let slot := bindSlot r
  let lid : Word := BitVec.ofNat 64 (l.q * 2 ^ 52 + l.seq)
  let g : Group := ⟨slot, lid, BitVec.ofNat 32 (bindGidx r), k, l.rcb, rc.asid, BitVec.ofNat 4 rc.pri⟩
  let l1 := { l with nextG := l.nextG + 1, bound := l.bound + 1, closed := decide (k.toNat ≤ l.nextG + 1) }
  let s1 := s.putLaunch slot (some l1)
  let s2 := if (s1.region l.rcb).any (fun x => x.state = 1) then s1.setRegionState l.rcb 2 else s1
  let s3 := match s2.region l.rcb with
    | some x => s2.putRegion l.rcb { x with nextCore := bindCore r + 1 }
    | none => s2
  s3.withCore (bindCore r) (fun a => a.bindHere (uCtx (bindCtx r)) g l)

/-- A port that a group of a region is to be bound with on a core is not quiescent: the bind waits, as a PBIND would (R163, R178, R500). -/
def State.portsBusy (s : State) (rcb core : Nat) : Bool :=
  ((s.region rcb).bind (fun r => r.image)).any (fun i => (i.portsOf core).any (fun r => !(s.coreOf core).quiescentPort (recField r.toNat 0 3)))

/-- What becomes of a record: refused with a code, consumed, or bound. -/
def State.applyRecord (s : State) (r : BitVec 128) : Except (Nat × State) State :=
  match s.bindCheck r with
  | some k => .error (k, s)
  | none =>
    let slot := bindSlot r
    let past := fun (l : Launch) => l.count.any (fun k => decide (k.toNat ≤ bindGidx r))
    match s.launch slot with
    | none => .error (1, s)
    | some l0 =>
      if past l0 then .ok s
      else if l0.closed || bindGidx r ≠ l0.nextG || s.laterTurn slot l0 then .error (4, s)
      else
        let s1 := s.readCount slot l0
        match s1.launch slot with
        | none => .ok s1
        | some l =>
          if l.closed then .ok s1
          else
            let rc := s1.rcb l.asid l.rcbVa.toNat
            let need := (((s1.region l.rcb).bind (fun x => x.image)).map Image.groupNeeds).getD ⟨1, 0, 0, 0⟩
            match s1.chargeGroup l.asid rc need with
            | .error 5 => .error (5, s1)
            | .error _ => .error (6, s1.putLaunch slot (some (l.close 5)))
            | .ok s2 => .ok (s2.bindGroup r l rc (l.count.getD 0))

/-- The lowest full slot of a die whose record names a core of a die that takes binds (R532). -/
def State.fullSlot (s : State) (d : Nat) : Option (Nat × BitVec 128) :=
  (s.die d).bind.findSome? (fun e => e.2.bind (fun r => if (s.die (bindCore r / 64)).noBind then none else some (e.1, r)))

/-- A record has bound its group. -/
def State.hasBound (s : State) (r : BitVec 128) : Bool := ((s.coreOf (bindCore r)).ctxOf (uCtx (bindCtx r))).group.isSome

/-- The check of the first full slot of a die, when there is one and it does not wait for a port: cores accept binds in stage 5 (R508), and neither the slots nor the cores of a die that tripped take any (R532). -/
def State.recordMove (s : State) (d : Nat) : Option State :=
  let x := s.die d
  if s.hub.stage ≠ 5 || x.noBind then none
  else
    match s.fullSlot d with
    | none => none
    | some (i, r) =>
      let empty := fun (t : State) => t.putDie d { t.die d with bind := SMap.set none (t.die d).bind i none }
      match s.applyRecord r with
      | .ok t =>
        let waits := !s.hasBound r && t.hasBound r && (s.launch (bindSlot r)).any (fun l => s.portsBusy l.rcb (bindCore r))
        if waits then none else some (empty t)
      | .error (k, t) => let u := empty t; some (u.putDie d { u.die d with refused := (u.die d).refused ++ [(i, r, k)] })

/-- BIND_RECORD_CHECK (R483). -/
def State.checkRecord (s : State) (d : Nat) : State := (s.recordMove d).getD s

/-- BIND_RECORD_CHECK (R483). -/
def execBindRecordCheck (die : BitVec 3) (s : State) : Host.Outcome State Fault Refusal := .next (s.checkRecord die.toNat)

/-! ## Retirement (R21, R363, R459) -/

/-- An invocation that was discarded under a drain, its fault delivered: nothing will reissue it (R15, R319). -/
def Inv.spent (v : Inv) (x : Ctx) : Bool := x.drained && v.st = .discarded && v.fault.all (fun f => f.seq = 0)

/-- A group that has ended may retire: none of its invocations is left, and no trap holds it (R21). -/
def Core.canRetire (c : Core) (u : CtxId) : Bool :=
  let x := c.ctxOf u
  u ≠ .k && x.group.isSome && x.parsed && x.st ≠ .trapped && !c.invs.any (fun v => v.ctx = u && !v.spent x)

/-- A group retired in its launch. -/
def Launch.retire (l : Launch) (x : Ctx) (g : Group) : Launch :=
  { l with
    retired := l.retired + 1
    nfault := if x.faulted then l.nfault + 1 else l.nfault
    fgrp := if x.faulted && l.nfault = 0 then g.gidx else l.fgrp
    fcause := if x.faulted && l.nfault = 0 then x.fcause else l.fcause
    status := if x.faulted && l.status = 0 then 1 else l.status }

/-- A port without its owner: its lead is over, and what it holds is gone unless an invocation of another context still uses it. -/
def Port.disown (p : Port) (used : Bool) : Port :=
  if used then { p with owner := none } else { p with owner := none, lead := false, outMarks := [], fifo := [], drops := [], fault := none }

/-- A context's ports have no owner once its group is gone. -/
def Core.disown (c : Core) (u : CtxId) : Core :=
  { c with ports := c.ports.map (fun e => (e.1, if e.2.owner = some u then e.2.disown (!c.quiescentPort e.1) else e.2)) }

/-- The refused records of a region's launches are forgotten once a group of it has retired: the Scribe tries their groups again (R484). -/
def State.forgetRefused (s : State) (rcb : Nat) : State :=
  { s with dies := s.dies.map (fun e => (e.1, { e.2 with refused := e.2.refused.filter (fun r => (s.launch (bindSlot r.2.1)).any (fun l => l.rcb ≠ rcb)) })) }

/-- GROUP_RETIRE (R21): the context is free, and RETIRED until it takes a group (R233). Its stores and those of its invocations precede the launch's completion (R22). -/
def State.retireGroup (s : State) (u : CtxId) : State :=
  match (s.ctxAt u).group with
  | none => s
  | some g =>
    if !s.core.canRetire u then s
    else
      let y := (s.ctxAt u).scroll
      let s0 := (s.dropInvs (fun v => v.ctx = u)).releaseAll u 0 [hubKey]
      let s1 := if y.mode = 1 && y.atBind then s0.closeTrack u (s0.ctxAt u) else s0
      let x := s1.ctxAt u
      let c := (s1.core.passResv u).disown u
      let s2 := s1.putCore { c.putCtx u { x.vacate with st := .retired } with cut := if c.cut.any (fun k => k.ctx = u) then none else c.cut }
      match s2.launch g.slot with
      | none => s2.forgetRefused g.rcb
      | some l =>
        let need := (((s2.region g.rcb).bind (fun r => r.image)).map Image.groupNeeds).getD ⟨1, 0, 0, 0⟩
        ((s2.refundGroup l.asid (s2.rcb l.asid l.rcbVa.toNat) need).putLaunch g.slot (some (l.retire x g))).forgetRefused g.rcb

/-- GROUP_RETIRE (R21). -/
def execGroupRetire (u : BitVec 2) (s : State) : Host.Outcome State Fault Refusal := .next (s.retireGroup (uCtx u.toNat))

/-! ## Completion (R22, R485 to R491) -/

/-- The fields of an event ring's header that completion uses (R487). -/
structure Ring where
  dpa : Nat
  log2 : Nat
  wptr : BitVec 32
  rptr : BitVec 32
  ccnt : Nat
  ctime : Nat
  msix : Nat
  deriving DecidableEq, Repr

/-- A ring's header from its bytes. -/
def ringOf (dpa h : Nat) : Ring :=
  ⟨dpa, recField h 0 5, BitVec.ofNat 32 (recField h 64 32), BitVec.ofNat 32 (recField h 128 32), recField h 160 16, recField h 192 32, recField h 245 11⟩

/-- The ring of a region, when its header can be read and gives a size. -/
def State.ring (s : State) (asid : BitVec 9) (evr : Nat) : Option Ring :=
  match s.hubDpa asid evr, s.hubNat asid evr 64 with
  | some d, .ok h => let r := ringOf d h; if evr % 64 = 0 && 4 ≤ r.log2 && r.log2 ≤ 20 then some r else none
  | _, _ => none

/-- A ring is full. -/
def Ring.full (r : Ring) : Bool := decide (2 ^ r.log2 ≤ (r.wptr - r.rptr).toNat)

/-- The record of a launch (R488). -/
def Launch.record (l : Launch) (time : Word) : Nat :=
  time.toNat * 2 ^ 192 + (l.q * 2 ^ 52 + l.seq) % 2 ^ 64 * 2 ^ 128 + l.disc.toNat * 2 ^ 96 + l.nfault.toNat * 2 ^ 64
    + l.fgrp.toNat * 2 ^ 32 + l.fcause.toNat * 2 ^ 24 + l.status.toNat

/-- A record written in full, then WPTR advanced (R488). -/
def State.writeRecord (s : State) (l : Launch) (evr : Nat) (r : Ring) : Option State :=
  match s.hubWrite l.asid (evr + 64 + 32 * (r.wptr.toNat % 2 ^ r.log2)) (leBytes 32 (l.record s.hub.cycle)) with
  | .error _ => none
  | .ok t =>
    match t.hubWrite l.asid (evr + 8) (leBytes 4 (r.wptr + 1).toNat) with
    | .error _ => none
    | .ok t1 => some t1

/-- A ring's vector raised, and its counts reset (R490). -/
def State.raiseRing (s : State) (dpa vf msix : Nat) : State :=
  let t := s.raiseMsix vf msix
  { t with hub := { t.hub with rings := SMap.set ⟨0, 0, 0⟩ t.hub.rings dpa ⟨0, 0, 0⟩ } }

/-- A record joins the coalescing of its ring (R490). -/
def State.coalesce (s : State) (l : Launch) (r : Ring) (vf : Nat) : State :=
  let x := SMap.get ⟨0, 0, 0⟩ s.hub.rings r.dpa
  let n := x.count + 1
  if l.int || (r.ccnt ≠ 0 && r.ccnt ≤ n) then s.raiseRing r.dpa vf r.msix
  else { s with hub := { s.hub with rings := SMap.set ⟨0, 0, 0⟩ s.hub.rings r.dpa ⟨vf, n, if x.count = 0 then s.hub.cycle.toNat else x.oldest⟩ } }

/-- The signal decrement of a completion (R22, R491). -/
def State.completeSignal (s : State) (l : Launch) : State :=
  if l.signal = 0 then s
  else
    let a := l.signal.toNat
    match (s.hubNat l.asid a 8).bind (fun v => (hubParts s l.asid true .write a 8).map (fun ps => storeSeen s true ps (leBytes 8 (BitVec.ofNat 64 v - 1).toNat))) with
    | .ok t => t
    | .error _ => s.queueReason l.q l.pkt 8

/-- The launch leaves the table; its region is ARMED again when no other launch with bound groups is left (R13). -/
def State.leaveTable (s : State) (i : Nat) (l : Launch) : State :=
  let t := s.putLaunch i none
  let t1 := { t with hub := { t.hub with accepted := t.hub.accepted.filter (fun k => k ≠ i) } }
  let more := t1.hub.launches.any (fun e => e.2.any (fun m => m.rcb = l.rcb && decide (0 < m.bound)))
  if (t1.region l.rcb).any (fun r => r.state = 2) && !more then t1.setRegionState l.rcb 1 else t1

/-- The completion of a launch, in the order of R485; the retirements of its groups are observed first (R22). -/
def State.completeLaunch (s0 : State) (i : Nat) : State :=
  match s0.launch i with
  | none => s0
  | some l =>
    if !l.over then s0
    else
      let s := s0.acquireBy hubParty 4 [hubKey]
      let rc := s.rcb l.asid l.rcbVa.toNat
      let sig := rc.cmode = 0 || rc.cmode = 2
      if rc.cmode = 1 || rc.cmode = 2 then
        let finish := fun (t : State) => (if sig then t.completeSignal l else t)
        match s.ring l.asid rc.evr with
        | none => (finish (s.queueReason l.q l.pkt 9)).leaveTable i l
        | some r =>
          if r.full then s.putLaunch i (some { l with ringWait := true })
          else
            match s.writeRecord l rc.evr r with
            | none => (finish (s.queueReason l.q l.pkt 9)).leaveTable i l
            | some t => ((finish t).coalesce l r rc.vf).leaveTable i l
      else (if sig then s.completeSignal l else s).leaveTable i l

/-- LAUNCH_COMPLETION (R22). -/
def execLaunchCompletion (slot : BitVec 12) (s : State) : Host.Outcome State Fault Refusal := .next (s.completeLaunch slot.toNat)

/-- The coalescing time of a ring has passed (R490). -/
def State.ringDue (s : State) (dpa : Nat) : Bool :=
  let x := SMap.get ⟨0, 0, 0⟩ s.hub.rings dpa
  let r := ringOf dpa (leNat (s.bytesAt dpa 64))
  decide (0 < x.count) && r.ctime ≠ 0 && decide (x.oldest + r.ctime ≤ s.hub.cycle.toNat)

/-- COALESCE_TIME_EXPIRY (R490): the ring whose header lies at a DPA. -/
def State.ringExpiry (s : State) (dpa : Nat) : State :=
  if s.ringDue dpa then s.raiseRing dpa (SMap.get ⟨0, 0, 0⟩ s.hub.rings dpa).vf (ringOf dpa (leNat (s.bytesAt dpa 64))).msix else s

/-- COALESCE_TIME_EXPIRY (R490). -/
def execCoalesceTimeExpiry (slot : Nat) (s : State) : Host.Outcome State Fault Refusal := .next (s.ringExpiry slot)

/-! ## Rebalancing (R30) -/

/-- A group may move: it has no invocation in flight, none of its ports holds a beat or a symbol, it is in no trap, cut or recording of a command's result. -/
def Core.canMove (c : Core) (u : CtxId) : Bool :=
  let x := c.ctxOf u
  u ≠ .k && x.group.isSome && x.st ≠ .trapped && !x.parsed && !x.draining && !c.invs.any (fun v => v.ctx = u) && !c.cut.any (fun k => k.ctx = u)
    && !c.pend.any (fun p => p.ctx.toNat = ctxNum u) && x.waiting.isNone && !c.inTrap && !c.halted
    && c.ports.all (fun e => e.2.owner ≠ some u || (e.2.fifo.isEmpty && e.2.outMarks.isEmpty && e.2.fault.isNone))

/-- A core takes a group that moves to one of its contexts. -/
def Core.receive (c : Core) (v : CtxId) (x : Ctx) (ports : SMap Port) (accs : SMap Acc) (ws : SMap WSlot) : Core :=
  let c1 := c.putCtx v x
  let c2 := { c1 with
    ports := ports.foldl (fun m (e : Nat × Port) => SMap.set Port.reset m e.1 (e.2.moved v)) c1.ports
    accs := accs.foldl (fun m (e : Nat × Acc) => SMap.set Acc.reset m e.1 e.2) c1.accs
    wslots := ws.foldl (fun m (e : Nat × WSlot) => SMap.set WSlot.reset m e.1 e.2) c1.wslots }
  match x.group with
  | some g => c2.settleSkips.takeResv g.rcb v
  | none => c2.settleSkips

/-- What a group takes along is free on a core: its ports are quiescent and no other context has them (R163), and no other region or context holds an accumulator or a weight slot of it. R30 says nothing of this; the model's Scribe does not move a group where it would take something from another (DESIGN CHOICE, log entry 60). -/
def Core.hasRoom (c : Core) (k : Saved) : Bool :=
  k.ports.all (fun e => c.quiescentPort e.1 && (SMap.get Port.reset c.ports e.1).owner.isNone)
    && k.resv.all (fun r => !c.resv.any (fun v => (v.owner.isSome || v.rcb ≠ r.rcb) && (v.accs &&& r.accs ≠ 0 || v.slots &&& r.slots ≠ 0)))

/-- The context that a group may move to: free, on a core that the region's image places and whose die takes groups (R532). -/
def State.canTake (s : State) (g : Group) (core : Nat) (v : CtxId) : Bool :=
  let c := s.coreOf core
  ((s.region g.rcb).bind (fun r => r.image)).any (fun i => decide (i.base ≤ core) && decide (core < i.base + i.ncore))
    && (c.ctxOf v).group.isNone && !c.restore.any (fun x => x.ctx = v) && !c.halted && !(s.die (core / 64)).noBind

/-- SCRIBE_REBALANCE (R30). -/
def State.rebalance (s : State) (u : CtxId) (core : Nat) (v : CtxId) : State :=
  match (s.ctxAt u).group with
  | none => s
  | some g =>
    if !s.core.canMove u || !s.canTake g core v || !(s.coreOf core).hasRoom (s.core.saved u s.coreId) then s
    else
      let k := s.core.saved u s.coreId
      let x := s.ctxAt u
      let s0 := (k.ports.map (·.1)).foldl (fun (a : State) p => a.circMoved s.coreId p) s
      let c := { s0.core with
        ports := s0.core.ports.filter (fun e => e.2.owner ≠ some u)
        resv := s0.core.resv.map (fun (r : Reservation) => if r.owner = some u then { r with owner := none } else r) }
      let s1 := s0.putCore (c.putCtx u x.vacate)
      let p := partyOf core v
      ((s1.releaseAll u 1 [hubKey]).putCoreAt core ((s1.coreOf core).receive v x k.ports k.accs k.wslots)).acquireBy p 4 [hubKey]

/-- SCRIBE_REBALANCE (R30). -/
def execScribeRebalance (u : BitVec 2) (core : BitVec 9) (v : BitVec 2) (s : State) : Host.Outcome State Fault Refusal :=
  .next (s.rebalance (uCtx u.toNat) core.toNat (uCtx v.toNat))

end Sys2Proof.Machine
end

