-- ==== Sys2Proof/Machine/Platform.lean ====
section
/-! DEFINITION. The host interface, the management block, firmware, attestation, thermal control and the resets (R504 to R532). -/

namespace Sys2Proof.Machine

/-! ## Virtual functions and the aperture (R505, R506) -/

/-- The binding entry of a virtual function. -/
def State.vfEntry (s : State) (v : Nat) : Word := SMap.get 0 s.hub.vfs v
/-- EN, EVEC, ASIDN and ASIDBASE. -/
def vfEn (w : Word) : Bool := bit w 31
def vfEvec (w : Word) : Nat := bits w 42 32
def vfAsidN (w : Word) : Nat := bits w 27 18
def vfAsidBase (w : Word) : Nat := bits w 8 0

/-- A PF write of a binding entry; one with ASIDBASE + ASIDN above 512 is dropped. -/
def State.writeVf (s : State) (v : Nat) (w : Word) : State :=
  if 512 < vfAsidBase w + vfAsidN w then s
  else { s with hub := { s.hub with vfs := SMap.set 0 s.hub.vfs v (w &&& 0x7FF8FFC01FF#64) } }

/-- VF_BINDING_WRITE (R505). -/
def execVfBindingWrite (vf : BitVec 8) (value : BitVec 64) (s : State) : Host.Outcome State Fault Refusal := .next (s.writeVf vf.toNat value)

/-- The bytes that the host's read returns. -/
def State.toHost (s : State) (bs : List Byte) : State := { s with hub := { s.hub with hostRead := bs } }

/-- n bytes of all ones. -/
def allOnes (n : Nat) : List Byte := List.replicate n 0xFF

/-- A VF's read of its aperture (R506). -/
def State.apertureRead (s : State) (v off n : Nat) : State :=
  let e := s.vfEntry v
  if !vfEn e then s.toHost (allOnes n)
  else
    match hubParts s (BitVec.ofNat 9 (vfAsidBase e)) false .read off n with
    | .error _ => (s.toHost (allOnes n)).raiseMsix v (vfEvec e)
    | .ok ps => (s.seeParts ps).toHost (readParts s ps)

/-- APERTURE_READ (R506). -/
def execApertureRead (vf : BitVec 8) (off : BitVec 36) (n : Nat) (s : State) : Host.Outcome State Fault Refusal :=
  .next (s.apertureRead vf.toNat off.toNat n)

/-- A VF's write of its aperture (R506). -/
def State.apertureWrite (s : State) (v off : Nat) (bs : List Byte) : State :=
  let e := s.vfEntry v
  if !vfEn e then s
  else
    match hubParts s (BitVec.ofNat 9 (vfAsidBase e)) false .write off bs.length with
    | .error _ => s.raiseMsix v (vfEvec e)
    | .ok ps => storeSeen s false ps bs

/-- APERTURE_WRITE (R506). -/
def execApertureWrite (vf : BitVec 8) (off : BitVec 36) (data : List (BitVec 8)) (s : State) : Host.Outcome State Fault Refusal :=
  .next (s.apertureWrite vf.toNat off.toNat data)

/-! ## Device-physical accesses (R504, R515, R516) -/

/-- The parts of an access by DPA: one for each frame, or none when a frame or a line cannot be reached. -/
def dpaParts (fuel : Nat) (s : State) (read : Bool) (a n : Nat) : Option (List Part) :=
  match fuel with
  | 0 => some []
  | f + 1 =>
    if n = 0 then some []
    else
      let l := min n (4096 - a % 4096)
      if 2 ^ 40 < a + l || (frameFaults s read a a l).isSome then none
      else (dpaParts f s read (a + l) (n - l)).map (fun ps => ⟨a, l, 0⟩ :: ps)

/-- A PF access to DPA o (R504): a read that reaches no storage returns all ones, such a write is dropped. -/
def State.pfAccess (s : State) (a n : Nat) (data : Option (List Byte)) : State :=
  match data with
  | none =>
    match dpaParts (n / 4096 + 2) s true a n with
    | none => s.toHost (allOnes n)
    | some ps => (s.seeParts ps).toHost (readParts s ps)
  | some bs =>
    match dpaParts (bs.length / 4096 + 2) s false a bs.length with
    | none => s
    | some ps => storeSeen s false ps bs

/-- PF_BAR2_ACCESS (R504). -/
def execPfBar2Access (off : BitVec 40) (n : Nat) (data : Option (List (BitVec 8))) (s : State) : Host.Outcome State Fault Refusal :=
  .next (s.pfAccess off.toNat n data)

/-- A symbol sent to the peer of a link. -/
def State.toPeer (s : State) (link : Nat) (x : CircuitSymbol) : State := { s with hub := { s.hub with peerOut := s.hub.peerOut ++ [(link, .reply x)] } }

/-- Window traffic of a peer (R515, R516): bytes read travel back over the link; an access to another frame is refused, which the sender is told. -/
def State.peerAccess (s : State) (link a n : Nat) (data : Option (List Byte)) : State :=
  match data with
  | none =>
    match dpaParts (n / 4096 + 2) s true a n with
    | none => s.toPeer link .refused
    | some ps => (s.seeParts ps).toPeer link (.beat (readParts s ps) [])
  | some bs =>
    match dpaParts (bs.length / 4096 + 2) s false a bs.length with
    | none => s.toPeer link .refused
    | some ps => storeSeen s false ps bs

/-- PEER_WINDOW_ACCESS (R516). -/
def execPeerWindowAccess (link : BitVec 4) (dpa : BitVec 40) (n : Nat) (data : Option (List (BitVec 8))) (s : State) : Host.Outcome State Fault Refusal :=
  .next (s.peerAccess link.toNat dpa.toNat n data)

/-! ## Measurement and the K boot block (R509, R522) -/

/-- The bytes of M as it is extended and reported. -/
def measureBytes (m : BitVec 384) : List Byte := leBytes 48 m.toNat

/-- M := SHA-384(M ‖ digest); the digest's bytes. -/
def extend (m : BitVec 384) (digest : List Byte) : BitVec 384 := BitVec.ofNat 384 (leNat (sha384 (measureBytes m ++ digest)))

/-- The bytes of the K boot block. -/
def Hub.kboot (h : Hub) : List Byte := (List.range 16448).map (fun i => SMap.get 0 h.kblock i)

/-- Word i of entry k of a K boot block. -/
def kbootWord (b : List Byte) (k i : Nat) : Word := BitVec.ofNat 64 (imgNat b (0x40 + 32 * k + 8 * i) 8)

/-- A reserved bit of entry k is set. -/
def kbootReserved (b : List Byte) (k : Nat) : Bool :=
  let w := kbootWord b k
  bits (w 0) 63 48 ≠ 0 || bits (w 0) 2 0 ≠ 0 || bits (w 2) 63 9 ≠ 0 || bits (w 3) 63 40 ≠ 0 || bits (w 3) 11 1 ≠ 0

/-- The roots that the entries name, with their ASIDs. -/
def kbootRoots (b : List Byte) : List (Word × Word) :=
  (List.range 512).filterMap (fun k => let w := kbootWord b k; if bit (w 3) 0 then some (w 2, w 3) else none)

/-- Two entries give one ASID different roots. -/
def rootsClash : List (Word × Word) → Bool
  | [] => false
  | e :: t => t.any (fun x => x.1 = e.1 && x.2 ≠ e.2) || rootsClash t

/-- ERR of a K boot block. -/
def kbootErrOf (b : List Byte) : BitVec 8 :=
  if imgNat b 0 4 ≠ 0x4B420001 || imgNat b 4 4 ≠ 512 then 1
  else if imgNat b 8 56 ≠ 0 || (List.range 512).any (kbootReserved b) then 2
  else if rootsClash (kbootRoots b) then 3
  else 0

/-- The registers of a core as its entry gives them. -/
def Core.boot (c : Core) (b : List Byte) (k : Nat) : Core :=
  { c with kvbr := kbootWord b k 0, kscratch := kbootWord b k 1, asid := (kbootWord b k 2).setWidth 9 }

/-- KBOOT_GO (R509). -/
def State.kbootGo (s : State) : State :=
  let b := s.hub.kboot
  let e := kbootErrOf b
  if s.hub.stage ≠ 4 then s
  else if e ≠ 0 then { s with hub := { s.hub with kbootErr := e, kbootGo := false } }
  else
    let t := (List.range 512).foldl (fun (a : State) k => a.putCoreAt k ((a.coreOf k).boot b k)) s
    let t1 := (kbootRoots b).foldl (fun (a : State) r => a.setRoot (r.1.setWidth 9) r.2) t
    { t1 with hub := { t1.hub with kbootErr := 0, kbootDone := true, kbootGo := true, stage := 5, measure := extend t1.hub.measure (sha384 b) } }

/-- KBOOT_GO (R509). -/
def execKbootGo (s : State) : Host.Outcome State Fault Refusal := .next s.kbootGo

/-! ## Firmware (R510, R518 to R521) -/

/-- A firmware slot. -/
def Hub.slot (h : Hub) (k : Nat) : FwSlot := SMap.get FwSlot.reset h.fw k

/-- The image that a slot holds: the one installed, or the one it left the factory with (log entry 2). -/
def Hub.installed (h : Hub) (k : Nat) : FwImage :=
  match (h.slot k).image with
  | some i => i
  | none => ⟨Config.factoryHead k, Config.factoryBody k⟩

/-- SVN, COMMIT, and the SHA-384 of header and body of an image (R519, R522). -/
def FwImage.svn (i : FwImage) : BitVec 6 := BitVec.ofNat 6 (imgNat i.head 5 1)
def FwImage.commit (i : FwImage) : Bool := imgNat i.head 6 1 % 2 = 1
def FwImage.digest (i : FwImage) : List Byte := sha384 (i.head ++ i.body)

/-- The first check of R520 for slot k, over the header and with the length of the body. -/
def fwHeaderOk (h : List Byte) (k : Nat) : Bool :=
  let len := imgNat h 8 4
  imgNat h 0 4 = 0x57464357 && imgNat h 4 1 = k && decide (imgNat h 5 1 < 64) && decide (imgNat h 6 1 < 2) && imgNat h 7 1 = 0
    && decide (0 < len) && len % 4 = 0 && decide (len ≤ 2 ^ 24) && decide (imgNat h 12 4 < len)
    && imgNat h 0x40 64 = 0 && imgNat h 0xDAD 595 = 0

/-- The number of the first check of R520 that an image fails, 0 when it passes. -/
def fwCheck (fuse : BitVec 6) (i : FwImage) (k : Nat) : BitVec 8 :=
  let h := i.head
  if !fwHeaderOk h k then 1
  else if decide (sha384 i.body = (h.drop 16).take 48) = false then 2
  else if !Config.ed25519Verify (h.take 128) ((h.drop 0x80).take 64) then 3
  else if !Config.mldsaVerify (h.take 128) ((h.drop 0xC0).take 3309) then 4
  else if imgNat h 5 1 < fuse.toNat then 5
  else 0

/-- FWSLOT_GO (R510): the staged image is copied and its check begins. -/
def State.fwslotGo (s : State) (k : Nat) : State :=
  let x := s.hub.slot k
  if 3 ≤ k || x.found.isSome then s
  else
    let a := x.src.toNat * 4096
    let h := s.bytesAt a 4096
    let i : FwImage := ⟨h, s.bytesAt (a + 4096) (min (imgNat h 8 4) (2 ^ 24))⟩
    { s with hub := { s.hub with fw := SMap.set FwSlot.reset s.hub.fw k { x with found := some (fwCheck s.hub.fuse i k, i) } } }

/-- FWSLOT_GO (R510). -/
def execFwslotGo (k : BitVec 2) (s : State) : Host.Outcome State Fault Refusal := .next (s.fwslotGo k.toNat)

/-- FIRMWARE_CHECK_DONE (R520): the image is installed or refused. -/
def State.fwDone (s : State) (k : Nat) : State :=
  let x := s.hub.slot k
  match x.found with
  | none => s
  | some (e, i) =>
    let y := { x with status := e, found := none, image := if e = 0 then some i else x.image }
    { s with hub := { s.hub with fw := SMap.set FwSlot.reset s.hub.fw k y } }

/-- FIRMWARE_CHECK_DONE (R520). -/
def execFirmwareCheckDone (k : BitVec 2) (s : State) : Host.Outcome State Fault Refusal := .next (s.fwDone k.toNat)

/-! ## The doorbell to cores, attestation, the die blocks (R511 to R513, R525, R528) -/

/-- A PF write of KDOOR (R511). -/
def State.kdoor (s : State) (w : Word) : State :=
  let n := bits w 15 0
  let st : Nat := if 512 ≤ n || (s.coreOf n).halted then 2 else if (s.coreOf n).irqRoom then 0 else 1
  let t : State := { s with hub := { s.hub with kdoorst := BitVec.ofNat 64 st } }
  if st = 0 then t.putCoreAt n ((t.coreOf n).queueIrq ⟨0x05, BitVec.ofNat 64 (bits w 31 16), 0⟩) else t

/-- KDOOR_WRITE (R511). -/
def execKdoorWrite (value : BitVec 64) (s : State) : Host.Outcome State Fault Refusal := .next (s.kdoor value)

/-- GO of attestation (R512). -/
def State.attest (s : State) : State := { s with hub := { s.hub with attestGo := true, attestDone := false } }

/-- ATTESTATION_GO (R512). -/
def execAttestationGo (s : State) : Host.Outcome State Fault Refusal := .next s.attest

/-- Bytes 0x000 to 0x07F of the report. -/
def Hub.reportHead (h : Hub) : List Byte :=
  measureBytes h.measure ++ leBytes 8 h.fuse.toNat ++ (List.range 32).map (fun i => SMap.get 0 h.nonce i)
    ++ leBytes 16 Config.serialNumber.toNat ++ List.replicate 24 0

/-- ATTESTATION_DONE (R522): the signed report is complete, of a security processor that runs (R518). -/
def State.attested (s : State) : State :=
  if !s.hub.attestGo || s.hub.spst ≠ 0 then s
  else
    let m := s.hub.reportHead
    let all := m ++ (List.range 64).map (Config.ed25519Sign m) ++ (List.range 3309).map (Config.mldsaSign m)
    { s with hub := { s.hub with attestGo := false, attestDone := true, report := (numbered all).filter (fun e => e.2 ≠ 0) } }

/-- ATTESTATION_DONE (R522). -/
def execAttestationDone (s : State) : Host.Outcome State Fault Refusal := .next s.attested

/-- A write of MCTL: 1 in FRZ unfreezes the recorder (R528). -/
def State.writeMctl (s : State) (d : Nat) (w : Word) : State := if bit w 31 then s.putDie d { s.die d with frz := false } else s

/-- MCTL_WRITE (R528). -/
def execMctlWrite (die : BitVec 3) (value : BitVec 64) (s : State) : Host.Outcome State Fault Refusal := .next (s.writeMctl die.toNat value)

/-- A write of a copy-trace ring's control word, its reserved bits clear (R525). -/
def State.writeTrace (s : State) (n : Nat) (w : Word) : State := s.putCoreAt n { s.coreOf n with traceCtl := w &&& 0xFFFFFFF07D#64 }

/-- COPY_TRACE_CONTROL_WRITE (R525). -/
def execCopyTraceControlWrite (core : BitVec 9) (value : BitVec 64) (s : State) : Host.Outcome State Fault Refusal := .next (s.writeTrace core.toNat value)

/-! ## Writes of the management block (R477, R504, R508, R515) -/

/-- Bytes written at a place of a block held as sparse bytes. -/
def putBlock (m : SMap Byte) (off : Nat) (w : Word) : SMap Byte :=
  (numbered (leBytes 8 w.toNat)).foldl (fun a e => SMap.set 0 a (off + e.1) e.2) m

/-- The function of a queue owns an ASID. -/
def State.asidAllowed (s : State) (q a : Nat) : Bool :=
  let e := s.vfEntry (q / 16)
  decide (vfAsidBase e ≤ a) && decide (a < vfAsidBase e + vfAsidN e)

/-- A PF write of 8 bytes of a queue's table entry (R477, R505). -/
def State.writeQueue (s : State) (q off : Nat) (w : Word) : State :=
  let x := s.queue q
  if off = 0 then (if x.state = 3 then s else s.putQueue q { x with wptr := w.extractLsb' 32 32 })
  else if off = 8 then (if s.asidAllowed q (bits w 8 0) then s.putQueue q { x with asid := w.extractLsb' 0 9, msix := w.extractLsb' 21 11 } else s)
  else if off = 32 then
    let t := if x.state = 0 then s.putQueue q { x with base := w.extractLsb' 12 36, log2 := w.extractLsb' 0 5 } else s
    t.writeQueueState q (w.extractLsb' 8 2)
  else s

/-- A PF write of half of a Relfel window entry, its reserved bits clear (R515). -/
def State.writeWindow (s : State) (i : Nat) (hi : Bool) (w : Word) : State :=
  let old := SMap.get 0 s.hub.relfel i
  let new := if hi then (w ++ old.extractLsb' 0 64 : BitVec 128) else (old.extractLsb' 64 64 ++ w : BitVec 128)
  { s with hub := { s.hub with relfel := SMap.set 0 s.hub.relfel i (new &&& 0x000000000FFFFFFFFFFFFFF000FF0007#128) } }

/-- The staged source of a firmware slot, or its GO (R510). -/
def State.writeFwslot (s : State) (k word : Nat) (w : Word) : State :=
  if word = 0 then { s with hub := { s.hub with fw := SMap.set FwSlot.reset s.hub.fw k { s.hub.slot k with src := w.extractLsb' 12 28 } } }
  else if word = 1 && bit w 0 then s.fwslotGo k
  else s

/-- A PF write of 8 bytes of BAR0. What is not a register that the host may write is not changed. -/
def State.hostWrite (s : State) (off : Nat) (w : Word) : State :=
  if off % 8 ≠ 0 then s
  else if 0x100 ≤ off && off < 0x160 then s.writeFwslot ((off - 0x100) / 32) ((off - 0x100) % 32 / 8) w
  else if off = 0x200 then (if bit w 0 then s.kbootGo else s)
  else if off = 0x300 then s.kdoor w
  else if 0x4000 ≤ off && off < 0x8040 then { s with hub := { s.hub with kblock := putBlock s.hub.kblock (off - 0x4000) w } }
  else if 0x10000 ≤ off && off < 0x10800 then s.writeVf ((off - 0x10000) / 8) w
  else if 0x20000 ≤ off && off < 0x60000 then s.writeQueue ((off - 0x20000) / 64) ((off - 0x20000) % 64) w
  else if 0x60000 ≤ off && off < 0x61000 then s.writeWindow ((off - 0x60000) / 16) ((off - 0x60000) % 16 = 8) w
  else if 0x70000 ≤ off && off < 0x70020 then { s with hub := { s.hub with nonce := putBlock s.hub.nonce (off - 0x70000) w } }
  else if off = 0x70020 then (if bit w 0 then s.attest else s)
  else if 0x800000 ≤ off then
    let d := (off - 0x800000) / 0x100000
    let o := off % 0x100000
    if 8 ≤ d then s
    else if o = 0x20000 then s.writeMctl d w
    else if 0x30000 ≤ o && o < 0x30400 && o % 16 = 0 then s.writeTrace (64 * d + (o - 0x30000) / 16) w
    else s
  else s

/-- HOST_REGISTER_WRITE (R504). -/
def execHostRegisterWrite (off : BitVec 24) (value : BitVec 64) (s : State) : Host.Outcome State Fault Refusal := .next (s.hostWrite off.toNat value)

/-! ## What the host reads of the BAR0s (R477, R504, R505, R508 to R515, R524 to R528)

What is no register, and a register that is only written, reads 0. -/

/-- BOOTST (R508). -/
def Hub.bootst (h : Hub) : Word := BitVec.ofNat 64 (h.scrst.toNat * 2 ^ 16 + h.fest.toNat * 2 ^ 12 + h.spst.toNat * 2 ^ 8 + h.stage.toNat)

/-- KBOOT (R509). -/
def Hub.kbootWord (h : Hub) : Word := BitVec.ofNat 64 (h.kbootErr.toNat * 2 ^ 16 + h.kbootDone.toNat * 2 ^ 8 + h.kbootGo.toNat)

/-- A word of FWSLOT k (R510). -/
def Hub.fwWord (h : Hub) (k i : Nat) : Word :=
  let x := h.slot k
  if i = 0 then BitVec.ofNat 64 (x.src.toNat * 4096)
  else if i = 1 then BitVec.ofNat 64 ((h.installed k).svn.toNat * 2 ^ 16 + x.status.toNat * 2 ^ 8 + x.found.isSome.toNat * 2)
  else 0

/-- 8 bytes of a block held as sparse bytes. -/
def blockWord (m : SMap Byte) (off : Nat) : Word := BitVec.ofNat 64 (leNat ((List.range 8).map (fun i => SMap.get 0 m (off + i))))

/-- A word of a queue's table entry (R477). -/
def Queue.word (x : Queue) (i : Nat) : Word :=
  match i with
  | 0 => BitVec.ofNat 64 (x.wptr.toNat * 2 ^ 32 + x.rptr.toNat)
  | 1 => BitVec.ofNat 64 (x.err.toNat * 2 ^ 32 + x.msix.toNat * 2 ^ 21 + x.asid.toNat)
  | 4 => BitVec.ofNat 64 (x.base.toNat * 2 ^ 12 + x.state.toNat * 2 ^ 8 + x.log2.toNat)
  | _ => 0

/-- 8 bytes of a snapshot set, held as its words (R513, R524). -/
def snapWord (l : List (BitVec 32)) (i : Nat) : Word := (l.getD (2 * i + 1) 0 ++ l.getD (2 * i) 0 : BitVec 64)

/-- 8 bytes of the block of die d (R513, R525, R526, R528, R531, R532). -/
def State.dieWord (s : State) (d off : Nat) : Word :=
  let x := s.die d
  if off < 0x20000 then (SMap.get 0 x.margin (off / 32)).extractLsb' (off % 32 * 8) 64
  else if off = 0x20000 then BitVec.ofNat 64 (x.frz.toNat * 2 ^ 31 + x.mwptr.toNat)
  else if off = 0x20100 then BitVec.ofNat 64 (x.trip.toNat * 2 ^ 8 + x.gate.toNat)
  else if 0x30000 ≤ off && off < 0x30400 then
    let c := s.coreOf (64 * d + (off - 0x30000) / 16)
    if off % 16 = 0 then c.traceCtl else c.traceWptr
  else if 0x40000 ≤ off && off < 0x60000 then
    let o := off - 0x40000
    snapWord (SMap.get [] (s.coreOf (64 * d + o / 2048)).snaps (o % 2048 / 64)) (o % 64 / 8)
  else 0

/-- The 8 bytes at an offset of the PF's BAR0 (R504). -/
def State.pfWord (s : State) (off : Nat) : Word :=
  let h := s.hub
  if off % 8 ≠ 0 then 0
  else if off = 0 then h.bootst
  else if off = 8 then h.fuse.setWidth 64
  else if 0x100 ≤ off && off < 0x160 then h.fwWord ((off - 0x100) / 32) ((off - 0x100) % 32 / 8)
  else if off = 0x200 then h.kbootWord
  else if off = 0x308 then h.kdoorst
  else if 0x4000 ≤ off && off < 0x8040 then blockWord h.kblock (off - 0x4000)
  else if 0x10000 ≤ off && off < 0x10800 then s.vfEntry ((off - 0x10000) / 8)
  else if 0x20000 ≤ off && off < 0x60000 then (s.queue ((off - 0x20000) / 64)).word ((off - 0x20000) % 64 / 8)
  else if 0x60000 ≤ off && off < 0x61000 then (SMap.get 0 h.relfel ((off - 0x60000) / 16)).extractLsb' ((off - 0x60000) % 16 * 8) 64
  else if 0x70000 ≤ off && off < 0x70020 then blockWord h.nonce (off - 0x70000)
  else if off = 0x70020 then BitVec.ofNat 64 (h.attestDone.toNat * 2 ^ 8 + h.attestGo.toNat)
  else if 0x71000 ≤ off && off < 0x72000 then blockWord h.report (off - 0x71000)
  else if 0x800000 ≤ off then s.dieWord ((off - 0x800000) / 0x100000) (off % 0x100000)
  else 0

/-- The 4 bytes at an offset of a virtual function's BAR0: RPTR and STATE of the queue of the page; all ones of a function that is not enabled (R504, R505). -/
def State.vfBytes (s : State) (v off : Nat) : List Byte :=
  let x := s.queue (16 * v + off / 4096)
  if !vfEn (s.vfEntry v) then allOnes 4
  else if off % 4096 = 4 then leBytes 4 x.rptr.toNat
  else if off % 4096 = 8 then leBytes 4 x.state.toNat
  else leBytes 4 0

/-! ## Cooling and errors (R529, R531, R532) -/

/-- THERMAL_GATING_CHANGE (R531). -/
def execThermalGatingChange (die : BitVec 3) (gate : BitVec 7) (s : State) : Host.Outcome State Fault Refusal :=
  .next (s.putDie die.toNat { s.die die.toNat with gate := if 64 < gate.toNat then 64 else gate })

/-- A region has a core on a die. -/
def onDie (r : Rcb) (d : Nat) : Bool := decide (r.base < 64 * d + 64) && decide (64 * d < r.base + r.cores)

/-- THERMAL_TRIP (R532). -/
def State.thermalTrip (s : State) (d : Nat) : State :=
  if (s.die d).gate ≠ 64 then s
  else
    let t := s.hub.regions.foldl (fun (a : State) e =>
      match e.2 with
      | some r => if r.state ≠ 0 && r.state ≠ 3 && onDie (a.rcb r.asid r.rcbVa.toNat) d then a.drainRegion e.1 none else a
      | none => a) s
    let t1 := t.putDie d { t.die d with trip := true, noBind := true }
    t1.margin d 0x09 0 0 0 0x1FF 15 true

/-- THERMAL_TRIP (R532). -/
def execThermalTrip (die : BitVec 3) (s : State) : Host.Outcome State Fault Refusal := .next (s.thermalTrip die.toNat)

/-- The cut that is saving its context. -/
def Core.saving (c : Core) : Option Cut := c.cut.filter (fun k => k.taken)

/-- UNCORRECTABLE_CORE_ERROR: the core halts; no cause code names this error (R529). While a cut saves its context the error lies on what is saved, and drains the context's fault domain instead (R334). -/
def execUncorrectableCoreError (s : State) : Host.Outcome State Fault Refusal :=
  match s.core.saving with
  | some k => .next ((s.abortCut k.ctx).drainDomain k.ctx k.area.toNat)
  | none => .next (s.halt 0 s.core.kepc s.core.kaux1)

/-! ## Resets (R521, R530) -/

/-- The result of the boot's check of a processor's image (R520). -/
def Hub.bootCheck (h : Hub) (k : Nat) : BitVec 8 := fwCheck h.fuse (h.installed k) k

/-- The result stands in the slot's status byte. -/
def Hub.noteCheck (h : Hub) (k : Nat) (e : BitVec 8) : Hub := { h with fw := SMap.set FwSlot.reset h.fw k { h.slot k with status := e } }

/-- The fuse counter after a boot in which every image passed (R521). -/
def Hub.burn (h : Hub) : BitVec 6 :=
  (List.range 3).foldl (fun f k => let i := h.installed k; if i.commit && f.toNat < i.svn.toNat then i.svn else f) h.fuse

/-- Measuring the image of a processor. -/
def Hub.measureImage (h : Hub) (k : Nat) : Hub := { h with measure := extend h.measure (h.installed k).digest }

/-- The boot ROM's step: the security processor's image is checked, measured and started (R520, R522). -/
def Hub.bootRom (h : Hub) : Hub :=
  let e := h.bootCheck 0
  let t := { h with spst := e.setWidth 4 }.noteCheck 0 e
  if e = 0 then { t.measureImage 0 with stage := 1 } else { t with stage := 6 }

/-- The security processor's step: the images of the front end and of the Scribe are checked, those that pass are measured and started; when both pass the fuse counter advances (R518, R520 to R522). -/
def Hub.bootImages (h : Hub) : Hub :=
  let fe := h.bootCheck 1
  let sc := h.bootCheck 2
  let t := ({ h with fest := fe.setWidth 4, scrst := sc.setWidth 4, scribeUp := decide (sc = 0) }.noteCheck 1 fe).noteCheck 2 sc
  let t1 := if fe = 0 then t.measureImage 1 else t
  let t2 := if sc = 0 then t1.measureImage 2 else t1
  if fe = 0 && sc = 0 then { t2 with fuse := t2.burn, stage := 2 } else { t2 with stage := 6 }

/-- The next step of the boot up to the wait for the K boot block (R508, R530): the two above, then DRAM is ready, then the link is trained. -/
def Hub.boot (h : Hub) : Hub :=
  match h.stage.toNat with
  | 0 => h.bootRom
  | 1 => h.bootImages
  | 2 => { h with stage := 3 }
  | 3 => { h with stage := 4 }
  | _ => h

/-- The firmware slots keep their images over a reset. -/
def keepImages (m : SMap FwSlot) : SMap FwSlot :=
  (List.range 3).foldl (fun a k => SMap.set FwSlot.reset a k { FwSlot.reset with image := (SMap.get FwSlot.reset m k).image }) []

/-- A step of the boot. -/
def State.powerUp (s : State) : State := { s with hub := s.hub.boot }

/-- COLD_RESET (R530): everything at its reset value, but for the firmware images and the fuse counter; the boot follows. -/
def State.coldReset (s : State) : State :=
  { State.reset with
    hub := { Hub.reset with fw := keepImages s.hub.fw, fuse := s.hub.fuse }
    agenda := s.agenda
    free := s.free }

/-- COLD_RESET (R530). -/
def execColdReset (s : State) : Host.Outcome State Fault Refusal := .next s.coldReset

/-- What a warm reset leaves of a die: its storage, its metadata, its controller and its Margin recorder. -/
def Die.warm (d : Die) : Die := { d with l1 := [], copies := [], tlb := [], held := [], bind := [], refused := [], trip := false, noBind := false }

/-- A core after a warm reset: CYCLE and the skip counter count from cold reset. -/
def Core.warm (c : Core) : Core := { Core.reset with cycle := c.cycle, skipCount := c.skipCount }

/-- WARM_RESET (R530); the boot follows. -/
def State.warmReset (s : State) : State :=
  let t := s.mapCores (fun _ c => c.warm)
  { t with
    dies := t.dies.map (fun e => (e.1, e.2.warm))
    hub := { Hub.reset with fw := keepImages s.hub.fw, fuse := s.hub.fuse, cycle := s.hub.cycle, saves := s.hub.saves, nextSave := s.hub.nextSave, msix := s.hub.msix, prods := s.hub.prods }
    unseen := [] }

/-- WARM_RESET (R530). -/
def execWarmReset (s : State) : Host.Outcome State Fault Refusal := .next s.warmReset

end Sys2Proof.Machine
end

