-- ==== Sys2Proof/Machine/Fetch.lean ====
section
/-! DEFINITION. Fetching an instruction: the instruction cache, the walk for execute, and the faults of R55. -/

namespace Sys2Proof.Machine

/-- The expansion the instruction cache holds for an address (R57). -/
def cachedCode (s : State) (va : Nat) : Option CachedCode :=
  s.core.icache.find? (fun e => e.asid = s.curAsid && e.kLevel = s.kLevel && e.va = va)

/-- The fault of a failing byte of a fetch: KAUX1 the byte, KAUX0[7:0] the reason, KAUX0[16] SPLIT (R55). R58 gives SPLIT for IFETCH; that a BALLOON_ACCESS or MEM_UNCORRECTABLE of a fetch sets it too is the model's choice (log entry 53). -/
def ifetchTrap (f : Flt) (pc : Nat) : TrapInfo :=
  let split := decide (f.addr / 4096 ≠ pc / 4096)
  trapInfo f.cause (BitVec.ofNat 64 (f.sub + if split then 65536 else 0)) (BitVec.ofNat 64 f.addr)

/-- The bytes of the instruction at an address: the expansion the cache holds, or the bytes read with execute permission, which then enter the cache (R51, R55, R57).
An error is the trap and the ILEN it reports (log entry 7). Bits [63:48] of the address take no part in the walk: the manual names no fault of a fetch beyond 2^48 - 1 (log entry 53). -/
def fetch (s : State) : Except (TrapInfo × Nat) (List Byte × State) :=
  let pc := s.ctx.pc.toNat
  match cachedCode s pc with
  | some e => .ok (e.bytes, s)
  | none =>
    match accessParts s s.curAsid s.kLevel .fetch pc 1 with
    | .error f => .error (ifetchTrap f pc, 0)
    | .ok (p1, s1) =>
      let n := ((readParts s1 p1).headD 0 |> formOf).bytes
      match accessParts s1 s.curAsid s.kLevel .fetch pc n with
      | .error f => .error (ifetchTrap f pc, n)
      | .ok (ps, s2) =>
        let bs := readParts s2 ps
        .ok (bs, { s2 with core := { s2.core with icache := ⟨s.curAsid, s.kLevel, pc, bs⟩ :: s2.core.icache } })

/-- The trap of a decode fault (R58). -/
def decodeTrap (e : DecodeError) : TrapInfo :=
  match e with
  | .illegalOp sub => trapSub cIllegalOp (BitVec.ofNat 64 sub)
  | .illegalField sub detail => trapSub cIllegalField (BitVec.ofNat 64 (sub + 256 * detail))
  | .truncated => trapSub cIllegalOp 0

/-- RESERVED_OPCODE (R67): a reserved major opcode or an unassigned Scroll subfunction raises ILLEGAL_OP with its subcode. -/
def execReservedOpcode (o : Ops) (_op sub : BitVec 8) (s : State) : Host.Outcome State Fault Refusal :=
  if s.core.halted then .fault .coreHalted
  else finish o (.trap (trapSub cIllegalOp (sub.setWidth 64)) s)

end Sys2Proof.Machine
end

