-- ==== Sys2Proof/Machine/Issue.lean ====
section
/-! DEFINITION. Issue: what an opcode and its canonical fields do, and the decode faults that come first (R66 to R71). -/

namespace Sys2Proof.Machine

/-- Issue of the rows of opcodes 0x00 to 0x0F, split by the qualifier or the modifier where the opcode map splits them. -/
def issue0 (lo q _m : Nat) (o : Ops) (s : State) : Option (Host.Outcome State Fault Refusal) :=
  match lo with
  | 0 => some (execNop o s)
  | 1 => some (execMov o s)
  | 2 => if q = 0 then some (execMovi o s) else if q = 1 then some (execMoviHi o s) else none
  | 3 => some (execAdd o s)
  | 4 => some (execSub o s)
  | 5 => some (execAddi o s)
  | 6 => some (execMul o s)
  | 7 => some (execMulh o s)
  | 8 => some (execMulhu o s)
  | 9 => some (execDiv o s)
  | 10 => some (execDivu o s)
  | 11 => some (execRem o s)
  | 12 => some (execRemu o s)
  | 13 => some (execAnd o s)
  | 14 => some (execOr o s)
  | 15 => some (execXor o s)
  | _ => none

/-- Issue of the rows of opcodes 0x10 to 0x1F, split by the qualifier or the modifier where the opcode map splits them. -/
def issue1 (lo _q _m : Nat) (o : Ops) (s : State) : Option (Host.Outcome State Fault Refusal) :=
  match lo with
  | 0 => some (execAndi o s)
  | 1 => some (execOri o s)
  | 2 => some (execXori o s)
  | 3 => some (execShl o s)
  | 4 => some (execShr o s)
  | 5 => some (execSra o s)
  | 6 => some (execShli o s)
  | 7 => some (execShri o s)
  | 8 => some (execSrai o s)
  | 9 => some (execRol o s)
  | 10 => some (execSlt o s)
  | 11 => some (execSltu o s)
  | 12 => some (execSlti o s)
  | 13 => some (execMin o s)
  | 14 => some (execMax o s)
  | 15 => some (execMinu o s)
  | _ => none

/-- Issue of the rows of opcodes 0x20 to 0x2F, split by the qualifier or the modifier where the opcode map splits them. -/
def issue2 (lo _q _m : Nat) (o : Ops) (s : State) : Option (Host.Outcome State Fault Refusal) :=
  match lo with
  | 0 => some (execMaxu o s)
  | 1 => some (execClz o s)
  | 2 => some (execCtz o s)
  | 3 => some (execPopc o s)
  | 4 => some (execBswap o s)
  | 5 => some (execExt o s)
  | 6 => some (execIns o s)
  | 7 => some (execSext o s)
  | 8 => some (execLea o s)
  | 9 => some (execCmpp o s)
  | 10 => some (execBeq o s)
  | 11 => some (execBne o s)
  | 12 => some (execBlt o s)
  | 13 => some (execBge o s)
  | 14 => some (execBltu o s)
  | 15 => some (execBgeu o s)
  | _ => none

/-- Issue of the rows of opcodes 0x30 to 0x3F, split by the qualifier or the modifier where the opcode map splits them. -/
def issue3 (lo q m : Nat) (o : Ops) (s : State) : Option (Host.Outcome State Fault Refusal) :=
  match lo with
  | 0 => some (execJmp o s)
  | 1 => some (execJr o s)
  | 2 => some (execCall o s)
  | 3 => some (execRet o s)
  | 4 => some (execSel o s)
  | 5 => some (execPlog o s)
  | 6 => if m = 0 then some (execPmov o s) else if m = 1 then some (execPmovFrom o s) else if m = 2 then some (execPmovTo o s) else none
  | 7 => some (execMfc o s)
  | 8 => some (execMtc o s)
  | 9 => if q = 0 then some (execBudget o s) else if q = 1 then some (execBudgetSet o s) else none
  | 10 => some (execAend o s)
  | 11 => some (execFadd o s)
  | 12 => some (execFmul o s)
  | 13 => some (execFdiv o s)
  | 14 => if m = 0 then some (execFcvtF2i o s) else if m = 1 then some (execFcvtI2f o s) else if m = 2 then some (execFcvtU2f o s) else if m = 3 then some (execFcvtF2bf o s) else if m = 4 then some (execFcvtBf2f o s) else if m = 5 then some (execFcvtF2h o s) else if m = 6 then some (execFcvtH2f o s) else if m = 7 then some (execFcvtF2e4 o s) else if m = 8 then some (execFcvtE42f o s) else none
  | 15 => some (execFcmp o s)
  | _ => none

/-- Issue of the rows of opcodes 0x40 to 0x4F, split by the qualifier or the modifier where the opcode map splits them. -/
def issue4 (lo q m : Nat) (o : Ops) (s : State) : Option (Host.Outcome State Fault Refusal) :=
  match lo with
  | 0 => some (execGpeek o s)
  | 1 => some (execGskip o s)
  | 2 => some (execGpush o s)
  | 3 => some (execGpop o s)
  | 4 => some (execGfstat o s)
  | 5 => if q = 0 then some (execGresume o s) else if q = 1 then some (execGresumeRecover o s) else none
  | 6 => some (execMarkif o s)
  | 7 => if q = 0 then some (execMarkemit o s) else if q = 1 then some (execMarkemitR o s) else none
  | 8 => some (execSigdec o s)
  | 9 => if m = 0 then some (execSigwait o s) else if m = 1 then some (execSigwaitPoll o s) else none
  | 10 => some (execSigset o s)
  | 11 => if q = 0 then some (execLigcfgTerm o s) else if q = 1 then some (execLigcfgSrc o s) else if q = 2 then some (execLigcfgTread o s) else none
  | 12 => if q = 0 then some (execLigcntRd o s) else if q = 1 then some (execLigcntSet o s) else if q = 2 then some (execLigcntSub o s) else if q = 3 then some (execLigcntClrv o s) else none
  | 13 => some (execLigfire o s)
  | 14 => if q = 0 then some (execGstate o s) else if q = 1 then some (execGstateStk o s) else none
  | 15 => some (execEvwait o s)
  | _ => none

/-- Issue of the rows of opcodes 0x50 to 0x5F, split by the qualifier or the modifier where the opcode map splits them. -/
def issue5 (lo _q _m : Nat) (o : Ops) (s : State) : Option (Host.Outcome State Fault Refusal) :=
  match lo with
  | 0 => some (execLd o s)
  | 1 => some (execSt o s)
  | 2 => some (execLdx o s)
  | 3 => some (execStx o s)
  | 4 => some (execLdv o s)
  | 5 => some (execStv o s)
  | 6 => some (execLdg o s)
  | 7 => some (execSct o s)
  | 8 => some (execSpld o s)
  | 9 => some (execSpst o s)
  | 10 => some (execSpldv o s)
  | 11 => some (execSpstv o s)
  | 12 => some (execAadd o s)
  | 13 => some (execAand o s)
  | 14 => some (execAor o s)
  | 15 => some (execAxor o s)
  | _ => none

/-- Issue of the rows of opcodes 0x60 to 0x6F, split by the qualifier or the modifier where the opcode map splits them. -/
def issue6 (lo q m : Nat) (o : Ops) (s : State) : Option (Host.Outcome State Fault Refusal) :=
  match lo with
  | 0 => some (execAmin o s)
  | 1 => some (execAmax o s)
  | 2 => some (execAminu o s)
  | 3 => some (execAmaxu o s)
  | 4 => some (execAswp o s)
  | 5 => some (execAcas o s)
  | 6 => some (execAfadd o s)
  | 7 => if m = 0 then some (execFence o s) else if m = 1 then some (execFenceAcq o s) else if m = 2 then some (execFenceRel o s) else none
  | 8 => some (execLdacq o s)
  | 9 => some (execStrel o s)
  | 10 => some (execPref o s)
  | 11 => some (execCwb o s)
  | 12 => if q = 0 then some (execCinv o s) else if q = 1 then some (execCinvI o s) else none
  | 13 => some (execLdnt o s)
  | 14 => some (execStnt o s)
  | _ => none

/-- Issue of the rows of opcodes 0x70 to 0x7F, split by the qualifier or the modifier where the opcode map splits them. -/
def issue7 (lo q _m : Nat) (o : Ops) (s : State) : Option (Host.Outcome State Fault Refusal) :=
  match lo with
  | 0 => some (execTidset o s)
  | 1 => some (execTidget o s)
  | 2 => if q = 0 then some (execTidmodBase o s) else if q = 1 then some (execTidmodSbase o s) else if q = 2 then some (execTidmodSize o s) else if q = 3 then some (execTidmodStride o s) else if q = 4 then some (execTidmodValid o s) else if q = 5 then some (execTidmodAddbase o s) else none
  | 3 => some (execTidchk o s)
  | 4 => some (execPbind o s)
  | 5 => some (execPunbind o s)
  | 6 => some (execPseek o s)
  | 7 => some (execPstat o s)
  | 8 => some (execPwin o s)
  | 9 => some (execPxform o s)
  | 10 => some (execCpy o s)
  | 11 => some (execCpys o s)
  | 12 => some (execCpyt o s)
  | 13 => some (execCpyq o s)
  | 14 => some (execCpyr o s)
  | 15 => some (execCpyw o s)
  | _ => none

/-- Issue of the rows of opcodes 0x80 to 0x8F, split by the qualifier or the modifier where the opcode map splits them. -/
def issue8 (lo _q _m : Nat) (o : Ops) (s : State) : Option (Host.Outcome State Fault Refusal) :=
  match lo with
  | 0 => some (execBarinit o s)
  | 1 => some (execBararm o s)
  | 2 => some (execBarwait o s)
  | 3 => some (execBartest o s)
  | 4 => some (execBararr o s)
  | 5 => some (execSptlook o s)
  | 6 => some (execSptins o s)
  | 7 => some (execSptevict o s)
  | 8 => some (execSptread o s)
  | 9 => some (execFeset o s)
  | 10 => some (execFeclr o s)
  | 11 => some (execFetest o s)
  | 12 => some (execPflush o s)
  | 13 => some (execCirc o s)
  | _ => none

/-- Issue of the rows of opcodes 0x90 to 0x9F, split by the qualifier or the modifier where the opcode map splits them. -/
def issue9 (lo q _m : Nat) (o : Ops) (s : State) : Option (Host.Outcome State Fault Refusal) :=
  match lo with
  | 0 => some (execMxmma o s)
  | 1 => some (execMxzero o s)
  | 2 => some (execMxldacc o s)
  | 3 => some (execMxstacc o s)
  | 4 => some (execMxwload o s)
  | 5 => if q = 0 then some (execMxwdrop o s) else if q = 1 then some (execMxwdropAll o s) else none
  | 6 => some (execMxscale o s)
  | 7 => some (execMxfmt o s)
  | 8 => if q = 0 then some (execMxchainOff o s) else if q = 1 then some (execMxchainScale o s) else if q = 2 then some (execMxchainBias o s) else if q = 3 then some (execMxchainResid o s) else if q = 4 then some (execMxchainAct o s) else if q = 5 then some (execMxchainClamp o s) else if q = 6 then some (execMxchainQnt o s) else none
  | 9 => if q = 0 then some (execMxskipOff o s) else if q = 1 then some (execMxskipOn o s) else if q = 2 then some (execMxskipRd o s) else none
  | 10 => if q = 0 then some (execMxwait o s) else if q = 1 then some (execMxwaitAll o s) else none
  | 11 => if q = 0 then some (execMxstat o s) else if q = 1 then some (execMxstatSlot o s) else if q = 2 then some (execMxstatZmask o s) else if q = 3 then some (execMxstatSkipcnt o s) else none
  | _ => none

/-- Issue of the rows of opcodes 0xA0 to 0xAF, split by the qualifier or the modifier where the opcode map splits them. -/
def issueA (lo _q _m : Nat) (o : Ops) (s : State) : Option (Host.Outcome State Fault Refusal) :=
  match lo with
  | 0 => some (execVadd o s)
  | 1 => some (execVsub o s)
  | 2 => some (execVmul o s)
  | 3 => some (execVfma o s)
  | 4 => some (execVfms o s)
  | 5 => some (execVdiv o s)
  | 6 => some (execVsqrt o s)
  | 7 => some (execVrsq o s)
  | 8 => some (execVrcp o s)
  | 9 => some (execVmin o s)
  | 10 => some (execVmax o s)
  | 11 => some (execVabs o s)
  | 12 => some (execVneg o s)
  | 13 => some (execVfn o s)
  | 14 => some (execVscaleb o s)
  | 15 => some (execVround o s)
  | _ => none

/-- Issue of the rows of opcodes 0xB0 to 0xBF, split by the qualifier or the modifier where the opcode map splits them. -/
def issueB (lo q m : Nat) (o : Ops) (s : State) : Option (Host.Outcome State Fault Refusal) :=
  match lo with
  | 0 => some (execVclass o s)
  | 1 => if m = 0 then some (execVcvtF2i o s) else if m = 1 then some (execVcvtI2f o s) else if m = 2 then some (execVcvtUi2f o s) else if m = 3 then some (execVcvtF2bf o s) else if m = 4 then some (execVcvtBf2f o s) else if m = 5 then some (execVcvtF2h o s) else if m = 6 then some (execVcvtH2f o s) else if m = 7 then some (execVcvtF2e4 o s) else if m = 8 then some (execVcvtE42f o s) else if m = 9 then some (execVcvtF2e5 o s) else if m = 10 then some (execVcvtE52f o s) else if m = 11 then some (execVcvtF2i8 o s) else if m = 12 then some (execVcvtI82f o s) else none
  | 2 => if q = 3 then some (execVqntE4m3 o s) else if 8 ≤ q then some (execVqntBfp o s) else none
  | 3 => some (execVdqnt o s)
  | 4 => some (execVcmp o s)
  | 5 => some (execVsel o s)
  | 6 => some (execViadd o s)
  | 7 => some (execVisub o s)
  | 8 => some (execVimul o s)
  | 9 => some (execVimad o s)
  | 10 => some (execVand o s)
  | 11 => some (execVor o s)
  | 12 => some (execVxor o s)
  | 13 => some (execVshl o s)
  | 14 => some (execVshr o s)
  | 15 => some (execVsra o s)
  | _ => none

/-- Issue of the rows of opcodes 0xC0 to 0xCF, split by the qualifier or the modifier where the opcode map splits them. -/
def issueC (lo q m : Nat) (o : Ops) (s : State) : Option (Host.Outcome State Fault Refusal) :=
  match lo with
  | 0 => some (execVclz o s)
  | 1 => some (execVpopc o s)
  | 2 => some (execVred o s)
  | 3 => some (execVscan o s)
  | 4 => if m = 0 then some (execVbcast o s) else if m = 1 then some (execVbcastLane o s) else none
  | 5 => some (execVextr o s)
  | 6 => some (execVins o s)
  | 7 => some (execVperm o s)
  | 8 => some (execVrot o s)
  | 9 => some (execViota o s)
  | 10 => some (execVsort o s)
  | 11 => some (execVtopk o s)
  | 12 => if q = 0 then some (execVgate o s) else if q = 1 then some (execVgateRenorm o s) else none
  | 13 => some (execVhist o s)
  | 14 => some (execVprng o s)
  | 15 => some (execVprd o s)
  | _ => none

/-- Issue of the rows of opcodes 0xD0 to 0xDF, split by the qualifier or the modifier where the opcode map splits them. -/
def issueD (lo _q m : Nat) (o : Ops) (s : State) : Option (Host.Outcome State Fault Refusal) :=
  match lo with
  | 0 => some (execVpwr o s)
  | 1 => some (execVpcnt o s)
  | 2 => if m = 0 then some (execVplogNz o s) else if m = 1 then some (execVplogBit o s) else if m = 2 then some (execVplogP2v o s) else none
  | 3 => some (execVmov o s)
  | _ => none

/-- Issue of the rows of opcodes 0xE0 to 0xEF, split by the qualifier or the modifier where the opcode map splits them. -/
def issueE (lo q m : Nat) (o : Ops) (s : State) : Option (Host.Outcome State Fault Refusal) :=
  match lo with
  | 0 => some (execMgisect o s)
  | 1 => some (execMgunion o s)
  | 2 => some (execMgdiff o s)
  | 3 => some (execMgmerge o s)
  | 4 => some (execMgsteer o s)
  | 5 => some (execMgseq o s)
  | 6 => if q = 0 then some (execMgstat o s) else if q = 1 then some (execMgstatPart o s) else if q = 2 then some (execMgstatLeaf o s) else none
  | 7 => if q = 0 then some (execMgcfgPivot o s) else if q = 1 then some (execMgcfgPread o s) else if q = 2 then some (execMgcfgMark o s) else none
  | 8 => if m = 0 then some (execScrecBegin o s) else if m = 1 then some (execScrecEnd o s) else none
  | 9 => some (execScplay o s)
  | 10 => if m = 0 then some (execScguard o s) else if m = 1 then some (execScpatch o s) else none
  | 11 => if m = 0 then some (execScinv o s) else if m = 1 then some (execScstat o s) else none
  | 12 => some (execTrap o s)
  | 13 => if m = 0 then some (execEret o s) else if m = 1 then some (execEretSkip o s) else if m = 2 then some (execEretKill o s) else none
  | 14 => if m = 0 then some (execTlbinvPage o s) else if m = 1 then some (execTlbinvAsid o s) else if m = 2 then some (execTlbinvAll o s) else none
  | 15 => some (execAsidset o s)
  | _ => none

/-- Issue of the rows of opcodes 0xF0 to 0xFF, split by the qualifier or the modifier where the opcode map splits them. -/
def issueF (lo q _m : Nat) (o : Ops) (s : State) : Option (Host.Outcome State Fault Refusal) :=
  match lo with
  | 0 => some (execCtxsave o s)
  | 1 => some (execCtxload o s)
  | 2 => some (execResume o s)
  | 3 => some (execDrain o s)
  | 4 => some (execWfi o s)
  | 5 => some (execBrk o s)
  | 6 => if q = 0 then some (execMemctlTag o s) else if q = 1 then some (execMemctlFmr o s) else if q = 2 then some (execMemctlRd o s) else if q = 3 then some (execMemctlWr o s) else none
  | 7 => if q = 0 then some (execBalloonAdd o s) else if q = 1 then some (execBalloonRem o s) else if q = 2 then some (execBalloonPri o s) else none
  | 8 => some (execQpost o s)
  | 9 => some (execPinit o s)
  | 10 => if q = 0 then some (execIrqCore o s) else if q = 1 then some (execIrqHost o s) else none
  | 11 => some (execWalk o s)
  | _ => none

/-- What the instruction of an opcode and its fields does, none where the map holds none (R70, R71). -/
def issueOp (op q m : Nat) (o : Ops) (s : State) : Option (Host.Outcome State Fault Refusal) :=
  match op / 16 with
  | 0 => issue0 (op % 16) q m o s
  | 1 => issue1 (op % 16) q m o s
  | 2 => issue2 (op % 16) q m o s
  | 3 => issue3 (op % 16) q m o s
  | 4 => issue4 (op % 16) q m o s
  | 5 => issue5 (op % 16) q m o s
  | 6 => issue6 (op % 16) q m o s
  | 7 => issue7 (op % 16) q m o s
  | 8 => issue8 (op % 16) q m o s
  | 9 => issue9 (op % 16) q m o s
  | 10 => issueA (op % 16) q m o s
  | 11 => issueB (op % 16) q m o s
  | 12 => issueC (op % 16) q m o s
  | 13 => issueD (op % 16) q m o s
  | 14 => issueE (op % 16) q m o s
  | 15 => issueF (op % 16) q m o s
  | _ => none

/-- What issuing an opcode and its fields does: the first decode fault of R68, or the instruction. -/
def issueInstr (op : Nat) (o : Ops) (s : State) : Host.Outcome State Fault Refusal :=
  if unassignedSub op o.m.toNat then execReservedOpcode o (BitVec.ofNat 8 op) 2 s
  else
    match fieldForm s.kLevel op o.q.toNat o.m.toNat with
    | none => execReservedOpcode o (BitVec.ofNat 8 op) 0 s
    | some f =>
      match fieldBreach f op o with
      | some (k, d) => if s.core.halted then .fault .coreHalted else finish o (.trap (decodeTrap (.illegalField k d)) s)
      | none => (issueOp op o.q.toNat o.m.toNat o s).getD (execReservedOpcode o (BitVec.ofNat 8 op) 0 s)

/-- The instruction reads or writes a register that an invocation of its context has yet to write: vD of a VPRD (R397), S[D] of a set operation (R408). -/
def Core.hazard (c : Core) (u : CtxId) (op : Nat) (o : Ops) : Bool :=
  c.invs.any (fun v => v.ctx = u &&
    ((v.op = 0xCF && (usesRegs .v op o).contains v.o.d)
      || (0xE0 ≤ v.op && v.op ≤ 0xE5 && v.o.d ≠ 0 && (usesRegs .s op o).contains v.o.d)))

end Sys2Proof.Machine
end

