-- ==== Sys2Proof/Machine/Replay.lean ====
section
/-! DEFINITION. A replay record by record: commands, guards with their snapshots and symbols, divergence and END (R461 to R466). -/

namespace Sys2Proof.Machine

/-- A context replays and may handle its next record. -/
def Core.replays (c : Core) (u : CtxId) : Bool :=
  let x := c.ctxOf u
  u ≠ .k && x.group.isSome && x.scroll.mode = 2 && x.st ≠ .trapped && !x.parsed && !c.inTrap && !c.halted && !c.isCut u

/-- What the replay of a context does next: 0 a command, 1 a guard, a PATCH or a guard's symbols, 3 END or its symbols; none when the record cannot be read. -/
def State.nextRecord (s : State) (u : CtxId) : Option Nat :=
  let y := (s.ctxAt u).scroll
  if y.pendCons ≠ 0 then some (if y.ending then 3 else 1)
  else
    match readRecord s (s.asidOf u) y.track y.nrec with
    | .error _ => none
    | .ok h => some (if recType h = 2 then 1 else recType h)

/-! ## Commands (R461) -/

/-- The scalar operands of a recorded command: the register, and the value on the tape or in its patch slot. -/
def cmdOperands (y : Scroll) (head : Nat) (conts : List Nat) : List (BitVec 6 × Word) :=
  let w := cmdFields head
  (numbered (scalarReads w.1 w.2)).map (fun e =>
    let v := conts.getD (e.1 / 2) 0 / 2 ^ (64 * (e.1 % 2)) % 2 ^ 64
    (e.2, if (recPmask head).testBit e.1 then SMap.get 0 y.patches (v % 32) else BitVec.ofNat 64 v))

/-- Scalar registers set one after another. -/
def Ctx.setAll (x : Ctx) (l : List (BitVec 6 × Word)) : Ctx := l.foldl (fun y e => y.setS e.1.toNat e.2) x

/-- The registers that held the operands of a command hold again what the replay found in them, but for the one that the command wrote. -/
def Ctx.unsetAll (y x : Ctx) (l : List (BitVec 6 × Word)) (dst : Option Nat) : Ctx :=
  l.foldl (fun z e => if dst = some e.1.toNat then z else z.setS e.1.toNat (x.getS e.1.toNat)) y

/-- The scalar register, other than s0, that an executed command writes. -/
def writtenScalar (x : Ctx) (op : Nat) (o : Ops) : Option Nat :=
  (scalarDest op o).bind (fun r => if executes x op o && r ≠ 0 then some r.toNat else none)

/-- What a replay keeps once a command has been issued: s before it, t after it. -/
def cmdHandled (s t : State) (u : CtxId) (y : Scroll) (head op : Nat) (o : Ops) (dst : Option Nat) : Scroll :=
  { y with
    nrec := y.nrec + 1 + recNx head
    cmdDst := dst
    cmdInv := if s.core.nextInv < t.core.nextInv && 0xE0 ≤ op && op ≤ 0xE5 then some s.core.nextInv else none
    cmdMark := if marksAfter op o then marksOf s t u op o else 0 }

/-- The production credited to the command that stands next, as recording saw it (R311, R461); one that was not recorded by this machine has none to tell (log entry 1). -/
def State.recordedProd (s : State) (u : CtxId) : Nat :=
  match s.recordDpa u with
  | none => (Config.freeWord s.free).toNat % 512
  | some a =>
    match SMap.get 0 s.hub.prods a with
    | 0 => (Config.freeWord s.free).toNat % 512
    | n + 1 => n

/-- A command issued with its recorded fields and operands; its address is the VA of its head. -/
def State.issueCmd (s : State) (u : CtxId) (head : Nat) (conts : List Nat) : State :=
  let x := s.ctxAt u
  let op := (cmdFields head).1
  let o := (cmdFields head).2
  let l := cmdOperands x.scroll head conts
  let at' := BitVec.ofNat 64 (x.scroll.track + 16 * x.scroll.nrec)
  let s0 : State := { s with core := { s.core with cur := u }.putCtx u { x.setAll l with pc := at', st := .action, lastProd := s.recordedProd u }, free := s.free + 1 }
  if s.core.hazard u op o then s.putCtxAt u { x with waiting := some .invocation }
  else
  match issueInstr op o s0 with
  | .next t =>
    let z := t.ctxAt u
    let back := fun (dst : Option Nat) => { z.unsetAll x l dst with pc := x.pc, counted := x.counted }
    if z.st = .trapped then t.putCtxAt u { back none with trapFrom := x.st }
    else if z.waiting.isSome then t.putCtxAt u { back none with st := x.st }
    else if z.parsed then t.putCtxAt u (back none)
    else
      let dst := writtenScalar (s0.ctxAt u) op o
      t.putCtxAt u { back dst with st := x.st, scroll := cmdHandled s0 t u z.scroll head op o dst }
  | _ => s

/-- The next record, a CMD, is handled. -/
def State.handleCmd (s : State) (u : CtxId) : State :=
  let y := (s.ctxAt u).scroll
  match readRecord s (s.asidOf u) y.track y.nrec with
  | .error _ => s
  | .ok h =>
    match readRecords (recNx h) s (s.asidOf u) y.track (y.nrec + 1) with
    | .error _ => s
    | .ok conts => s.issueCmd u h conts

/-! ## Snapshots (R453) -/

/-- The parse stack with the entries of a STACK item; an entry that the item changes is credited to a production that the tape does not tell (log entry 1). -/
def applyStack (old : List StackEntry) (item free : Nat) : List StackEntry :=
  let up := old.reverse
  let depth := item / 2 ^ 117 % 128
  let first := item / 2 ^ 111 % 64
  ((List.range depth).map (fun i =>
    let had := up.getD i ⟨0, 0⟩
    let e := if first ≤ i && i < first + 4 then BitVec.ofNat 16 (item / 2 ^ (16 * (i - first))) else had.entry
    if i < up.length && e = had.entry then had else ⟨e, (Config.freeWord (free + i)).toNat % 512⟩)).reverse

/-- The state of an ACTION item. -/
def applyAction (x : Ctx) (item : Nat) : Ctx :=
  let pc := item % 2 ^ 48
  let routine := decide (pc ≠ 2 ^ 48 - 1)
  let code := item / 2 ^ 120 % 16
  { x with
    st := if code = 1 || (code = 3 && routine) then .action else if code = 2 then .mismatch else if code = 3 then .recovering else .parsing
    errAction := code = 3 && routine
    loaded := BitVec.ofNat 32 (item / 2 ^ 64)
    counted := 0
    pc := if routine then BitVec.ofNat 64 pc else x.pc }

/-- A context with one item applied; `keep` is a register whose real value stands. -/
def applyItem (keep : Option Nat) (free : Nat) (x : Ctx) (item : Nat) : Ctx :=
  match item / 2 ^ 124 % 16 with
  | 0 =>
    let r := item / 2 ^ 118 % 64
    let v : Word := if item / 2 ^ 117 % 2 = 1 then SMap.get 0 x.scroll.patches (item / 2 ^ 112 % 32) else BitVec.ofNat 64 item
    if keep = some r then x else x.setS r v
  | 1 => { x with stack := applyStack x.stack item free }
  | 2 => applyAction x item
  | _ => x

/-- The flags of the ACTION items. -/
def itemFlags (l : List Nat) : BitVec 16 :=
  l.foldl (fun a e => if e / 2 ^ 124 % 16 = 2 then a ||| BitVec.ofNat 16 (e / 2 ^ 96) else a) 0

/-- The snapshot of a guard applied to a context; the production credited to its last routine is not told (log entry 1). -/
def State.applySnapshot (s : State) (u : CtxId) (keep : Option Nat) (head : Nat) (items : List Nat) : State :=
  let x := items.foldl (applyItem keep s.free) (s.ctxAt u)
  let t := { s with free := s.free + 129 }.addFlags (itemFlags items)
  t.putCtxAt u { x with pos := BitVec.ofNat 32 (recPos head), lastProd := (Config.freeWord (s.free + 128)).toNat % 512, waiting := none, waited := 0 }

/-! ## Guards (R462, R463, R465, R466) -/

/-- The result of the last command has arrived. -/
def Core.cmdDone (c : Core) (u : CtxId) : Bool :=
  match (c.ctxOf u).scroll.cmdInv with
  | some id => !c.invs.any (fun v => decide (v.id = id))
  | none => true

/-- The direction that the instruction at an address takes on the real predicate registers; none when it cannot be read or tests no predicate. -/
def State.direction (s : State) (u : CtxId) (pc : Word) : Option Bool :=
  let x := s.ctxAt u
  let t : State := { s with core := { s.core with cur := u }.putCtx u { x with pc := pc } }
  match fetch t with
  | .error _ => none
  | .ok (bs, _) =>
    let w := expand (formOf (bs.headD 0)) (leNat bs)
    some (if w.2.g = 0 then true else (guardMask x w.2.g).getLsbD 0 && (!isBranch w.1 || intCond (w.1 - 0x2A) (x.getS w.2.a.toNat) (x.getS w.2.b.toNat)))

/-- The instruction at an address tests a predicate. -/
def State.testsPredicate (s : State) (u : CtxId) (pc : Word) : Bool :=
  let t : State := { s with core := { s.core with cur := u }.putCtx u { s.ctxAt u with pc := pc } }
  match fetch t with
  | .error _ => true
  | .ok (bs, _) => decide ((expand (formOf (bs.headD 0)) (leNat bs)).2.g ≠ 0)

/-- A guard fails (R462): s before its snapshot is applied, t after it. -/
def guardFails (s t : State) (u : CtxId) (head : Nat) : Bool :=
  let x := s.ctxAt u
  let y := x.scroll
  match recKind head with
  | 1 =>
    match y.cmdDst with
    | none => true
    | some r => decide ((x.getS r).toNat ≠ recData head)
  | 2 => decide ((match y.cmdInv with | some id => x.markOf id | none => y.cmdMark).toNat ≠ recData head % 2 ^ 20)
  | 3 =>
    let pc := (t.ctxAt u).pc
    t.testsPredicate u pc && decide (t.direction u pc ≠ some (decide (recData head % 2 = 1)))
  | _ => false

/-- A divergence: the context continues live, DIVC advances and may make the tape STALE (R463). -/
def State.diverge (s : State) (u : CtxId) : State :=
  let y := (s.ctxAt u).scroll
  let asid := s.asidOf u
  let area := y.area.toNat
  let t := s.putScroll u { y.toLive false with div := if y.div = 0xFFFF then y.div else y.div + 1 }
  let w2 := t.tapeWord asid area 2
  let n := min (bits w2 15 0 + 1) 0xFFFF
  let t1 := (t.tapeWrite asid (area + 16) (leBytes 8 (bits w2 63 16 * 65536 + n))).getD t
  let w0 := t1.tapeWord asid area 0
  if bits w0 39 32 ≠ 0 && n = bits w0 39 32 then (t1.tapeWrite asid area (leBytes 8 (w0 ||| tapeStale).toNat)).getD t1 else t1

/-- A fault of the Scroll at a guard: the context is live at the guard when the trap returns (R466). -/
def State.replayFault (s : State) (u : CtxId) (sub at' : Nat) : State :=
  let x := s.ctxAt u
  (s.putScroll u (x.scroll.toLive false)).raiseTrap (scrollTrap cReplayFault sub (some at') ((x.group.map (fun g => g.gidx)).getD 0)) u noPc

/-- The cut of a context has begun. -/
def Core.cutBegun (c : Core) (u : CtxId) : Bool := c.cut.any (fun k => k.ctx = u && k.started)

/-- The symbols that a guard's replay consumed go back, where a cut is taken among them (R465). -/
def Ctx.unconsume (x : Ctx) : Ctx :=
  let y := x.scroll
  { x with
    queue := y.eaten ++ x.queue
    qbase := x.qbase - y.eaten.length
    nData := x.nData - y.eaten.countP (fun m => m = mDATA)
    ins := y.insBack
    pos := y.posBack
    eotc := y.eotBack
    frec := y.frecBack }

/-- Symbols that the parse consumes. -/
def Ctx.consumeAll (n : Nat) (x : Ctx) : Ctx :=
  match n with
  | 0 => x
  | k + 1 => Ctx.consumeAll k x.consume

/-- The discards of a RECOVER guard, whose symbols have all been consumed: all but the sync mark among those that recovery consumed (R452). -/
def State.recoverDiscards (s : State) (u : CtxId) : State :=
  let x := s.ctxAt u
  let y := x.scroll
  match readRecord s (s.asidOf u) y.track y.guardRec with
  | .error _ => s
  | .ok h =>
    let n := recData h % 65536 - 1
    let c := (s.core.putCtx u { x.unconsume with frec := x.frec }).skipSymbols u n
    s.putCore (c.putCtx u (Ctx.consumeAll (recCons h - n) (c.ctxOf u)))

/-- The replay reaches END: a group that replays from its bind retires, another goes on live (R464). -/
def State.endReplay (s : State) (u : CtxId) : State :=
  let x := s.ctxAt u
  let y := { x with scroll := x.scroll.toLive true }
  s.putCtxAt u (if x.scroll.atBind then { y with st := .parsing, errAction := false, parsed := true } else y)

/-- Every symbol of a guard has been consumed. -/
def State.consumed (s : State) (u : CtxId) : State :=
  let t := if (s.ctxAt u).scroll.recovers then s.recoverDiscards u else s
  if (t.ctxAt u).scroll.ending then t.endReplay u else t

/-- Symbols of a guard consumed as far as they are present; PRE among them takes the cut at the guard. -/
def State.consumeSymbols (n : Nat) (s : State) (u : CtxId) : State :=
  match n with
  | 0 => s.consumed u
  | k + 1 =>
    let x := s.ctxAt u
    match x.peek1 with
    | .sym _ =>
      let z := x.consume
      let ate := if z.qbase = x.qbase then x.scroll.eaten else x.scroll.eaten ++ x.queue.take 1
      State.consumeSymbols k (s.putCtxAt u { z with scroll := { z.scroll with eaten := ate, pendCons := k } }) u
    | .hw m =>
      if m = mPRE then
        let z := x.unconsume
        (s.putCtxAt u { z with scroll := z.scroll.toLive false }).takeCut u
      else s
    | _ => s.putCtxAt u { x with waiting := some .mark }

/-- What a RECOVER guard does beside: the fault record, the count of recoveries, and the join of the context's invocations (R247, R461). -/
def State.noteRecovery (s : State) (u : CtxId) : State :=
  let x := s.ctxAt u
  (s.acquire u 4 (s.joinKeys u)).putCtxAt u { x with frec := s.core.faultRecord x }.countRecovery

/-- A RECOVER guard waits, as the live mismatch did, for the context's invocations, for Peek(1), and for the look-ahead of the stack's top: the fault record of x, the context with the guard's snapshot, holds what they find (R240, R461). -/
def Core.recoverWaits (c : Core) (u : CtxId) (x : Ctx) : Bool := !(c.pendingInvs u).isEmpty || x.peek1 = .absent || c.lookAhead x = .absent

/-- A guard that holds: t is the state with its snapshot applied. The records up to the next guard are checked, then the symbols are consumed. -/
def State.passGuard (t : State) (u : CtxId) (head : Nat) : State :=
  let x := t.ctxAt u
  let y := x.scroll
  let next := y.nrec + 1 + recNs head
  let ending := decide (recType head = 3)
  if t.core.cutBegun u && !ending then (t.putScroll u (y.toLive false)).takeCut u
  else
    match (if ending then none else checkSegment (y.total + 1) t (t.asidOf u) y.track y.total next) with
    | some (sub, i) => t.replayFault u sub (y.track + 16 * i)
    | none =>
      let t1 := if recKind head = 6 && !ending then t.noteRecovery u else t
      let z := t1.ctxAt u
      let y1 := { y with
        nrec := next
        guardRec := y.nrec
        pendCons := recCons head
        recovers := recKind head = 6 && !ending && recData head % 65536 ≠ 0
        ending := ending
        eaten := []
        insBack := z.ins
        posBack := z.pos
        eotBack := z.eotc
        frecBack := x.frec
        cmdDst := if ending then none else y.cmdDst }
      State.consumeSymbols (recCons head) (t1.putScroll u y1) u

/-- The next record, a GUARD or END with its items, is handled. -/
def State.handleGuard (s : State) (u : CtxId) (head : Nat) : State :=
  let y := (s.ctxAt u).scroll
  match readRecords (recNs head) s (s.asidOf u) y.track (y.nrec + 1) with
  | .error _ => s
  | .ok items =>
    let t := s.applySnapshot u none head items
    if !s.core.cmdDone u || (recKind head = 6 && recType head = 1 && s.core.recoverWaits u (t.ctxAt u)) then s.putCtxAt u { s.ctxAt u with waiting := some .mark }
    else if recType head = 1 && guardFails s t u head then
      (s.applySnapshot u (if recKind head = 1 then y.cmdDst else none) head items).diverge u
    else t.passGuard u head

/-- A PATCH record: the register takes the slot's value. -/
def State.handlePatch (s : State) (u : CtxId) (r : Nat) : State :=
  let x := s.ctxAt u
  s.putCtxAt u { x.setS (r / 2 ^ 109 % 64) (SMap.get 0 x.scroll.patches (r / 2 ^ 121 % 32)) with scroll := { x.scroll with nrec := x.scroll.nrec + 1 } }

/-- The symbols, the guard, the PATCH or END that stands next is handled. -/
def State.handleMark (s : State) (u : CtxId) : State :=
  let y := (s.ctxAt u).scroll
  if y.pendCons ≠ 0 then State.consumeSymbols y.pendCons s u
  else
    match readRecord s (s.asidOf u) y.track y.nrec with
    | .error _ => s
    | .ok h => if recType h = 2 then s.handlePatch u h else s.handleGuard u h

/-- A step of a replay, when the next record is of the kind given; under the drain configuration the context drains instead (R15, R246, R465), and a gated cycle has none (R531). -/
def State.replayStep (s : State) (u : CtxId) (kind : Nat) : State :=
  if !s.core.replays u then s
  else if (s.ctxAt u).drains then s.drainMove u
  else if s.gated || s.nextRecord u ≠ some kind then s
  else if kind = 0 then s.handleCmd u
  else s.handleMark u

/-- REPLAY_CMD (R461). -/
def execReplayCmd (u : BitVec 2) (s : State) : Host.Outcome State Fault Refusal := .next (s.replayStep (uCtx u.toNat) 0)

/-- REPLAY_GUARD (R461). -/
def execReplayGuard (u : BitVec 2) (s : State) : Host.Outcome State Fault Refusal := .next (s.replayStep (uCtx u.toNat) 1)

/-- REPLAY_END (R464). -/
def execReplayEnd (u : BitVec 2) (s : State) : Host.Outcome State Fault Refusal := .next (s.replayStep (uCtx u.toNat) 3)

end Sys2Proof.Machine
end

