-- ==== Sys2Proof/Machine/Running.lean ====
section
/-! DEFINITION. A context's attempt at its next step: fetch, issue, and what recording and single-stepping add (R23, R54, R327, R397, R408, R455 to R458). -/

namespace Sys2Proof.Machine

/-- What an attempt leaves, and whether the context issued a step. -/
structure Attempt where
  state : State
  issued : Bool

/-! ## Single-stepping (R327) -/

/-- A context is stepped. -/
def Core.stepped (c : Core) (u : CtxId) : Bool := u ≠ .k && bit c.sstep 0 && bit c.sstep (8 + ctxNum u)

/-- DEBUG_STEP of a context: KEPC the next instruction, or all ones when a parse step is next (R311). A detail that the manual does not give is a free value (log entry 1). -/
def State.debugStep (s : State) (u : CtxId) (aux0 aux1 : Option Word) : State :=
  let x := s.ctxAt u
  s.raiseTrap ⟨cDebugStep, aux0, aux1, none, none⟩ u (if x.st = .action then x.pc else noPc)

/-- What stepping does after a counted instruction at an address; with SYNC an issue completes only when its invocation has ended. -/
def stepInstr (s t : State) (u : CtxId) (pc : Word) : State :=
  if !t.core.stepped u then t
  else if bit t.core.sstep 1 && decide (s.core.nextInv < t.core.nextInv) then
    t.putCtxAt u { t.ctxAt u with syncInv := some s.core.nextInv, waitInv := pc.toNat }
  else t.debugStep u none (some pc)

/-- The invocation for which a stepped issue waits is still there. -/
def Core.syncWaits (c : Core) (u : CtxId) : Bool :=
  match (c.ctxOf u).syncInv with
  | some id => c.invs.any (fun v => decide (v.id = id))
  | none => false

/-- The wait of a stepped issue is over. -/
def State.syncDone (s : State) (u : CtxId) : State :=
  let x := s.ctxAt u
  let t := s.putCtxAt u { x with syncInv := none }
  if t.core.stepped u then t.debugStep u none (some (BitVec.ofNat 64 x.waitInv)) else t

/-! ## Instructions -/

/-- The context is blocked in its instruction. -/
def State.blocked (s : State) (c : CtxId) : Bool := (s.ctxAt c).waiting.isSome

/-- The flags that an instruction raises. -/
def raisedBy (op : Nat) (o : Ops) (s : State) : BitVec 16 :=
  match issueInstr op o { s with core := { s.core with flags := 0 } } with
  | .next t => t.core.flags
  | _ => 0

/-- What follows an instruction of context c: s before it, t after it. -/
def settleInstr (s t : State) (c : CtxId) (op : Nat) (o : Ops) : State :=
  if t.blocked c || t.core.halted then t
  else if c = .k then recordK s t op o
  else if (t.ctxAt c).st = .trapped then t
  else
    let t1 := if (s.ctxAt c).scroll.mode = 1 then recordInstr s t c op o (raisedBy op o s) else t
    stepInstr s t1 c (s.ctxAt c).pc

/-- Context c is the one that executes. -/
def State.select (s : State) (c : CtxId) : State := { s with core := { s.core with cur := c } }

/-- The instruction issues after what recording puts before it; one that blocks or traps issues again later, and leaves no record now. -/
def issueAt (s : State) (c : CtxId) (op : Nat) (o : Ops) : Host.Outcome State Fault Refusal :=
  match issueInstr op o (s.beforeScroll c op o) with
  | .next t => if t.blocked c || (t.ctxAt c).st = .trapped || t.core.inTrap ≠ s.core.inTrap then issueInstr op o s else .next t
  | r => r

/-- Context c issues the instruction at its address, or does not: it is blocked, or a register that the instruction names has yet to be written. -/
def State.runAt (s : State) (c : CtxId) : Attempt :=
  match fetch (s.select c) with
  | .error (t, n) => ⟨(s.select c).trapA t n, true⟩
  | .ok (bs, s1) =>
    let w := expand (formOf (bs.headD 0)) (leNat bs)
    if s1.core.hazard c w.1 w.2 then ⟨s1.putCtxAt c { s1.ctxAt c with waiting := some .invocation }, false⟩
    else
      match issueAt s1 c w.1 w.2 with
      | .next t => ⟨settleInstr s1 t c w.1 w.2, !t.blocked c⟩
      | _ => ⟨s1, false⟩

/-! ## Steps of the Ductus and of a replay -/

/-- A parse step or a recovery step, with DEBUG_STEP after a parse step where SSTEP asks for it. -/
def State.parseAt (s : State) (u : CtxId) : Attempt :=
  let x := s.ctxAt u
  let t := ductusStep (fun t => if x.st = .recovering then t.recoveryStep u else t.parseStep u) u s
  let y := t.ctxAt u
  if y = x && t.core.cut = s.core.cut then ⟨s.putCtxAt u { x with waiting := some .mark }, false⟩
  else if x.st = .parsing && t.core.stepped u && bit t.core.sstep 2 && y.st ≠ .trapped && !y.parsed && !t.core.isCut u then ⟨t.debugStep u (some 1) none, true⟩
  else ⟨t, true⟩

/-- The end of a mismatch, which takes no issue slot (R233, R240). -/
def State.mismatchMove (s : State) (u : CtxId) : Option State :=
  let s1 := s.payGuards u
  let x := s1.ctxAt u
  let t := ductusStep (fun a => a.mismatchWrite u) u s1
  if x.st ≠ .mismatch || x.scroll.mode = 2 || x.drains || (t.ctxAt u = x && t.core.cut = s1.core.cut) then none else some t

/-- A context in MISMATCH waits for its invocations, then for Peek(1). -/
def State.waitMismatch (s : State) (u : CtxId) : State :=
  s.putCtxAt u { s.ctxAt u with waiting := some (if (s.core.pendingInvs u).isEmpty then .mark else .invocation) }

/-- The next record of a replay. -/
def State.replayAt (s : State) (u : CtxId) : Attempt :=
  match s.nextRecord u with
  | none => ⟨s, false⟩
  | some k =>
    let t := s.replayStep u k
    ⟨t, decide ((t.ctxAt u).scroll ≠ (s.ctxAt u).scroll) || decide ((t.ctxAt u).st ≠ (s.ctxAt u).st) || t.core.isCut u⟩

/-- A U context's attempt at its next step (R23). One that drains takes none (R15, R246); a recording context first writes the guards that it owes. -/
def State.tryU (s : State) (u : CtxId) : Attempt :=
  let x := s.ctxAt u
  if x.group.isNone || x.st = .trapped || x.parsed || x.drains || s.core.isCut u then ⟨s, false⟩
  else if x.scroll.mode = 2 then s.replayAt u
  else if x.st = .mismatch then ⟨s.waitMismatch u, false⟩
  else if s.core.syncWaits u then ⟨s, false⟩
  else if x.syncInv.isSome then ⟨s.syncDone u, true⟩
  else
    let s1 := s.payGuards u
    if (s1.ctxAt u).scroll.mode = 1 && (s1.ctxAt u).scroll.owed ≠ 0 then ⟨s1, false⟩
    else if x.st = .action then s1.runAt u
    else s1.parseAt u

/-- The attempt of a context, K or U. -/
def State.attempt (s : State) (c : CtxId) : Attempt := if c = .k then s.runAt .k else s.tryU c

/-- Of two contexts that wait for one full granule or for one counter, the lower-numbered goes first: the other's attempt, which that one would spoil, is put off (R139, R213, R295). -/
def State.yields (s : State) (u : CtxId) : Bool :=
  let w := (s.ctxAt u).waiting
  u ≠ .k && (w = some .full || w = some .ligature)
    && uCtxs.any (fun v => decide (ctxNum v < ctxNum u) && (s.ctxAt v).waiting = w && (let a := s.tryU v; a.issued && !(a.state.tryU u).issued))

/-- The issue slot of a cycle, the next cycle's when this one's has passed (R23, R142). -/
def State.inSlot (s : State) (f : State → State) : State := let t := f (s.atRank 0); { t with core := { t.core with rank := 4 } }

end Sys2Proof.Machine
end

