-- ==== Sys2Proof/Machine/Select.lean ====
section
/-! DEFINITION. The issue slot of a core: which context it takes, and the counts of aging and of the watchdog (R23 to R26, R328, R531). -/

namespace Sys2Proof.Machine

/-- A context is ready: its attempt would issue (R23). -/
def State.ready (s : State) (u : CtxId) : Bool := !s.yields u && (s.tryU u).issued

/-! ## The issue of a core (R23 to R26) -/

/-- The first context of a list whose attempt issues a step; the attempts before it leave their contexts blocked, and one that yields to a lower-numbered context is not ready. -/
def firstIssue (s : State) : List CtxId → State × Option CtxId
  | [] => (s, none)
  | u :: t =>
    let a := s.tryU u
    if s.yields u then firstIssue s t else if a.issued then (a.state, some u) else firstIssue a.state t

/-- The U contexts in ascending number from the rotating pointer on. -/
def fromPointer (n : Nat) : List CtxId := (List.range 4).map (fun i => uCtx (n + i))

/-- Every context's slots refilled: its priority plus 1. -/
def Core.refillSlots (c : Core) : Core :=
  uCtxs.foldl (fun a u => let x := a.ctxOf u; a.putCtx u { x with slots := (x.group.map (fun g => g.pri.toNat + 1)).getD 1 }) c

/-- The weighted round-robin: an issue takes one slot and moves the pointer; a round with no ready context that has slots left ends. -/
def roundRobin (s : State) : State × Option CtxId :=
  let order := fromPointer s.core.rr
  let take := fun (r : State × Option CtxId) =>
    match r.2 with
    | some u =>
      let c := r.1.core
      let x := c.ctxOf u
      (r.1.putCore { c.putCtx u { x with slots := x.slots - 1 } with rr := (ctxNum u + 1) % 4 }, some u)
    | none => r
  let r := firstIssue s (order.filter (fun u => decide (0 < (s.ctxAt u).slots)))
  match r.2 with
  | some _ => take r
  | none => take (firstIssue (r.1.putCore r.1.core.refillSlots) order)

/-- Aged contexts first, lowest number first, then the round-robin. -/
def selectU (s : State) : State × Option CtxId :=
  let r := firstIssue s (uCtxs.filter (fun u => (s.ctxAt u).age = 28))
  match r.2 with
  | some _ => r
  | none => roundRobin r.1

/-- A context's counts after a cycle: those of R25 and R328. `ready` tells whether it could have issued. A context in TRAPPED is not counted, but one whose step issued and trapped has issued. -/
def Ctx.count (x : Ctx) (issued ready : Bool) : Ctx :=
  if x.group.isNone then x
  else if issued then { x with age := 0, waited := 0 }
  else if x.st = .trapped then x
  else if ready then { x with age := min 28 (x.age + 1), waited := 0 }
  else { x with waited := x.waited + 1 }

/-- The counts of every U context after a cycle that began in s. -/
def countAll (s t : State) (issuer : Option CtxId) : State :=
  uCtxs.foldl (fun a u => a.putCtxAt u ((a.ctxAt u).count (issuer = some u) (s.ready u))) t

/-- One issue slot of the core looked at: the K context while the core is in a trap, else a U context. -/
def State.issueSlot (s : State) : State :=
  if s.core.halted || s.gated then s
  else if s.core.inTrap then (s.runAt .k).state
  else
    let r := selectU s
    countAll s r.1 r.2

/-- The context whose step the core's next issue slot takes, if any (R24, R26). -/
def State.slotIssuer (s : State) : Option CtxId :=
  let a := s.atRank 0
  if a.core.halted || a.gated then none
  else if a.core.inTrap then (if (a.runAt .k).issued then some .k else none)
  else (selectU a).2

end Sys2Proof.Machine
end

