-- ==== Sys2Proof/Machine/Events.lean ====
section
/-! DEFINITION. The ends of waits: blocked contexts that go on, and held writes served or expired (R32, R163, R193, R212, R281, R292, R301, R331, R361, R433, R434, R436). -/

namespace Sys2Proof.Machine

/-- After a step of a context that the core did not select, the executing context is the one it was, unless the step took a trap. -/
def keepCur (s t : State) : State := if t.core.inTrap && !s.core.inTrap then t else t.select s.core.cur

/-- A context that waits for something of a kind goes on once its condition holds: its step takes the core's next issue slot when the order of R24 gives it that slot, else it stays as it is. -/
def State.wake (s : State) (c : CtxId) (w : Wait) : State :=
  if (s.ctxAt c).waiting = some w && s.slotIssuer = some c then s.inSlot State.issueSlot else s

/-- ENGINE_QUEUE_ROOM (R32). -/
def execEngineQueueRoom (c : CtxId) (s : State) : Host.Outcome State Fault Refusal := .next (s.wake c .queue)
/-- BARWAIT_WAKE (R193). -/
def execBarwaitWake (c : CtxId) (s : State) : Host.Outcome State Fault Refusal := .next (s.wake c .barrier)
/-- FULL_WAIT_WAKE (R212). -/
def execFullWaitWake (c : CtxId) (s : State) : Host.Outcome State Fault Refusal := .next (s.wake c .full)
/-- SIGWAIT_WAKE (R292). -/
def execSigwaitWake (c : CtxId) (s : State) : Host.Outcome State Fault Refusal := .next (s.wake c .signal)
/-- EVWAIT_WAKE (R301). -/
def execEvwaitWake (c : CtxId) (s : State) : Host.Outcome State Fault Refusal := .next (s.wake c .ligature)
/-- MXWAIT_WAKE (R361). -/
def execMxwaitWake (c : CtxId) (s : State) : Host.Outcome State Fault Refusal := .next (s.wake c .invocation)
/-- PEEK_WAKE (R281, R282). -/
def execPeekWake (c : CtxId) (s : State) : Host.Outcome State Fault Refusal := .next (s.wake c .mark)
/-- WFI_WAKE (R331). -/
def execWfiWake (s : State) : Host.Outcome State Fault Refusal := .next (s.wake .k .irq)
/-- PORT_QUIESCE_WAKE (R163). -/
def execPortQuiesceWake (c : CtxId) (s : State) : Host.Outcome State Fault Refusal := .next (s.wake c .port)

/-- CONTEXT_AGED (R25): a cycle in which the context is ready and does not issue brings its count to 28; no trap freezes issue (R26), and no cycle is gated (R531). -/
def execContextAged (u : BitVec 2) (s : State) : Host.Outcome State Fault Refusal :=
  let c := uCtx u.toNat
  let a := s.atRank 0
  .next (if (s.ctxAt c).age = 27 && !s.core.inTrap && !s.core.halted && !a.gated && a.ready c && s.slotIssuer ≠ some c then s.inSlot State.issueSlot else s)

/-! ## Held writes (R433 to R436) -/

/-- An invocation whose write is held ends again. -/
def State.retryInv (s : State) (id : Nat) : State :=
  match s.core.inv id with
  | none => s
  | some v =>
    if v.st ≠ .running || v.waitsStorage.isNone then s
    else let w := { v with waitsStorage := none }; ((s.putInv w).atRank w.rank).endInv w

/-- A context blocked on its held write tries it again: its instruction completes as though it had never been held (R433), and takes no issue slot (R24, R26); what it waited is over (R328). In a trap it takes none of its own. -/
def State.retryCtx (s : State) (c : CtxId) : State :=
  if (s.ctxAt c).waiting ≠ some .storage then s
  else
    let a := s.attempt c
    if c ≠ .k && s.core.inTrap && (a.state.ctxAt c).st = .trapped then s
    else if c = .k then a.state
    else
      let t := keepCur s a.state
      if a.issued then t.putCtxAt c { t.ctxAt c with age := (s.ctxAt c).age } else t

/-- The write held first on a die tries for a chunk. -/
def State.serveHeld (s : State) (d : Nat) : State :=
  match (s.die d).held with
  | [] => s
  | h :: _ =>
    s.withCore h.core (fun a =>
      if a.core.halted then a
      else
        match h.inv with
        | some id => a.retryInv id
        | none => a.retryCtx h.ctx)

/-- HELD_WRITE_SERVED (R433). -/
def execHeldWriteServed (die : BitVec 3) (s : State) : Host.Outcome State Fault Refusal := .next (s.serveHeld die.toNat)

/-- The source-graph node of an invocation (R526): its engine, or for a copy the port that it writes. -/
def State.invNode (s : State) (v : Inv) : Nat :=
  match unitOf v.op with
  | 0 => s.nodeNumber 0 0
  | 1 => s.nodeNumber 1 0
  | 2 => s.nodeNumber 2 0
  | _ => s.nodeNumber 3 ((v.ports.find? (fun i => (s.port i).wr)).getD (if v.linear then v.o.uimm else 8))

/-- OUT_OF_SPACE of an invocation (R436) for a store of a port, recorded (R438); one of the K context halts the core (R434). -/
def State.starveInv (s : State) (v : Inv) (va port : Nat) : State :=
  let t := s.marginAt (s.invNode v) s.dieId 0x03 cOutOfSpace.toNat (BitVec.ofNat 64 va) v.pc s.coreId (ctxNum v.ctx) false
  if v.kLevel then t.halt cOutOfSpace v.pc (BitVec.ofNat 64 va)
  else
    let pn := if port < noPort then port else 0xFF
    let p := s.port pn
    t.discard v (accessTrap ⟨cOutOfSpace, 0, va⟩ pn (if p.bound && !v.linear then p.tid.toNat else 0xFF) v.hi) noTile

/-- OUT_OF_SPACE of a context's instruction of a length (R436): class A, at the VA of its head for a replayed command (R461). -/
def State.starveCtx (s : State) (c : CtxId) (va len : Nat) : State :=
  let x := s.ctxAt c
  let y := x.scroll
  let replayed := decide (y.mode = 2) && decide (c ≠ .k)
  let t := if replayed then s.putCtxAt c { x with pc := BitVec.ofNat 64 (y.track + 16 * y.nrec) } else s
  let u := (t.select c).trapA (fltTrap ⟨cOutOfSpace, 0, va⟩ 0xFFFF true) len
  if replayed then u.putCtxAt c { u.ctxAt c with pc := x.pc } else u

/-- The first write held on a die whose budget has run out, and that may take its fault now: a U context's waits while its core is in a trap (R313). -/
def State.overdue (s : State) (d : Nat) : Option HeldWrite :=
  (s.die d).held.find? (fun h => h.left = 0 && (h.inv.isSome || h.ctx = .k || !(s.coreOf h.core).inTrap))

/-- HOLD_BUDGET_EXPIRY (R433): the write takes OUT_OF_SPACE, and OOS increments. -/
def State.expireHeld (s : State) (d : Nat) : State :=
  match s.overdue d with
  | none => s
  | some h =>
    let x := s.die d
    let t := s.putDie d { x with held := x.held.erase h, oos := x.oos + 1 }
    t.withCore h.core (fun a =>
      match h.inv with
      | some id => match a.core.inv id with
        | some v => a.starveInv v h.va h.port
        | none => a
      | none => if (a.ctxAt h.ctx).waiting = some .storage then a.starveCtx h.ctx h.va h.len else a)

/-- HOLD_BUDGET_EXPIRY (R433). -/
def execHoldBudgetExpiry (die : BitVec 3) (s : State) : Host.Outcome State Fault Refusal := .next (s.expireHeld die.toNat)

end Sys2Proof.Machine
end

