-- ==== Sys2Proof/Machine/Dispatch.lean ====
section
/-! DEFINITION. The one match over the instructions and the steps of the other agents: one arm per constructor, each a direct call of its meaning. -/

namespace Sys2Proof.Machine

def exec (i : Instr) (s : State) : Host.Outcome State Fault Refusal :=
  match i with
  | .nop o => Sys2Proof.Machine.execNop o s
  | .mov o => Sys2Proof.Machine.execMov o s
  | .movi o => Sys2Proof.Machine.execMovi o s
  | .moviHi o => Sys2Proof.Machine.execMoviHi o s
  | .add o => Sys2Proof.Machine.execAdd o s
  | .sub o => Sys2Proof.Machine.execSub o s
  | .addi o => Sys2Proof.Machine.execAddi o s
  | .mul o => Sys2Proof.Machine.execMul o s
  | .mulh o => Sys2Proof.Machine.execMulh o s
  | .mulhu o => Sys2Proof.Machine.execMulhu o s
  | .div o => Sys2Proof.Machine.execDiv o s
  | .divu o => Sys2Proof.Machine.execDivu o s
  | .rem o => Sys2Proof.Machine.execRem o s
  | .remu o => Sys2Proof.Machine.execRemu o s
  | .and o => Sys2Proof.Machine.execAnd o s
  | .or o => Sys2Proof.Machine.execOr o s
  | .xor o => Sys2Proof.Machine.execXor o s
  | .andi o => Sys2Proof.Machine.execAndi o s
  | .ori o => Sys2Proof.Machine.execOri o s
  | .xori o => Sys2Proof.Machine.execXori o s
  | .shl o => Sys2Proof.Machine.execShl o s
  | .shr o => Sys2Proof.Machine.execShr o s
  | .sra o => Sys2Proof.Machine.execSra o s
  | .shli o => Sys2Proof.Machine.execShli o s
  | .shri o => Sys2Proof.Machine.execShri o s
  | .srai o => Sys2Proof.Machine.execSrai o s
  | .rol o => Sys2Proof.Machine.execRol o s
  | .slt o => Sys2Proof.Machine.execSlt o s
  | .sltu o => Sys2Proof.Machine.execSltu o s
  | .slti o => Sys2Proof.Machine.execSlti o s
  | .min o => Sys2Proof.Machine.execMin o s
  | .max o => Sys2Proof.Machine.execMax o s
  | .minu o => Sys2Proof.Machine.execMinu o s
  | .maxu o => Sys2Proof.Machine.execMaxu o s
  | .clz o => Sys2Proof.Machine.execClz o s
  | .ctz o => Sys2Proof.Machine.execCtz o s
  | .popc o => Sys2Proof.Machine.execPopc o s
  | .bswap o => Sys2Proof.Machine.execBswap o s
  | .ext o => Sys2Proof.Machine.execExt o s
  | .ins o => Sys2Proof.Machine.execIns o s
  | .sext o => Sys2Proof.Machine.execSext o s
  | .lea o => Sys2Proof.Machine.execLea o s
  | .cmpp o => Sys2Proof.Machine.execCmpp o s
  | .beq o => Sys2Proof.Machine.execBeq o s
  | .bne o => Sys2Proof.Machine.execBne o s
  | .blt o => Sys2Proof.Machine.execBlt o s
  | .bge o => Sys2Proof.Machine.execBge o s
  | .bltu o => Sys2Proof.Machine.execBltu o s
  | .bgeu o => Sys2Proof.Machine.execBgeu o s
  | .jmp o => Sys2Proof.Machine.execJmp o s
  | .jr o => Sys2Proof.Machine.execJr o s
  | .call o => Sys2Proof.Machine.execCall o s
  | .ret o => Sys2Proof.Machine.execRet o s
  | .sel o => Sys2Proof.Machine.execSel o s
  | .plog o => Sys2Proof.Machine.execPlog o s
  | .pmov o => Sys2Proof.Machine.execPmov o s
  | .pmovFrom o => Sys2Proof.Machine.execPmovFrom o s
  | .pmovTo o => Sys2Proof.Machine.execPmovTo o s
  | .mfc o => Sys2Proof.Machine.execMfc o s
  | .mtc o => Sys2Proof.Machine.execMtc o s
  | .budget o => Sys2Proof.Machine.execBudget o s
  | .budgetSet o => Sys2Proof.Machine.execBudgetSet o s
  | .aend o => Sys2Proof.Machine.execAend o s
  | .fadd o => Sys2Proof.Machine.execFadd o s
  | .fmul o => Sys2Proof.Machine.execFmul o s
  | .fdiv o => Sys2Proof.Machine.execFdiv o s
  | .fcvtF2i o => Sys2Proof.Machine.execFcvtF2i o s
  | .fcvtI2f o => Sys2Proof.Machine.execFcvtI2f o s
  | .fcvtU2f o => Sys2Proof.Machine.execFcvtU2f o s
  | .fcvtF2bf o => Sys2Proof.Machine.execFcvtF2bf o s
  | .fcvtBf2f o => Sys2Proof.Machine.execFcvtBf2f o s
  | .fcvtF2h o => Sys2Proof.Machine.execFcvtF2h o s
  | .fcvtH2f o => Sys2Proof.Machine.execFcvtH2f o s
  | .fcvtF2e4 o => Sys2Proof.Machine.execFcvtF2e4 o s
  | .fcvtE42f o => Sys2Proof.Machine.execFcvtE42f o s
  | .fcmp o => Sys2Proof.Machine.execFcmp o s
  | .gpeek o => Sys2Proof.Machine.execGpeek o s
  | .gskip o => Sys2Proof.Machine.execGskip o s
  | .gpush o => Sys2Proof.Machine.execGpush o s
  | .gpop o => Sys2Proof.Machine.execGpop o s
  | .gfstat o => Sys2Proof.Machine.execGfstat o s
  | .gresume o => Sys2Proof.Machine.execGresume o s
  | .gresumeRecover o => Sys2Proof.Machine.execGresumeRecover o s
  | .markif o => Sys2Proof.Machine.execMarkif o s
  | .markemit o => Sys2Proof.Machine.execMarkemit o s
  | .markemitR o => Sys2Proof.Machine.execMarkemitR o s
  | .sigdec o => Sys2Proof.Machine.execSigdec o s
  | .sigwait o => Sys2Proof.Machine.execSigwait o s
  | .sigwaitPoll o => Sys2Proof.Machine.execSigwaitPoll o s
  | .sigset o => Sys2Proof.Machine.execSigset o s
  | .ligcfgTerm o => Sys2Proof.Machine.execLigcfgTerm o s
  | .ligcfgSrc o => Sys2Proof.Machine.execLigcfgSrc o s
  | .ligcfgTread o => Sys2Proof.Machine.execLigcfgTread o s
  | .ligcntRd o => Sys2Proof.Machine.execLigcntRd o s
  | .ligcntSet o => Sys2Proof.Machine.execLigcntSet o s
  | .ligcntSub o => Sys2Proof.Machine.execLigcntSub o s
  | .ligcntClrv o => Sys2Proof.Machine.execLigcntClrv o s
  | .ligfire o => Sys2Proof.Machine.execLigfire o s
  | .gstate o => Sys2Proof.Machine.execGstate o s
  | .gstateStk o => Sys2Proof.Machine.execGstateStk o s
  | .evwait o => Sys2Proof.Machine.execEvwait o s
  | .ld o => Sys2Proof.Machine.execLd o s
  | .st o => Sys2Proof.Machine.execSt o s
  | .ldx o => Sys2Proof.Machine.execLdx o s
  | .stx o => Sys2Proof.Machine.execStx o s
  | .ldv o => Sys2Proof.Machine.execLdv o s
  | .stv o => Sys2Proof.Machine.execStv o s
  | .ldg o => Sys2Proof.Machine.execLdg o s
  | .sct o => Sys2Proof.Machine.execSct o s
  | .spld o => Sys2Proof.Machine.execSpld o s
  | .spst o => Sys2Proof.Machine.execSpst o s
  | .spldv o => Sys2Proof.Machine.execSpldv o s
  | .spstv o => Sys2Proof.Machine.execSpstv o s
  | .aadd o => Sys2Proof.Machine.execAadd o s
  | .aand o => Sys2Proof.Machine.execAand o s
  | .aor o => Sys2Proof.Machine.execAor o s
  | .axor o => Sys2Proof.Machine.execAxor o s
  | .amin o => Sys2Proof.Machine.execAmin o s
  | .amax o => Sys2Proof.Machine.execAmax o s
  | .aminu o => Sys2Proof.Machine.execAminu o s
  | .amaxu o => Sys2Proof.Machine.execAmaxu o s
  | .aswp o => Sys2Proof.Machine.execAswp o s
  | .acas o => Sys2Proof.Machine.execAcas o s
  | .afadd o => Sys2Proof.Machine.execAfadd o s
  | .fence o => Sys2Proof.Machine.execFence o s
  | .fenceAcq o => Sys2Proof.Machine.execFenceAcq o s
  | .fenceRel o => Sys2Proof.Machine.execFenceRel o s
  | .ldacq o => Sys2Proof.Machine.execLdacq o s
  | .strel o => Sys2Proof.Machine.execStrel o s
  | .pref o => Sys2Proof.Machine.execPref o s
  | .cwb o => Sys2Proof.Machine.execCwb o s
  | .cinv o => Sys2Proof.Machine.execCinv o s
  | .cinvI o => Sys2Proof.Machine.execCinvI o s
  | .ldnt o => Sys2Proof.Machine.execLdnt o s
  | .stnt o => Sys2Proof.Machine.execStnt o s
  | .tidset o => Sys2Proof.Machine.execTidset o s
  | .tidget o => Sys2Proof.Machine.execTidget o s
  | .tidmodBase o => Sys2Proof.Machine.execTidmodBase o s
  | .tidmodSbase o => Sys2Proof.Machine.execTidmodSbase o s
  | .tidmodSize o => Sys2Proof.Machine.execTidmodSize o s
  | .tidmodStride o => Sys2Proof.Machine.execTidmodStride o s
  | .tidmodValid o => Sys2Proof.Machine.execTidmodValid o s
  | .tidmodAddbase o => Sys2Proof.Machine.execTidmodAddbase o s
  | .tidchk o => Sys2Proof.Machine.execTidchk o s
  | .pbind o => Sys2Proof.Machine.execPbind o s
  | .punbind o => Sys2Proof.Machine.execPunbind o s
  | .pseek o => Sys2Proof.Machine.execPseek o s
  | .pstat o => Sys2Proof.Machine.execPstat o s
  | .pwin o => Sys2Proof.Machine.execPwin o s
  | .pxform o => Sys2Proof.Machine.execPxform o s
  | .cpy o => Sys2Proof.Machine.execCpy o s
  | .cpys o => Sys2Proof.Machine.execCpys o s
  | .cpyt o => Sys2Proof.Machine.execCpyt o s
  | .cpyq o => Sys2Proof.Machine.execCpyq o s
  | .cpyr o => Sys2Proof.Machine.execCpyr o s
  | .cpyw o => Sys2Proof.Machine.execCpyw o s
  | .barinit o => Sys2Proof.Machine.execBarinit o s
  | .bararm o => Sys2Proof.Machine.execBararm o s
  | .barwait o => Sys2Proof.Machine.execBarwait o s
  | .bartest o => Sys2Proof.Machine.execBartest o s
  | .bararr o => Sys2Proof.Machine.execBararr o s
  | .sptlook o => Sys2Proof.Machine.execSptlook o s
  | .sptins o => Sys2Proof.Machine.execSptins o s
  | .sptevict o => Sys2Proof.Machine.execSptevict o s
  | .sptread o => Sys2Proof.Machine.execSptread o s
  | .feset o => Sys2Proof.Machine.execFeset o s
  | .feclr o => Sys2Proof.Machine.execFeclr o s
  | .fetest o => Sys2Proof.Machine.execFetest o s
  | .pflush o => Sys2Proof.Machine.execPflush o s
  | .circ o => Sys2Proof.Machine.execCirc o s
  | .mxmma o => Sys2Proof.Machine.execMxmma o s
  | .mxzero o => Sys2Proof.Machine.execMxzero o s
  | .mxldacc o => Sys2Proof.Machine.execMxldacc o s
  | .mxstacc o => Sys2Proof.Machine.execMxstacc o s
  | .mxwload o => Sys2Proof.Machine.execMxwload o s
  | .mxwdrop o => Sys2Proof.Machine.execMxwdrop o s
  | .mxwdropAll o => Sys2Proof.Machine.execMxwdropAll o s
  | .mxscale o => Sys2Proof.Machine.execMxscale o s
  | .mxfmt o => Sys2Proof.Machine.execMxfmt o s
  | .mxchainOff o => Sys2Proof.Machine.execMxchainOff o s
  | .mxchainScale o => Sys2Proof.Machine.execMxchainScale o s
  | .mxchainBias o => Sys2Proof.Machine.execMxchainBias o s
  | .mxchainResid o => Sys2Proof.Machine.execMxchainResid o s
  | .mxchainAct o => Sys2Proof.Machine.execMxchainAct o s
  | .mxchainClamp o => Sys2Proof.Machine.execMxchainClamp o s
  | .mxchainQnt o => Sys2Proof.Machine.execMxchainQnt o s
  | .mxskipOff o => Sys2Proof.Machine.execMxskipOff o s
  | .mxskipOn o => Sys2Proof.Machine.execMxskipOn o s
  | .mxskipRd o => Sys2Proof.Machine.execMxskipRd o s
  | .mxwait o => Sys2Proof.Machine.execMxwait o s
  | .mxwaitAll o => Sys2Proof.Machine.execMxwaitAll o s
  | .mxstat o => Sys2Proof.Machine.execMxstat o s
  | .mxstatSlot o => Sys2Proof.Machine.execMxstatSlot o s
  | .mxstatZmask o => Sys2Proof.Machine.execMxstatZmask o s
  | .mxstatSkipcnt o => Sys2Proof.Machine.execMxstatSkipcnt o s
  | .vadd o => Sys2Proof.Machine.execVadd o s
  | .vsub o => Sys2Proof.Machine.execVsub o s
  | .vmul o => Sys2Proof.Machine.execVmul o s
  | .vfma o => Sys2Proof.Machine.execVfma o s
  | .vfms o => Sys2Proof.Machine.execVfms o s
  | .vdiv o => Sys2Proof.Machine.execVdiv o s
  | .vsqrt o => Sys2Proof.Machine.execVsqrt o s
  | .vrsq o => Sys2Proof.Machine.execVrsq o s
  | .vrcp o => Sys2Proof.Machine.execVrcp o s
  | .vmin o => Sys2Proof.Machine.execVmin o s
  | .vmax o => Sys2Proof.Machine.execVmax o s
  | .vabs o => Sys2Proof.Machine.execVabs o s
  | .vneg o => Sys2Proof.Machine.execVneg o s
  | .vfn o => Sys2Proof.Machine.execVfn o s
  | .vscaleb o => Sys2Proof.Machine.execVscaleb o s
  | .vround o => Sys2Proof.Machine.execVround o s
  | .vclass o => Sys2Proof.Machine.execVclass o s
  | .vcvtF2i o => Sys2Proof.Machine.execVcvtF2i o s
  | .vcvtI2f o => Sys2Proof.Machine.execVcvtI2f o s
  | .vcvtUi2f o => Sys2Proof.Machine.execVcvtUi2f o s
  | .vcvtF2bf o => Sys2Proof.Machine.execVcvtF2bf o s
  | .vcvtBf2f o => Sys2Proof.Machine.execVcvtBf2f o s
  | .vcvtF2h o => Sys2Proof.Machine.execVcvtF2h o s
  | .vcvtH2f o => Sys2Proof.Machine.execVcvtH2f o s
  | .vcvtF2e4 o => Sys2Proof.Machine.execVcvtF2e4 o s
  | .vcvtE42f o => Sys2Proof.Machine.execVcvtE42f o s
  | .vcvtF2e5 o => Sys2Proof.Machine.execVcvtF2e5 o s
  | .vcvtE52f o => Sys2Proof.Machine.execVcvtE52f o s
  | .vcvtF2i8 o => Sys2Proof.Machine.execVcvtF2i8 o s
  | .vcvtI82f o => Sys2Proof.Machine.execVcvtI82f o s
  | .vqntE4m3 o => Sys2Proof.Machine.execVqntE4m3 o s
  | .vqntBfp o => Sys2Proof.Machine.execVqntBfp o s
  | .vdqnt o => Sys2Proof.Machine.execVdqnt o s
  | .vcmp o => Sys2Proof.Machine.execVcmp o s
  | .vsel o => Sys2Proof.Machine.execVsel o s
  | .viadd o => Sys2Proof.Machine.execViadd o s
  | .visub o => Sys2Proof.Machine.execVisub o s
  | .vimul o => Sys2Proof.Machine.execVimul o s
  | .vimad o => Sys2Proof.Machine.execVimad o s
  | .vand o => Sys2Proof.Machine.execVand o s
  | .vor o => Sys2Proof.Machine.execVor o s
  | .vxor o => Sys2Proof.Machine.execVxor o s
  | .vshl o => Sys2Proof.Machine.execVshl o s
  | .vshr o => Sys2Proof.Machine.execVshr o s
  | .vsra o => Sys2Proof.Machine.execVsra o s
  | .vclz o => Sys2Proof.Machine.execVclz o s
  | .vpopc o => Sys2Proof.Machine.execVpopc o s
  | .vred o => Sys2Proof.Machine.execVred o s
  | .vscan o => Sys2Proof.Machine.execVscan o s
  | .vbcast o => Sys2Proof.Machine.execVbcast o s
  | .vbcastLane o => Sys2Proof.Machine.execVbcastLane o s
  | .vextr o => Sys2Proof.Machine.execVextr o s
  | .vins o => Sys2Proof.Machine.execVins o s
  | .vperm o => Sys2Proof.Machine.execVperm o s
  | .vrot o => Sys2Proof.Machine.execVrot o s
  | .viota o => Sys2Proof.Machine.execViota o s
  | .vsort o => Sys2Proof.Machine.execVsort o s
  | .vtopk o => Sys2Proof.Machine.execVtopk o s
  | .vgate o => Sys2Proof.Machine.execVgate o s
  | .vgateRenorm o => Sys2Proof.Machine.execVgateRenorm o s
  | .vhist o => Sys2Proof.Machine.execVhist o s
  | .vprng o => Sys2Proof.Machine.execVprng o s
  | .vprd o => Sys2Proof.Machine.execVprd o s
  | .vpwr o => Sys2Proof.Machine.execVpwr o s
  | .vpcnt o => Sys2Proof.Machine.execVpcnt o s
  | .vplogNz o => Sys2Proof.Machine.execVplogNz o s
  | .vplogBit o => Sys2Proof.Machine.execVplogBit o s
  | .vplogP2v o => Sys2Proof.Machine.execVplogP2v o s
  | .vmov o => Sys2Proof.Machine.execVmov o s
  | .mgisect o => Sys2Proof.Machine.execMgisect o s
  | .mgunion o => Sys2Proof.Machine.execMgunion o s
  | .mgdiff o => Sys2Proof.Machine.execMgdiff o s
  | .mgmerge o => Sys2Proof.Machine.execMgmerge o s
  | .mgsteer o => Sys2Proof.Machine.execMgsteer o s
  | .mgseq o => Sys2Proof.Machine.execMgseq o s
  | .mgstat o => Sys2Proof.Machine.execMgstat o s
  | .mgstatPart o => Sys2Proof.Machine.execMgstatPart o s
  | .mgstatLeaf o => Sys2Proof.Machine.execMgstatLeaf o s
  | .mgcfgPivot o => Sys2Proof.Machine.execMgcfgPivot o s
  | .mgcfgPread o => Sys2Proof.Machine.execMgcfgPread o s
  | .mgcfgMark o => Sys2Proof.Machine.execMgcfgMark o s
  | .screcBegin o => Sys2Proof.Machine.execScrecBegin o s
  | .screcEnd o => Sys2Proof.Machine.execScrecEnd o s
  | .scplay o => Sys2Proof.Machine.execScplay o s
  | .scguard o => Sys2Proof.Machine.execScguard o s
  | .scpatch o => Sys2Proof.Machine.execScpatch o s
  | .scinv o => Sys2Proof.Machine.execScinv o s
  | .scstat o => Sys2Proof.Machine.execScstat o s
  | .trap o => Sys2Proof.Machine.execTrap o s
  | .eret o => Sys2Proof.Machine.execEret o s
  | .eretSkip o => Sys2Proof.Machine.execEretSkip o s
  | .eretKill o => Sys2Proof.Machine.execEretKill o s
  | .tlbinvPage o => Sys2Proof.Machine.execTlbinvPage o s
  | .tlbinvAsid o => Sys2Proof.Machine.execTlbinvAsid o s
  | .tlbinvAll o => Sys2Proof.Machine.execTlbinvAll o s
  | .asidset o => Sys2Proof.Machine.execAsidset o s
  | .ctxsave o => Sys2Proof.Machine.execCtxsave o s
  | .ctxload o => Sys2Proof.Machine.execCtxload o s
  | .resume o => Sys2Proof.Machine.execResume o s
  | .drain o => Sys2Proof.Machine.execDrain o s
  | .wfi o => Sys2Proof.Machine.execWfi o s
  | .brk o => Sys2Proof.Machine.execBrk o s
  | .memctlTag o => Sys2Proof.Machine.execMemctlTag o s
  | .memctlFmr o => Sys2Proof.Machine.execMemctlFmr o s
  | .memctlRd o => Sys2Proof.Machine.execMemctlRd o s
  | .memctlWr o => Sys2Proof.Machine.execMemctlWr o s
  | .balloonAdd o => Sys2Proof.Machine.execBalloonAdd o s
  | .balloonRem o => Sys2Proof.Machine.execBalloonRem o s
  | .balloonPri o => Sys2Proof.Machine.execBalloonPri o s
  | .qpost o => Sys2Proof.Machine.execQpost o s
  | .pinit o => Sys2Proof.Machine.execPinit o s
  | .irqCore o => Sys2Proof.Machine.execIrqCore o s
  | .irqHost o => Sys2Proof.Machine.execIrqHost o s
  | .walk o => Sys2Proof.Machine.execWalk o s
  | .parseStep u => Sys2Proof.Machine.execParseStep u s
  | .mismatchRecordWrite u => Sys2Proof.Machine.execMismatchRecordWrite u s
  | .recoveryStep u => Sys2Proof.Machine.execRecoveryStep u s
  | .markArrival u => Sys2Proof.Machine.execMarkArrival u s
  | .contextAged u => Sys2Proof.Machine.execContextAged u s
  | .watchdog u => Sys2Proof.Machine.execWatchdog u s
  | .trapEntry => Sys2Proof.Machine.execTrapEntry s
  | .interruptDelivery => Sys2Proof.Machine.execInterruptDelivery s
  | .invocationStart id => Sys2Proof.Machine.execInvocationStart id s
  | .engineQueueRoom c => Sys2Proof.Machine.execEngineQueueRoom c s
  | .invocationCommit id => Sys2Proof.Machine.execInvocationCommit id s
  | .ligatureTermFire => Sys2Proof.Machine.execLigatureTermFire s
  | .portAccess p => Sys2Proof.Machine.execPortAccess p s
  | .generatorFaultDelivery => Sys2Proof.Machine.execGeneratorFaultDelivery s
  | .circuitBeatArrival p fromPeer => Sys2Proof.Machine.execCircuitBeatArrival p fromPeer s
  | .circuitLoss p => Sys2Proof.Machine.execCircuitLoss p s
  | .barwaitWake c => Sys2Proof.Machine.execBarwaitWake c s
  | .fullWaitWake c => Sys2Proof.Machine.execFullWaitWake c s
  | .sigwaitWake c => Sys2Proof.Machine.execSigwaitWake c s
  | .evwaitWake c => Sys2Proof.Machine.execEvwaitWake c s
  | .mxwaitWake c => Sys2Proof.Machine.execMxwaitWake c s
  | .peekWake c => Sys2Proof.Machine.execPeekWake c s
  | .wfiWake => Sys2Proof.Machine.execWfiWake s
  | .portQuiesceWake c => Sys2Proof.Machine.execPortQuiesceWake c s
  | .cutComplete => Sys2Proof.Machine.execCutComplete s
  | .regionDrainComplete rcb => Sys2Proof.Machine.execRegionDrainComplete rcb s
  | .scribeBindWrite die slot record => Sys2Proof.Machine.execScribeBindWrite die slot record s
  | .bindRecordCheck die => Sys2Proof.Machine.execBindRecordCheck die s
  | .groupRetire u => Sys2Proof.Machine.execGroupRetire u s
  | .launchCompletion slot => Sys2Proof.Machine.execLaunchCompletion slot s
  | .coalesceTimeExpiry slot => Sys2Proof.Machine.execCoalesceTimeExpiry slot s
  | .doorbellWrite q wptr => Sys2Proof.Machine.execDoorbellWrite q wptr s
  | .queueStateWrite q value => Sys2Proof.Machine.execQueueStateWrite q value s
  | .nopPacket q => Sys2Proof.Machine.execNopPacket q s
  | .launchPacket q => Sys2Proof.Machine.execLaunchPacket q s
  | .bindPacket q => Sys2Proof.Machine.execBindPacket q s
  | .signalPacket q => Sys2Proof.Machine.execSignalPacket q s
  | .waitPacket q => Sys2Proof.Machine.execWaitPacket q s
  | .indirectPacket q => Sys2Proof.Machine.execIndirectPacket q s
  | .pinitPacket q => Sys2Proof.Machine.execPinitPacket q s
  | .fencePacket q => Sys2Proof.Machine.execFencePacket q s
  | .recordPacket q => Sys2Proof.Machine.execRecordPacket q s
  | .replayPacket q => Sys2Proof.Machine.execReplayPacket q s
  | .queueHoldRelease q => Sys2Proof.Machine.execQueueHoldRelease q s
  | .queueLost q => Sys2Proof.Machine.execQueueLost q s
  | .scribeReset => Sys2Proof.Machine.execScribeReset s
  | .wellWriteback line => Sys2Proof.Machine.execWellWriteback line s
  | .deferredLineWriteback die => Sys2Proof.Machine.execDeferredLineWriteback die s
  | .heldWriteServed die => Sys2Proof.Machine.execHeldWriteServed die s
  | .holdBudgetExpiry die => Sys2Proof.Machine.execHoldBudgetExpiry die s
  | .idleCompaction frame => Sys2Proof.Machine.execIdleCompaction frame s
  | .blotterKresRefill die => Sys2Proof.Machine.execBlotterKresRefill die s
  | .blotterReclaim die => Sys2Proof.Machine.execBlotterReclaim die s
  | .blotterHwresDraw die => Sys2Proof.Machine.execBlotterHwresDraw die s
  | .blotterHwresRefill die => Sys2Proof.Machine.execBlotterHwresRefill die s
  | .replayCmd u => Sys2Proof.Machine.execReplayCmd u s
  | .replayGuard u => Sys2Proof.Machine.execReplayGuard u s
  | .replayEnd u => Sys2Proof.Machine.execReplayEnd u s
  | .vfBindingWrite vf value => Sys2Proof.Machine.execVfBindingWrite vf value s
  | .apertureRead vf off n => Sys2Proof.Machine.execApertureRead vf off n s
  | .apertureWrite vf off data => Sys2Proof.Machine.execApertureWrite vf off data s
  | .kbootGo => Sys2Proof.Machine.execKbootGo s
  | .fwslotGo k => Sys2Proof.Machine.execFwslotGo k s
  | .firmwareCheckDone k => Sys2Proof.Machine.execFirmwareCheckDone k s
  | .kdoorWrite value => Sys2Proof.Machine.execKdoorWrite value s
  | .attestationGo => Sys2Proof.Machine.execAttestationGo s
  | .attestationDone => Sys2Proof.Machine.execAttestationDone s
  | .mctlWrite die value => Sys2Proof.Machine.execMctlWrite die value s
  | .copyTraceControlWrite core value => Sys2Proof.Machine.execCopyTraceControlWrite core value s
  | .hostRegisterWrite off value => Sys2Proof.Machine.execHostRegisterWrite off value s
  | .relfelLinkFailure link => Sys2Proof.Machine.execRelfelLinkFailure link s
  | .thermalGatingChange die gate => Sys2Proof.Machine.execThermalGatingChange die gate s
  | .thermalTrip die => Sys2Proof.Machine.execThermalTrip die s
  | .uncorrectableCoreError => Sys2Proof.Machine.execUncorrectableCoreError s
  | .coldReset => Sys2Proof.Machine.execColdReset s
  | .warmReset => Sys2Proof.Machine.execWarmReset s
  | .reservedOpcode o op sub => Sys2Proof.Machine.execReservedOpcode o op sub s
  | .pfBar2Access off n data => Sys2Proof.Machine.execPfBar2Access off n data s
  | .peerWindowAccess link dpa n data => Sys2Proof.Machine.execPeerWindowAccess link dpa n data s
  | .scribeRebalance u core v => Sys2Proof.Machine.execScribeRebalance u core v s
  | .scribeReloadComplete => Sys2Proof.Machine.execScribeReloadComplete s

end Sys2Proof.Machine
end

