-- ==== Sys2Proof/Machine/Schedule.lean ====
section
/-! DEFINITION. Who moves next when the agenda says nothing: the hardware's own steps, then the context that the core selects (R23 to R26, R484), and one cycle of time. -/

namespace Sys2Proof.Machine

/-! ## The hardware's own steps

Each gives the state after it, or none when nothing of its kind is to be done. -/

/-- The first move of a list that is there. -/
def firstMove (l : List (State → Option State)) (s : State) : Option State := l.findSome? (fun f => f s)

/-- A step of the boot. -/
def bootMove (s : State) : Option State := if s.hub.stage.toNat < 4 then some s.powerUp else none

/-- Waiting traps, faults and interrupts, in the order of R313. -/
def trapMove (s : State) : Option State :=
  if s.canTrap then some s.takePending
  else if s.canDeliver then some s.deliverFault
  else
    match uCtxs.find? (fun u => s.core.expired u && s.watchdogFirst u) with
    | some u => some (s.watchdog u)
    | none => if s.canInterrupt then some s.deliverIrq else none

/-- A restore that waited for its ports takes effect (R163, R336). -/
def State.canRestore (s : State) : Bool := s.core.restore.isSome && !s.core.inTrap && !s.core.halted && !s.core.restoreWaits

/-- The end of a cut, of a restore, of a group, of a drain. -/
def endMove (s : State) : Option State :=
  if s.core.canCut then some s.completeCut
  else if s.canRestore then some s.contextRestore
  else
    match uCtxs.find? (fun u => s.core.canRetire u) with
    | some u => some (s.retireGroup u)
    | none => (s.hub.regions.find? (fun e => s.canEndDrain e.1)).map (fun e => s.endDrain e.1)

/-- A step of the Ductus that takes no issue slot: one of a drain (R15, R246), or the end of a mismatch (R240). -/
def ductusMove (s : State) : Option State :=
  uCtxs.findSome? (fun u =>
    let x := s.ctxAt u
    if x.drains && !s.core.isCut u then
      let t := s.drainMove u
      if t.ctxAt u = x && t.core.ports = s.core.ports && t.core.cut = s.core.cut then none else some t
    else s.mismatchMove u)

/-- Of two ends the one that comes first from a rank on, in the order of a cycle and then of the next (R136, R142). -/
def sooner (now : Nat) (a : Option (Nat × State)) (b : Nat × State) : Option (Nat × State) :=
  let key := fun (r : Nat) => if now ≤ r then r else r + 32
  match a with
  | some c => if key b.1 < key c.1 then some b else a
  | none => some b

/-- Ligature firings, an invocation's start or end. -/
def engineMove (s : State) : Option State :=
  if s.core.halted then none
  else if !s.core.firing.isEmpty then some s.fireTerm
  else
    match s.core.invs.find? (fun v => canStart s v) with
    | some v => some (s.startInv v.id)
    | none => ((s.core.invs.filterMap (fun v => (s.endMade v).map (fun t => (v.rank, t)))).foldl (sooner s.core.rank) none).map (·.2)

/-- A port's access, a circuit's symbol, or a symbol that enters a mark queue. -/
def portMove (s : State) : Option State :=
  (List.range 8).findSome? (fun p =>
    if s.canAccess p || (s.peerSender p).isSome || (s.peerReader p).isSome || (s.linearOn p).isSome then progress s (s.portAccess p)
    else if (s.core.circOn p).isSome then progress s (s.circArrival p none)
    else none)
  |>.or (uCtxs.findSome? (fun u => progress s (s.markArrival u)))

/-- The write held first on a die has taken a chunk or has gone. -/
def State.heldMove (s : State) (d : Nat) : Option State :=
  let t := s.serveHeld d
  if (t.die d).held = (s.die d).held && (t.die d).free = (s.die d).free then none else some t

/-- A Well that holds more dirty lines than it has room for writes one back (log entry 25). -/
def State.wellMove (s : State) (d : Nat) : Option State :=
  let x := s.die d
  if x.dirty.length ≤ wellLines then none
  else (x.dirty.find? (fun e => !x.deferred.contains e.1)).map (fun e => s.wellWriteback e.1)

/-- The Blotter's next step (R432). -/
def State.blotterMove (s : State) (d : Nat) : Option State :=
  let x := s.die d
  if x.canKres then some (s.putDie d x.kresRefill)
  else if x.canReclaim then some (s.reclaim d)
  else if x.canDraw then some (s.hwresDraw d)
  else if x.canRefill then some (s.putDie d x.hwresRefill)
  else none

/-- Storage: what a halted core's commits obtained is returned, held writes take chunks as they enter the pool or run out of their budget, then the Blotter, a full Well, deferred lines; nothing waits for one that finds no storage (R432, R433, R435, R444). -/
def storageMove (s : State) : Option State :=
  (List.range 8).findSome? (fun d =>
    let x := s.die d
    (match x.undone with | u :: t => some ((s.putDie d { x with undone := t }).undoFrame u) | [] => none)
      |>.or (if !x.held.isEmpty && decide (0 < x.free) then s.heldMove d else none)
      |>.or (if (s.overdue d).isSome then some (s.expireHeld d) else none)
      |>.or (s.blotterMove d)
      |>.or (s.wellMove d)
      |>.or (let t := s.deferredWriteback d; if (t.die d).deferred = x.deferred then none else some t))

/-- The front end's turn: a queue whose hold is over, or the next packet of a queue, round-robin. -/
def queueMove (s : State) : Option State :=
  let qs := s.hub.queues.map (·.1)
  let order := qs.filter (fun q => decide (s.hub.nextQ ≤ q)) ++ qs.filter (fun q => decide (q < s.hub.nextQ))
  order.findSome? (fun q => ((s.heldPacket q).map (fun p => s.runPacket q p)).or (s.queueTurn q (fun _ => true)))

/-- The scratchpad bytes that groups of an image need on a core; a barrier slot is a word of the scratchpad (R133). -/
def Needs.onCore (n : Needs) : Nat := n.spad + 8 * n.bars

/-- A core's scratchpad fits another group of an image beside those of the groups that it holds (R484; log entry 45). -/
def State.fits (s : State) (c : Core) (i : Image) : Bool :=
  let of := fun (u : CtxId) => (((c.ctxOf u).group.bind (fun g => s.region g.rcb)).bind (fun r => r.image)).map (fun k => k.groupNeeds.onCore)
  decide ((uCtxs.filterMap of).sum + i.groupNeeds.onCore ≤ spmSize)

/-- The place of the next group of a launch under the default policy (R484): the first free context whose needs fit of the cores of the image, from the one after the last used. -/
def State.placeFor (s : State) (l : Launch) : Option (Nat × CtxId) :=
  match s.region l.rcb with
  | none => none
  | some r =>
    match r.image with
    | none => none
    | some i =>
      let from' := if i.base ≤ r.nextCore && r.nextCore < i.base + i.ncore then r.nextCore - i.base else 0
      (List.range i.ncore).findSome? (fun k =>
        let n := i.base + (from' + k) % i.ncore
        let c := s.coreOf n
        if c.halted || (s.die (n / 64)).noBind || !s.fits c i then none
        else (uCtxs.find? (fun u => (c.ctxOf u).group.isNone && !c.restore.any (fun x => x.ctx = u))).map (fun u => (n, u)))

/-- A record of a launch is in a slot, or its next group was refused with code 3 or 5 and waits for a retirement (R484). -/
def State.placing (s : State) (slot : Nat) (l : Launch) : Bool :=
  (List.range 8).any (fun d =>
    (s.die d).bind.any (fun e => e.2.any (fun r => bindSlot r = slot))
      || (s.die d).refused.any (fun e => (e.2.2 = 3 || e.2.2 = 5) && bindSlot e.2.1 = slot && bindGidx e.2.1 = l.nextG))

/-- The Scribe's next bind record (R484). -/
def scribeMove (s : State) : Option State :=
  if s.hub.stage ≠ 5 || !s.hub.scribeUp then none
  else
    s.hub.accepted.findSome? (fun i =>
      match s.launch i with
      | none => none
      | some l =>
        if l.closed || s.placing i l || s.laterTurn i l then none
        else
          match s.placeFor l with
          | none => none
          | some (core, u) =>
            let d := core / 64
            ((List.range 256).find? (fun k => (SMap.get none (s.die d).bind k).isNone)).map (fun k =>
              s.scribeWrite d k (bindRecord l.nextG i (ctxNum u) core)))

/-- A completion may take effect: its ring, where it needs one, has room. -/
def State.canComplete (s : State) (l : Launch) : Bool :=
  l.over &&
    (let rc := s.rcb l.asid l.rcbVa.toNat
     if rc.cmode = 1 || rc.cmode = 2 then (match s.ring l.asid rc.evr with | some r => !r.full | none => true) else true)

/-- Of the launches that may complete the one that ended first, of one cycle that of the lowest queue (R489). -/
def State.nextComplete (s : State) : Option Nat :=
  let l := s.hub.accepted.filterMap (fun i => (s.launch i).bind (fun l => if s.canComplete l then some (i, l.ended.getD 0, l.q) else none))
  (l.foldl (fun a b => match a with
    | some c => if b.2.1 < c.2.1 || (b.2.1 = c.2.1 && b.2.2 < c.2.2) then some b else a
    | none => some b) none).map (·.1)

/-- Dispatch: a bind record, a completion, the time of an event ring, a firmware check, an attestation report. -/
def dispatchMove (s : State) : Option State :=
  match (List.range 8).findSome? s.recordMove with
  | some t => some t
  | none =>
    match s.nextComplete with
    | some i =>
      let t := s.completeLaunch i
      some { t with dies := t.dies.map (fun e => (e.1, { e.2 with refused := e.2.refused.filter (fun r => bindSlot r.2.1 ≠ i) })) }
    | none =>
      match s.hub.rings.find? (fun e => s.ringDue e.1) with
      | some e => some (s.ringExpiry e.1)
      | none =>
        match (List.range 3).find? (fun k => (s.hub.slot k).found.isSome) with
        | some k => some (s.fwDone k)
        | none => if s.hub.attestGo && s.hub.spst = 0 then some s.attested else none

/-- The hardware's next step, none when it has none to take. -/
def State.hwMove (s : State) : Option State :=
  firstMove [bootMove, trapMove, endMove, ductusMove, engineMove, portMove, storageMove, queueMove, dispatchMove, scribeMove] s

/-! ## Time, and the other cores -/

/-- A core has work. A halted one has the groups that are still to retire (R314). -/
def Core.busy (c : Core) : Bool :=
  uCtxs.any (fun u => (c.ctxOf u).group.isSome) || (!c.halted && (c.inTrap || !c.invs.isEmpty || !c.irqs.isEmpty || !c.pend.isEmpty))

/-- The next core with work, in ascending number, is looked at. -/
def State.passTurn (s : State) : State :=
  let l := (s.others.filter (fun e => e.2.busy)).map (·.1)
  match (l.find? (fun n => decide (s.coreId < n))).or l.head? with
  | some n => s.focus n
  | none => s

/-- The issue slot of a cycle; then the next core is looked at, and the hardware moves first. -/
def State.cycleStep (s : State) : State := { (s.inSlot State.issueSlot).passTurn with hwNext := true }

/-- What happens when the agenda is empty: the hardware and the cores move in turn. -/
def State.runOne (s : State) : State :=
  match (if s.hwNext then s.hwMove else none) with
  | some t => { t with hwNext := false }
  | none => s.cycleStep

/-- A step of the hardware or of another agent, as the agenda may hold it: no instruction of a core. -/
def isExternal (i : Instr) : Bool :=
  match i with
  | .reservedOpcode .. => false
  | _ => i.opcode?.isNone

/-! ## Placing an instruction where the machine fetches next -/

/-- The VA and DPA of a placed instruction. -/
abbrev placeAt : Nat := 0x3000

/-- Memory as a placed instruction needs it: a root table at 0x1000 whose entry 0 names the table at 0x2000, whose entry 0 is a leaf of 1 GiB from DPA 0 on with write and execute permission; the bytes at 0x3000. -/
def placeBytes (s : State) (bs : List Byte) : State :=
  ((s.pokeBytes 0x1000 (leBytes 8 0x2001)).pokeBytes 0x2000 (leBytes 8 0x429)).pokeBytes placeAt bs

/-- The core that runs a placed instruction: in a trap, its K context at the instruction, under ASID 0, nothing cached. -/
def Core.placed (c : Core) : Core :=
  { c with
    inTrap := true
    halted := false
    cur := .k
    asid := 0
    icache := []
    l1tlb := []
    invs := []
    k := { c.k with pc := BitVec.ofNat 64 placeAt, waiting := none, evWait := none, waited := 0, wfiLeft := none } }

/-- The state with the bytes placed where its next step fetches. -/
def State.place (s : State) (bs : List Byte) : State :=
  let t := placeBytes s bs
  { t with
    core := t.core.placed
    agenda := []
    hwNext := false
    hub := { t.hub with roots := SMap.set 0 t.hub.roots 0 0x1001#64 }
    dies := t.dies.map (fun e => (e.1, { e.2 with tlb := [], gate := 0 })) }

end Sys2Proof.Machine
end

