-- ==== Sys2Proof/Machine/Step.lean ====
section
/-! DEFINITION. The step of the machine: what the agenda names, or what moves by itself. -/

namespace Sys2Proof.Machine

/-- One step. The agenda's head is a step of the hardware or of another agent, a core to look at, or a read by the host; with an empty agenda the hardware and the cores move in turn.
An instruction on the agenda is passed over: instructions are fetched. -/
def step (s : State) : Host.Outcome State Fault Refusal :=
  match s.agenda with
  | .event i :: t => if isExternal i then exec i { s with agenda := t } else .next { s with agenda := t }
  | .focus n :: t => .next ({ s with agenda := t }.focus n.toNat)
  | .pfRead off :: t => .next ({ s with agenda := t }.toHost (leBytes 8 (s.pfWord off.toNat).toNat))
  | .vfRead v off :: t => .next ({ s with agenda := t }.toHost (s.vfBytes v.toNat off.toNat))
  | [] => .next s.runOne

/-- The state with an instruction, whose low nbits bits are w and whose other bits are 0, where the next step fetches. -/
def State.withFetchWord (s : State) (nbits w : Nat) : State := s.place (leBytes 12 (w % 2 ^ nbits))

end Sys2Proof.Machine
end

