-- ==== Sys2Proof/Safety.lean ====
section
/-! DEFINITION. What counts as a safe run, and the terms in which claims speak of an instruction that may run. -/

namespace Sys2Proof.Machine

/-- The core runs, and no budget is spent: the checks of R68 that stand before an instruction's own. -/
def Open (s : State) : Prop := s.core.halted = false ∧ s.overBudget = false

/-- The instruction runs: nothing before it stops it, and lane 0 of its guard is set (R61). -/
def Ready (o : Ops) (s : State) : Prop := Open s ∧ s.guard0 o = true

/-- The instruction runs at K-level (R69). -/
def ReadyK (o : Ops) (s : State) : Prop := Ready o s ∧ s.core.cur = .k

/-- The lane operations of PLOG, by truth table (R263). -/
def laneLogic (q : Nat) (a b : Bool) : Bool :=
  match q with
  | 0 => a && b
  | 1 => a || b
  | 2 => a != b
  | 3 => a && !b
  | 4 => a || !b
  | 5 => !(a && b)
  | 6 => !(a || b)
  | _ => a == b

/-- The executing context, of one of the module's cores, can miss no store to n bytes at a place (R116, R119). -/
def State.settledAt (s : State) (a n : Nat) : Prop := s.coreId < 512 ∧ ∀ e ∈ s.unseen, e.mayMiss s.me = true → e.stores a n = false

/-- The executing context can miss no store to the bytes of parts. -/
def State.settled (s : State) (ps : List Part) : Prop := ∀ p ∈ ps, s.settledAt p.dpa p.len

/-- Main memory is in its canonical form, at the core looked at and everywhere: there is one memory. -/
def Canonical (s : State) : Prop := Memory.wf s.mem = true

/-- A step that answers a state in which the core looked at has not halted. -/
def SafeStep (s : State) : Prop := ∃ t, step s = .next t ∧ t.core.halted = false

/-- A run of n steps, every one of them safe. -/
def SafeRun : Nat → State → Prop
  | 0, _ => True
  | n + 1, s => ∃ t, step s = .next t ∧ t.core.halted = false ∧ SafeRun n t

/-- A vector form writes lane k of V[D] with f k where its mask is set, keeps the other lanes, and raises the flags of the lanes written; nothing else changes but the count and the address (R364, R368). -/
def LaneResult (o : Ops) (s : State) (i : Instr) (f : Nat → BitVec 32 × BitVec 16) : Prop :=
  ∃ (v : VReg) (g : BitVec 16), exec i s = .next (((s.setV o.d v).addFlags g).goTo (s.nextPc o)) ∧
    (∀ k, k < 256 → lane v k = if (guardMask s.ctx o.g).getLsbD k then (f k).1 else lane (s.getV o.d) k) ∧
    (∀ n, n < 16 → (g.getLsbD n = true ↔ ∃ k, k < 256 ∧ (guardMask s.ctx o.g).getLsbD k = true ∧ (f k).2.getLsbD n = true))

/-- A vector form writes lane k of P[D] with f k where its mask is set and with 0 elsewhere (R380). -/
def PredResult (o : Ops) (s : State) (i : Instr) (f : Nat → Bool) : Prop :=
  ∃ p : PReg, exec i s = .next ((s.setP o.d p).goTo (s.nextPc o)) ∧
    ∀ k, k < 256 → p.getLsbD k = ((guardMask s.ctx o.g).getLsbD k && f k)

/-- A vector form writes elements of width w into part Imm of V[D], element k where lane k of its mask is set, and keeps every other element (R377). -/
def PartResult (o : Ops) (s : State) (i : Instr) (w : Nat) (f : Nat → Nat × BitVec 16) : Prop :=
  ∃ (v : VReg) (g : BitVec 16), exec i s = .next (((s.setV o.d v).addFlags g).goTo (s.nextPc o)) ∧
    (∀ e, w * e < 8192 → packed v w e =
      if 256 * o.imm.toNat ≤ e ∧ e < 256 * o.imm.toNat + 256 ∧ (guardMask s.ctx o.g).getLsbD (e - 256 * o.imm.toNat) then (f (e - 256 * o.imm.toNat)).1 % 2 ^ w
      else packed (s.getV o.d) w e)

/-- An instruction issues an invocation and goes on (R31, R32). -/
def Issues (o : Ops) (s : State) (i : Instr) (op : Nat) (ports : List Nat) (held : Bool) : Prop :=
  exec i s = .next ((s.addInv (s.newInv op o ports held)).goTo (s.nextPc o))

/-- The barrier that a register names passes its checks at issue; register 0 names none (R185). -/
def BarrierOk (s : State) (r : BitVec 6) : Prop := r ≠ 0 → (s.getS r).toNat % 8 = 0 ∧ (s.getS r).toNat < 0x400000

/-- The queue of an engine has room (R32). -/
def Room (s : State) (u : Nat) : Prop := s.core.engineCount u < 8

end Sys2Proof.Machine
end

