-- ==== Sys2Proof/Certificates/Slice0/Obligations.lean ====
section
/-! DEFINITION. The statements for the provers: what the instructions, the steps of the agents and the machine as a whole do, from the rules of the manual. -/

open Sys2Proof Sys2Proof.Machine

/-- The forms of R254, R262 and R264 that move a register or a constant, and what they leave. SEL takes its first operand where lane 0 of its predicate is 1, and always with p0. -/
def Obligations.MoveResults : Prop :=
  ∀ (o : Ops) (s : State), Ready o s →
    exec (.nop o) s = .next (s.goTo (s.nextPc o)) ∧
    exec (.mov o) s = .next ((s.setS o.d (s.getS o.a)).goTo (s.nextPc o)) ∧
    exec (.movi o) s = .next ((s.setS o.d (o.imm.signExtend 64)).goTo (s.nextPc o)) ∧
    (∃ w : Word, w.extractLsb' 32 32 = o.imm.extractLsb' 0 32 ∧ w.extractLsb' 0 32 = (s.getS o.d).extractLsb' 0 32 ∧
      exec (.moviHi o) s = .next ((s.setS o.d w).goTo (s.nextPc o))) ∧
    exec (.sel o) s = .next ((s.setS o.d (if (s.getP o.c).getLsbD 0 then s.getS o.a else s.getS o.b)).goTo (s.nextPc o)) ∧
    exec (.pmov o) s = .next ((s.setP o.d (s.getP o.a)).goTo (s.nextPc o)) ∧
    exec (.pmovTo o) s = .next ((s.setS o.d ((s.getP o.a).extractLsb' (64 * (o.imm.toNat % 4)) 64)).goTo (s.nextPc o)) ∧
    (o.c = 0 → exec (.sel o) s = .next ((s.setS o.d (s.getS o.a)).goTo (s.nextPc o))) ∧
    (∃ p : PReg, (∀ i, i < 256 → p.getLsbD i =
        if i / 64 = o.imm.toNat % 4 then (s.getS o.a).getLsbD (i % 64) else (s.getP o.d).getLsbD i) ∧
      exec (.pmovFrom o) s = .next ((s.setP o.d p).goTo (s.nextPc o)))

/-- R255 in integers: sums, differences, products and their high halves, and the bitwise forms. R255 for a divisor that is not zero: the quotient is rounded toward zero, the remainder has the dividend's sign. A zero divisor raises DIVIDE_ZERO with KAUX0 0 and the dividend in KAUX1 (R255). -/
def Obligations.ArithmeticResults : Prop :=
  (
  ∀ (o : Ops) (s : State), Ready o s →
    let a := s.getS o.a
    let b := s.getS o.b
    let k : Word := o.imm.signExtend 64
    let put := fun (w : Word) => Host.Outcome.next (φ := Fault) (ρ := Refusal) ((s.setS o.d w).goTo (s.nextPc o))
    exec (.add o) s = put (BitVec.ofNat 64 (a.toNat + b.toNat)) ∧
    exec (.addi o) s = put (BitVec.ofNat 64 (a.toNat + k.toNat)) ∧
    exec (.sub o) s = put (BitVec.ofInt 64 ((a.toNat : Int) - b.toNat)) ∧
    exec (.mul o) s = put (BitVec.ofInt 64 (a.toInt * b.toInt)) ∧
    exec (.mulh o) s = put (BitVec.ofInt 64 (a.toInt * b.toInt / 2 ^ 64)) ∧
    exec (.mulhu o) s = put (BitVec.ofNat 64 (a.toNat * b.toNat / 2 ^ 64)) ∧
    exec (.and o) s = put (a &&& b) ∧ exec (.andi o) s = put (a &&& k) ∧
    exec (.or o) s = put (a ||| b) ∧ exec (.ori o) s = put (a ||| k) ∧
    exec (.xor o) s = put (a ^^^ b) ∧ exec (.xori o) s = put (a ^^^ k) ∧
    exec (.lea o) s = put (BitVec.ofNat 64 (a.toNat + b.toNat * 2 ^ o.q.toNat + k.toNat))) ∧
  (
  ∀ (o : Ops) (s : State), Ready o s → s.getS o.b ≠ 0 →
    let a := s.getS o.a
    let b := s.getS o.b
    let put := fun (w : Word) => Host.Outcome.next (φ := Fault) (ρ := Refusal) ((s.setS o.d w).goTo (s.nextPc o))
    exec (.div o) s = put (BitVec.ofInt 64 (a.toInt.tdiv b.toInt)) ∧
    exec (.divu o) s = put (BitVec.ofNat 64 (a.toNat / b.toNat)) ∧
    exec (.rem o) s = put (BitVec.ofInt 64 (a.toInt - a.toInt.tdiv b.toInt * b.toInt)) ∧
    exec (.remu o) s = put (BitVec.ofNat 64 (a.toNat % b.toNat))) ∧
  (
  ∀ (o : Ops) (s : State), Ready o s → s.getS o.b = 0 →
    let t := Host.Outcome.next (φ := Fault) (ρ := Refusal) (s.trapA ⟨cDivideZero, some 0, some (s.getS o.a), none, none⟩ o.form.bytes)
    exec (.div o) s = t ∧ exec (.divu o) s = t ∧ exec (.rem o) s = t ∧ exec (.remu o) s = t)

/-- Each result bit of the shifts and of the rotation. Comparisons give 1 or 0, or a predicate whose lanes are all the result; minimum and maximum, signed and unsigned. (Rests on R256; R257 and R261.) -/
def Obligations.ShiftAndCompareResults : Prop :=
  (
  ∀ (o : Ops) (s : State), Ready o s → o.imm.toNat < 64 →
    let a := s.getS o.a
    let n := (s.getS o.b).toNat % 64
    let k := o.imm.toNat
    let r := ((s.getS o.b).toNat + k) % 64
    let put := fun (w : Word) => Host.Outcome.next (φ := Fault) (ρ := Refusal) ((s.setS o.d w).goTo (s.nextPc o))
    exec (.shl o) s = put (BitVec.ofNat 64 (a.toNat * 2 ^ n)) ∧ exec (.shli o) s = put (BitVec.ofNat 64 (a.toNat * 2 ^ k)) ∧
    exec (.shr o) s = put (BitVec.ofNat 64 (a.toNat / 2 ^ n)) ∧ exec (.shri o) s = put (BitVec.ofNat 64 (a.toNat / 2 ^ k)) ∧
    exec (.sra o) s = put (BitVec.ofInt 64 (a.toInt / 2 ^ n)) ∧ exec (.srai o) s = put (BitVec.ofInt 64 (a.toInt / 2 ^ k)) ∧
    (∃ w : Word, (∀ i, i < 64 → w.getLsbD ((i + r) % 64) = a.getLsbD i) ∧ exec (.rol o) s = put w)) ∧
  (
  ∀ (o : Ops) (s : State), Ready o s →
    let a := s.getS o.a
    let b := s.getS o.b
    let k : Word := o.imm.signExtend 64
    let put := fun (w : Word) => Host.Outcome.next (φ := Fault) (ρ := Refusal) ((s.setS o.d w).goTo (s.nextPc o))
    exec (.slt o) s = put (if a.toInt < b.toInt then 1 else 0) ∧
    exec (.sltu o) s = put (if a.toNat < b.toNat then 1 else 0) ∧
    exec (.slti o) s = put (if a.toInt < k.toInt then 1 else 0) ∧
    exec (.min o) s = put (BitVec.ofInt 64 (min a.toInt b.toInt)) ∧
    exec (.max o) s = put (BitVec.ofInt 64 (max a.toInt b.toInt)) ∧
    exec (.minu o) s = put (BitVec.ofNat 64 (min a.toNat b.toNat)) ∧
    exec (.maxu o) s = put (BitVec.ofNat 64 (max a.toNat b.toNat)) ∧
    (∃ p : PReg, (∀ i, i < 256 → p.getLsbD i = intCond o.q.toNat a (b + k)) ∧
      exec (.cmpp o) s = .next ((s.setP o.d p).goTo (s.nextPc o))) ∧
    (∃ p : PReg, (∀ i, i < 256 → p.getLsbD i = laneLogic o.q.toNat ((s.getP o.a).getLsbD i) ((s.getP o.b).getLsbD i)) ∧
      (o.q.toNat < 8 → exec (.plog o) s = .next ((s.setP o.d p).goTo (s.nextPc o)))))

/-- Counts of bits, byte order, and bit fields, by the bits of the result. (Rests on R258 and R259.) -/
def Obligations.BitFieldResults : Prop :=
  ∀ (o : Ops) (s : State), Ready o s →
    let a := s.getS o.a
    let pos := o.imm.toNat % 64
    let len := o.imm.toNat / 64 % 64 + 1
    let put := fun (w : Word) => Host.Outcome.next (φ := Fault) (ρ := Refusal) ((s.setS o.d w).goTo (s.nextPc o))
    (∃ n : Nat, n ≤ 64 ∧ (∀ i, 64 - n ≤ i → i < 64 → a.getLsbD i = false) ∧ (n < 64 → a.getLsbD (63 - n) = true) ∧ exec (.clz o) s = put (BitVec.ofNat 64 n)) ∧
    (∃ n : Nat, n ≤ 64 ∧ (∀ i, i < n → a.getLsbD i = false) ∧ (n < 64 → a.getLsbD n = true) ∧ exec (.ctz o) s = put (BitVec.ofNat 64 n)) ∧
    exec (.popc o) s = put (BitVec.ofNat 64 ((List.range 64).countP (fun i => a.getLsbD i))) ∧
    (o.q.toNat < 3 → ∃ w : Word, (∀ i, i < 64 → w.getLsbD i =
        if i < 64 / 2 ^ o.q.toNat then a.getLsbD (64 / 2 ^ o.q.toNat - 8 * (i / 8 + 1) + i % 8) else false) ∧ exec (.bswap o) s = put w) ∧
    exec (.sext o) s = put (extendLoad o.q.toNat a.toNat) ∧
    (pos + len ≤ 64 → ∃ w : Word, (∀ i, i < 64 → w.getLsbD i =
        if i < len then a.getLsbD (pos + i) else decide (o.q = 1) && a.getLsbD (pos + len - 1)) ∧ exec (.ext o) s = put w) ∧
    (pos + len ≤ 64 → ∃ w : Word, (∀ i, i < 64 → w.getLsbD i =
        if pos ≤ i ∧ i < pos + len then a.getLsbD (i - pos) else (s.getS o.d).getLsbD i) ∧ exec (.ins o) s = put w)

/-- A branch goes to its target when its condition holds and to the next instruction otherwise; a misaligned target raises ALIGN with KAUX1 the target, and only when it is taken. The jumps, the call, which writes its link, and the return, to an aligned target. (Rests on R265; R265.) -/
def Obligations.ControlTransferResults : Prop :=
  (
  ∀ (o : Ops) (s : State) (t : Word), Ready o s → t = BitVec.ofNat 64 ((s.ctx.pc + o.imm.signExtend 64).toNat % 2 ^ 48) →
    let a := s.getS o.a
    let b := s.getS o.b
    let go := fun (c : Bool) => Host.Outcome.next (φ := Fault) (ρ := Refusal)
      (if c = false then s.goTo (s.nextPc o) else if t.toNat % 4 = 0 then s.goTo t else s.trapA ⟨cAlign, none, some t, none, none⟩ o.form.bytes)
    exec (.beq o) s = go (decide (a = b)) ∧ exec (.bne o) s = go (decide (a ≠ b)) ∧
    exec (.blt o) s = go (decide (a.toInt < b.toInt)) ∧ exec (.bge o) s = go (decide (b.toInt ≤ a.toInt)) ∧
    exec (.bltu o) s = go (decide (a.toNat < b.toNat)) ∧ exec (.bgeu o) s = go (decide (b.toNat ≤ a.toNat))) ∧
  (
  ∀ (o : Ops) (s : State), Ready o s →
    let rel : Word := BitVec.ofNat 64 ((s.ctx.pc + o.imm.signExtend 64).toNat % 2 ^ 48)
    let ind : Word := BitVec.ofNat 64 ((s.getS o.a + o.imm.signExtend 64).toNat % 2 ^ 48)
    let back : Word := BitVec.ofNat 64 ((s.getS o.a).toNat % 2 ^ 48)
    (rel.toNat % 4 = 0 → exec (.jmp o) s = .next (s.goTo rel)) ∧
    (ind.toNat % 4 = 0 → exec (.jr o) s = .next (s.goTo ind)) ∧
    (rel.toNat % 4 = 0 → ∃ t, exec (.call o) s = .next t ∧ t.ctx.pc = rel ∧ (o.d ≠ 0 → t.getS o.d = s.nextPc o) ∧
      (∀ n, n ≠ o.d → t.getS n = s.getS n) ∧ t.ctx.v = s.ctx.v ∧ t.ctx.p = s.ctx.p ∧ t.mem = s.mem) ∧
    (back.toNat % 4 = 0 → ∃ t, exec (.ret o) s = .next t ∧ t.ctx.pc = back ∧ (∀ n, t.getS n = s.getS n) ∧ t.ctx.v = s.ctx.v ∧ t.ctx.p = s.ctx.p ∧ t.mem = s.mem) ∧
    (rel.toNat % 4 ≠ 0 → exec (.jmp o) s = .next (s.trapA ⟨cAlign, none, some rel, none, none⟩ o.form.bytes) ∧
      exec (.call o) s = .next (s.trapA ⟨cAlign, none, some rel, none, none⟩ o.form.bytes)) ∧
    (ind.toNat % 4 ≠ 0 → exec (.jr o) s = .next (s.trapA ⟨cAlign, none, some ind, none, none⟩ o.form.bytes)) ∧
    (back.toNat % 4 ≠ 0 → exec (.ret o) s = .next (s.trapA ⟨cAlign, none, some back, none, none⟩ o.form.bytes)))

/-- MFC reads and MTC writes the register that the immediate names, at K-level every one, at U-level those below 0x800; the others raise PRIV with SUB 1 there (R62, R268). -/
def Obligations.ControlRegisterAccess : Prop :=
  ∀ (o : Ops) (s : State),
    (Ready o s → s.core.cur = .k ∨ o.imm.toNat < 0x800 →
      exec (.mfc o) s = .next ((s.setS o.d (readControl s o.imm.toNat)).goTo (s.nextPc o)) ∧
      exec (.mtc o) s = .next ((writeControl s o.imm.toNat (s.getS o.a)).goTo (s.nextPc o))) ∧
    (s.core.halted = false → s.core.cur ≠ .k → 0x800 ≤ o.imm.toNat →
      exec (.mfc o) s = .next (s.trapA ⟨cPriv, some 1, none, none, none⟩ o.form.bytes) ∧
      exec (.mtc o) s = .next (s.trapA ⟨cPriv, some 1, none, none, none⟩ o.form.bytes))

/-- What MTC leaves in each register of R62: a reserved field keeps reading 0 (R6), KAUX3[19:8] among them while KCAUSE tells of a class I trap (R310, R311), a flag of KSTAT clears where 1 is written (R110, R268), a read-only register stays. The layout of KSTAT (R110, R309), with at most 16 interrupts queued (R329). -/
def Obligations.ControlRegisterLayout : Prop :=
  (
  ∀ (s : State) (w : Word),
    (∀ n, n = 0x001 ∨ n = 0x004 → readControl (writeControl s n w) n = readControl s n) ∧
    readControl (writeControl s 0x002 w) 0x002 = (w.setWidth 32).setWidth 64 ∧
    (∀ n, n = 0x005 ∨ n = 0x802 ∨ n = 0x804 ∨ n = 0x805 ∨ n = 0x808 → readControl (writeControl s n w) n = w) ∧
    (∀ i, i < 64 →
      (readControl (writeControl s 0x801 w) 0x801).getLsbD i = (decide (i < 5 ∨ 8 ≤ i ∧ i < 13 ∨ i = 14 ∨ i = 15) && w.getLsbD i) ∧
      (readControl (writeControl s 0x803 w) 0x803).getLsbD i = (decide (i < 17) && w.getLsbD i) ∧
      (readControl (writeControl s 0x806 w) 0x806).getLsbD i = (!(s.core.kcause.getLsbD 8 && decide (8 ≤ i ∧ i < 20)) && w.getLsbD i) ∧
      (readControl (writeControl s 0x80A w) 0x80A).getLsbD i = (decide (i < 3 ∨ 8 ≤ i ∧ i < 12) && w.getLsbD i) ∧
      (readControl (writeControl s 0x80B w) 0x80B).getLsbD i = (decide (i = 0) && w.getLsbD i)) ∧
    (∀ i, i < 64 → (readControl (writeControl s 0x800 w) 0x800).getLsbD i = (decide (3 ≤ i ∧ i < 48) && w.getLsbD i)) ∧
    readControl (writeControl s 0x809 w) 0x809 = (w.setWidth 9).setWidth 64 ∧
    (∀ i, i < 16 → (writeControl s 0x807 w).core.flags.getLsbD i = (s.core.flags.getLsbD i && !(decide (1 ≤ i ∧ i < 9) && w.getLsbD i))) ∧
    (writeControl s 0x807 w).core.wdx = w.extractLsb' 28 4 ∧
    (writeControl s 0x807 w).core.inTrap = s.core.inTrap) ∧
  (
  ∀ s : State, s.core.irqs.length ≤ 16 →
    let k := readControl s 0x807
    k.extractLsb' 28 4 = s.core.wdx ∧ k.getLsbD 24 = s.core.inTrap ∧ k.getLsbD 23 = !s.core.irqs.isEmpty ∧
    (k.extractLsb' 18 5).toNat = s.core.irqs.length ∧ k.getLsbD 17 = (s.core.cut.isSome || s.core.restore.isSome) ∧
    k.extractLsb' 0 9 = s.core.flags.extractLsb' 0 9 ∧ k.extractLsb' 9 8 = 0 ∧ k.extractLsb' 25 3 = 0 ∧ k.extractLsb' 32 32 = 0)

/-- BUDGET reads what is left of the routine with this instruction counted, all ones in 32 bits for the K context; BUDGET.SET sets COUNT, at most 2^32 - 1 (R270). AEND ends the routine: the next slot is a parse step, after an error action the recovery step that counts it and returns to PARSING; in the K context it only counts (R243, R272). -/
def Obligations.BudgetAndAendResults : Prop :=
  (
  ∀ (o : Ops) (s : State), Ready o s →
    exec (.budget o) s = .next ((s.setS o.d (if s.core.cur = .k then 0xFFFFFFFF else BitVec.ofNat 64 (s.ctx.loaded.toNat - s.ctx.counted - 1))).goTo (s.nextPc o)) ∧
    ∃ t, exec (.budgetSet o) s = .next t ∧ t.ctx.budget.toNat = min ((s.getS o.a).toNat + o.imm.toNat) (2 ^ 32 - 1) ∧
      t.ctx.loaded = s.ctx.loaded ∧ t.ctx.s = s.ctx.s ∧ t.ctx.pc = s.nextPc o ∧ t.mem = s.mem) ∧
  (
  ∀ (o : Ops) (s : State), Ready o s →
    (s.core.cur = .k → exec (.aend o) s = .next (s.goTo (s.nextPc o))) ∧
    (s.core.cur ≠ .k → ∃ t, exec (.aend o) s = .next t ∧ (s.ctx.errAction = false → t.ctx.st = .parsing ∧ t.ctx.errDone = s.ctx.errDone) ∧
      (s.ctx.errAction = true → t.ctx.st = .recovering ∧ t.ctx.errDone = true) ∧ t.ctx.errAction = false ∧ t.ctx.frec = s.ctx.frec ∧
      t.ctx.s = s.ctx.s ∧ t.ctx.v = s.ctx.v ∧ t.ctx.p = s.ctx.p ∧ t.ctx.stack = s.ctx.stack ∧ t.core.invs = s.core.invs ∧ t.mem = s.mem))

/-- The scalar floating forms write the rounded result zero-extended, raise its flags, and go on; FCVT.F2I sign-extends; FCMP raises none. The special values of the scalar floating forms. A NaN gives the canonical NaN and no flag; Inf - Inf, 0 × Inf, 0 ÷ 0 and Inf ÷ Inf give it and set NV; a finite nonzero value over zero gives Inf with the product of the signs and sets DZ. (Rests on R273 to R275; R273 and R112.) -/
def Obligations.ScalarFloatResults : Prop :=
  (
  ∀ (o : Ops) (s : State), Ready o s →
    let a := s.getS o.a
    let x := f32 (a.setWidth 32)
    let y := f32 ((s.getS o.b).setWidth 32)
    let q := o.q.toNat
    let put := fun (r : Nat × BitVec 16) => Host.Outcome.next (φ := Fault) (ρ := Refusal) (((s.setS o.d (BitVec.ofNat 64 r.1)).addFlags r.2).goTo (s.nextPc o))
    exec (.fadd o) s = put (addVal fp32 q x y) ∧ exec (.fmul o) s = put (mulVal fp32 q x y) ∧ exec (.fdiv o) s = put (divVal fp32 q x y) ∧
    exec (.fcvtF2i o) s = .next (((s.setS o.d (BitVec.ofInt 64 (toInteger 32 q x).1)).addFlags (toInteger 32 q x).2).goTo (s.nextPc o)) ∧
    exec (.fcvtI2f o) s = put (convertTo fp32 q false (ofInteger a.toInt)) ∧ exec (.fcvtU2f o) s = put (convertTo fp32 q false (ofInteger a.toNat)) ∧
    exec (.fcvtF2bf o) s = put (convertTo bf16 q false x) ∧ exec (.fcvtF2h o) s = put (convertTo fp16 q false x) ∧ exec (.fcvtF2e4 o) s = put (convertTo e4m3 q false x) ∧
    exec (.fcvtBf2f o) s = put (convertTo fp32 q false (unpack bf16 (a.toNat % 2 ^ 16))) ∧
    exec (.fcvtH2f o) s = put (convertTo fp32 q false (unpack fp16 (a.toNat % 2 ^ 16))) ∧
    exec (.fcvtE42f o) s = put (convertTo fp32 q false (unpack e4m3 (a.toNat % 2 ^ 8))) ∧
    (∃ p : PReg, (∀ i, i < 256 → p.getLsbD i = floatCond q x y) ∧ exec (.fcmp o) s = .next ((s.setP o.d p).goTo (s.nextPc o)))) ∧
  (
  ∀ q : Nat,
    (∀ (n : Bool) (y : FVal), addVal fp32 q (.nan n) y = (0x7FC00000, 0) ∧ addVal fp32 q y (.nan n) = (0x7FC00000, 0) ∧
      mulVal fp32 q (.nan n) y = (0x7FC00000, 0) ∧ mulVal fp32 q y (.nan n) = (0x7FC00000, 0) ∧
      divVal fp32 q (.nan n) y = (0x7FC00000, 0) ∧ divVal fp32 q y (.nan n) = (0x7FC00000, 0)) ∧
    (∀ n : Bool, addVal fp32 q (.inf n) (.inf !n) = (0x7FC00000, flagNV) ∧ addVal fp32 q (.inf n) (.inf n) = (if n then 0xFF800000 else 0x7F800000, 0)) ∧
    (∀ (n k : Bool) (e : Int), mulVal fp32 q (.inf n) (.fin k 0 e) = (0x7FC00000, flagNV) ∧ mulVal fp32 q (.fin k 0 e) (.inf n) = (0x7FC00000, flagNV)) ∧
    (∀ n k : Bool, divVal fp32 q (.inf n) (.inf k) = (0x7FC00000, flagNV)) ∧
    (∀ (n k : Bool) (e d : Int) (m : Nat), divVal fp32 q (.fin n 0 e) (.fin k 0 d) = (0x7FC00000, flagNV) ∧
      (m ≠ 0 → divVal fp32 q (.fin n m e) (.fin k 0 d) = (if n = k then 0x7F800000 else 0xFF800000, flagDZ))))

/-- What GPEEK, GFSTAT and the two forms of GSTATE read of their target. (Rests on R278, R281, R285 and R286.) -/
def Obligations.GrammarReadResults : Prop :=
  ∀ (o : Ops) (s : State), Ready o s →
    let u := s.target o
    let x := s.ctxAt u
    let put := fun (w : Word) => Host.Outcome.next (φ := Fault) (ρ := Refusal) ((s.setS o.d w).goTo (s.nextPc o))
    (s.holdsGroup u = false → exec (.gpeek o) s = put 0x13) ∧
    (s.holdsGroup u = true → x.eotc = true → exec (.gpeek o) s = put 0x10) ∧
    (∀ n, s.holdsGroup u = true → peekCode x o.imm.toNat = some n → exec (.gpeek o) s = put (BitVec.ofNat 64 n)) ∧
    (s.holdsGroup u = true → peekCode x o.imm.toNat = none → o.q ≠ 0 ∨ u ≠ s.core.cur → exec (.gpeek o) s = put 0x11) ∧
    exec (.gfstat o) s = put (if s.holdsGroup u then x.frec.extractLsb' (64 * o.imm.toNat) 64 else 0) ∧
    (u ≠ .k → x.stack.length ≤ 64 → x.queue.length ≤ 64 → x.ins.length ≤ 16 → ∃ w : Word, exec (.gstate o) s = put w ∧
      w.extractLsb' 32 32 = x.pos ∧ (w.extractLsb' 29 3).toNat = x.stateCode ∧ w.getLsbD 28 = x.eotc ∧
      (w.extractLsb' 21 7).toNat = x.stack.length ∧ (w.extractLsb' 14 7).toNat = x.queue.length ∧ (w.extractLsb' 9 5).toNat = x.ins.length ∧
      w.getLsbD 8 = x.queue.any (fun m => m = mPRE || m = mDRN) ∧ w.extractLsb' 0 8 = if x.st = .trapped then x.trapCause.setWidth 8 else 0) ∧
    (u = .k → exec (.gstate o) s = put (BitVec.ofNat 64 (6 * 2 ^ 29)) ∧ exec (.gstateStk o) s = put 0) ∧
    (u ≠ .k → exec (.gstateStk o) s = put (((x.stack.getD o.imm.toNat ⟨0, 0⟩).entry).setWidth 64))

/-- The forms that change a target's parse, on a target they may change; on any other they write status 6 or 4 and change nothing. The count of a GSKIP is written in [7:0] and its status in [15:8]: 3 where it met an absent symbol before its count was reached, for which a GSKIP of the executing context without .NB waits. A GPOP of more entries than the stack holds pops them all. (Rests on R278, R282, R283, R284 and R287.) -/
def Obligations.GrammarChangeResults : Prop :=
  ∀ (o : Ops) (s : State), Ready o s →
    let u := s.target o
    let x := s.ctxAt u
    let put := fun (t : State) (n : Nat) => Host.Outcome.next (φ := Fault) (ρ := Refusal) ((t.setS o.d (BitVec.ofNat 64 n)).goTo (s.nextPc o))
    let sym := ((s.getS o.a).toNat + o.imm.toNat) % 1024
    let e : StackEntry := ⟨BitVec.ofNat 16 (sym + if o.q = 1 then 0x8000 else 0), x.lastProd⟩
    (∀ k, s.refuseChange u = some k → exec (.gskip o) s = put s (256 * k) ∧ exec (.gpush o) s = put s k ∧ exec (.gpop o) s = put s (2 ^ 24 * k) ∧
      exec (.gresume o) s = put s k ∧ exec (.gresumeRecover o) s = put s k) ∧
    (s.refuseChange u = none →
      (∀ n, x.eotc = false → skipReach x.items (min ((s.getS o.a).toNat + o.imm.toNat) 16) = (n, false) →
        exec (.gskip o) s = put (s.putCore (s.core.skipSymbols u n)) n) ∧
      (∀ n, x.eotc = false → skipReach x.items (min ((s.getS o.a).toNat + o.imm.toNat) 16) = (n, true) →
        (o.q ≠ 0 ∨ u ≠ s.core.cur → exec (.gskip o) s = put (s.putCore (s.core.skipSymbols u n)) (0x300 + n)) ∧
        (o.q = 0 → u = s.core.cur → ∃ t, exec (.gskip o) s = .next t ∧ t.ctx.waiting = some .mark ∧ t.ctx.pc = s.ctx.pc ∧ t.ctx.s = s.ctx.s ∧ t.ctx.stack = x.stack ∧ t.mem = s.mem)) ∧
      (x.eotc = true → exec (.gskip o) s = put s 0) ∧
      (s.core.validSymbol sym (o.q = 1) = false → exec (.gpush o) s = put s 1) ∧
      (s.core.validSymbol sym (o.q = 1) = true → 64 ≤ x.stack.length → exec (.gpush o) s = put s 2) ∧
      (s.core.validSymbol sym (o.q = 1) = true → x.stack.length < 64 → exec (.gpush o) s = put (s.putCtxAt u { x with stack := e :: x.stack }) 0) ∧
      (∀ l y r, x.stack = l ++ y :: r → l.length + 1 = o.imm.toNat → exec (.gpop o) s = put (s.putCtxAt u { x with stack := r }) (y.entry.toNat + 2 ^ 16 * o.imm.toNat)) ∧
      (∀ l y, x.stack = l ++ [y] → l.length + 1 < o.imm.toNat → exec (.gpop o) s = put (s.putCtxAt u { x with stack := [] }) (y.entry.toNat + 2 ^ 16 * (l.length + 1))) ∧
      (x.stack = [] ∨ o.imm = 0 → exec (.gpop o) s = put s 0) ∧
      (x.parseTrapped = false → exec (.gresume o) s = put s 4 ∧ exec (.gresumeRecover o) s = put s 4) ∧
      (x.parseTrapped = true → exec (.gresume o) s = put (s.putCtxAt u { x with gresume := some false, frec := x.frec &&& ~~~(1#256 <<< 19) }) 0 ∧
        (x.topFrame ≠ none → exec (.gresumeRecover o) s = put (s.putCtxAt u { x with gresume := some true, frec := x.frec &&& ~~~(1#256 <<< 19) }) 0) ∧
        (x.topFrame = none → exec (.gresumeRecover o) s = put s 5)))

/-- MARKIF and the two forms of MARKEMIT put their marks into the insertion buffer; a list that does not fit raises STACK_OVERFLOW with KAUX0 2 in the executing context, and in another gives status 2. (Rests on R288 and R289.) -/
def Obligations.MarkResults : Prop :=
  ∀ (o : Ops) (s : State), Ready o s →
    let u := s.target o
    let x := s.ctxAt u
    let y := s.ctx
    let put := fun (t : State) (n : Nat) => Host.Outcome.next (φ := Fault) (ρ := Refusal) ((t.setS o.d (BitVec.ofNat 64 n)).goTo (s.nextPc o))
    let code : Mark := if (if o.q = 1 then s.getP o.a = BitVec.allOnes 256 else s.getP o.a ≠ 0) then o.imm.extractLsb' 0 4 else o.imm.extractLsb' 4 4
    (s.core.cur = .k ∨ code = 0 → exec (.markif o) s = .next (s.goTo (s.nextPc o))) ∧
    (s.core.cur ≠ .k → code ≠ 0 → y.ins.length < 16 →
      exec (.markif o) s = .next ((s.putCtx { y with ins := y.ins ++ [⟨.afterData y.qbase, some code, 0⟩] }).goTo (s.nextPc o))) ∧
    (s.core.cur ≠ .k → code ≠ 0 → 16 ≤ y.ins.length →
      exec (.markif o) s = .next (s.trapA ⟨cStackOverflow, some 2, some (BitVec.ofNat 64 y.ins.length), none, none⟩ o.form.bytes)) ∧
    (∀ k, s.refuseChange u = some k → exec (.markemit o) s = put s k ∧ exec (.markemitR o) s = put s k) ∧
    (s.refuseChange u = none →
      (∀ m : Mark, m = (s.getS o.a).setWidth 4 →
        (m = 0 ∨ 4 ≤ m.toNat ∧ m.toNat ≤ 7 → exec (.markemitR o) s = put s 1) ∧
        (¬ (m = 0 ∨ 4 ≤ m.toNat ∧ m.toNat ≤ 7) → x.ins.length < 16 →
          exec (.markemitR o) s = put (s.putCtxAt u { x with ins := x.ins ++ [⟨.before x.qbase, some m, 0⟩] }) 0)) ∧
      (∀ ms, ms = markList 4 o.imm → (∀ m ∈ ms, ¬ (4 ≤ m.toNat ∧ m.toNat ≤ 7)) →
        (x.ins.length + ms.length ≤ 16 → exec (.markemit o) s = put (s.putCtxAt u { x with ins := x.ins ++ ms.map (fun m => ⟨.before x.qbase, some m, 0⟩) }) 0) ∧
        (16 < x.ins.length + ms.length → exec (.markemit o) s = if u = s.core.cur then
          .next (s.trapA ⟨cStackOverflow, some 2, some (BitVec.ofNat 64 x.ins.length), none, none⟩ o.form.bytes) else put s 2)))

/-- At an aligned address that translates, SIGDEC stores the difference and SIGSET the new value over the 8 bytes there, in an atomic store whose release at the scope covers every earlier store of the context that may still be missed; SIGWAIT at or below its threshold and SIGWAIT.POLL write what an acquire read at the scope sees, the bytes that stand there when no store to them can be missed. SIGDEC and SIGSET write the old value. A misaligned signal raises SIGNAL_INVALID with KAUX1 its address. (Rests on R290 to R293.) -/
def Obligations.SignalResults : Prop :=
  ∀ (o : Ops) (s : State), Ready o s →
    let a := s.getS o.a + o.imm.signExtend 64
    let old := fun (t : State) (ps : List Part) => BitVec.ofNat 64 (leNat (readParts t ps))
    let put := fun (t : State) (w : Word) => Host.Outcome.next (φ := Fault) (ρ := Refusal) ((t.setS o.d w).goTo (s.nextPc o))
    (a.toNat + 8 ≤ 2 ^ 48 → a.toNat % 8 = 0 →
      (∀ ps t, accessParts s s.curAsid s.kLevel .write a.toNat 8 = .ok (ps, t) → t.waitsWay ps = false →
        let new := fun (w : Word) => t.writeAtomic t.me none (scopeReach o.q.toNat) ps (leBytes 8 w.toNat)
        (∀ w, (new w).mem = (storeParts t ps (leBytes 8 w.toNat)).mem ∧ (new w).ctx = t.ctx ∧
          ∀ p, ps = [p] → ∃ r ∈ (new w).unseen, r.party = s.me ∧ r.addr = p.dpa ∧ r.len = 8 ∧ r.rel = scopeReach o.q.toNat ∧
            ∀ e ∈ (new w).unseen, e.party = s.me → e = r ∨ r.covers e = true) ∧
        exec (.sigdec o) s = put (new (old t ps - s.getS o.b)) (old t ps) ∧ exec (.sigset o) s = put (new (s.getS o.b)) (old t ps)) ∧
      (∀ ps t, accessParts s s.curAsid s.kLevel .read a.toNat 8 = .ok (ps, t) → t.waitsWay ps = false →
        let r := t.loadParts (.acq (scopeReach o.q.toNat)) 8 ps
        let v := BitVec.ofNat 64 (leNat r.1)
        r.2.mem = s.mem ∧ (t.settled ps → v = old t ps) ∧ exec (.sigwaitPoll o) s = put r.2 v ∧ (v.toInt ≤ (s.getS o.b).toInt → exec (.sigwait o) s = put r.2 v))) ∧
    (a.toNat + 8 ≤ 2 ^ 48 → a.toNat % 8 ≠ 0 → ∀ i, i = Instr.sigdec o ∨ i = Instr.sigset o ∨ i = Instr.sigwait o ∨ i = Instr.sigwaitPoll o →
      ∃ k, exec i s = .next (s.trapA ⟨cSignalInvalid, some 0, some a, some k, none⟩ o.form.bytes))

/-- The terms, the routing and the counters of the Ligature: what an instruction adds to the changes of its cycle, and what the end of the cycle makes of them (R294). It subtracts, then adds, saturating at 0xFFFF and then setting OVF (R41), then applies the LIGCNT writes; a configuration is in force from then on. (Rests on R41 and R294 to R301.) -/
def Obligations.LigatureResults : Prop :=
  (
  ∀ (o : Ops) (s : State), Ready o s →
    let c := s.core
    let n := o.a.toNat
    let k := min ((s.getS o.b).toNat + o.imm.toNat) 0xFFFF
    let v := (SMap.get 0 c.ev n).toNat
    let was := BitVec.ofNat 64 (v + if SMap.get false c.ovf n then 2 ^ 16 else 0)
    let go := fun (t : State) => Host.Outcome.next (φ := Fault) (ρ := Refusal) (t.goTo (s.nextPc o))
    let src : Word := s.getS o.a &&& 0x803FFFFF000007FF
    (exec (.ligcntRd o) s = go (s.setS o.d was)) ∧
    (∀ i q, (i, q) ∈ [(Instr.ligcntSet o, (1 : BitVec 2)), (.ligcntSub o, 2), (.ligcntClrv o, 3)] → ∀ u, u = s.setS o.d was →
      exec i s = go (u.putCore { u.core with lig := { u.core.lig with writes := u.core.lig.writes ++ [(n, q, (u.getS o.b).setWidth 16)] } })) ∧
    (∀ t, t = s.putCore { c with lig := { c.lig with adds := SMap.set 0 c.lig.adds o.d.toNat (SMap.get 0 c.lig.adds o.d.toNat + k) } } →
      exec (.ligfire o) s = go (if k = 0 then t else t.release c.cur 3 [evKey s.coreId o.d.toNat])) ∧
    (k ≤ v ∨ s.ctx.evWait = some (n, k, true) → o.q = 0 → exec (.evwait o) s = go (s.acquire c.cur 3 [evKey s.coreId n])) ∧
    (k ≤ v → o.q = 1 → k = 0 → exec (.evwait o) s = go (s.acquire c.cur 3 [evKey s.coreId n])) ∧
    (v < k → s.ctx.evWait ≠ some (n, k, true) → ∃ t, exec (.evwait o) s = .next t ∧ t.ctx.waiting = some .ligature ∧ t.ctx.pc = s.ctx.pc ∧ t.ctx.s = s.ctx.s ∧ t.core.ev = c.ev ∧ t.core.lig = c.lig) ∧
    (k ≤ v → o.q = 1 → k ≠ 0 → c.mayTake n = true → exec (.evwait o) s = go ((s.putCore { c with lig := { c.lig with subs := c.lig.subs ++ [(n, k)] } }).acquire c.cur 3 [evKey s.coreId n])) ∧
    (src.getLsbD 63 = false ∨ (bits src 53 32 % 8 = 0 ∧ bits src 53 32 < 0x400000) →
      exec (.ligcfgSrc o) s = go ((s.putCore { c with lig := { c.lig with routes := c.lig.routes ++ [(o.imm.toNat % 16, src)] } }).setS o.d 0)) ∧
    (src.getLsbD 63 = true → bits src 53 32 % 8 ≠ 0 →
      exec (.ligcfgSrc o) s = .next (s.trapA ⟨cAlign, none, some (BitVec.ofNat 64 (bits src 53 32)), none, none⟩ o.form.bytes)) ∧
    (∀ x : Term, x.c0 = (s.getS o.a).setWidth 32 &&& 0x800FFFFF → x.c1 = (s.getS o.a).extractLsb' 32 32 &&& 0x800FFFFF →
      x.c2 = (s.getS o.b).setWidth 32 &&& 0x800FFFFF → x.c3 = (s.getS o.b).extractLsb' 32 32 &&& 0x800FFFFF →
      x.eng = BitVec.ofNat 5 (o.imm.toNat / 32) → x.configured = true →
      exec (.ligcfgTerm o) s = if hasRepeat (x.conds.map condCtr) then go (s.setS o.d 1)
        else go ((s.putCore { c with lig := { c.lig with terms := c.lig.terms ++ [(o.imm.toNat % 32, x)] } }).setS o.d 0)) ∧
    (∀ x : Term, x = SMap.get Term.reset c.terms (o.imm.toNat % 32) → ∃ w : Word, exec (.ligcfgTread o) s = go (s.setS o.d w) ∧
      (x.c0.extractLsb' 20 11 = 0 → x.c2.extractLsb' 20 11 = 0 →
        w.extractLsb' 32 32 = (if o.imm.getLsbD 5 then x.c3 else x.c1) ∧ w.extractLsb' 0 20 = (if o.imm.getLsbD 5 then x.c2 else x.c0).setWidth 20 ∧
        w.extractLsb' 24 5 = x.eng ∧ w.getLsbD 30 = x.configured ∧ w.getLsbD 31 = (if o.imm.getLsbD 5 then x.c2 else x.c0).getLsbD 31))) ∧
  (
  ∀ (c : Core) (n : Nat), n < 16 →
    let d := c.endLigature
    let sum := (SMap.get 0 c.ev n).toNat - ((c.lig.subs.filter (fun e => e.1 = n)).map (·.2)).sum + SMap.get 0 c.lig.adds n
    d.lig = Ligature.idle ∧
    ((∀ e ∈ c.lig.writes, e.1 ≠ n) → (SMap.get 0 d.ev n).toNat = min sum 0xFFFF ∧ SMap.get false d.ovf n = (SMap.get false c.ovf n || decide (0xFFFF < sum))) ∧
    (∀ l v, c.lig.writes = l ++ [(n, 1, v)] → SMap.get 0 d.ev n = v ∧ SMap.get false d.ovf n = false) ∧
    (∀ v, c.lig.writes = [(n, 2, v)] → (SMap.get 0 d.ev n).toNat = min sum 0xFFFF - v.toNat) ∧
    (∀ v, c.lig.writes = [(n, 3, v)] → (SMap.get 0 d.ev n).toNat = min sum 0xFFFF ∧ SMap.get false d.ovf n = false) ∧
    (∀ k, (∀ e ∈ c.lig.terms, e.1 ≠ k) → SMap.get Term.reset d.terms k = SMap.get Term.reset c.terms k) ∧
    (∀ l k x, c.lig.terms = l ++ [(k, x)] → SMap.get Term.reset d.terms k = x) ∧
    (∀ k, (∀ e ∈ c.lig.routes, e.1 ≠ k) → SMap.get 0 d.routes k = SMap.get 0 c.routes k) ∧
    (∀ l k x, c.lig.routes = l ++ [(k, x)] → SMap.get 0 d.routes k = x))

/-- A load whose bytes lie within the address space, translate and wait for no way of the Well (R435) writes what it sees there to S[D], extended as its width code says (R63): the bytes that stand there, when no store to them can be missed (R119 to R122); LDACQ is an acquire at its scope, by the stores that it reads. The memory keeps every byte. One that waits for a way blocks at its address; LDNT takes no way. A misaligned LDACQ raises ALIGN with KAUX0 1 and KAUX1 the address. An access of an instruction that passes the end of the address space raises PAGE_PERMISSION with KAUX0 3 and KAUX1 its address, and stores nothing. The list of the stores that can be missed is the model's form (log entry 9). (Rests on R204, R206, R208, R209 and R218; R204 and R207.) -/
def Obligations.LoadResults : Prop :=
  (
  ∀ (o : Ops) (s : State), Ready o s →
    let n := widthBytes o.q.toNat
    let a := s.getS o.a + o.imm.signExtend 64
    let x := s.getS o.a + BitVec.ofNat 64 ((s.getS o.b).toNat * n) + o.imm.signExtend 64
    let seen := fun (k : LoadKind) (y : Word) (t : State) (ps : List Part) => Host.Outcome.next (φ := Fault) (ρ := Refusal)
      (((t.loadParts k (unitOfAccess y.toNat n) ps).2.setS o.d (extendLoad o.q.toNat (leNat (t.loadParts k (unitOfAccess y.toNat n) ps).1))).goTo (s.nextPc o))
    (∀ ps t, a.toNat + n ≤ 2 ^ 48 → accessParts s s.curAsid s.kLevel .read a.toNat n = .ok (ps, t) →
      (∀ k m, (t.loadParts k m ps).2.mem = s.mem ∧ (t.loadParts k m ps).2.ctx = s.ctx ∧ (0 < m → t.settled ps → (t.loadParts k m ps).1 = readParts s ps)) ∧
      exec (.ldnt o) s = seen .nt a t ps ∧
      (t.waitsWay ps = false → exec (.ld o) s = seen .plain a t ps ∧ (a.toNat % n = 0 → exec (.ldacq o) s = seen (.acq (scopeReach o.m.toNat)) a t ps)) ∧
      (t.waitsWay ps = true → ∃ u, exec (.ld o) s = .next u ∧ u.ctx.waiting = some .storage ∧ u.ctx.pc = s.ctx.pc ∧ u.ctx.s = s.ctx.s ∧ u.mem = s.mem)) ∧
    (∀ ps t, x.toNat + n ≤ 2 ^ 48 → accessParts s s.curAsid s.kLevel .read x.toNat n = .ok (ps, t) → t.waitsWay ps = false → exec (.ldx o) s = seen .plain x t ps) ∧
    (a.toNat + n ≤ 2 ^ 48 → a.toNat % n ≠ 0 → exec (.ldacq o) s = .next (s.trapA ⟨cAlign, some 1, some a, some 0xFFFF, none⟩ o.form.bytes))) ∧
  (
  ∀ (o : Ops) (s : State), Ready o s →
    let n := widthBytes o.q.toNat
    let a := s.getS o.a + o.imm.signExtend 64
    2 ^ 48 < a.toNat + n →
    (∀ i, i = Instr.ld o ∨ i = Instr.ldnt o ∨ i = Instr.ldacq o → exec i s = .next (s.trapA ⟨cPagePermission, some 3, some a, some 0xFFFF, none⟩ o.form.bytes)) ∧
    (∀ i, i = Instr.st o ∨ i = Instr.stnt o ∨ i = Instr.strel o → exec i s = .next (s.trapA ⟨cPagePermission, some 3, some a, some 0x1FFFF, none⟩ o.form.bytes)))

/-- A store changes the bytes that its address translates to, no other byte of main memory, and no register; where they lie in one page each of them is the byte of S[D] that R5 puts there, save that of a plain store and one that the context may miss, or one of its own on a UO page, either may come last (R119, R124). STREL's store carries a release at its scope that covers every earlier store of the context. The list of the stores that can be missed is the model's form (log entry 9). It is stated for an access that waits for no way of the Well (R435). (Rests on R119, R124, R208 and R218.) -/
def Obligations.StoreResults : Prop :=
  ∀ (o : Ops) (s : State) (i : Instr) (a : Word), Ready o s →
    let n := widthBytes o.q.toNat
    (i = .st o ∨ i = .strel o) ∧ a = s.getS o.a + o.imm.signExtend 64 ∨ i = .stx o ∧ a = s.getS o.a + BitVec.ofNat 64 ((s.getS o.b).toNat * n) + o.imm.signExtend 64 →
    (i = .strel o → a.toNat % n = 0) → a.toNat + n ≤ 2 ^ 48 →
    ∀ ps u, accessParts s s.curAsid s.kLevel .write a.toNat n = .ok (ps, u) → u.waitsWay ps = false →
    ∃ t, exec i s = .next t ∧ t.ctx.pc = s.nextPc o ∧ t.ctx.s = s.ctx.s ∧ t.ctx.v = s.ctx.v ∧ t.ctx.p = s.ctx.p ∧ t.core.flags = s.core.flags ∧
      (∀ x, (∀ p ∈ ps, x < p.dpa ∨ p.dpa + p.len ≤ x) → t.byteAt x = s.byteAt x) ∧
      (∀ p, ps = [p] → i = .strel o ∨ s.settledAt p.dpa n → ∀ k, k < n → t.byteAt (p.dpa + k) = (s.getS o.d).extractLsb' (8 * k) 8) ∧
      (∀ p, ps = [p] → i = .strel o → ∃ r ∈ t.unseen, r.party = s.me ∧ r.addr = p.dpa ∧ r.len = n ∧ r.rel = scopeReach o.m.toNat ∧
        ∀ e ∈ t.unseen, e.party = s.me → e = r ∨ (r.covers e = true ∧ 1 ≤ e.ord))

/-- After FENCE the context's earlier stores are visible within its scope and the context misses none of them; FENCE.rel orders them before its later stores, each of which is then a release that covers them; FENCE and FENCE.acq order them before the invocations issued later, and take what the context's earlier loads read for an acquire (R121, R129, R131). A store that a party released by an object is missed by no other context that then acquires through that object, each in the other's scope instance, and an acquire through an object at which nothing stands changes nothing (R122, R126). PREF changes no value. CWB and CINV over no byte go on, and over a range they leave what the write-back of its lines leaves, CINV with no copy of them in a cache; a held line whose frame was ballooned raises BALLOON_ACCESS (R443). STNT over lines that the Well holds stores there. The list of stores that parties may miss, and the entries by which an object carries a release, are the model's form (log entry 9). (Rests on R121, R122, R126, R129, R131, R209, R219 to R222 and R443.) -/
def Obligations.CacheResults : Prop :=
  ∀ (o : Ops) (s : State), Ready o s →
    let n := (s.getS o.b).toNat + o.imm.toNat
    let go := fun (t : State) => Host.Outcome.next (φ := Fault) (ρ := Refusal) (t.goTo (t.nextPc o))
    let done := s.fence s.core.cur o.q.toNat
    let rel := s.fenceRel s.core.cur o.q.toNat
    let drop := fun (t : State) => t.dropHeld s.core.cur
    exec (.fence o) s = go done ∧ exec (.fenceAcq o) s = go (s.fenceAcq s.core.cur o.q.toNat) ∧ exec (.fenceRel o) s = go rel ∧
    (∀ e ∈ done.unseen, e.party = s.me → e.mayMiss s.me = false ∧ scopeReach o.q.toNat ≤ e.vis) ∧
    (∀ e ∈ (s.fenceAcq s.core.cur o.q.toNat).unseen, e.party = s.me → 1 ≤ e.ord) ∧
    (∀ e ∈ rel.unseen, e.party = s.me → 2 ≤ e.ord ∧ (e.fence = false → e.vis < 4 → ∃ f ∈ rel.unseen, f.fence = true ∧ f.party = s.me ∧ f.rel = scopeReach o.q.toNat ∧ f.covers e = true)) ∧
    (∀ p q n m k, p ≠ q → isInvParty q = false → 0 < k.2 → partyDist p q ≤ min (scopeReach n) (scopeReach m) →
      ∀ e ∈ ((s.releaseBy p (scopeReach n) false [k]).acquireBy q (scopeReach m) [k]).unseen, e.party = p → e.fence = false → e.mayMiss q = false) ∧
    (∀ q m k, (∀ e ∈ s.unseen, meets e.addr e.len k.1 k.2 = false) → s.acquireBy q m [k] = s) ∧
    (∃ u, exec (.pref o) s = go u ∧ u.mem = s.mem ∧ u.ctx = s.ctx ∧ u.unseen = s.unseen) ∧
    (s.heldBallooned s.core.cur = none →
      (n = 0 → exec (.cwb o) s = go (drop s) ∧ exec (.cinv o) s = go (drop s)) ∧
      (∀ a u, cacheRange s o = .ok (a, n) → writeBackPages (n / 4096 + 2) s o.form.bytes a n = .next u →
        exec (.cwb o) s = go (drop u) ∧ exec (.cinv o) s = go (drop ((dropLines (n / 4096 + 2) u a n).dropCode a n))) ∧
      (∀ f, cacheRange s o = .error f → ∀ i, i = Instr.cwb o ∨ i = Instr.cinv o → exec i s = .next ((drop s).trapA ⟨cPagePermission, some 3, some (s.getS o.a), some 0xFFFF, none⟩ o.form.bytes))) ∧
    (∀ h, s.heldBallooned s.core.cur = some h → ∀ i, i = Instr.cwb o ∨ i = Instr.cinv o →
      exec i s = .next ((drop s).trapA ⟨cBalloonAccess, some 0, some (BitVec.ofNat 64 h.va), some 0x1FFFF, none⟩ o.form.bytes)) ∧
    (∀ a, cacheRange s o = .ok (a, n) → exec (.cinvI o) s = go (s.dropCode a n)) ∧
    (∀ f, cacheRange s o = .error f → f = ⟨cPagePermission, 3, (s.getS o.a).toNat⟩) ∧
    (∀ a ps u, a = s.addr o → a.toNat + widthBytes o.q.toNat ≤ 2 ^ 48 → accessParts s s.curAsid s.kLevel .write a.toNat (widthBytes o.q.toNat) = .ok (ps, u) →
      (partLines ps a.toNat).all (fun l => u.wellHolds l.1) = true →
      exec (.stnt o) s = go (drop (u.plainStore false u.me u.nextSeq (unitOfAccess a.toNat (widthBytes o.q.toNat)) ps (leBytes (widthBytes o.q.toNat) (s.getS o.d).toNat))))

/-- With a lane's address aligned and every unmasked lane translated, LDV and LDG load the unmasked lanes and keep the masked ones, STV and SCT store the unmasked lanes in ascending order; the masked lanes store nothing. A lane loaded holds the bytes that stand there when no store to them can be missed; the memory stored is that of the lanes in order, save that of a lane's store and an earlier store that the context may miss, or one of its own on a UO page, either may come last (R119, R124). It is stated for an access that waits for no way of the Well (R435). (Rests on R119, R210 and R211.) -/
def Obligations.VectorMemoryResults : Prop :=
  ∀ (o : Ops) (s : State), Open s →
    let m := guardMask s.ctx o.g
    let unit := fun (i : Nat) => (s.addr o).toNat + 4 * i
    let each := fun (i : Nat) => (s.getS o.a + (lane (s.getV o.b) i).signExtend 64 + o.imm.signExtend 64).toNat
    let free := fun (l : List (Nat × List Part)) (t : State) => t.waitsWay (l.flatMap (·.2)) = false
    let loaded := fun (l : List (Nat × List Part)) (t : State) (v : VReg) =>
      (∀ i, i < 256 → lane v i = match (loadLaneParts t l).1.find? (fun e => e.1 = i) with
        | some e => e.2
        | none => lane (s.getV o.d) i) ∧
      ((∀ e ∈ l, t.settled e.2) → (loadLaneParts t l).1 = l.map (fun e => (e.1, BitVec.ofNat 32 (leNat (readParts s e.2)))))
    let stored := fun (l : List (Nat × List Part)) (t : State) => (∀ e ∈ l, t.settled e.2) →
      (storeLaneParts t (s.getV o.d) l).mem = (l.foldl (fun u e => storeParts u e.2 (leBytes 4 (lane (s.getV o.d) e.1).toNat)) t).mem
    (∀ addr l t, laneParts s .read addr (maskLanes m) = .ok (l, t) → ∀ i, (l.find? (fun e => e.1 = i)).isSome = (decide (i < 256) && m.getLsbD i)) ∧
    ((s.addr o).toNat % 4 = 0 → ∀ l t, laneParts s .read unit (maskLanes m) = .ok (l, t) → free l t →
      ∃ v, loaded l t v ∧ exec (.ldv o) s = .next (((loadLaneParts t l).2.setV o.d v).goTo (s.nextPc o))) ∧
    (∀ l t, laneParts s .read each (maskLanes m) = .ok (l, t) → free l t →
      ∃ v, loaded l t v ∧ exec (.ldg o) s = .next (((loadLaneParts t l).2.setV o.d v).goTo (s.nextPc o))) ∧
    ((s.addr o).toNat % 4 = 0 → ∀ l t, laneParts s .write unit (maskLanes m) = .ok (l, t) → free l t →
      exec (.stv o) s = .next ((storeLaneParts t (s.getV o.d) l).goTo (s.nextPc o)) ∧ stored l t) ∧
    (∀ l t, laneParts s .write each (maskLanes m) = .ok (l, t) → free l t →
      exec (.sct o) s = .next ((storeLaneParts t (s.getV o.d) l).goTo (s.nextPc o)) ∧ stored l t)

/-- The scratchpad forms within its 4 MiB. A load under .WAIT runs when its granules are full; under .CLR it leaves them empty. A store changes its own bytes only. What is loaded are the bytes that stand there, and what is stored stands last, where the context can miss no store to them: the scratchpad behaves as an RC page (R120). Past the end SCRATCH_RANGE is raised with the lowest failing offset in KAUX1. (Rests on R120 and R212.) -/
def Obligations.ScratchpadResults : Prop :=
  ∀ (o : Ops) (s : State),
    let n := widthBytes o.q.toNat
    let a := (s.getS o.a + o.imm.signExtend 64).toNat
    let byte := fun (t : State) (x : Nat) => SMap.get 0 t.core.spm x
    (Ready o s → a + n ≤ 0x400000 →
      (o.m.getLsbD 0 = false ∨ s.core.allFull (granules a n) = true → ∃ t, exec (.spld o) s = .next t ∧ t.ctx.pc = s.nextPc o ∧
        (s.settledAt (spKey s.coreId a) n → o.d ≠ 0 → t.getS o.d = extendLoad o.q.toNat (leNat (s.core.spBytes a n))) ∧ t.core.spm = s.core.spm ∧ t.mem = s.mem ∧
        (∀ g, SMap.get false t.core.full g = (SMap.get false s.core.full g && !(o.m.getLsbD 1 && (granules a n).contains g)))) ∧
      (∃ t, exec (.spst o) s = .next t ∧ t.ctx.pc = s.nextPc o ∧ t.ctx.s = s.ctx.s ∧ t.mem = s.mem ∧ t.core.full = s.core.full ∧
        (s.settledAt (spKey s.coreId a) n → ∀ k, k < n → byte t (a + k) = (s.getS o.d).extractLsb' (8 * k) 8) ∧ (∀ x, x < a ∨ a + n ≤ x → byte t x = byte s x))) ∧
    (Ready o s → 0x400000 < a + n → exec (.spld o) s = .next (s.trapA ⟨cScratchRange, some 0, some (BitVec.ofNat 64 (max a 0x400000)), some 0xFFFF, none⟩ o.form.bytes)) ∧
    (Open s → a % 4 = 0 → a + 1024 ≤ 0x400000 →
      (o.m.getLsbD 0 = false → ∃ t v, exec (.spldv o) s = .next t ∧ t.ctx = ((s.setV o.d v).goTo (s.nextPc o)).ctx ∧ t.mem = s.mem ∧ t.core.spm = s.core.spm ∧
        (∀ i, i < 256 → (guardMask s.ctx o.g).getLsbD i = false → lane v i = lane (s.getV o.d) i) ∧
        (s.settledAt (spKey s.coreId a) 1024 → ∀ i, i < 256 → (guardMask s.ctx o.g).getLsbD i = true → lane v i = BitVec.ofNat 32 (leNat (s.core.spBytes (a + 4 * i) 4)))) ∧
      (∃ t, exec (.spstv o) s = .next t ∧ t.ctx = (s.goTo (s.nextPc o)).ctx ∧ t.mem = s.mem ∧
        (∀ i k, i < 256 → k < 4 → (guardMask s.ctx o.g).getLsbD i = false → byte t (a + 4 * i + k) = byte s (a + 4 * i + k)) ∧
        (s.settledAt (spKey s.coreId a) 1024 → ∀ i k, i < 256 → k < 4 → (guardMask s.ctx o.g).getLsbD i = true →
          byte t (a + 4 * i + k) = (lane (s.getV o.d) i).extractLsb' (8 * k) 8)))

/-- At an aligned address that translates for a write, an atomic writes the new value over the word and leaves the old one in S[D], sign-extended in 32 bits by the signed forms; ACAS writes only when the old value is S[B]; AFADD sets the flags of its sum. Its write covers the context's earlier stores as a release at its scope with release order; with acquire order its read of the newest write is an acquire at its scope; with both every earlier store of the context comes before its later loads (R123, R128). An ACAS that does not write leaves memory as it is, and is an acquire with .FACQ (R214). It is stated for an access that waits for no way of the Well (R435). (Rests on R123, R128 and R214 to R216.) -/
def Obligations.AtomicResults : Prop :=
  ∀ (o : Ops) (s : State) (ps : List Part) (t : State), Ready o s →
    let n := if o.m.getLsbD 0 then 4 else 8
    let a := s.getS o.a + o.imm.signExtend 64
    a.toNat + n ≤ 2 ^ 48 → a.toNat % n = 0 → accessParts s s.curAsid s.kLevel .write a.toNat n = .ok (ps, t) → t.waitsWay ps = false →
    let x := leNat (readParts t ps)
    let written := fun (y : Nat) => atomWrite t o ps (leBytes n y)
    let b := (s.getS o.b).toNat % 2 ^ (8 * n)
    let signed := fun (y : Nat) => (BitVec.ofNat (8 * n) y).toInt
    let put := fun (y : Nat) (w : Word) (f : BitVec 16) => Host.Outcome.next (φ := Fault) (ρ := Refusal) ((((written y).setS o.d w).addFlags f).goTo (s.nextPc o))
    let plain : Word := BitVec.ofNat 64 x
    let wide : Word := if n = 8 then plain else (BitVec.ofNat 32 x).signExtend 64
    (∀ y, (written y).mem = (storeParts t ps (leBytes n y)).mem ∧ (written y).core = (storeParts t ps (leBytes n y)).core ∧
      (o.m.getLsbD 1 = true → o.m.getLsbD 2 = true → ∀ e ∈ (written y).unseen, e.party = s.me → 3 ≤ e.ord) ∧
      ∀ p, ps = [p] → ∃ r ∈ (written y).unseen, r.party = s.me ∧ r.addr = p.dpa ∧ r.len = n ∧ r.chain = true ∧ r.rel = (if o.m.getLsbD 2 then scopeReach o.q.toNat else 0) ∧
        ∀ e ∈ (written y).unseen, e.party = s.me → e = r ∨ r.covers e = true) ∧
    (casFail t o ps).mem = s.mem ∧ (casFail t o ps).core = t.core ∧
    exec (.aadd o) s = put ((x + b) % 2 ^ (8 * n)) wide 0 ∧
    exec (.amin o) s = put (if signed b < signed x then b else x) wide 0 ∧ exec (.amax o) s = put (if signed x < signed b then b else x) wide 0 ∧
    exec (.aand o) s = put (x &&& b) plain 0 ∧ exec (.aor o) s = put (x ||| b) plain 0 ∧ exec (.axor o) s = put (x ^^^ b) plain 0 ∧
    exec (.aminu o) s = put (min x b) plain 0 ∧ exec (.amaxu o) s = put (max x b) plain 0 ∧ exec (.aswp o) s = put b plain 0 ∧
    (x = b → exec (.acas o) s = put ((s.getS o.c).toNat % 2 ^ (8 * n)) plain 0) ∧
    (x ≠ b → exec (.acas o) s = .next (((casFail t o ps).setS o.d plain).goTo (s.nextPc o))) ∧
    exec (.afadd o) s = put (addVal fp32 0 (unpack fp32 x) (unpack fp32 b)).1 plain (addVal fp32 0 (unpack fp32 x) (unpack fp32 b)).2

/-- The tensor table. TIDSET loads a descriptor and TIDMOD changes one field of it, and both advance its GEN; TIDGET stores it; TIDCHK gives its reason and GEN. A misaligned TIDSET raises ALIGN with KAUX1 its address. What a descriptor must hold to be valid, by the reasons of TIDCHK, and where it puts an element. (Rests on R145 and R174 to R177; R144, R145 and R147.) -/
def Obligations.TensorTableResults : Prop :=
  (
  ∀ (o : Ops) (s : State), Ready o s →
    let a := s.getS o.a + o.imm.signExtend 64
    let old := s.getT o.d
    let gen := fun (x : Desc) => x.extractLsb' 48 16
    let go := fun (t : State) => Host.Outcome.next (φ := Fault) (ρ := Refusal) (t.goTo (s.nextPc o))
    (a.toNat % 8 = 0 → a.toNat + 64 ≤ 2 ^ 48 →
      (∀ ps t, accessParts s s.curAsid s.kLevel .read a.toNat 64 = .ok (ps, t) → t.waitsWay ps = false →
        let r := t.loadParts .plain 8 (wordParts ps)
        ∃ x, exec (.tidset o) s = go (r.2.setT o.d x) ∧ gen x = gen old + 1 ∧ r.2.mem = s.mem ∧
        (∀ k, k < 512 → ¬ (48 ≤ k ∧ k < 64) → x.getLsbD k = (BitVec.ofNat 512 (leNat r.1)).getLsbD k) ∧ (t.settled (wordParts ps) → r.1 = readParts s (wordParts ps))) ∧
      (∀ ps t, accessParts s s.curAsid s.kLevel .write a.toNat 64 = .ok (ps, t) → t.waitsWay ps = false →
        let u := t.plainStore true t.me t.nextSeq 8 (wordParts ps) (leBytes 64 old.toNat)
        exec (.tidget o) s = go u ∧ (t.settled (wordParts ps) → u.mem = (storeParts t (wordParts ps) (leBytes 64 old.toNat)).mem))) ∧
    (a.toNat % 8 ≠ 0 → ∃ k, exec (.tidset o) s = .next (s.trapA ⟨cAlign, none, some a, some k, none⟩ o.form.bytes)) ∧
    (∀ i lo w v, (i, lo, w, v) ∈ [(Instr.tidmodBase o, 0, 48, (s.getS o.a).toNat), (.tidmodSbase o, 464, 48, (s.getS o.a).toNat),
        (.tidmodSize o, 128 + 24 * o.imm.toNat, 24, (s.getS o.a).toNat), (.tidmodStride o, 272 + 32 * o.imm.toNat, 32, (s.getS o.a).toNat),
        (.tidmodValid o, 67, 1, (s.getS o.a).toNat), (.tidmodAddbase o, 0, 48, dBase old + (s.getS o.a).toNat)] → (i = .tidmodSize o ∨ i = .tidmodStride o → o.imm.toNat < 6) →
      ∃ x, exec i s = go (s.setT o.d x) ∧ gen x = gen old + 1 ∧ (x.extractLsb' lo w).toNat = v % 2 ^ w ∧
        ∀ k, k < 512 → ¬ (lo ≤ k ∧ k < lo + w) → ¬ (48 ≤ k ∧ k < 64) → x.getLsbD k = old.getLsbD k) ∧
    (∃ w : Word, exec (.tidchk o) s = go (s.setS o.d w) ∧ w.toNat = tidReason (s.getT o.a) + 2 ^ 16 * (gen (s.getT o.a)).toNat)) ∧
  (
  ∀ t : Desc,
    (tidReason t = 0 → t.getLsbD 67 = true ∧ 1 ≤ dRank t ∧ dRank t ≤ 6 ∧ dFmt t ≠ 15 ∧ dField t 69 11 = 0 ∧
      (∀ d, d < dRank t → dSize t d ≠ 0) ∧ (∀ d, dRank t ≤ d → d < 6 → dSize t d = 1) ∧ dCols t * dRows t * fmtBits (dFmt t) ≤ 8 * 16384 + 7 ∧
      (fmtBfp (dFmt t) = true → dCols t % 32 = 0 ∧ dStride t 0 = 0) ∧ (∀ d, d < 6 → ¬ (4 ≤ (dMark t d).toNat ∧ (dMark t d).toNat ≤ 7))) ∧
    (∀ c : List Nat, c.length = 6 → fmtBfp (dFmt t) = false → dFmt t ≠ 7 →
      let at' : Int := dBase t + c.getD 0 0 * dStride t 0 + c.getD 1 0 * dStride t 1 + c.getD 2 0 * dStride t 2 + c.getD 3 0 * dStride t 3 + c.getD 4 0 * dStride t 4 + c.getD 5 0 * dStride t 5
      elemAddr t c = (at'.toNat, 0)))

/-- Binding and configuring a port that no invocation uses. PBIND copies the descriptor and GEN and begins the traversal; PUNBIND and PBIND keep windows and transform stages; PSEEK sets one dimension's range; PXFORM sets one stage; PFLUSH.WIN makes the windows be checked again; PSTAT and PWIN read, and PWIN.CLR makes its entry invalid. That a rebound port leads only for its own group, and what PSTAT shows of a port in use, is the model's reading (log entry 55). (Rests on R163 and R178 to R184.) -/
def Obligations.PortResults : Prop :=
  ∀ (o : Ops) (s : State), Ready o s →
    let n := o.d.toNat
    let p := s.port n
    let idle := s.core.quiescentPort n = true
    let go := fun (t : State) => Host.Outcome.next (φ := Fault) (ρ := Refusal) (t.goTo (s.nextPc o))
    let fresh := fun (x : Port) => x.cursor = 0 ∧ x.rowCursor = 0 ∧ x.fifo = [] ∧ x.outMarks = [] ∧ x.ended = false ∧ x.fault = none ∧ x.drops = []
    let kept := fun (x : Port) => x.wins = p.wins ∧ x.xTranspose = p.xTranspose ∧ x.xPermute = p.xPermute ∧ x.xBroadcast = p.xBroadcast ∧ x.xConvert = p.xConvert ∧ x.xQrow = p.xQrow
    (idle → (∃ x, (bindBreach x n o.a.toNat = none → exec (.pbind o) s = go (s.putPort n x)) ∧ fresh x ∧ kept x ∧ x.bound = true ∧ x.desc = s.getT o.a ∧
      x.gen = (s.getT o.a).extractLsb' 48 16 ∧ x.tid = o.a ∧ x.mode = o.q.setWidth 2 ∧ x.wr = o.m.getLsbD 2 ∧ x.owner = some s.core.cur ∧ x.kExtent = p.kExtent ∧ x.edge = p.edge ∧
      (x.lead = true ↔ p.lead = true ∧ p.owner = some s.core.cur))) ∧
    (idle → tidReason (s.getT o.a) ≠ 0 → ∃ k, exec (.pbind o) s = .next (s.trapA ⟨cTidInvalid, some (BitVec.ofNat 64 (tidReason (s.getT o.a))), none, some k, none⟩ o.form.bytes)) ∧
    (idle → ∃ x, exec (.punbind o) s = go (s.putPort n x) ∧ fresh x ∧ kept x ∧ x.bound = false ∧ x.lead = p.lead ∧ (p.lead = false → x.owner = none)) ∧
    (idle → p.bound = true → seekBad p.desc o.q.toNat (s.getS o.a).toNat (s.getS o.b).toNat = false →
      ∃ x, exec (.pseek o) s = go (s.putPort n x) ∧ fresh x ∧ kept x ∧ x.desc = p.desc ∧ x.org o.q.toNat = (s.getS o.a).toNat ∧ x.len o.q.toNat = (s.getS o.b).toNat ∧
        ∀ d, d ≠ o.q.toNat → x.org d = p.org d ∧ x.len d = p.len d) ∧
    (idle → p.bound = false → ∃ k, exec (.pseek o) s = .next (s.trapA ⟨cTidInvalid, some 0x20, none, some k, none⟩ o.form.bytes)) ∧
    (∃ w : Word, exec (.pstat o) s = go (({ s with free := s.free + 2 } : State).setS o.d w) ∧
      let x := s.port o.a.toNat
      w.getLsbD 63 = x.bound ∧ w.extractLsb' 61 2 = x.mode ∧ w.getLsbD 60 = x.wr ∧ w.extractLsb' 58 2 = x.ouop ∧ w.extractLsb' 52 6 = x.tid ∧ w.extractLsb' 36 16 = x.gen ∧
      w.getLsbD 35 = x.fault.isSome ∧ w.getLsbD 34 = s.core.quiescentPort o.a.toNat ∧ w.getLsbD 33 = x.xQrow.isSome ∧ w.getLsbD 32 = x.xConvert.isSome ∧
      w.getLsbD 31 = x.xBroadcast.isSome ∧ w.getLsbD 30 = x.xPermute.isSome ∧ w.getLsbD 29 = x.xTranspose ∧ (w.extractLsb' 23 6).toNat ≤ 32 ∧
      (x.wr = false → (w.extractLsb' 23 6).toNat = min 32 (x.fifo.length - s.core.slotsAt o.a.toNat)) ∧ (w.extractLsb' 16 7).toNat ≤ 64 ∧
      (x.lead = false → s.core.quiescentPort o.a.toNat = true → w.extractLsb' 16 7 = 0) ∧ (w.extractLsb' 12 4).toNat = min 8 (s.core.portCount o.a.toNat)) ∧
    (o.m = 1 → s.core.quiescentPort o.a.toNat = true → ∃ x, exec (.pwin o) s =
        go ((s.putPort o.a.toNat x).setS o.d ((SMap.get 0 (s.port o.a.toNat).wins (o.imm.toNat / 2)).extractLsb' (64 * (o.imm.toNat % 2)) 64)) ∧
      (SMap.get 0 x.wins (o.imm.toNat / 2)).getLsbD 0 = false ∧ ∀ k, k ≠ o.imm.toNat / 2 → SMap.get 0 x.wins k = SMap.get 0 (s.port o.a.toNat).wins k) ∧
    (o.m ≠ 1 → exec (.pwin o) s = go (s.setS o.d ((SMap.get 0 (s.port o.a.toNat).wins (o.imm.toNat / 2)).extractLsb' (64 * (o.imm.toNat % 2)) 64))) ∧
    (idle → o.q.toNat ≤ 5 → ((s.getS o.a) &&& ~~~(xformMask o.q.toNat) &&& 0x7FFFFFFFFFFFFFFF) = 0 → p.bound = false →
      exec (.pxform o) s = go (s.putPort n (p.setStage o.q.toNat ((s.getS o.a).getLsbD 63) (s.getS o.a)))) ∧
    (idle → o.q ≠ 1 → exec (.pflush o) s = go (s.acquire s.core.cur 3 [portKey s.coreId n])) ∧
    (idle → o.q = 1 → ∃ x, exec (.pflush o) s = go ((s.acquire s.core.cur 3 [portKey s.coreId n]).putPort n x) ∧ ∀ e, e < 4 → (SMap.get 0 x.wins e).getLsbD 1 = false ∧ ∀ k, k ≠ 1 → (SMap.get 0 x.wins e).getLsbD k = (SMap.get 0 p.wins e).getLsbD k)

/-- A copy or a CIRC whose checks at issue find nothing, and whose queues have room, joins them as one more invocation, which captured the operands; the instruction goes on. (Rests on R31, R32, R185 to R189 and R200.) -/
def Obligations.CopyIssue : Prop :=
  ∀ (o : Ops) (s : State) (i : Instr) (op : Nat) (ports : List Nat) (own : Option TrapInfo), Ready o s →
    (i, op, ports, own) ∈ [(Instr.cpy o, 0x7A, [o.a.toNat, o.d.toNat], copyBreach s o false), (.cpyt o, 0x7C, [o.a.toNat, o.d.toNat], copyBreach s o true),
      (.cpyq o, 0x7D, [o.a.toNat, o.d.toNat, o.c.toNat], dualBreach s o), (.cpys o, 0x7B, [o.imm.toNat], linearBreach s o), (.cpyr o, 0x7E, [o.imm.toNat], slotReadBreach s o),
      (.cpyw o, 0x7F, [o.imm.toNat], slotWriteBreach s o), (.circ o, 0x8D, [o.d.toNat], circBreach s o ((s.getS o.a).toNat + o.imm.toNat))] →
    (∀ w ∈ s.core.invs, w.id < s.core.nextInv) → own = none → (o.b ≠ 0 → (s.getS o.b).toNat % 8 = 0 ∧ (s.getS o.b).toNat < 0x400000) → s.core.queueFull op ports = false →
    ∃ t v, exec i s = .next t ∧ t.core.invs = s.core.invs ++ [v] ∧ v.id = s.core.nextInv ∧ t.core.nextInv = s.core.nextInv + 1 ∧ v.op = op ∧ v.ports = ports ∧ v.ctx = s.core.cur ∧
      v.pc = s.ctx.pc ∧ v.sd = s.getS o.d ∧ v.sa = s.getS o.a ∧ v.sb = s.getS o.b ∧ v.sc = s.getS o.c ∧ v.st = .queued ∧
      (op ≠ 0x8D → t.core.copySeq = s.core.copySeq + 1 ∧ v.seq = s.core.copySeq) ∧
      t.ctx.pc = s.nextPc o ∧ t.ctx.s = s.ctx.s ∧ t.ctx.v = s.ctx.v ∧ t.ctx.p = s.ctx.p ∧ t.core.spm = s.core.spm ∧ t.core.ports = s.core.ports

/-- The barrier instructions at an 8-byte aligned offset within the scratchpad. The phase flips when the count reaches EXP, and the count returns to 0; an arrival past EXP raises BARRIER_OVERFLOW and leaves the word. No other byte changes. BARWAIT that ends and BARTEST that answers 1 are acquires at .core. (Rests on R134 to R136, R192 and R193.) -/
def Obligations.BarrierResults : Prop :=
  ∀ (o : Ops) (s : State), Ready o s →
    let x := (s.getS o.a).toNat
    let n := (s.getS o.b).toNat + o.imm.toNat
    let w := s.core.barWord x
    let named := (s.getS o.b).getLsbD 0 ^^ o.imm.getLsbD 0
    let done := fun (i : Instr) (ph : Bool) (e a : Nat) => ∃ t, exec i s = .next t ∧ t.ctx.pc = s.nextPc o ∧ t.ctx.s = s.ctx.s ∧ t.mem = s.mem ∧
      barPh (t.core.barWord x) = ph ∧ barExp (t.core.barWord x) = e ∧ barArr (t.core.barWord x) = a ∧
      ∀ y, y < x ∨ x + 8 ≤ y → SMap.get 0 t.core.spm y = SMap.get 0 s.core.spm y
    let spill := Host.Outcome.next (φ := Fault) (ρ := Refusal) (s.trapA ⟨cBarrierOverflow, none, none, some 0xFFFF, none⟩ o.form.bytes)
    (x % 8 = 0 → x < 0x400000 →
      (n < 2 ^ 31 → done (.barinit o) false n 0) ∧
      (n < 2 ^ 31 → barArr w ≤ n → (0 < n ∧ barArr w = n → done (.bararm o) (!barPh w) n 0) ∧ (¬ (0 < n ∧ barArr w = n) → done (.bararm o) (barPh w) n (barArr w))) ∧
      (n < barArr w → exec (.bararm o) s = spill) ∧
      (n = 0 → done (.bararr o) (barPh w) (barExp w) (barArr w)) ∧
      (0 < n → barArr w + n < barExp w → done (.bararr o) (barPh w) (barExp w) (barArr w + n)) ∧
      (0 < n → barArr w + n = barExp w → done (.bararr o) (!barPh w) (barExp w) 0) ∧
      (0 < n → barExp w < barArr w + n → exec (.bararr o) s = spill) ∧
      (barPh w ≠ named → exec (.barwait o) s = .next ((s.acquire s.core.cur 3 [(spKey s.coreId x, 8)]).goTo (s.nextPc o))) ∧
      exec (.bartest o) s = .next (((if barPh w = named then s else s.acquire s.core.cur 3 [(spKey s.coreId x, 8)]).setS o.d (BitVec.ofNat 64 (2 ^ 32 * barArr w + if barPh w = named then 0 else 1))).goTo (s.nextPc o))) ∧
    (x % 8 ≠ 0 → ∀ i, i = Instr.barinit o ∨ i = .bararm o ∨ i = .bararr o ∨ i = .barwait o ∨ i = .bartest o →
      exec i s = .next (s.trapA ⟨cAlign, none, some (s.getS o.a), some 0xFFFF, none⟩ o.form.bytes)) ∧
    (x % 8 = 0 → 0x400000 ≤ x → ∀ i, i = Instr.barinit o ∨ i = .bararm o ∨ i = .bararr o ∨ i = .barwait o ∨ i = .bartest o →
      exec i s = .next (s.trapA ⟨cScratchRange, some 0, some (s.getS o.a), some 0xFFFF, none⟩ o.form.bytes))

/-- The tag table, in its canonical form, and the full bits. A hit and a full bit read are acquires at .core, and FESET is a release. (Rests on R194 to R199.) -/
def Obligations.TagTableAndFullBitResults : Prop :=
  ∀ (o : Ops) (s : State), Ready o s → SMap.wf 0 s.core.tags = true →
    let a := s.getS o.a
    let i := (s.getS o.b).toNat
    let n := (s.getS o.b).toNat + o.imm.toNat
    let names := fun (w : Word) => tagAsid w = s.curAsid ∧ tagVpn w = bits a 47 12
    let go := fun (t : State) => Host.Outcome.next (φ := Fault) (ρ := Refusal) (t.goTo (s.nextPc o))
    let range := fun (k : Nat) (x : Word) => Host.Outcome.next (φ := Fault) (ρ := Refusal) (s.trapA ⟨cScratchRange, some (BitVec.ofNat 64 k), some x, some 0xFFFF, none⟩ o.form.bytes)
    let hit := fun (k : Nat) => tagV (s.core.tag k) = true ∧ tagBusy (s.core.tag k) = false ∧ names (s.core.tag k)
    (∀ k, hit k → (∀ j, j < k → ¬ hit j) → exec (.sptlook o) s = go ((s.acquire s.core.cur 3 [slotKey s.coreId k]).setS o.d (BitVec.ofNat 64 (4096 * k + bits a 11 0)))) ∧
    ((∀ k, ¬ hit k) → exec (.sptlook o) s = go (s.setS o.d (BitVec.allOnes 64))) ∧
    (i < 1024 → tagV (s.core.tag i) = true ∨ tagBusy (s.core.tag i) = true → exec (.sptins o) s = go (s.setS o.d 1)) ∧
    (i < 1024 → tagV (s.core.tag i) = false → tagBusy (s.core.tag i) = false →
      ((∃ j, j ≠ i ∧ (tagV (s.core.tag j) = true ∨ tagBusy (s.core.tag j) = true) ∧ names (s.core.tag j)) → exec (.sptins o) s = go (s.setS o.d 2)) ∧
      ((∀ j, j ≠ i → tagV (s.core.tag j) = true ∨ tagBusy (s.core.tag j) = true → ¬ names (s.core.tag j)) →
        ∃ w, exec (.sptins o) s = go ((s.putCore (s.core.putTag i w)).setS o.d 0) ∧ names w ∧ tagV w = true ∧ tagBusy w = false ∧ w.getLsbD 61 = false ∧
          tagLive w = decide (o.q = 1) ∧ tagCtx w = ctxNum s.core.cur)) ∧
    (1024 ≤ i → exec (.sptins o) s = range 1 (s.getS o.b)) ∧
    (a.toNat < 1024 → tagBusy (s.core.tag a.toNat) = false → exec (.sptevict o) s = go ((s.putCore (s.core.putTag a.toNat 0)).setS o.d (s.core.tag a.toNat))) ∧
    (a.toNat < 1024 → exec (.sptread o) s = go (s.setS o.d (s.core.tag a.toNat))) ∧
    (1024 ≤ a.toNat → exec (.sptevict o) s = range 1 a ∧ exec (.sptread o) s = range 1 a) ∧
    (∀ f b, (f, b) = (Instr.feset o, true) ∨ (f, b) = (Instr.feclr o, false) → a.toNat + n ≤ 0x400000 →
      let key := fullKey s.coreId a.toNat n
      ∃ m, (exec f s = go (if n = 0 then s.putCore { s.core with full := m } else if b then (s.release s.core.cur 3 [key]).putCore { s.core with full := m } else (s.putCore { s.core with full := m }).forget key.1 key.2)) ∧
        ∀ g, SMap.get false m g = if a.toNat < 16 * (g + 1) ∧ 16 * g < a.toNat + n ∧ 0 < n then b else SMap.get false s.core.full g) ∧
    (a.toNat < 0x400000 → exec (.fetest o) s = if SMap.get false s.core.full (a.toNat / 16) then go ((s.acquire s.core.cur 3 [fullKey s.coreId a.toNat 1]).setS o.d 1) else go (s.setS o.d 0)) ∧
    (0x400000 ≤ a.toNat → exec (.fetest o) s = range 0 a)

/-- The floating vector forms, lane by lane, with the rounding of their qualifier. Where the bounds of an evaluation decide no rounding, fnRsq and vfn give a free value (log entry 4). (Rests on R371 to R376.) -/
def Obligations.VectorFloatResults : Prop :=
  ∀ (o : Ops) (s : State), Open s →
    let q := o.q.toNat
    let a := fun (k : Nat) => lane (s.getV o.a) k
    let b := fun (k : Nat) => if o.m = 1 then (s.getS o.b).setWidth 32 else lane (s.getV o.b) k
    let d := fun (k : Nat) => lane (s.getV o.d) k
    let x := fun (k : Nat) => f32 (a k)
    let y := fun (k : Nat) => f32 (b k)
    LaneResult o s (.vadd o) (fun k => toF32 (addVal fp32 q (x k) (y k))) ∧
    LaneResult o s (.vsub o) (fun k => toF32 (addVal fp32 q (x k) (y k).neg)) ∧
    LaneResult o s (.vmul o) (fun k => toF32 (mulVal fp32 q (x k) (y k))) ∧
    LaneResult o s (.vdiv o) (fun k => toF32 (divVal fp32 q (x k) (y k))) ∧
    LaneResult o s (.vfma o) (fun k => toF32 (fmaVal fp32 q (x k) (y k) (f32 (d k)))) ∧
    LaneResult o s (.vfms o) (fun k => toF32 (fmaVal fp32 q (x k) (y k) (f32 (d k)).neg)) ∧
    LaneResult o s (.vsqrt o) (fun k => toF32 (sqrtVal fp32 q (x k))) ∧
    LaneResult o s (.vmin o) (fun k => (BitVec.ofNat 32 (minMaxBits fp32 false (a k).toNat (b k).toNat), 0)) ∧
    LaneResult o s (.vmax o) (fun k => (BitVec.ofNat 32 (minMaxBits fp32 true (a k).toNat (b k).toNat), 0)) ∧
    LaneResult o s (.vabs o) (fun k => (if x k = .nan false ∨ x k = .nan true then 0x7FC00000 else a k &&& 0x7FFFFFFF, 0)) ∧
    LaneResult o s (.vneg o) (fun k => (if x k = .nan false ∨ x k = .nan true then 0x7FC00000 else a k ^^^ 0x80000000, 0)) ∧
    LaneResult o s (.vround o) (fun k => roundLane q (a k)) ∧
    LaneResult o s (.vscaleb o) (fun k => scalebLane q (lane (s.getV o.b) k).toInt (o.imm.signExtend 64).toInt (a k)) ∧
    LaneResult o s (.vclass o) (fun k => (classLane (a k), 0)) ∧
    LaneResult o s (.vrcp o) (fun k => toF32 (divVal fp32 0 (.fin false 1 0) (x k))) ∧
    LaneResult o s (.vrsq o) (fun k => fnRsq (a k)) ∧
    LaneResult o s (.vfn o) (fun k => vfn q (a k))

/-- The conversions between FP32 lanes and packed elements, and the quantising forms, which write their scales to S[C]. (Rests on R377 to R379.) -/
def Obligations.VectorConversionResults : Prop :=
  ∀ (o : Ops) (s : State), Open s →
    let mode := o.q.toNat % 4
    let ieee := o.q.getLsbD 2
    let a := fun (k : Nat) => lane (s.getV o.a) k
    let part := fun (w k : Nat) => packed (s.getV o.a) w (256 * o.imm.toNat + k)
    let input := (List.range 256).map (fun k => if (guardMask s.ctx o.g).getLsbD k then f32 (a k) else .fin false 0 0)
    LaneResult o s (.vcvtF2i o) (fun k => (BitVec.ofInt 32 (toInteger 32 mode (f32 (a k))).1, (toInteger 32 mode (f32 (a k))).2)) ∧
    LaneResult o s (.vcvtI2f o) (fun k => toF32 (roundVal fp32 mode (ofInteger (a k).toInt))) ∧
    LaneResult o s (.vcvtUi2f o) (fun k => toF32 (roundVal fp32 mode (ofInteger (a k).toNat))) ∧
    (o.imm.toNat < 2 → PartResult o s (.vcvtF2bf o) 16 (fun k => convertTo bf16 mode ieee (f32 (a k)))) ∧
    (o.imm.toNat < 2 → PartResult o s (.vcvtF2h o) 16 (fun k => convertTo fp16 mode ieee (f32 (a k)))) ∧
    (o.imm.toNat < 4 → PartResult o s (.vcvtF2e4 o) 8 (fun k => convertTo e4m3 mode ieee (f32 (a k)))) ∧
    (o.imm.toNat < 4 → PartResult o s (.vcvtF2e5 o) 8 (fun k => convertTo e5m2 mode ieee (f32 (a k)))) ∧
    (o.imm.toNat < 4 → PartResult o s (.vcvtF2i8 o) 8 (fun k => ((BitVec.ofInt 8 (toInteger 8 mode (f32 (a k))).1).toNat, (toInteger 8 mode (f32 (a k))).2))) ∧
    LaneResult o s (.vcvtBf2f o) (fun k => toF32 (convertTo fp32 0 false (unpack bf16 (part 16 k)))) ∧
    LaneResult o s (.vcvtH2f o) (fun k => toF32 (convertTo fp32 0 false (unpack fp16 (part 16 k)))) ∧
    LaneResult o s (.vcvtE42f o) (fun k => toF32 (convertTo fp32 0 false (unpack e4m3 (part 8 k)))) ∧
    LaneResult o s (.vcvtE52f o) (fun k => toF32 (convertTo fp32 0 false (unpack e5m2 (part 8 k)))) ∧
    LaneResult o s (.vcvtI82f o) (fun k => toF32 (convertTo fp32 0 false (ofInteger (BitVec.ofNat 8 (part 8 k)).toInt))) ∧
    (∃ v, exec (.vqntE4m3 o) s = .next ((((s.setV o.d v).setS o.c ((quantRow input).1.setWidth 64)).addFlags (quantRow input).2.2).goTo (s.nextPc o)) ∧
      (o.imm.toNat < 4 → ∀ e, e < 1024 → packed v 8 e = if e / 256 = o.imm.toNat then ((quantRow input).2.1.getD (e % 256) 0).toNat else packed (s.getV o.d) 8 e)) ∧
    (let w := fmtBits o.q.toNat
     let blk := fun (n : Nat) => quantBfp w (o.m = 1) ((input.drop (32 * n)).take 32)
     ∃ v g, exec (.vqntBfp o) s = .next ((((s.setV o.d v).setS o.c (BitVec.ofNat 64 ((List.range 8).foldr (fun n x => (blk n).1.toNat + 256 * x) 0))).addFlags g).goTo (s.nextPc o)) ∧
       (8 ≤ o.q.toNat → o.q.toNat < 15 → ∀ e, w * e < 8192 → packed v w e = if e < 256 then (blk (e / 32)).2.1.getD (e % 32) 0 % 2 ^ w else packed (s.getV o.d) w e)) ∧
    LaneResult o s (.vdqnt o) (fun k => dequantLane s o k)

/-- Integer lanes, shifts, selection, comparison into a predicate and back. (Rests on R380 to R383 and R386.) -/
def Obligations.VectorIntegerResults : Prop :=
  ∀ (o : Ops) (s : State), Open s →
    let q := o.q.toNat
    let m := guardMask s.ctx o.g
    let a := fun (k : Nat) => lane (s.getV o.a) k
    let v := fun (k : Nat) => lane (s.getV o.b) k
    let b := fun (k : Nat) => if o.m = 1 then (s.getS o.b).setWidth 32 else v k
    let n := fun (k : Nat) => if o.m = 1 then o.imm.toNat else (v k).toNat % 32
    (q = 0 → LaneResult o s (.viadd o) (fun k => (a k + b k, 0)) ∧ LaneResult o s (.visub o) (fun k => (a k - b k, 0)) ∧ LaneResult o s (.vimul o) (fun k => (a k * b k, 0))) ∧
    (q = 1 → LaneResult o s (.viadd o) (fun k => let r := saturate ((a k).toInt + (b k).toInt) 32; (BitVec.ofInt 32 r.1, r.2)) ∧
      LaneResult o s (.visub o) (fun k => let r := saturate ((a k).toInt - (b k).toInt) 32; (BitVec.ofInt 32 r.1, r.2)) ∧
      LaneResult o s (.vimul o) (fun k => (BitVec.ofInt 32 ((a k).toInt * (b k).toInt / 2 ^ 32), 0))) ∧
    (q = 2 → LaneResult o s (.viadd o) (fun k => (BitVec.ofNat 32 (min ((a k).toNat + (b k).toNat) (2 ^ 32 - 1)), if 2 ^ 32 ≤ (a k).toNat + (b k).toNat then flagISAT else 0)) ∧
      LaneResult o s (.visub o) (fun k => (BitVec.ofNat 32 ((a k).toNat - (b k).toNat), if (a k).toNat < (b k).toNat then flagISAT else 0)) ∧
      LaneResult o s (.vimul o) (fun k => (BitVec.ofNat 32 ((a k).toNat * (b k).toNat / 2 ^ 32), 0))) ∧
    LaneResult o s (.vimad o) (fun k => (a k * b k + lane (s.getV o.d) k, 0)) ∧
    LaneResult o s (.vand o) (fun k => (a k &&& b k, 0)) ∧ LaneResult o s (.vor o) (fun k => (a k ||| b k, 0)) ∧ LaneResult o s (.vxor o) (fun k => (a k ^^^ b k, 0)) ∧
    LaneResult o s (.vshl o) (fun k => (BitVec.ofNat 32 ((a k).toNat * 2 ^ n k), 0)) ∧ LaneResult o s (.vshr o) (fun k => (BitVec.ofNat 32 ((a k).toNat / 2 ^ n k), 0)) ∧
    LaneResult o s (.vsra o) (fun k => (BitVec.ofInt 32 ((a k).toInt / 2 ^ n k), 0)) ∧
    LaneResult o s (.vclz o) (fun k => (if a k = 0 then 32 else BitVec.ofNat 32 (31 - Nat.log2 (a k).toNat), 0)) ∧
    LaneResult o s (.vpopc o) (fun k => (BitVec.ofNat 32 ((List.range 32).countP (fun j => (a k).getLsbD j)), 0)) ∧
    LaneResult o s (.vsel o) (fun k => (if (s.getP o.c).getLsbD k then a k else v k, 0)) ∧ LaneResult o s (.vmov o) (fun k => (a k, 0)) ∧
    PredResult o s (.vcmp o) (fun k => if o.m = 1 then intCond q (a k) (v k) else floatCond q (f32 (a k)) (f32 (v k))) ∧
    PredResult o s (.vplogNz o) (fun k => a k != 0) ∧ PredResult o s (.vplogBit o) (fun k => (a k).getLsbD o.imm.toNat) ∧
    LaneResult o s (.vplogP2v o) (fun k => (if (s.getP o.a).getLsbD k then 0xFFFFFFFF else 0, 0)) ∧
    (o.m ≠ 1 → exec (.vpcnt o) s = .next ((s.setS o.d (BitVec.ofNat 64 ((List.range 256).countP (fun k => (s.getP o.a).getLsbD k && m.getLsbD k)))).goTo (s.nextPc o))) ∧
    (o.m = 1 → ∃ k, exec (.vpcnt o) s = .next ((s.setS o.d (BitVec.ofNat 64 k)).goTo (s.nextPc o)) ∧ k ≤ 256 ∧
      (k < 256 → ((s.getP o.a).getLsbD k && m.getLsbD k) = true) ∧ ∀ j, j < k → ((s.getP o.a).getLsbD j && m.getLsbD j) = false)

/-- Broadcasts, extraction, insertion, permutation, rotation, index vectors and random bits. VEXTR tests lane 0 of its guard. The random bits are those of prngLane. (Rests on R385 and R393.) -/
def Obligations.LaneMoveResults : Prop :=
  ∀ (o : Ops) (s : State), Open s →
    let a := fun (k : Nat) => lane (s.getV o.a) k
    let n := ((s.getS o.b).toNat + o.imm.toNat) % 256
    LaneResult o s (.vbcast o) (fun _ => ((s.getS o.a).setWidth 32, 0)) ∧ LaneResult o s (.vbcastLane o) (fun _ => (a o.imm.toNat, 0)) ∧
    (s.guard0 o = true → exec (.vextr o) s = .next ((s.setS o.d ((a n).setWidth 64)).goTo (s.nextPc o))) ∧
    LaneResult o s (.vins o) (fun k => (if k = n then (s.getS o.a).setWidth 32 else lane (s.getV o.d) k, 0)) ∧
    LaneResult o s (.vperm o) (fun k => (let x := (lane (s.getV o.b) k).toNat; if x < 256 then a x else 0, 0)) ∧
    LaneResult o s (.vrot o) (fun k => (a ((k + n) % 256), 0)) ∧
    LaneResult o s (.viota o) (fun k => (BitVec.ofNat 32 ((s.getS o.a).toNat + k * (s.getS o.b + o.imm.signExtend 64).toNat), 0)) ∧
    LaneResult o s (.vprng o) (fun k => (prngLane s o k, 0))

/-- Reduction and scan, sorting, selection, gates and the histogram. Integer sums wrap; a sort without .IDX leaves the unmasked lanes in ascending order of its key in the lowest lanes and keeps the rest. The bins of a histogram are those below the bound that some unmasked lane names, each with how many lanes name it. (Rests on R107, R108, R384, R387, R391, R392 and R394; R394.) -/
def Obligations.CrossLaneResults : Prop :=
  (
  ∀ (o : Ops) (s : State), Open s →
    let m := guardMask s.ctx o.g
    let q := o.q.toNat
    let a := fun (k : Nat) => lane (s.getV o.a) k
    let ls := maskLanes m
    (∃ g x, exec (.vred o) s = .next (((s.setS o.d (redExtend q x)).addFlags g).goTo (s.nextPc o)) ∧
      (q = 4 → x = BitVec.ofNat 32 ((ls.map (fun k => (a k).toNat)).sum) ∧ g = 0) ∧ (q = 10 → ∀ n, x.getLsbD n = ls.any (fun k => (a k).getLsbD n)) ∧ (ls = [] → x = redIdentity q)) ∧
    (∃ g v, exec (.vscan o) s = .next (((s.setV o.d v).addFlags g).goTo (s.nextPc o)) ∧
      (q = 4 → ∀ i, i < 256 → lane v i = BitVec.ofNat 32 (((ls.filter (fun k => decide (k ≤ i))).map (fun k => (a k).toNat)).sum))) ∧
    (∃ v, exec (.vsort o) s = .next ((s.setV o.d v).goTo (s.nextPc o)) ∧
      (∀ j, ls.length ≤ j → j < 256 → lane v j = lane (s.getV o.d) j) ∧
      (o.m = 0 → ((List.range ls.length).map (fun j => lane v j)).Perm (ls.map a) ∧ ∀ i j, i ≤ j → j < ls.length → sortKey q (lane v i) ≤ sortKey q (lane v j))) ∧
    (∃ v, exec (.vtopk o) s = .next ((s.setV o.d v).goTo (s.nextPc o)) ∧
      ∃ l : List Nat, l.Nodup ∧ (∀ k ∈ l, k ∈ ls) ∧ l.length = min (min (s.getS o.b).toNat 256) ls.length ∧
        (∀ j, j < 256 → lane v j = match l[j]? with | some k => BitVec.ofNat 32 k | none => 0xFFFFFFFF) ∧
        (s.core.detmode.getLsbD 0 = false → ∀ k ∈ l, ∀ n ∈ ls, n ∉ l → topScore (a n) ≤ topScore (a k))) ∧
    (∀ i, i = Instr.vgate o ∨ i = Instr.vgateRenorm o → ∃ g v, exec i s = .next (((s.setV o.d v).addFlags g).goTo (s.nextPc o)) ∧
      ∀ j, j < 256 → m.getLsbD j = false ∨ min (s.getS o.c).toNat 256 ≤ j ∨ 256 ≤ (lane (s.getV o.b) j).toNat → lane v j = 0) ∧
    (let base := s.getS o.a + o.imm.signExtend 64
     base.toNat + 4 ≤ 2 ^ 48 → base.toNat % 4 = 0 →
      ∀ l t, laneParts s .write (fun b => base.toNat + 4 * b) ((histBins s o).map (·.1)) = .ok (l, t) → t.waitsWay (l.flatMap (·.2)) = false →
        exec (.vhist o) s = .next ((histAdds t (if o.m.getLsbD 0 then scopeReach o.q.toNat else 0) (l.zip (histBins s o))).goTo (s.nextPc o)) ∧
        ∀ u rel, (histAdds u rel (l.zip (histBins s o))).mem = ((l.zip (histBins s o)).foldl (fun u e => storeParts u e.1.2 (leBytes 4 ((leNat (readParts u e.1.2) + e.2.2) % 2 ^ 32))) u).mem)) ∧
  (
  ∀ (o : Ops) (s : State) (b n : Nat),
    (b, n) ∈ histBins s o ↔ 0 < n ∧ b < min (s.getS o.c).toNat 256 ∧
      n = (List.range 256).countP (fun k => (guardMask s.ctx o.g).getLsbD k && decide ((lane (s.getV o.b) k).toNat = b)))

/-- An invocation of an engine whose checks at issue find nothing, in a queue with room, is queued with what it captures and the instruction goes on. (Rests on R31, R32, R348, R352 to R358, R395 to R397, R406, R410 to R413.) -/
def Obligations.EngineIssue : Prop :=
  ∀ (o : Ops) (s : State), Ready o s →
    let held := o.m.getLsbD 2
    let sel := (s.getS o.b).toNat + o.imm.toNat
    let sp := fun (w : Word) (align n : Nat) => w.toNat % align = 0 ∧ w.toNat + n ≤ 0x400000
    (Room s 0 →
      (sel < 2 ^ 14 → sel % 256 < 32 → BarrierOk s o.c →
        (o.m.getLsbD 0 = false → Issues o s (.mxmma o) 0x90 [o.a.toNat] held) ∧
        (o.m.getLsbD 0 = true → sp (s.getS o.a) 16 1 → Issues o s (.mxmma o) 0x90 [] held)) ∧
      Issues o s (.mxzero o) 0x91 [] held ∧ Issues o s (.mxscale o) 0x96 [] held ∧
      (sp (s.getS o.a) 8 65536 → Issues o s (.mxldacc o) 0x92 [] held) ∧
      (BarrierOk s o.b → (o.m.getLsbD 0 = true → sp (s.getS o.d) 8 65536 → Issues o s (.mxstacc o) 0x93 [] held) ∧
        (o.m.getLsbD 0 = false → Issues o s (.mxstacc o) 0x93 (o.d.toNat :: chainPorts s.core.chain) held)) ∧
      (sel < 32 → BarrierOk s o.c → Issues o s (.mxwload o) 0x94 [o.a.toNat] held) ∧
      ((s.getS o.a).toNat + o.imm.toNat < 32 → Issues o s (.mxwdrop o) 0x95 [] false) ∧ Issues o s (.mxwdropAll o) 0x95 [] false) ∧
    (Room s 1 → BarrierOk s o.b → Issues o s (.vprd o) 0xCF [o.a.toNat] held ∧ Issues o s (.vpwr o) 0xD0 [o.d.toNat] held) ∧
    (Room s 2 → (∀ p, s.core.portCount p < 8) → BarrierOk s o.c →
      (o.m.getLsbD 1 = false →
        let ports := (o.a.toNat :: o.b.toNat :: if o.m.getLsbD 0 then [o.imm.toNat] else []).eraseDups
        Issues o s (.mgisect o) 0xE0 ports held ∧ Issues o s (.mgunion o) 0xE1 ports held ∧ Issues o s (.mgdiff o) 0xE2 ports held ∧ Issues o s (.mgmerge o) 0xE3 ports held) ∧
      (∀ i op, (i, op) ∈ [(Instr.mgisect o, 0xE0), (.mgunion o, 0xE1), (.mgdiff o, 0xE2), (.mgmerge o, 0xE3)] → o.m.getLsbD 1 = true →
        let v := s.newInv op o (o.a.toNat :: o.b.toNat :: if o.m.getLsbD 0 then [o.imm.toNat] else []).eraseDups held
        (s.core.cur ≠ .k → s.ctx.ins.length < 16 →
          exec i s = .next (((s.addInv v).putCtx { s.ctx with ins := s.ctx.ins ++ [⟨.afterData s.ctx.qbase, none, s.core.nextInv⟩] }).goTo (s.nextPc o))) ∧
        (s.core.cur ≠ .k → 16 ≤ s.ctx.ins.length →
          exec i s = .next (s.trapA ⟨cStackOverflow, some 2, some (BitVec.ofNat 64 s.ctx.ins.length), none, none⟩ o.form.bytes))) ∧
      Issues o s (.mgseq o) 0xE5 [o.a.toNat, o.b.toNat, o.imm.toNat].eraseDups held ∧
      (steerBad s o = false → Issues o s (.mgsteer o) 0xE4 (o.a.toNat :: (List.range o.imm.toNat).map (fun k => bits (s.getS o.b) (4 * k + 2) (4 * k))).eraseDups held))

/-- The engines' configuration and status. A chain node that is not allowed raises TID_INVALID 0x34, a row stride that is not allowed 0x33, and pivots and mark pairs belong to the context. An MXWAIT that ends is an acquire at .core. (Rests on R356, R359 to R362 and R414 to R416.) -/
def Obligations.EngineConfiguration : Prop :=
  ∀ (o : Ops) (s : State), Ready o s →
    let a := s.getS o.a
    let b := s.getS o.b
    let k := o.imm.toNat
    let go := fun (t : State) => Host.Outcome.next (φ := Fault) (ρ := Refusal) (t.goTo (s.nextPc o))
    (∀ i q, (i, q) ∈ [(Instr.mxchainOff o, 0), (.mxchainScale o, 1), (.mxchainBias o, 2), (.mxchainResid o, 3), (.mxchainAct o, 4), (.mxchainClamp o, 5), (.mxchainQnt o, 6)] →
      (chainBad q a b = false → exec i s = go (s.putCore { s.core with chain := SMap.set ChainNode.off s.core.chain k ⟨BitVec.ofNat 3 q, a, b⟩ })) ∧
      (chainBad q a b = true → ∃ x, exec i s = .next (s.trapA ⟨cTidInvalid, some 0x34, none, some x, none⟩ o.form.bytes))) ∧
    (a.toNat % 16 = 0 → 0 < a.toNat → a.toNat ≤ 65536 → exec (.mxfmt o) s = go (s.putCtx { s.ctx with mxFmt := o.q, mxRs := a })) ∧
    (a.toNat % 16 ≠ 0 → ∃ x, exec (.mxfmt o) s = .next (s.trapA ⟨cTidInvalid, some 0x33, none, some x, none⟩ o.form.bytes)) ∧
    (∀ i on, (i, on) ∈ [(Instr.mxskipOff o, false), (.mxskipOn o, true), (.mxskipRd o, s.core.skipOn)] →
      exec i s = go ((s.putCore { s.core with skipOn := on }).setS o.d (if s.core.skipOn then 1 else 0))) ∧
    ((∀ v ∈ s.core.invs, unitOf v.op = 0 → v.ctx ≠ s.core.cur) → exec (.mxwait o) s = go (s.acquire s.core.cur 3 [invKeys s.coreId s.core.cur 0 s.core.nextInv])) ∧
    (∀ n, n = (if s.ctx.waiting = some .invocation then s.ctx.waitInv else s.core.nextInv) → (∀ v ∈ s.core.invs, unitOf v.op = 0 → n ≤ v.id) →
      exec (.mxwaitAll o) s = go (s.acquire s.core.cur 3 ([CtxId.u0, .u1, .u2, .u3, .k].map (fun c => invKeys s.coreId c 0 n)))) ∧
    exec (.mxstat o) s = go (s.setS o.d (mxWord s.core)) ∧ exec (.mxstatSlot o) s = go (s.setS o.d (s.core.wslot k).word) ∧
    exec (.mxstatZmask o) s = go (s.setS o.d (s.core.wslot k).zmask) ∧ exec (.mxstatSkipcnt o) s = go (s.setS o.d s.core.skipCount) ∧
    exec (.mgstat o) s = go (s.setS o.d (mgWord s.core)) ∧ exec (.mgstatPart o) s = go (s.setS o.d (BitVec.ofNat 64 (mgPart s))) ∧
    exec (.mgstatLeaf o) s = go (s.setS o.d (SMap.get 0 s.ctx.leaves k)) ∧
    exec (.mgcfgPivot o) s = go (s.putCtx { s.ctx with pivots := SMap.set 0 s.ctx.pivots k (a.setWidth 32) }) ∧
    exec (.mgcfgPread o) s = go (s.setS o.d ((SMap.get 0 s.ctx.pivots k).setWidth 64)) ∧
    (a.toNat < 256 → (bits a 3 0 < 4 ∨ 7 < bits a 3 0) → (bits a 7 4 < 4 ∨ 7 < bits a 7 4) → exec (.mgcfgMark o) s = go (s.putCtx { s.ctx with mkPair := a.setWidth 8 }))

/-- The statuses of the Scroll forms, what they do outside a recording, what SCSTAT reads, and the state each leaves when it succeeds; SCPLAY reads the header as an acquire at .dev, whatever its status. In the K context SCINV and SCSTAT have no effect (log entry 58). (Rests on R467 to R473.) -/
def Obligations.ScrollResults : Prop :=
  ∀ (o : Ops) (s : State), Ready o s →
    let u := s.core.cur
    let x := s.ctx
    let a := s.getS o.a
    let go := fun (t : State) => Host.Outcome.next (φ := Fault) (ρ := Refusal) (t.goTo (t.nextPc o))
    let put := fun (n : Nat) => go (s.setS o.d (BitVec.ofNat 64 n))
    let after : Ctx := { x with pc := s.nextPc o, counted := x.counted + 1 }
    let word := fun (n : Nat) => s.tapeWord s.curAsid a.toNat n
    let slot := o.imm.toNat % 32
    (x.scroll.mode ≠ 0 → exec (.screcBegin o) s = put 1) ∧
    (x.scroll.mode = 0 → x.group = none → exec (.screcBegin o) s = put 4) ∧
    (∀ g, x.scroll.mode = 0 → x.group = some g → a.toNat % 4096 ≠ 0 ∨ tapeTlen g.count.toNat (s.getS o.b).toNat < 4096 → exec (.screcBegin o) s = put 2) ∧
    (∀ t, (s.setS o.d 0).beginTrack u { (s.setS o.d 0).ctx with pc := s.nextPc o, counted := x.counted + 1 } a (s.getS o.b) = (0, t) → exec (.screcBegin o) s = go t) ∧
    (x.group = none ∨ u = .k → exec (.screcEnd o) s = put 4) ∧
    (x.group ≠ none → u ≠ .k → x.scroll.mode ≠ 1 → exec (.screcEnd o) s = put 1) ∧
    (∀ t, x.group ≠ none → u ≠ .k → x.scroll.mode = 1 → s.closeTrack u after = t → t.ctx.scroll.abt = false →
      exec (.screcEnd o) s = go (t.setS o.d (BitVec.ofNat 64 (t.ctx.scroll.nrec * 2 ^ 32)))) ∧
    (x.scroll.fellBack = true → exec (.scplay o) s = go ((s.putScroll u { x.scroll with fellBack := false }).setS o.d 8)) ∧
    (x.scroll.fellBack = false → x.scroll.mode ≠ 0 → exec (.scplay o) s = put 1) ∧
    (x.scroll.fellBack = false → x.scroll.mode = 0 → x.group = none → exec (.scplay o) s = put 4) ∧
    (x.scroll.fellBack = false → x.scroll.mode = 0 → x.group ≠ none → a.toNat % 4096 ≠ 0 ∨ (s.getS o.b).toNat % 8 ≠ 0 → exec (.scplay o) s = put 2) ∧
    (∀ h, x.scroll.fellBack = false → s.readHeader u a (s.getS o.b) = h → h.core = s.core ∧ h.mem = s.mem ∧
      (x.scroll.mode = 0 → x.group ≠ none → a.toNat % 4096 = 0 → (s.getS o.b).toNat % 8 = 0 → tapePageOk s (s.asidOf u) a.toNat = true → h = s.acquire u 1 (s.tapeKey (s.asidOf u) a.toNat)) ∧
      (∀ t, h.startReplay u a (s.getS o.b) none = .ok t → exec (.scplay o) s = go (t.setS o.d 0)) ∧
      (∀ k, h.startReplay u a (s.getS o.b) none = .status k → exec (.scplay o) s = go (h.setS o.d (BitVec.ofNat 64 k))) ∧
      (∀ i, h.startReplay u a (s.getS o.b) none = .fault i → exec (.scplay o) s = .next ((h.putScroll u { x.scroll with fellBack := true }).raiseTrap i u noPc))) ∧
    (x.scroll.mode ≠ 1 → exec (.scguard o) s = go s ∧ exec (.scpatch o) s = go s) ∧
    (∀ t, x.scroll.mode = 1 → s.writeGuard u after 1 4 (o.imm.toNat % 65536) false = t → exec (.scguard o) s = go t) ∧
    (x.scroll.mode = 1 → 2 ^ (o.imm.toNat / 32 + 1) ≤ a.toNat → exec (.scpatch o) s = go (s.abortTrack u false)) ∧
    (∀ t, x.scroll.mode = 1 → a.toNat < 2 ^ (o.imm.toNat / 32 + 1) → s.putRecords u [2 * 2 ^ 126 + slot * 2 ^ 121 + o.imm.toNat / 32 * 2 ^ 115 + o.a.toNat * 2 ^ 109 + a.toNat] = t →
      (t.ctx.scroll.mode ≠ 1 → exec (.scpatch o) s = go t) ∧
      (t.ctx.scroll.mode = 1 → t.ctx.scroll.nrec = x.scroll.nrec + 1 ∧
        (∀ v, declareSlot t t.curAsid t.ctx.scroll.area.toNat slot (o.imm.toNat / 32 + 1) = some v → exec (.scpatch o) s = go (v.putScroll u { t.ctx.scroll with
          tags := if o.a = 0 then t.ctx.scroll.tags else SMap.set 0 t.ctx.scroll.tags o.a.toNat (BitVec.ofNat 6 (32 + slot)) })) ∧
        (declareSlot t t.curAsid t.ctx.scroll.area.toNat slot (o.imm.toNat / 32 + 1) = none → exec (.scpatch o) s = go (t.abortTrack u false)))) ∧
    (u = .k → exec (.scinv o) s = go s ∧ exec (.scstat o) s = go s) ∧
    (u ≠ .k → a.toNat % 4096 ≠ 0 → exec (.scinv o) s = put 2) ∧
    (let len := tapeTlen (bits (word 0) 31 0) (word 7).toNat
     let pages := ((word 7).toNat + 4095) / 4096
     u ≠ .k → a.toNat % 4096 = 0 → (tapePageOk s s.curAsid a.toNat = false → exec (.scinv o) s = put 3) ∧
      (tapePageOk s s.curAsid a.toNat = true →
        (len < 4096 → exec (.scinv o) s = put 2) ∧
        (4096 ≤ len → tapePagesOk pages s s.curAsid a.toNat = false → exec (.scinv o) s = put 3) ∧
        (∀ t, 4096 ≤ len → tapePagesOk pages s s.curAsid a.toNat = true → s.tapeWrite s.curAsid a.toNat (leBytes 8 (word 0 &&& 0x3FFFFFFFFFFFFFFF).toNat) = some t →
          exec (.scinv o) s = go ((t.dropRecords s.curAsid a.toNat pages).setS o.d 0)))) ∧
    (∀ ps t, u ≠ .k → o.imm.toNat < 8 → (a + BitVec.ofNat 64 (8 * o.imm.toNat)).toNat + 8 ≤ 2 ^ 48 →
      accessParts s s.curAsid s.kLevel .read (a + BitVec.ofNat 64 (8 * o.imm.toNat)).toNat 8 = .ok (ps, t) → t.waitsWay ps = false →
      ∀ r, r = t.loadParts .plain (unitOfAccess (a + BitVec.ofNat 64 (8 * o.imm.toNat)).toNat 8) ps → exec (.scstat o) s = .next ((r.2.setS o.d (BitVec.ofNat 64 (leNat r.1))).goTo (s.nextPc o))) ∧
    (u ≠ .k → 8 ≤ o.imm.toNat → ∃ w : Word, exec (.scstat o) s = go (s.setS o.d w) ∧ w.extractLsb' 62 2 = x.scroll.mode ∧ w.getLsbD 61 = x.scroll.abt ∧
      w.getLsbD 60 = x.scroll.clean ∧ w.extractLsb' 48 12 = 0 ∧ w.extractLsb' 32 16 = x.scroll.div ∧ w.extractLsb' 0 32 = BitVec.ofNat 32 x.scroll.nrec)

/-- TRAP raises SYSCALL and BRK raises BREAKPOINT, class A, with KAUX0 0 and the immediate in KAUX1; in the K context they have no effect beyond their count. At U-level every K-only form raises PRIV with SUB 0, before its guard and its budget are looked at. A reserved opcode raises ILLEGAL_OP with its subcode in KAUX0; on a halted core nothing runs. (Rests on R315, R317; R69; R67 and R70.) -/
def Obligations.SystemCallsAndPrivilege : Prop :=
  (
  ∀ (o : Ops) (s : State),
    (Open s → s.guard0 o = false → exec (.trap o) s = .next (s.goTo (s.nextPc o)) ∧ exec (.brk o) s = .next (s.goTo (s.nextPc o))) ∧
    (Ready o s →
    (s.core.cur = .k → exec (.trap o) s = .next (s.goTo (s.nextPc o)) ∧ exec (.brk o) s = .next (s.goTo (s.nextPc o))) ∧
    (s.core.cur ≠ .k →
      exec (.trap o) s = .next (s.trapA ⟨cSyscall, some 0, some (BitVec.ofNat 64 (o.imm.toNat % 65536)), none, none⟩ o.form.bytes) ∧
      exec (.brk o) s = .next (s.trapA ⟨cBreakpoint, some 0, some (BitVec.ofNat 64 (o.imm.toNat % 65536)), none, none⟩ o.form.bytes)))) ∧
  (
  ∀ (i : Instr) (o : Ops) (s : State), s.core.halted = false → s.core.cur ≠ .k → i.ops? = some o →
    (∃ n, i.opcode? = some n ∧ (n = 0xED ∨ n = 0xEE ∨ n = 0xEF ∨ n = 0xF0 ∨ n = 0xF1 ∨ n = 0xF2 ∨ n = 0xF3 ∨ n = 0xF4 ∨ n = 0xF6 ∨ n = 0xF7 ∨ n = 0xF8 ∨ n = 0xF9 ∨ n = 0xFA ∨ n = 0xFB)) →
    exec i s = .next (s.trapA ⟨cPriv, some 0, none, none, none⟩ o.form.bytes)) ∧
  (
  ∀ (o : Ops) (op sub : BitVec 8) (s : State),
    (s.core.halted = false → exec (.reservedOpcode o op sub) s = .next (s.trapA ⟨cIllegalOp, some (sub.setWidth 64), none, none, none⟩ o.form.bytes)) ∧
    (s.core.halted = true → exec (.reservedOpcode o op sub) s = .fault .coreHalted))

/-- What a class A trap of a U context leaves when its vector entry can be read and its reserved bits are 0: KCAUSE names cause, context and ILEN, KEPC the instruction, ASID the context's address space; the K context begins at the entry; the context is TRAPPED. A trap raised by the K context's own instruction halts the core: nothing of it runs any more, its groups are to retire with FAULT, its invocations are gone, and every instruction on it stops the model by name. (Rests on R307, R308, R311 and R312; R314.) -/
def Obligations.TrapEntry : Prop :=
  (
  ∀ (s : State) (i : TrapInfo) (len : Nat) (ps : List Part) (u : State), s.core.cur ≠ .k → len = 4 ∨ len = 8 ∨ len = 12 →
    let c := s.core.cur
    accessParts (s.logMem i c) s.curAsid true .read (bits s.core.kvbr 47 3 * 8 + 8 * i.cause.toNat) 8 = .ok (ps, u) →
    let e := BitVec.ofNat 64 (leNat (readParts s ps))
    bits e 63 48 = 0 → bits e 1 0 = 0 →
    ∃ t, s.trapA i len = t ∧ t.core.inTrap = true ∧ t.core.cur = .k ∧ t.core.k.pc = e ∧ t.core.kepc = s.ctx.pc ∧ t.core.asid = s.curAsid ∧
      t.core.kcause.toNat = i.cause.toNat + ctxNum c * 1024 + len / 4 * 16384 ∧
      (∀ w, i.aux0 = some w → t.core.kaux0 = w) ∧ (∀ w, i.aux1 = some w → t.core.kaux1 = w) ∧
      (∀ w, i.aux2 = some w → t.core.kaux2 = w) ∧ (∀ w, i.aux3 = some w → t.core.kaux3 = w) ∧
      (t.ctxAt c).st = .trapped ∧ (t.ctxAt c).pc = s.ctx.pc ∧ (t.ctxAt c).s = s.ctx.s ∧ t.mem = s.mem ∧ t.core.flags = s.core.flags ∧ t.core.invs = s.core.invs) ∧
  (
  ∀ (s : State) (i : TrapInfo) (len : Nat), s.core.cur = .k →
    let t := s.trapA i len
    t.core.halted = true ∧ t.core.invs = [] ∧
    (∀ u, u ≠ .k → (s.ctxAt u).group.isSome = true → (t.ctxAt u).parsed = true ∧ (t.ctxAt u).st = .parsing ∧ (t.ctxAt u).faulted = true ∧ (t.ctxAt u).gresume = none) ∧
    (∀ j o, j.ops? = some o → exec j t = .fault .coreHalted))

/-- The return from a trap clears INTRAP. Of a class A trap, ERET goes on at KEPC as it stands and ERET.SKIP at KEPC + 4 × ILEN; ERET.KILL ends the group, which retires with FAULT, whatever GRESUME has armed; only its running invocations stay. The K context's stores are then visible to the module (R129). (Rests on R129 and R318.) -/
def Obligations.EretResults : Prop :=
  ∀ (o : Ops) (s : State), ReadyK o s →
    (∃ t, exec (.eret o) s = .next t ∧ t.core.inTrap = false) ∧
    (∃ t, exec (.eretSkip o) s = .next t ∧ t.core.inTrap = false) ∧
    (∃ t, exec (.eretKill o) s = .next t ∧ t.core.inTrap = false) ∧
    (∀ n x, n < 4 → bits s.core.kcause 12 10 = n → s.ctxAt (uCtx n) = x → s.core.cut = none → s.core.restore = none → (∀ v, (s.ctxAt v).gresume = none) →
      x.st = .trapped → x.scroll.mode ≠ 2 → s.core.trapClass = .a →
        (∃ t, exec (.eret o) s = .next t ∧ t.ctxAt (uCtx n) = { x with st := x.trapFrom, pc := s.core.kepc } ∧ ∀ e ∈ t.unseen, e.party = partyOf s.coreId .k → 4 ≤ e.vis) ∧
        (∃ t, exec (.eretSkip o) s = .next t ∧ t.ctxAt (uCtx n) = { x with st := x.trapFrom, pc := s.core.kepc + BitVec.ofNat 64 (4 * bits s.core.kcause 15 14) })) ∧
    (∀ n x, n < 4 → bits s.core.kcause 12 10 = n → s.ctxAt (uCtx n) = x → s.core.cut = none → s.core.restore = none → x.group.isSome = true →
      ∃ t, exec (.eretKill o) s = .next t ∧ (t.ctxAt (uCtx n)).parsed = true ∧ (t.ctxAt (uCtx n)).st = .parsing ∧ (t.ctxAt (uCtx n)).faulted = true ∧
        (x.faulted = false → (t.ctxAt (uCtx n)).fcause = BitVec.ofNat 8 (bits s.core.kcause 4 0)) ∧ ∀ v ∈ t.core.invs, v.ctx = uCtx n → v.st = .running)

/-- RESUME, the invalidations, ASIDSET and WALK. An invalidation leaves no entry that it names in the TLBs of the cores and dies in its scope, those of the executing core and of its die among them, and keeps every other; ASIDSET sets the root and leaves no entry of its ASID in any TLB of the module; WALK changes no TLB. (Rests on R319, R324 to R326.) -/
def Obligations.TranslationControl : Prop :=
  ∀ (o : Ops) (s : State), ReadyK o s →
    let go := fun (t : State) => Host.Outcome.next (φ := Fault) (ρ := Refusal) (t.goTo (t.nextPc o))
    let a := (s.getS o.c).setWidth 9
    let lo := (s.getS o.a).toNat
    let hi := min (lo + (s.getS o.b).toNat) (2 ^ 48)
    let root := (s.getS o.a).setWidth 9
    let gone := fun (t : State) (p : TlbEntry → Prop) =>
      (∀ e, e ∈ t.core.l1tlb ↔ e ∈ s.core.l1tlb ∧ ¬ p e) ∧
      (∀ d, o.q.toNat ≤ 1 ∨ d = s.dieId → ∀ e, e ∈ (t.die d).tlb ↔ e ∈ (s.die d).tlb ∧ ¬ p e) ∧ (∀ d, 2 ≤ o.q.toNat → d ≠ s.dieId → (t.die d).tlb = (s.die d).tlb) ∧
      (SMap.wf Core.reset s.others = true → ∀ n, n ≠ s.coreId →
        (inScope s o.q.toNat n = true → ∀ e, e ∈ (t.coreOf n).l1tlb ↔ e ∈ (s.coreOf n).l1tlb ∧ ¬ p e) ∧ (inScope s o.q.toNat n = false → t.coreOf n = s.coreOf n))
    (exec (.tlbinvAll o) s = go (s.invalidate o.q.toNat (fun _ => true) (fun _ _ _ => true))) ∧
    (∃ t, exec (.tlbinvAll o) s = .next t ∧ gone t (fun _ => True) ∧ t.mem = s.mem) ∧
    (∃ t, exec (.tlbinvAsid o) s = .next t ∧ gone t (fun e => e.asid = a) ∧ t.mem = s.mem) ∧
    (s.getS o.b ≠ 0 → ∃ t, exec (.tlbinvPage o) s = .next t ∧ gone t (fun e => e.asid = a ∧ e.va < hi ∧ lo < e.va + e.size) ∧ t.mem = s.mem) ∧
    (s.getS o.b = 0 → exec (.tlbinvPage o) s = go s) ∧
    (512 ≤ (s.getS o.a).toNat → exec (.asidset o) s = go (s.setS o.d 1)) ∧
    ((s.getS o.a).toNat < 512 → ∃ t : State, exec (.asidset o) s = go (t.setS o.d 0) ∧ SMap.get 0 t.hub.roots root.toNat = (s.getS o.b &&& 0xFFFFFFF001) ∧
      (∀ n, n ≠ root.toNat → SMap.get 0 t.hub.roots n = SMap.get 0 s.hub.roots n) ∧ (∀ e ∈ t.core.l1tlb, e.asid ≠ root) ∧
      (∀ d, ∀ e ∈ (t.die d).tlb, e.asid ≠ root) ∧ (SMap.wf Core.reset s.others = true → ∀ n, ∀ e ∈ (t.coreOf n).l1tlb, e.asid ≠ root)) ∧
    (∃ (t : State) (w : Word), exec (.walk o) s = go (t.setS o.d w) ∧ t.core = s.core ∧ t.dies = s.dies ∧ t.mem = s.mem ∧
      (2 ^ 48 ≤ (s.getS o.a).toNat → (w.extractLsb' 60 4).toNat = 5) ∧ (w.extractLsb' 60 4 ≠ 0 → w.extractLsb' 40 16 = 0) ∧
      (∀ e, (s.getS o.a).toNat < 2 ^ 48 → walk s ((s.getS o.b).setWidth 9) (s.getS o.a).toNat = e →
        (w.extractLsb' 60 4).toNat = match e.fail with | none => 0 | some .root => 1 | some .notPresent => 2 | some .malformed => 3 | some .kind => 4 | some (.balloon _) => (w.extractLsb' 60 4).toNat | some (.bad _) => (w.extractLsb' 60 4).toNat)) ∧
    (exec (.resume o) s = go (s.fence .k 1).resumeAll) ∧
    ((∀ v ∈ s.core.invs, v.st ≠ .starved ∧ v.st ≠ .discarded) → SMap.wf Port.reset s.core.ports = true → (∀ e ∈ s.core.ports, e.2.fault = none) → exec (.resume o) s = go (s.fence .k 1))

/-- CTXSAVE, CTXLOAD and DRAIN write their status and, with status 0, arm a cut or a restore, or begin the drain; with another they change nothing else, but that a CTXLOAD which reads the area does so as an acquire at .dev (R336). (Rests on R332, R336 and R337.) -/
def Obligations.ContextSwitchResults : Prop :=
  ∀ (o : Ops) (s : State), ReadyK o s →
    let go := fun (t : State) => Host.Outcome.next (φ := Fault) (ρ := Refusal) (t.goTo (t.nextPc o))
    let u := uCtx (o.m.toNat - 1)
    let a := s.getS o.a
    let n := s.getS o.b
    let word := fun (k : Nat) => BitVec.ofNat 64 (k + s.saveLen u % 2 ^ 32 * 2 ^ 32)
    let free : Prop := s.core.cut = none ∧ s.core.restore = none
    ((s.ctxAt u).group = none → exec (.ctxsave o) s = go (s.setS o.d (word 1))) ∧
    ((s.ctxAt u).group ≠ none → ¬ free → exec (.ctxsave o) s = go (s.setS o.d (word 2))) ∧
    ((s.ctxAt u).group ≠ none → free → a.toNat % 4096 ≠ 0 → exec (.ctxsave o) s = go (s.setS o.d (word 3))) ∧
    ((s.ctxAt u).group ≠ none → free → a.toNat % 4096 = 0 → n.toNat < s.saveLen u → exec (.ctxsave o) s = go (s.setS o.d (word 4))) ∧
    ((s.ctxAt u).group ≠ none → free → a.toNat % 4096 = 0 → s.saveLen u ≤ n.toNat → tapePagesOk ((n.toNat + 4095) / 4096) s s.curAsid a.toNat = false →
      exec (.ctxsave o) s = go (s.setS o.d (word 5))) ∧
    ((s.ctxAt u).group ≠ none → free → a.toNat % 4096 = 0 → s.saveLen u ≤ n.toNat → tapePagesOk ((n.toNat + 4095) / 4096) s s.curAsid a.toNat = true →
      exec (.ctxsave o) s = go ((s.putCore { s.core with cut := some ⟨u, a, s.curAsid, s.saveLen u, false, false⟩ }).setS o.d (word 0))) ∧
    ((s.ctxAt u).group ≠ none ∨ ¬ free → exec (.ctxload o) s = go (s.setS o.d 1)) ∧
    ((s.ctxAt u).group = none → free →
      let read := s.acquire .k 1 (s.tapeKey s.curAsid a.toNat)
      (∀ f, s.hubRead s.curAsid a.toNat 64 = .error f → exec (.ctxload o) s = go (read.setS o.d 5)) ∧
      (∀ h, s.hubRead s.curAsid a.toNat 64 = .ok h → leNat (h.take 8) / 2 ^ 63 = 0 → exec (.ctxload o) s = go (read.setS o.d 2)) ∧
      (∀ k, s.loadStatus u a = .error k → exec (.ctxload o) s = go (read.setS o.d (BitVec.ofNat 64 k))) ∧
      (∀ r, s.loadStatus u a = .ok r → r.ctx = u ∧ exec (.ctxload o) s = go ((read.putCore { s.core with restore := some r }).setS o.d 0))) ∧
    (∀ f, hubParts s s.curAsid true .read a.toNat 1 = .error f → exec (.drain o) s = go (s.setS o.d 3)) ∧
    (∀ p ps, hubParts s s.curAsid true .read a.toNat 1 = .ok (p :: ps) →
      (s.region p.dpa = none → exec (.drain o) s = go (s.setS o.d 1)) ∧
      (∀ r, s.region p.dpa = some r → (r.state = 0 → exec (.drain o) s = go (s.setS o.d 1)) ∧ (r.state = 3 → exec (.drain o) s = go (s.setS o.d 2)) ∧
        (r.state ≠ 0 → r.state ≠ 3 → exec (.drain o) s = go ((s.drainRegion p.dpa (some s.coreId)).setS o.d 0))))

/-- IRQ.CORE, IRQ.HOST and WFI, whose limit counts down by one with each cycle of the core. (Rests on R329 to R331.) -/
def Obligations.InterruptResults : Prop :=
  ∀ (o : Ops) (s : State), ReadyK o s →
    let go := fun (t : State) => Host.Outcome.next (φ := Fault) (ρ := Refusal) (t.goTo (t.nextPc o))
    let n := (s.getS o.a).toNat
    let x := s.ctx
    (512 ≤ n → exec (.irqCore o) s = go (s.setS o.d 2)) ∧
    (n < 512 → 16 ≤ (s.coreOf n).irqs.length → exec (.irqCore o) s = go (s.setS o.d 1)) ∧
    (n < 512 → (s.coreOf n).irqs.length < 16 → ∃ t : State, exec (.irqCore o) s = go (t.setS o.d 0) ∧
      (t.coreOf n).irqs = (s.coreOf n).irqs ++ [⟨1, BitVec.ofNat 64 (s.coreId * 65536 + o.imm.toNat % 65536), 0⟩] ∧
      (∀ k, k ≠ n → t.coreOf k = s.coreOf k) ∧ t.mem = s.mem) ∧
    (256 ≤ n → exec (.irqHost o) s = go (s.setS o.d 2)) ∧
    (n < 256 → ∃ t : State, exec (.irqHost o) s = go (t.setS o.d 0) ∧ t.hub.msix = s.hub.msix ++ [(n, o.imm.toNat % 2048)] ∧ t.core = s.core ∧ t.mem = s.mem) ∧
    (∀ k, s.core.k.wfiLeft = some k → s.tick.core.k.wfiLeft = some (k - 1) ∧ s.tick.core.cycle = s.core.cycle + 1) ∧
    (s.core.irqs ≠ [] → exec (.wfi o) s = go ((s.putCtx { x with wfiLeft := none }).setS o.d 1)) ∧
    (s.core.irqs = [] → x.waiting = some .irq → x.wfiLeft = some 0 → exec (.wfi o) s = go ((s.putCtx { x with wfiLeft := none }).setS o.d 0)) ∧
    (s.core.irqs = [] → x.waiting ≠ some .irq →
      exec (.wfi o) s = .next (s.putCtx { x with wfiLeft := if o.imm = 0 then none else some o.imm.toNat, waiting := some .irq }))

/-- MEMCTL reads a line's tag, a word of an FMR and a controller register, and writes the four registers that may be written, within their limits; BALLOON gives the statuses of R443, and a frame that BALLOON.ADD takes is ballooned, its bytes lost. (Rests on R441 to R443.) -/
def Obligations.MemoryControlResults : Prop :=
  ∀ (o : Ops) (s : State), ReadyK o s →
    let go := fun (t : State) => Host.Outcome.next (φ := Fault) (ρ := Refusal) (t.goTo (t.nextPc o))
    let a := (s.getS o.a).toNat
    let b := (s.getS o.b).toNat
    let d := s.die a
    let wr := fun (x : Die) (k : Word) => go ((s.putDie a x).setS o.d k)
    let good : Prop := a % 4096 = 0 ∧ a < 2 ^ 40 ∧ s.committed a = true
    (∃ w : Word, exec (.memctlTag o) s = go (s.setS o.d w) ∧ (w.extractLsb' 60 4).toNat = s.lineStat a ∧ (s.lineStat a = 4 → w.extractLsb' 0 60 = 0) ∧
      (s.lineStat a ≠ 4 → w.getLsbD 43 = s.wellDirty (a / 128) ∧ w.getLsbD 42 = (s.frame a).inc)) ∧
    (exec (.memctlFmr o) s = go (s.setS o.d (if s.lineStat a = 0 then (s.fmr a).extractLsb' (64 * o.imm.toNat) 64 else 0))) ∧
    (exec (.memctlRd o) s = go (s.setS o.d (if a < 8 then d.reg o.imm.toNat else 0))) ∧
    (8 ≤ a → exec (.memctlWr o) s = go (s.setS o.d 2)) ∧
    (a < 8 → o.imm.toNat = 1 → exec (.memctlWr o) s = if 1 ≤ b ∧ b ≤ 2 ^ 24 ∧ d.crit < b then wr { d with low := b } 0 else wr d 1) ∧
    (a < 8 → o.imm.toNat = 2 → exec (.memctlWr o) s = if b < d.low then wr { d with crit := b } 0 else wr d 1) ∧
    (a < 8 → o.imm.toNat = 9 → exec (.memctlWr o) s = if 600 ≤ b ∧ b ≤ 600000 then wr { d with hbudg := b } 0 else wr d 1) ∧
    (a < 8 → o.imm.toNat = 3 → b < 16 ∨ 32 < b → exec (.memctlWr o) s = wr d 1) ∧
    (a < 8 → o.imm.toNat = 3 → 16 ≤ b → b ≤ 32 → d.commit ≤ b → exec (.memctlWr o) s =
      if d.free < (b - d.commit) * 262144 then wr d 3 else wr { d with commit := b, free := d.free - (b - d.commit) * 262144 } 0) ∧
    (a < 8 → o.imm.toNat = 3 → 16 ≤ b → b < d.commit → b ≤ 32 →
      let used : Prop := ∃ e ∈ d.fmrs, b * 2 ^ 20 ≤ e.1 % 2 ^ 25 ∧ ((unpackFmr e.2).chunks ≠ [] ∨ (unpackFmr e.2).pend = true)
      (used → exec (.memctlWr o) s = wr d 4) ∧ (¬ used → exec (.memctlWr o) s = wr { d with commit := b, free := d.free + (d.commit - b) * 262144 } 0)) ∧
    (a < 8 → o.imm.toNat ≠ 1 → o.imm.toNat ≠ 2 → o.imm.toNat ≠ 3 → o.imm.toNat ≠ 9 → exec (.memctlWr o) s = wr d 5) ∧
    (¬ good → exec (.balloonAdd o) s = go (s.setS o.d 1) ∧ exec (.balloonRem o) s = go (s.setS o.d 1)) ∧
    (good → 256 ≤ b → exec (.balloonAdd o) s = go (s.setS o.d 2)) ∧
    (good → b < 256 → fmrBal (s.fmr a) = true → exec (.balloonAdd o) s = go (s.setS o.d 3)) ∧
    (good → fmrBal (s.fmr a) = false → exec (.balloonRem o) s = go (s.setS o.d 3)) ∧
    (good → b < 256 → fmrBal (s.fmr a) = false → (s.die (dieOfDpa a)).lists.foldl (fun n e => n + e.2.length) 0 < 65536 →
      ∃ t : State, exec (.balloonAdd o) s = go (t.setS o.d 0) ∧ t.core = s.core ∧ (∀ x, x / 4096 = a / 4096 → t.byteAt x = 0) ∧ (∀ x, x / 4096 ≠ a / 4096 → t.byteAt x = s.byteAt x) ∧
        SMap.get [] (t.die (dieOfDpa a)).lists b = SMap.get [] (s.die (dieOfDpa a)).lists b ++ [a / 4096]) ∧
    (good → fmrBal (s.fmr a) = true → ∃ t : State, exec (.balloonRem o) s = go (t.setS o.d 0) ∧ t.core = s.core ∧ (∀ x, x / 4096 = a / 4096 → t.byteAt x = 0) ∧ (∀ x, x / 4096 ≠ a / 4096 → t.byteAt x = s.byteAt x)) ∧
    (256 ≤ b ∨ 16 ≤ a → exec (.balloonPri o) s = go (s.setS o.d 2)) ∧
    (b < 256 → a < 16 → ∃ t : State, exec (.balloonPri o) s = go (t.setS o.d 0) ∧ t.core = s.core ∧ t.mem = s.mem ∧ ∀ k, k < 8 → SMap.get 0 (t.die k).prio b = BitVec.ofNat 4 a)

/-- The statuses of QPOST, which with status 0 puts an INDIRECT packet of four words into the ring and advances WPTR; PINIT at a misaligned address raises ALIGN; otherwise it waits while an invocation uses a port whose windows it would write (R163), and then writes what loading the image answers. (Rests on R163, R494, R495 and R502.) -/
def Obligations.DispatchInstructionResults : Prop :=
  ∀ (o : Ops) (s : State), ReadyK o s →
    let go := fun (t : State) => Host.Outcome.next (φ := Fault) (ρ := Refusal) (t.goTo (t.nextPc o))
    let q := (s.getS o.a).toNat
    let b := (s.getS o.b).toNat
    let n := o.imm.toNat % 65536
    let x := s.queue q
    let room : Prop := (x.wptr - x.rptr).toNat + 4 ≤ x.size
    (4096 ≤ q → exec (.qpost o) s = go (s.setS o.d 2)) ∧
    (q < 4096 → x.state ≠ 1 → exec (.qpost o) s = go (s.setS o.d 3)) ∧
    (q < 4096 → x.state = 1 → n = 0 ∨ b % 4 ≠ 0 → exec (.qpost o) s = go (s.setS o.d 4)) ∧
    (q < 4096 → x.state = 1 → n ≠ 0 → b % 4 = 0 → ¬ room → exec (.qpost o) s = go (s.setS o.d 1)) ∧
    (∀ t0 t1 t2 t3, q < 4096 → x.state = 1 → n ≠ 0 → b % 4 = 0 → room →
      s.hubWrite x.asid (x.wordVa x.wptr.toNat) (leBytes 4 0x05030000) = .ok t0 → t0.hubWrite x.asid (x.wordVa (x.wptr.toNat + 1)) (leBytes 4 (b % 2 ^ 32)) = .ok t1 →
      t1.hubWrite x.asid (x.wordVa (x.wptr.toNat + 2)) (leBytes 4 (b / 2 ^ 32)) = .ok t2 → t2.hubWrite x.asid (x.wordVa (x.wptr.toNat + 3)) (leBytes 4 n) = .ok t3 →
      exec (.qpost o) s = go (((t3.putQueue q { x with wptr := x.wptr + 4 }).release .k 0 [hubKey]).setS o.d 0)) ∧
    (q % 256 ≠ 0 → exec (.pinit o) s = .next (s.trapA ⟨cAlign, some 1, some (s.getS o.a), some 0x1FFFF, none⟩ o.form.bytes)) ∧
    (∀ p ps t, q % 256 = 0 → q + 256 ≤ 2 ^ 48 → accessParts s s.curAsid true .write q 256 = .ok (p :: ps, t) →
      ∀ r, r = t.pinit s.curAsid (s.getS o.a) p.dpa (s.getS o.b) →
        (t.pinitWaits s.curAsid q p.dpa (s.getS o.b) = false → exec (.pinit o) s = go ((r.2.release .k 1 (hubKey :: (p :: ps).map (fun x => (x.dpa, x.len)))).setS o.d r.1)) ∧
        (t.pinitWaits s.curAsid q p.dpa (s.getS o.b) = true → ∃ v, exec (.pinit o) s = .next v ∧ v.ctx.waiting = some .port ∧ v.ctx.pc = s.ctx.pc ∧ v.ctx.s = s.ctx.s ∧ v.mem = s.mem))

/-- The steps of the Ductus for a context that neither records nor replays: a parse step with its look-ahead present, the end of a mismatch, a skipped mark, the return to PARSING after an error action (R272), the arrival of a symbol, the ageing of a context that is ready (R25); and a step that is not to be taken, as in a gated cycle (R531), changes nothing. A context that has taken its last parse step stays PARSING until its group retires (R233). The end of a mismatch observes what the context's invocations did, and so does the handler of its trap (R247). (Rests on R25, R153, R225, R233 to R236, R240, R243, R244, R247, R272 and R531.) -/
def Obligations.DuctusSteps : Prop :=
  ∀ (n : BitVec 2) (s : State) (x : Ctx), s.ctxAt (uCtx n.toNat) = x → x.scroll.mode = 0 → s.core.halted = false → s.core.isCut (uCtx n.toNat) = false → x.drains = false →
    let u := uCtx n.toNat
    let put := fun (y : Ctx) => Host.Outcome.next (φ := Fault) (ρ := Refusal) (s.putCtxAt u y)
    let ready : Ctx := { x with waiting := none, waited := 0 }
    let rec' : Ctx := { x with frec := s.core.faultRecord x, waiting := none, waited := 0 }
    (s.gated = true ∨ s.core.inTrap = true ∨ x.st ≠ .parsing ∨ x.parsed = true ∨ x.group = none → exec (.parseStep n) s = .next s) ∧
    (s.gated = false → s.core.inTrap = false → x.st = .parsing → x.parsed = false → x.group.isSome = true →
      (dropFrames x.stack = [] → x.eotc = true → exec (.parseStep n) s = put { ready with stack := [], parsed := true }) ∧
      (dropFrames x.stack = [] → x.eotc = false → exec (.parseStep n) s = put { ready with stack := [], st := .mismatch }) ∧
      (∀ e rest k, dropFrames x.stack = e :: rest → k = e.entry.toNat % 1024 →
        (∀ m, k < 16 → x.peek1 = .sym m → exec (.parseStep n) s = if m.toNat = k then put (Ctx.consume { ready with stack := rest }) else put { ready with stack := e :: rest, st := .mismatch }) ∧
        (k < 16 → x.peek1 = .stop → exec (.parseStep n) s = put { ready with stack := e :: rest, st := .mismatch }) ∧
        (k < 16 → x.peek1 = .absent → exec (.parseStep n) s = .next s) ∧
        (∀ m p syms base, 16 ≤ k → k < 128 → x.peek1 = .sym m → ntLa2 (s.core.ntEntry k) = false → s.core.ptEntry (ntTable (s.core.ntEntry k) + 2 * m.toNat) = some p → s.core.prodSyms p = syms →
          base = (if ntRec (s.core.ntEntry k) then (⟨BitVec.ofNat 16 (0x8000 + k), p⟩ : StackEntry) :: rest else rest) →
          (base.length + syms.length ≤ 64 → exec (.parseStep n) s = put { ready with stack := syms.map (fun y => (⟨BitVec.ofNat 16 y, p⟩ : StackEntry)) ++ base }) ∧
          (64 < base.length + syms.length → exec (.parseStep n) s = .next ((s.putCtxAt u { ready with stack := e :: rest }).raiseTrap ⟨cStackOverflow, some 1, some (BitVec.ofNat 64 p), none, none⟩ u noPc))) ∧
        (∀ m, 16 ≤ k → k < 128 → x.peek1 = .sym m → ntLa2 (s.core.ntEntry k) = false → s.core.ptEntry (ntTable (s.core.ntEntry k) + 2 * m.toNat) = none →
          exec (.parseStep n) s = put { ready with stack := e :: rest, st := .mismatch }) ∧
        (128 ≤ k → exec (.parseStep n) s = put { ready with
          stack := rest, st := .action, errAction := false, loaded := x.budget, counted := 0, lastProd := e.prod
          pc := BitVec.ofNat 64 ((s.core.actBase.toNat + s.core.actEntry k) % 2 ^ 48) }))) ∧
    (x.st ≠ .mismatch ∨ x.parsed = true ∨ (∃ v ∈ s.core.invs, v.ctx = u ∧ v.st ≠ .discarded) ∨ x.peek1 = .absent → exec (.mismatchRecordWrite n) s = .next s) ∧
    (x.st = .mismatch → x.parsed = false → (∀ v ∈ s.core.invs, v.ctx = u → v.st = .discarded) → (∃ m, x.peek1 = .sym m) ∨ x.peek1 = .stop →
      (x.topFrame.isSome = true → exec (.mismatchRecordWrite n) s = .next ((s.acquire u 4 (s.joinKeys u)).putCtxAt u { rec' with st := .recovering })) ∧
      (x.topFrame = none → exec (.mismatchRecordWrite n) s = .next ((((s.acquire u 4 (s.joinKeys u)).putCtxAt u rec').acquire .k 3 (s.joinKeys u)).raiseTrap ⟨cGrammarMismatch, some 0, some (rec'.frecWord 1), none, none⟩ u noPc))) ∧
    (s.gated = true ∨ x.st ≠ .recovering ∨ x.parsed = true ∨ s.core.inTrap = true → exec (.recoveryStep n) s = .next s) ∧
    (s.gated = false → x.st = .recovering → x.parsed = false → s.core.inTrap = false → x.errDone = true → exec (.recoveryStep n) s = put (Ctx.countRecovery { ready with st := .parsing, errDone := false })) ∧
    (∀ f, s.gated = false → x.st = .recovering → x.parsed = false → s.core.inTrap = false → x.errDone = false → x.topFrame = some f →
      (∀ m, x.peek1 = .sym m → ntSync (s.core.ntEntry (f.entry.toNat % 1024)) m = false → m ≠ mEOT →
        exec (.recoveryStep n) s = .next (s.putCore ((s.core.putCtx u ready).skipSymbol u))) ∧
      (∀ m, x.peek1 = .sym m → ntSync (s.core.ntEntry (f.entry.toNat % 1024)) m = true → exec (.recoveryStep n) s = put (s.core.recovered ready f)) ∧
      (x.peek1 = .stop ∨ (x.peek1 = .sym mEOT ∧ ntSync (s.core.ntEntry (f.entry.toNat % 1024)) mEOT = false) → exec (.recoveryStep n) s =
        .next (((s.putCtxAt u { ready with frec := x.frec ||| (1#256 <<< 19) }).acquire .k 3 (s.joinKeys u)).raiseTrap ⟨cGrammarMismatch, some 0, some (Ctx.frecWord { ready with frec := x.frec ||| (1#256 <<< 19) } 1), none, none⟩ u noPc))) ∧
    (∀ i m tl, s.core.leadPort u = some i → (s.port i).outMarks = m :: tl → x.group.isSome = true →
      (64 ≤ x.queue.length → exec (.markArrival n) s = .next s) ∧
      (x.queue.length < 64 → m ≠ mCFG → x.drained = false → ∃ t, exec (.markArrival n) s = .next t ∧ t.ctxAt u = { x with queue := x.queue ++ [m] } ∧ (t.port i).outMarks = tl) ∧
      (x.queue.length < 64 → m = mCFG → ∃ t, exec (.markArrival n) s = .next t ∧ t.ctxAt u = x ∧ (t.port i).outMarks = tl)) ∧
    (exec (.contextAged n) s = .next (if x.age = 27 ∧ s.core.inTrap = false ∧ (s.atRank 0).gated = false ∧ (s.atRank 0).ready u = true ∧ s.slotIssuer ≠ some u then s.inSlot State.issueSlot else s))

/-- What waits is taken in its turn and not before (an expired watchdog before an interrupt), with the registers that its class gives; the core is then in a trap, in its K context or halted. (Rests on R161, R308, R311 to R313, R328 and R329.) -/
def Obligations.TrapDelivery : Prop :=
  ∀ (s : State),
    let entered := fun (t : State) (cause : Nat) (kepc : Word) (asid : BitVec 9) =>
      t.core.inTrap = true ∧ t.core.kcause.toNat = cause ∧ t.core.kepc = kepc ∧ t.core.asid = asid ∧ t.mem = s.mem ∧ (t.core.halted = false → t.core.cur = .k)
    (s.canTrap = false → exec .trapEntry s = .next s) ∧
    (∀ p, s.canTrap = true → firstPending s.core.pend = some p → ∃ t, exec .trapEntry s = .next t ∧
      entered t (p.info.cause.toNat + p.ctx.toNat * 1024) p.kepc p.asid ∧ t.core.pend = s.core.pend.erase p ∧
      (∀ w, p.info.aux0 = some w → t.core.kaux0 = w) ∧ (∀ w, p.info.aux1 = some w → t.core.kaux1 = w)) ∧
    (s.canInterrupt = false → exec .interruptDelivery s = .next s) ∧
    (∀ i tl, s.canInterrupt = true → s.core.irqs = i :: tl → ∃ t, exec .interruptDelivery s = .next t ∧
      entered t (512 + 7 * 1024) noPc s.core.asid ∧ t.core.irqs = tl ∧ t.core.kaux0 = i.source.setWidth 64 ∧ t.core.kaux1 = i.aux1 ∧ t.core.kaux2 = i.aux2) ∧
    (s.canDeliver = false → exec .generatorFaultDelivery s = .next s) ∧
    (∀ p v, s.canDeliver = true → firstFault s.core.pendingFaults = some p → p.inv = some v → ∃ t, exec .generatorFaultDelivery s = .next t ∧
      entered t (p.fault.cause.toNat + 256 + ctxNum v.ctx * 1024) v.pc v.asid ∧ t.core.kaux0 = p.fault.aux0 ∧ t.core.kaux1 = p.fault.aux1 ∧
      t.core.kaux2 = (iterationVector p.fault (some v)).1 ∧ t.core.kaux3 = (iterationVector p.fault (some v)).2 ∧
      t.core.kaux3.extractLsb' 32 32 = v.pos) ∧
    (∀ n : BitVec 2, ∀ u, u = uCtx n.toNat →
      (s.core.wdx = 0 ∨ (s.ctxAt u).waited < 2 ^ (s.core.wdx.toNat + 15) ∨ s.core.inTrap = true ∨ s.watchdogFirst u = false → exec (.watchdog n) s = .next s) ∧
      (s.core.expired u = true → s.watchdogFirst u = true → ∃ t, exec (.watchdog n) s = .next t ∧
        entered t (21 + n.toNat * 1024) (if (s.ctxAt u).st = .action then (s.ctxAt u).pc else noPc) (s.asidOf u) ∧ (t.core.halted = false → (t.ctxAt u).st = .trapped) ∧
        ((s.ctxAt u).parsed = false → ∀ w k, (w, k) ∈ [(Wait.barrier, (1 : Word)), (.full, 2), (.signal, 3), (.ligature, 4), (.mark, 5), (.queue, 6), (.divider, 7), (.storage, 8)] →
          (s.ctxAt u).waiting = some w → t.core.kaux0 = k))) ∧
    (s.core.pend = [] → ∀ n : BitVec 2, s.core.expired (uCtx n.toNat) = true → s.canTrap = false ∧ s.canInterrupt = false)

/-- An invocation starts once it is queued, not held and nothing gates or precedes it, and ends once it runs and nothing holds it; it ends at its engine's place in the order of the cycle (R136, R142). The terms that fire in a cycle, ascending, release one held invocation of an engine each, and no two of them test one counter (R295); their thresholds are subtracted at the end of the cycle. A port makes its next access, unless its data queue and link slots are full, its marks wait or its group drains; a copy through an unbound port reads its next piece. The arrival of a symbol of a circuit completes whatever the port: a beat that fits is committed to the scratchpad and sets the full bits of the granules it writes, one that does not ends the invocation with CIRCUIT 0x04 (R201), a mark leaves its port (a CFG begins an interval of its counters), and a lost circuit is marked. That 32 beats and those of the link slots fill a data queue is the model's choice (log entry 51), and so are the corners of a circuit (log entry 33), the port and the tensor that its faults name (log entry 60) and the classes in which a node's cycles count (log entry 50). (Rests on R32, R34, R36, R42, R43, R138, R142, R153, R158, R168, R169, R201, R295, R342, R524 and R531.) -/
def Obligations.EngineSteps : Prop :=
  ∀ (s : State),
    (∀ id, s.core.inv id = none → exec (.invocationStart id) s = .next s ∧ exec (.invocationCommit id) s = .next s) ∧
    (∀ id v, s.core.inv id = some v →
      (v.st ≠ .queued ∨ v.held = true ∨ s.core.halted = true ∨ s.gated = true → exec (.invocationStart id) s = .next s) ∧
      (canStart s v = true → startBreach s v = none → exec (.invocationStart id) s = .next ((s.putInv { v with st := .running }).markBusy v)) ∧
      (∀ i, canStart s v = true → startBreach s v = some i → exec (.invocationStart id) s = .next (s.discard v i noTile)) ∧
      (v.st ≠ .running ∨ v.waitsStorage ≠ none → exec (.invocationCommit id) s = .next s) ∧
      (canCommit s v = true → exec (.invocationCommit id) s = .next ((s.atRank v.rank).endInv v))) ∧
    (∀ r, s.core.rank ≤ r → (s.atRank r).core.cycle = s.core.cycle) ∧ (∀ r, r < s.core.rank → (s.atRank r).core.cycle = s.core.cycle + 1) ∧
    (s.core.firing = [] → exec .ligatureTermFire s = .next s) ∧
    (let l := s.core.firing
     let subs := l.flatMap (fun e => e.2.1.conds.map (fun w => (condCtr w, condThr w)))
     (l.map (·.1)).Pairwise (· < ·) ∧ (l.map (fun e => e.2.1.eng)).Nodup ∧
     (∀ e ∈ l, e.2.2 ∈ s.core.invs ∧ e.2.2.held = true ∧ e.2.2.st = .queued ∧ unitOf e.2.2.op = e.2.1.eng.toNat ∧ e.2.1 = SMap.get Term.reset s.core.terms e.1 ∧ e.2.1.configured = true ∧
       ∀ w ∈ e.2.1.conds, condThr w ≤ (SMap.get 0 s.core.ev (condCtr w)).toNat ∧ ∀ x ∈ s.core.lig.subs, x.1 ≠ condCtr w) ∧
     (∀ e ∈ l, ∀ f ∈ l, e.1 < f.1 → ∀ w ∈ e.2.1.conds, ∀ x ∈ f.2.1.conds, condCtr w ≠ condCtr x) ∧
     ∃ t, exec .ligatureTermFire s = .next t ∧ t.core.lig.subs = s.core.lig.subs ++ subs ∧ t.core.ev = s.core.ev ∧
       ((s.core.invs.map (·.id)).Nodup → t.core.invs = s.core.invs.map (fun w => if l.any (fun e => e.2.2.id = w.id) then { w with held := false } else w))) ∧
    (∀ p : BitVec 3, s.peerSender p.toNat = none → s.peerReader p.toNat = none →
      (∀ v, s.core.halted = false → s.linearOn p.toNat = some v → (∀ t, s.linearPiece v = .error t → exec (.portAccess p) s = .next t) ∧
        (∀ w t, s.linearPiece v = .ok (w, t) → exec (.portAccess p) s = .next (t.putInv w))) ∧
      (s.core.halted = true ∨ s.linearOn p.toNat = none →
        (s.canAccess p.toNat = false → exec (.portAccess p) s = .next s) ∧
        (∀ r t, s.canAccess p.toNat = true → s.reader p.toNat = some r → s.portStep p.toNat r = .ok t → exec (.portAccess p) s = .next t) ∧
        (∀ r f t, s.canAccess p.toNat = true → s.reader p.toNat = some r → s.portStep p.toNat r = .error (f, t) →
          exec (.portAccess p) s = .next (if f = wayWait then t else t.stopPort p.toNat f (s.port p.toNat).cursor r)))) ∧
    (∀ n, (s.port n).lead = true ∧ (s.port n).outMarks ≠ [] ∨ 32 + s.core.slotsAt n ≤ (s.port n).fifo.length ∨ (s.port n).fault ≠ none → s.canAccess n = false) ∧
    (∀ n u, (s.port n).lead = true → (s.port n).owner = some u → (s.ctxAt u).draining = true → s.canAccess n = false) ∧
    (∀ (p : BitVec 3) (y : Option CircuitSymbol), exec (.circuitBeatArrival p y) s = .next ((s.atRank arrivalRank).circArrival p.toNat y) ∧
      (s.core.circOn p.toNat = none → exec (.circuitBeatArrival p y) s = .next (s.atRank arrivalRank))) ∧
    (∀ (p : BitVec 3) v e bs ss tl u q r, u = s.atRank arrivalRank → q = u.port p.toNat → u.core.circOn p.toNat = some v → v.o.d.toNat = p.toNat → u.core.invEnd u.coreId v = some e → e.kind = 0 →
      q.wr = true → q.circ = .beat bs ss :: tl → r = q.writeTile u.free p.toNat true q.cursor ((bs ++ ss).take (q.tileBytes true)) ((bs ++ ss).drop (q.tileBytes true)) →
      ((bs ++ ss).length ≠ q.beatBytes true ∨ q.tiles true ≤ q.cursor →
        exec (.circuitBeatArrival p none) s = .next ((u.putPort p.toNat { q with circ := tl }).discard v (circTrap 4 (circNumber v.sa v.o) p.toNat) noTile)) ∧
      ((bs ++ ss).length = q.beatBytes true → q.cursor < q.tiles true → q.mode = 0 → u.unseen = [] → v.copyBar = none → u.drains v = false →
        (∀ w ∈ r.1, w.breach = none ∧ w.sp = true ∧ w.port = p.toNat ∧ w.addr + w.data.length ≤ spmSize) →
        ∃ t, exec (.circuitBeatArrival p none) s = .next t ∧ (t.port p.toNat).cursor = q.cursor + 1 ∧ (t.port p.toNat).circ = tl ∧ t.mem = u.mem ∧
          t.core.spm = (r.1.foldl (fun (c : Core) w => c.spStore w.addr (((c.spBytes w.addr w.data.length).zip w.data).map (fun x => maskedByte x.1 x.2))) u.core).spm ∧
          (∀ w ∈ r.1, ∀ g ∈ granules w.addr w.data.length, SMap.get false t.core.full g = true))) ∧
    (∀ (p : BitVec 3) v e m tl u, u = s.atRank arrivalRank → u.core.circOn p.toNat = some v → v.o.d.toNat = p.toNat → u.core.invEnd u.coreId v = some e → e.kind = 0 → (u.port p.toNat).wr = true →
      (u.port p.toNat).circ = .mark m :: tl →
      (m ≠ mEOT → m ≠ mCFG → exec (.circuitBeatArrival p none) s = .next (u.putPort p.toNat { u.port p.toNat with circ := tl })) ∧
      (m = mCFG → exec (.circuitBeatArrival p none) s = .next ((u.putPort p.toNat { u.port p.toNat with circ := tl }).putCore ((u.putPort p.toNat { u.port p.toNat with circ := tl }).core.startInterval p.toNat)))) ∧
    (∀ p : BitVec 3, (∀ v ∈ s.core.invs, v.op ≠ 0x8D) → s.farEnds p.toNat = [] →
      exec (.circuitLoss p) s = .next (s.putPort p.toNat { s.port p.toNat with circLost := true, circ := [] }))

/-- What ends a wait lets the context that waits for it try its instruction again, when the order of R24 gives it the core's next issue slot, and changes nothing otherwise: no slot is taken on a halted core or in a gated cycle, within a trap the slot is the K context's alone and outside one a U context's (R26), the lowest aged context that is ready comes first, and with none aged the one at the rotating pointer that is ready and has slots left. Of two contexts that wait for one granule or for one counter the lower-numbered goes first (R139, R213, R295). That the end of a wait is a new attempt at the instruction is the model's form (log entry 8). (Rests on R24, R26, R32, R139, R163, R193, R212, R281, R292, R301, R331 and R361.) -/
def Obligations.WaitsEnd : Prop :=
  ∀ (c : CtxId) (s : State),
    let ends := fun (i : Instr) (c : CtxId) (w : Wait) =>
      ((s.ctxAt c).waiting ≠ some w ∨ s.slotIssuer ≠ some c → exec i s = .next s) ∧
      ((s.ctxAt c).waiting = some w → s.slotIssuer = some c → exec i s = .next (s.inSlot State.issueSlot))
    let a := s.atRank 0
    (s.core.halted = true ∨ a.gated = true → s.slotIssuer = none) ∧
    (s.slotIssuer = some c → (c = .k ↔ s.core.inTrap = true)) ∧
    (s.core.halted = false → a.gated = false → s.core.inTrap = true → (a.runAt .k).issued = true → s.slotIssuer = some .k) ∧
    (s.core.halted = false → a.gated = false → s.core.inTrap = false → c ≠ .k → a.yields c = false → (a.tryU c).issued = true →
      ((a.ctxAt c).age = 28 → (∀ v, v ≠ .k → ctxNum v < ctxNum c → (a.ctxAt v).age ≠ 28) → s.slotIssuer = some c) ∧
      ((∀ v, v ≠ .k → (a.ctxAt v).age ≠ 28) → c = uCtx a.core.rr → 0 < (a.ctxAt c).slots → s.slotIssuer = some c)) ∧
    (∀ x y w, w = Wait.full ∨ w = .ligature → ctxNum x < ctxNum y → y ≠ .k → (s.ctxAt x).waiting = some w → (s.ctxAt y).waiting = some w → x ≠ .k → (s.tryU x).issued = true → ((s.tryU x).state.tryU y).issued = false → s.yields y = true) ∧
    ends (.engineQueueRoom c) c .queue ∧ ends (.barwaitWake c) c .barrier ∧ ends (.fullWaitWake c) c .full ∧ ends (.sigwaitWake c) c .signal ∧
    ends (.evwaitWake c) c .ligature ∧ ends (.mxwaitWake c) c .invocation ∧ ends (.peekWake c) c .mark ∧ ends (.portQuiesceWake c) c .port ∧ ends .wfiWake .k .irq

/-- The ends of a cut, a drain, a group, a launch and a ring's coalescing time, each when its condition holds and not before; the completion of a launch observes what its groups did (R22). What stands in a save area beyond the layout of the manual is the model's choice (log entry 40), and so are the silent completion under CMODE 3 (log entry 45) and that no port keeps a group that has retired as its owner (log entry 44). (Rests on R14, R21, R22, R333, R485 and R490.) -/
def Obligations.EndsOfWork : Prop :=
  ∀ (s : State),
    (s.core.canCut = false → exec .cutComplete s = .next s) ∧
    (∀ k s1 t0 t1, s.core.canCut = true → s.core.cut = some k → s1 = s.putCore (s.core.withdrawPre k.ctx) →
      s1.saveWrite k.asid (k.area.toNat + 64) (s1.saveBody k.ctx s.hub.nextSave) = .ok t0 →
      t0.saveWrite k.asid k.area.toNat (s1.saveHeader k.ctx (s1.saveBody k.ctx s.hub.nextSave)) = .ok t1 →
      ∃ t, exec .cutComplete s = .next t ∧ (t.ctxAt k.ctx).group = none ∧ t.core.cut = none ∧ t.mem = t1.mem ∧
        t.core.irqs = s.core.irqs ++ [⟨2, k.area, BitVec.ofNat 64 (ctxNum k.ctx)⟩]) ∧
    (∀ rcb, s.canEndDrain rcb = false → exec (.regionDrainComplete rcb) s = .next s) ∧
    (∀ rcb r, s.region rcb = some r → s.canEndDrain rcb = true → SMap.wf Core.reset s.others = true → ∃ t, exec (.regionDrainComplete rcb) s = .next t ∧
      t.region rcb = some { r with state := 0, image := none, drainCore := none } ∧
      (∀ n, r.drainCore = some n → (t.coreOf n).irqs = (s.coreOf n).irqs ++ [⟨4, BitVec.ofNat 64 rcb, 0⟩])) ∧
    (∀ (n : BitVec 2) (u : CtxId), u = uCtx n.toNat →
      ((s.ctxAt u).group = none ∨ (s.ctxAt u).parsed = false ∨ (s.ctxAt u).st = .trapped ∨ (∃ v ∈ s.core.invs, v.ctx = u ∧ v.spent (s.ctxAt u) = false) → exec (.groupRetire n) s = .next s) ∧
      (∀ g l, s.core.canRetire u = true → (s.ctxAt u).group = some g → (s.ctxAt u).scroll.mode ≠ 1 → s.launch g.slot = some l →
        ∃ t, exec (.groupRetire n) s = .next t ∧ (t.ctxAt u).group = none ∧ (t.ctxAt u).st = .retired ∧ t.launch g.slot = some ((l.retire (s.ctxAt u) g).at s.hub.cycle) ∧
          (∀ p, (t.port p).owner ≠ some u))) ∧
    (∀ i : BitVec 12, (s.launch i.toNat = none → exec (.launchCompletion i) s = .next s) ∧
      (∀ l, s.launch i.toNat = some l →
        (l.closed = false ∨ l.bound ≠ l.retired → exec (.launchCompletion i) s = .next s) ∧
        (∀ a, a = s.acquireBy hubParty 4 [hubKey] → l.closed = true → l.bound = l.retired →
          ((a.rcb l.asid l.rcbVa.toNat).cmode = 3 → ∃ t, exec (.launchCompletion i) s = .next t ∧ t.launch i.toNat = none ∧ t.hub.msix = s.hub.msix) ∧
          ((a.rcb l.asid l.rcbVa.toNat).cmode = 0 → exec (.launchCompletion i) s = .next ((a.completeSignal l).leaveTable i.toNat l)) ∧
          (∀ r, (a.rcb l.asid l.rcbVa.toNat).cmode = 1 ∨ (a.rcb l.asid l.rcbVa.toNat).cmode = 2 → a.ring l.asid (a.rcb l.asid l.rcbVa.toNat).evr = some r →
            2 ^ r.log2 ≤ (r.wptr - r.rptr).toNat → exec (.launchCompletion i) s = .next (a.putLaunch i.toNat (some { l with ringWait := true })))))) ∧
    (∀ a, (s.ringDue a = false → exec (.coalesceTimeExpiry a) s = .next s) ∧
      (s.ringDue a = true → ∃ t, exec (.coalesceTimeExpiry a) s = .next t ∧ SMap.get ⟨0, 0, 0⟩ t.hub.rings a = ⟨0, 0, 0⟩ ∧
        t.hub.msix = s.hub.msix ++ [((SMap.get ⟨0, 0, 0⟩ s.hub.rings a).vf, (ringOf a (leNat (s.bytesAt a 64))).msix)]))

/-- Doorbells, writes of STATE, the ten packets, the end of a hold, the loss of a queue. A packet runs only at the head of an ACTIVE queue that nothing holds, and only once the front end's image has passed the boot's check (R518); one whose condition is not met holds its queue, and its words are not read again; one with a breach makes the queue's error. Every turn moves the rotation on (R479). A write of 0 to STATE stops the parsing after the packet in progress (log entry 59); that a start or a stop clears what the queue holds (its buffers, its hold, the words of its packet), and at which word an error stands, are the model's choices (log entry 45). (Rests on R477 to R481, R493 and R518.) -/
def Obligations.QueueSteps : Prop :=
  ∀ (q : BitVec 12) (s : State),
    let n := q.toNat
    let x := s.queue n
    (∀ w : BitVec 32, exec (.doorbellWrite q w) s = .next (if x.state = 3 ∨ (SMap.get 0 s.hub.vfs (n / 16)).getLsbD 31 = false then s else s.putQueue n { x with wptr := w })) ∧
    (∀ v : BitVec 2, (x.state = 3 ∨ v = 2 ∨ v = 3 → exec (.queueStateWrite q v) s = .next s) ∧
      (x.state ≠ 3 → v = 0 → exec (.queueStateWrite q v) s = .next (s.putQueue n (if x.state = 1 ∧ x.busy = true then { x with stop := true } else { x with state := 0, ind := [], hold := none, words := [], stop := false }))) ∧
      (x.state = 0 ∨ x.state = 2 → v = 1 → exec (.queueStateWrite q v) s =
        .next (s.putQueue n { x with err := 0, state := if 10 ≤ x.log2.toNat ∧ x.log2.toNat ≤ 24 then 1 else 0, ind := [], hold := none, words := [], stop := false }))) ∧
    (∀ e : Instr × Nat, e ∈ [(Instr.nopPacket q, 0), (.launchPacket q, 1), (.bindPacket q, 2), (.signalPacket q, 3), (.waitPacket q, 4), (.indirectPacket q, 5), (.pinitPacket q, 6),
        (.fencePacket q, 7), (.recordPacket q, 8), (.replayPacket q, 9)] →
      (s.hub.fest ≠ 0 ∨ x.state ≠ 1 ∨ x.hold ≠ none → exec e.1 s = .next s) ∧
      (s.hub.fest = 0 → x.state = 1 → x.hold = none →
        (s.parsePacket n = .wait → exec e.1 s = .next s) ∧
        (∀ k, s.parsePacket n = .error k → ∃ t, exec e.1 s = .next t ∧ t.hub.nextQ = (n + 1) % 4096 ∧ (t.queue n).state = 2 ∧ (t.queue n).err = BitVec.ofNat 32 (x.errAt % 2 ^ 24 * 256 + k)) ∧
        (∀ p, s.parsePacket n = .packet p → (p.type ≠ e.2 → exec e.1 s = .next s) ∧
          (p.type = e.2 →
            (∀ k, p.breach x = some k → exec e.1 s = .next ((s.queueError n k).turnTaken n)) ∧
            (p.breach x = none → s.packetReady n p = false → exec e.1 s = .next ((s.putQueue n { x with hold := some (BitVec.ofNat 8 p.type), words := p.words }).turnTaken n)) ∧
            (∀ k, p.breach x = none → s.packetReady n p = true → s.packetEffect n p = .error k → exec e.1 s = .next ((s.queueError n k).turnTaken n)) ∧
            (∀ t, p.breach x = none → s.packetReady n p = true → s.packetEffect n p = .ok t → exec e.1 s = .next ((t.passPacket n p).turnTaken n)))))) ∧
    (∀ p, x.stop = true → p.type ≠ 5 → (x.advance (1 + p.body.length)).buffers = [] → ((s.passPacket n p).queue n).state = 0) ∧
    (∀ p, s.hub.fest = 0 → x.state = 1 → x.hold ≠ none → x.words = p.words → p.flags < 2 ^ 16 → p.body.length < 2 ^ 8 → s.heldPacket n = if s.packetReady n p = true then some p else none) ∧
    (s.heldPacket n = none → exec (.queueHoldRelease q) s = .next s) ∧
    (∀ p, s.heldPacket n = some p → exec (.queueHoldRelease q) s = .next (s.runPacket n p)) ∧
    (∃ t, exec (.queueLost q) s = .next t ∧ (t.queue n).state = 3 ∧ (∀ i l, s.launch i = some l → l.q = n → t.launch i = some ((l.close 3).at s.hub.cycle)) ∧ t.mem = s.mem)

/-- A bind record enters an empty slot while the Scribe runs; the record checked is the lowest on its die that names a core of a die that takes binds (R532); it leaves its slot when it is refused, which is told, consumed, or bound, and it is bound only once the ports of its image are quiescent (R163, R178); the Scribe stops, and starts unless its image was refused (R518); a group moves only to a free context when nothing of it is under way. That a record waits in its slot for its ports is the model's reading (log entry 45), and that a group moves only to a core that has room for what it takes along is the model's choice (log entry 60). (Rests on R30, R163, R178, R482 to R484, R492, R500, R518 and R532.) -/
def Obligations.BindSteps : Prop :=
  ∀ (s : State),
    (∀ (d : BitVec 3) (k : BitVec 8) (r : BitVec 128), exec (.scribeBindWrite d k r) s = .next (if s.hub.scribeUp = false ∨ (SMap.get none (s.die d.toNat).bind k.toNat).isSome then s
      else s.putDie d.toNat { s.die d.toNat with bind := SMap.set none (s.die d.toNat).bind k.toNat (some r) })) ∧
    (∀ d : BitVec 3, (s.hub.stage ≠ 5 ∨ (s.die d.toNat).noBind = true ∨ s.fullSlot d.toNat = none → exec (.bindRecordCheck d) s = .next s) ∧
      (∀ i r, s.fullSlot d.toNat = some (i, r) → (s.die (bindCore r / 64)).noBind = false) ∧
      (∀ i r k, s.hub.stage = 5 → (s.die d.toNat).noBind = false → s.fullSlot d.toNat = some (i, r) → s.bindCheck r = some k →
        ∃ t, exec (.bindRecordCheck d) s = .next t ∧ SMap.get none (t.die d.toNat).bind i = none ∧ (t.die d.toNat).refused = (s.die d.toNat).refused ++ [(i, r, k)] ∧ t.core = s.core ∧ t.mem = s.mem) ∧
      (∀ i r u, s.hub.stage = 5 → (s.die d.toNat).noBind = false → s.fullSlot d.toNat = some (i, r) → s.applyRecord r = .ok u →
        s.hasBound r = true ∨ u.hasBound r = false ∨ (∀ l, s.launch (bindSlot r) = some l → s.portsBusy l.rcb (bindCore r) = false) →
        ∃ t, exec (.bindRecordCheck d) s = .next t ∧ SMap.get none (t.die d.toNat).bind i = none ∧ t.core = u.core ∧ t.hub = u.hub ∧ t.mem = u.mem) ∧
      (∀ i r u l, s.fullSlot d.toNat = some (i, r) → s.applyRecord r = .ok u → s.hasBound r = false → u.hasBound r = true → s.launch (bindSlot r) = some l →
        s.portsBusy l.rcb (bindCore r) = true → exec (.bindRecordCheck d) s = .next s)) ∧
    (∃ t, exec .scribeReset s = .next t ∧ t.hub.scribeUp = false ∧ t.core = s.core ∧ t.mem = s.mem ∧ t.hub.queues = s.hub.queues) ∧
    (exec .scribeReloadComplete s = .next (if s.hub.scrst = 0 then { s with hub := { s.hub with scribeUp := true } } else s)) ∧
    (∀ (n : BitVec 2) (core : BitVec 9) (m : BitVec 2) (u v : CtxId), u = uCtx n.toNat → v = uCtx m.toNat →
      ((s.ctxAt u).group = none ∨ s.core.canMove u = false ∨ (∀ g, (s.ctxAt u).group = some g → s.canTake g core.toNat v = false) ∨ (s.coreOf core.toNat).hasRoom (s.core.saved u s.coreId) = false →
        exec (.scribeRebalance n core m) s = .next s) ∧
      (∀ g, (s.ctxAt u).group = some g → s.core.canMove u = true → s.canTake g core.toNat v = true → (s.coreOf core.toNat).hasRoom (s.core.saved u s.coreId) = true →
        ∃ t, exec (.scribeRebalance n core m) s = .next t ∧ (t.ctxAt u).group = none ∧ (t.coreOf core.toNat).ctxOf v = s.ctxAt u ∧ t.mem = s.mem))

/-- Write-backs (of a line that is dirty in a first-level cache only, to the Well; of a line that the Well holds dirty, to its stored form), the compaction of an idle frame and the four sources of the Blotter, each when its condition holds and not before; chunks move from one count to another, and none is lost. When a spontaneous write-back or compaction comes is the agenda's (log entry 8); that a line dirty in a first-level cache only comes to the Well before it is stored (log entry 25), and when a held write is tried, a deferred line is written back and the reserve is filled again (log entries 23 and 26), are the model's choices. (Rests on R427 to R429, R432, R433 and R435.) -/
def Obligations.StorageSteps : Prop :=
  ∀ (s : State),
    (∀ l, s.isDirty l = false ∨ l ∈ (s.die (dieOfDpa (l * 128))).deferred → exec (.wellWriteback l) s = .next s) ∧
    (∀ l, s.isDirty l = true → l ∉ (s.die (dieOfDpa (l * 128))).deferred → s.wellDirty l = false →
      ∃ t, exec (.wellWriteback l) s = .next t ∧ t.mem = s.mem ∧ t.wellDirty l = true ∧ (t.die (dieOfDpa (l * 128))).free = (s.die (dieOfDpa (l * 128))).free) ∧
    (∀ l, l ∉ (s.die (dieOfDpa (l * 128))).deferred → s.wellDirty l = true →
      (∀ t, s.storeLine ⟨false, false⟩ l false = some t → exec (.wellWriteback l) s = .next t ∧ t.isDirty l = false ∧ t.mem = s.mem) ∧
      (s.storeLine ⟨false, false⟩ l false = none → ∃ t, exec (.wellWriteback l) s = .next t ∧ t.mem = s.mem ∧ t.isDirty l = true ∧
        (t.die (dieOfDpa (l * 128))).deferred = (s.die (dieOfDpa (l * 128))).deferred ++ [l])) ∧
    (∀ n, (s.fmr (n * 4096) = 0 ∨ fmrBal (s.fmr (n * 4096)) = true → exec (.idleCompaction n) s = .next s)) ∧
    (∀ n x keep, x = s.frame (n * 4096) → keep = (x.used - x.hole + 31) / 32 → s.fmr (n * 4096) ≠ 0 → x.bal = false → x.hole ≠ 0 ∨ keep < x.chunks.length →
      ∃ t, exec (.idleCompaction n) s = .next t ∧ (t.die (dieOfDpa (n * 4096))).free = (s.die (dieOfDpa (n * 4096))).free + (x.chunks.length - keep) ∧ t.mem = s.mem) ∧
    (∀ d : BitVec 3,
      let x := s.die d.toNat
      let k := min 64 (min (2048 - x.kres) x.free)
      let h := min 64 x.hwres
      let f := min 64 (min (131072 - x.hwres) (x.free - x.low))
      (x.deferred = [] ∨ x.free = 0 ∨ x.held ≠ [] → exec (.deferredLineWriteback d) s = .next s) ∧
      (∀ l tl t, x.deferred = l :: tl → x.free ≠ 0 → x.held = [] → s.storeLine ⟨false, false⟩ l true = some t → exec (.deferredLineWriteback d) s = .next t) ∧
      (x.held = [] → exec (.heldWriteServed d) s = .next s) ∧
      (∀ w tl, x.held = w :: tl → w.core = s.coreId → s.core.halted = true → exec (.heldWriteServed d) s = .next s) ∧
      (∀ w tl id, x.held = w :: tl → w.core = s.coreId → w.inv = some id → s.core.halted = false → exec (.heldWriteServed d) s = .next ((s.retryInv id).focus s.coreId)) ∧
      ((∀ w ∈ x.held, 0 < w.left) → exec (.holdBudgetExpiry d) s = .next s) ∧
      (∀ w, s.overdue d.toNat = some w → ∃ t, exec (.holdBudgetExpiry d) s = .next t) ∧
      (x.canKres = true → exec (.blotterKresRefill d) s = .next (s.putDie d.toNat { x with kres := x.kres + k, free := x.free - k })) ∧
      (x.canKres = false → exec (.blotterKresRefill d) s = .next (s.putDie d.toNat x)) ∧
      (x.canReclaim = false → exec (.blotterReclaim d) s = .next s) ∧
      (∀ v fr tl, x.canReclaim = true → x.nextVf = some v → SMap.get [] x.lists v = fr :: tl →
        ∃ t, exec (.blotterReclaim d) s = .next t ∧ (t.die d.toNat).free = x.free + (s.frame (fr * 4096)).chunks.length ∧ SMap.get [] (t.die d.toNat).lists v = tl ∧ (t.die d.toNat).lastVf = v ∧ t.mem = s.mem) ∧
      (x.canDraw = false → exec (.blotterHwresDraw d) s = .next s) ∧
      (x.canDraw = true → ∃ t, exec (.blotterHwresDraw d) s = .next t ∧ (t.die d.toNat).free = x.free + h ∧ (t.die d.toNat).hwres = x.hwres - h ∧ (t.die d.toNat).hwuse = x.hwuse + BitVec.ofNat 64 h) ∧
      (x.canRefill = true → exec (.blotterHwresRefill d) s = .next (s.putDie d.toNat { x with hwres := x.hwres + f, free := x.free - f })) ∧
      (x.canRefill = false → exec (.blotterHwresRefill d) s = .next (s.putDie d.toNat x)))

/-- A step of a replay takes the record that stands next, when it is of its kind; DRN drains the context first; a context that does not replay is left alone, and so is one in a gated cycle (R531). A PATCH record puts its slot's value into its register. (Rests on R246, R461, R462, R464, R465 and R531.) -/
def Obligations.ReplaySteps : Prop :=
  ∀ (n : BitVec 2) (s : State) (x : Ctx) (u : CtxId), u = uCtx n.toNat → s.ctxAt u = x →
    (s.core.replays u = false → exec (.replayCmd n) s = .next s ∧ exec (.replayGuard n) s = .next s ∧ exec (.replayEnd n) s = .next s) ∧
    (s.core.replays u = true → peekIn x.items 1 = .hw mDRN → ∀ i, i = Instr.replayCmd n ∨ i = .replayGuard n ∨ i = .replayEnd n →
      ∃ t, exec i s = .next t ∧ (t.ctxAt u).parsed = true ∧ (t.ctxAt u).st = .parsing ∧ (t.ctxAt u).faulted = true ∧ (t.ctxAt u).scroll.mode = 0) ∧
    (s.gated = true → x.drains = false → exec (.replayCmd n) s = .next s ∧ exec (.replayGuard n) s = .next s ∧ exec (.replayEnd n) s = .next s) ∧
    (s.core.replays u = true → x.drains = false → s.gated = false →
      (s.nextRecord u ≠ some 0 → exec (.replayCmd n) s = .next s) ∧ (s.nextRecord u ≠ some 1 → exec (.replayGuard n) s = .next s) ∧ (s.nextRecord u ≠ some 3 → exec (.replayEnd n) s = .next s) ∧
      (∀ r cs, s.nextRecord u = some 0 → readRecord s (s.asidOf u) x.scroll.track x.scroll.nrec = .ok r →
        readRecords (recNx r) s (s.asidOf u) x.scroll.track (x.scroll.nrec + 1) = .ok cs → exec (.replayCmd n) s = .next (s.issueCmd u r cs)) ∧
      (∀ r, x.scroll.pendCons = 0 → readRecord s (s.asidOf u) x.scroll.track x.scroll.nrec = .ok r →
        (recType r = 2 → exec (.replayGuard n) s = .next (s.putCtxAt u { x.setS (r / 2 ^ 109 % 64) (SMap.get 0 x.scroll.patches (r / 2 ^ 121 % 32)) with
          scroll := { x.scroll with nrec := x.scroll.nrec + 1 } })) ∧
        (recType r = 1 → exec (.replayGuard n) s = .next (s.handleGuard u r)) ∧ (recType r = 3 → exec (.replayEnd n) s = .next (s.handleGuard u r))) ∧
      (x.scroll.pendCons ≠ 0 → x.scroll.ending = false → exec (.replayGuard n) s = .next (State.consumeSymbols x.scroll.pendCons s u)) ∧
      (x.scroll.pendCons ≠ 0 → x.scroll.ending = true → exec (.replayEnd n) s = .next (State.consumeSymbols x.scroll.pendCons s u)))

/-- What the host's accesses leave, and the ends of the firmware check and of attestation. A function that is not enabled reads all ones and writes nothing. The host reads the registers of the management block, the tables of the hub and the die blocks as they stand; that a read of BAR0 is a turn of the agenda is the model's form (log entry 8). Model's choices are the core that KDOOR takes from its low 16 bits and the ones that a frame reads as which BAR2 cannot reach (log entry 47), what a peer is told of an access that is refused or read (log entries 33 and 47), SHA-384 (log entry 41) and that the host sees the newest bytes of memory and every party sees its stores at once (log entry 9). (Rests on R504 to R513, R516, R520, R522, R525 and R528.) -/
def Obligations.HostSteps : Prop :=
  ∀ (s : State),
    (∀ (v : BitVec 8) (w : Word), exec (.vfBindingWrite v w) s = .next (if 512 < (w.extractLsb' 0 9).toNat + (w.extractLsb' 18 10).toNat then s
      else { s with hub := { s.hub with vfs := SMap.set 0 s.hub.vfs v.toNat (w &&& 0x7FF8FFC01FF) } })) ∧
    (∀ (v : BitVec 8) (off : BitVec 36) (n : Nat),
      ((SMap.get 0 s.hub.vfs v.toNat).getLsbD 31 = false → exec (.apertureRead v off n) s = .next { s with hub := { s.hub with hostRead := List.replicate n 0xFF } }) ∧
      (∀ ps, (SMap.get 0 s.hub.vfs v.toNat).getLsbD 31 = true → hubParts s ((SMap.get 0 s.hub.vfs v.toNat).extractLsb' 0 9) false .read off.toNat n = .ok ps →
        exec (.apertureRead v off n) s = .next { s.seeParts ps with hub := { s.hub with hostRead := readParts s ps } })) ∧
    (∀ (v : BitVec 8) (off : BitVec 36) (bs : List Byte),
      ((SMap.get 0 s.hub.vfs v.toNat).getLsbD 31 = false → exec (.apertureWrite v off bs) s = .next s) ∧
      (∀ ps, (SMap.get 0 s.hub.vfs v.toNat).getLsbD 31 = true → hubParts s ((SMap.get 0 s.hub.vfs v.toNat).extractLsb' 0 9) false .write off.toNat bs.length = .ok ps →
        exec (.apertureWrite v off bs) s = .next (storeSeen s false ps bs))) ∧
    (∀ (off : BitVec 24) (tl : List Turn), s.agenda = .pfRead off :: tl →
      step s = .next { s with agenda := tl, hub := { s.hub with hostRead := leBytes 8 (s.pfWord off.toNat).toNat } }) ∧
    (∀ (v : BitVec 8) (i : BitVec 4) (tl : List Turn), s.agenda = .vfRead v (BitVec.ofNat 16 (4096 * i.toNat + 4)) :: tl → (SMap.get 0 s.hub.vfs v.toNat).getLsbD 31 = true →
      step s = .next { s with agenda := tl, hub := { s.hub with hostRead := leBytes 4 (s.queue (16 * v.toNat + i.toNat)).rptr.toNat } }) ∧
    ((s.pfWord 0).extractLsb' 0 4 = s.hub.stage ∧ (s.pfWord 0).extractLsb' 8 4 = s.hub.spst ∧ (s.pfWord 0).extractLsb' 12 4 = s.hub.fest ∧ (s.pfWord 0).extractLsb' 16 4 = s.hub.scrst ∧
      (s.pfWord 0).extractLsb' 4 4 = 0 ∧ (s.pfWord 0).extractLsb' 20 44 = 0 ∧ (s.pfWord 8).extractLsb' 0 6 = s.hub.fuse ∧ s.pfWord 0x308 = s.hub.kdoorst) ∧
    (∀ d i : Nat, d < 8 → i < 4096 → (∀ k, k < 4 → s.pfWord (0x800000 + 0x100000 * d + 32 * i + 8 * k) = (SMap.get 0 (s.die d).margin i).extractLsb' (64 * k) 64)) ∧
    (s.hub.stage ≠ 4 → exec .kbootGo s = .next s) ∧
    (s.hub.stage = 4 → kbootErrOf s.hub.kboot ≠ 0 → exec .kbootGo s = .next { s with hub := { s.hub with kbootErr := kbootErrOf s.hub.kboot, kbootGo := false } }) ∧
    (s.hub.stage = 4 → kbootErrOf s.hub.kboot = 0 → ∃ t, exec .kbootGo s = .next t ∧ t.hub.stage = 5 ∧ t.hub.kbootDone = true ∧ t.mem = s.mem ∧
      t.hub.measure = extend s.hub.measure (sha384 s.hub.kboot) ∧ (s.coreId < 512 → t.core.kvbr = kbootWord s.hub.kboot s.coreId 0 ∧ t.core.kscratch = kbootWord s.hub.kboot s.coreId 1)) ∧
    (∀ k : BitVec 2, (k = 3 ∨ (s.hub.slot k.toNat).found ≠ none → exec (.fwslotGo k) s = .next s) ∧
      (k ≠ 3 → (s.hub.slot k.toNat).found = none → ∃ t, exec (.fwslotGo k) s = .next t ∧ (t.hub.slot k.toNat).found.isSome = true ∧ t.core = s.core ∧ t.mem = s.mem) ∧
      ((s.hub.slot k.toNat).found = none → exec (.firmwareCheckDone k) s = .next s) ∧
      (∀ e i, (s.hub.slot k.toNat).found = some (e, i) → ∃ t, exec (.firmwareCheckDone k) s = .next t ∧ (t.hub.slot k.toNat).status = e ∧ (t.hub.slot k.toNat).found = none ∧
        (t.hub.slot k.toNat).image = if e = 0 then some i else (s.hub.slot k.toNat).image)) ∧
    (∀ (w : Word) (n : Nat), n = (w.extractLsb' 0 16).toNat →
      (512 ≤ n ∨ (s.coreOf n).halted = true → ∃ t, exec (.kdoorWrite w) s = .next t ∧ t.hub.kdoorst = 2 ∧ t.core = s.core) ∧
      (n < 512 → (s.coreOf n).halted = false → (s.coreOf n).irqs.length < 16 → ∃ t, exec (.kdoorWrite w) s = .next t ∧ t.hub.kdoorst = 0 ∧
        (t.coreOf n).irqs = (s.coreOf n).irqs ++ [⟨5, (w.extractLsb' 16 16).setWidth 64, 0⟩]) ∧
      (n < 512 → (s.coreOf n).halted = false → 16 ≤ (s.coreOf n).irqs.length → ∃ t, exec (.kdoorWrite w) s = .next t ∧ t.hub.kdoorst = 1 ∧ t.core = s.core)) ∧
    (exec .attestationGo s = .next { s with hub := { s.hub with attestGo := true, attestDone := false } }) ∧
    (s.hub.attestGo = false ∨ s.hub.spst ≠ 0 → exec .attestationDone s = .next s) ∧
    (s.hub.attestGo = true → s.hub.spst = 0 → ∃ t, exec .attestationDone s = .next t ∧ t.hub.attestDone = true ∧ t.hub.attestGo = false ∧
      ∀ i, i < 48 → SMap.get 0 t.hub.report i = s.hub.measure.extractLsb' (8 * i) 8) ∧
    (∀ (d : BitVec 3) (w : Word), exec (.mctlWrite d w) s = .next (if w.getLsbD 31 then s.putDie d.toNat { s.die d.toNat with frz := false } else s)) ∧
    (∀ (n : BitVec 9) (w : Word), ∃ t, exec (.copyTraceControlWrite n w) s = .next t ∧ (t.coreOf n.toNat).traceCtl = (w &&& 0xFFFFFFF07D) ∧ t.mem = s.mem ∧ ∀ k, k ≠ n.toNat → t.coreOf k = s.coreOf k) ∧
    (∀ (off : BitVec 24) (w : Word), (off.toNat % 8 ≠ 0 → exec (.hostRegisterWrite off w) s = .next s) ∧ (off.toNat = 0x300 → exec (.hostRegisterWrite off w) s = exec (.kdoorWrite w) s) ∧
      (off.toNat = 0x70020 → w.getLsbD 0 = true → exec (.hostRegisterWrite off w) s = exec .attestationGo s) ∧
      (0x10000 ≤ off.toNat → off.toNat < 0x10800 → off.toNat % 8 = 0 → exec (.hostRegisterWrite off w) s = exec (.vfBindingWrite (BitVec.ofNat 8 ((off.toNat - 0x10000) / 8)) w) s)) ∧
    (∀ (off : BitVec 40) (n : Nat), (dpaParts (n / 4096 + 2) s true off.toNat n = none → exec (.pfBar2Access off n none) s = .next { s with hub := { s.hub with hostRead := List.replicate n 0xFF } }) ∧
      (∀ ps, dpaParts (n / 4096 + 2) s true off.toNat n = some ps → exec (.pfBar2Access off n none) s = .next { s.seeParts ps with hub := { s.hub with hostRead := readParts s ps } })) ∧
    (∀ (off : BitVec 40) (n : Nat) (l : BitVec 4),
      (dpaParts (n / 4096 + 2) s true off.toNat n = none → exec (.peerWindowAccess l off n none) s = .next { s with hub := { s.hub with peerOut := s.hub.peerOut ++ [(l.toNat, .reply .refused)] } }) ∧
      (∀ ps, dpaParts (n / 4096 + 2) s true off.toNat n = some ps →
        ∃ t, exec (.peerWindowAccess l off n none) s = .next t ∧ t.mem = s.mem ∧ t.core = s.core ∧ t.hub.peerOut = s.hub.peerOut ++ [(l.toNat, .reply (.beat (readParts s ps) []))])) ∧
    (∀ (off : BitVec 40) (n : Nat) (bs : List Byte) (l : BitVec 4),
      (dpaParts (bs.length / 4096 + 2) s false off.toNat bs.length = none → exec (.pfBar2Access off n (some bs)) s = .next s ∧
        exec (.peerWindowAccess l off n (some bs)) s = .next { s with hub := { s.hub with peerOut := s.hub.peerOut ++ [(l.toNat, .reply .refused)] } }) ∧
      (∀ ps, dpaParts (bs.length / 4096 + 2) s false off.toNat bs.length = some ps →
        exec (.pfBar2Access off n (some bs)) s = .next (storeSeen s false ps bs) ∧ exec (.peerWindowAccess l off n (some bs)) s = .next (storeSeen s false ps bs)))

/-- The two resets, the thermal gate, which gates so many of each 64 cycles (in a gated one no context issues and no invocation starts; which cycles they are is a free value, log entry 10), and its trip, a core's uncorrectable error (which ends a cut that is being saved with a drain of its fault domain, R334, and halts the core otherwise), the failure of a link. A cold reset clears main memory and every core; a warm one keeps memory, CYCLE and the skip counter. After either the boot goes on step by step, STAGE rising as R508 numbers the stages: each processor's image is checked, its status told, and measured when it passes; the module then waits for the K boot block, or has stopped its boot in stage 6, with a Scribe whose image failed in reset (R518). What a warm reset keeps and empties beyond the manual's words (log entry 49), the fields of a Margin record that the manual does not fill (log entry 48), the drain of a saving core's fault domain (log entry 57) and the registers without a reset value (log entry 5) are the model's choices. (Rests on R334, R508, R517, R521 and R529 to R532.) -/
def Obligations.ResetAndErrorSteps : Prop :=
  ∀ (s : State),
    (∃ t, exec .coldReset s = .next t ∧ t.core = Core.reset ∧ t.mem = [] ∧ t.dies = [] ∧ t.others = [] ∧ t.hub.stage = 0 ∧ t.hub.scribeUp = false ∧ t.hub.queues = [] ∧ t.hub.fuse = s.hub.fuse ∧
      ∀ k, k < 3 → (t.hub.slot k).image = (s.hub.slot k).image) ∧
    (s.agenda = [] → s.hwNext = true → s.hub.stage.toNat < 4 → step s = .next { s with hub := s.hub.boot, hwNext := false }) ∧
    (∀ h : Hub,
      (h.stage = 0 → h.boot.stage = (if h.bootCheck 0 = 0 then 1 else 6) ∧ h.boot.measure = (if h.bootCheck 0 = 0 then extend h.measure (h.installed 0).digest else h.measure) ∧ (h.boot.slot 0).status = h.bootCheck 0) ∧
      (h.stage = 1 → h.boot.scribeUp = decide (h.bootCheck 2 = 0) ∧ (h.boot.slot 1).status = h.bootCheck 1 ∧ (h.boot.slot 2).status = h.bootCheck 2 ∧
        h.boot.stage = (if h.bootCheck 1 = 0 ∧ h.bootCheck 2 = 0 then 2 else 6) ∧ h.boot.fuse = (if h.bootCheck 1 = 0 ∧ h.bootCheck 2 = 0 then h.burn else h.fuse) ∧ h.fuse.toNat ≤ h.burn.toNat) ∧
      (h.stage = 2 → h.boot = { h with stage := 3 }) ∧ (h.stage = 3 → h.boot = { h with stage := 4 }) ∧ (4 ≤ h.stage.toNat → h.boot = h)) ∧
    (∃ t, exec .warmReset s = .next t ∧ t.mem = s.mem ∧ t.core = { Core.reset with cycle := s.core.cycle, skipCount := s.core.skipCount } ∧ t.hub.stage = 0 ∧ t.hub.scribeUp = false ∧
      t.hub.queues = [] ∧ t.hub.launches = [] ∧ (∀ d, (t.die d).free = (s.die d).free ∧ (t.die d).fmrs = (s.die d).fmrs ∧ (t.die d).dirty = (s.die d).dirty ∧ (t.die d).tlb = [])) ∧
    (∀ (d : BitVec 3) (g : BitVec 7), exec (.thermalGatingChange d g) s = .next (s.putDie d.toNat { s.die d.toNat with gate := if 64 < g.toNat then 64 else g })) ∧
    (s.gated = true → s.issueSlot = s ∧ ∀ v, canStart s v = false) ∧
    (∀ b : Nat, (List.range 64).countP (fun k => ({ s with core := { s.core with cycle := BitVec.ofNat 64 (64 * b + k) } } : State).gated) = min 64 (s.die s.dieId).gate.toNat) ∧
    (∀ d : BitVec 3, ((s.die d.toNat).gate ≠ 64 → exec (.thermalTrip d) s = .next s) ∧
      ((s.die d.toNat).gate = 64 → ∃ t, exec (.thermalTrip d) s = .next t ∧ (t.die d.toNat).trip = true ∧ (t.die d.toNat).noBind = true)) ∧
    (s.core.saving = none → ∃ t, exec .uncorrectableCoreError s = .next t ∧ t.core.halted = true ∧ t.core.invs = [] ∧ t.mem = s.mem) ∧
    (∀ k, s.core.saving = some k → exec .uncorrectableCoreError s = .next ((s.abortCut k.ctx).drainDomain k.ctx k.area.toNat)) ∧
    (∀ l : BitVec 4, (∃ t, exec (.relfelLinkFailure l) s = .next t) ∧
      (s.others = [] → s.core.linkPorts s.coreId l.toNat = [] → exec (.relfelLinkFailure l) s = .next (s.margin 0 8 0 0 (l.setWidth 64) 0x1FF 15 false)))

/-- Decoding the bytes that the encoder writes for a well-formed instruction gives that instruction back, with every field at every value that its form carries, and leaves the bytes that follow. (Rests on R47 to R53 and R66 to R71.) -/
def Obligations.DecodeEncodeRoundTrip : Prop :=
  ∀ (i : Instr) (bs rest : List Byte), i.wellFormed = true → encode i = some bs → decode (bs ++ rest) = .ok (i, rest)

/-- A few stored words of the manual's tables and what they stand for. (Rests on R47 to R51 and R70.) -/
def Obligations.DecodeWords : Prop :=
  decode [0x00, 0x00, 0x00, 0x00] = .ok (.nop ⟨.c, 0, 0, 0, 0, 0, 0, 0, 0⟩, []) ∧
  decode [0xD0, 0x13, 0xAA, 0x02] = .ok (.screcBegin ⟨.c, 9, 20, 21, 0, 0, 0, 0, 0⟩, []) ∧
  decode [0xD4, 0x01, 0x00, 0x28] = .ok (.scguard ⟨.c, 0, 0, 0, 0, 0, 0, 0, 5⟩, []) ∧
  decode [0x21, 0x11, 0x49, 0x11, 0x10, 0x00, 0x00, 0x00] = .ok (.sigdec ⟨.m, 4, 9, 5, 0, 1, 0, 0, 16⟩, []) ∧
  decode [0xAB, 0x03, 0x0C, 0x00, 0x00, 0x04, 0xE3, 0x03, 0x00, 0x00, 0x00, 0x00] = .ok (.scpatch ⟨.l, 0, 12, 0, 0, 0, 0, 1, 0x3E3⟩, [])

/-- Where the bytes at the program counter decode to an instruction, and no register that it names has yet to be written, the context's attempt is exec of that instruction with what recording and stepping add (a Scroll form of a recording context executes after the guard that stands before it, or the abort; one that blocks or traps writes nothing before it); bytes that do not decode raise their decode fault. A step of a core in a trap, with nothing on the agenda and no turn of the hardware, is that attempt of its K context in the issue slot of the cycle, after which the core stands at the place of its engines. The agenda and the alternation of turns are the model's choice (log entry 8). (Rests on R23, R54 and R68.) -/
def Obligations.StepRunsDecodedInstruction : Prop :=
  ∀ (c : CtxId) (s s1 : State) (bs : List Byte), fetch (s.select c) = .ok (bs, s1) →
    (∀ i op o t, decodeAt (decide (c = .k)) bs = .ok (i, []) → i.opcode? = some op → i.ops? = some o → s1.core.hazard c op o = false →
      let b := s1.beforeScroll c op o
      let runs := s.runAt c = ⟨settleInstr s1 t c op o, !t.blocked c⟩
      ((s1.ctxAt c).scroll.mode ≠ 1 ∨ isScroll op = false ∨ c = .k → b = s1) ∧
      (b = s1 → exec i s1 = .next t → runs) ∧
      (exec i b = .next t → t.blocked c = false → (t.ctxAt c).st ≠ .trapped → t.core.inTrap = s1.core.inTrap → runs) ∧
      (∀ r, exec i b = .next r → r.blocked c = true ∨ (r.ctxAt c).st = .trapped ∨ r.core.inTrap ≠ s1.core.inTrap → exec i s1 = .next t → runs) ∧
      (∀ s0 : State, c = .k → exec i s1 = .next t → s = s0.atRank 0 → s0.agenda = [] → s0.hwNext = false ∨ s0.hwMove = none → s.core.inTrap = true → s.core.halted = false → s.gated = false →
        let u := settleInstr s1 t .k op o
        step s0 = .next { ({ u with core := { u.core with rank := 4 } } : State).passTurn with hwNext := true })) ∧
    (∀ e w, bs.length = (formOf (bs.headD 0)).bytes → decodeAt (decide (c = .k)) bs = .error e → w = expand (formOf (bs.headD 0)) (leNat bs) → s1.core.hazard c w.1 w.2 = false → s1.core.halted = false →
      s1.beforeScroll c w.1 w.2 = s1 ∨ s1.core.inTrap = false →
      ∀ t, t = s1.trapA (decodeTrap e) w.2.form.bytes → s.runAt c = ⟨settleInstr s1 t c w.1 w.2, !t.blocked c⟩)

/-- A step answers a next state unless the agenda's head is a step of another agent: the hardware and the cores never stop the machine, and a core with nothing to do lets its cycle pass (R23): its issue slot of this cycle where that is still to come, else that of the next, and the counters of cycles advance by one when the next cycle begins (R62, R142). The agenda and the alternation of turns are the model's choice (log entry 8). -/
def Obligations.StepNeverStops : Prop :=
  ∀ (s : State), s.agenda = [] →
    (∃ t, step s = .next t) ∧
    (s.hwNext = false → ∃ t, step s = .next t ∧ t.hwNext = true) ∧
    (∀ n, n = (if 0 < s.core.rank then 1 else 0) → s.hwNext = false → s.core.halted = true ∨ (s.atRank 0).gated = true → s.others = [] →
      ∃ t, step s = .next t ∧ t.core.cycle.toNat = (s.core.cycle.toNat + n) % 2 ^ 64 ∧ t.hub.cycle.toNat = (s.hub.cycle.toNat + n) % 2 ^ 64 ∧ t.core.rank = 4 ∧ t.mem = s.mem ∧ t.core.u0.s = s.core.u0.s ∧ t.core.u0.pc = s.core.u0.pc)

/-- The memory keeps its canonical form over every step, whatever the agenda holds: equal memories are equal data. The canonical list is the model's own form of the memory (log entry 9). -/
def Obligations.StepKeepsMemoryCanonical : Prop :=
  ∀ (s t : State), Canonical s → step s = .next t → Canonical t

/-- Storing bytes keeps the memory's canonical form, changes the bytes stored to and no other; a byte never written reads 0 (R423, R530). The canonical list is the model's own form of the memory (log entry 9). (Rests on R5, R208.) -/
def Obligations.MemoryOperations : Prop :=
  ∀ (s : State) (a : Nat) (bs : List Byte),
    (Canonical s → Canonical (s.pokeBytes a bs)) ∧
    (∀ x, (s.pokeBytes a bs).byteAt x = if a ≤ x ∧ x < a + bs.length then bs.getD (x - a) 0 else s.byteAt x) ∧
    (s.pokeBytes a bs).core = s.core ∧ (s.pokeBytes a bs).dies = s.dies ∧
    (∀ ps, Canonical s → Canonical (storeParts s ps bs)) ∧
    (∀ ps x, (∀ p ∈ ps, x < p.dpa ∨ p.dpa + p.len ≤ x) → (storeParts s ps bs).byteAt x = s.byteAt x) ∧
    (∀ t, Canonical s → Canonical t → (∀ x, s.byteAt x = t.byteAt x) → s.mem = t.mem)

/-- What the machine holds right after reset, where the manual gives it; its memory is in the canonical form and every byte of it reads 0. It speaks only of fields to which the manual gives a reset value, and of the byte a location never written reads as. (Rests on R46, R62, R110, R181, R227, R241, R268, R309, R338, R359, R389, R422, R423, R442, R477, R505, R508 and R530.) -/
def Obligations.ResetState : Prop :=
  let s := State.reset
  Canonical s ∧ (∀ a, s.byteAt a = 0) ∧ s.core.halted = false ∧ s.core.inTrap = false ∧ s.core.kvbr = 0 ∧ s.core.kcause = 0 ∧ s.core.wdx = 0xB ∧ s.core.flags = 0 ∧ s.core.cycle = 0 ∧
    readControl s 0x807 = 0xB0000000 ∧ s.core.u0.budget = 0x1000 ∧ s.core.u0.mxFmt = 1 ∧ s.core.u0.mxRs = 64 ∧ s.core.u0.group = none ∧ s.core.skipOn = true ∧
    (∀ n, s.port n = Port.reset) ∧ (∀ q, (s.queue q).state = 0) ∧ (s.die 0).hwres = 131072 ∧ (s.die 0).kres = 2048 ∧ (s.die 0).hbudg = 12000 ∧ (s.die 0).low = 65536 ∧
    (s.die 0).crit = 16384 ∧ (s.die 0).commit = 16 ∧ s.hub.stage = 0

/-- What the register forms of the action unit leave. Opcodes 0x01 to 0x28, where their guard is set and none divides by zero, change S[D], the count and the address: no other scalar register, no vector or predicate register, no flag, no K register, no accumulator and no byte of memory; with D = 0 they write nothing. (Rests on R61, R62 and R110.) -/
def Obligations.RegisterFrame : Prop :=
  ∀ (i : Instr) (o : Ops) (n : Nat) (s : State), i.opcode? = some n → i.ops? = some o → 1 ≤ n → n ≤ 0x28 → Ready o s → (9 ≤ n → n ≤ 12 → s.getS o.b ≠ 0) →
    ∃ t, exec i s = .next t ∧ t.ctx.pc = s.nextPc o ∧ (∀ r, r ≠ o.d.toNat → t.ctx.getS r = s.ctx.getS r) ∧ (o.d = 0 → t.ctx.s = s.ctx.s) ∧
      t.ctx.v = s.ctx.v ∧ t.ctx.p = s.ctx.p ∧ t.core.flags = s.core.flags ∧ t.core.kcause = s.core.kcause ∧ t.core.kepc = s.core.kepc ∧ t.core.inTrap = s.core.inTrap ∧
      t.core.accs = s.core.accs ∧ t.core.spm = s.core.spm ∧ t.core.cur = s.core.cur ∧ (∀ c, c ≠ s.core.cur → t.ctxAt c = s.ctxAt c) ∧ t.mem = s.mem ∧ t.dies = s.dies ∧ t.hub = s.hub
end

