-- ==== Sys2Proof/Laws/Encoding.lean ====
section
/-! SUPPORT. The stored words: bytes and numbers, and that expansion reads back the fields that a form carries (R47 to R52). -/

namespace Sys2Proof

theorem leBytes_length (n x : Nat) : (leBytes n x).length = n := by
  induction n generalizing x with
  | zero => rfl
  | succ n ih => simp [leBytes, ih]

theorem leNat_leBytes (n x : Nat) : leNat (leBytes n x) = x % 2 ^ (8 * n) := by
  induction n generalizing x with
  | zero => simp [leNat, leBytes, Nat.mod_one]
  | succ n ih =>
    rw [leBytes, leNat, ih, BitVec.toNat_ofNat, show 8 * (n + 1) = 8 + 8 * n by ring, Nat.pow_add, Nat.mod_mul]

theorem field_eq (w : Nat) (b : BitVec w) (x lo r h : Nat) (hr : r < 2 ^ lo) (hx : x = r + 2 ^ lo * (b.toNat + 2 ^ w * h)) : field x lo w = b := by
  subst hx
  apply BitVec.eq_of_toNat_eq
  rw [field, BitVec.toNat_ofNat, Nat.add_mul_div_left _ _ (Nat.pow_pos (by norm_num)), Nat.div_eq_of_lt hr, Nat.zero_add, Nat.add_mul_mod_self_left,
    Nat.mod_eq_of_lt b.isLt]

/-- The canonical fields that a form carries are read back from its stored word (R48 to R51). -/
theorem expand_wordOf (op : Nat) (o : Ops) (h : op < 256) (hf : o.fits = true) : expand o.form (wordOf op o) = (op, o) := by
  obtain ⟨f, d, a, b, c, q, g, m, imm⟩ := o
  have hop : (BitVec.ofNat 8 op).toNat = op := by simp [Nat.mod_eq_of_lt h]
  have hd := d.isLt
  have ha := a.isLt
  have hb := b.isLt
  have hc := c.isLt
  have hq := q.isLt
  have hg := g.isLt
  have hm := m.isLt
  have hi := imm.isLt
  cases f
  · simp only [Ops.fits, Bool.and_eq_true, decide_eq_true_eq] at hf
    obtain ⟨⟨⟨⟨rfl, rfl⟩, rfl⟩, rfl⟩, h5⟩ := hf
    have e1 : field (wordOf op ⟨.c, d, a, b, 0, 0, 0, 0, imm⟩) 1 8 = BitVec.ofNat 8 op :=
      field_eq 8 _ _ 1 0 (d.toNat + 2 ^ 6 * a.toNat + 2 ^ 12 * b.toNat + 2 ^ 18 * (imm.toNat % 32)) (by norm_num) (by simp only [wordOf, hop]; omega)
    have e2 : field (wordOf op ⟨.c, d, a, b, 0, 0, 0, 0, imm⟩) 9 6 = d :=
      field_eq 6 _ _ 9 (2 * (op % 256)) (a.toNat + 2 ^ 6 * b.toNat + 2 ^ 12 * (imm.toNat % 32)) (by omega) (by simp only [wordOf]; omega)
    have e3 : field (wordOf op ⟨.c, d, a, b, 0, 0, 0, 0, imm⟩) 15 6 = a :=
      field_eq 6 _ _ 15 (2 * (op % 256) + 2 ^ 9 * d.toNat) (b.toNat + 2 ^ 6 * (imm.toNat % 32)) (by omega) (by simp only [wordOf]; omega)
    have e4 : field (wordOf op ⟨.c, d, a, b, 0, 0, 0, 0, imm⟩) 21 6 = b :=
      field_eq 6 _ _ 21 (2 * (op % 256) + 2 ^ 9 * d.toNat + 2 ^ 15 * a.toNat) (imm.toNat % 32) (by omega) (by simp only [wordOf]; omega)
    have e5 : field (wordOf op ⟨.c, d, a, b, 0, 0, 0, 0, imm⟩) 27 5 = imm.setWidth 5 :=
      field_eq 5 _ _ 27 (2 * (op % 256) + 2 ^ 9 * d.toNat + 2 ^ 15 * a.toNat + 2 ^ 21 * b.toNat) 0 (by omega) (by simp only [wordOf, BitVec.toNat_setWidth]; omega)
    simp only [expand, e1, e2, e3, e4, e5, hop, h5]
  · simp only [Ops.fits, Bool.and_eq_true, decide_eq_true_eq] at hf
    obtain ⟨⟨⟨rfl, rfl⟩, rfl⟩, h5⟩ := hf
    have e1 : field (wordOf op ⟨.m, d, a, b, 0, q, 0, 0, imm⟩) 2 8 = BitVec.ofNat 8 op :=
      field_eq 8 _ _ 2 1 (d.toNat + 2 ^ 6 * a.toNat + 2 ^ 12 * b.toNat + 2 ^ 18 * q.toNat + 2 ^ 22 * (imm.toNat % 2 ^ 32)) (by norm_num) (by simp only [wordOf, hop]; omega)
    have e2 : field (wordOf op ⟨.m, d, a, b, 0, q, 0, 0, imm⟩) 10 6 = d :=
      field_eq 6 _ _ 10 (1 + 4 * (op % 256)) (a.toNat + 2 ^ 6 * b.toNat + 2 ^ 12 * q.toNat + 2 ^ 16 * (imm.toNat % 2 ^ 32)) (by omega) (by simp only [wordOf]; omega)
    have e3 : field (wordOf op ⟨.m, d, a, b, 0, q, 0, 0, imm⟩) 16 6 = a :=
      field_eq 6 _ _ 16 (1 + 4 * (op % 256) + 2 ^ 10 * d.toNat) (b.toNat + 2 ^ 6 * q.toNat + 2 ^ 10 * (imm.toNat % 2 ^ 32)) (by omega) (by simp only [wordOf]; omega)
    have e4 : field (wordOf op ⟨.m, d, a, b, 0, q, 0, 0, imm⟩) 22 6 = b :=
      field_eq 6 _ _ 22 (1 + 4 * (op % 256) + 2 ^ 10 * d.toNat + 2 ^ 16 * a.toNat) (q.toNat + 2 ^ 4 * (imm.toNat % 2 ^ 32)) (by omega) (by simp only [wordOf]; omega)
    have e5 : field (wordOf op ⟨.m, d, a, b, 0, q, 0, 0, imm⟩) 28 4 = q :=
      field_eq 4 _ _ 28 (1 + 4 * (op % 256) + 2 ^ 10 * d.toNat + 2 ^ 16 * a.toNat + 2 ^ 22 * b.toNat) (imm.toNat % 2 ^ 32) (by omega) (by simp only [wordOf]; omega)
    have e6 : field (wordOf op ⟨.m, d, a, b, 0, q, 0, 0, imm⟩) 32 32 = imm.setWidth 32 :=
      field_eq 32 _ _ 32 (1 + 4 * (op % 256) + 2 ^ 10 * d.toNat + 2 ^ 16 * a.toNat + 2 ^ 22 * b.toNat + 2 ^ 28 * q.toNat) 0 (by omega)
        (by simp only [wordOf, BitVec.toNat_setWidth]; omega)
    simp only [expand, e1, e2, e3, e4, e5, e6, hop, h5]
  · have e1 : field (wordOf op ⟨.l, d, a, b, c, q, g, m, imm⟩) 2 8 = BitVec.ofNat 8 op :=
      field_eq 8 _ _ 2 3 (d.toNat + 2 ^ 6 * a.toNat + 2 ^ 12 * b.toNat + 2 ^ 18 * c.toNat + 2 ^ 24 * q.toNat + 2 ^ 28 * g.toNat + 2 ^ 32 * m.toNat + 2 ^ 38 * imm.toNat)
        (by norm_num) (by simp only [wordOf, hop]; omega)
    have e2 : field (wordOf op ⟨.l, d, a, b, c, q, g, m, imm⟩) 10 6 = d :=
      field_eq 6 _ _ 10 (3 + 4 * (op % 256)) (a.toNat + 2 ^ 6 * b.toNat + 2 ^ 12 * c.toNat + 2 ^ 18 * q.toNat + 2 ^ 22 * g.toNat + 2 ^ 26 * m.toNat + 2 ^ 32 * imm.toNat)
        (by omega) (by simp only [wordOf]; omega)
    have e3 : field (wordOf op ⟨.l, d, a, b, c, q, g, m, imm⟩) 16 6 = a :=
      field_eq 6 _ _ 16 (3 + 4 * (op % 256) + 2 ^ 10 * d.toNat) (b.toNat + 2 ^ 6 * c.toNat + 2 ^ 12 * q.toNat + 2 ^ 16 * g.toNat + 2 ^ 20 * m.toNat + 2 ^ 26 * imm.toNat)
        (by omega) (by simp only [wordOf]; omega)
    have e4 : field (wordOf op ⟨.l, d, a, b, c, q, g, m, imm⟩) 22 6 = b :=
      field_eq 6 _ _ 22 (3 + 4 * (op % 256) + 2 ^ 10 * d.toNat + 2 ^ 16 * a.toNat) (c.toNat + 2 ^ 6 * q.toNat + 2 ^ 10 * g.toNat + 2 ^ 14 * m.toNat + 2 ^ 20 * imm.toNat)
        (by omega) (by simp only [wordOf]; omega)
    have e5 : field (wordOf op ⟨.l, d, a, b, c, q, g, m, imm⟩) 28 6 = c :=
      field_eq 6 _ _ 28 (3 + 4 * (op % 256) + 2 ^ 10 * d.toNat + 2 ^ 16 * a.toNat + 2 ^ 22 * b.toNat) (q.toNat + 2 ^ 4 * g.toNat + 2 ^ 8 * m.toNat + 2 ^ 14 * imm.toNat)
        (by omega) (by simp only [wordOf]; omega)
    have e6 : field (wordOf op ⟨.l, d, a, b, c, q, g, m, imm⟩) 34 4 = q :=
      field_eq 4 _ _ 34 (3 + 4 * (op % 256) + 2 ^ 10 * d.toNat + 2 ^ 16 * a.toNat + 2 ^ 22 * b.toNat + 2 ^ 28 * c.toNat) (g.toNat + 2 ^ 4 * m.toNat + 2 ^ 10 * imm.toNat)
        (by omega) (by simp only [wordOf]; omega)
    have e7 : field (wordOf op ⟨.l, d, a, b, c, q, g, m, imm⟩) 38 4 = g :=
      field_eq 4 _ _ 38 (3 + 4 * (op % 256) + 2 ^ 10 * d.toNat + 2 ^ 16 * a.toNat + 2 ^ 22 * b.toNat + 2 ^ 28 * c.toNat + 2 ^ 34 * q.toNat) (m.toNat + 2 ^ 6 * imm.toNat)
        (by omega) (by simp only [wordOf]; omega)
    have e8 : field (wordOf op ⟨.l, d, a, b, c, q, g, m, imm⟩) 42 6 = m :=
      field_eq 6 _ _ 42 (3 + 4 * (op % 256) + 2 ^ 10 * d.toNat + 2 ^ 16 * a.toNat + 2 ^ 22 * b.toNat + 2 ^ 28 * c.toNat + 2 ^ 34 * q.toNat + 2 ^ 38 * g.toNat) imm.toNat
        (by omega) (by simp only [wordOf]; omega)
    have e9 : field (wordOf op ⟨.l, d, a, b, c, q, g, m, imm⟩) 48 48 = imm :=
      field_eq 48 _ _ 48 (3 + 4 * (op % 256) + 2 ^ 10 * d.toNat + 2 ^ 16 * a.toNat + 2 ^ 22 * b.toNat + 2 ^ 28 * c.toNat + 2 ^ 34 * q.toNat + 2 ^ 38 * g.toNat + 2 ^ 42 * m.toNat) 0
        (by omega) (by simp only [wordOf]; omega)
    simp only [expand, e1, e2, e3, e4, e5, e6, e7, e8, e9, hop]

/-- The low bits of a stored word select the form that it is stored in (R47). -/
theorem formOf_wordOf (op : Nat) (o : Ops) : formOf (BitVec.ofNat 8 (wordOf op o)) = o.form := by
  obtain ⟨f, d, a, b, c, q, g, m, imm⟩ := o
  cases f <;> simp only [formOf, wordOf, BitVec.toNat_ofNat]
  · rw [if_pos (by omega)]
  · rw [if_neg (by omega), if_pos (by omega)]
  · rw [if_neg (by omega), if_neg (by omega)]

/-- A stored word fits the bytes of its form. -/
theorem wordOf_lt (op : Nat) (o : Ops) : wordOf op o < 2 ^ (8 * o.form.bytes) := by
  obtain ⟨f, d, a, b, c, q, g, m, imm⟩ := o
  have hd := d.isLt
  have ha := a.isLt
  have hb := b.isLt
  have hc := c.isLt
  have hq := q.isLt
  have hg := g.isLt
  have hm := m.isLt
  have hi := imm.isLt
  cases f <;> simp only [wordOf, Form.bytes] <;> omega

end Sys2Proof
end

