-- ==== Sys2Proof/Laws/Issue.lean ====
section
/-! SUPPORT. Issuing an opcode with its fields is executing the instruction that the decoder builds from them (R68, R70, R71). -/

set_option Elab.async false

namespace Sys2Proof.Machine

theorem exec_or (c : Prop) [Decidable c] (i : Instr) (s : State) (a : Option (Host.Outcome State Fault Refusal)) (b : Option Instr)
    (h : a = b.map (fun j => exec j s)) : (if c then some (exec i s) else a) = (if c then some i else b).map (fun j => exec j s) := by
  split
  · rfl
  · exact h

theorem issue0_build (lo q m : Nat) (o : Ops) (s : State) : issue0 lo q m o s = (build0 lo q m o).map (fun i => exec i s) :=
  match lo with
  | 0 => rfl
  | 1 => rfl
  | 2 => exec_or (q = 0) (.movi o) s _ _ (exec_or (q = 1) (.moviHi o) s none none rfl)
  | 3 => rfl
  | 4 => rfl
  | 5 => rfl
  | 6 => rfl
  | 7 => rfl
  | 8 => rfl
  | 9 => rfl
  | 10 => rfl
  | 11 => rfl
  | 12 => rfl
  | 13 => rfl
  | 14 => rfl
  | 15 => rfl
  | _ + 16 => rfl

theorem issue1_build (lo q m : Nat) (o : Ops) (s : State) : issue1 lo q m o s = (build1 lo q m o).map (fun i => exec i s) :=
  match lo with
  | 0 => rfl
  | 1 => rfl
  | 2 => rfl
  | 3 => rfl
  | 4 => rfl
  | 5 => rfl
  | 6 => rfl
  | 7 => rfl
  | 8 => rfl
  | 9 => rfl
  | 10 => rfl
  | 11 => rfl
  | 12 => rfl
  | 13 => rfl
  | 14 => rfl
  | 15 => rfl
  | _ + 16 => rfl

theorem issue2_build (lo q m : Nat) (o : Ops) (s : State) : issue2 lo q m o s = (build2 lo q m o).map (fun i => exec i s) :=
  match lo with
  | 0 => rfl
  | 1 => rfl
  | 2 => rfl
  | 3 => rfl
  | 4 => rfl
  | 5 => rfl
  | 6 => rfl
  | 7 => rfl
  | 8 => rfl
  | 9 => rfl
  | 10 => rfl
  | 11 => rfl
  | 12 => rfl
  | 13 => rfl
  | 14 => rfl
  | 15 => rfl
  | _ + 16 => rfl

theorem issue3_build (lo q m : Nat) (o : Ops) (s : State) : issue3 lo q m o s = (build3 lo q m o).map (fun i => exec i s) :=
  match lo with
  | 0 => rfl
  | 1 => rfl
  | 2 => rfl
  | 3 => rfl
  | 4 => rfl
  | 5 => rfl
  | 6 => exec_or (m = 0) (.pmov o) s _ _ (exec_or (m = 1) (.pmovFrom o) s _ _ (exec_or (m = 2) (.pmovTo o) s none none rfl))
  | 7 => rfl
  | 8 => rfl
  | 9 => exec_or (q = 0) (.budget o) s _ _ (exec_or (q = 1) (.budgetSet o) s none none rfl)
  | 10 => rfl
  | 11 => rfl
  | 12 => rfl
  | 13 => rfl
  | 14 => exec_or (m = 0) (.fcvtF2i o) s _ _ (exec_or (m = 1) (.fcvtI2f o) s _ _ (exec_or (m = 2) (.fcvtU2f o) s _ _ (exec_or (m = 3) (.fcvtF2bf o) s _ _ (exec_or (m = 4) (.fcvtBf2f o) s _ _ (exec_or (m = 5) (.fcvtF2h o) s _ _ (exec_or (m = 6) (.fcvtH2f o) s _ _ (exec_or (m = 7) (.fcvtF2e4 o) s _ _ (exec_or (m = 8) (.fcvtE42f o) s none none rfl))))))))
  | 15 => rfl
  | _ + 16 => rfl

theorem issue4_build (lo q m : Nat) (o : Ops) (s : State) : issue4 lo q m o s = (build4 lo q m o).map (fun i => exec i s) :=
  match lo with
  | 0 => rfl
  | 1 => rfl
  | 2 => rfl
  | 3 => rfl
  | 4 => rfl
  | 5 => exec_or (q = 0) (.gresume o) s _ _ (exec_or (q = 1) (.gresumeRecover o) s none none rfl)
  | 6 => rfl
  | 7 => exec_or (q = 0) (.markemit o) s _ _ (exec_or (q = 1) (.markemitR o) s none none rfl)
  | 8 => rfl
  | 9 => exec_or (m = 0) (.sigwait o) s _ _ (exec_or (m = 1) (.sigwaitPoll o) s none none rfl)
  | 10 => rfl
  | 11 => exec_or (q = 0) (.ligcfgTerm o) s _ _ (exec_or (q = 1) (.ligcfgSrc o) s _ _ (exec_or (q = 2) (.ligcfgTread o) s none none rfl))
  | 12 => exec_or (q = 0) (.ligcntRd o) s _ _ (exec_or (q = 1) (.ligcntSet o) s _ _ (exec_or (q = 2) (.ligcntSub o) s _ _ (exec_or (q = 3) (.ligcntClrv o) s none none rfl)))
  | 13 => rfl
  | 14 => exec_or (q = 0) (.gstate o) s _ _ (exec_or (q = 1) (.gstateStk o) s none none rfl)
  | 15 => rfl
  | _ + 16 => rfl

theorem issue5_build (lo q m : Nat) (o : Ops) (s : State) : issue5 lo q m o s = (build5 lo q m o).map (fun i => exec i s) :=
  match lo with
  | 0 => rfl
  | 1 => rfl
  | 2 => rfl
  | 3 => rfl
  | 4 => rfl
  | 5 => rfl
  | 6 => rfl
  | 7 => rfl
  | 8 => rfl
  | 9 => rfl
  | 10 => rfl
  | 11 => rfl
  | 12 => rfl
  | 13 => rfl
  | 14 => rfl
  | 15 => rfl
  | _ + 16 => rfl

theorem issue6_build (lo q m : Nat) (o : Ops) (s : State) : issue6 lo q m o s = (build6 lo q m o).map (fun i => exec i s) :=
  match lo with
  | 0 => rfl
  | 1 => rfl
  | 2 => rfl
  | 3 => rfl
  | 4 => rfl
  | 5 => rfl
  | 6 => rfl
  | 7 => exec_or (m = 0) (.fence o) s _ _ (exec_or (m = 1) (.fenceAcq o) s _ _ (exec_or (m = 2) (.fenceRel o) s none none rfl))
  | 8 => rfl
  | 9 => rfl
  | 10 => rfl
  | 11 => rfl
  | 12 => exec_or (q = 0) (.cinv o) s _ _ (exec_or (q = 1) (.cinvI o) s none none rfl)
  | 13 => rfl
  | 14 => rfl
  | _ + 15 => rfl

theorem issue7_build (lo q m : Nat) (o : Ops) (s : State) : issue7 lo q m o s = (build7 lo q m o).map (fun i => exec i s) :=
  match lo with
  | 0 => rfl
  | 1 => rfl
  | 2 => exec_or (q = 0) (.tidmodBase o) s _ _ (exec_or (q = 1) (.tidmodSbase o) s _ _ (exec_or (q = 2) (.tidmodSize o) s _ _ (exec_or (q = 3) (.tidmodStride o) s _ _ (exec_or (q = 4) (.tidmodValid o) s _ _ (exec_or (q = 5) (.tidmodAddbase o) s none none rfl)))))
  | 3 => rfl
  | 4 => rfl
  | 5 => rfl
  | 6 => rfl
  | 7 => rfl
  | 8 => rfl
  | 9 => rfl
  | 10 => rfl
  | 11 => rfl
  | 12 => rfl
  | 13 => rfl
  | 14 => rfl
  | 15 => rfl
  | _ + 16 => rfl

theorem issue8_build (lo q m : Nat) (o : Ops) (s : State) : issue8 lo q m o s = (build8 lo q m o).map (fun i => exec i s) :=
  match lo with
  | 0 => rfl
  | 1 => rfl
  | 2 => rfl
  | 3 => rfl
  | 4 => rfl
  | 5 => rfl
  | 6 => rfl
  | 7 => rfl
  | 8 => rfl
  | 9 => rfl
  | 10 => rfl
  | 11 => rfl
  | 12 => rfl
  | 13 => rfl
  | _ + 14 => rfl

theorem issue9_build (lo q m : Nat) (o : Ops) (s : State) : issue9 lo q m o s = (build9 lo q m o).map (fun i => exec i s) :=
  match lo with
  | 0 => rfl
  | 1 => rfl
  | 2 => rfl
  | 3 => rfl
  | 4 => rfl
  | 5 => exec_or (q = 0) (.mxwdrop o) s _ _ (exec_or (q = 1) (.mxwdropAll o) s none none rfl)
  | 6 => rfl
  | 7 => rfl
  | 8 => exec_or (q = 0) (.mxchainOff o) s _ _ (exec_or (q = 1) (.mxchainScale o) s _ _ (exec_or (q = 2) (.mxchainBias o) s _ _ (exec_or (q = 3) (.mxchainResid o) s _ _ (exec_or (q = 4) (.mxchainAct o) s _ _ (exec_or (q = 5) (.mxchainClamp o) s _ _ (exec_or (q = 6) (.mxchainQnt o) s none none rfl))))))
  | 9 => exec_or (q = 0) (.mxskipOff o) s _ _ (exec_or (q = 1) (.mxskipOn o) s _ _ (exec_or (q = 2) (.mxskipRd o) s none none rfl))
  | 10 => exec_or (q = 0) (.mxwait o) s _ _ (exec_or (q = 1) (.mxwaitAll o) s none none rfl)
  | 11 => exec_or (q = 0) (.mxstat o) s _ _ (exec_or (q = 1) (.mxstatSlot o) s _ _ (exec_or (q = 2) (.mxstatZmask o) s _ _ (exec_or (q = 3) (.mxstatSkipcnt o) s none none rfl)))
  | _ + 12 => rfl

theorem issueA_build (lo q m : Nat) (o : Ops) (s : State) : issueA lo q m o s = (buildA lo q m o).map (fun i => exec i s) :=
  match lo with
  | 0 => rfl
  | 1 => rfl
  | 2 => rfl
  | 3 => rfl
  | 4 => rfl
  | 5 => rfl
  | 6 => rfl
  | 7 => rfl
  | 8 => rfl
  | 9 => rfl
  | 10 => rfl
  | 11 => rfl
  | 12 => rfl
  | 13 => rfl
  | 14 => rfl
  | 15 => rfl
  | _ + 16 => rfl

theorem issueB_build (lo q m : Nat) (o : Ops) (s : State) : issueB lo q m o s = (buildB lo q m o).map (fun i => exec i s) :=
  match lo with
  | 0 => rfl
  | 1 => exec_or (m = 0) (.vcvtF2i o) s _ _ (exec_or (m = 1) (.vcvtI2f o) s _ _ (exec_or (m = 2) (.vcvtUi2f o) s _ _ (exec_or (m = 3) (.vcvtF2bf o) s _ _ (exec_or (m = 4) (.vcvtBf2f o) s _ _ (exec_or (m = 5) (.vcvtF2h o) s _ _ (exec_or (m = 6) (.vcvtH2f o) s _ _ (exec_or (m = 7) (.vcvtF2e4 o) s _ _ (exec_or (m = 8) (.vcvtE42f o) s _ _ (exec_or (m = 9) (.vcvtF2e5 o) s _ _ (exec_or (m = 10) (.vcvtE52f o) s _ _ (exec_or (m = 11) (.vcvtF2i8 o) s _ _ (exec_or (m = 12) (.vcvtI82f o) s none none rfl))))))))))))
  | 2 => exec_or (q = 3) (.vqntE4m3 o) s _ _ (exec_or (8 ≤ q) (.vqntBfp o) s none none rfl)
  | 3 => rfl
  | 4 => rfl
  | 5 => rfl
  | 6 => rfl
  | 7 => rfl
  | 8 => rfl
  | 9 => rfl
  | 10 => rfl
  | 11 => rfl
  | 12 => rfl
  | 13 => rfl
  | 14 => rfl
  | 15 => rfl
  | _ + 16 => rfl

theorem issueC_build (lo q m : Nat) (o : Ops) (s : State) : issueC lo q m o s = (buildC lo q m o).map (fun i => exec i s) :=
  match lo with
  | 0 => rfl
  | 1 => rfl
  | 2 => rfl
  | 3 => rfl
  | 4 => exec_or (m = 0) (.vbcast o) s _ _ (exec_or (m = 1) (.vbcastLane o) s none none rfl)
  | 5 => rfl
  | 6 => rfl
  | 7 => rfl
  | 8 => rfl
  | 9 => rfl
  | 10 => rfl
  | 11 => rfl
  | 12 => exec_or (q = 0) (.vgate o) s _ _ (exec_or (q = 1) (.vgateRenorm o) s none none rfl)
  | 13 => rfl
  | 14 => rfl
  | 15 => rfl
  | _ + 16 => rfl

theorem issueD_build (lo q m : Nat) (o : Ops) (s : State) : issueD lo q m o s = (buildD lo q m o).map (fun i => exec i s) :=
  match lo with
  | 0 => rfl
  | 1 => rfl
  | 2 => exec_or (m = 0) (.vplogNz o) s _ _ (exec_or (m = 1) (.vplogBit o) s _ _ (exec_or (m = 2) (.vplogP2v o) s none none rfl))
  | 3 => rfl
  | _ + 4 => rfl

theorem issueE_build (lo q m : Nat) (o : Ops) (s : State) : issueE lo q m o s = (buildE lo q m o).map (fun i => exec i s) :=
  match lo with
  | 0 => rfl
  | 1 => rfl
  | 2 => rfl
  | 3 => rfl
  | 4 => rfl
  | 5 => rfl
  | 6 => exec_or (q = 0) (.mgstat o) s _ _ (exec_or (q = 1) (.mgstatPart o) s _ _ (exec_or (q = 2) (.mgstatLeaf o) s none none rfl))
  | 7 => exec_or (q = 0) (.mgcfgPivot o) s _ _ (exec_or (q = 1) (.mgcfgPread o) s _ _ (exec_or (q = 2) (.mgcfgMark o) s none none rfl))
  | 8 => exec_or (m = 0) (.screcBegin o) s _ _ (exec_or (m = 1) (.screcEnd o) s none none rfl)
  | 9 => rfl
  | 10 => exec_or (m = 0) (.scguard o) s _ _ (exec_or (m = 1) (.scpatch o) s none none rfl)
  | 11 => exec_or (m = 0) (.scinv o) s _ _ (exec_or (m = 1) (.scstat o) s none none rfl)
  | 12 => rfl
  | 13 => exec_or (m = 0) (.eret o) s _ _ (exec_or (m = 1) (.eretSkip o) s _ _ (exec_or (m = 2) (.eretKill o) s none none rfl))
  | 14 => exec_or (m = 0) (.tlbinvPage o) s _ _ (exec_or (m = 1) (.tlbinvAsid o) s _ _ (exec_or (m = 2) (.tlbinvAll o) s none none rfl))
  | 15 => rfl
  | _ + 16 => rfl

theorem issueF_build (lo q m : Nat) (o : Ops) (s : State) : issueF lo q m o s = (buildF lo q m o).map (fun i => exec i s) :=
  match lo with
  | 0 => rfl
  | 1 => rfl
  | 2 => rfl
  | 3 => rfl
  | 4 => rfl
  | 5 => rfl
  | 6 => exec_or (q = 0) (.memctlTag o) s _ _ (exec_or (q = 1) (.memctlFmr o) s _ _ (exec_or (q = 2) (.memctlRd o) s _ _ (exec_or (q = 3) (.memctlWr o) s none none rfl)))
  | 7 => exec_or (q = 0) (.balloonAdd o) s _ _ (exec_or (q = 1) (.balloonRem o) s _ _ (exec_or (q = 2) (.balloonPri o) s none none rfl))
  | 8 => rfl
  | 9 => rfl
  | 10 => exec_or (q = 0) (.irqCore o) s _ _ (exec_or (q = 1) (.irqHost o) s none none rfl)
  | 11 => rfl
  | _ + 12 => rfl

/-- Issue looks the instruction up as the decoder does, and executes it. -/
theorem issueOp_build (op q m : Nat) (o : Ops) (s : State) : issueOp op q m o s = (build op q m o).map (fun i => exec i s) := by
  unfold issueOp build
  generalize op / 16 = k
  match k with
  | 0 => exact issue0_build _ q m o s
  | 1 => exact issue1_build _ q m o s
  | 2 => exact issue2_build _ q m o s
  | 3 => exact issue3_build _ q m o s
  | 4 => exact issue4_build _ q m o s
  | 5 => exact issue5_build _ q m o s
  | 6 => exact issue6_build _ q m o s
  | 7 => exact issue7_build _ q m o s
  | 8 => exact issue8_build _ q m o s
  | 9 => exact issue9_build _ q m o s
  | 10 => exact issueA_build _ q m o s
  | 11 => exact issueB_build _ q m o s
  | 12 => exact issueC_build _ q m o s
  | 13 => exact issueD_build _ q m o s
  | 14 => exact issueE_build _ q m o s
  | 15 => exact issueF_build _ q m o s
  | _ + 16 => rfl

/-- The instruction of fields that decode is the one that issue executes. -/
theorem issueInstr_ok {op : Nat} {o : Ops} {s : State} {i : Instr} (h : decodeFields s.kLevel op o = .ok i) : issueInstr op o s = exec i s := by
  unfold decodeFields at h
  unfold issueInstr
  split at h
  · cases h
  · rename_i hu
    rw [if_neg hu]
    split at h
    · cases h
    · rename_i f hf
      try simp only [hf]
      split at h
      · cases h
      · rename_i hb
        split at h
        · rename_i j hj
          cases h
          simp [hb, issueOp_build, hj]
        · cases h

/-- Fields that do not decode raise the trap of their decode fault (R58, R67, R68). -/
theorem issueInstr_error {op : Nat} {o : Ops} {s : State} {e : DecodeError} (hh : s.core.halted = false) (h : decodeFields s.kLevel op o = .error e) :
    issueInstr op o s = .next (s.trapA (decodeTrap e) o.form.bytes) := by
  unfold decodeFields at h
  unfold issueInstr
  split at h
  · rename_i hu
    cases h
    simp [hu, execReservedOpcode, hh, finish, decodeTrap]
  · rename_i hu
    rw [if_neg hu]
    split at h
    · rename_i hf
      cases h
      simp [execReservedOpcode, hh, finish, decodeTrap, *]
    · rename_i f hf
      try simp only [hf]
      split at h
      · rename_i k d hb
        cases h
        simp [hb, hh, finish]
      · rename_i hb
        split at h
        · cases h
        · rename_i hj
          cases h
          simp [hb, issueOp_build, hj, execReservedOpcode, hh, finish, decodeTrap]

end Sys2Proof.Machine
end

