-- ==== Sys2Proof/Laws/SMap.lean ====
section
/-! SUPPORT. The laws of sparse storage: what a read after a write gives, and that a write keeps the canonical form. -/

namespace Sys2Proof.Machine

variable {α : Type}

/-! ## Reading after writing -/

theorem SMap.get_nil (d : α) (k : Nat) : SMap.get d [] k = d := rfl

theorem SMap.get_erase_self (d : α) (m : SMap α) (k : Nat) : SMap.get d (SMap.erase m k) k = d := by
  induction m with
  | nil => rfl
  | cons e t ih =>
    by_cases h : e.1 = k
    · simpa [SMap.erase, h] using ih
    · simpa [SMap.erase, SMap.get, h] using ih

theorem SMap.get_erase_ne (d : α) (m : SMap α) {k k' : Nat} (h : k' ≠ k) : SMap.get d (SMap.erase m k) k' = SMap.get d m k' := by
  induction m with
  | nil => rfl
  | cons e t ih =>
    by_cases he : e.1 = k
    · subst he
      simpa [SMap.erase, SMap.get, h.symm] using ih
    · by_cases he' : e.1 = k'
      · subst he'
        simp [SMap.erase, SMap.get, he]
      · simpa [SMap.erase, SMap.get, he, he'] using ih

theorem SMap.get_place_self (d : α) (m : SMap α) (k : Nat) (v : α) (h : ∀ e ∈ m, e.1 ≠ k) : SMap.get d (SMap.place m k v) k = v := by
  induction m with
  | nil => simp [SMap.place, SMap.get]
  | cons e t ih =>
    have h1 : e.1 ≠ k := h e (by simp)
    have h2 : SMap.get d (SMap.place t k v) k = v := ih (fun e he => h e (by simp [he]))
    by_cases hk : k < e.1
    · simp [SMap.place, SMap.get, hk]
    · simp [SMap.place, SMap.get, hk, h1, h2]

theorem SMap.get_place_ne (d : α) (m : SMap α) {k k' : Nat} (v : α) (h : k' ≠ k) : SMap.get d (SMap.place m k v) k' = SMap.get d m k' := by
  induction m with
  | nil => simp [SMap.place, SMap.get, h.symm]
  | cons e t ih =>
    by_cases hk : k < e.1
    · simp [SMap.place, SMap.get, hk, h.symm]
    · simp [SMap.place, SMap.get, hk, ih]

theorem SMap.erase_keys (m : SMap α) (k : Nat) : ∀ e ∈ SMap.erase m k, e.1 ≠ k := by
  intro e he
  simpa using (List.mem_filter.mp he).2

/-- A key reads as what was written to it. -/
@[simp] theorem SMap.get_set_self [DecidableEq α] (d : α) (m : SMap α) (k : Nat) (v : α) : SMap.get d (SMap.set d m k v) k = v := by
  unfold SMap.set
  split
  · rename_i h
    rw [SMap.get_erase_self, h]
  · exact SMap.get_place_self d _ k v (SMap.erase_keys m k)

/-- A write leaves every other key alone. -/
theorem SMap.get_set_ne [DecidableEq α] (d : α) (m : SMap α) {k k' : Nat} (v : α) (h : k' ≠ k) : SMap.get d (SMap.set d m k v) k' = SMap.get d m k' := by
  unfold SMap.set
  split
  · exact SMap.get_erase_ne d m h
  · rw [SMap.get_place_ne d _ v h, SMap.get_erase_ne d m h]

theorem SMap.get_set [DecidableEq α] (d : α) (m : SMap α) (k k' : Nat) (v : α) :
    SMap.get d (SMap.set d m k v) k' = if k' = k then v else SMap.get d m k' := by
  split
  · rename_i h
    rw [h, SMap.get_set_self]
  · rename_i h
    exact SMap.get_set_ne d m v h

/-! ## The canonical form -/

theorem SMap.rising_cons (e : Nat × α) (t : SMap α) : SMap.rising (e :: t) = true ↔ (∀ x ∈ t, e.1 < x.1) ∧ SMap.rising t = true := by
  induction t generalizing e with
  | nil => simp [SMap.rising]
  | cons f t ih =>
    have hf := ih f
    rw [SMap.rising]
    simp only [Bool.and_eq_true, decide_eq_true_eq, hf, List.mem_cons, forall_eq_or_imp]
    constructor
    · rintro ⟨h1, h2, h3⟩
      exact ⟨⟨h1, fun x hx => lt_trans h1 (h2 x hx)⟩, h2, h3⟩
    · rintro ⟨⟨h1, _⟩, h2, h3⟩
      exact ⟨h1, h2, h3⟩

theorem SMap.wf_nil [DecidableEq α] (d : α) : SMap.wf d ([] : SMap α) = true := rfl

theorem SMap.wf_cons [DecidableEq α] (d : α) (e : Nat × α) (t : SMap α) :
    SMap.wf d (e :: t) = true ↔ (∀ x ∈ t, e.1 < x.1) ∧ e.2 ≠ d ∧ SMap.wf d t = true := by
  simp only [SMap.wf, Bool.and_eq_true, SMap.rising_cons, List.all_cons, decide_eq_true_eq]
  tauto

theorem SMap.wf_erase [DecidableEq α] (d : α) (m : SMap α) (k : Nat) (h : SMap.wf d m = true) : SMap.wf d (SMap.erase m k) = true := by
  induction m with
  | nil => rfl
  | cons e t ih =>
    obtain ⟨h1, h2, h3⟩ := (SMap.wf_cons d e t).mp h
    have ht := ih h3
    by_cases he : e.1 = k
    · have hx : SMap.erase (e :: t) k = SMap.erase t k := by simp [SMap.erase, he]
      rw [hx]; exact ht
    · have hx : SMap.erase (e :: t) k = e :: SMap.erase t k := by simp [SMap.erase, he]
      rw [hx, SMap.wf_cons]
      exact ⟨fun x hx => h1 x (List.mem_filter.mp hx).1, h2, ht⟩

theorem SMap.mem_place (m : SMap α) (k : Nat) (v : α) (x : Nat × α) : x ∈ SMap.place m k v ↔ x = (k, v) ∨ x ∈ m := by
  induction m with
  | nil => simp [SMap.place]
  | cons e t ih =>
    by_cases hk : k < e.1
    · simp [SMap.place, hk]
    · simp only [SMap.place, hk, if_false, List.mem_cons, ih]
      tauto

theorem SMap.wf_place [DecidableEq α] (d : α) (m : SMap α) (k : Nat) (v : α) (h : SMap.wf d m = true) (hk : ∀ e ∈ m, e.1 ≠ k) (hv : v ≠ d) :
    SMap.wf d (SMap.place m k v) = true := by
  induction m with
  | nil => exact (SMap.wf_cons d (k, v) []).mpr ⟨by simp, hv, rfl⟩
  | cons e t ih =>
    obtain ⟨h1, h2, h3⟩ := (SMap.wf_cons d e t).mp h
    by_cases hlt : k < e.1
    · simp only [SMap.place, hlt, if_true]
      refine (SMap.wf_cons d (k, v) (e :: t)).mpr ⟨?_, hv, h⟩
      intro x hx
      rcases List.mem_cons.mp hx with hx | hx
      · simpa [hx] using hlt
      · exact lt_trans hlt (h1 x hx)
    · simp only [SMap.place, hlt, if_false]
      refine (SMap.wf_cons d e _).mpr ⟨?_, h2, ih h3 (fun e he => hk e (by simp [he]))⟩
      intro x hx
      rcases (SMap.mem_place t k v x).mp hx with hx | hx
      · have := hk e (by simp)
        simp only [hx]
        omega
      · exact h1 x hx

/-- A write keeps the canonical form. -/
theorem SMap.wf_set [DecidableEq α] (d : α) (m : SMap α) (k : Nat) (v : α) (h : SMap.wf d m = true) : SMap.wf d (SMap.set d m k v) = true := by
  unfold SMap.set
  split
  · exact SMap.wf_erase d m k h
  · exact SMap.wf_place d _ k v (SMap.wf_erase d m k h) (SMap.erase_keys m k) ‹_›

theorem SMap.get_of_lt [DecidableEq α] (d : α) (m : SMap α) (k : Nat) (h : ∀ x ∈ m, k < x.1) : SMap.get d m k = d := by
  induction m with
  | nil => rfl
  | cons e t ih =>
    have h1 : k < e.1 := h e (by simp)
    have h2 : e.1 ≠ k := by omega
    simp only [SMap.get, h2, if_false]
    exact ih (fun x hx => h x (by simp [hx]))

/-- Canonical lists that read alike are the same list. -/
theorem SMap.ext_of_wf [DecidableEq α] (d : α) (m n : SMap α) (hm : SMap.wf d m = true) (hn : SMap.wf d n = true)
    (h : ∀ k, SMap.get d m k = SMap.get d n k) : m = n := by
  induction m generalizing n with
  | nil =>
    cases n with
    | nil => rfl
    | cons f u =>
      obtain ⟨_, h2, _⟩ := (SMap.wf_cons d f u).mp hn
      exact absurd (by simpa [SMap.get] using (h f.1).symm) h2
  | cons e t ih =>
    obtain ⟨a1, a2, a3⟩ := (SMap.wf_cons d e t).mp hm
    cases n with
    | nil => exact absurd (by simpa [SMap.get] using h e.1) a2
    | cons f u =>
      obtain ⟨b1, b2, b3⟩ := (SMap.wf_cons d f u).mp hn
      have hk : e.1 = f.1 := by
        rcases lt_trichotomy e.1 f.1 with hlt | heq | hgt
        · have h1 := h e.1
          rw [SMap.get_of_lt d (f :: u) e.1 (by
            intro x hx
            rcases List.mem_cons.mp hx with hx | hx
            · rw [hx]; exact hlt
            · exact lt_trans hlt (b1 x hx))] at h1
          exact absurd (by simpa [SMap.get] using h1) a2
        · exact heq
        · have h1 := h f.1
          rw [SMap.get_of_lt d (e :: t) f.1 (by
            intro x hx
            rcases List.mem_cons.mp hx with hx | hx
            · rw [hx]; exact hgt
            · exact lt_trans hgt (a1 x hx))] at h1
          exact absurd (by simpa [SMap.get] using h1.symm) b2
      have hv : e.2 = f.2 := by simpa [SMap.get, hk] using h e.1
      have ht : t = u := by
        refine ih u a3 b3 (fun k => ?_)
        by_cases hke : e.1 = k
        · rw [SMap.get_of_lt d t k (by subst hke; exact a1), SMap.get_of_lt d u k (by rw [← hke, hk]; exact b1)]
        · have := h k
          have hkf : f.1 ≠ k := by rw [← hk]; exact hke
          simpa [SMap.get, hke, hkf] using this
      rw [ht, Prod.ext hk hv]

end Sys2Proof.Machine
end

