-- ==== Sys2Proof/Laws/State.lean ====
section
/-! SUPPORT. What each named update of the state leaves in each field: one lemma per field, so that no proof unfolds a record update. -/

namespace Sys2Proof.Machine

/-! ## A context of a core -/

@[simp] theorem Core.ctxOf_putCtx (c : Core) (i : CtxId) (x : Ctx) : (c.putCtx i x).ctxOf i = x := by cases i <;> rfl

theorem Core.ctxOf_putCtx_ne (c : Core) {i j : CtxId} (x : Ctx) (h : j ≠ i) : (c.putCtx i x).ctxOf j = c.ctxOf j := by
  cases i <;> cases j <;> first | rfl | exact absurd rfl h

@[simp] theorem Core.putCtx_putCtx (c : Core) (i : CtxId) (x y : Ctx) : (c.putCtx i x).putCtx i y = c.putCtx i y := by cases i <;> rfl

@[simp] theorem Core.putCtx_ctxOf (c : Core) (i : CtxId) : c.putCtx i (c.ctxOf i) = c := by cases i <;> rfl

@[simp] theorem Core.putCtx_cur (c : Core) (i : CtxId) (x : Ctx) : (c.putCtx i x).cur = c.cur := by cases i <;> rfl
@[simp] theorem Core.putCtx_kvbr (c : Core) (i : CtxId) (x : Ctx) : (c.putCtx i x).kvbr = c.kvbr := by cases i <;> rfl
@[simp] theorem Core.putCtx_kcause (c : Core) (i : CtxId) (x : Ctx) : (c.putCtx i x).kcause = c.kcause := by cases i <;> rfl
@[simp] theorem Core.putCtx_kepc (c : Core) (i : CtxId) (x : Ctx) : (c.putCtx i x).kepc = c.kepc := by cases i <;> rfl
@[simp] theorem Core.putCtx_kaux0 (c : Core) (i : CtxId) (x : Ctx) : (c.putCtx i x).kaux0 = c.kaux0 := by cases i <;> rfl
@[simp] theorem Core.putCtx_kaux1 (c : Core) (i : CtxId) (x : Ctx) : (c.putCtx i x).kaux1 = c.kaux1 := by cases i <;> rfl
@[simp] theorem Core.putCtx_kaux2 (c : Core) (i : CtxId) (x : Ctx) : (c.putCtx i x).kaux2 = c.kaux2 := by cases i <;> rfl
@[simp] theorem Core.putCtx_kaux3 (c : Core) (i : CtxId) (x : Ctx) : (c.putCtx i x).kaux3 = c.kaux3 := by cases i <;> rfl
@[simp] theorem Core.putCtx_kscratch (c : Core) (i : CtxId) (x : Ctx) : (c.putCtx i x).kscratch = c.kscratch := by cases i <;> rfl
@[simp] theorem Core.putCtx_flags (c : Core) (i : CtxId) (x : Ctx) : (c.putCtx i x).flags = c.flags := by cases i <;> rfl
@[simp] theorem Core.putCtx_wdx (c : Core) (i : CtxId) (x : Ctx) : (c.putCtx i x).wdx = c.wdx := by cases i <;> rfl
@[simp] theorem Core.putCtx_inTrap (c : Core) (i : CtxId) (x : Ctx) : (c.putCtx i x).inTrap = c.inTrap := by cases i <;> rfl
@[simp] theorem Core.putCtx_asid (c : Core) (i : CtxId) (x : Ctx) : (c.putCtx i x).asid = c.asid := by cases i <;> rfl
@[simp] theorem Core.putCtx_sstep (c : Core) (i : CtxId) (x : Ctx) : (c.putCtx i x).sstep = c.sstep := by cases i <;> rfl
@[simp] theorem Core.putCtx_detmode (c : Core) (i : CtxId) (x : Ctx) : (c.putCtx i x).detmode = c.detmode := by cases i <;> rfl
@[simp] theorem Core.putCtx_cycle (c : Core) (i : CtxId) (x : Ctx) : (c.putCtx i x).cycle = c.cycle := by cases i <;> rfl
@[simp] theorem Core.putCtx_halted (c : Core) (i : CtxId) (x : Ctx) : (c.putCtx i x).halted = c.halted := by cases i <;> rfl
@[simp] theorem Core.putCtx_irqs (c : Core) (i : CtxId) (x : Ctx) : (c.putCtx i x).irqs = c.irqs := by cases i <;> rfl
@[simp] theorem Core.putCtx_pend (c : Core) (i : CtxId) (x : Ctx) : (c.putCtx i x).pend = c.pend := by cases i <;> rfl
@[simp] theorem Core.putCtx_cut (c : Core) (i : CtxId) (x : Ctx) : (c.putCtx i x).cut = c.cut := by cases i <;> rfl
@[simp] theorem Core.putCtx_restore (c : Core) (i : CtxId) (x : Ctx) : (c.putCtx i x).restore = c.restore := by cases i <;> rfl
@[simp] theorem Core.putCtx_rr (c : Core) (i : CtxId) (x : Ctx) : (c.putCtx i x).rr = c.rr := by cases i <;> rfl
@[simp] theorem Core.putCtx_accs (c : Core) (i : CtxId) (x : Ctx) : (c.putCtx i x).accs = c.accs := by cases i <;> rfl
@[simp] theorem Core.putCtx_wslots (c : Core) (i : CtxId) (x : Ctx) : (c.putCtx i x).wslots = c.wslots := by cases i <;> rfl
@[simp] theorem Core.putCtx_resv (c : Core) (i : CtxId) (x : Ctx) : (c.putCtx i x).resv = c.resv := by cases i <;> rfl
@[simp] theorem Core.putCtx_chain (c : Core) (i : CtxId) (x : Ctx) : (c.putCtx i x).chain = c.chain := by cases i <;> rfl
@[simp] theorem Core.putCtx_skipOn (c : Core) (i : CtxId) (x : Ctx) : (c.putCtx i x).skipOn = c.skipOn := by cases i <;> rfl
@[simp] theorem Core.putCtx_skipCount (c : Core) (i : CtxId) (x : Ctx) : (c.putCtx i x).skipCount = c.skipCount := by cases i <;> rfl
@[simp] theorem Core.putCtx_spm (c : Core) (i : CtxId) (x : Ctx) : (c.putCtx i x).spm = c.spm := by cases i <;> rfl
@[simp] theorem Core.putCtx_full (c : Core) (i : CtxId) (x : Ctx) : (c.putCtx i x).full = c.full := by cases i <;> rfl
@[simp] theorem Core.putCtx_tags (c : Core) (i : CtxId) (x : Ctx) : (c.putCtx i x).tags = c.tags := by cases i <;> rfl
@[simp] theorem Core.putCtx_ports (c : Core) (i : CtxId) (x : Ctx) : (c.putCtx i x).ports = c.ports := by cases i <;> rfl
@[simp] theorem Core.putCtx_invs (c : Core) (i : CtxId) (x : Ctx) : (c.putCtx i x).invs = c.invs := by cases i <;> rfl
@[simp] theorem Core.putCtx_nextInv (c : Core) (i : CtxId) (x : Ctx) : (c.putCtx i x).nextInv = c.nextInv := by cases i <;> rfl
@[simp] theorem Core.putCtx_ev (c : Core) (i : CtxId) (x : Ctx) : (c.putCtx i x).ev = c.ev := by cases i <;> rfl
@[simp] theorem Core.putCtx_ovf (c : Core) (i : CtxId) (x : Ctx) : (c.putCtx i x).ovf = c.ovf := by cases i <;> rfl
@[simp] theorem Core.putCtx_terms (c : Core) (i : CtxId) (x : Ctx) : (c.putCtx i x).terms = c.terms := by cases i <;> rfl
@[simp] theorem Core.putCtx_routes (c : Core) (i : CtxId) (x : Ctx) : (c.putCtx i x).routes = c.routes := by cases i <;> rfl
@[simp] theorem Core.putCtx_icache (c : Core) (i : CtxId) (x : Ctx) : (c.putCtx i x).icache = c.icache := by cases i <;> rfl
@[simp] theorem Core.putCtx_l1tlb (c : Core) (i : CtxId) (x : Ctx) : (c.putCtx i x).l1tlb = c.l1tlb := by cases i <;> rfl
@[simp] theorem Core.putCtx_gram (c : Core) (i : CtxId) (x : Ctx) : (c.putCtx i x).gram = c.gram := by cases i <;> rfl
@[simp] theorem Core.putCtx_actBase (c : Core) (i : CtxId) (x : Ctx) : (c.putCtx i x).actBase = c.actBase := by cases i <;> rfl
@[simp] theorem Core.putCtx_image (c : Core) (i : CtxId) (x : Ctx) : (c.putCtx i x).image = c.image := by cases i <;> rfl
@[simp] theorem Core.putCtx_circuits (c : Core) (i : CtxId) (x : Ctx) : (c.putCtx i x).circuits = c.circuits := by cases i <;> rfl
@[simp] theorem Core.putCtx_debugTable (c : Core) (i : CtxId) (x : Ctx) : (c.putCtx i x).debugTable = c.debugTable := by cases i <;> rfl
@[simp] theorem Core.putCtx_traceCtl (c : Core) (i : CtxId) (x : Ctx) : (c.putCtx i x).traceCtl = c.traceCtl := by cases i <;> rfl
@[simp] theorem Core.putCtx_traceWptr (c : Core) (i : CtxId) (x : Ctx) : (c.putCtx i x).traceWptr = c.traceWptr := by cases i <;> rfl
@[simp] theorem Core.putCtx_copySeq (c : Core) (i : CtxId) (x : Ctx) : (c.putCtx i x).copySeq = c.copySeq := by cases i <;> rfl
@[simp] theorem Core.putCtx_snaps (c : Core) (i : CtxId) (x : Ctx) : (c.putCtx i x).snaps = c.snaps := by cases i <;> rfl
@[simp] theorem Core.putCtx_live (c : Core) (i : CtxId) (x : Ctx) : (c.putCtx i x).live = c.live := by cases i <;> rfl
@[simp] theorem Core.putCtx_noted (c : Core) (i : CtxId) (x : Ctx) : (c.putCtx i x).noted = c.noted := by cases i <;> rfl
@[simp] theorem Core.putCtx_store (c : Core) (i : CtxId) (x : Ctx) : (c.putCtx i x).store = c.store := by cases i <;> rfl
@[simp] theorem Core.putCtx_rank (c : Core) (i : CtxId) (x : Ctx) : (c.putCtx i x).rank = c.rank := by cases i <;> rfl
@[simp] theorem Core.putCtx_lig (c : Core) (i : CtxId) (x : Ctx) : (c.putCtx i x).lig = c.lig := by cases i <;> rfl

/-! ## The executing context, and a context by name -/

@[simp] theorem State.putCtx_coreId (s : State) (x : Ctx) : (s.putCtx x).coreId = s.coreId := rfl
@[simp] theorem State.putCtxAt_coreId (s : State) (i : CtxId) (x : Ctx) : (s.putCtxAt i x).coreId = s.coreId := rfl
@[simp] theorem State.putCore_coreId (s : State) (c : Core) : (s.putCore c).coreId = s.coreId := rfl
@[simp] theorem State.putCtx_others (s : State) (x : Ctx) : (s.putCtx x).others = s.others := rfl
@[simp] theorem State.putCtxAt_others (s : State) (i : CtxId) (x : Ctx) : (s.putCtxAt i x).others = s.others := rfl
@[simp] theorem State.putCore_others (s : State) (c : Core) : (s.putCore c).others = s.others := rfl
@[simp] theorem State.putCtx_dies (s : State) (x : Ctx) : (s.putCtx x).dies = s.dies := rfl
@[simp] theorem State.putCtxAt_dies (s : State) (i : CtxId) (x : Ctx) : (s.putCtxAt i x).dies = s.dies := rfl
@[simp] theorem State.putCore_dies (s : State) (c : Core) : (s.putCore c).dies = s.dies := rfl
@[simp] theorem State.putCtx_hub (s : State) (x : Ctx) : (s.putCtx x).hub = s.hub := rfl
@[simp] theorem State.putCtxAt_hub (s : State) (i : CtxId) (x : Ctx) : (s.putCtxAt i x).hub = s.hub := rfl
@[simp] theorem State.putCore_hub (s : State) (c : Core) : (s.putCore c).hub = s.hub := rfl
@[simp] theorem State.putCtx_mem (s : State) (x : Ctx) : (s.putCtx x).mem = s.mem := rfl
@[simp] theorem State.putCtxAt_mem (s : State) (i : CtxId) (x : Ctx) : (s.putCtxAt i x).mem = s.mem := rfl
@[simp] theorem State.putCore_mem (s : State) (c : Core) : (s.putCore c).mem = s.mem := rfl
@[simp] theorem State.putCtx_agenda (s : State) (x : Ctx) : (s.putCtx x).agenda = s.agenda := rfl
@[simp] theorem State.putCtxAt_agenda (s : State) (i : CtxId) (x : Ctx) : (s.putCtxAt i x).agenda = s.agenda := rfl
@[simp] theorem State.putCore_agenda (s : State) (c : Core) : (s.putCore c).agenda = s.agenda := rfl
@[simp] theorem State.putCtx_hwNext (s : State) (x : Ctx) : (s.putCtx x).hwNext = s.hwNext := rfl
@[simp] theorem State.putCtxAt_hwNext (s : State) (i : CtxId) (x : Ctx) : (s.putCtxAt i x).hwNext = s.hwNext := rfl
@[simp] theorem State.putCore_hwNext (s : State) (c : Core) : (s.putCore c).hwNext = s.hwNext := rfl
@[simp] theorem State.putCtx_free (s : State) (x : Ctx) : (s.putCtx x).free = s.free := rfl
@[simp] theorem State.putCtxAt_free (s : State) (i : CtxId) (x : Ctx) : (s.putCtxAt i x).free = s.free := rfl
@[simp] theorem State.putCore_free (s : State) (c : Core) : (s.putCore c).free = s.free := rfl
@[simp] theorem State.putCtx_unseen (s : State) (x : Ctx) : (s.putCtx x).unseen = s.unseen := rfl
@[simp] theorem State.putCtxAt_unseen (s : State) (i : CtxId) (x : Ctx) : (s.putCtxAt i x).unseen = s.unseen := rfl
@[simp] theorem State.putCore_unseen (s : State) (c : Core) : (s.putCore c).unseen = s.unseen := rfl

@[simp] theorem State.putCtx_core (s : State) (x : Ctx) : (s.putCtx x).core = s.core.putCtx s.core.cur x := rfl
@[simp] theorem State.putCtxAt_core (s : State) (i : CtxId) (x : Ctx) : (s.putCtxAt i x).core = s.core.putCtx i x := rfl
@[simp] theorem State.putCore_core (s : State) (c : Core) : (s.putCore c).core = c := rfl
@[simp] theorem State.putCtx_ctx (s : State) (x : Ctx) : (s.putCtx x).ctx = x := by simp [State.ctx]
@[simp] theorem State.putCtxAt_ctxAt (s : State) (i : CtxId) (x : Ctx) : (s.putCtxAt i x).ctxAt i = x := by simp [State.ctxAt]
theorem State.putCtxAt_ctxAt_ne (s : State) {i j : CtxId} (x : Ctx) (h : j ≠ i) : (s.putCtxAt i x).ctxAt j = s.ctxAt j := Core.ctxOf_putCtx_ne s.core x h
theorem State.putCtx_ctxAt_ne (s : State) {j : CtxId} (x : Ctx) (h : j ≠ s.core.cur) : (s.putCtx x).ctxAt j = s.ctxAt j := Core.ctxOf_putCtx_ne s.core x h
@[simp] theorem State.ctxAt_cur (s : State) : s.ctxAt s.core.cur = s.ctx := rfl
@[simp] theorem State.putCtx_putCtx (s : State) (x y : Ctx) : (s.putCtx x).putCtx y = s.putCtx y := by simp [State.putCtx]
@[simp] theorem State.byteAt_putCtx (s : State) (x : Ctx) (a : Nat) : (s.putCtx x).byteAt a = s.byteAt a := rfl

/-! ## Registers of a context -/

@[simp] theorem Ctx.getS_zero (x : Ctx) : x.getS 0 = 0 := rfl
@[simp] theorem Ctx.getP_zero (x : Ctx) : x.getP 0 = BitVec.allOnes 256 := rfl

@[simp] theorem Ctx.setV_s (x : Ctx) (n : Nat) (w : VReg) : (x.setV n w).s = x.s := rfl
@[simp] theorem Ctx.setP_s (x : Ctx) (n : Nat) (w : PReg) : (x.setP n w).s = x.s := by unfold Ctx.setP; split <;> rfl
@[simp] theorem Ctx.setS_v (x : Ctx) (n : Nat) (w : Word) : (x.setS n w).v = x.v := by unfold Ctx.setS; split <;> rfl
@[simp] theorem Ctx.setP_v (x : Ctx) (n : Nat) (w : PReg) : (x.setP n w).v = x.v := by unfold Ctx.setP; split <;> rfl
@[simp] theorem Ctx.setS_p (x : Ctx) (n : Nat) (w : Word) : (x.setS n w).p = x.p := by unfold Ctx.setS; split <;> rfl
@[simp] theorem Ctx.setV_p (x : Ctx) (n : Nat) (w : VReg) : (x.setV n w).p = x.p := rfl
@[simp] theorem Ctx.setS_pc (x : Ctx) (n : Nat) (w : Word) : (x.setS n w).pc = x.pc := by unfold Ctx.setS; split <;> rfl
@[simp] theorem Ctx.setV_pc (x : Ctx) (n : Nat) (w : VReg) : (x.setV n w).pc = x.pc := rfl
@[simp] theorem Ctx.setP_pc (x : Ctx) (n : Nat) (w : PReg) : (x.setP n w).pc = x.pc := by unfold Ctx.setP; split <;> rfl
@[simp] theorem Ctx.setS_st (x : Ctx) (n : Nat) (w : Word) : (x.setS n w).st = x.st := by unfold Ctx.setS; split <;> rfl
@[simp] theorem Ctx.setV_st (x : Ctx) (n : Nat) (w : VReg) : (x.setV n w).st = x.st := rfl
@[simp] theorem Ctx.setP_st (x : Ctx) (n : Nat) (w : PReg) : (x.setP n w).st = x.st := by unfold Ctx.setP; split <;> rfl
@[simp] theorem Ctx.setS_errAction (x : Ctx) (n : Nat) (w : Word) : (x.setS n w).errAction = x.errAction := by unfold Ctx.setS; split <;> rfl
@[simp] theorem Ctx.setV_errAction (x : Ctx) (n : Nat) (w : VReg) : (x.setV n w).errAction = x.errAction := rfl
@[simp] theorem Ctx.setP_errAction (x : Ctx) (n : Nat) (w : PReg) : (x.setP n w).errAction = x.errAction := by unfold Ctx.setP; split <;> rfl
@[simp] theorem Ctx.setS_trapCause (x : Ctx) (n : Nat) (w : Word) : (x.setS n w).trapCause = x.trapCause := by unfold Ctx.setS; split <;> rfl
@[simp] theorem Ctx.setV_trapCause (x : Ctx) (n : Nat) (w : VReg) : (x.setV n w).trapCause = x.trapCause := rfl
@[simp] theorem Ctx.setP_trapCause (x : Ctx) (n : Nat) (w : PReg) : (x.setP n w).trapCause = x.trapCause := by unfold Ctx.setP; split <;> rfl
@[simp] theorem Ctx.setS_trapDetail (x : Ctx) (n : Nat) (w : Word) : (x.setS n w).trapDetail = x.trapDetail := by unfold Ctx.setS; split <;> rfl
@[simp] theorem Ctx.setV_trapDetail (x : Ctx) (n : Nat) (w : VReg) : (x.setV n w).trapDetail = x.trapDetail := rfl
@[simp] theorem Ctx.setP_trapDetail (x : Ctx) (n : Nat) (w : PReg) : (x.setP n w).trapDetail = x.trapDetail := by unfold Ctx.setP; split <;> rfl
@[simp] theorem Ctx.setS_trapFrom (x : Ctx) (n : Nat) (w : Word) : (x.setS n w).trapFrom = x.trapFrom := by unfold Ctx.setS; split <;> rfl
@[simp] theorem Ctx.setV_trapFrom (x : Ctx) (n : Nat) (w : VReg) : (x.setV n w).trapFrom = x.trapFrom := rfl
@[simp] theorem Ctx.setP_trapFrom (x : Ctx) (n : Nat) (w : PReg) : (x.setP n w).trapFrom = x.trapFrom := by unfold Ctx.setP; split <;> rfl
@[simp] theorem Ctx.setS_group (x : Ctx) (n : Nat) (w : Word) : (x.setS n w).group = x.group := by unfold Ctx.setS; split <;> rfl
@[simp] theorem Ctx.setV_group (x : Ctx) (n : Nat) (w : VReg) : (x.setV n w).group = x.group := rfl
@[simp] theorem Ctx.setP_group (x : Ctx) (n : Nat) (w : PReg) : (x.setP n w).group = x.group := by unfold Ctx.setP; split <;> rfl
@[simp] theorem Ctx.setS_stack (x : Ctx) (n : Nat) (w : Word) : (x.setS n w).stack = x.stack := by unfold Ctx.setS; split <;> rfl
@[simp] theorem Ctx.setV_stack (x : Ctx) (n : Nat) (w : VReg) : (x.setV n w).stack = x.stack := rfl
@[simp] theorem Ctx.setP_stack (x : Ctx) (n : Nat) (w : PReg) : (x.setP n w).stack = x.stack := by unfold Ctx.setP; split <;> rfl
@[simp] theorem Ctx.setS_lastProd (x : Ctx) (n : Nat) (w : Word) : (x.setS n w).lastProd = x.lastProd := by unfold Ctx.setS; split <;> rfl
@[simp] theorem Ctx.setV_lastProd (x : Ctx) (n : Nat) (w : VReg) : (x.setV n w).lastProd = x.lastProd := rfl
@[simp] theorem Ctx.setP_lastProd (x : Ctx) (n : Nat) (w : PReg) : (x.setP n w).lastProd = x.lastProd := by unfold Ctx.setP; split <;> rfl
@[simp] theorem Ctx.setS_recProd (x : Ctx) (n : Nat) (w : Word) : (x.setS n w).recProd = x.recProd := by unfold Ctx.setS; split <;> rfl
@[simp] theorem Ctx.setV_recProd (x : Ctx) (n : Nat) (w : VReg) : (x.setV n w).recProd = x.recProd := rfl
@[simp] theorem Ctx.setP_recProd (x : Ctx) (n : Nat) (w : PReg) : (x.setP n w).recProd = x.recProd := by unfold Ctx.setP; split <;> rfl
@[simp] theorem Ctx.setS_queue (x : Ctx) (n : Nat) (w : Word) : (x.setS n w).queue = x.queue := by unfold Ctx.setS; split <;> rfl
@[simp] theorem Ctx.setV_queue (x : Ctx) (n : Nat) (w : VReg) : (x.setV n w).queue = x.queue := rfl
@[simp] theorem Ctx.setP_queue (x : Ctx) (n : Nat) (w : PReg) : (x.setP n w).queue = x.queue := by unfold Ctx.setP; split <;> rfl
@[simp] theorem Ctx.setS_qbase (x : Ctx) (n : Nat) (w : Word) : (x.setS n w).qbase = x.qbase := by unfold Ctx.setS; split <;> rfl
@[simp] theorem Ctx.setV_qbase (x : Ctx) (n : Nat) (w : VReg) : (x.setV n w).qbase = x.qbase := rfl
@[simp] theorem Ctx.setP_qbase (x : Ctx) (n : Nat) (w : PReg) : (x.setP n w).qbase = x.qbase := by unfold Ctx.setP; split <;> rfl
@[simp] theorem Ctx.setS_nData (x : Ctx) (n : Nat) (w : Word) : (x.setS n w).nData = x.nData := by unfold Ctx.setS; split <;> rfl
@[simp] theorem Ctx.setV_nData (x : Ctx) (n : Nat) (w : VReg) : (x.setV n w).nData = x.nData := rfl
@[simp] theorem Ctx.setP_nData (x : Ctx) (n : Nat) (w : PReg) : (x.setP n w).nData = x.nData := by unfold Ctx.setP; split <;> rfl
@[simp] theorem Ctx.setS_ins (x : Ctx) (n : Nat) (w : Word) : (x.setS n w).ins = x.ins := by unfold Ctx.setS; split <;> rfl
@[simp] theorem Ctx.setV_ins (x : Ctx) (n : Nat) (w : VReg) : (x.setV n w).ins = x.ins := rfl
@[simp] theorem Ctx.setP_ins (x : Ctx) (n : Nat) (w : PReg) : (x.setP n w).ins = x.ins := by unfold Ctx.setP; split <;> rfl
@[simp] theorem Ctx.setS_pos (x : Ctx) (n : Nat) (w : Word) : (x.setS n w).pos = x.pos := by unfold Ctx.setS; split <;> rfl
@[simp] theorem Ctx.setV_pos (x : Ctx) (n : Nat) (w : VReg) : (x.setV n w).pos = x.pos := rfl
@[simp] theorem Ctx.setP_pos (x : Ctx) (n : Nat) (w : PReg) : (x.setP n w).pos = x.pos := by unfold Ctx.setP; split <;> rfl
@[simp] theorem Ctx.setS_eotc (x : Ctx) (n : Nat) (w : Word) : (x.setS n w).eotc = x.eotc := by unfold Ctx.setS; split <;> rfl
@[simp] theorem Ctx.setV_eotc (x : Ctx) (n : Nat) (w : VReg) : (x.setV n w).eotc = x.eotc := rfl
@[simp] theorem Ctx.setP_eotc (x : Ctx) (n : Nat) (w : PReg) : (x.setP n w).eotc = x.eotc := by unfold Ctx.setP; split <;> rfl
@[simp] theorem Ctx.setS_frec (x : Ctx) (n : Nat) (w : Word) : (x.setS n w).frec = x.frec := by unfold Ctx.setS; split <;> rfl
@[simp] theorem Ctx.setV_frec (x : Ctx) (n : Nat) (w : VReg) : (x.setV n w).frec = x.frec := rfl
@[simp] theorem Ctx.setP_frec (x : Ctx) (n : Nat) (w : PReg) : (x.setP n w).frec = x.frec := by unfold Ctx.setP; split <;> rfl
@[simp] theorem Ctx.setS_budget (x : Ctx) (n : Nat) (w : Word) : (x.setS n w).budget = x.budget := by unfold Ctx.setS; split <;> rfl
@[simp] theorem Ctx.setV_budget (x : Ctx) (n : Nat) (w : VReg) : (x.setV n w).budget = x.budget := rfl
@[simp] theorem Ctx.setP_budget (x : Ctx) (n : Nat) (w : PReg) : (x.setP n w).budget = x.budget := by unfold Ctx.setP; split <;> rfl
@[simp] theorem Ctx.setS_loaded (x : Ctx) (n : Nat) (w : Word) : (x.setS n w).loaded = x.loaded := by unfold Ctx.setS; split <;> rfl
@[simp] theorem Ctx.setV_loaded (x : Ctx) (n : Nat) (w : VReg) : (x.setV n w).loaded = x.loaded := rfl
@[simp] theorem Ctx.setP_loaded (x : Ctx) (n : Nat) (w : PReg) : (x.setP n w).loaded = x.loaded := by unfold Ctx.setP; split <;> rfl
@[simp] theorem Ctx.setS_counted (x : Ctx) (n : Nat) (w : Word) : (x.setS n w).counted = x.counted := by unfold Ctx.setS; split <;> rfl
@[simp] theorem Ctx.setV_counted (x : Ctx) (n : Nat) (w : VReg) : (x.setV n w).counted = x.counted := rfl
@[simp] theorem Ctx.setP_counted (x : Ctx) (n : Nat) (w : PReg) : (x.setP n w).counted = x.counted := by unfold Ctx.setP; split <;> rfl
@[simp] theorem Ctx.setS_seed (x : Ctx) (n : Nat) (w : Word) : (x.setS n w).seed = x.seed := by unfold Ctx.setS; split <;> rfl
@[simp] theorem Ctx.setV_seed (x : Ctx) (n : Nat) (w : VReg) : (x.setV n w).seed = x.seed := rfl
@[simp] theorem Ctx.setP_seed (x : Ctx) (n : Nat) (w : PReg) : (x.setP n w).seed = x.seed := by unfold Ctx.setP; split <;> rfl
@[simp] theorem Ctx.setS_tt (x : Ctx) (n : Nat) (w : Word) : (x.setS n w).tt = x.tt := by unfold Ctx.setS; split <;> rfl
@[simp] theorem Ctx.setV_tt (x : Ctx) (n : Nat) (w : VReg) : (x.setV n w).tt = x.tt := rfl
@[simp] theorem Ctx.setP_tt (x : Ctx) (n : Nat) (w : PReg) : (x.setP n w).tt = x.tt := by unfold Ctx.setP; split <;> rfl
@[simp] theorem Ctx.setS_mxFmt (x : Ctx) (n : Nat) (w : Word) : (x.setS n w).mxFmt = x.mxFmt := by unfold Ctx.setS; split <;> rfl
@[simp] theorem Ctx.setV_mxFmt (x : Ctx) (n : Nat) (w : VReg) : (x.setV n w).mxFmt = x.mxFmt := rfl
@[simp] theorem Ctx.setP_mxFmt (x : Ctx) (n : Nat) (w : PReg) : (x.setP n w).mxFmt = x.mxFmt := by unfold Ctx.setP; split <;> rfl
@[simp] theorem Ctx.setS_mxRs (x : Ctx) (n : Nat) (w : Word) : (x.setS n w).mxRs = x.mxRs := by unfold Ctx.setS; split <;> rfl
@[simp] theorem Ctx.setV_mxRs (x : Ctx) (n : Nat) (w : VReg) : (x.setV n w).mxRs = x.mxRs := rfl
@[simp] theorem Ctx.setP_mxRs (x : Ctx) (n : Nat) (w : PReg) : (x.setP n w).mxRs = x.mxRs := by unfold Ctx.setP; split <;> rfl
@[simp] theorem Ctx.setS_pivots (x : Ctx) (n : Nat) (w : Word) : (x.setS n w).pivots = x.pivots := by unfold Ctx.setS; split <;> rfl
@[simp] theorem Ctx.setV_pivots (x : Ctx) (n : Nat) (w : VReg) : (x.setV n w).pivots = x.pivots := rfl
@[simp] theorem Ctx.setP_pivots (x : Ctx) (n : Nat) (w : PReg) : (x.setP n w).pivots = x.pivots := by unfold Ctx.setP; split <;> rfl
@[simp] theorem Ctx.setS_mkPair (x : Ctx) (n : Nat) (w : Word) : (x.setS n w).mkPair = x.mkPair := by unfold Ctx.setS; split <;> rfl
@[simp] theorem Ctx.setV_mkPair (x : Ctx) (n : Nat) (w : VReg) : (x.setV n w).mkPair = x.mkPair := rfl
@[simp] theorem Ctx.setP_mkPair (x : Ctx) (n : Nat) (w : PReg) : (x.setP n w).mkPair = x.mkPair := by unfold Ctx.setP; split <;> rfl
@[simp] theorem Ctx.setS_leaves (x : Ctx) (n : Nat) (w : Word) : (x.setS n w).leaves = x.leaves := by unfold Ctx.setS; split <;> rfl
@[simp] theorem Ctx.setV_leaves (x : Ctx) (n : Nat) (w : VReg) : (x.setV n w).leaves = x.leaves := rfl
@[simp] theorem Ctx.setP_leaves (x : Ctx) (n : Nat) (w : PReg) : (x.setP n w).leaves = x.leaves := by unfold Ctx.setP; split <;> rfl
@[simp] theorem Ctx.setS_predictor (x : Ctx) (n : Nat) (w : Word) : (x.setS n w).predictor = x.predictor := by unfold Ctx.setS; split <;> rfl
@[simp] theorem Ctx.setV_predictor (x : Ctx) (n : Nat) (w : VReg) : (x.setV n w).predictor = x.predictor := rfl
@[simp] theorem Ctx.setP_predictor (x : Ctx) (n : Nat) (w : PReg) : (x.setP n w).predictor = x.predictor := by unfold Ctx.setP; split <;> rfl
@[simp] theorem Ctx.setS_scroll (x : Ctx) (n : Nat) (w : Word) : (x.setS n w).scroll = x.scroll := by unfold Ctx.setS; split <;> rfl
@[simp] theorem Ctx.setV_scroll (x : Ctx) (n : Nat) (w : VReg) : (x.setV n w).scroll = x.scroll := rfl
@[simp] theorem Ctx.setP_scroll (x : Ctx) (n : Nat) (w : PReg) : (x.setP n w).scroll = x.scroll := by unfold Ctx.setP; split <;> rfl
@[simp] theorem Ctx.setS_age (x : Ctx) (n : Nat) (w : Word) : (x.setS n w).age = x.age := by unfold Ctx.setS; split <;> rfl
@[simp] theorem Ctx.setV_age (x : Ctx) (n : Nat) (w : VReg) : (x.setV n w).age = x.age := rfl
@[simp] theorem Ctx.setP_age (x : Ctx) (n : Nat) (w : PReg) : (x.setP n w).age = x.age := by unfold Ctx.setP; split <;> rfl
@[simp] theorem Ctx.setS_slots (x : Ctx) (n : Nat) (w : Word) : (x.setS n w).slots = x.slots := by unfold Ctx.setS; split <;> rfl
@[simp] theorem Ctx.setV_slots (x : Ctx) (n : Nat) (w : VReg) : (x.setV n w).slots = x.slots := rfl
@[simp] theorem Ctx.setP_slots (x : Ctx) (n : Nat) (w : PReg) : (x.setP n w).slots = x.slots := by unfold Ctx.setP; split <;> rfl
@[simp] theorem Ctx.setS_waiting (x : Ctx) (n : Nat) (w : Word) : (x.setS n w).waiting = x.waiting := by unfold Ctx.setS; split <;> rfl
@[simp] theorem Ctx.setV_waiting (x : Ctx) (n : Nat) (w : VReg) : (x.setV n w).waiting = x.waiting := rfl
@[simp] theorem Ctx.setP_waiting (x : Ctx) (n : Nat) (w : PReg) : (x.setP n w).waiting = x.waiting := by unfold Ctx.setP; split <;> rfl
@[simp] theorem Ctx.setS_evWait (x : Ctx) (n : Nat) (w : Word) : (x.setS n w).evWait = x.evWait := by unfold Ctx.setS; split <;> rfl
@[simp] theorem Ctx.setV_evWait (x : Ctx) (n : Nat) (w : VReg) : (x.setV n w).evWait = x.evWait := rfl
@[simp] theorem Ctx.setP_evWait (x : Ctx) (n : Nat) (w : PReg) : (x.setP n w).evWait = x.evWait := by unfold Ctx.setP; split <;> rfl
@[simp] theorem Ctx.setS_waited (x : Ctx) (n : Nat) (w : Word) : (x.setS n w).waited = x.waited := by unfold Ctx.setS; split <;> rfl
@[simp] theorem Ctx.setV_waited (x : Ctx) (n : Nat) (w : VReg) : (x.setV n w).waited = x.waited := rfl
@[simp] theorem Ctx.setP_waited (x : Ctx) (n : Nat) (w : PReg) : (x.setP n w).waited = x.waited := by unfold Ctx.setP; split <;> rfl
@[simp] theorem Ctx.setS_wfiLeft (x : Ctx) (n : Nat) (w : Word) : (x.setS n w).wfiLeft = x.wfiLeft := by unfold Ctx.setS; split <;> rfl
@[simp] theorem Ctx.setV_wfiLeft (x : Ctx) (n : Nat) (w : VReg) : (x.setV n w).wfiLeft = x.wfiLeft := rfl
@[simp] theorem Ctx.setP_wfiLeft (x : Ctx) (n : Nat) (w : PReg) : (x.setP n w).wfiLeft = x.wfiLeft := by unfold Ctx.setP; split <;> rfl
@[simp] theorem Ctx.setS_gresume (x : Ctx) (n : Nat) (w : Word) : (x.setS n w).gresume = x.gresume := by unfold Ctx.setS; split <;> rfl
@[simp] theorem Ctx.setV_gresume (x : Ctx) (n : Nat) (w : VReg) : (x.setV n w).gresume = x.gresume := rfl
@[simp] theorem Ctx.setP_gresume (x : Ctx) (n : Nat) (w : PReg) : (x.setP n w).gresume = x.gresume := by unfold Ctx.setP; split <;> rfl
@[simp] theorem Ctx.setS_drained (x : Ctx) (n : Nat) (w : Word) : (x.setS n w).drained = x.drained := by unfold Ctx.setS; split <;> rfl
@[simp] theorem Ctx.setV_drained (x : Ctx) (n : Nat) (w : VReg) : (x.setV n w).drained = x.drained := rfl
@[simp] theorem Ctx.setP_drained (x : Ctx) (n : Nat) (w : PReg) : (x.setP n w).drained = x.drained := by unfold Ctx.setP; split <;> rfl
@[simp] theorem Ctx.setS_faulted (x : Ctx) (n : Nat) (w : Word) : (x.setS n w).faulted = x.faulted := by unfold Ctx.setS; split <;> rfl
@[simp] theorem Ctx.setV_faulted (x : Ctx) (n : Nat) (w : VReg) : (x.setV n w).faulted = x.faulted := rfl
@[simp] theorem Ctx.setP_faulted (x : Ctx) (n : Nat) (w : PReg) : (x.setP n w).faulted = x.faulted := by unfold Ctx.setP; split <;> rfl
@[simp] theorem Ctx.setS_fcause (x : Ctx) (n : Nat) (w : Word) : (x.setS n w).fcause = x.fcause := by unfold Ctx.setS; split <;> rfl
@[simp] theorem Ctx.setV_fcause (x : Ctx) (n : Nat) (w : VReg) : (x.setV n w).fcause = x.fcause := rfl
@[simp] theorem Ctx.setP_fcause (x : Ctx) (n : Nat) (w : PReg) : (x.setP n w).fcause = x.fcause := by unfold Ctx.setP; split <;> rfl
@[simp] theorem Ctx.setS_syncInv (x : Ctx) (n : Nat) (w : Word) : (x.setS n w).syncInv = x.syncInv := by unfold Ctx.setS; split <;> rfl
@[simp] theorem Ctx.setV_syncInv (x : Ctx) (n : Nat) (w : VReg) : (x.setV n w).syncInv = x.syncInv := rfl
@[simp] theorem Ctx.setP_syncInv (x : Ctx) (n : Nat) (w : PReg) : (x.setP n w).syncInv = x.syncInv := by unfold Ctx.setP; split <;> rfl
@[simp] theorem Ctx.setS_waitInv (x : Ctx) (n : Nat) (w : Word) : (x.setS n w).waitInv = x.waitInv := by unfold Ctx.setS; split <;> rfl
@[simp] theorem Ctx.setV_waitInv (x : Ctx) (n : Nat) (w : VReg) : (x.setV n w).waitInv = x.waitInv := rfl
@[simp] theorem Ctx.setP_waitInv (x : Ctx) (n : Nat) (w : PReg) : (x.setP n w).waitInv = x.waitInv := by unfold Ctx.setP; split <;> rfl
@[simp] theorem Ctx.setS_parsed (x : Ctx) (n : Nat) (w : Word) : (x.setS n w).parsed = x.parsed := by unfold Ctx.setS; split <;> rfl
@[simp] theorem Ctx.setV_parsed (x : Ctx) (n : Nat) (w : VReg) : (x.setV n w).parsed = x.parsed := rfl
@[simp] theorem Ctx.setP_parsed (x : Ctx) (n : Nat) (w : PReg) : (x.setP n w).parsed = x.parsed := by unfold Ctx.setP; split <;> rfl
@[simp] theorem Ctx.setS_draining (x : Ctx) (n : Nat) (w : Word) : (x.setS n w).draining = x.draining := by unfold Ctx.setS; split <;> rfl
@[simp] theorem Ctx.setV_draining (x : Ctx) (n : Nat) (w : VReg) : (x.setV n w).draining = x.draining := rfl
@[simp] theorem Ctx.setP_draining (x : Ctx) (n : Nat) (w : PReg) : (x.setP n w).draining = x.draining := by unfold Ctx.setP; split <;> rfl
@[simp] theorem Ctx.setS_errDone (x : Ctx) (n : Nat) (w : Word) : (x.setS n w).errDone = x.errDone := by unfold Ctx.setS; split <;> rfl
@[simp] theorem Ctx.setV_errDone (x : Ctx) (n : Nat) (w : VReg) : (x.setV n w).errDone = x.errDone := rfl
@[simp] theorem Ctx.setP_errDone (x : Ctx) (n : Nat) (w : PReg) : (x.setP n w).errDone = x.errDone := by unfold Ctx.setP; split <;> rfl

/-! ## Registers of the executing context -/

@[simp] theorem State.setS_coreId (s : State) (n : BitVec 6) (w : Word) : (s.setS n w).coreId = s.coreId := rfl
@[simp] theorem State.setS_others (s : State) (n : BitVec 6) (w : Word) : (s.setS n w).others = s.others := rfl
@[simp] theorem State.setS_dies (s : State) (n : BitVec 6) (w : Word) : (s.setS n w).dies = s.dies := rfl
@[simp] theorem State.setS_hub (s : State) (n : BitVec 6) (w : Word) : (s.setS n w).hub = s.hub := rfl
@[simp] theorem State.setS_mem (s : State) (n : BitVec 6) (w : Word) : (s.setS n w).mem = s.mem := rfl
@[simp] theorem State.setS_agenda (s : State) (n : BitVec 6) (w : Word) : (s.setS n w).agenda = s.agenda := rfl
@[simp] theorem State.setS_hwNext (s : State) (n : BitVec 6) (w : Word) : (s.setS n w).hwNext = s.hwNext := rfl
@[simp] theorem State.setS_free (s : State) (n : BitVec 6) (w : Word) : (s.setS n w).free = s.free := rfl
@[simp] theorem State.setS_unseen (s : State) (n : BitVec 6) (w : Word) : (s.setS n w).unseen = s.unseen := rfl
@[simp] theorem State.setS_core (s : State) (n : BitVec 6) (w : Word) : (s.setS n w).core = s.core.putCtx s.core.cur (s.ctx.setS n.toNat w) := rfl
@[simp] theorem State.setS_ctx (s : State) (n : BitVec 6) (w : Word) : (s.setS n w).ctx = s.ctx.setS n.toNat w := by simp [State.setS]
@[simp] theorem State.setV_coreId (s : State) (n : BitVec 6) (w : VReg) : (s.setV n w).coreId = s.coreId := rfl
@[simp] theorem State.setV_others (s : State) (n : BitVec 6) (w : VReg) : (s.setV n w).others = s.others := rfl
@[simp] theorem State.setV_dies (s : State) (n : BitVec 6) (w : VReg) : (s.setV n w).dies = s.dies := rfl
@[simp] theorem State.setV_hub (s : State) (n : BitVec 6) (w : VReg) : (s.setV n w).hub = s.hub := rfl
@[simp] theorem State.setV_mem (s : State) (n : BitVec 6) (w : VReg) : (s.setV n w).mem = s.mem := rfl
@[simp] theorem State.setV_agenda (s : State) (n : BitVec 6) (w : VReg) : (s.setV n w).agenda = s.agenda := rfl
@[simp] theorem State.setV_hwNext (s : State) (n : BitVec 6) (w : VReg) : (s.setV n w).hwNext = s.hwNext := rfl
@[simp] theorem State.setV_free (s : State) (n : BitVec 6) (w : VReg) : (s.setV n w).free = s.free := rfl
@[simp] theorem State.setV_unseen (s : State) (n : BitVec 6) (w : VReg) : (s.setV n w).unseen = s.unseen := rfl
@[simp] theorem State.setV_core (s : State) (n : BitVec 6) (w : VReg) : (s.setV n w).core = s.core.putCtx s.core.cur (s.ctx.setV n.toNat w) := rfl
@[simp] theorem State.setV_ctx (s : State) (n : BitVec 6) (w : VReg) : (s.setV n w).ctx = s.ctx.setV n.toNat w := by simp [State.setV]
@[simp] theorem State.setP_coreId (s : State) (n : BitVec 6) (w : PReg) : (s.setP n w).coreId = s.coreId := rfl
@[simp] theorem State.setP_others (s : State) (n : BitVec 6) (w : PReg) : (s.setP n w).others = s.others := rfl
@[simp] theorem State.setP_dies (s : State) (n : BitVec 6) (w : PReg) : (s.setP n w).dies = s.dies := rfl
@[simp] theorem State.setP_hub (s : State) (n : BitVec 6) (w : PReg) : (s.setP n w).hub = s.hub := rfl
@[simp] theorem State.setP_mem (s : State) (n : BitVec 6) (w : PReg) : (s.setP n w).mem = s.mem := rfl
@[simp] theorem State.setP_agenda (s : State) (n : BitVec 6) (w : PReg) : (s.setP n w).agenda = s.agenda := rfl
@[simp] theorem State.setP_hwNext (s : State) (n : BitVec 6) (w : PReg) : (s.setP n w).hwNext = s.hwNext := rfl
@[simp] theorem State.setP_free (s : State) (n : BitVec 6) (w : PReg) : (s.setP n w).free = s.free := rfl
@[simp] theorem State.setP_unseen (s : State) (n : BitVec 6) (w : PReg) : (s.setP n w).unseen = s.unseen := rfl
@[simp] theorem State.setP_core (s : State) (n : BitVec 6) (w : PReg) : (s.setP n w).core = s.core.putCtx s.core.cur (s.ctx.setP n.toNat w) := rfl
@[simp] theorem State.setP_ctx (s : State) (n : BitVec 6) (w : PReg) : (s.setP n w).ctx = s.ctx.setP n.toNat w := by simp [State.setP]

/-! ## Flags, dies, the program counter -/

@[simp] theorem State.putDie_core (s : State) (d : Nat) (x : Die) : (s.putDie d x).core = s.core := rfl
@[simp] theorem State.addFlags_coreId (s : State) (x : BitVec 16) : (s.addFlags x).coreId = s.coreId := rfl
@[simp] theorem State.goTo_coreId (s : State) (pc : Word) : (s.goTo pc).coreId = s.coreId := rfl
@[simp] theorem State.putDie_coreId (s : State) (d : Nat) (x : Die) : (s.putDie d x).coreId = s.coreId := rfl
@[simp] theorem State.addFlags_others (s : State) (x : BitVec 16) : (s.addFlags x).others = s.others := rfl
@[simp] theorem State.goTo_others (s : State) (pc : Word) : (s.goTo pc).others = s.others := rfl
@[simp] theorem State.putDie_others (s : State) (d : Nat) (x : Die) : (s.putDie d x).others = s.others := rfl
@[simp] theorem State.addFlags_dies (s : State) (x : BitVec 16) : (s.addFlags x).dies = s.dies := rfl
@[simp] theorem State.goTo_dies (s : State) (pc : Word) : (s.goTo pc).dies = s.dies := rfl
@[simp] theorem State.addFlags_hub (s : State) (x : BitVec 16) : (s.addFlags x).hub = s.hub := rfl
@[simp] theorem State.goTo_hub (s : State) (pc : Word) : (s.goTo pc).hub = s.hub := rfl
@[simp] theorem State.putDie_hub (s : State) (d : Nat) (x : Die) : (s.putDie d x).hub = s.hub := rfl
@[simp] theorem State.addFlags_mem (s : State) (x : BitVec 16) : (s.addFlags x).mem = s.mem := rfl
@[simp] theorem State.goTo_mem (s : State) (pc : Word) : (s.goTo pc).mem = s.mem := rfl
@[simp] theorem State.putDie_mem (s : State) (d : Nat) (x : Die) : (s.putDie d x).mem = s.mem := rfl
@[simp] theorem State.addFlags_agenda (s : State) (x : BitVec 16) : (s.addFlags x).agenda = s.agenda := rfl
@[simp] theorem State.goTo_agenda (s : State) (pc : Word) : (s.goTo pc).agenda = s.agenda := rfl
@[simp] theorem State.putDie_agenda (s : State) (d : Nat) (x : Die) : (s.putDie d x).agenda = s.agenda := rfl
@[simp] theorem State.addFlags_hwNext (s : State) (x : BitVec 16) : (s.addFlags x).hwNext = s.hwNext := rfl
@[simp] theorem State.goTo_hwNext (s : State) (pc : Word) : (s.goTo pc).hwNext = s.hwNext := rfl
@[simp] theorem State.putDie_hwNext (s : State) (d : Nat) (x : Die) : (s.putDie d x).hwNext = s.hwNext := rfl
@[simp] theorem State.addFlags_free (s : State) (x : BitVec 16) : (s.addFlags x).free = s.free := rfl
@[simp] theorem State.goTo_free (s : State) (pc : Word) : (s.goTo pc).free = s.free := rfl
@[simp] theorem State.putDie_free (s : State) (d : Nat) (x : Die) : (s.putDie d x).free = s.free := rfl
@[simp] theorem State.addFlags_unseen (s : State) (x : BitVec 16) : (s.addFlags x).unseen = s.unseen := rfl
@[simp] theorem State.goTo_unseen (s : State) (pc : Word) : (s.goTo pc).unseen = s.unseen := rfl
@[simp] theorem State.putDie_unseen (s : State) (d : Nat) (x : Die) : (s.putDie d x).unseen = s.unseen := rfl
@[simp] theorem State.addFlags_flags (s : State) (x : BitVec 16) : (s.addFlags x).core.flags = s.core.flags ||| x := rfl
@[simp] theorem State.addFlags_cur (s : State) (x : BitVec 16) : (s.addFlags x).core.cur = s.core.cur := rfl
@[simp] theorem State.addFlags_ctxAt (s : State) (x : BitVec 16) (i : CtxId) : (s.addFlags x).ctxAt i = s.ctxAt i := by cases i <;> rfl
@[simp] theorem State.addFlags_ctx (s : State) (x : BitVec 16) : (s.addFlags x).ctx = s.ctx := State.addFlags_ctxAt s x s.core.cur
@[simp] theorem State.goTo_core (s : State) (pc : Word) :
    (s.goTo pc).core = s.core.putCtx s.core.cur { s.ctx with pc := pc, counted := s.ctx.counted + 1, waiting := none, evWait := none, waited := 0 } := rfl
@[simp] theorem State.goTo_ctx (s : State) (pc : Word) :
    (s.goTo pc).ctx = { s.ctx with pc := pc, counted := s.ctx.counted + 1, waiting := none, evWait := none, waited := 0 } := by simp [State.goTo]

end Sys2Proof.Machine
end

