-- ==== Sys2Proof/Laws/Memory.lean ====
section
/-! SUPPORT. Main memory: the named operations over it keep its canonical form, and what a byte reads after a write. -/

namespace Sys2Proof.Machine

/-- Reset memory lists nothing, so it is in the canonical form. -/
theorem Memory.wf_reset : Memory.wf State.reset.mem = true := rfl

/-- A filter of a canonical list is canonical. -/
theorem SMap.wf_filter {α : Type} [DecidableEq α] (d : α) (f : Nat × α → Bool) (m : SMap α) (h : SMap.wf d m = true) : SMap.wf d (m.filter f) = true := by
  induction m with
  | nil => exact h
  | cons e t ih =>
    rw [SMap.wf_cons] at h
    by_cases hf : f e = true
    · rw [List.filter_cons_of_pos hf, SMap.wf_cons]
      exact ⟨fun x hx => h.1 x (List.mem_of_mem_filter hx), h.2.1, ih h.2.2⟩
    · rw [List.filter_cons_of_neg hf]
      exact ih h.2.2

@[simp] theorem State.pokeByte_core (s : State) (a : Nat) (b : Byte) : (s.pokeByte a b).core = s.core := rfl
@[simp] theorem State.pokeByte_dies (s : State) (a : Nat) (b : Byte) : (s.pokeByte a b).dies = s.dies := rfl

/-- What a byte reads after one byte was written: there the byte, elsewhere what it read. -/
theorem State.byteAt_pokeByte (s : State) (a x : Nat) (b : Byte) : (s.pokeByte a b).byteAt x = if x = a then b else s.byteAt x :=
  SMap.get_set 0 s.mem a x b

theorem Memory.wf_pokeByte {s : State} (a : Nat) (b : Byte) (h : Memory.wf s.mem = true) : Memory.wf (s.pokeByte a b).mem = true :=
  SMap.wf_set 0 s.mem a b h

theorem Memory.wf_pokeBytes (bs : List Byte) : ∀ (s : State) (a : Nat), Memory.wf s.mem = true → Memory.wf (s.pokeBytes a bs).mem = true := by
  induction bs with
  | nil => exact fun s _ h => h
  | cons b t ih => exact fun s a h => ih (s.pokeByte a b) (a + 1) (Memory.wf_pokeByte a b h)

@[simp] theorem State.dirtyLine_mem (s : State) (a : Nat) (i : Bool) : (s.dirtyLine a i).mem = s.mem := rfl

@[simp] theorem State.dirtyLines_mem (s : State) (a n : Nat) (i : Bool) : (s.dirtyLines a n i).mem = s.mem := by
  unfold State.dirtyLines
  generalize List.range _ = l
  induction l generalizing s with
  | nil => rfl
  | cons x t ih => simp [ih]

theorem Memory.wf_storeParts (ps : List Part) : ∀ (s : State) (bs : List Byte), Memory.wf s.mem = true → Memory.wf (storeParts s ps bs).mem = true := by
  induction ps with
  | nil => exact fun s _ h => h
  | cons p t ih => exact fun s bs h => ih _ _ (by rw [State.dirtyLines_mem]; exact Memory.wf_pokeBytes _ _ _ h)

/-- Dropping a frame's bytes (R443) keeps the form. -/
theorem Memory.wf_dropFrame {s : State} (a : Nat) (h : Memory.wf s.mem = true) : Memory.wf (s.dropFrame a).mem = true :=
  SMap.wf_filter 0 _ s.mem h

end Sys2Proof.Machine
end

