-- ==== Sys2Proof/Laws/Order.lean ====
section
/-! SUPPORT. What releases, acquires, forks and fences can change: what parties see of earlier stores, and nothing else (R122, R124, R126, R128 to R131). -/

namespace Sys2Proof.Machine

set_option Elab.async false

/-! ## The rest of the state stays -/

@[simp] theorem State.pruned_core (s : State) : (s.pruned).core = s.core := rfl
@[simp] theorem State.pruned_coreId (s : State) : (s.pruned).coreId = s.coreId := rfl
@[simp] theorem State.pruned_others (s : State) : (s.pruned).others = s.others := rfl
@[simp] theorem State.pruned_dies (s : State) : (s.pruned).dies = s.dies := rfl
@[simp] theorem State.pruned_hub (s : State) : (s.pruned).hub = s.hub := rfl
@[simp] theorem State.pruned_mem (s : State) : (s.pruned).mem = s.mem := rfl
@[simp] theorem State.pruned_agenda (s : State) : (s.pruned).agenda = s.agenda := rfl
@[simp] theorem State.pruned_hwNext (s : State) : (s.pruned).hwNext = s.hwNext := rfl
@[simp] theorem State.pruned_free (s : State) : (s.pruned).free = s.free := rfl
@[simp] theorem State.openRange_core (s : State) (b : Bool) (a n : Nat) : (s.openRange b a n).core = s.core := rfl
@[simp] theorem State.openRange_coreId (s : State) (b : Bool) (a n : Nat) : (s.openRange b a n).coreId = s.coreId := rfl
@[simp] theorem State.openRange_others (s : State) (b : Bool) (a n : Nat) : (s.openRange b a n).others = s.others := rfl
@[simp] theorem State.openRange_dies (s : State) (b : Bool) (a n : Nat) : (s.openRange b a n).dies = s.dies := rfl
@[simp] theorem State.openRange_hub (s : State) (b : Bool) (a n : Nat) : (s.openRange b a n).hub = s.hub := rfl
@[simp] theorem State.openRange_mem (s : State) (b : Bool) (a n : Nat) : (s.openRange b a n).mem = s.mem := rfl
@[simp] theorem State.openRange_agenda (s : State) (b : Bool) (a n : Nat) : (s.openRange b a n).agenda = s.agenda := rfl
@[simp] theorem State.openRange_hwNext (s : State) (b : Bool) (a n : Nat) : (s.openRange b a n).hwNext = s.hwNext := rfl
@[simp] theorem State.openRange_free (s : State) (b : Bool) (a n : Nat) : (s.openRange b a n).free = s.free := rfl
@[simp] theorem State.saw_core (s : State) (q : Nat) (k : Option Nat) (l : List Unseen) : (s.saw q k l).core = s.core := by unfold State.saw; cases k <;> rfl
@[simp] theorem State.saw_coreId (s : State) (q : Nat) (k : Option Nat) (l : List Unseen) : (s.saw q k l).coreId = s.coreId := by unfold State.saw; cases k <;> rfl
@[simp] theorem State.saw_others (s : State) (q : Nat) (k : Option Nat) (l : List Unseen) : (s.saw q k l).others = s.others := by unfold State.saw; cases k <;> rfl
@[simp] theorem State.saw_dies (s : State) (q : Nat) (k : Option Nat) (l : List Unseen) : (s.saw q k l).dies = s.dies := by unfold State.saw; cases k <;> rfl
@[simp] theorem State.saw_hub (s : State) (q : Nat) (k : Option Nat) (l : List Unseen) : (s.saw q k l).hub = s.hub := by unfold State.saw; cases k <;> rfl
@[simp] theorem State.saw_mem (s : State) (q : Nat) (k : Option Nat) (l : List Unseen) : (s.saw q k l).mem = s.mem := by unfold State.saw; cases k <;> rfl
@[simp] theorem State.saw_agenda (s : State) (q : Nat) (k : Option Nat) (l : List Unseen) : (s.saw q k l).agenda = s.agenda := by unfold State.saw; cases k <;> rfl
@[simp] theorem State.saw_hwNext (s : State) (q : Nat) (k : Option Nat) (l : List Unseen) : (s.saw q k l).hwNext = s.hwNext := by unfold State.saw; cases k <;> rfl
@[simp] theorem State.saw_free (s : State) (q : Nat) (k : Option Nat) (l : List Unseen) : (s.saw q k l).free = s.free := by unfold State.saw; cases k <;> rfl
@[simp] theorem State.observe_core (s : State) (q : Nat) (k : Option Nat) (a n : Nat) : (s.observe q k a n).core = s.core := by simp only [State.observe]; split <;> simp
@[simp] theorem State.observe_coreId (s : State) (q : Nat) (k : Option Nat) (a n : Nat) : (s.observe q k a n).coreId = s.coreId := by simp only [State.observe]; split <;> simp
@[simp] theorem State.observe_others (s : State) (q : Nat) (k : Option Nat) (a n : Nat) : (s.observe q k a n).others = s.others := by simp only [State.observe]; split <;> simp
@[simp] theorem State.observe_dies (s : State) (q : Nat) (k : Option Nat) (a n : Nat) : (s.observe q k a n).dies = s.dies := by simp only [State.observe]; split <;> simp
@[simp] theorem State.observe_hub (s : State) (q : Nat) (k : Option Nat) (a n : Nat) : (s.observe q k a n).hub = s.hub := by simp only [State.observe]; split <;> simp
@[simp] theorem State.observe_mem (s : State) (q : Nat) (k : Option Nat) (a n : Nat) : (s.observe q k a n).mem = s.mem := by simp only [State.observe]; split <;> simp
@[simp] theorem State.observe_agenda (s : State) (q : Nat) (k : Option Nat) (a n : Nat) : (s.observe q k a n).agenda = s.agenda := by simp only [State.observe]; split <;> simp
@[simp] theorem State.observe_hwNext (s : State) (q : Nat) (k : Option Nat) (a n : Nat) : (s.observe q k a n).hwNext = s.hwNext := by simp only [State.observe]; split <;> simp
@[simp] theorem State.observe_free (s : State) (q : Nat) (k : Option Nat) (a n : Nat) : (s.observe q k a n).free = s.free := by simp only [State.observe]; split <;> simp
@[simp] theorem State.settleSo_core (s : State) (p k : Nat) : (s.settleSo p k).core = s.core := by unfold State.settleSo; split <;> rfl
@[simp] theorem State.settleSo_coreId (s : State) (p k : Nat) : (s.settleSo p k).coreId = s.coreId := by unfold State.settleSo; split <;> rfl
@[simp] theorem State.settleSo_others (s : State) (p k : Nat) : (s.settleSo p k).others = s.others := by unfold State.settleSo; split <;> rfl
@[simp] theorem State.settleSo_dies (s : State) (p k : Nat) : (s.settleSo p k).dies = s.dies := by unfold State.settleSo; split <;> rfl
@[simp] theorem State.settleSo_hub (s : State) (p k : Nat) : (s.settleSo p k).hub = s.hub := by unfold State.settleSo; split <;> rfl
@[simp] theorem State.settleSo_mem (s : State) (p k : Nat) : (s.settleSo p k).mem = s.mem := by unfold State.settleSo; split <;> rfl
@[simp] theorem State.settleSo_agenda (s : State) (p k : Nat) : (s.settleSo p k).agenda = s.agenda := by unfold State.settleSo; split <;> rfl
@[simp] theorem State.settleSo_hwNext (s : State) (p k : Nat) : (s.settleSo p k).hwNext = s.hwNext := by unfold State.settleSo; split <;> rfl
@[simp] theorem State.settleSo_free (s : State) (p k : Nat) : (s.settleSo p k).free = s.free := by unfold State.settleSo; split <;> rfl
@[simp] theorem State.orderOwn_core (s : State) (p n : Nat) : (s.orderOwn p n).core = s.core := rfl
@[simp] theorem State.orderOwn_coreId (s : State) (p n : Nat) : (s.orderOwn p n).coreId = s.coreId := rfl
@[simp] theorem State.orderOwn_others (s : State) (p n : Nat) : (s.orderOwn p n).others = s.others := rfl
@[simp] theorem State.orderOwn_dies (s : State) (p n : Nat) : (s.orderOwn p n).dies = s.dies := rfl
@[simp] theorem State.orderOwn_hub (s : State) (p n : Nat) : (s.orderOwn p n).hub = s.hub := rfl
@[simp] theorem State.orderOwn_mem (s : State) (p n : Nat) : (s.orderOwn p n).mem = s.mem := rfl
@[simp] theorem State.orderOwn_agenda (s : State) (p n : Nat) : (s.orderOwn p n).agenda = s.agenda := rfl
@[simp] theorem State.orderOwn_hwNext (s : State) (p n : Nat) : (s.orderOwn p n).hwNext = s.hwNext := rfl
@[simp] theorem State.orderOwn_free (s : State) (p n : Nat) : (s.orderOwn p n).free = s.free := rfl
@[simp] theorem State.releaseBy_core (s : State) (p n : Nat) (b : Bool) (l : List (Nat × Nat)) : (s.releaseBy p n b l).core = s.core := by simp only [State.releaseBy]; split <;> rfl
@[simp] theorem State.releaseBy_coreId (s : State) (p n : Nat) (b : Bool) (l : List (Nat × Nat)) : (s.releaseBy p n b l).coreId = s.coreId := by simp only [State.releaseBy]; split <;> rfl
@[simp] theorem State.releaseBy_others (s : State) (p n : Nat) (b : Bool) (l : List (Nat × Nat)) : (s.releaseBy p n b l).others = s.others := by simp only [State.releaseBy]; split <;> rfl
@[simp] theorem State.releaseBy_dies (s : State) (p n : Nat) (b : Bool) (l : List (Nat × Nat)) : (s.releaseBy p n b l).dies = s.dies := by simp only [State.releaseBy]; split <;> rfl
@[simp] theorem State.releaseBy_hub (s : State) (p n : Nat) (b : Bool) (l : List (Nat × Nat)) : (s.releaseBy p n b l).hub = s.hub := by simp only [State.releaseBy]; split <;> rfl
@[simp] theorem State.releaseBy_mem (s : State) (p n : Nat) (b : Bool) (l : List (Nat × Nat)) : (s.releaseBy p n b l).mem = s.mem := by simp only [State.releaseBy]; split <;> rfl
@[simp] theorem State.releaseBy_agenda (s : State) (p n : Nat) (b : Bool) (l : List (Nat × Nat)) : (s.releaseBy p n b l).agenda = s.agenda := by simp only [State.releaseBy]; split <;> rfl
@[simp] theorem State.releaseBy_hwNext (s : State) (p n : Nat) (b : Bool) (l : List (Nat × Nat)) : (s.releaseBy p n b l).hwNext = s.hwNext := by simp only [State.releaseBy]; split <;> rfl
@[simp] theorem State.releaseBy_free (s : State) (p n : Nat) (b : Bool) (l : List (Nat × Nat)) : (s.releaseBy p n b l).free = s.free := by simp only [State.releaseBy]; split <;> rfl
@[simp] theorem State.acquireBy_core (s : State) (q n : Nat) (l : List (Nat × Nat)) : (s.acquireBy q n l).core = s.core := by
  unfold State.acquireBy
  induction l generalizing s with
  | nil => rfl
  | cons k t ih => rw [List.foldl_cons, ih]; simp
@[simp] theorem State.acquireBy_coreId (s : State) (q n : Nat) (l : List (Nat × Nat)) : (s.acquireBy q n l).coreId = s.coreId := by
  unfold State.acquireBy
  induction l generalizing s with
  | nil => rfl
  | cons k t ih => rw [List.foldl_cons, ih]; simp
@[simp] theorem State.acquireBy_others (s : State) (q n : Nat) (l : List (Nat × Nat)) : (s.acquireBy q n l).others = s.others := by
  unfold State.acquireBy
  induction l generalizing s with
  | nil => rfl
  | cons k t ih => rw [List.foldl_cons, ih]; simp
@[simp] theorem State.acquireBy_dies (s : State) (q n : Nat) (l : List (Nat × Nat)) : (s.acquireBy q n l).dies = s.dies := by
  unfold State.acquireBy
  induction l generalizing s with
  | nil => rfl
  | cons k t ih => rw [List.foldl_cons, ih]; simp
@[simp] theorem State.acquireBy_hub (s : State) (q n : Nat) (l : List (Nat × Nat)) : (s.acquireBy q n l).hub = s.hub := by
  unfold State.acquireBy
  induction l generalizing s with
  | nil => rfl
  | cons k t ih => rw [List.foldl_cons, ih]; simp
@[simp] theorem State.acquireBy_mem (s : State) (q n : Nat) (l : List (Nat × Nat)) : (s.acquireBy q n l).mem = s.mem := by
  unfold State.acquireBy
  induction l generalizing s with
  | nil => rfl
  | cons k t ih => rw [List.foldl_cons, ih]; simp
@[simp] theorem State.acquireBy_agenda (s : State) (q n : Nat) (l : List (Nat × Nat)) : (s.acquireBy q n l).agenda = s.agenda := by
  unfold State.acquireBy
  induction l generalizing s with
  | nil => rfl
  | cons k t ih => rw [List.foldl_cons, ih]; simp
@[simp] theorem State.acquireBy_hwNext (s : State) (q n : Nat) (l : List (Nat × Nat)) : (s.acquireBy q n l).hwNext = s.hwNext := by
  unfold State.acquireBy
  induction l generalizing s with
  | nil => rfl
  | cons k t ih => rw [List.foldl_cons, ih]; simp
@[simp] theorem State.acquireBy_free (s : State) (q n : Nat) (l : List (Nat × Nat)) : (s.acquireBy q n l).free = s.free := by
  unfold State.acquireBy
  induction l generalizing s with
  | nil => rfl
  | cons k t ih => rw [List.foldl_cons, ih]; simp
@[simp] theorem State.release_core (s : State) (c : CtxId) (n : Nat) (l : List (Nat × Nat)) : (s.release c n l).core = s.core := by simp [State.release]
@[simp] theorem State.release_coreId (s : State) (c : CtxId) (n : Nat) (l : List (Nat × Nat)) : (s.release c n l).coreId = s.coreId := by simp [State.release]
@[simp] theorem State.release_others (s : State) (c : CtxId) (n : Nat) (l : List (Nat × Nat)) : (s.release c n l).others = s.others := by simp [State.release]
@[simp] theorem State.release_dies (s : State) (c : CtxId) (n : Nat) (l : List (Nat × Nat)) : (s.release c n l).dies = s.dies := by simp [State.release]
@[simp] theorem State.release_hub (s : State) (c : CtxId) (n : Nat) (l : List (Nat × Nat)) : (s.release c n l).hub = s.hub := by simp [State.release]
@[simp] theorem State.release_mem (s : State) (c : CtxId) (n : Nat) (l : List (Nat × Nat)) : (s.release c n l).mem = s.mem := by simp [State.release]
@[simp] theorem State.release_agenda (s : State) (c : CtxId) (n : Nat) (l : List (Nat × Nat)) : (s.release c n l).agenda = s.agenda := by simp [State.release]
@[simp] theorem State.release_hwNext (s : State) (c : CtxId) (n : Nat) (l : List (Nat × Nat)) : (s.release c n l).hwNext = s.hwNext := by simp [State.release]
@[simp] theorem State.release_free (s : State) (c : CtxId) (n : Nat) (l : List (Nat × Nat)) : (s.release c n l).free = s.free := by simp [State.release]
@[simp] theorem State.releaseAll_core (s : State) (c : CtxId) (n : Nat) (l : List (Nat × Nat)) : (s.releaseAll c n l).core = s.core := by simp [State.releaseAll]
@[simp] theorem State.releaseAll_coreId (s : State) (c : CtxId) (n : Nat) (l : List (Nat × Nat)) : (s.releaseAll c n l).coreId = s.coreId := by simp [State.releaseAll]
@[simp] theorem State.releaseAll_others (s : State) (c : CtxId) (n : Nat) (l : List (Nat × Nat)) : (s.releaseAll c n l).others = s.others := by simp [State.releaseAll]
@[simp] theorem State.releaseAll_dies (s : State) (c : CtxId) (n : Nat) (l : List (Nat × Nat)) : (s.releaseAll c n l).dies = s.dies := by simp [State.releaseAll]
@[simp] theorem State.releaseAll_hub (s : State) (c : CtxId) (n : Nat) (l : List (Nat × Nat)) : (s.releaseAll c n l).hub = s.hub := by simp [State.releaseAll]
@[simp] theorem State.releaseAll_mem (s : State) (c : CtxId) (n : Nat) (l : List (Nat × Nat)) : (s.releaseAll c n l).mem = s.mem := by simp [State.releaseAll]
@[simp] theorem State.releaseAll_agenda (s : State) (c : CtxId) (n : Nat) (l : List (Nat × Nat)) : (s.releaseAll c n l).agenda = s.agenda := by simp [State.releaseAll]
@[simp] theorem State.releaseAll_hwNext (s : State) (c : CtxId) (n : Nat) (l : List (Nat × Nat)) : (s.releaseAll c n l).hwNext = s.hwNext := by simp [State.releaseAll]
@[simp] theorem State.releaseAll_free (s : State) (c : CtxId) (n : Nat) (l : List (Nat × Nat)) : (s.releaseAll c n l).free = s.free := by simp [State.releaseAll]
@[simp] theorem State.acquire_core (s : State) (c : CtxId) (n : Nat) (l : List (Nat × Nat)) : (s.acquire c n l).core = s.core := by simp [State.acquire]
@[simp] theorem State.acquire_coreId (s : State) (c : CtxId) (n : Nat) (l : List (Nat × Nat)) : (s.acquire c n l).coreId = s.coreId := by simp [State.acquire]
@[simp] theorem State.acquire_others (s : State) (c : CtxId) (n : Nat) (l : List (Nat × Nat)) : (s.acquire c n l).others = s.others := by simp [State.acquire]
@[simp] theorem State.acquire_dies (s : State) (c : CtxId) (n : Nat) (l : List (Nat × Nat)) : (s.acquire c n l).dies = s.dies := by simp [State.acquire]
@[simp] theorem State.acquire_hub (s : State) (c : CtxId) (n : Nat) (l : List (Nat × Nat)) : (s.acquire c n l).hub = s.hub := by simp [State.acquire]
@[simp] theorem State.acquire_mem (s : State) (c : CtxId) (n : Nat) (l : List (Nat × Nat)) : (s.acquire c n l).mem = s.mem := by simp [State.acquire]
@[simp] theorem State.acquire_agenda (s : State) (c : CtxId) (n : Nat) (l : List (Nat × Nat)) : (s.acquire c n l).agenda = s.agenda := by simp [State.acquire]
@[simp] theorem State.acquire_hwNext (s : State) (c : CtxId) (n : Nat) (l : List (Nat × Nat)) : (s.acquire c n l).hwNext = s.hwNext := by simp [State.acquire]
@[simp] theorem State.acquire_free (s : State) (c : CtxId) (n : Nat) (l : List (Nat × Nat)) : (s.acquire c n l).free = s.free := by simp [State.acquire]
@[simp] theorem State.fenceReads_core (s : State) (p n : Nat) : (s.fenceReads p n).core = s.core := rfl
@[simp] theorem State.fenceReads_coreId (s : State) (p n : Nat) : (s.fenceReads p n).coreId = s.coreId := rfl
@[simp] theorem State.fenceReads_others (s : State) (p n : Nat) : (s.fenceReads p n).others = s.others := rfl
@[simp] theorem State.fenceReads_dies (s : State) (p n : Nat) : (s.fenceReads p n).dies = s.dies := rfl
@[simp] theorem State.fenceReads_hub (s : State) (p n : Nat) : (s.fenceReads p n).hub = s.hub := rfl
@[simp] theorem State.fenceReads_mem (s : State) (p n : Nat) : (s.fenceReads p n).mem = s.mem := rfl
@[simp] theorem State.fenceReads_agenda (s : State) (p n : Nat) : (s.fenceReads p n).agenda = s.agenda := rfl
@[simp] theorem State.fenceReads_hwNext (s : State) (p n : Nat) : (s.fenceReads p n).hwNext = s.hwNext := rfl
@[simp] theorem State.fenceReads_free (s : State) (p n : Nat) : (s.fenceReads p n).free = s.free := rfl
@[simp] theorem State.fence_core (s : State) (c : CtxId) (n : Nat) : (s.fence c n).core = s.core := rfl
@[simp] theorem State.fence_coreId (s : State) (c : CtxId) (n : Nat) : (s.fence c n).coreId = s.coreId := rfl
@[simp] theorem State.fence_others (s : State) (c : CtxId) (n : Nat) : (s.fence c n).others = s.others := rfl
@[simp] theorem State.fence_dies (s : State) (c : CtxId) (n : Nat) : (s.fence c n).dies = s.dies := rfl
@[simp] theorem State.fence_hub (s : State) (c : CtxId) (n : Nat) : (s.fence c n).hub = s.hub := rfl
@[simp] theorem State.fence_mem (s : State) (c : CtxId) (n : Nat) : (s.fence c n).mem = s.mem := rfl
@[simp] theorem State.fence_agenda (s : State) (c : CtxId) (n : Nat) : (s.fence c n).agenda = s.agenda := rfl
@[simp] theorem State.fence_hwNext (s : State) (c : CtxId) (n : Nat) : (s.fence c n).hwNext = s.hwNext := rfl
@[simp] theorem State.fence_free (s : State) (c : CtxId) (n : Nat) : (s.fence c n).free = s.free := rfl
@[simp] theorem State.fenceAcq_core (s : State) (c : CtxId) (n : Nat) : (s.fenceAcq c n).core = s.core := rfl
@[simp] theorem State.fenceAcq_coreId (s : State) (c : CtxId) (n : Nat) : (s.fenceAcq c n).coreId = s.coreId := rfl
@[simp] theorem State.fenceAcq_others (s : State) (c : CtxId) (n : Nat) : (s.fenceAcq c n).others = s.others := rfl
@[simp] theorem State.fenceAcq_dies (s : State) (c : CtxId) (n : Nat) : (s.fenceAcq c n).dies = s.dies := rfl
@[simp] theorem State.fenceAcq_hub (s : State) (c : CtxId) (n : Nat) : (s.fenceAcq c n).hub = s.hub := rfl
@[simp] theorem State.fenceAcq_mem (s : State) (c : CtxId) (n : Nat) : (s.fenceAcq c n).mem = s.mem := rfl
@[simp] theorem State.fenceAcq_agenda (s : State) (c : CtxId) (n : Nat) : (s.fenceAcq c n).agenda = s.agenda := rfl
@[simp] theorem State.fenceAcq_hwNext (s : State) (c : CtxId) (n : Nat) : (s.fenceAcq c n).hwNext = s.hwNext := rfl
@[simp] theorem State.fenceAcq_free (s : State) (c : CtxId) (n : Nat) : (s.fenceAcq c n).free = s.free := rfl
@[simp] theorem State.fenceRel_core (s : State) (c : CtxId) (n : Nat) : (s.fenceRel c n).core = s.core := rfl
@[simp] theorem State.fenceRel_coreId (s : State) (c : CtxId) (n : Nat) : (s.fenceRel c n).coreId = s.coreId := rfl
@[simp] theorem State.fenceRel_others (s : State) (c : CtxId) (n : Nat) : (s.fenceRel c n).others = s.others := rfl
@[simp] theorem State.fenceRel_dies (s : State) (c : CtxId) (n : Nat) : (s.fenceRel c n).dies = s.dies := rfl
@[simp] theorem State.fenceRel_hub (s : State) (c : CtxId) (n : Nat) : (s.fenceRel c n).hub = s.hub := rfl
@[simp] theorem State.fenceRel_mem (s : State) (c : CtxId) (n : Nat) : (s.fenceRel c n).mem = s.mem := rfl
@[simp] theorem State.fenceRel_agenda (s : State) (c : CtxId) (n : Nat) : (s.fenceRel c n).agenda = s.agenda := rfl
@[simp] theorem State.fenceRel_hwNext (s : State) (c : CtxId) (n : Nat) : (s.fenceRel c n).hwNext = s.hwNext := rfl
@[simp] theorem State.fenceRel_free (s : State) (c : CtxId) (n : Nat) : (s.fenceRel c n).free = s.free := rfl
@[simp] theorem State.forget_core (s : State) (a n : Nat) : (s.forget a n).core = s.core := rfl
@[simp] theorem State.forget_coreId (s : State) (a n : Nat) : (s.forget a n).coreId = s.coreId := rfl
@[simp] theorem State.forget_others (s : State) (a n : Nat) : (s.forget a n).others = s.others := rfl
@[simp] theorem State.forget_dies (s : State) (a n : Nat) : (s.forget a n).dies = s.dies := rfl
@[simp] theorem State.forget_hub (s : State) (a n : Nat) : (s.forget a n).hub = s.hub := rfl
@[simp] theorem State.forget_mem (s : State) (a n : Nat) : (s.forget a n).mem = s.mem := rfl
@[simp] theorem State.forget_agenda (s : State) (a n : Nat) : (s.forget a n).agenda = s.agenda := rfl
@[simp] theorem State.forget_hwNext (s : State) (a n : Nat) : (s.forget a n).hwNext = s.hwNext := rfl
@[simp] theorem State.forget_free (s : State) (a n : Nat) : (s.forget a n).free = s.free := rfl
@[simp] theorem State.forgetAll_core (s : State) (l : List (Nat × Nat)) : (s.forgetAll l).core = s.core := by
  unfold State.forgetAll
  induction l generalizing s with
  | nil => rfl
  | cons k t ih => rw [List.foldl_cons, ih]; rfl
@[simp] theorem State.forgetAll_coreId (s : State) (l : List (Nat × Nat)) : (s.forgetAll l).coreId = s.coreId := by
  unfold State.forgetAll
  induction l generalizing s with
  | nil => rfl
  | cons k t ih => rw [List.foldl_cons, ih]; rfl
@[simp] theorem State.forgetAll_others (s : State) (l : List (Nat × Nat)) : (s.forgetAll l).others = s.others := by
  unfold State.forgetAll
  induction l generalizing s with
  | nil => rfl
  | cons k t ih => rw [List.foldl_cons, ih]; rfl
@[simp] theorem State.forgetAll_dies (s : State) (l : List (Nat × Nat)) : (s.forgetAll l).dies = s.dies := by
  unfold State.forgetAll
  induction l generalizing s with
  | nil => rfl
  | cons k t ih => rw [List.foldl_cons, ih]; rfl
@[simp] theorem State.forgetAll_hub (s : State) (l : List (Nat × Nat)) : (s.forgetAll l).hub = s.hub := by
  unfold State.forgetAll
  induction l generalizing s with
  | nil => rfl
  | cons k t ih => rw [List.foldl_cons, ih]; rfl
@[simp] theorem State.forgetAll_mem (s : State) (l : List (Nat × Nat)) : (s.forgetAll l).mem = s.mem := by
  unfold State.forgetAll
  induction l generalizing s with
  | nil => rfl
  | cons k t ih => rw [List.foldl_cons, ih]; rfl
@[simp] theorem State.forgetAll_agenda (s : State) (l : List (Nat × Nat)) : (s.forgetAll l).agenda = s.agenda := by
  unfold State.forgetAll
  induction l generalizing s with
  | nil => rfl
  | cons k t ih => rw [List.foldl_cons, ih]; rfl
@[simp] theorem State.forgetAll_hwNext (s : State) (l : List (Nat × Nat)) : (s.forgetAll l).hwNext = s.hwNext := by
  unfold State.forgetAll
  induction l generalizing s with
  | nil => rfl
  | cons k t ih => rw [List.foldl_cons, ih]; rfl
@[simp] theorem State.forgetAll_free (s : State) (l : List (Nat × Nat)) : (s.forgetAll l).free = s.free := by
  unfold State.forgetAll
  induction l generalizing s with
  | nil => rfl
  | cons k t ih => rw [List.foldl_cons, ih]; rfl
@[simp] theorem State.beginAfter_core (s : State) (p v : Nat) : (s.beginAfter p v).core = s.core := rfl
@[simp] theorem State.beginAfter_coreId (s : State) (p v : Nat) : (s.beginAfter p v).coreId = s.coreId := rfl
@[simp] theorem State.beginAfter_others (s : State) (p v : Nat) : (s.beginAfter p v).others = s.others := rfl
@[simp] theorem State.beginAfter_dies (s : State) (p v : Nat) : (s.beginAfter p v).dies = s.dies := rfl
@[simp] theorem State.beginAfter_hub (s : State) (p v : Nat) : (s.beginAfter p v).hub = s.hub := rfl
@[simp] theorem State.beginAfter_mem (s : State) (p v : Nat) : (s.beginAfter p v).mem = s.mem := rfl
@[simp] theorem State.beginAfter_agenda (s : State) (p v : Nat) : (s.beginAfter p v).agenda = s.agenda := rfl
@[simp] theorem State.beginAfter_hwNext (s : State) (p v : Nat) : (s.beginAfter p v).hwNext = s.hwNext := rfl
@[simp] theorem State.beginAfter_free (s : State) (p v : Nat) : (s.beginAfter p v).free = s.free := rfl

/-! ## Stores made visible -/

theorem scopeReach_pos (n : Nat) : 0 < scopeReach n := by unfold scopeReach; split <;> decide

theorem scopeReach_le (n : Nat) : scopeReach n ≤ 4 := by unfold scopeReach; split <;> decide

theorem partyDist_le (a b : Nat) : partyDist a b ≤ 4 := by
  simp only [partyDist]
  split
  · split <;> decide
  · split <;> decide

/-- A store comes from another one: it is that one, a part of it, or it made visible to all. -/
def Unseen.From (e f : Unseen) : Prop :=
  e.party = f.party ∧ e.seq = f.seq ∧ e.fence = f.fence ∧ (e.ord = f.ord ∨ e.ord = 4) ∧ (e.vis = f.vis ∨ e.vis = 4)

theorem Unseen.From.refl (e : Unseen) : e.From e := ⟨rfl, rfl, rfl, .inl rfl, .inl rfl⟩

theorem Unseen.From.trans {e f g : Unseen} (h : e.From f) (k : f.From g) : e.From g := by
  obtain ⟨h1, h2, h3, h5, h6⟩ := h
  obtain ⟨k1, k2, k3, k5, k6⟩ := k
  exact ⟨h1.trans k1, h2.trans k2, h3.trans k3, by omega, by omega⟩

theorem Unseen.from_open (e : Unseen) (b : Bool) : (e.open' b).From e := by
  cases b <;> exact ⟨rfl, rfl, rfl, by simp [Unseen.open'], .inr rfl⟩

theorem Unseen.from_pieces {e x : Unseen} {a n : Nat} (h : x ∈ e.pieces a n) : x.From e := by
  unfold Unseen.pieces at h
  split at h
  · rw [List.mem_singleton.1 h]; exact Unseen.From.refl e
  · simp only [List.mem_filter, List.mem_append, List.mem_singleton, List.mem_map] at h
    obtain ⟨(rfl | ⟨i, -, rfl⟩) | rfl, -⟩ := h <;> exact ⟨rfl, rfl, rfl, .inl rfl, .inl rfl⟩

theorem Unseen.from_cuts {rs : List Unseen} {l : List Unseen} {x : Unseen}
    (h : x ∈ rs.foldl (fun u r => u.flatMap (Unseen.pieces r.addr r.len)) l) : ∃ e ∈ l, x.From e := by
  induction rs generalizing l with
  | nil => exact ⟨x, h, Unseen.From.refl x⟩
  | cons r t ih =>
    obtain ⟨y, hy, hx⟩ := ih h
    obtain ⟨e, he, hey⟩ := List.mem_flatMap.1 hy
    exact ⟨e, he, hx.trans (Unseen.from_pieces hey)⟩

/-- Making stores visible leaves each store, or its parts, and shows those that it names. -/
theorem mem_openIds {ids : List (Nat × Nat)} {rs l : List Unseen} {x : Unseen} (h : x ∈ openIds ids rs l) :
    ∃ e ∈ l, x.From e ∧ (ids.contains e.id = true → x.vis = 4) := by
  induction l generalizing rs with
  | nil => cases h
  | cons e t ih =>
    unfold openIds at h
    split at h
    · rcases List.mem_cons.1 h with rfl | h
      · exact ⟨e, List.mem_cons_self, Unseen.from_open _ _, fun _ => rfl⟩
      · obtain ⟨f, hf, r⟩ := ih h
        exact ⟨f, List.mem_cons_of_mem _ hf, r⟩
    · rename_i hid
      rcases List.mem_append.1 h with h | h
      · obtain ⟨y, hy, rfl⟩ := List.mem_map.1 h
        obtain ⟨f, hf, hyf⟩ := Unseen.from_cuts hy
        rw [List.mem_singleton.1 hf] at hyf
        refine ⟨e, List.mem_cons_self, ?_, fun hc => absurd hc hid⟩
        split
        · exact (Unseen.from_open _ _).trans hyf
        · exact hyf
      · obtain ⟨f, hf, r⟩ := ih h
        exact ⟨f, List.mem_cons_of_mem _ hf, r⟩

theorem mem_pruned {s : State} {e : Unseen} (h : e ∈ s.pruned.unseen) : e ∈ s.unseen := (List.mem_filter.1 h).1

theorem chained_mem {l : List Unseen} {ids rs : List (Nat × Nat)} {x : Nat × Nat} (h : x ∈ ids) : x ∈ chained ids rs l := by
  induction l generalizing ids rs with
  | nil => exact h
  | cons e t ih =>
    unfold chained
    split
    · refine ih ?_
      split
      · exact h
      · exact List.mem_append_left _ h
    · exact ih h

theorem brought_mem {q a n : Nat} {l : List Unseen} {ids : List (Nat × Nat)} {x : Nat × Nat} (h : x ∈ ids) : x ∈ brought n q a l ids := by
  induction n generalizing ids with
  | zero => exact h
  | succ k ih => exact ih (List.mem_append_left _ h)

/-- What an acquire sees with a store that it read. -/
theorem brought_brings {q a n : Nat} {l : List Unseen} {ids : List (Nat × Nat)} {r e : Unseen} (hn : 0 < n) (hr : r ∈ l) (he : e ∈ l)
    (hid : r.id ∈ ids) (hb : r.brings q a e = true) : e.id ∈ brought n q a l ids := by
  cases n with
  | zero => omega
  | succ k =>
    unfold brought
    refine brought_mem ?_
    by_cases h : ids.contains e.id = true
    · exact List.mem_append_left _ (List.contains_iff_mem.1 h)
    · refine List.mem_append_right _ (List.mem_map.2 ⟨e, List.mem_filter.2 ⟨he, ?_⟩, rfl⟩)
      simp only [Bool.and_eq_true, Bool.not_eq_true', List.any_eq_true]
      exact ⟨by simpa using h, r, hr, List.contains_iff_mem.2 hid, hb⟩

/-! ## Releases, acquires and fences -/

theorem State.lt_nextSeq {s : State} {e : Unseen} (h : e ∈ s.unseen) : e.seq < s.nextSeq := by
  have key : ∀ (l : List Unseen) (n : Nat), n ≤ l.foldl (fun n e => max n (e.seq + 1)) n ∧ ∀ x ∈ l, x.seq < l.foldl (fun n e => max n (e.seq + 1)) n := by
    intro l
    induction l with
    | nil => exact fun n => ⟨le_rfl, fun x hx => absurd hx List.not_mem_nil⟩
    | cons y t ih =>
      intro n
      obtain ⟨h1, h2⟩ := ih (max n (y.seq + 1))
      refine ⟨(le_max_left _ _).trans h1, fun x hx => ?_⟩
      rcases List.mem_cons.1 hx with rfl | hx
      · exact Nat.lt_of_succ_le ((le_max_right _ _).trans h1)
      · exact h2 x hx
  exact (key s.unseen 0).2 e h

/-- A release by an object, and an acquire of another party that reads it within the other's scope instance, show every store of the releasing party (R122, R126). -/
theorem State.release_acquire {s : State} {p q n m : Nat} {k : Nat × Nat} (hpq : p ≠ q) (hq : isInvParty q = false) (hk : 0 < k.2)
    (hd : partyDist p q ≤ min (scopeReach n) (scopeReach m)) {e : Unseen}
    (he : e ∈ ((s.releaseBy p (scopeReach n) false [k]).acquireBy q (scopeReach m) [k]).unseen) (hp : e.party = p) (hf : e.fence = false) : e.mayMiss q = false := by
  have miss : ∀ x : Unseen, x.party = p → 4 ≤ x.vis → x.mayMiss q = false := by
    intro x hx hv
    simp only [Unseen.mayMiss, hx, if_neg hpq, hq, Bool.false_eq_true, if_false, decide_eq_false_iff_not, not_lt]
    exact (partyDist_le _ _).trans hv
  by_contra hc
  simp only [Bool.not_eq_false] at hc
  have hvis : e.vis < 4 := by
    by_contra h
    rw [miss e hp (by omega)] at hc
    cases hc
  -- the store stood before the acquire, and before the release
  have back : ∀ (t : State), e ∈ (t.acquireBy q (scopeReach m) [k]).unseen → (newestAt q k.1 k.2 t.unseen = [] ∧ e ∈ t.unseen) ∨
      ∃ f ∈ t.unseen, f.vis < 4 ∧ f.party = p ∧ f.seq = e.seq := by
    intro t ht
    simp only [State.acquireBy, List.foldl_cons, List.foldl_nil, State.observe] at ht
    split at ht
    · rename_i h; exact .inl ⟨List.isEmpty_iff.1 h, ht⟩
    · right
      unfold State.saw at ht
      obtain ⟨f, hff, hfrom, -⟩ := mem_openIds (mem_pruned ht)
      obtain ⟨g, hg, hgf, -⟩ := mem_openIds hff
      obtain ⟨a1, a2, -, -, a6⟩ := hfrom
      obtain ⟨b1, b2, -, -, b6⟩ := hgf
      exact ⟨g, hg, by omega, by omega, by omega⟩
  set t := s.releaseBy p (scopeReach n) false [k] with ht
  have hstood : ∃ f ∈ (s.orderOwn p 1).unseen, f.vis < 4 ∧ f.party = p ∧ f.seq < s.nextSeq := by
    have hin : ∃ f ∈ t.unseen, f.vis < 4 ∧ f.party = p := by
      rcases back t he with ⟨-, h⟩ | ⟨f, hf, h1, h2, -⟩
      · exact ⟨e, h, hvis, hp⟩
      · exact ⟨f, hf, h1, h2⟩
    obtain ⟨f, hf, h1, h2⟩ := hin
    have hmem : f ∈ (s.orderOwn p 1).unseen := by
      simp only [ht, State.releaseBy] at hf
      split at hf
      · rcases List.mem_append.1 (mem_pruned hf) with hf | hf
        · simp only [List.map_cons, List.map_nil, List.mem_singleton] at hf
          subst hf; exact absurd (show (4 : Nat) < 4 from h1) (by decide)
        · exact hf
      · exact hf
    refine ⟨f, hmem, h1, h2, ?_⟩
    simp only [State.orderOwn, List.mem_map] at hmem
    obtain ⟨g, hg, rfl⟩ := hmem
    have := State.lt_nextSeq hg
    split <;> exact this
  obtain ⟨f0, hf0, hv0, hp0, hs0⟩ := hstood
  -- the release stands at the head
  set r := releaseEntry p s.nextSeq (scopeReach n) false k with hr
  have hany : (s.orderOwn p 1).unseen.any (fun x => decide (x.vis < 4)) = true := List.any_eq_true.2 ⟨f0, hf0, decide_eq_true hv0⟩
  have hcov : ∀ x : Unseen, x.party = p → x.seq < s.nextSeq → r.covers x = true := by
    intro x h1 h2
    simp [Unseen.covers, hr, releaseEntry, newStore, h1, h2]
  have htu : ∃ l, t.unseen = r :: l := by
    simp only [ht, State.releaseBy, hany, if_true, State.pruned, List.map_cons, List.map_nil, List.cons_append, List.nil_append]
    rw [List.filter_cons_of_pos]
    · exact ⟨_, rfl⟩
    · simp only [Bool.or_eq_true]
      refine .inl (.inr ?_)
      simp only [Unseen.pending, Bool.and_eq_true, List.any_eq_true, Bool.or_eq_true, decide_eq_true_eq]
      exact ⟨show (3 : Nat) < 4 by decide, f0, List.mem_cons_of_mem _ hf0, hv0, .inl ⟨scopeReach_pos n, hcov f0 hp0 hs0⟩⟩
  obtain ⟨l, hl⟩ := htu
  have hseq : ∀ x ∈ t.unseen, x.party = p → x.vis < 4 → x.seq < s.nextSeq := by
    intro x hx h1 h2
    simp only [ht, State.releaseBy, hany, if_true] at hx
    rcases List.mem_append.1 (mem_pruned hx) with hx | hx
    · simp only [List.map_cons, List.map_nil, List.mem_singleton] at hx
      subst hx; exact absurd (show (4 : Nat) < 4 from h2) (by decide)
    · simp only [State.orderOwn, List.mem_map] at hx
      obtain ⟨g, hg, rfl⟩ := hx
      have := State.lt_nextSeq hg
      split <;> exact this
  have hnew : r ∈ newestAt q k.1 k.2 t.unseen := by
    refine List.mem_append_left _ (List.mem_filter.2 ⟨hl ▸ List.mem_cons_self, ?_⟩)
    have hm : meets k.1 k.2 k.1 k.2 = true := by
      rw [meets, Bool.and_eq_true]; simp only [decide_eq_true_eq]; omega
    simp [hr, releaseEntry, newStore, hm]
  simp only [State.acquireBy, List.foldl_cons, List.foldl_nil, State.observe] at he
  rw [if_neg (by rw [List.isEmpty_iff]; exact List.ne_nil_of_mem hnew)] at he
  unfold State.saw at he
  set src := newestAt q k.1 k.2 t.unseen
  set ids := (src.filter (fun e => e.party ≠ q)).map Unseen.id with hids
  set u := openIds ids [] t.unseen with hu
  have hrid : ids.contains r.id = true := by
    refine List.contains_iff_mem.2 (List.mem_map.2 ⟨r, List.mem_filter.2 ⟨hnew, ?_⟩, rfl⟩)
    simpa [hr, releaseEntry, newStore] using hpq
  have hru : r.open' false ∈ u := by
    rw [hu, hl, openIds, if_pos hrid]
    exact List.mem_cons_self
  obtain ⟨x, hx, hfrom, hopen⟩ := mem_openIds (mem_pruned he)
  obtain ⟨a1, a2, a3, -, a6⟩ := hfrom
  have hxv : x.vis < 4 := by omega
  have hxp : x.party = p := a1.symm.trans hp
  obtain ⟨y, hy, hxy, -⟩ := mem_openIds hx
  obtain ⟨b1, b2, -, -, b6⟩ := hxy
  have hxs : x.seq < s.nextSeq := by
    rw [b2]
    exact hseq y hy (b1.symm.trans hxp) (by omega)
  have hb : (r.open' false).brings q (scopeReach m) x = true := by
    have h1 : (r.open' false).party = p := rfl
    have h2 : (r.open' false).rel = scopeReach n := rfl
    have h3 : (r.open' false).ord = 3 := rfl
    have h4 : (r.open' false).covers x = true := hcov x hxp hxs
    simp only [Unseen.brings, h1, h2, h3, h4, hxp, a3.symm.trans hf, Bool.false_eq_true, if_false, Bool.and_eq_true, decide_eq_true_eq]
    exact ⟨⟨⟨⟨hpq, hpq⟩, by decide⟩, hd⟩, hxv, trivial⟩
  have hin : x.id ∈ brought u.length q (scopeReach m) u (chained (src.map Unseen.id) [] u) :=
    brought_brings (List.length_pos_of_mem hru) hru hx (chained_mem (List.mem_map.2 ⟨r, hnew, rfl⟩)) hb
  have := hopen (List.contains_iff_mem.2 hin)
  omega

/-- An acquire at objects where no release stands, and no store, changes nothing. -/
theorem State.acquireBy_none {s : State} {q m : Nat} {k : Nat × Nat} (h : ∀ e ∈ s.unseen, meets e.addr e.len k.1 k.2 = false) : s.acquireBy q m [k] = s := by
  simp only [State.acquireBy, List.foldl_cons, List.foldl_nil, State.observe]
  refine if_pos (List.isEmpty_iff.2 ?_)
  simp only [newestAt, List.append_eq_nil_iff]
  constructor
  · rw [List.filter_eq_nil_iff]
    intro e he
    simp [h e he]
  · refine if_neg ?_
    simp only [List.any_eq_true, Unseen.stores, Bool.and_eq_true, not_exists, not_and]
    intro e he _ hm
    rw [h e he] at hm
    cases hm

/-- After a full fence a context's stores are visible within the scope, and none is missed by the context itself (R119, R129). -/
theorem State.fence_own {s : State} {c : CtxId} {n : Nat} {e : Unseen} (he : e ∈ (s.fence c n).unseen) (hp : e.party = partyOf s.coreId c) :
    e.mayMiss (partyOf s.coreId c) = false ∧ scopeReach n ≤ e.vis := by
  simp only [State.fence] at he
  have he := mem_pruned he
  simp only [List.mem_map] at he
  obtain ⟨f, hf, rfl⟩ := he
  have hfp : f.party = partyOf s.coreId c := by revert hp; split <;> exact id
  obtain ⟨g, hg, ⟨a1, -, -, a5, -⟩, -⟩ := mem_openIds (mem_pruned hf)
  simp only [State.orderOwn, List.mem_map] at hg
  obtain ⟨y, -, rfl⟩ := hg
  have hy : y.party = partyOf s.coreId c := by rw [hfp] at a1; revert a1; split <;> exact fun h => h.symm
  have ho : 3 ≤ f.ord := by
    rw [if_pos hy] at a5
    simp only at a5
    omega
  rw [if_pos hfp]
  refine ⟨?_, le_max_right _ _⟩
  simp only [Unseen.mayMiss, hfp, if_true]
  simp [Nat.not_lt.2 ho]

end Sys2Proof.Machine
end

