-- ==== Sys2Proof/Laws/PerInstr.lean ====
section
/-! SUPPORT. For every instruction: the encoding tables give back the constructor whose opcode and fixed fields they are asked for. -/

set_option Elab.async false

namespace Sys2Proof.Laws.Built

/-- The table of constructors, asked for the opcode and the fields of an instruction whose qualifier and modifier are those of its row, gives that instruction (R70, R71). -/
def Statement (i : Instr) : Prop :=
  ∀ (op : Nat) (o : Ops), i.opcode? = some op → i.ops? = some o → i.fixes.admits o.q.toNat o.m.toNat = true →
    build op o.q.toNat o.m.toNat o = some i

theorem nop (o : Ops) : Statement (.nop o) := by
  rintro op o' ⟨⟩ ⟨⟩ -
  rfl

theorem mov (o : Ops) : Statement (.mov o) := by
  rintro op o' ⟨⟩ ⟨⟩ -
  rfl

theorem movi (o : Ops) : Statement (.movi o) := by
  rintro op o' ⟨⟩ ⟨⟩ h
  simp [Instr.fixes, Sub.admits] at h
  simp [build, build0, *]

theorem moviHi (o : Ops) : Statement (.moviHi o) := by
  rintro op o' ⟨⟩ ⟨⟩ h
  simp [Instr.fixes, Sub.admits] at h
  simp [build, build0, *]

theorem add (o : Ops) : Statement (.add o) := by
  rintro op o' ⟨⟩ ⟨⟩ -
  rfl

theorem sub (o : Ops) : Statement (.sub o) := by
  rintro op o' ⟨⟩ ⟨⟩ -
  rfl

theorem addi (o : Ops) : Statement (.addi o) := by
  rintro op o' ⟨⟩ ⟨⟩ -
  rfl

theorem mul (o : Ops) : Statement (.mul o) := by
  rintro op o' ⟨⟩ ⟨⟩ -
  rfl

theorem mulh (o : Ops) : Statement (.mulh o) := by
  rintro op o' ⟨⟩ ⟨⟩ -
  rfl

theorem mulhu (o : Ops) : Statement (.mulhu o) := by
  rintro op o' ⟨⟩ ⟨⟩ -
  rfl

theorem div (o : Ops) : Statement (.div o) := by
  rintro op o' ⟨⟩ ⟨⟩ -
  rfl

theorem divu (o : Ops) : Statement (.divu o) := by
  rintro op o' ⟨⟩ ⟨⟩ -
  rfl

theorem rem (o : Ops) : Statement (.rem o) := by
  rintro op o' ⟨⟩ ⟨⟩ -
  rfl

theorem remu (o : Ops) : Statement (.remu o) := by
  rintro op o' ⟨⟩ ⟨⟩ -
  rfl

theorem and (o : Ops) : Statement (.and o) := by
  rintro op o' ⟨⟩ ⟨⟩ -
  rfl

theorem or (o : Ops) : Statement (.or o) := by
  rintro op o' ⟨⟩ ⟨⟩ -
  rfl

theorem xor (o : Ops) : Statement (.xor o) := by
  rintro op o' ⟨⟩ ⟨⟩ -
  rfl

theorem andi (o : Ops) : Statement (.andi o) := by
  rintro op o' ⟨⟩ ⟨⟩ -
  rfl

theorem ori (o : Ops) : Statement (.ori o) := by
  rintro op o' ⟨⟩ ⟨⟩ -
  rfl

theorem xori (o : Ops) : Statement (.xori o) := by
  rintro op o' ⟨⟩ ⟨⟩ -
  rfl

theorem shl (o : Ops) : Statement (.shl o) := by
  rintro op o' ⟨⟩ ⟨⟩ -
  rfl

theorem shr (o : Ops) : Statement (.shr o) := by
  rintro op o' ⟨⟩ ⟨⟩ -
  rfl

theorem sra (o : Ops) : Statement (.sra o) := by
  rintro op o' ⟨⟩ ⟨⟩ -
  rfl

theorem shli (o : Ops) : Statement (.shli o) := by
  rintro op o' ⟨⟩ ⟨⟩ -
  rfl

theorem shri (o : Ops) : Statement (.shri o) := by
  rintro op o' ⟨⟩ ⟨⟩ -
  rfl

theorem srai (o : Ops) : Statement (.srai o) := by
  rintro op o' ⟨⟩ ⟨⟩ -
  rfl

theorem rol (o : Ops) : Statement (.rol o) := by
  rintro op o' ⟨⟩ ⟨⟩ -
  rfl

theorem slt (o : Ops) : Statement (.slt o) := by
  rintro op o' ⟨⟩ ⟨⟩ -
  rfl

theorem sltu (o : Ops) : Statement (.sltu o) := by
  rintro op o' ⟨⟩ ⟨⟩ -
  rfl

theorem slti (o : Ops) : Statement (.slti o) := by
  rintro op o' ⟨⟩ ⟨⟩ -
  rfl

theorem min (o : Ops) : Statement (.min o) := by
  rintro op o' ⟨⟩ ⟨⟩ -
  rfl

theorem max (o : Ops) : Statement (.max o) := by
  rintro op o' ⟨⟩ ⟨⟩ -
  rfl

theorem minu (o : Ops) : Statement (.minu o) := by
  rintro op o' ⟨⟩ ⟨⟩ -
  rfl

theorem maxu (o : Ops) : Statement (.maxu o) := by
  rintro op o' ⟨⟩ ⟨⟩ -
  rfl

theorem clz (o : Ops) : Statement (.clz o) := by
  rintro op o' ⟨⟩ ⟨⟩ -
  rfl

theorem ctz (o : Ops) : Statement (.ctz o) := by
  rintro op o' ⟨⟩ ⟨⟩ -
  rfl

theorem popc (o : Ops) : Statement (.popc o) := by
  rintro op o' ⟨⟩ ⟨⟩ -
  rfl

theorem bswap (o : Ops) : Statement (.bswap o) := by
  rintro op o' ⟨⟩ ⟨⟩ -
  rfl

theorem ext (o : Ops) : Statement (.ext o) := by
  rintro op o' ⟨⟩ ⟨⟩ -
  rfl

theorem ins (o : Ops) : Statement (.ins o) := by
  rintro op o' ⟨⟩ ⟨⟩ -
  rfl

theorem sext (o : Ops) : Statement (.sext o) := by
  rintro op o' ⟨⟩ ⟨⟩ -
  rfl

theorem lea (o : Ops) : Statement (.lea o) := by
  rintro op o' ⟨⟩ ⟨⟩ -
  rfl

theorem cmpp (o : Ops) : Statement (.cmpp o) := by
  rintro op o' ⟨⟩ ⟨⟩ -
  rfl

theorem beq (o : Ops) : Statement (.beq o) := by
  rintro op o' ⟨⟩ ⟨⟩ -
  rfl

theorem bne (o : Ops) : Statement (.bne o) := by
  rintro op o' ⟨⟩ ⟨⟩ -
  rfl

theorem blt (o : Ops) : Statement (.blt o) := by
  rintro op o' ⟨⟩ ⟨⟩ -
  rfl

theorem bge (o : Ops) : Statement (.bge o) := by
  rintro op o' ⟨⟩ ⟨⟩ -
  rfl

theorem bltu (o : Ops) : Statement (.bltu o) := by
  rintro op o' ⟨⟩ ⟨⟩ -
  rfl

theorem bgeu (o : Ops) : Statement (.bgeu o) := by
  rintro op o' ⟨⟩ ⟨⟩ -
  rfl

theorem jmp (o : Ops) : Statement (.jmp o) := by
  rintro op o' ⟨⟩ ⟨⟩ -
  rfl

theorem jr (o : Ops) : Statement (.jr o) := by
  rintro op o' ⟨⟩ ⟨⟩ -
  rfl

theorem call (o : Ops) : Statement (.call o) := by
  rintro op o' ⟨⟩ ⟨⟩ -
  rfl

theorem ret (o : Ops) : Statement (.ret o) := by
  rintro op o' ⟨⟩ ⟨⟩ -
  rfl

theorem sel (o : Ops) : Statement (.sel o) := by
  rintro op o' ⟨⟩ ⟨⟩ -
  rfl

theorem plog (o : Ops) : Statement (.plog o) := by
  rintro op o' ⟨⟩ ⟨⟩ -
  rfl

theorem pmov (o : Ops) : Statement (.pmov o) := by
  rintro op o' ⟨⟩ ⟨⟩ h
  simp [Instr.fixes, Sub.admits] at h
  simp [build, build3, *]

theorem pmovFrom (o : Ops) : Statement (.pmovFrom o) := by
  rintro op o' ⟨⟩ ⟨⟩ h
  simp [Instr.fixes, Sub.admits] at h
  simp [build, build3, *]

theorem pmovTo (o : Ops) : Statement (.pmovTo o) := by
  rintro op o' ⟨⟩ ⟨⟩ h
  simp [Instr.fixes, Sub.admits] at h
  simp [build, build3, *]

theorem mfc (o : Ops) : Statement (.mfc o) := by
  rintro op o' ⟨⟩ ⟨⟩ -
  rfl

theorem mtc (o : Ops) : Statement (.mtc o) := by
  rintro op o' ⟨⟩ ⟨⟩ -
  rfl

theorem budget (o : Ops) : Statement (.budget o) := by
  rintro op o' ⟨⟩ ⟨⟩ h
  simp [Instr.fixes, Sub.admits] at h
  simp [build, build3, *]

theorem budgetSet (o : Ops) : Statement (.budgetSet o) := by
  rintro op o' ⟨⟩ ⟨⟩ h
  simp [Instr.fixes, Sub.admits] at h
  simp [build, build3, *]

theorem aend (o : Ops) : Statement (.aend o) := by
  rintro op o' ⟨⟩ ⟨⟩ -
  rfl

theorem fadd (o : Ops) : Statement (.fadd o) := by
  rintro op o' ⟨⟩ ⟨⟩ -
  rfl

theorem fmul (o : Ops) : Statement (.fmul o) := by
  rintro op o' ⟨⟩ ⟨⟩ -
  rfl

theorem fdiv (o : Ops) : Statement (.fdiv o) := by
  rintro op o' ⟨⟩ ⟨⟩ -
  rfl

theorem fcvtF2i (o : Ops) : Statement (.fcvtF2i o) := by
  rintro op o' ⟨⟩ ⟨⟩ h
  simp [Instr.fixes, Sub.admits] at h
  simp [build, build3, *]

theorem fcvtI2f (o : Ops) : Statement (.fcvtI2f o) := by
  rintro op o' ⟨⟩ ⟨⟩ h
  simp [Instr.fixes, Sub.admits] at h
  simp [build, build3, *]

theorem fcvtU2f (o : Ops) : Statement (.fcvtU2f o) := by
  rintro op o' ⟨⟩ ⟨⟩ h
  simp [Instr.fixes, Sub.admits] at h
  simp [build, build3, *]

theorem fcvtF2bf (o : Ops) : Statement (.fcvtF2bf o) := by
  rintro op o' ⟨⟩ ⟨⟩ h
  simp [Instr.fixes, Sub.admits] at h
  simp [build, build3, *]

theorem fcvtBf2f (o : Ops) : Statement (.fcvtBf2f o) := by
  rintro op o' ⟨⟩ ⟨⟩ h
  simp [Instr.fixes, Sub.admits] at h
  simp [build, build3, *]

theorem fcvtF2h (o : Ops) : Statement (.fcvtF2h o) := by
  rintro op o' ⟨⟩ ⟨⟩ h
  simp [Instr.fixes, Sub.admits] at h
  simp [build, build3, *]

theorem fcvtH2f (o : Ops) : Statement (.fcvtH2f o) := by
  rintro op o' ⟨⟩ ⟨⟩ h
  simp [Instr.fixes, Sub.admits] at h
  simp [build, build3, *]

theorem fcvtF2e4 (o : Ops) : Statement (.fcvtF2e4 o) := by
  rintro op o' ⟨⟩ ⟨⟩ h
  simp [Instr.fixes, Sub.admits] at h
  simp [build, build3, *]

theorem fcvtE42f (o : Ops) : Statement (.fcvtE42f o) := by
  rintro op o' ⟨⟩ ⟨⟩ h
  simp [Instr.fixes, Sub.admits] at h
  simp [build, build3, *]

theorem fcmp (o : Ops) : Statement (.fcmp o) := by
  rintro op o' ⟨⟩ ⟨⟩ -
  rfl

theorem gpeek (o : Ops) : Statement (.gpeek o) := by
  rintro op o' ⟨⟩ ⟨⟩ -
  rfl

theorem gskip (o : Ops) : Statement (.gskip o) := by
  rintro op o' ⟨⟩ ⟨⟩ -
  rfl

theorem gpush (o : Ops) : Statement (.gpush o) := by
  rintro op o' ⟨⟩ ⟨⟩ -
  rfl

theorem gpop (o : Ops) : Statement (.gpop o) := by
  rintro op o' ⟨⟩ ⟨⟩ -
  rfl

theorem gfstat (o : Ops) : Statement (.gfstat o) := by
  rintro op o' ⟨⟩ ⟨⟩ -
  rfl

theorem gresume (o : Ops) : Statement (.gresume o) := by
  rintro op o' ⟨⟩ ⟨⟩ h
  simp [Instr.fixes, Sub.admits] at h
  simp [build, build4, *]

theorem gresumeRecover (o : Ops) : Statement (.gresumeRecover o) := by
  rintro op o' ⟨⟩ ⟨⟩ h
  simp [Instr.fixes, Sub.admits] at h
  simp [build, build4, *]

theorem markif (o : Ops) : Statement (.markif o) := by
  rintro op o' ⟨⟩ ⟨⟩ -
  rfl

theorem markemit (o : Ops) : Statement (.markemit o) := by
  rintro op o' ⟨⟩ ⟨⟩ h
  simp [Instr.fixes, Sub.admits] at h
  simp [build, build4, *]

theorem markemitR (o : Ops) : Statement (.markemitR o) := by
  rintro op o' ⟨⟩ ⟨⟩ h
  simp [Instr.fixes, Sub.admits] at h
  simp [build, build4, *]

theorem sigdec (o : Ops) : Statement (.sigdec o) := by
  rintro op o' ⟨⟩ ⟨⟩ -
  rfl

theorem sigwait (o : Ops) : Statement (.sigwait o) := by
  rintro op o' ⟨⟩ ⟨⟩ h
  simp [Instr.fixes, Sub.admits] at h
  simp [build, build4, *]

theorem sigwaitPoll (o : Ops) : Statement (.sigwaitPoll o) := by
  rintro op o' ⟨⟩ ⟨⟩ h
  simp [Instr.fixes, Sub.admits] at h
  simp [build, build4, *]

theorem sigset (o : Ops) : Statement (.sigset o) := by
  rintro op o' ⟨⟩ ⟨⟩ -
  rfl

theorem ligcfgTerm (o : Ops) : Statement (.ligcfgTerm o) := by
  rintro op o' ⟨⟩ ⟨⟩ h
  simp [Instr.fixes, Sub.admits] at h
  simp [build, build4, *]

theorem ligcfgSrc (o : Ops) : Statement (.ligcfgSrc o) := by
  rintro op o' ⟨⟩ ⟨⟩ h
  simp [Instr.fixes, Sub.admits] at h
  simp [build, build4, *]

theorem ligcfgTread (o : Ops) : Statement (.ligcfgTread o) := by
  rintro op o' ⟨⟩ ⟨⟩ h
  simp [Instr.fixes, Sub.admits] at h
  simp [build, build4, *]

theorem ligcntRd (o : Ops) : Statement (.ligcntRd o) := by
  rintro op o' ⟨⟩ ⟨⟩ h
  simp [Instr.fixes, Sub.admits] at h
  simp [build, build4, *]

theorem ligcntSet (o : Ops) : Statement (.ligcntSet o) := by
  rintro op o' ⟨⟩ ⟨⟩ h
  simp [Instr.fixes, Sub.admits] at h
  simp [build, build4, *]

theorem ligcntSub (o : Ops) : Statement (.ligcntSub o) := by
  rintro op o' ⟨⟩ ⟨⟩ h
  simp [Instr.fixes, Sub.admits] at h
  simp [build, build4, *]

theorem ligcntClrv (o : Ops) : Statement (.ligcntClrv o) := by
  rintro op o' ⟨⟩ ⟨⟩ h
  simp [Instr.fixes, Sub.admits] at h
  simp [build, build4, *]

theorem ligfire (o : Ops) : Statement (.ligfire o) := by
  rintro op o' ⟨⟩ ⟨⟩ -
  rfl

theorem gstate (o : Ops) : Statement (.gstate o) := by
  rintro op o' ⟨⟩ ⟨⟩ h
  simp [Instr.fixes, Sub.admits] at h
  simp [build, build4, *]

theorem gstateStk (o : Ops) : Statement (.gstateStk o) := by
  rintro op o' ⟨⟩ ⟨⟩ h
  simp [Instr.fixes, Sub.admits] at h
  simp [build, build4, *]

theorem evwait (o : Ops) : Statement (.evwait o) := by
  rintro op o' ⟨⟩ ⟨⟩ -
  rfl

theorem ld (o : Ops) : Statement (.ld o) := by
  rintro op o' ⟨⟩ ⟨⟩ -
  rfl

theorem st (o : Ops) : Statement (.st o) := by
  rintro op o' ⟨⟩ ⟨⟩ -
  rfl

theorem ldx (o : Ops) : Statement (.ldx o) := by
  rintro op o' ⟨⟩ ⟨⟩ -
  rfl

theorem stx (o : Ops) : Statement (.stx o) := by
  rintro op o' ⟨⟩ ⟨⟩ -
  rfl

theorem ldv (o : Ops) : Statement (.ldv o) := by
  rintro op o' ⟨⟩ ⟨⟩ -
  rfl

theorem stv (o : Ops) : Statement (.stv o) := by
  rintro op o' ⟨⟩ ⟨⟩ -
  rfl

theorem ldg (o : Ops) : Statement (.ldg o) := by
  rintro op o' ⟨⟩ ⟨⟩ -
  rfl

theorem sct (o : Ops) : Statement (.sct o) := by
  rintro op o' ⟨⟩ ⟨⟩ -
  rfl

theorem spld (o : Ops) : Statement (.spld o) := by
  rintro op o' ⟨⟩ ⟨⟩ -
  rfl

theorem spst (o : Ops) : Statement (.spst o) := by
  rintro op o' ⟨⟩ ⟨⟩ -
  rfl

theorem spldv (o : Ops) : Statement (.spldv o) := by
  rintro op o' ⟨⟩ ⟨⟩ -
  rfl

theorem spstv (o : Ops) : Statement (.spstv o) := by
  rintro op o' ⟨⟩ ⟨⟩ -
  rfl

theorem aadd (o : Ops) : Statement (.aadd o) := by
  rintro op o' ⟨⟩ ⟨⟩ -
  rfl

theorem aand (o : Ops) : Statement (.aand o) := by
  rintro op o' ⟨⟩ ⟨⟩ -
  rfl

theorem aor (o : Ops) : Statement (.aor o) := by
  rintro op o' ⟨⟩ ⟨⟩ -
  rfl

theorem axor (o : Ops) : Statement (.axor o) := by
  rintro op o' ⟨⟩ ⟨⟩ -
  rfl

theorem amin (o : Ops) : Statement (.amin o) := by
  rintro op o' ⟨⟩ ⟨⟩ -
  rfl

theorem amax (o : Ops) : Statement (.amax o) := by
  rintro op o' ⟨⟩ ⟨⟩ -
  rfl

theorem aminu (o : Ops) : Statement (.aminu o) := by
  rintro op o' ⟨⟩ ⟨⟩ -
  rfl

theorem amaxu (o : Ops) : Statement (.amaxu o) := by
  rintro op o' ⟨⟩ ⟨⟩ -
  rfl

theorem aswp (o : Ops) : Statement (.aswp o) := by
  rintro op o' ⟨⟩ ⟨⟩ -
  rfl

theorem acas (o : Ops) : Statement (.acas o) := by
  rintro op o' ⟨⟩ ⟨⟩ -
  rfl

theorem afadd (o : Ops) : Statement (.afadd o) := by
  rintro op o' ⟨⟩ ⟨⟩ -
  rfl

theorem fence (o : Ops) : Statement (.fence o) := by
  rintro op o' ⟨⟩ ⟨⟩ h
  simp [Instr.fixes, Sub.admits] at h
  simp [build, build6, *]

theorem fenceAcq (o : Ops) : Statement (.fenceAcq o) := by
  rintro op o' ⟨⟩ ⟨⟩ h
  simp [Instr.fixes, Sub.admits] at h
  simp [build, build6, *]

theorem fenceRel (o : Ops) : Statement (.fenceRel o) := by
  rintro op o' ⟨⟩ ⟨⟩ h
  simp [Instr.fixes, Sub.admits] at h
  simp [build, build6, *]

theorem ldacq (o : Ops) : Statement (.ldacq o) := by
  rintro op o' ⟨⟩ ⟨⟩ -
  rfl

theorem strel (o : Ops) : Statement (.strel o) := by
  rintro op o' ⟨⟩ ⟨⟩ -
  rfl

theorem pref (o : Ops) : Statement (.pref o) := by
  rintro op o' ⟨⟩ ⟨⟩ -
  rfl

theorem cwb (o : Ops) : Statement (.cwb o) := by
  rintro op o' ⟨⟩ ⟨⟩ -
  rfl

theorem cinv (o : Ops) : Statement (.cinv o) := by
  rintro op o' ⟨⟩ ⟨⟩ h
  simp [Instr.fixes, Sub.admits] at h
  simp [build, build6, *]

theorem cinvI (o : Ops) : Statement (.cinvI o) := by
  rintro op o' ⟨⟩ ⟨⟩ h
  simp [Instr.fixes, Sub.admits] at h
  simp [build, build6, *]

theorem ldnt (o : Ops) : Statement (.ldnt o) := by
  rintro op o' ⟨⟩ ⟨⟩ -
  rfl

theorem stnt (o : Ops) : Statement (.stnt o) := by
  rintro op o' ⟨⟩ ⟨⟩ -
  rfl

theorem tidset (o : Ops) : Statement (.tidset o) := by
  rintro op o' ⟨⟩ ⟨⟩ -
  rfl

theorem tidget (o : Ops) : Statement (.tidget o) := by
  rintro op o' ⟨⟩ ⟨⟩ -
  rfl

theorem tidmodBase (o : Ops) : Statement (.tidmodBase o) := by
  rintro op o' ⟨⟩ ⟨⟩ h
  simp [Instr.fixes, Sub.admits] at h
  simp [build, build7, *]

theorem tidmodSbase (o : Ops) : Statement (.tidmodSbase o) := by
  rintro op o' ⟨⟩ ⟨⟩ h
  simp [Instr.fixes, Sub.admits] at h
  simp [build, build7, *]

theorem tidmodSize (o : Ops) : Statement (.tidmodSize o) := by
  rintro op o' ⟨⟩ ⟨⟩ h
  simp [Instr.fixes, Sub.admits] at h
  simp [build, build7, *]

theorem tidmodStride (o : Ops) : Statement (.tidmodStride o) := by
  rintro op o' ⟨⟩ ⟨⟩ h
  simp [Instr.fixes, Sub.admits] at h
  simp [build, build7, *]

theorem tidmodValid (o : Ops) : Statement (.tidmodValid o) := by
  rintro op o' ⟨⟩ ⟨⟩ h
  simp [Instr.fixes, Sub.admits] at h
  simp [build, build7, *]

theorem tidmodAddbase (o : Ops) : Statement (.tidmodAddbase o) := by
  rintro op o' ⟨⟩ ⟨⟩ h
  simp [Instr.fixes, Sub.admits] at h
  simp [build, build7, *]

theorem tidchk (o : Ops) : Statement (.tidchk o) := by
  rintro op o' ⟨⟩ ⟨⟩ -
  rfl

theorem pbind (o : Ops) : Statement (.pbind o) := by
  rintro op o' ⟨⟩ ⟨⟩ -
  rfl

theorem punbind (o : Ops) : Statement (.punbind o) := by
  rintro op o' ⟨⟩ ⟨⟩ -
  rfl

theorem pseek (o : Ops) : Statement (.pseek o) := by
  rintro op o' ⟨⟩ ⟨⟩ -
  rfl

theorem pstat (o : Ops) : Statement (.pstat o) := by
  rintro op o' ⟨⟩ ⟨⟩ -
  rfl

theorem pwin (o : Ops) : Statement (.pwin o) := by
  rintro op o' ⟨⟩ ⟨⟩ -
  rfl

theorem pxform (o : Ops) : Statement (.pxform o) := by
  rintro op o' ⟨⟩ ⟨⟩ -
  rfl

theorem cpy (o : Ops) : Statement (.cpy o) := by
  rintro op o' ⟨⟩ ⟨⟩ -
  rfl

theorem cpys (o : Ops) : Statement (.cpys o) := by
  rintro op o' ⟨⟩ ⟨⟩ -
  rfl

theorem cpyt (o : Ops) : Statement (.cpyt o) := by
  rintro op o' ⟨⟩ ⟨⟩ -
  rfl

theorem cpyq (o : Ops) : Statement (.cpyq o) := by
  rintro op o' ⟨⟩ ⟨⟩ -
  rfl

theorem cpyr (o : Ops) : Statement (.cpyr o) := by
  rintro op o' ⟨⟩ ⟨⟩ -
  rfl

theorem cpyw (o : Ops) : Statement (.cpyw o) := by
  rintro op o' ⟨⟩ ⟨⟩ -
  rfl

theorem barinit (o : Ops) : Statement (.barinit o) := by
  rintro op o' ⟨⟩ ⟨⟩ -
  rfl

theorem bararm (o : Ops) : Statement (.bararm o) := by
  rintro op o' ⟨⟩ ⟨⟩ -
  rfl

theorem barwait (o : Ops) : Statement (.barwait o) := by
  rintro op o' ⟨⟩ ⟨⟩ -
  rfl

theorem bartest (o : Ops) : Statement (.bartest o) := by
  rintro op o' ⟨⟩ ⟨⟩ -
  rfl

theorem bararr (o : Ops) : Statement (.bararr o) := by
  rintro op o' ⟨⟩ ⟨⟩ -
  rfl

theorem sptlook (o : Ops) : Statement (.sptlook o) := by
  rintro op o' ⟨⟩ ⟨⟩ -
  rfl

theorem sptins (o : Ops) : Statement (.sptins o) := by
  rintro op o' ⟨⟩ ⟨⟩ -
  rfl

theorem sptevict (o : Ops) : Statement (.sptevict o) := by
  rintro op o' ⟨⟩ ⟨⟩ -
  rfl

theorem sptread (o : Ops) : Statement (.sptread o) := by
  rintro op o' ⟨⟩ ⟨⟩ -
  rfl

theorem feset (o : Ops) : Statement (.feset o) := by
  rintro op o' ⟨⟩ ⟨⟩ -
  rfl

theorem feclr (o : Ops) : Statement (.feclr o) := by
  rintro op o' ⟨⟩ ⟨⟩ -
  rfl

theorem fetest (o : Ops) : Statement (.fetest o) := by
  rintro op o' ⟨⟩ ⟨⟩ -
  rfl

theorem pflush (o : Ops) : Statement (.pflush o) := by
  rintro op o' ⟨⟩ ⟨⟩ -
  rfl

theorem circ (o : Ops) : Statement (.circ o) := by
  rintro op o' ⟨⟩ ⟨⟩ -
  rfl

theorem mxmma (o : Ops) : Statement (.mxmma o) := by
  rintro op o' ⟨⟩ ⟨⟩ -
  rfl

theorem mxzero (o : Ops) : Statement (.mxzero o) := by
  rintro op o' ⟨⟩ ⟨⟩ -
  rfl

theorem mxldacc (o : Ops) : Statement (.mxldacc o) := by
  rintro op o' ⟨⟩ ⟨⟩ -
  rfl

theorem mxstacc (o : Ops) : Statement (.mxstacc o) := by
  rintro op o' ⟨⟩ ⟨⟩ -
  rfl

theorem mxwload (o : Ops) : Statement (.mxwload o) := by
  rintro op o' ⟨⟩ ⟨⟩ -
  rfl

theorem mxwdrop (o : Ops) : Statement (.mxwdrop o) := by
  rintro op o' ⟨⟩ ⟨⟩ h
  simp [Instr.fixes, Sub.admits] at h
  simp [build, build9, *]

theorem mxwdropAll (o : Ops) : Statement (.mxwdropAll o) := by
  rintro op o' ⟨⟩ ⟨⟩ h
  simp [Instr.fixes, Sub.admits] at h
  simp [build, build9, *]

theorem mxscale (o : Ops) : Statement (.mxscale o) := by
  rintro op o' ⟨⟩ ⟨⟩ -
  rfl

theorem mxfmt (o : Ops) : Statement (.mxfmt o) := by
  rintro op o' ⟨⟩ ⟨⟩ -
  rfl

theorem mxchainOff (o : Ops) : Statement (.mxchainOff o) := by
  rintro op o' ⟨⟩ ⟨⟩ h
  simp [Instr.fixes, Sub.admits] at h
  simp [build, build9, *]

theorem mxchainScale (o : Ops) : Statement (.mxchainScale o) := by
  rintro op o' ⟨⟩ ⟨⟩ h
  simp [Instr.fixes, Sub.admits] at h
  simp [build, build9, *]

theorem mxchainBias (o : Ops) : Statement (.mxchainBias o) := by
  rintro op o' ⟨⟩ ⟨⟩ h
  simp [Instr.fixes, Sub.admits] at h
  simp [build, build9, *]

theorem mxchainResid (o : Ops) : Statement (.mxchainResid o) := by
  rintro op o' ⟨⟩ ⟨⟩ h
  simp [Instr.fixes, Sub.admits] at h
  simp [build, build9, *]

theorem mxchainAct (o : Ops) : Statement (.mxchainAct o) := by
  rintro op o' ⟨⟩ ⟨⟩ h
  simp [Instr.fixes, Sub.admits] at h
  simp [build, build9, *]

theorem mxchainClamp (o : Ops) : Statement (.mxchainClamp o) := by
  rintro op o' ⟨⟩ ⟨⟩ h
  simp [Instr.fixes, Sub.admits] at h
  simp [build, build9, *]

theorem mxchainQnt (o : Ops) : Statement (.mxchainQnt o) := by
  rintro op o' ⟨⟩ ⟨⟩ h
  simp [Instr.fixes, Sub.admits] at h
  simp [build, build9, *]

theorem mxskipOff (o : Ops) : Statement (.mxskipOff o) := by
  rintro op o' ⟨⟩ ⟨⟩ h
  simp [Instr.fixes, Sub.admits] at h
  simp [build, build9, *]

theorem mxskipOn (o : Ops) : Statement (.mxskipOn o) := by
  rintro op o' ⟨⟩ ⟨⟩ h
  simp [Instr.fixes, Sub.admits] at h
  simp [build, build9, *]

theorem mxskipRd (o : Ops) : Statement (.mxskipRd o) := by
  rintro op o' ⟨⟩ ⟨⟩ h
  simp [Instr.fixes, Sub.admits] at h
  simp [build, build9, *]

theorem mxwait (o : Ops) : Statement (.mxwait o) := by
  rintro op o' ⟨⟩ ⟨⟩ h
  simp [Instr.fixes, Sub.admits] at h
  simp [build, build9, *]

theorem mxwaitAll (o : Ops) : Statement (.mxwaitAll o) := by
  rintro op o' ⟨⟩ ⟨⟩ h
  simp [Instr.fixes, Sub.admits] at h
  simp [build, build9, *]

theorem mxstat (o : Ops) : Statement (.mxstat o) := by
  rintro op o' ⟨⟩ ⟨⟩ h
  simp [Instr.fixes, Sub.admits] at h
  simp [build, build9, *]

theorem mxstatSlot (o : Ops) : Statement (.mxstatSlot o) := by
  rintro op o' ⟨⟩ ⟨⟩ h
  simp [Instr.fixes, Sub.admits] at h
  simp [build, build9, *]

theorem mxstatZmask (o : Ops) : Statement (.mxstatZmask o) := by
  rintro op o' ⟨⟩ ⟨⟩ h
  simp [Instr.fixes, Sub.admits] at h
  simp [build, build9, *]

theorem mxstatSkipcnt (o : Ops) : Statement (.mxstatSkipcnt o) := by
  rintro op o' ⟨⟩ ⟨⟩ h
  simp [Instr.fixes, Sub.admits] at h
  simp [build, build9, *]

theorem vadd (o : Ops) : Statement (.vadd o) := by
  rintro op o' ⟨⟩ ⟨⟩ -
  rfl

theorem vsub (o : Ops) : Statement (.vsub o) := by
  rintro op o' ⟨⟩ ⟨⟩ -
  rfl

theorem vmul (o : Ops) : Statement (.vmul o) := by
  rintro op o' ⟨⟩ ⟨⟩ -
  rfl

theorem vfma (o : Ops) : Statement (.vfma o) := by
  rintro op o' ⟨⟩ ⟨⟩ -
  rfl

theorem vfms (o : Ops) : Statement (.vfms o) := by
  rintro op o' ⟨⟩ ⟨⟩ -
  rfl

theorem vdiv (o : Ops) : Statement (.vdiv o) := by
  rintro op o' ⟨⟩ ⟨⟩ -
  rfl

theorem vsqrt (o : Ops) : Statement (.vsqrt o) := by
  rintro op o' ⟨⟩ ⟨⟩ -
  rfl

theorem vrsq (o : Ops) : Statement (.vrsq o) := by
  rintro op o' ⟨⟩ ⟨⟩ -
  rfl

theorem vrcp (o : Ops) : Statement (.vrcp o) := by
  rintro op o' ⟨⟩ ⟨⟩ -
  rfl

theorem vmin (o : Ops) : Statement (.vmin o) := by
  rintro op o' ⟨⟩ ⟨⟩ -
  rfl

theorem vmax (o : Ops) : Statement (.vmax o) := by
  rintro op o' ⟨⟩ ⟨⟩ -
  rfl

theorem vabs (o : Ops) : Statement (.vabs o) := by
  rintro op o' ⟨⟩ ⟨⟩ -
  rfl

theorem vneg (o : Ops) : Statement (.vneg o) := by
  rintro op o' ⟨⟩ ⟨⟩ -
  rfl

theorem vfn (o : Ops) : Statement (.vfn o) := by
  rintro op o' ⟨⟩ ⟨⟩ -
  rfl

theorem vscaleb (o : Ops) : Statement (.vscaleb o) := by
  rintro op o' ⟨⟩ ⟨⟩ -
  rfl

theorem vround (o : Ops) : Statement (.vround o) := by
  rintro op o' ⟨⟩ ⟨⟩ -
  rfl

theorem vclass (o : Ops) : Statement (.vclass o) := by
  rintro op o' ⟨⟩ ⟨⟩ -
  rfl

theorem vcvtF2i (o : Ops) : Statement (.vcvtF2i o) := by
  rintro op o' ⟨⟩ ⟨⟩ h
  simp [Instr.fixes, Sub.admits] at h
  simp [build, buildB, *]

theorem vcvtI2f (o : Ops) : Statement (.vcvtI2f o) := by
  rintro op o' ⟨⟩ ⟨⟩ h
  simp [Instr.fixes, Sub.admits] at h
  simp [build, buildB, *]

theorem vcvtUi2f (o : Ops) : Statement (.vcvtUi2f o) := by
  rintro op o' ⟨⟩ ⟨⟩ h
  simp [Instr.fixes, Sub.admits] at h
  simp [build, buildB, *]

theorem vcvtF2bf (o : Ops) : Statement (.vcvtF2bf o) := by
  rintro op o' ⟨⟩ ⟨⟩ h
  simp [Instr.fixes, Sub.admits] at h
  simp [build, buildB, *]

theorem vcvtBf2f (o : Ops) : Statement (.vcvtBf2f o) := by
  rintro op o' ⟨⟩ ⟨⟩ h
  simp [Instr.fixes, Sub.admits] at h
  simp [build, buildB, *]

theorem vcvtF2h (o : Ops) : Statement (.vcvtF2h o) := by
  rintro op o' ⟨⟩ ⟨⟩ h
  simp [Instr.fixes, Sub.admits] at h
  simp [build, buildB, *]

theorem vcvtH2f (o : Ops) : Statement (.vcvtH2f o) := by
  rintro op o' ⟨⟩ ⟨⟩ h
  simp [Instr.fixes, Sub.admits] at h
  simp [build, buildB, *]

theorem vcvtF2e4 (o : Ops) : Statement (.vcvtF2e4 o) := by
  rintro op o' ⟨⟩ ⟨⟩ h
  simp [Instr.fixes, Sub.admits] at h
  simp [build, buildB, *]

theorem vcvtE42f (o : Ops) : Statement (.vcvtE42f o) := by
  rintro op o' ⟨⟩ ⟨⟩ h
  simp [Instr.fixes, Sub.admits] at h
  simp [build, buildB, *]

theorem vcvtF2e5 (o : Ops) : Statement (.vcvtF2e5 o) := by
  rintro op o' ⟨⟩ ⟨⟩ h
  simp [Instr.fixes, Sub.admits] at h
  simp [build, buildB, *]

theorem vcvtE52f (o : Ops) : Statement (.vcvtE52f o) := by
  rintro op o' ⟨⟩ ⟨⟩ h
  simp [Instr.fixes, Sub.admits] at h
  simp [build, buildB, *]

theorem vcvtF2i8 (o : Ops) : Statement (.vcvtF2i8 o) := by
  rintro op o' ⟨⟩ ⟨⟩ h
  simp [Instr.fixes, Sub.admits] at h
  simp [build, buildB, *]

theorem vcvtI82f (o : Ops) : Statement (.vcvtI82f o) := by
  rintro op o' ⟨⟩ ⟨⟩ h
  simp [Instr.fixes, Sub.admits] at h
  simp [build, buildB, *]

theorem vqntE4m3 (o : Ops) : Statement (.vqntE4m3 o) := by
  rintro op o' ⟨⟩ ⟨⟩ h
  simp [Instr.fixes, Sub.admits] at h
  simp [build, buildB, *]

theorem vqntBfp (o : Ops) : Statement (.vqntBfp o) := by
  rintro op o' ⟨⟩ ⟨⟩ h
  simp [Instr.fixes, Sub.admits] at h
  simp [build, buildB, *]; try omega

theorem vdqnt (o : Ops) : Statement (.vdqnt o) := by
  rintro op o' ⟨⟩ ⟨⟩ -
  rfl

theorem vcmp (o : Ops) : Statement (.vcmp o) := by
  rintro op o' ⟨⟩ ⟨⟩ -
  rfl

theorem vsel (o : Ops) : Statement (.vsel o) := by
  rintro op o' ⟨⟩ ⟨⟩ -
  rfl

theorem viadd (o : Ops) : Statement (.viadd o) := by
  rintro op o' ⟨⟩ ⟨⟩ -
  rfl

theorem visub (o : Ops) : Statement (.visub o) := by
  rintro op o' ⟨⟩ ⟨⟩ -
  rfl

theorem vimul (o : Ops) : Statement (.vimul o) := by
  rintro op o' ⟨⟩ ⟨⟩ -
  rfl

theorem vimad (o : Ops) : Statement (.vimad o) := by
  rintro op o' ⟨⟩ ⟨⟩ -
  rfl

theorem vand (o : Ops) : Statement (.vand o) := by
  rintro op o' ⟨⟩ ⟨⟩ -
  rfl

theorem vor (o : Ops) : Statement (.vor o) := by
  rintro op o' ⟨⟩ ⟨⟩ -
  rfl

theorem vxor (o : Ops) : Statement (.vxor o) := by
  rintro op o' ⟨⟩ ⟨⟩ -
  rfl

theorem vshl (o : Ops) : Statement (.vshl o) := by
  rintro op o' ⟨⟩ ⟨⟩ -
  rfl

theorem vshr (o : Ops) : Statement (.vshr o) := by
  rintro op o' ⟨⟩ ⟨⟩ -
  rfl

theorem vsra (o : Ops) : Statement (.vsra o) := by
  rintro op o' ⟨⟩ ⟨⟩ -
  rfl

theorem vclz (o : Ops) : Statement (.vclz o) := by
  rintro op o' ⟨⟩ ⟨⟩ -
  rfl

theorem vpopc (o : Ops) : Statement (.vpopc o) := by
  rintro op o' ⟨⟩ ⟨⟩ -
  rfl

theorem vred (o : Ops) : Statement (.vred o) := by
  rintro op o' ⟨⟩ ⟨⟩ -
  rfl

theorem vscan (o : Ops) : Statement (.vscan o) := by
  rintro op o' ⟨⟩ ⟨⟩ -
  rfl

theorem vbcast (o : Ops) : Statement (.vbcast o) := by
  rintro op o' ⟨⟩ ⟨⟩ h
  simp [Instr.fixes, Sub.admits] at h
  simp [build, buildC, *]

theorem vbcastLane (o : Ops) : Statement (.vbcastLane o) := by
  rintro op o' ⟨⟩ ⟨⟩ h
  simp [Instr.fixes, Sub.admits] at h
  simp [build, buildC, *]

theorem vextr (o : Ops) : Statement (.vextr o) := by
  rintro op o' ⟨⟩ ⟨⟩ -
  rfl

theorem vins (o : Ops) : Statement (.vins o) := by
  rintro op o' ⟨⟩ ⟨⟩ -
  rfl

theorem vperm (o : Ops) : Statement (.vperm o) := by
  rintro op o' ⟨⟩ ⟨⟩ -
  rfl

theorem vrot (o : Ops) : Statement (.vrot o) := by
  rintro op o' ⟨⟩ ⟨⟩ -
  rfl

theorem viota (o : Ops) : Statement (.viota o) := by
  rintro op o' ⟨⟩ ⟨⟩ -
  rfl

theorem vsort (o : Ops) : Statement (.vsort o) := by
  rintro op o' ⟨⟩ ⟨⟩ -
  rfl

theorem vtopk (o : Ops) : Statement (.vtopk o) := by
  rintro op o' ⟨⟩ ⟨⟩ -
  rfl

theorem vgate (o : Ops) : Statement (.vgate o) := by
  rintro op o' ⟨⟩ ⟨⟩ h
  simp [Instr.fixes, Sub.admits] at h
  simp [build, buildC, *]

theorem vgateRenorm (o : Ops) : Statement (.vgateRenorm o) := by
  rintro op o' ⟨⟩ ⟨⟩ h
  simp [Instr.fixes, Sub.admits] at h
  simp [build, buildC, *]

theorem vhist (o : Ops) : Statement (.vhist o) := by
  rintro op o' ⟨⟩ ⟨⟩ -
  rfl

theorem vprng (o : Ops) : Statement (.vprng o) := by
  rintro op o' ⟨⟩ ⟨⟩ -
  rfl

theorem vprd (o : Ops) : Statement (.vprd o) := by
  rintro op o' ⟨⟩ ⟨⟩ -
  rfl

theorem vpwr (o : Ops) : Statement (.vpwr o) := by
  rintro op o' ⟨⟩ ⟨⟩ -
  rfl

theorem vpcnt (o : Ops) : Statement (.vpcnt o) := by
  rintro op o' ⟨⟩ ⟨⟩ -
  rfl

theorem vplogNz (o : Ops) : Statement (.vplogNz o) := by
  rintro op o' ⟨⟩ ⟨⟩ h
  simp [Instr.fixes, Sub.admits] at h
  simp [build, buildD, *]

theorem vplogBit (o : Ops) : Statement (.vplogBit o) := by
  rintro op o' ⟨⟩ ⟨⟩ h
  simp [Instr.fixes, Sub.admits] at h
  simp [build, buildD, *]

theorem vplogP2v (o : Ops) : Statement (.vplogP2v o) := by
  rintro op o' ⟨⟩ ⟨⟩ h
  simp [Instr.fixes, Sub.admits] at h
  simp [build, buildD, *]

theorem vmov (o : Ops) : Statement (.vmov o) := by
  rintro op o' ⟨⟩ ⟨⟩ -
  rfl

theorem mgisect (o : Ops) : Statement (.mgisect o) := by
  rintro op o' ⟨⟩ ⟨⟩ -
  rfl

theorem mgunion (o : Ops) : Statement (.mgunion o) := by
  rintro op o' ⟨⟩ ⟨⟩ -
  rfl

theorem mgdiff (o : Ops) : Statement (.mgdiff o) := by
  rintro op o' ⟨⟩ ⟨⟩ -
  rfl

theorem mgmerge (o : Ops) : Statement (.mgmerge o) := by
  rintro op o' ⟨⟩ ⟨⟩ -
  rfl

theorem mgsteer (o : Ops) : Statement (.mgsteer o) := by
  rintro op o' ⟨⟩ ⟨⟩ -
  rfl

theorem mgseq (o : Ops) : Statement (.mgseq o) := by
  rintro op o' ⟨⟩ ⟨⟩ -
  rfl

theorem mgstat (o : Ops) : Statement (.mgstat o) := by
  rintro op o' ⟨⟩ ⟨⟩ h
  simp [Instr.fixes, Sub.admits] at h
  simp [build, buildE, *]

theorem mgstatPart (o : Ops) : Statement (.mgstatPart o) := by
  rintro op o' ⟨⟩ ⟨⟩ h
  simp [Instr.fixes, Sub.admits] at h
  simp [build, buildE, *]

theorem mgstatLeaf (o : Ops) : Statement (.mgstatLeaf o) := by
  rintro op o' ⟨⟩ ⟨⟩ h
  simp [Instr.fixes, Sub.admits] at h
  simp [build, buildE, *]

theorem mgcfgPivot (o : Ops) : Statement (.mgcfgPivot o) := by
  rintro op o' ⟨⟩ ⟨⟩ h
  simp [Instr.fixes, Sub.admits] at h
  simp [build, buildE, *]

theorem mgcfgPread (o : Ops) : Statement (.mgcfgPread o) := by
  rintro op o' ⟨⟩ ⟨⟩ h
  simp [Instr.fixes, Sub.admits] at h
  simp [build, buildE, *]

theorem mgcfgMark (o : Ops) : Statement (.mgcfgMark o) := by
  rintro op o' ⟨⟩ ⟨⟩ h
  simp [Instr.fixes, Sub.admits] at h
  simp [build, buildE, *]

theorem screcBegin (o : Ops) : Statement (.screcBegin o) := by
  rintro op o' ⟨⟩ ⟨⟩ h
  simp [Instr.fixes, Sub.admits] at h
  simp [build, buildE, *]

theorem screcEnd (o : Ops) : Statement (.screcEnd o) := by
  rintro op o' ⟨⟩ ⟨⟩ h
  simp [Instr.fixes, Sub.admits] at h
  simp [build, buildE, *]

theorem scplay (o : Ops) : Statement (.scplay o) := by
  rintro op o' ⟨⟩ ⟨⟩ -
  rfl

theorem scguard (o : Ops) : Statement (.scguard o) := by
  rintro op o' ⟨⟩ ⟨⟩ h
  simp [Instr.fixes, Sub.admits] at h
  simp [build, buildE, *]

theorem scpatch (o : Ops) : Statement (.scpatch o) := by
  rintro op o' ⟨⟩ ⟨⟩ h
  simp [Instr.fixes, Sub.admits] at h
  simp [build, buildE, *]

theorem scinv (o : Ops) : Statement (.scinv o) := by
  rintro op o' ⟨⟩ ⟨⟩ h
  simp [Instr.fixes, Sub.admits] at h
  simp [build, buildE, *]

theorem scstat (o : Ops) : Statement (.scstat o) := by
  rintro op o' ⟨⟩ ⟨⟩ h
  simp [Instr.fixes, Sub.admits] at h
  simp [build, buildE, *]

theorem trap (o : Ops) : Statement (.trap o) := by
  rintro op o' ⟨⟩ ⟨⟩ -
  rfl

theorem eret (o : Ops) : Statement (.eret o) := by
  rintro op o' ⟨⟩ ⟨⟩ h
  simp [Instr.fixes, Sub.admits] at h
  simp [build, buildE, *]

theorem eretSkip (o : Ops) : Statement (.eretSkip o) := by
  rintro op o' ⟨⟩ ⟨⟩ h
  simp [Instr.fixes, Sub.admits] at h
  simp [build, buildE, *]

theorem eretKill (o : Ops) : Statement (.eretKill o) := by
  rintro op o' ⟨⟩ ⟨⟩ h
  simp [Instr.fixes, Sub.admits] at h
  simp [build, buildE, *]

theorem tlbinvPage (o : Ops) : Statement (.tlbinvPage o) := by
  rintro op o' ⟨⟩ ⟨⟩ h
  simp [Instr.fixes, Sub.admits] at h
  simp [build, buildE, *]

theorem tlbinvAsid (o : Ops) : Statement (.tlbinvAsid o) := by
  rintro op o' ⟨⟩ ⟨⟩ h
  simp [Instr.fixes, Sub.admits] at h
  simp [build, buildE, *]

theorem tlbinvAll (o : Ops) : Statement (.tlbinvAll o) := by
  rintro op o' ⟨⟩ ⟨⟩ h
  simp [Instr.fixes, Sub.admits] at h
  simp [build, buildE, *]

theorem asidset (o : Ops) : Statement (.asidset o) := by
  rintro op o' ⟨⟩ ⟨⟩ -
  rfl

theorem ctxsave (o : Ops) : Statement (.ctxsave o) := by
  rintro op o' ⟨⟩ ⟨⟩ -
  rfl

theorem ctxload (o : Ops) : Statement (.ctxload o) := by
  rintro op o' ⟨⟩ ⟨⟩ -
  rfl

theorem resume (o : Ops) : Statement (.resume o) := by
  rintro op o' ⟨⟩ ⟨⟩ -
  rfl

theorem drain (o : Ops) : Statement (.drain o) := by
  rintro op o' ⟨⟩ ⟨⟩ -
  rfl

theorem wfi (o : Ops) : Statement (.wfi o) := by
  rintro op o' ⟨⟩ ⟨⟩ -
  rfl

theorem brk (o : Ops) : Statement (.brk o) := by
  rintro op o' ⟨⟩ ⟨⟩ -
  rfl

theorem memctlTag (o : Ops) : Statement (.memctlTag o) := by
  rintro op o' ⟨⟩ ⟨⟩ h
  simp [Instr.fixes, Sub.admits] at h
  simp [build, buildF, *]

theorem memctlFmr (o : Ops) : Statement (.memctlFmr o) := by
  rintro op o' ⟨⟩ ⟨⟩ h
  simp [Instr.fixes, Sub.admits] at h
  simp [build, buildF, *]

theorem memctlRd (o : Ops) : Statement (.memctlRd o) := by
  rintro op o' ⟨⟩ ⟨⟩ h
  simp [Instr.fixes, Sub.admits] at h
  simp [build, buildF, *]

theorem memctlWr (o : Ops) : Statement (.memctlWr o) := by
  rintro op o' ⟨⟩ ⟨⟩ h
  simp [Instr.fixes, Sub.admits] at h
  simp [build, buildF, *]

theorem balloonAdd (o : Ops) : Statement (.balloonAdd o) := by
  rintro op o' ⟨⟩ ⟨⟩ h
  simp [Instr.fixes, Sub.admits] at h
  simp [build, buildF, *]

theorem balloonRem (o : Ops) : Statement (.balloonRem o) := by
  rintro op o' ⟨⟩ ⟨⟩ h
  simp [Instr.fixes, Sub.admits] at h
  simp [build, buildF, *]

theorem balloonPri (o : Ops) : Statement (.balloonPri o) := by
  rintro op o' ⟨⟩ ⟨⟩ h
  simp [Instr.fixes, Sub.admits] at h
  simp [build, buildF, *]

theorem qpost (o : Ops) : Statement (.qpost o) := by
  rintro op o' ⟨⟩ ⟨⟩ -
  rfl

theorem pinit (o : Ops) : Statement (.pinit o) := by
  rintro op o' ⟨⟩ ⟨⟩ -
  rfl

theorem irqCore (o : Ops) : Statement (.irqCore o) := by
  rintro op o' ⟨⟩ ⟨⟩ h
  simp [Instr.fixes, Sub.admits] at h
  simp [build, buildF, *]

theorem irqHost (o : Ops) : Statement (.irqHost o) := by
  rintro op o' ⟨⟩ ⟨⟩ h
  simp [Instr.fixes, Sub.admits] at h
  simp [build, buildF, *]

theorem walk (o : Ops) : Statement (.walk o) := by
  rintro op o' ⟨⟩ ⟨⟩ -
  rfl

theorem parseStep (u : BitVec 2) : Statement (.parseStep u) := by
  rintro op o ⟨⟩

theorem mismatchRecordWrite (u : BitVec 2) : Statement (.mismatchRecordWrite u) := by
  rintro op o ⟨⟩

theorem recoveryStep (u : BitVec 2) : Statement (.recoveryStep u) := by
  rintro op o ⟨⟩

theorem markArrival (u : BitVec 2) : Statement (.markArrival u) := by
  rintro op o ⟨⟩

theorem contextAged (u : BitVec 2) : Statement (.contextAged u) := by
  rintro op o ⟨⟩

theorem watchdog (u : BitVec 2) : Statement (.watchdog u) := by
  rintro op o ⟨⟩

theorem trapEntry : Statement (.trapEntry ) := by
  rintro op o ⟨⟩

theorem interruptDelivery : Statement (.interruptDelivery ) := by
  rintro op o ⟨⟩

theorem invocationStart (id : Nat) : Statement (.invocationStart id) := by
  rintro op o ⟨⟩

theorem engineQueueRoom (c : CtxId) : Statement (.engineQueueRoom c) := by
  rintro op o ⟨⟩

theorem invocationCommit (id : Nat) : Statement (.invocationCommit id) := by
  rintro op o ⟨⟩

theorem ligatureTermFire : Statement (.ligatureTermFire ) := by
  rintro op o ⟨⟩

theorem portAccess (p : BitVec 3) : Statement (.portAccess p) := by
  rintro op o ⟨⟩

theorem generatorFaultDelivery : Statement (.generatorFaultDelivery ) := by
  rintro op o ⟨⟩

theorem circuitBeatArrival (p : BitVec 3) (fromPeer : Option CircuitSymbol) : Statement (.circuitBeatArrival p fromPeer) := by
  rintro op o ⟨⟩

theorem circuitLoss (p : BitVec 3) : Statement (.circuitLoss p) := by
  rintro op o ⟨⟩

theorem barwaitWake (c : CtxId) : Statement (.barwaitWake c) := by
  rintro op o ⟨⟩

theorem fullWaitWake (c : CtxId) : Statement (.fullWaitWake c) := by
  rintro op o ⟨⟩

theorem sigwaitWake (c : CtxId) : Statement (.sigwaitWake c) := by
  rintro op o ⟨⟩

theorem evwaitWake (c : CtxId) : Statement (.evwaitWake c) := by
  rintro op o ⟨⟩

theorem mxwaitWake (c : CtxId) : Statement (.mxwaitWake c) := by
  rintro op o ⟨⟩

theorem peekWake (c : CtxId) : Statement (.peekWake c) := by
  rintro op o ⟨⟩

theorem wfiWake : Statement (.wfiWake ) := by
  rintro op o ⟨⟩

theorem portQuiesceWake (c : CtxId) : Statement (.portQuiesceWake c) := by
  rintro op o ⟨⟩

theorem cutComplete : Statement (.cutComplete ) := by
  rintro op o ⟨⟩

theorem regionDrainComplete (rcb : Nat) : Statement (.regionDrainComplete rcb) := by
  rintro op o ⟨⟩

theorem scribeBindWrite (die : BitVec 3) (slot : BitVec 8) (record : BitVec 128) : Statement (.scribeBindWrite die slot record) := by
  rintro op o ⟨⟩

theorem bindRecordCheck (die : BitVec 3) : Statement (.bindRecordCheck die) := by
  rintro op o ⟨⟩

theorem groupRetire (u : BitVec 2) : Statement (.groupRetire u) := by
  rintro op o ⟨⟩

theorem launchCompletion (slot : BitVec 12) : Statement (.launchCompletion slot) := by
  rintro op o ⟨⟩

theorem coalesceTimeExpiry (slot : Nat) : Statement (.coalesceTimeExpiry slot) := by
  rintro op o ⟨⟩

theorem doorbellWrite (q : BitVec 12) (wptr : BitVec 32) : Statement (.doorbellWrite q wptr) := by
  rintro op o ⟨⟩

theorem queueStateWrite (q : BitVec 12) (value : BitVec 2) : Statement (.queueStateWrite q value) := by
  rintro op o ⟨⟩

theorem nopPacket (q : BitVec 12) : Statement (.nopPacket q) := by
  rintro op o ⟨⟩

theorem launchPacket (q : BitVec 12) : Statement (.launchPacket q) := by
  rintro op o ⟨⟩

theorem bindPacket (q : BitVec 12) : Statement (.bindPacket q) := by
  rintro op o ⟨⟩

theorem signalPacket (q : BitVec 12) : Statement (.signalPacket q) := by
  rintro op o ⟨⟩

theorem waitPacket (q : BitVec 12) : Statement (.waitPacket q) := by
  rintro op o ⟨⟩

theorem indirectPacket (q : BitVec 12) : Statement (.indirectPacket q) := by
  rintro op o ⟨⟩

theorem pinitPacket (q : BitVec 12) : Statement (.pinitPacket q) := by
  rintro op o ⟨⟩

theorem fencePacket (q : BitVec 12) : Statement (.fencePacket q) := by
  rintro op o ⟨⟩

theorem recordPacket (q : BitVec 12) : Statement (.recordPacket q) := by
  rintro op o ⟨⟩

theorem replayPacket (q : BitVec 12) : Statement (.replayPacket q) := by
  rintro op o ⟨⟩

theorem queueHoldRelease (q : BitVec 12) : Statement (.queueHoldRelease q) := by
  rintro op o ⟨⟩

theorem queueLost (q : BitVec 12) : Statement (.queueLost q) := by
  rintro op o ⟨⟩

theorem scribeReset : Statement (.scribeReset ) := by
  rintro op o ⟨⟩

theorem wellWriteback (line : Nat) : Statement (.wellWriteback line) := by
  rintro op o ⟨⟩

theorem deferredLineWriteback (die : BitVec 3) : Statement (.deferredLineWriteback die) := by
  rintro op o ⟨⟩

theorem heldWriteServed (die : BitVec 3) : Statement (.heldWriteServed die) := by
  rintro op o ⟨⟩

theorem holdBudgetExpiry (die : BitVec 3) : Statement (.holdBudgetExpiry die) := by
  rintro op o ⟨⟩

theorem idleCompaction (frame : Nat) : Statement (.idleCompaction frame) := by
  rintro op o ⟨⟩

theorem blotterKresRefill (die : BitVec 3) : Statement (.blotterKresRefill die) := by
  rintro op o ⟨⟩

theorem blotterReclaim (die : BitVec 3) : Statement (.blotterReclaim die) := by
  rintro op o ⟨⟩

theorem blotterHwresDraw (die : BitVec 3) : Statement (.blotterHwresDraw die) := by
  rintro op o ⟨⟩

theorem blotterHwresRefill (die : BitVec 3) : Statement (.blotterHwresRefill die) := by
  rintro op o ⟨⟩

theorem replayCmd (u : BitVec 2) : Statement (.replayCmd u) := by
  rintro op o ⟨⟩

theorem replayGuard (u : BitVec 2) : Statement (.replayGuard u) := by
  rintro op o ⟨⟩

theorem replayEnd (u : BitVec 2) : Statement (.replayEnd u) := by
  rintro op o ⟨⟩

theorem vfBindingWrite (vf : BitVec 8) (value : BitVec 64) : Statement (.vfBindingWrite vf value) := by
  rintro op o ⟨⟩

theorem apertureRead (vf : BitVec 8) (off : BitVec 36) (n : Nat) : Statement (.apertureRead vf off n) := by
  rintro op o ⟨⟩

theorem apertureWrite (vf : BitVec 8) (off : BitVec 36) (data : List (BitVec 8)) : Statement (.apertureWrite vf off data) := by
  rintro op o ⟨⟩

theorem kbootGo : Statement (.kbootGo ) := by
  rintro op o ⟨⟩

theorem fwslotGo (k : BitVec 2) : Statement (.fwslotGo k) := by
  rintro op o ⟨⟩

theorem firmwareCheckDone (k : BitVec 2) : Statement (.firmwareCheckDone k) := by
  rintro op o ⟨⟩

theorem kdoorWrite (value : BitVec 64) : Statement (.kdoorWrite value) := by
  rintro op o ⟨⟩

theorem attestationGo : Statement (.attestationGo ) := by
  rintro op o ⟨⟩

theorem attestationDone : Statement (.attestationDone ) := by
  rintro op o ⟨⟩

theorem mctlWrite (die : BitVec 3) (value : BitVec 64) : Statement (.mctlWrite die value) := by
  rintro op o ⟨⟩

theorem copyTraceControlWrite (core : BitVec 9) (value : BitVec 64) : Statement (.copyTraceControlWrite core value) := by
  rintro op o ⟨⟩

theorem hostRegisterWrite (off : BitVec 24) (value : BitVec 64) : Statement (.hostRegisterWrite off value) := by
  rintro op o ⟨⟩

theorem relfelLinkFailure (link : BitVec 4) : Statement (.relfelLinkFailure link) := by
  rintro op o ⟨⟩

theorem thermalGatingChange (die : BitVec 3) (gate : BitVec 7) : Statement (.thermalGatingChange die gate) := by
  rintro op o ⟨⟩

theorem thermalTrip (die : BitVec 3) : Statement (.thermalTrip die) := by
  rintro op o ⟨⟩

theorem uncorrectableCoreError : Statement (.uncorrectableCoreError ) := by
  rintro op o ⟨⟩

theorem coldReset : Statement (.coldReset ) := by
  rintro op o ⟨⟩

theorem warmReset : Statement (.warmReset ) := by
  rintro op o ⟨⟩

theorem reservedOpcode (o : Ops) (op sub : BitVec 8) : Statement (.reservedOpcode o op sub) := by
  rintro op o ⟨⟩

theorem pfBar2Access (off : BitVec 40) (n : Nat) (data : Option (List (BitVec 8))) : Statement (.pfBar2Access off n data) := by
  rintro op o ⟨⟩

theorem peerWindowAccess (link : BitVec 4) (dpa : BitVec 40) (n : Nat) (data : Option (List (BitVec 8))) : Statement (.peerWindowAccess link dpa n data) := by
  rintro op o ⟨⟩

theorem scribeRebalance (u : BitVec 2) (core : BitVec 9) (v : BitVec 2) : Statement (.scribeRebalance u core v) := by
  rintro op o ⟨⟩

theorem scribeReloadComplete : Statement (.scribeReloadComplete ) := by
  rintro op o ⟨⟩

end Sys2Proof.Laws.Built
end

