-- ==== Sys2Proof/Laws/Registers.lean ====
section
/-! SUPPORT. Reading registers after writing them (R59). -/

namespace Sys2Proof.Machine

/-- s0 discards what is written; every other register reads as written. -/
theorem Ctx.getS_setS (x : Ctx) (n m : Nat) (w : Word) : (x.setS n w).getS m = if m = n ∧ n ≠ 0 then w else x.getS m := by
  unfold Ctx.setS Ctx.getS
  by_cases hn : n = 0
  · simp [hn]
  · by_cases hm : m = 0
    · simp [hm, Ne.symm hn]
    · by_cases h : m = n <;> simp [hn, hm, h, SMap.get_set]

@[simp] theorem Ctx.getS_setS_self (x : Ctx) {n : Nat} (w : Word) (h : n ≠ 0) : (x.setS n w).getS n = w := by
  simp [Ctx.getS_setS, h]

theorem Ctx.getS_setS_ne (x : Ctx) {n m : Nat} (w : Word) (h : m ≠ n) : (x.setS n w).getS m = x.getS m := by
  simp [Ctx.getS_setS, h]

theorem Ctx.getV_setV (x : Ctx) (n m : Nat) (w : VReg) : (x.setV n w).getV m = if m = n then w else x.getV m := SMap.get_set 0 x.v n m w

/-- p0 discards what is written. -/
theorem Ctx.getP_setP (x : Ctx) (n m : Nat) (w : PReg) : (x.setP n w).getP m = if m = n ∧ n ≠ 0 then w else x.getP m := by
  unfold Ctx.setP Ctx.getP
  by_cases hn : n = 0
  · simp [hn]
  · by_cases hm : m = 0
    · simp [hm, Ne.symm hn]
    · by_cases h : m = n <;> simp [hn, hm, h, SMap.get_set]

@[simp] theorem Ctx.getS_setV (x : Ctx) (n m : Nat) (w : VReg) : (x.setV n w).getS m = x.getS m := rfl
@[simp] theorem Ctx.getP_setV (x : Ctx) (n m : Nat) (w : VReg) : (x.setV n w).getP m = x.getP m := rfl
@[simp] theorem Ctx.getV_setS (x : Ctx) (n m : Nat) (w : Word) : (x.setS n w).getV m = x.getV m := by simp [Ctx.getV]
@[simp] theorem Ctx.getP_setS (x : Ctx) (n m : Nat) (w : Word) : (x.setS n w).getP m = x.getP m := by simp [Ctx.getP]
@[simp] theorem Ctx.getS_setP (x : Ctx) (n m : Nat) (w : PReg) : (x.setP n w).getS m = x.getS m := by simp [Ctx.getS]
@[simp] theorem Ctx.getV_setP (x : Ctx) (n m : Nat) (w : PReg) : (x.setP n w).getV m = x.getV m := by simp [Ctx.getV]

theorem State.getS_setS (s : State) (n m : BitVec 6) (w : Word) : (s.setS n w).getS m = if m = n ∧ n ≠ 0 then w else s.getS m := by
  simp only [State.getS, State.setS_ctx, Ctx.getS_setS, ← BitVec.toNat_inj, ne_eq]
  rfl

theorem State.getV_setV (s : State) (n m : BitVec 6) (w : VReg) : (s.setV n w).getV m = if m = n then w else s.getV m := by
  simp only [State.getV, State.setV_ctx, Ctx.getV_setV, ← BitVec.toNat_inj]

theorem State.getP_setP (s : State) (n m : BitVec 6) (w : PReg) : (s.setP n w).getP m = if m = n ∧ n ≠ 0 then w else s.getP m := by
  simp only [State.getP, State.setP_ctx, Ctx.getP_setP, ← BitVec.toNat_inj, ne_eq]
  rfl

@[simp] theorem State.byteAt_setS (s : State) (n : BitVec 6) (w : Word) (a : Nat) : (s.setS n w).byteAt a = s.byteAt a := rfl
@[simp] theorem State.byteAt_goTo (s : State) (pc : Word) (a : Nat) : (s.goTo pc).byteAt a = s.byteAt a := rfl
@[simp] theorem State.getS_goTo (s : State) (pc : Word) (n : BitVec 6) : (s.goTo pc).getS n = s.getS n := by
  simp only [State.getS, State.goTo_ctx, Ctx.getS]
@[simp] theorem State.getV_goTo (s : State) (pc : Word) (n : BitVec 6) : (s.goTo pc).getV n = s.getV n := by
  simp only [State.getV, State.goTo_ctx, Ctx.getV]
@[simp] theorem State.getP_goTo (s : State) (pc : Word) (n : BitVec 6) : (s.goTo pc).getP n = s.getP n := by
  simp only [State.getP, State.goTo_ctx, Ctx.getP]

/-! ## The address of the next instruction -/

@[simp] theorem State.nextPc_setS (s : State) (n : BitVec 6) (w : Word) (o : Ops) : (s.setS n w).nextPc o = s.nextPc o := by simp [State.nextPc]
@[simp] theorem State.nextPc_setV (s : State) (n : BitVec 6) (w : VReg) (o : Ops) : (s.setV n w).nextPc o = s.nextPc o := by simp [State.nextPc]
@[simp] theorem State.nextPc_setP (s : State) (n : BitVec 6) (w : PReg) (o : Ops) : (s.setP n w).nextPc o = s.nextPc o := by simp [State.nextPc]
@[simp] theorem State.nextPc_addFlags (s : State) (f : BitVec 16) (o : Ops) : (s.addFlags f).nextPc o = s.nextPc o := by simp [State.nextPc]

end Sys2Proof.Machine
end

