-- ==== Sys2Proof/Laws/Run.lean ====
section
/-! SUPPORT. What stands around the body of an instruction: the halt, PRIV, the budget, the guard, and how an instruction ends (R29, R61, R68, R69). -/

namespace Sys2Proof.Machine

/-! ## An instruction that runs -/

theorem runAlways_open {o : Ops} {s : State} (body : State → Eff) (h : Open s) : runAlways false o body s = finish o (body s) := by
  simp [runAlways, h.1, h.2]

theorem runInstr_ready {o : Ops} {s : State} (body : State → Eff) (h : Ready o s) : runInstr o body s = finish o (body s) := by
  simp [runInstr, runAlways_open _ h.1, h.2]

theorem runPlain_ready {o : Ops} {s : State} (f : State → State) (h : Ready o s) : runPlain o f s = .next ((f s).goTo ((f s).nextPc o)) := by
  simp [runPlain, runInstr_ready _ h, finish]

theorem runK_ready {o : Ops} {s : State} (body : State → Eff) (h : ReadyK o s) : runK o body s = finish o (body s) := by
  simp [runK, runAlways, h.1.1.1, h.1.1.2, h.1.2, State.kLevel, h.2]

theorem runVec_open {o : Ops} {s : State} (body : State → Eff) (h : Open s) : runVec o body s = finish o (body s) :=
  runAlways_open body h

theorem runControl_ready {o : Ops} {s : State} (f : State → State) (h : Ready o s) (hp : s.core.cur = .k ∨ o.imm.toNat < 0x800) :
    runControl o f s = .next ((f s).goTo ((f s).nextPc o)) := by
  have hk : (!s.kLevel && decide (0x800 ≤ o.imm.toNat)) = false := by
    rcases hp with hp | hp <;> simp [State.kLevel, hp]
  simp only [runControl, h.1.1, hk, runInstr_ready _ h, finish]
  simp

/-- The K context has no budget (R271). -/
theorem overBudget_k {s : State} (h : s.core.cur = .k) : s.overBudget = false := by simp [State.overBudget, State.kLevel, h]

/-! ## An instruction that does not -/

/-- On a halted core nothing runs (R314). -/
theorem runAlways_halted {k : Bool} {o : Ops} {s : State} (body : State → Eff) (h : s.core.halted = true) : runAlways k o body s = .fault .coreHalted := by
  simp [runAlways, h]

/-- A K-only instruction at U-level raises PRIV with SUB 0 (R69). -/
theorem runK_priv {o : Ops} {s : State} (body : State → Eff) (h : s.core.halted = false) (hu : s.core.cur ≠ .k) :
    runK o body s = .next (s.trapA (trapSub cPriv 0) o.form.bytes) := by
  simp [runK, runAlways, h, State.kLevel, hu, finish]

/-- The instruction past the budget raises ACTION_BUDGET (R29). -/
theorem runInstr_overBudget {o : Ops} {s : State} (body : State → Eff) (h : s.core.halted = false) (hb : s.overBudget = true) :
    runInstr o body s = .next (s.trapA (trapBare cActionBudget) o.form.bytes) := by
  simp [runInstr, runAlways, h, hb, finish]

/-- A guard whose lane 0 is clear: the instruction counts and does nothing else (R61). -/
theorem runInstr_suppressed {o : Ops} {s : State} (body : State → Eff) (h : Open s) (hg : s.guard0 o = false) :
    runInstr o body s = .next (s.goTo (s.nextPc o)) := by
  simp [runInstr, runAlways_open _ h, hg, finish]

/-! ## What an instruction that does not stop answers -/

/-- The state in an effect. -/
def Eff.state : Eff → State
  | .next s => s
  | .jump s _ => s
  | .trap _ s => s
  | .raise _ s => s
  | .block _ s => s

theorem finish_cases {o : Ops} {e : Eff} {t : State} (h : finish o e = .next t) :
    (∃ u, e = .next u ∧ t = u.goTo (u.nextPc o)) ∨ (∃ u a, e = .jump u a ∧ t = u.goTo a)
      ∨ (∃ i u, e = .trap i u ∧ t = u.trapA i o.form.bytes) ∨ (∃ i u, e = .raise i u ∧ t = u.raiseTrap i u.core.cur 0xFFFFFFFFFFFFFFFF)
      ∨ (∃ w u, e = .block w u ∧ t = u.putCtx { u.ctx with waiting := some w }) := by
  cases e <;> simp_all [finish, eq_comm]

/-- An instruction never stops but on a halted core. -/
theorem finish_next (o : Ops) (e : Eff) : ∃ t, finish o e = .next t := by
  cases e <;> exact ⟨_, rfl⟩

theorem runAlways_next (k : Bool) (o : Ops) (body : State → Eff) {s : State} (h : s.core.halted = false) : ∃ t, runAlways k o body s = .next t := by
  unfold runAlways
  simp only [h]
  split <;> try split
  all_goals first | exact finish_next o _ | (split <;> exact finish_next o _) | simp_all

end Sys2Proof.Machine
end

