-- ==== Sys2Proof/Laws/Translate.lean ====
section
/-! SUPPORT. What translating an address and cutting an access into parts can change: the TLBs, and nothing else (R158, R322). -/

namespace Sys2Proof.Machine

/-- Two states that differ at most in their TLBs. -/
structure SameButTlb (s t : State) : Prop where
  mem : t.mem = s.mem
  core : t.core = { s.core with l1tlb := t.core.l1tlb }
  hub : t.hub = s.hub
  others : t.others = s.others
  coreId : t.coreId = s.coreId
  agenda : t.agenda = s.agenda
  hwNext : t.hwNext = s.hwNext
  free : t.free = s.free

theorem SameButTlb.refl (s : State) : SameButTlb s s := ⟨rfl, rfl, rfl, rfl, rfl, rfl, rfl, rfl⟩

theorem SameButTlb.trans {s t u : State} (h : SameButTlb s t) (k : SameButTlb t u) : SameButTlb s u where
  mem := k.mem.trans h.mem
  core := by rw [k.core, h.core]
  hub := k.hub.trans h.hub
  others := k.others.trans h.others
  coreId := k.coreId.trans h.coreId
  agenda := k.agenda.trans h.agenda
  hwNext := k.hwNext.trans h.hwNext
  free := k.free.trans h.free

theorem map_pair_ok {α β : Type} {ε : Type} {e : Except ε α} {c : β} {x : α} {t : β} (h : e.map (fun y => (y, c)) = .ok (x, t)) : t = c := by
  cases e with
  | error _ => cases h
  | ok a => simp only [Except.map, Except.ok.injEq, Prod.mk.injEq] at h; exact h.2.symm

/-- A translation that succeeds changes the TLBs only. -/
theorem translate_ok {s t : State} {asid : BitVec 9} {k : Bool} {a : Access} {va : Nat} {x : Xlat} (h : translate s asid k a va = .ok (x, t)) : SameButTlb s t := by
  unfold translate at h
  split at h
  · rw [map_pair_ok h]; exact SameButTlb.refl s
  · dsimp only at h
    split at h
    · rw [map_pair_ok h]; exact ⟨rfl, rfl, rfl, rfl, rfl, rfl, rfl, rfl⟩
    · split at h
      · cases h
      · rw [map_pair_ok h]; exact ⟨rfl, rfl, rfl, rfl, rfl, rfl, rfl, rfl⟩

theorem partsWith_ok {tr : State → Nat → Except Flt (Xlat × State)} {fr : State → Nat → Nat → Nat → Option Flt}
    (htr : ∀ s va x t, tr s va = .ok (x, t) → SameButTlb s t) (n : Nat) :
    ∀ (s : State) (va len : Nat) (ps : List Part) (t : State), partsWith tr fr n s va len = .ok (ps, t) → SameButTlb s t := by
  induction n with
  | zero => intro s va len ps t h; cases h; exact SameButTlb.refl s
  | succ n ih =>
    intro s va len ps t h
    unfold partsWith at h
    split at h
    · cases h; exact SameButTlb.refl s
    · dsimp only at h
      split at h
      · cases h
      · rename_i x s1 h1
        split at h
        · cases h
        · split at h
          · cases h
          · rename_i q s2 h2
            cases h
            exact (htr _ _ _ _ h1).trans (ih _ _ _ _ _ h2)

/-- An access whose parts all translate changes the TLBs only. -/
theorem accessParts_ok {s t : State} {asid : BitVec 9} {k : Bool} {a : Access} {va n : Nat} {ps : List Part} (h : accessParts s asid k a va n = .ok (ps, t)) : SameButTlb s t :=
  partsWith_ok (fun _ _ _ _ h => translate_ok h) _ _ _ _ _ _ h

end Sys2Proof.Machine
end

