-- ==== Sys2Proof/Tests/Slice0.lean ====
section
/-! SUPPORT. Tests: ill-formed terms, words of the manual's encodings, states that meet the hypotheses of the statements, and results of single steps. -/

set_option Elab.async false
set_option maxRecDepth 8000

open Sys2Proof Sys2Proof.Machine

namespace Sys2Proof.Tests

/-! ## Ill-formed instructions, one for each check of wellFormed -/

/-- A step of another agent is no instruction. -/
theorem test_illformed_event : (Instr.trapEntry).wellFormed = false := by decide
/-- The map reserves opcode 0xFF (R70): its words have no fields. -/
theorem test_illformed_reserved : (Instr.reservedOpcode ⟨.l, 0, 0, 0, 0, 0, 0, 0, 0⟩ 0xFF 0).wellFormed = false := by decide
/-- A D field that the form does not use (R59). -/
theorem test_illformed_d : (Instr.aend ⟨.l, 1, 0, 0, 0, 0, 0, 0, 0⟩).wellFormed = false := by decide
/-- A vector number of 32 or more in A (R59). -/
theorem test_illformed_a : (Instr.vsqrt ⟨.l, 0, 32, 0, 0, 0, 0, 0, 0⟩).wellFormed = false := by decide
/-- A B field that the form does not use. -/
theorem test_illformed_b : (Instr.mov ⟨.l, 0, 0, 1, 0, 0, 0, 0, 0⟩).wellFormed = false := by decide
/-- A predicate of 8 or more in C. -/
theorem test_illformed_c : (Instr.sel ⟨.l, 0, 0, 0, 8, 0, 0, 0, 0⟩).wellFormed = false := by decide
/-- A PLOG operation above 7 (R263). -/
theorem test_illformed_q : (Instr.plog ⟨.l, 1, 0, 0, 0, 8, 0, 0, 0⟩).wellFormed = false := by decide
/-- A modifier of a form that has none. -/
theorem test_illformed_m : (Instr.add ⟨.l, 0, 0, 0, 0, 0, 0, 1, 0⟩).wellFormed = false := by decide
/-- An immediate of a form that has none (R53). -/
theorem test_illformed_imm : (Instr.add ⟨.l, 0, 0, 0, 0, 0, 0, 0, 1⟩).wellFormed = false := by decide
/-- A shift immediate of 64 (R256). -/
theorem test_illformed_width : (Instr.shli ⟨.l, 0, 0, 0, 0, 0, 0, 0, 64⟩).wellFormed = false := by decide
/-- A bit field that passes bit 63 (R259). -/
theorem test_illformed_limit : (Instr.ext ⟨.l, 0, 0, 0, 0, 0, 0, 0, 0xFFF⟩).wellFormed = false := by decide
/-- A constructor whose row has another qualifier. -/
theorem test_illformed_row : (Instr.moviHi ⟨.l, 0, 0, 0, 0, 0, 0, 0, 0⟩).wellFormed = false := by decide
/-- The C form carries no qualifier and immediates of 5 bits only (R52). -/
theorem test_illformed_compact : (Instr.ld ⟨.c, 0, 0, 0, 0, 1, 0, 0, 0⟩).wellFormed = false ∧ (Instr.addi ⟨.c, 0, 0, 0, 0, 0, 0, 0, 16⟩).wellFormed = false := by decide
/-- The M form carries no guard. -/
theorem test_illformed_medium : (Instr.addi ⟨.m, 0, 0, 0, 0, 0, 1, 0, 0⟩).wellFormed = false := by decide
/-- And what is well formed is taken. -/
theorem test_wellformed : (Instr.addi ⟨.c, 3, 1, 0, 0, 0, 0, 0, 15⟩).wellFormed = true ∧ (Instr.shli ⟨.l, 0, 0, 0, 0, 0, 0, 0, 63⟩).wellFormed = true ∧
    (Instr.plog ⟨.l, 1, 0, 0, 0, 7, 0, 0, 0⟩).wellFormed = true := by decide

/-! ## Stored bytes that the manual prints, with the canonical fields it prints beside them -/

/-- R73 to R78, the examples of the notation chapter and the action chapter. -/
theorem test_listed_action : (([
    ([0x15, 0x0C, 0x01, 0x00, 0x10, 0x00, 0x00, 0x00], .addi ⟨.m, 3, 1, 0, 0, 0, 0, 0, 16⟩),
    ([0x74, 0x00, 0x00, 0x00], .aend ⟨.c, 0, 0, 0, 0, 0, 0, 0, 0⟩),
    ([0x0A, 0x32, 0x01, 0xF8], .addi ⟨.c, 25, 2, 0, 0, 0, 0, 0, 0xFFFFFFFFFFFF⟩),
    ([0xA5, 0x04, 0x0A, 0x40, 0x04, 0x00, 0x00, 0x00], .cmpp ⟨.m, 1, 10, 0, 0, 4, 0, 0, 4⟩),
    ([0x95, 0x48, 0x0F, 0x00, 0xF0, 0x03, 0x00, 0x00], .ext ⟨.m, 18, 15, 0, 0, 0, 0, 0, 0x3F0⟩),
    ([0xA1, 0x1C, 0x07, 0x31, 0x00, 0x00, 0x00, 0x00], .lea ⟨.m, 7, 7, 4, 0, 3, 0, 0, 0⟩),
    ([0xCB, 0xFC, 0x00, 0x00, 0xC0, 0x00, 0x68, 0xFF, 0xFF, 0xFF, 0xFF, 0xFF], .call ⟨.l, 63, 0, 0, 0, 0, 3, 0, 0xFFFFFFFFFF68⟩),
    ([0x0B, 0x14, 0x00, 0x00, 0x00, 0x00, 0x00, 0x00, 0x00, 0x80, 0x00, 0x00], .movi ⟨.l, 5, 0, 0, 0, 0, 0, 0, 0x80000000⟩),
    ([0xDD, 0x04, 0x00, 0x00, 0x04, 0x08, 0x00, 0x00], .mfc ⟨.m, 1, 0, 0, 0, 0, 0, 0, 0x804⟩),
    ([0x6E, 0x08, 0x00, 0x08], .mfc ⟨.c, 4, 0, 0, 0, 0, 0, 0, 1⟩)] : List (List Byte × Instr)).all (fun r => decide (decode r.1 = .ok (r.2, [])))) = true := by decide +kernel

/-- The examples of the grammar, memory and port chapters. -/
theorem test_listed_memory : (([
    ([0x8C, 0x80, 0x01, 0x40], .markif ⟨.c, 0, 3, 0, 0, 0, 0, 0, 8⟩),
    ([0x9E, 0x80, 0x01, 0x10], .evwait ⟨.c, 0, 3, 0, 0, 0, 0, 0, 2⟩),
    ([0x0F, 0x19, 0x00, 0x00, 0x00, 0x08, 0x02, 0x00, 0x00, 0x00, 0x00, 0x00], .gpop ⟨.l, 6, 0, 0, 0, 0, 0, 2, 2⟩),
    ([0x1F, 0x01, 0x00, 0x00, 0x40, 0x00, 0x02, 0x00, 0x00, 0x00, 0x00, 0x00], .markemit ⟨.l, 0, 0, 0, 0, 0, 1, 0, 2⟩),
    ([0x49, 0x2D, 0x94, 0x72, 0x00, 0x00, 0x00, 0x00], .ldx ⟨.m, 11, 20, 10, 0, 7, 0, 0, 0⟩),
    ([0x71, 0x49, 0x15, 0x13, 0x88, 0x00, 0x00, 0x00], .aadd ⟨.m, 18, 21, 12, 0, 1, 0, 0, 0x88⟩),
    ([0xCE, 0x00, 0x00, 0x00], .fence ⟨.c, 0, 0, 0, 0, 0, 0, 0, 0⟩),
    ([0x9F, 0x01, 0x00, 0x00, 0x0C, 0x08, 0x00, 0x00, 0x00, 0x00, 0x00, 0x00], .fenceRel ⟨.l, 0, 0, 0, 0, 3, 0, 2, 0⟩),
    ([0xD3, 0x09, 0x05, 0x00, 0x00, 0x10, 0x00, 0x00, 0x00, 0x00, 0x00, 0x00], .pbind ⟨.l, 2, 5, 0, 0, 0, 0, 4, 0⟩),
    ([0xD9, 0x01, 0x16, 0x27, 0x00, 0x00, 0x00, 0x00], .pseek ⟨.m, 0, 22, 28, 0, 2, 0, 0, 0⟩),
    ([0xEF, 0x51, 0x15, 0x66, 0x01, 0x00, 0x01, 0x00, 0x00, 0x00, 0x00, 0x00], .cpys ⟨.l, 20, 21, 24, 22, 0, 0, 0, 1⟩),
    ([0x04, 0x01, 0x65, 0x09], .barwait ⟨.c, 0, 10, 11, 0, 0, 0, 0, 1⟩),
    ([0x65, 0x15, 0x00, 0x10, 0x10, 0x00, 0x00, 0x00], .spst ⟨.m, 5, 0, 0, 0, 1, 0, 0, 16⟩)] : List (List Byte × Instr)).all (fun r => decide (decode r.1 = .ok (r.2, [])))) = true := by decide +kernel

/-- The examples of the matrix, vector, merge, Scroll, K-level and storage chapters. -/
theorem test_listed_engines : (([
    ([0x43, 0x06, 0xD1, 0x03, 0x40, 0x06, 0x00, 0x00, 0x00, 0x00, 0x00, 0x00], .mxmma ⟨.l, 1, 17, 15, 0, 0, 9, 1, 0⟩),
    ([0x5D, 0x02, 0x18, 0x10, 0x00, 0x00, 0x00, 0x00], .mxfmt ⟨.m, 0, 24, 0, 0, 1, 0, 0, 0⟩),
    ([0x4F, 0x12, 0x01, 0x00, 0x40, 0x02, 0x00, 0x00, 0x00, 0x00, 0x00, 0x00], .mxstacc ⟨.l, 4, 1, 0, 0, 0, 9, 0, 0⟩),
    ([0x40, 0x87, 0x40, 0x00], .vadd ⟨.c, 3, 1, 2, 0, 0, 0, 0, 0⟩),
    ([0xCB, 0x1E, 0x06, 0x60, 0x0C, 0x00, 0x00, 0x00, 0x00, 0x00, 0x00, 0x00], .vqntE4m3 ⟨.l, 7, 6, 0, 6, 3, 0, 0, 0⟩),
    ([0xD3, 0x06, 0x81, 0x00, 0x04, 0x04, 0x00, 0x00, 0x00, 0x00, 0x00, 0x00], .vcmp ⟨.l, 1, 1, 2, 0, 1, 0, 1, 0⟩),
    ([0xC0, 0x8B, 0x40, 0x00], .mgisect ⟨.c, 5, 1, 2, 0, 0, 0, 0, 0⟩),
    ([0xCE, 0x01, 0x02, 0x08], .mgcfgPivot ⟨.c, 0, 4, 0, 0, 0, 0, 0, 1⟩),
    ([0xD2, 0x13, 0xAA, 0x02], .scplay ⟨.c, 9, 20, 21, 0, 0, 0, 0, 0⟩),
    ([0xD8, 0x01, 0x00, 0x18], .trap ⟨.c, 0, 0, 0, 0, 0, 0, 0, 3⟩),
    ([0xB7, 0x03, 0x00, 0x00, 0x00, 0x08, 0x00, 0x00, 0x00, 0x00, 0x00, 0x00], .eretKill ⟨.l, 0, 0, 0, 0, 0, 0, 2, 0⟩),
    ([0xBB, 0x03, 0x44, 0x61, 0x04, 0x00, 0x00, 0x00, 0x00, 0x00, 0x00, 0x00], .tlbinvPage ⟨.l, 0, 4, 5, 6, 1, 0, 0, 0⟩),
    ([0xD9, 0x1B, 0x07, 0x32, 0x01, 0x00, 0x00, 0x00], .memctlWr ⟨.m, 6, 7, 8, 0, 3, 0, 0, 1⟩),
    ([0xEE, 0x91, 0x44, 0x01], .balloonAdd ⟨.c, 8, 9, 10, 0, 0, 0, 0, 0⟩)] : List (List Byte × Instr)).all (fun r => decide (decode r.1 = .ok (r.2, [])))) = true := by decide +kernel

/-- Opcodes the map reserves, and a reserved subfunction, are refused by name (R67, R70). -/
theorem test_reserved_refused : decode [0xFE, 0x01, 0, 0] = .error (.illegalOp 0) ∧ decode [0xDE, 0, 0, 0] = .error (.illegalOp 0) ∧
    decode [0xA3, 0x03, 0, 0, 0, 0x08, 0, 0, 0, 0, 0, 0] = .error (.illegalOp 2) ∧ decode [0x07] = .error .truncated := by decide +kernel

/-! ## One word for every constructor, from the encoding tables: the bits of its stored form, numbered from the first byte's lowest bit -/

/-- The action unit, opcodes below 0x20 (R248). -/
theorem test_decode_action0 : (([
    (32, 0x0, .nop ⟨.c, 0, 0, 0, 0, 0, 0, 0, 0⟩),
    (32, 0x8402, .mov ⟨.c, 2, 1, 0, 0, 0, 0, 0, 0⟩),
    (32, 0x8000404, .movi ⟨.c, 2, 0, 0, 0, 0, 0, 0, 1⟩),
    (96, 0x40000000B, .moviHi ⟨.l, 0, 0, 0, 0, 1, 0, 0, 0⟩),
    (32, 0x608406, .add ⟨.c, 2, 1, 3, 0, 0, 0, 0, 0⟩),
    (32, 0x608408, .sub ⟨.c, 2, 1, 3, 0, 0, 0, 0, 0⟩),
    (32, 0x800840A, .addi ⟨.c, 2, 1, 0, 0, 0, 0, 0, 1⟩),
    (32, 0x60840C, .mul ⟨.c, 2, 1, 3, 0, 0, 0, 0, 0⟩),
    (32, 0x60840E, .mulh ⟨.c, 2, 1, 3, 0, 0, 0, 0, 0⟩),
    (32, 0x608410, .mulhu ⟨.c, 2, 1, 3, 0, 0, 0, 0, 0⟩),
    (32, 0x608412, .div ⟨.c, 2, 1, 3, 0, 0, 0, 0, 0⟩),
    (32, 0x608414, .divu ⟨.c, 2, 1, 3, 0, 0, 0, 0, 0⟩),
    (32, 0x608416, .rem ⟨.c, 2, 1, 3, 0, 0, 0, 0, 0⟩),
    (32, 0x608418, .remu ⟨.c, 2, 1, 3, 0, 0, 0, 0, 0⟩),
    (32, 0x60841A, .and ⟨.c, 2, 1, 3, 0, 0, 0, 0, 0⟩),
    (32, 0x60841C, .or ⟨.c, 2, 1, 3, 0, 0, 0, 0, 0⟩),
    (32, 0x60841E, .xor ⟨.c, 2, 1, 3, 0, 0, 0, 0, 0⟩),
    (32, 0x8008420, .andi ⟨.c, 2, 1, 0, 0, 0, 0, 0, 1⟩),
    (32, 0x8008422, .ori ⟨.c, 2, 1, 0, 0, 0, 0, 0, 1⟩),
    (32, 0x8008424, .xori ⟨.c, 2, 1, 0, 0, 0, 0, 0, 1⟩),
    (32, 0x608426, .shl ⟨.c, 2, 1, 3, 0, 0, 0, 0, 0⟩),
    (32, 0x608428, .shr ⟨.c, 2, 1, 3, 0, 0, 0, 0, 0⟩),
    (32, 0x60842A, .sra ⟨.c, 2, 1, 3, 0, 0, 0, 0, 0⟩),
    (32, 0x800842C, .shli ⟨.c, 2, 1, 0, 0, 0, 0, 0, 1⟩),
    (32, 0x800842E, .shri ⟨.c, 2, 1, 0, 0, 0, 0, 0, 1⟩),
    (32, 0x8008430, .srai ⟨.c, 2, 1, 0, 0, 0, 0, 0, 1⟩),
    (32, 0x8608432, .rol ⟨.c, 2, 1, 3, 0, 0, 0, 0, 1⟩),
    (32, 0x608434, .slt ⟨.c, 2, 1, 3, 0, 0, 0, 0, 0⟩),
    (32, 0x608436, .sltu ⟨.c, 2, 1, 3, 0, 0, 0, 0, 0⟩),
    (32, 0x8008438, .slti ⟨.c, 2, 1, 0, 0, 0, 0, 0, 1⟩),
    (32, 0x60843A, .min ⟨.c, 2, 1, 3, 0, 0, 0, 0, 0⟩),
    (32, 0x60843C, .max ⟨.c, 2, 1, 3, 0, 0, 0, 0, 0⟩),
    (32, 0x60843E, .minu ⟨.c, 2, 1, 3, 0, 0, 0, 0, 0⟩)] : List (Nat × Nat × Instr)).all (fun r => decide (decodeTableWord r.1 r.2.1 = some r.2.2))) = true := by decide +kernel

/-- The action unit, opcodes from 0x20 (R248). -/
theorem test_decode_action1 : (([
    (32, 0x608440, .maxu ⟨.c, 2, 1, 3, 0, 0, 0, 0, 0⟩),
    (32, 0x8442, .clz ⟨.c, 2, 1, 0, 0, 0, 0, 0, 0⟩),
    (32, 0x8444, .ctz ⟨.c, 2, 1, 0, 0, 0, 0, 0, 0⟩),
    (32, 0x8446, .popc ⟨.c, 2, 1, 0, 0, 0, 0, 0, 0⟩),
    (32, 0x8448, .bswap ⟨.c, 2, 1, 0, 0, 0, 0, 0, 0⟩),
    (32, 0x800844A, .ext ⟨.c, 2, 1, 0, 0, 0, 0, 0, 1⟩),
    (32, 0x800844C, .ins ⟨.c, 2, 1, 0, 0, 0, 0, 0, 1⟩),
    (32, 0x844E, .sext ⟨.c, 2, 1, 0, 0, 0, 0, 0, 0⟩),
    (32, 0x8608450, .lea ⟨.c, 2, 1, 3, 0, 0, 0, 0, 1⟩),
    (32, 0x8608452, .cmpp ⟨.c, 2, 1, 3, 0, 0, 0, 0, 1⟩),
    (32, 0x8608054, .beq ⟨.c, 0, 1, 3, 0, 0, 0, 0, 1⟩),
    (32, 0x8608056, .bne ⟨.c, 0, 1, 3, 0, 0, 0, 0, 1⟩),
    (32, 0x8608058, .blt ⟨.c, 0, 1, 3, 0, 0, 0, 0, 1⟩),
    (32, 0x860805A, .bge ⟨.c, 0, 1, 3, 0, 0, 0, 0, 1⟩),
    (32, 0x860805C, .bltu ⟨.c, 0, 1, 3, 0, 0, 0, 0, 1⟩),
    (32, 0x860805E, .bgeu ⟨.c, 0, 1, 3, 0, 0, 0, 0, 1⟩),
    (32, 0x8000060, .jmp ⟨.c, 0, 0, 0, 0, 0, 0, 0, 1⟩),
    (32, 0x8008062, .jr ⟨.c, 0, 1, 0, 0, 0, 0, 0, 1⟩),
    (32, 0x8000464, .call ⟨.c, 2, 0, 0, 0, 0, 0, 0, 1⟩),
    (32, 0x8066, .ret ⟨.c, 0, 1, 0, 0, 0, 0, 0, 0⟩),
    (32, 0x608468, .sel ⟨.c, 2, 1, 3, 0, 0, 0, 0, 0⟩),
    (32, 0x60846A, .plog ⟨.c, 2, 1, 3, 0, 0, 0, 0, 0⟩),
    (32, 0x846C, .pmov ⟨.c, 2, 1, 0, 0, 0, 0, 0, 0⟩),
    (96, 0x400000008DB, .pmovFrom ⟨.l, 2, 0, 0, 0, 0, 0, 1, 0⟩),
    (96, 0x800000000DB, .pmovTo ⟨.l, 0, 0, 0, 0, 0, 0, 2, 0⟩),
    (32, 0x800046E, .mfc ⟨.c, 2, 0, 0, 0, 0, 0, 0, 1⟩),
    (32, 0x8008070, .mtc ⟨.c, 0, 1, 0, 0, 0, 0, 0, 1⟩),
    (32, 0x472, .budget ⟨.c, 2, 0, 0, 0, 0, 0, 0, 0⟩),
    (96, 0x4000000E7, .budgetSet ⟨.l, 0, 0, 0, 0, 1, 0, 0, 0⟩),
    (32, 0x74, .aend ⟨.c, 0, 0, 0, 0, 0, 0, 0, 0⟩),
    (32, 0x608476, .fadd ⟨.c, 2, 1, 3, 0, 0, 0, 0, 0⟩),
    (32, 0x608478, .fmul ⟨.c, 2, 1, 3, 0, 0, 0, 0, 0⟩),
    (32, 0x60847A, .fdiv ⟨.c, 2, 1, 3, 0, 0, 0, 0, 0⟩),
    (32, 0x847C, .fcvtF2i ⟨.c, 2, 1, 0, 0, 0, 0, 0, 0⟩),
    (96, 0x400000000FB, .fcvtI2f ⟨.l, 0, 0, 0, 0, 0, 0, 1, 0⟩),
    (96, 0x800000000FB, .fcvtU2f ⟨.l, 0, 0, 0, 0, 0, 0, 2, 0⟩),
    (96, 0xC00000000FB, .fcvtF2bf ⟨.l, 0, 0, 0, 0, 0, 0, 3, 0⟩),
    (96, 0x1000000000FB, .fcvtBf2f ⟨.l, 0, 0, 0, 0, 0, 0, 4, 0⟩),
    (96, 0x1400000000FB, .fcvtF2h ⟨.l, 0, 0, 0, 0, 0, 0, 5, 0⟩),
    (96, 0x1800000000FB, .fcvtH2f ⟨.l, 0, 0, 0, 0, 0, 0, 6, 0⟩)] : List (Nat × Nat × Instr)).all (fun r => decide (decodeTableWord r.1 r.2.1 = some r.2.2))) = true := by decide +kernel

/-- The action unit, opcodes from 0x20 (R248). -/
theorem test_decode_action1_1 : (([
    (96, 0x1C00000000FB, .fcvtF2e4 ⟨.l, 0, 0, 0, 0, 0, 0, 7, 0⟩),
    (96, 0x2000000000FB, .fcvtE42f ⟨.l, 0, 0, 0, 0, 0, 0, 8, 0⟩),
    (32, 0x60847E, .fcmp ⟨.c, 2, 1, 3, 0, 0, 0, 0, 0⟩)] : List (Nat × Nat × Instr)).all (fun r => decide (decodeTableWord r.1 r.2.1 = some r.2.2))) = true := by decide +kernel

/-- Grammar, marks, signals and the Ligature (R276). -/
theorem test_decode_grammar : (([
    (32, 0x8000480, .gpeek ⟨.c, 2, 0, 0, 0, 0, 0, 0, 1⟩),
    (32, 0x8008482, .gskip ⟨.c, 2, 1, 0, 0, 0, 0, 0, 1⟩),
    (32, 0x8008484, .gpush ⟨.c, 2, 1, 0, 0, 0, 0, 0, 1⟩),
    (32, 0x8000486, .gpop ⟨.c, 2, 0, 0, 0, 0, 0, 0, 1⟩),
    (32, 0x8000488, .gfstat ⟨.c, 2, 0, 0, 0, 0, 0, 0, 1⟩),
    (32, 0x48A, .gresume ⟨.c, 2, 0, 0, 0, 0, 0, 0, 0⟩),
    (96, 0x400000117, .gresumeRecover ⟨.l, 0, 0, 0, 0, 1, 0, 0, 0⟩),
    (32, 0x800808C, .markif ⟨.c, 0, 1, 0, 0, 0, 0, 0, 1⟩),
    (32, 0x800048E, .markemit ⟨.c, 2, 0, 0, 0, 0, 0, 0, 1⟩),
    (96, 0x40000011F, .markemitR ⟨.l, 0, 0, 0, 0, 1, 0, 0, 0⟩),
    (32, 0x8608490, .sigdec ⟨.c, 2, 1, 3, 0, 0, 0, 0, 1⟩),
    (32, 0x8608492, .sigwait ⟨.c, 2, 1, 3, 0, 0, 0, 0, 1⟩),
    (96, 0x40000000127, .sigwaitPoll ⟨.l, 0, 0, 0, 0, 0, 0, 1, 0⟩),
    (32, 0x8608494, .sigset ⟨.c, 2, 1, 3, 0, 0, 0, 0, 1⟩),
    (32, 0x8608496, .ligcfgTerm ⟨.c, 2, 1, 3, 0, 0, 0, 0, 1⟩),
    (96, 0x40000012F, .ligcfgSrc ⟨.l, 0, 0, 0, 0, 1, 0, 0, 0⟩),
    (96, 0x80000012F, .ligcfgTread ⟨.l, 0, 0, 0, 0, 2, 0, 0, 0⟩),
    (32, 0x8498, .ligcntRd ⟨.c, 2, 1, 0, 0, 0, 0, 0, 0⟩),
    (96, 0x400000133, .ligcntSet ⟨.l, 0, 0, 0, 0, 1, 0, 0, 0⟩),
    (96, 0x800000133, .ligcntSub ⟨.l, 0, 0, 0, 0, 2, 0, 0, 0⟩),
    (96, 0xC00000133, .ligcntClrv ⟨.l, 0, 0, 0, 0, 3, 0, 0, 0⟩),
    (32, 0x860049A, .ligfire ⟨.c, 2, 0, 3, 0, 0, 0, 0, 1⟩),
    (32, 0x49C, .gstate ⟨.c, 2, 0, 0, 0, 0, 0, 0, 0⟩),
    (96, 0x40000013B, .gstateStk ⟨.l, 0, 0, 0, 0, 1, 0, 0, 0⟩),
    (32, 0x860809E, .evwait ⟨.c, 0, 1, 3, 0, 0, 0, 0, 1⟩)] : List (Nat × Nat × Instr)).all (fun r => decide (decodeTableWord r.1 r.2.1 = some r.2.2))) = true := by decide +kernel

/-- Memory (R203). -/
theorem test_decode_memory : (([
    (32, 0x80084A0, .ld ⟨.c, 2, 1, 0, 0, 0, 0, 0, 1⟩),
    (32, 0x80084A2, .st ⟨.c, 2, 1, 0, 0, 0, 0, 0, 1⟩),
    (32, 0x86084A4, .ldx ⟨.c, 2, 1, 3, 0, 0, 0, 0, 1⟩),
    (32, 0x86084A6, .stx ⟨.c, 2, 1, 3, 0, 0, 0, 0, 1⟩),
    (32, 0x80084A8, .ldv ⟨.c, 2, 1, 0, 0, 0, 0, 0, 1⟩),
    (32, 0x80084AA, .stv ⟨.c, 2, 1, 0, 0, 0, 0, 0, 1⟩),
    (32, 0x86084AC, .ldg ⟨.c, 2, 1, 3, 0, 0, 0, 0, 1⟩),
    (32, 0x86084AE, .sct ⟨.c, 2, 1, 3, 0, 0, 0, 0, 1⟩),
    (32, 0x80084B0, .spld ⟨.c, 2, 1, 0, 0, 0, 0, 0, 1⟩),
    (32, 0x80084B2, .spst ⟨.c, 2, 1, 0, 0, 0, 0, 0, 1⟩),
    (32, 0x80084B4, .spldv ⟨.c, 2, 1, 0, 0, 0, 0, 0, 1⟩),
    (32, 0x80084B6, .spstv ⟨.c, 2, 1, 0, 0, 0, 0, 0, 1⟩),
    (32, 0x86084B8, .aadd ⟨.c, 2, 1, 3, 0, 0, 0, 0, 1⟩),
    (32, 0x86084BA, .aand ⟨.c, 2, 1, 3, 0, 0, 0, 0, 1⟩),
    (32, 0x86084BC, .aor ⟨.c, 2, 1, 3, 0, 0, 0, 0, 1⟩),
    (32, 0x86084BE, .axor ⟨.c, 2, 1, 3, 0, 0, 0, 0, 1⟩),
    (32, 0x86084C0, .amin ⟨.c, 2, 1, 3, 0, 0, 0, 0, 1⟩),
    (32, 0x86084C2, .amax ⟨.c, 2, 1, 3, 0, 0, 0, 0, 1⟩),
    (32, 0x86084C4, .aminu ⟨.c, 2, 1, 3, 0, 0, 0, 0, 1⟩),
    (32, 0x86084C6, .amaxu ⟨.c, 2, 1, 3, 0, 0, 0, 0, 1⟩),
    (32, 0x86084C8, .aswp ⟨.c, 2, 1, 3, 0, 0, 0, 0, 1⟩),
    (32, 0x86084CA, .acas ⟨.c, 2, 1, 3, 0, 0, 0, 0, 1⟩),
    (96, 0x4000000019B, .afadd ⟨.l, 0, 0, 0, 0, 0, 0, 1, 0⟩),
    (32, 0xCE, .fence ⟨.c, 0, 0, 0, 0, 0, 0, 0, 0⟩),
    (96, 0x4000000019F, .fenceAcq ⟨.l, 0, 0, 0, 0, 0, 0, 1, 0⟩),
    (96, 0x8000000019F, .fenceRel ⟨.l, 0, 0, 0, 0, 0, 0, 2, 0⟩),
    (32, 0x80084D0, .ldacq ⟨.c, 2, 1, 0, 0, 0, 0, 0, 1⟩),
    (32, 0x80084D2, .strel ⟨.c, 2, 1, 0, 0, 0, 0, 0, 1⟩),
    (32, 0x80080D4, .pref ⟨.c, 0, 1, 0, 0, 0, 0, 0, 1⟩),
    (32, 0x86080D6, .cwb ⟨.c, 0, 1, 3, 0, 0, 0, 0, 1⟩),
    (32, 0x86080D8, .cinv ⟨.c, 0, 1, 3, 0, 0, 0, 0, 1⟩),
    (96, 0x4000001B3, .cinvI ⟨.l, 0, 0, 0, 0, 1, 0, 0, 0⟩),
    (32, 0x80084DA, .ldnt ⟨.c, 2, 1, 0, 0, 0, 0, 0, 1⟩),
    (32, 0x80084DC, .stnt ⟨.c, 2, 1, 0, 0, 0, 0, 0, 1⟩)] : List (Nat × Nat × Instr)).all (fun r => decide (decodeTableWord r.1 r.2.1 = some r.2.2))) = true := by decide +kernel

/-- Ports and copies (R170). -/
theorem test_decode_ports : (([
    (32, 0x80084E0, .tidset ⟨.c, 2, 1, 0, 0, 0, 0, 0, 1⟩),
    (32, 0x80084E2, .tidget ⟨.c, 2, 1, 0, 0, 0, 0, 0, 1⟩),
    (32, 0x84E4, .tidmodBase ⟨.c, 2, 1, 0, 0, 0, 0, 0, 0⟩),
    (96, 0x4000001CB, .tidmodSbase ⟨.l, 0, 0, 0, 0, 1, 0, 0, 0⟩),
    (96, 0x8000001CB, .tidmodSize ⟨.l, 0, 0, 0, 0, 2, 0, 0, 0⟩),
    (96, 0xC000001CB, .tidmodStride ⟨.l, 0, 0, 0, 0, 3, 0, 0, 0⟩),
    (96, 0x10000001CB, .tidmodValid ⟨.l, 0, 0, 0, 0, 4, 0, 0, 0⟩),
    (96, 0x14000001CB, .tidmodAddbase ⟨.l, 0, 0, 0, 0, 5, 0, 0, 0⟩),
    (32, 0x84E6, .tidchk ⟨.c, 2, 1, 0, 0, 0, 0, 0, 0⟩),
    (32, 0x84E8, .pbind ⟨.c, 2, 1, 0, 0, 0, 0, 0, 0⟩),
    (32, 0x4EA, .punbind ⟨.c, 2, 0, 0, 0, 0, 0, 0, 0⟩),
    (32, 0x6084EC, .pseek ⟨.c, 2, 1, 3, 0, 0, 0, 0, 0⟩),
    (32, 0x84EE, .pstat ⟨.c, 2, 1, 0, 0, 0, 0, 0, 0⟩),
    (32, 0x80084F0, .pwin ⟨.c, 2, 1, 0, 0, 0, 0, 0, 1⟩),
    (32, 0x84F2, .pxform ⟨.c, 2, 1, 0, 0, 0, 0, 0, 0⟩),
    (32, 0x6084F4, .cpy ⟨.c, 2, 1, 3, 0, 0, 0, 0, 0⟩),
    (32, 0x86084F6, .cpys ⟨.c, 2, 1, 3, 0, 0, 0, 0, 1⟩),
    (32, 0x6084F8, .cpyt ⟨.c, 2, 1, 3, 0, 0, 0, 0, 0⟩),
    (32, 0x6084FA, .cpyq ⟨.c, 2, 1, 3, 0, 0, 0, 0, 0⟩),
    (32, 0x86084FC, .cpyr ⟨.c, 2, 1, 3, 0, 0, 0, 0, 1⟩),
    (32, 0x86080FE, .cpyw ⟨.c, 0, 1, 3, 0, 0, 0, 0, 1⟩)] : List (Nat × Nat × Instr)).all (fun r => decide (decodeTableWord r.1 r.2.1 = some r.2.2))) = true := by decide +kernel

/-- Barriers, the scratchpad and circuits (R170). -/
theorem test_decode_scratch : (([
    (32, 0x8608100, .barinit ⟨.c, 0, 1, 3, 0, 0, 0, 0, 1⟩),
    (32, 0x8608102, .bararm ⟨.c, 0, 1, 3, 0, 0, 0, 0, 1⟩),
    (32, 0x8608104, .barwait ⟨.c, 0, 1, 3, 0, 0, 0, 0, 1⟩),
    (32, 0x8608506, .bartest ⟨.c, 2, 1, 3, 0, 0, 0, 0, 1⟩),
    (32, 0x8608108, .bararr ⟨.c, 0, 1, 3, 0, 0, 0, 0, 1⟩),
    (32, 0x850A, .sptlook ⟨.c, 2, 1, 0, 0, 0, 0, 0, 0⟩),
    (32, 0x60850C, .sptins ⟨.c, 2, 1, 3, 0, 0, 0, 0, 0⟩),
    (32, 0x850E, .sptevict ⟨.c, 2, 1, 0, 0, 0, 0, 0, 0⟩),
    (32, 0x8510, .sptread ⟨.c, 2, 1, 0, 0, 0, 0, 0, 0⟩),
    (32, 0x8608112, .feset ⟨.c, 0, 1, 3, 0, 0, 0, 0, 1⟩),
    (32, 0x8608114, .feclr ⟨.c, 0, 1, 3, 0, 0, 0, 0, 1⟩),
    (32, 0x8516, .fetest ⟨.c, 2, 1, 0, 0, 0, 0, 0, 0⟩),
    (32, 0x518, .pflush ⟨.c, 2, 0, 0, 0, 0, 0, 0, 0⟩),
    (32, 0x860851A, .circ ⟨.c, 2, 1, 3, 0, 0, 0, 0, 1⟩)] : List (Nat × Nat × Instr)).all (fun r => decide (decodeTableWord r.1 r.2.1 = some r.2.2))) = true := by decide +kernel

/-- Matrix (R347). -/
theorem test_decode_matrix : (([
    (32, 0x8608520, .mxmma ⟨.c, 2, 1, 3, 0, 0, 0, 0, 1⟩),
    (32, 0x522, .mxzero ⟨.c, 2, 0, 0, 0, 0, 0, 0, 0⟩),
    (32, 0x8524, .mxldacc ⟨.c, 2, 1, 0, 0, 0, 0, 0, 0⟩),
    (32, 0x608526, .mxstacc ⟨.c, 2, 1, 3, 0, 0, 0, 0, 0⟩),
    (32, 0x8608128, .mxwload ⟨.c, 0, 1, 3, 0, 0, 0, 0, 1⟩),
    (32, 0x800812A, .mxwdrop ⟨.c, 0, 1, 0, 0, 0, 0, 0, 1⟩),
    (96, 0x400000257, .mxwdropAll ⟨.l, 0, 0, 0, 0, 1, 0, 0, 0⟩),
    (32, 0x852C, .mxscale ⟨.c, 2, 1, 0, 0, 0, 0, 0, 0⟩),
    (96, 0x40000025F, .mxfmt ⟨.l, 0, 0, 0, 0, 1, 0, 0, 0⟩),
    (32, 0x8608130, .mxchainOff ⟨.c, 0, 1, 3, 0, 0, 0, 0, 1⟩),
    (96, 0x400000263, .mxchainScale ⟨.l, 0, 0, 0, 0, 1, 0, 0, 0⟩),
    (96, 0x800000263, .mxchainBias ⟨.l, 0, 0, 0, 0, 2, 0, 0, 0⟩),
    (96, 0xC00000263, .mxchainResid ⟨.l, 0, 0, 0, 0, 3, 0, 0, 0⟩),
    (96, 0x1000000263, .mxchainAct ⟨.l, 0, 0, 0, 0, 4, 0, 0, 0⟩),
    (96, 0x1400000263, .mxchainClamp ⟨.l, 0, 0, 0, 0, 5, 0, 0, 0⟩),
    (96, 0x1800000263, .mxchainQnt ⟨.l, 0, 0, 0, 0, 6, 0, 0, 0⟩),
    (32, 0x532, .mxskipOff ⟨.c, 2, 0, 0, 0, 0, 0, 0, 0⟩),
    (96, 0x400000267, .mxskipOn ⟨.l, 0, 0, 0, 0, 1, 0, 0, 0⟩),
    (96, 0x800000267, .mxskipRd ⟨.l, 0, 0, 0, 0, 2, 0, 0, 0⟩),
    (32, 0x134, .mxwait ⟨.c, 0, 0, 0, 0, 0, 0, 0, 0⟩),
    (96, 0x40000026B, .mxwaitAll ⟨.l, 0, 0, 0, 0, 1, 0, 0, 0⟩),
    (32, 0x536, .mxstat ⟨.c, 2, 0, 0, 0, 0, 0, 0, 0⟩),
    (96, 0x40000026F, .mxstatSlot ⟨.l, 0, 0, 0, 0, 1, 0, 0, 0⟩),
    (96, 0x80000026F, .mxstatZmask ⟨.l, 0, 0, 0, 0, 2, 0, 0, 0⟩),
    (96, 0xC0000026F, .mxstatSkipcnt ⟨.l, 0, 0, 0, 0, 3, 0, 0, 0⟩)] : List (Nat × Nat × Instr)).all (fun r => decide (decodeTableWord r.1 r.2.1 = some r.2.2))) = true := by decide +kernel

/-- Vector, opcodes below 0xB8 (R370). -/
theorem test_decode_vector0 : (([
    (32, 0x608540, .vadd ⟨.c, 2, 1, 3, 0, 0, 0, 0, 0⟩),
    (32, 0x608542, .vsub ⟨.c, 2, 1, 3, 0, 0, 0, 0, 0⟩),
    (32, 0x608544, .vmul ⟨.c, 2, 1, 3, 0, 0, 0, 0, 0⟩),
    (32, 0x608546, .vfma ⟨.c, 2, 1, 3, 0, 0, 0, 0, 0⟩),
    (32, 0x608548, .vfms ⟨.c, 2, 1, 3, 0, 0, 0, 0, 0⟩),
    (32, 0x60854A, .vdiv ⟨.c, 2, 1, 3, 0, 0, 0, 0, 0⟩),
    (32, 0x854C, .vsqrt ⟨.c, 2, 1, 0, 0, 0, 0, 0, 0⟩),
    (32, 0x854E, .vrsq ⟨.c, 2, 1, 0, 0, 0, 0, 0, 0⟩),
    (32, 0x8550, .vrcp ⟨.c, 2, 1, 0, 0, 0, 0, 0, 0⟩),
    (32, 0x608552, .vmin ⟨.c, 2, 1, 3, 0, 0, 0, 0, 0⟩),
    (32, 0x608554, .vmax ⟨.c, 2, 1, 3, 0, 0, 0, 0, 0⟩),
    (32, 0x8556, .vabs ⟨.c, 2, 1, 0, 0, 0, 0, 0, 0⟩),
    (32, 0x8558, .vneg ⟨.c, 2, 1, 0, 0, 0, 0, 0, 0⟩),
    (32, 0x855A, .vfn ⟨.c, 2, 1, 0, 0, 0, 0, 0, 0⟩),
    (32, 0x860855C, .vscaleb ⟨.c, 2, 1, 3, 0, 0, 0, 0, 1⟩),
    (32, 0x855E, .vround ⟨.c, 2, 1, 0, 0, 0, 0, 0, 0⟩),
    (32, 0x8560, .vclass ⟨.c, 2, 1, 0, 0, 0, 0, 0, 0⟩),
    (32, 0x8562, .vcvtF2i ⟨.c, 2, 1, 0, 0, 0, 0, 0, 0⟩),
    (96, 0x400000002C7, .vcvtI2f ⟨.l, 0, 0, 0, 0, 0, 0, 1, 0⟩),
    (96, 0x800000002C7, .vcvtUi2f ⟨.l, 0, 0, 0, 0, 0, 0, 2, 0⟩),
    (96, 0xC00000002C7, .vcvtF2bf ⟨.l, 0, 0, 0, 0, 0, 0, 3, 0⟩),
    (96, 0x1000000002C7, .vcvtBf2f ⟨.l, 0, 0, 0, 0, 0, 0, 4, 0⟩),
    (96, 0x1400000002C7, .vcvtF2h ⟨.l, 0, 0, 0, 0, 0, 0, 5, 0⟩),
    (96, 0x1800000002C7, .vcvtH2f ⟨.l, 0, 0, 0, 0, 0, 0, 6, 0⟩),
    (96, 0x1C00000002C7, .vcvtF2e4 ⟨.l, 0, 0, 0, 0, 0, 0, 7, 0⟩),
    (96, 0x2000000002C7, .vcvtE42f ⟨.l, 0, 0, 0, 0, 0, 0, 8, 0⟩),
    (96, 0x2400000002C7, .vcvtF2e5 ⟨.l, 0, 0, 0, 0, 0, 0, 9, 0⟩),
    (96, 0x2800000002C7, .vcvtE52f ⟨.l, 0, 0, 0, 0, 0, 0, 10, 0⟩),
    (96, 0x2C00000002C7, .vcvtF2i8 ⟨.l, 0, 0, 0, 0, 0, 0, 11, 0⟩),
    (96, 0x3000000002C7, .vcvtI82f ⟨.l, 0, 0, 0, 0, 0, 0, 12, 0⟩),
    (96, 0xC000002CB, .vqntE4m3 ⟨.l, 0, 0, 0, 0, 3, 0, 0, 0⟩),
    (96, 0x20000002CB, .vqntBfp ⟨.l, 0, 0, 0, 0, 8, 0, 0, 0⟩),
    (96, 0xC000002CF, .vdqnt ⟨.l, 0, 0, 0, 0, 3, 0, 0, 0⟩),
    (32, 0x608568, .vcmp ⟨.c, 2, 1, 3, 0, 0, 0, 0, 0⟩),
    (32, 0x60856A, .vsel ⟨.c, 2, 1, 3, 0, 0, 0, 0, 0⟩),
    (32, 0x60856C, .viadd ⟨.c, 2, 1, 3, 0, 0, 0, 0, 0⟩),
    (32, 0x60856E, .visub ⟨.c, 2, 1, 3, 0, 0, 0, 0, 0⟩)] : List (Nat × Nat × Instr)).all (fun r => decide (decodeTableWord r.1 r.2.1 = some r.2.2))) = true := by decide +kernel

/-- Vector, opcodes from 0xB8 (R370). -/
theorem test_decode_vector1 : (([
    (32, 0x608570, .vimul ⟨.c, 2, 1, 3, 0, 0, 0, 0, 0⟩),
    (32, 0x608572, .vimad ⟨.c, 2, 1, 3, 0, 0, 0, 0, 0⟩),
    (32, 0x608574, .vand ⟨.c, 2, 1, 3, 0, 0, 0, 0, 0⟩),
    (32, 0x608576, .vor ⟨.c, 2, 1, 3, 0, 0, 0, 0, 0⟩),
    (32, 0x608578, .vxor ⟨.c, 2, 1, 3, 0, 0, 0, 0, 0⟩),
    (32, 0x60857A, .vshl ⟨.c, 2, 1, 3, 0, 0, 0, 0, 0⟩),
    (32, 0x60857C, .vshr ⟨.c, 2, 1, 3, 0, 0, 0, 0, 0⟩),
    (32, 0x60857E, .vsra ⟨.c, 2, 1, 3, 0, 0, 0, 0, 0⟩),
    (32, 0x8580, .vclz ⟨.c, 2, 1, 0, 0, 0, 0, 0, 0⟩),
    (32, 0x8582, .vpopc ⟨.c, 2, 1, 0, 0, 0, 0, 0, 0⟩),
    (32, 0x8584, .vred ⟨.c, 2, 1, 0, 0, 0, 0, 0, 0⟩),
    (32, 0x8586, .vscan ⟨.c, 2, 1, 0, 0, 0, 0, 0, 0⟩),
    (32, 0x8588, .vbcast ⟨.c, 2, 1, 0, 0, 0, 0, 0, 0⟩),
    (96, 0x40000000313, .vbcastLane ⟨.l, 0, 0, 0, 0, 0, 0, 1, 0⟩),
    (32, 0x860858A, .vextr ⟨.c, 2, 1, 3, 0, 0, 0, 0, 1⟩),
    (32, 0x860858C, .vins ⟨.c, 2, 1, 3, 0, 0, 0, 0, 1⟩),
    (32, 0x60858E, .vperm ⟨.c, 2, 1, 3, 0, 0, 0, 0, 0⟩),
    (32, 0x8608590, .vrot ⟨.c, 2, 1, 3, 0, 0, 0, 0, 1⟩),
    (32, 0x8608592, .viota ⟨.c, 2, 1, 3, 0, 0, 0, 0, 1⟩),
    (32, 0x8594, .vsort ⟨.c, 2, 1, 0, 0, 0, 0, 0, 0⟩),
    (32, 0x608596, .vtopk ⟨.c, 2, 1, 3, 0, 0, 0, 0, 0⟩),
    (32, 0x608598, .vgate ⟨.c, 2, 1, 3, 0, 0, 0, 0, 0⟩),
    (96, 0x400000333, .vgateRenorm ⟨.l, 0, 0, 0, 0, 1, 0, 0, 0⟩),
    (32, 0x860819A, .vhist ⟨.c, 0, 1, 3, 0, 0, 0, 0, 1⟩),
    (32, 0x859C, .vprng ⟨.c, 2, 1, 0, 0, 0, 0, 0, 0⟩),
    (32, 0x60859E, .vprd ⟨.c, 2, 1, 3, 0, 0, 0, 0, 0⟩),
    (32, 0x6085A0, .vpwr ⟨.c, 2, 1, 3, 0, 0, 0, 0, 0⟩),
    (32, 0x85A2, .vpcnt ⟨.c, 2, 1, 0, 0, 0, 0, 0, 0⟩),
    (32, 0x85A4, .vplogNz ⟨.c, 2, 1, 0, 0, 0, 0, 0, 0⟩),
    (96, 0x40000000B4B, .vplogBit ⟨.l, 2, 0, 0, 0, 0, 0, 1, 0⟩),
    (96, 0x8000000034B, .vplogP2v ⟨.l, 0, 0, 0, 0, 0, 0, 2, 0⟩),
    (32, 0x85A6, .vmov ⟨.c, 2, 1, 0, 0, 0, 0, 0, 0⟩)] : List (Nat × Nat × Instr)).all (fun r => decide (decodeTableWord r.1 r.2.1 = some r.2.2))) = true := by decide +kernel

/-- Merge (R409). -/
theorem test_decode_merge : (([
    (32, 0x6085C0, .mgisect ⟨.c, 2, 1, 3, 0, 0, 0, 0, 0⟩),
    (32, 0x6085C2, .mgunion ⟨.c, 2, 1, 3, 0, 0, 0, 0, 0⟩),
    (32, 0x6085C4, .mgdiff ⟨.c, 2, 1, 3, 0, 0, 0, 0, 0⟩),
    (32, 0x6085C6, .mgmerge ⟨.c, 2, 1, 3, 0, 0, 0, 0, 0⟩),
    (32, 0x106085C8, .mgsteer ⟨.c, 2, 1, 3, 0, 0, 0, 0, 2⟩),
    (32, 0x86085CA, .mgseq ⟨.c, 2, 1, 3, 0, 0, 0, 0, 1⟩),
    (32, 0x5CC, .mgstat ⟨.c, 2, 0, 0, 0, 0, 0, 0, 0⟩),
    (96, 0x40000039B, .mgstatPart ⟨.l, 0, 0, 0, 0, 1, 0, 0, 0⟩),
    (96, 0x80000039B, .mgstatLeaf ⟨.l, 0, 0, 0, 0, 2, 0, 0, 0⟩),
    (32, 0x80081CE, .mgcfgPivot ⟨.c, 0, 1, 0, 0, 0, 0, 0, 1⟩),
    (96, 0x40000039F, .mgcfgPread ⟨.l, 0, 0, 0, 0, 1, 0, 0, 0⟩),
    (96, 0x80000039F, .mgcfgMark ⟨.l, 0, 0, 0, 0, 2, 0, 0, 0⟩)] : List (Nat × Nat × Instr)).all (fun r => decide (decodeTableWord r.1 r.2.1 = some r.2.2))) = true := by decide +kernel

/-- Scroll (R468). -/
theorem test_decode_scroll : (([
    (32, 0x6085D0, .screcBegin ⟨.c, 2, 1, 3, 0, 0, 0, 0, 0⟩),
    (96, 0x400000003A3, .screcEnd ⟨.l, 0, 0, 0, 0, 0, 0, 1, 0⟩),
    (32, 0x6085D2, .scplay ⟨.c, 2, 1, 3, 0, 0, 0, 0, 0⟩),
    (32, 0x80001D4, .scguard ⟨.c, 0, 0, 0, 0, 0, 0, 0, 1⟩),
    (96, 0x400000003AB, .scpatch ⟨.l, 0, 0, 0, 0, 0, 0, 1, 0⟩),
    (32, 0x85D6, .scinv ⟨.c, 2, 1, 0, 0, 0, 0, 0, 0⟩),
    (96, 0x400000003AF, .scstat ⟨.l, 0, 0, 0, 0, 0, 0, 1, 0⟩)] : List (Nat × Nat × Instr)).all (fun r => decide (decodeTableWord r.1 r.2.1 = some r.2.2))) = true := by decide +kernel

/-- K-level (R316). -/
theorem test_decode_supervisor : (([
    (32, 0x80001D8, .trap ⟨.c, 0, 0, 0, 0, 0, 0, 0, 1⟩),
    (32, 0x1DA, .eret ⟨.c, 0, 0, 0, 0, 0, 0, 0, 0⟩),
    (96, 0x400000003B7, .eretSkip ⟨.l, 0, 0, 0, 0, 0, 0, 1, 0⟩),
    (96, 0x800000003B7, .eretKill ⟨.l, 0, 0, 0, 0, 0, 0, 2, 0⟩),
    (32, 0x6081DC, .tlbinvPage ⟨.c, 0, 1, 3, 0, 0, 0, 0, 0⟩),
    (96, 0x400000003BB, .tlbinvAsid ⟨.l, 0, 0, 0, 0, 0, 0, 1, 0⟩),
    (96, 0x800000003BB, .tlbinvAll ⟨.l, 0, 0, 0, 0, 0, 0, 2, 0⟩),
    (32, 0x6085DE, .asidset ⟨.c, 2, 1, 3, 0, 0, 0, 0, 0⟩),
    (96, 0x400000003C3, .ctxsave ⟨.l, 0, 0, 0, 0, 0, 0, 1, 0⟩),
    (96, 0x400000003C7, .ctxload ⟨.l, 0, 0, 0, 0, 0, 0, 1, 0⟩),
    (32, 0x1E4, .resume ⟨.c, 0, 0, 0, 0, 0, 0, 0, 0⟩),
    (32, 0x85E6, .drain ⟨.c, 2, 1, 0, 0, 0, 0, 0, 0⟩),
    (32, 0x80005E8, .wfi ⟨.c, 2, 0, 0, 0, 0, 0, 0, 1⟩),
    (32, 0x80001EA, .brk ⟨.c, 0, 0, 0, 0, 0, 0, 0, 1⟩),
    (32, 0x85EC, .memctlTag ⟨.c, 2, 1, 0, 0, 0, 0, 0, 0⟩),
    (96, 0x4000003DB, .memctlFmr ⟨.l, 0, 0, 0, 0, 1, 0, 0, 0⟩),
    (96, 0x8000003DB, .memctlRd ⟨.l, 0, 0, 0, 0, 2, 0, 0, 0⟩),
    (96, 0xC000003DB, .memctlWr ⟨.l, 0, 0, 0, 0, 3, 0, 0, 0⟩),
    (32, 0x6085EE, .balloonAdd ⟨.c, 2, 1, 3, 0, 0, 0, 0, 0⟩),
    (96, 0x4000003DF, .balloonRem ⟨.l, 0, 0, 0, 0, 1, 0, 0, 0⟩),
    (96, 0x8000003DF, .balloonPri ⟨.l, 0, 0, 0, 0, 2, 0, 0, 0⟩),
    (32, 0x86085F0, .qpost ⟨.c, 2, 1, 3, 0, 0, 0, 0, 1⟩),
    (32, 0x6085F2, .pinit ⟨.c, 2, 1, 3, 0, 0, 0, 0, 0⟩),
    (32, 0x80085F4, .irqCore ⟨.c, 2, 1, 0, 0, 0, 0, 0, 1⟩),
    (96, 0x4000003EB, .irqHost ⟨.l, 0, 0, 0, 0, 1, 0, 0, 0⟩),
    (32, 0x6085F6, .walk ⟨.c, 2, 1, 3, 0, 0, 0, 0, 0⟩)] : List (Nat × Nat × Instr)).all (fun r => decide (decodeTableWord r.1 r.2.1 = some r.2.2))) = true := by decide +kernel

/-! ## Small states -/

/-- One page of memory at virtual address 0, of address space 0, with every right, at device-physical address 0x10000. -/
def page : TlbEntry := ⟨0, 0, 4096, 0x10439⟩

/-- A group of one index. -/
def grp : Group := ⟨0, 1, 0, 1, 0x2000, 0, 0⟩

/-- The core in its K context, in a trap, with the scalars given. -/
def kS (r : SMap Word) : State :=
  { State.reset with core := { Core.reset with cur := .k, inTrap := true, l1tlb := [page], k := { Ctx.reset with s := r, pc := 0x100 } } }

/-- Context U0 in an action routine of a group. -/
def uCtx0 (r : SMap Word) : Ctx := { Ctx.reset with s := r, pc := 0x100, st := .action, loaded := 0x1000, group := some grp }

/-- The core in U0. -/
def uS (r : SMap Word) : State := { State.reset with core := { Core.reset with cur := .u0, l1tlb := [page], u0 := uCtx0 r } }

/-- U0 with another context record. -/
def uWith (x : Ctx) : State := { State.reset with core := { Core.reset with cur := .u0, l1tlb := [page], u0 := x } }

/-- The fields of an instruction in the L form. -/
def f (d a b c : BitVec 6) (q : BitVec 4) (m : BitVec 6) (imm : BitVec 48) : Ops := ⟨.l, d, a, b, c, q, 0, m, imm⟩

/-- A computation that succeeds. -/
def good {ε α : Type} : Except ε α → Bool
  | .ok _ => true
  | .error _ => false

theorem ready_k (o : Ops) (r : SMap Word) (h : o.g = 0) : ReadyK o (kS r) := by
  refine ⟨⟨⟨rfl, rfl⟩, ?_⟩, rfl⟩
  simp [State.guard0, h, guardMask, Ctx.getP]

theorem ready_u (o : Ops) (r : SMap Word) (h : o.g = 0) : Ready o (uS r) := by
  refine ⟨⟨rfl, rfl⟩, ?_⟩
  simp [State.guard0, h, guardMask, Ctx.getP]

theorem open_u (r : SMap Word) : Open (uS r) := ⟨rfl, rfl⟩

/-- An access of U0 that translates and waits for no way of the Well. -/
def free (s : State) (k : Access) (va n : Nat) : Bool :=
  match accessParts s 0 false k va n with
  | .ok (ps, t) => !t.waitsWay ps
  | .error _ => false

/-- So do the accesses of some lanes. -/
def freeLanes (s : State) (k : Access) (addr : Nat → Nat) (ls : List Nat) : Bool :=
  match laneParts s k addr ls with
  | .ok (l, t) => !t.waitsWay (l.flatMap (·.2))
  | .error _ => false

/-- No store can be missed where none is under way. -/
theorem settled_nil (s : State) (ps : List Part) (h : s.unseen = []) (hc : s.coreId < 512) : s.settled ps := fun _ _ => ⟨hc, by simp [h]⟩

/-! ## States that meet the hypotheses of the statements, clause by clause -/

theorem witness_moveResults : Ready (f 1 2 3 0 0 0 0) (uS []) ∧ (f 1 2 3 0 0 0 0).c = 0 := ⟨ready_u _ _ rfl, rfl⟩
theorem witness_arithmeticResults : Ready (f 1 2 3 0 0 0 0) (uS [(3, 7)]) ∧ (uS [(3, 7)]).getS 3 ≠ 0 := ⟨ready_u _ _ rfl, by decide⟩
theorem witness_arithmeticResults_zero : Ready (f 1 2 3 0 0 0 0) (uS [(2, 9)]) ∧ (uS [(2, 9)]).getS 3 = 0 := ⟨ready_u _ _ rfl, by decide⟩
theorem witness_shiftAndCompareResults : Ready (f 1 2 3 0 7 0 63) (uS []) ∧ (f 1 2 3 0 7 0 63).imm.toNat < 64 ∧ (f 1 2 3 0 7 0 63).q.toNat < 8 := ⟨ready_u _ _ rfl, by decide, by decide⟩
theorem witness_bitFieldResults : Ready (f 1 2 0 0 2 0 0xFC0) (uS []) ∧ (f 1 2 0 0 2 0 0xFC0).q.toNat < 3 ∧ 0xFC0 % 64 + (0xFC0 / 64 % 64 + 1) ≤ 64 := ⟨ready_u _ _ rfl, by decide, by decide⟩
theorem witness_controlTransferResults : Ready (f 1 2 3 0 0 0 4) (uS []) ∧ ((uS []).ctx.pc + BitVec.signExtend 64 (4 : BitVec 48)).toNat % 2 ^ 48 % 4 = 0 ∧
    ((uS []).getS 2 + BitVec.signExtend 64 (4 : BitVec 48)).toNat % 2 ^ 48 % 4 = 0 ∧ ((uS []).getS 2).toNat % 2 ^ 48 % 4 = 0 := ⟨ready_u _ _ rfl, by decide, by decide, by decide⟩
theorem witness_controlTransferResults_misaligned : Ready (f 1 2 3 0 0 0 2) (uS [(2, 1)]) ∧ ((uS []).ctx.pc + BitVec.signExtend 64 (2 : BitVec 48)).toNat % 2 ^ 48 % 4 ≠ 0 ∧
    ((uS [(2, 1)]).getS 2 + BitVec.signExtend 64 (2 : BitVec 48)).toNat % 2 ^ 48 % 4 ≠ 0 ∧ ((uS [(2, 1)]).getS 2).toNat % 2 ^ 48 % 4 ≠ 0 := ⟨ready_u _ _ rfl, by decide, by decide, by decide⟩
theorem witness_controlRegisterAccess : Ready (f 1 2 0 0 0 0 0x80B) (kS []) ∧ (kS []).core.cur = .k ∧ Ready (f 1 2 0 0 0 0 5) (uS []) ∧ (f 1 2 0 0 0 0 5).imm.toNat < 0x800 :=
  ⟨(ready_k _ _ rfl).1, rfl, ready_u _ _ rfl, by decide⟩
theorem witness_controlRegisterAccess_priv : (uS []).core.halted = false ∧ (uS []).core.cur ≠ .k ∧ 0x800 ≤ (f 1 2 0 0 0 0 0x800).imm.toNat := ⟨rfl, by decide, by decide⟩
theorem witness_controlRegisterLayout : ({ State.reset with core := { Core.reset with irqs := List.replicate 16 ⟨1, 0, 0⟩ } } : State).core.irqs.length ≤ 16 := by decide
theorem witness_budgetAndAendResults : Ready (f 1 2 0 0 1 0 0) (uS []) ∧ (uS []).core.cur ≠ .k ∧ Ready (f 1 2 0 0 1 0 0) (kS []) ∧ (kS []).core.cur = .k :=
  ⟨ready_u _ _ rfl, by decide, (ready_k _ _ rfl).1, rfl⟩
theorem witness_scalarFloatResults : Ready (f 1 2 3 0 0 0 0) (uS [(2, 0x3F800000)]) ∧ (1 : Nat) ≠ 0 := ⟨ready_u _ _ rfl, by decide⟩

/-- A context with a mark read, a stack of one entry and a group. -/
def marked : Ctx := { uCtx0 [] with queue := [1], stack := [⟨3, 0⟩] }

theorem witness_grammarReadResults : Ready (f 1 0 0 0 0 0 1) (uS []) ∧ (uS []).holdsGroup .u0 = true ∧ peekCode ((uS []).ctxAt .u0) 1 = none ∧ (uS []).target (f 1 0 0 0 0 0 1) = .u0 :=
  ⟨ready_u _ _ rfl, by decide, by decide, by decide⟩
theorem witness_grammarReadResults_present : Ready (f 1 0 0 0 0 0 1) (uWith marked) ∧ (uWith marked).holdsGroup .u0 = true ∧ peekCode marked 1 = some 1 ∧
    marked.stack.length ≤ 64 ∧ marked.queue.length ≤ 64 ∧ marked.ins.length ≤ 16 := ⟨⟨⟨rfl, rfl⟩, by decide +kernel⟩, by decide, by decide, by decide, by decide, by decide⟩
theorem witness_grammarReadResults_ended : Ready (f 1 0 0 0 0 0 1) (uWith { marked with eotc := true }) ∧ (uWith { marked with eotc := true }).holdsGroup .u0 = true :=
  ⟨⟨⟨rfl, rfl⟩, by decide +kernel⟩, by decide⟩
theorem witness_grammarReadResults_k : Ready (f 1 0 0 0 0 0 0) (kS []) ∧ (kS []).target (f 1 0 0 0 0 0 0) = .k ∧ (kS []).holdsGroup .k = false := ⟨(ready_k _ _ rfl).1, by decide, by decide⟩
theorem witness_grammarChangeResults : Ready (f 1 2 0 0 0 0 1) (uWith marked) ∧ (uWith marked).refuseChange .u0 = none ∧ marked.eotc = false ∧
    skipReach marked.items (min (0 + 1) 16) = (1, false) ∧ marked.stack = [] ++ ⟨3, 0⟩ :: [] ∧ ([] : List StackEntry).length + 1 = 1 ∧ (uWith marked).core.validSymbol 1 false = true ∧
    (uWith marked).core.validSymbol 5 false = false ∧ marked.stack.length < 64 ∧ marked.parseTrapped = false :=
  ⟨⟨⟨rfl, rfl⟩, by decide +kernel⟩, by decide, rfl, by decide, rfl, rfl, by decide, by decide, by decide, by decide⟩
theorem witness_grammarChangeResults_full : Ready (f 1 2 0 0 0 0 1) (uWith { marked with stack := List.replicate 64 ⟨3, 0⟩, eotc := true }) ∧
    64 ≤ (List.replicate 64 (⟨3, 0⟩ : StackEntry)).length := ⟨⟨⟨rfl, rfl⟩, by decide +kernel⟩, by decide⟩
theorem witness_grammarChangeResults_refused : (uS []).refuseChange .u1 = some 6 ∧ Ready (f 1 2 0 0 0 2 1) (uS []) ∧ (uS []).target (f 1 2 0 0 0 2 1) = .u1 := ⟨by decide, ready_u _ _ rfl, by decide⟩

/-- A K context that looks at a context trapped in its parse. -/
def stuck (l : List StackEntry) : State :=
  { kS [] with core := { (kS []).core with u0 := { uCtx0 [] with st := .trapped, trapCause := cGrammarMismatch, stack := l } } }

theorem witness_grammarChangeResults_trapped : Ready (f 1 2 0 0 0 1 1) (stuck [⟨0x8010, 0⟩]) ∧ (stuck [⟨0x8010, 0⟩]).refuseChange .u0 = none ∧ ((stuck [⟨0x8010, 0⟩]).ctxAt .u0).parseTrapped = true ∧
    ((stuck [⟨0x8010, 0⟩]).ctxAt .u0).topFrame ≠ none ∧ ((stuck []).ctxAt .u0).topFrame = none ∧ (stuck []).target (f 1 2 0 0 0 1 1) = .u0 :=
  ⟨⟨⟨rfl, rfl⟩, by decide +kernel⟩, by decide, by decide, by decide, by decide, by decide⟩
theorem witness_markResults : Ready (f 1 2 0 0 0 0 0x21) (uWith marked) ∧ (uWith marked).core.cur ≠ .k ∧ (2 : Mark) ≠ 0 ∧ marked.ins.length < 16 ∧ (uWith marked).refuseChange .u0 = none ∧
    (∀ m ∈ markList 4 (0x21 : BitVec 48), ¬ (4 ≤ m.toNat ∧ m.toNat ≤ 7)) ∧ marked.ins.length + (markList 4 (0x21 : BitVec 48)).length ≤ 16 :=
  ⟨⟨⟨rfl, rfl⟩, by decide +kernel⟩, by decide, by decide, by decide, by decide, by decide, by decide⟩
theorem witness_markResults_full : Ready (f 1 2 0 0 0 0 0x21) (uWith { marked with ins := List.replicate 15 ⟨.before 0, some 1, 0⟩ }) ∧
    16 < (List.replicate 15 (⟨.before 0, some 1, 0⟩ : InsMark)).length + (markList 4 (0x21 : BitVec 48)).length := ⟨⟨⟨rfl, rfl⟩, by decide +kernel⟩, by decide⟩
theorem witness_signalResults : Ready (f 1 2 3 0 0 0 8) (uS []) ∧ ((uS []).getS 2 + BitVec.signExtend 64 (8 : BitVec 48)).toNat + 8 ≤ 2 ^ 48 ∧ (8 : Nat) % 8 = 0 ∧
    free (uS []) .write 8 8 = true ∧ free (uS []) .read 8 8 = true := ⟨ready_u _ _ rfl, by decide, rfl, by decide +kernel, by decide +kernel⟩
theorem witness_signalResults_settled : (uS []).settled [⟨0x10008, 8, 0x439⟩] ∧ (0 : Int) ≤ ((uS []).getS 3).toInt := ⟨settled_nil _ _ rfl (by decide), by decide⟩
theorem witness_signalResults_misaligned : Ready (f 1 2 3 0 0 0 1) (uS []) ∧ ((uS []).getS 2 + BitVec.signExtend 64 (1 : BitVec 48)).toNat % 8 ≠ 0 := ⟨ready_u _ _ rfl, by decide⟩
theorem witness_ligatureResults : Ready (f 1 2 3 0 1 0 0) (uS []) ∧ min (((uS [(3, 1)]).getS 3).toNat + 0) 0xFFFF ≤ 1 ∧ (uS []).core.mayTake 2 = true ∧ ((uS [(2, 0x8000001000000001)]).getS 2 &&& 0x803FFFFF000007FF).getLsbD 63 = true :=
  ⟨ready_u _ _ rfl, by decide, by decide +kernel, by decide⟩
theorem witness_ligatureResults_route : Ready (f 1 2 3 0 1 0 0) (uS [(2, 0x8000000000000001)]) ∧ bits ((uS [(2, 0x8000000000000001)]).getS 2 &&& 0x803FFFFF000007FF) 53 32 % 8 = 0 ∧
    bits ((uS [(2, 0x8000000000000001)]).getS 2 &&& 0x803FFFFF000007FF) 53 32 < 0x400000 ∧ bits ((uS [(2, 0x8000000100000001)]).getS 2 &&& 0x803FFFFF000007FF) 53 32 % 8 ≠ 0 :=
  ⟨ready_u _ _ rfl, by decide, by decide, by decide⟩
/-- A core whose cycle has taken 5 from counter 15, given it 0xFFFF, and written it. -/
def lig15 (w : List (Nat × BitVec 2 × BitVec 16)) : Core := { Core.reset with ev := [(15, 7)], lig := { Ligature.idle with subs := [(15, 5)], adds := [(15, 0xFFFF)], writes := w, terms := [(31, Term.reset)], routes := [(15, 3)] } }
theorem witness_ligatureResults_end : (15 < 16) ∧ (∀ e ∈ (lig15 []).lig.writes, e.1 ≠ 15) ∧ (lig15 [(15, 1, 9)]).lig.writes = [] ++ [(15, 1, 9)] ∧ (lig15 [(15, 2, 9)]).lig.writes = [(15, 2, 9)] ∧
    (∀ e ∈ (lig15 []).lig.terms, e.1 ≠ 0) ∧ (lig15 []).lig.terms = [] ++ [(31, Term.reset)] ∧ (∀ e ∈ (lig15 []).lig.routes, e.1 ≠ 0) ∧ (lig15 []).lig.routes = [] ++ [(15, 3)] := by decide
theorem witness_loadResults : Ready (f 1 2 3 0 0 0 0xFF8) (uS []) ∧ ((uS []).getS 2 + BitVec.signExtend 64 (0xFF8 : BitVec 48)).toNat + 8 ≤ 2 ^ 48 ∧ free (uS []) .read 0xFF8 8 = true ∧ 0xFF8 % 8 = 0 ∧ (uS []).settled [⟨0x10FF8, 8, 0x439⟩] :=
  ⟨ready_u _ _ rfl, by decide, by decide +kernel, rfl, settled_nil _ _ rfl (by decide)⟩
/-- U0 beside a Well in which deferred lines take every way of a set, however many there are. -/
def crowded : State := { uS [] with dies := [(0, { Die.reset with deferred := List.replicate (Config.wellWays + 1) 512 })] }
theorem crowded_waits (t : State) (h : t.dies = crowded.dies) : t.waitsWay [⟨0x10000, 8, 0x439⟩] = true := by
  have hl : linesOfParts [⟨0x10000, 8, 0x439⟩] = [512] := by decide
  have hd : t.die (dieOfDpa (512 * 128)) = { Die.reset with deferred := List.replicate (Config.wellWays + 1) 512 } := by
    have h0 : dieOfDpa (512 * 128) = 0 := by decide
    rw [h0, State.die, h]; rfl
  rw [State.waitsWay, hl]
  simp only [List.any_cons, List.any_nil, State.lineWaits, State.isDirty, hd]
  simp [Die.reset, SMap.get]
theorem witness_loadResults_waits : ∃ t, accessParts crowded 0 false .read 0 8 = .ok ([⟨0x10000, 8, 0x439⟩], t) ∧ t.waitsWay [⟨0x10000, 8, 0x439⟩] = true := ⟨_, rfl, crowded_waits _ rfl⟩
theorem witness_loadResults_misaligned : Ready (f 1 2 3 0 0 0 1) (uS []) ∧ ((uS []).getS 2 + BitVec.signExtend 64 (1 : BitVec 48)).toNat + widthBytes 0 ≤ 2 ^ 48 ∧
    ((uS []).getS 2 + BitVec.signExtend 64 (1 : BitVec 48)).toNat % widthBytes 0 ≠ 0 := ⟨ready_u _ _ rfl, by decide, by decide⟩
theorem witness_loadResults_end : Ready (f 1 2 0 0 0 0 1) (uS [(2, 0xFFFFFFFFFFF8)]) ∧ 2 ^ 48 < ((uS [(2, 0xFFFFFFFFFFF8)]).getS 2 + BitVec.signExtend 64 (1 : BitVec 48)).toNat + widthBytes 0 := ⟨ready_u _ _ rfl, by decide⟩
theorem witness_storeResults : Ready (f 1 2 0 0 0 0 8) (uS []) ∧ 8 % widthBytes 0 = 0 ∧ 8 + widthBytes 0 ≤ 2 ^ 48 ∧ free (uS []) .write 8 8 = true ∧ (uS []).settledAt 0x10008 8 ∧ (match accessParts (uS []) 0 false .write 8 8 with | .ok (p :: [], _) => p.dpa == 0x10008 | _ => false) = true :=
  ⟨ready_u _ _ rfl, rfl, by decide, by decide +kernel, ⟨by decide, by simp [uS, State.reset]⟩, by decide +kernel⟩
theorem witness_cacheResults : Ready (f 1 2 3 0 0 0 128) (uS []) ∧ good (cacheRange (uS []) (f 1 2 3 0 0 0 128)) = true ∧
    (match writeBackPages 2 (uS []) 12 0 128 with | .next _ => true | _ => false) = true ∧ good (cacheRange (uS [(2, 0xFFFFFFFFFFFF)]) (f 1 2 3 0 0 0 2)) = false ∧ (uS []).heldBallooned .u0 = none :=
  ⟨ready_u _ _ rfl, by decide, by decide +kernel, by decide, by decide +kernel⟩
/-- U0 whose held line lies in a frame that was ballooned since. -/
def heldGone : State := { uS [] with dies := [(0, { Die.reset with held := [⟨0, .u0, none, 512, 0, noPort, 8, 0⟩], fmrs := [(16, 1#1024 <<< 662)] })] }
theorem witness_cacheResults_ballooned : (heldGone.heldBallooned .u0).isSome = true := by decide +kernel
/-- U0 with the line of device-physical address 0x10000 dirty in the Well. -/
def dirtyS : State := { uS [] with dies := [(0, { Die.reset with dirty := [(512, 1)] })] }
theorem witness_cacheResults_dirty : Ready (f 1 2 0 0 0 0 8) dirtyS ∧
    (match accessParts dirtyS 0 false .write 8 8 with | .ok (ps, u) => (partLines ps 8).all (fun l => u.wellHolds l.1) | .error _ => false) = true := ⟨⟨⟨rfl, rfl⟩, by decide +kernel⟩, by decide +kernel⟩
/-- U0 with an invocation queued, running, or held with a term that its counter satisfies. -/
def invS (op : Nat) (st : InvState) (held : Bool) : State := { uS [] with core := { (uS []).core with invs := [{ (uS []).newInv op (f 0 0 0 0 0 0 0) [] held with st := st }], cycle := 1, ev := [(0, 1), (1, 1), (2, 1)], terms := [(0, ⟨0x80010001, 0, 0, 0, 0, true⟩)] } }
/-- U0, with an invocation under way, beside a store that U0 of core 5 has made, which nothing has released. -/
def storeAway : State := { invS 0x7B .running false with unseen := [{ newStore (partyOf 5 .u0) 0 0 1 none with addr := 0x10000, len := 1, old := [0] }] }
theorem witness_cacheResults_edge : partyOf 5 .u0 ≠ partyOf 70 .u0 ∧ isInvParty (partyOf 70 .u0) = false ∧ 0 < hubKey.2 ∧ partyDist (partyOf 5 .u0) (partyOf 70 .u0) ≤ min (scopeReach 0) (scopeReach 1) ∧
    ((storeAway.releaseBy (partyOf 5 .u0) (scopeReach 0) false [hubKey]).acquireBy (partyOf 70 .u0) (scopeReach 1) [hubKey]).unseen.any (fun e => decide (e.party = partyOf 5 .u0) && !e.fence) = true ∧
    (∀ e ∈ storeAway.unseen, meets e.addr e.len hubKey.1 hubKey.2 = false) := by decide +kernel
/-- The manual's message between cores 5 and 70: at .sys the second sees the store, at .core it may miss it (R122, R128). -/
theorem test_message : (let p := partyOf 5 .u0; let q := partyOf 70 .u0
    let may := fun (n : Nat) => ((storeAway.releaseBy p (scopeReach n) false [hubKey]).acquireBy q (scopeReach n) [hubKey]).unseen.any (fun e => !e.old.isEmpty && e.mayMiss q)
    may 0 = false ∧ may 3 = true) := by decide +kernel
/-- U0 with a store of its own that no other party need see. -/
def ownStore : State := { uS [] with unseen := [{ newStore (partyOf 0 .u0) 0 0 1 none with addr := 0x10000, len := 1, old := [0] }] }
theorem witness_cacheResults_fences : (ownStore.fence .u0 3).unseen.any (fun e => e.party = ownStore.me) = true ∧ (ownStore.fenceAcq .u0 3).unseen.any (fun e => e.party = ownStore.me) = true ∧
    (ownStore.fenceRel .u0 0).unseen.any (fun e => decide (e.party = ownStore.me) && !e.fence && decide (e.vis < 4)) = true := by decide +kernel
/-- U0 with two lanes unmasked. -/
def twoLanes : State := uWith { uCtx0 [] with p := [(1, 3)] }
theorem witness_vectorMemoryResults : Open twoLanes ∧ (0 : Nat) % 4 = 0 ∧ maskLanes (guardMask twoLanes.ctx 1) = [0, 1] ∧
    freeLanes twoLanes .read (fun i => 4 * i) [0, 1] = true ∧ freeLanes twoLanes .write (fun i => 4 * i) [0, 1] = true ∧ twoLanes.settled [⟨0x10000, 4, 0x439⟩] ∧ bits 0x39 8 7 ≠ 2 :=
  ⟨⟨rfl, rfl⟩, rfl, by decide +kernel, by decide +kernel, by decide +kernel, settled_nil _ _ rfl (by decide), by decide⟩
theorem witness_scratchpadResults : Ready (f 1 2 0 0 0 0 0x3FFFF8) (uS []) ∧ ((uS []).getS 2 + BitVec.signExtend 64 (0x3FFFF8 : BitVec 48)).toNat + widthBytes 0 ≤ 0x400000 := ⟨ready_u _ _ rfl, by decide⟩
theorem witness_scratchpadResults_range : Ready (f 1 2 0 0 0 0 0x3FFFF9) (uS []) ∧ 0x400000 < ((uS []).getS 2 + BitVec.signExtend 64 (0x3FFFF9 : BitVec 48)).toNat + widthBytes 0 := ⟨ready_u _ _ rfl, by decide⟩
theorem witness_scratchpadResults_vector : Open (uS []) ∧ 0x3FFC00 % 4 = 0 ∧ 0x3FFC00 + 1024 ≤ 0x400000 := ⟨⟨rfl, rfl⟩, by decide, by decide⟩
theorem witness_scratchpadResults_settled : (uS []).settledAt (spKey (uS []).coreId 0x3FFC00) 1024 := ⟨by decide, by simp [uS, State.reset]⟩
theorem witness_scratchpadResults_wait : (uS []).core.allFull (granules 0 0) = true ∧ ({ Core.reset with full := [(0, true)] } : Core).allFull (granules 0 8) = true := by decide +kernel
theorem witness_atomicResults : (f 1 2 3 4 0 6 4).m.getLsbD 1 = true ∧ (f 1 2 3 4 0 6 4).m.getLsbD 2 = true ∧ Ready (f 1 2 3 4 0 1 4) (uS []) ∧ 4 + 4 ≤ 2 ^ 48 ∧ 4 % 4 = 0 ∧ free (uS []) .write 4 4 = true := ⟨by decide, by decide, ready_u _ _ rfl, by decide, rfl, by decide +kernel⟩

/-- A valid descriptor of rank 2 over 64 by 64 elements of FP32, tiles of 1 row and 32 columns, at base 0x100 (R144). -/
def desc : Desc := BitVec.ofNat 512 (0x100 + 2 * 2 ^ 64 + 2 ^ 67 + 31 * 2 ^ 120 + 64 * 2 ^ 128 + 64 * 2 ^ 152 + 2 ^ 176 + 2 ^ 200 + 2 ^ 224 + 2 ^ 248 + 4 * 2 ^ 272 + 256 * 2 ^ 304)
theorem witness_tensorTableResults : Ready (f 1 2 0 0 0 0 5) (uS [(2, 3)]) ∧ (f 1 2 0 0 0 0 5).imm.toNat < 6 ∧ ((uS [(2, 3)]).getS 2 + BitVec.signExtend 64 (5 : BitVec 48)).toNat % 8 = 0 ∧
    8 + 64 ≤ 2 ^ 48 ∧ free (uS []) .read 8 64 = true ∧ free (uS []) .write 8 64 = true ∧ (uS []).settled (wordParts [⟨0x10008, 64, 0x439⟩]) ∧ bits 0x39 8 7 ≠ 2 :=
  ⟨ready_u _ _ rfl, by decide, by decide, by decide, by decide +kernel, by decide +kernel, settled_nil _ _ rfl (by decide), by decide⟩
theorem witness_tensorTableResults_misaligned : Ready (f 1 2 0 0 0 0 5) (uS []) ∧ ((uS []).getS 2 + BitVec.signExtend 64 (5 : BitVec 48)).toNat % 8 ≠ 0 := ⟨ready_u _ _ rfl, by decide⟩
theorem witness_tensorTableResults_valid : tidReason desc = 0 ∧ [0, 0, 0, 0, 0, 0].length = 6 ∧ fmtBfp (dFmt desc) = false ∧ dFmt desc ≠ 7 := by decide +kernel

/-- U0 with the descriptor in entries 1 and 2 of the tensor table, port 1 bound to read it and port 2 to write it. -/
def bound : State :=
  { uS [(4, 32), (5, 0x3FFFF8)] with core := { (uS []).core with
    u0 := { uCtx0 [(4, 32), (5, 0x3FFFF8)] with tt := [(1, desc), (2, desc)] }
    ports := [(1, { Port.reset with bound := true, tid := 1, desc := desc }), (2, { Port.reset with bound := true, tid := 2, desc := desc, wr := true })] } }
theorem witness_portResults : Ready (f 3 1 0 0 0 0 0) bound ∧ bound.core.quiescentPort 3 = true ∧ tidReason (bound.getT 1) = 0 ∧ tidReason (bound.getT 3) ≠ 0 ∧ (bound.port 1).bound = true ∧
    seekBad desc 0 32 32 = false ∧ (bound.port 3).bound = false ∧ ((bound.getS 1) &&& ~~~(xformMask 5) &&& 0x7FFFFFFFFFFFFFFF) = 0 ∧
    bindBreach { Port.reset with bound := true, desc := desc, wr := true } 3 1 = none :=
  ⟨⟨⟨rfl, rfl⟩, by decide +kernel⟩, by decide +kernel, by decide +kernel, by decide +kernel, by decide, by decide +kernel, by decide, by decide +kernel, by decide +kernel⟩
theorem witness_portResults_stat : (bound.port 2).wr = true ∧ (bound.port 3).bound = false ∧ (bound.port 1).lead = false ∧ bound.core.quiescentPort 1 = true ∧ (1 : BitVec 6) ≠ 2 := by decide +kernel
theorem witness_copyIssue : Ready (f 2 1 5 0 0 0 0) bound ∧ (∀ w ∈ bound.core.invs, w.id < bound.core.nextInv) ∧ copyBreach bound (f 2 1 5 0 0 0 0) false = none ∧ copyBreach bound (f 2 1 5 0 0 0 0) true = none ∧
    linearBreach bound (f 4 4 5 4 0 0 7) = none ∧ (bound.getS 5).toNat % 8 = 0 ∧ (bound.getS 5).toNat < 0x400000 ∧ bound.core.queueFull 0x7A [1, 2] = false ∧ slotReadBreach bound (f 0 0 5 0 0 0 7) = none :=
  ⟨⟨⟨rfl, rfl⟩, by decide +kernel⟩, by decide, by decide +kernel, by decide +kernel, by decide +kernel, by decide, by decide, by decide +kernel, by decide +kernel⟩

/-- U0 with a barrier word at offset 8 of the scratchpad: EXP 2, one arrival. -/
def barS : State := { uS [(2, 8), (3, 1), (4, 0x400000), (5, 9), (6, 0x3FFFF8)] with core := { (uS [(2, 8), (3, 1), (4, 0x400000), (5, 9), (6, 0x3FFFF8)]).core with spm := [(8, 1), (12, 2)] } }
theorem witness_barrierResults : Ready (f 1 2 3 0 0 0 0) barS ∧ (barS.getS 2).toNat % 8 = 0 ∧ (barS.getS 6).toNat % 8 = 0 ∧ (barS.getS 6).toNat < 0x400000 ∧ barPh (barS.core.barWord 8) = false ∧
    ((barS.getS 3).getLsbD 0 ^^ (0 : BitVec 48).getLsbD 0) = true ∧ (barS.getS 4).toNat % 8 = 0 ∧ 0x400000 ≤ (barS.getS 4).toNat ∧ (barS.getS 5).toNat % 8 ≠ 0 :=
  ⟨⟨⟨rfl, rfl⟩, by decide +kernel⟩, by decide, by decide, by decide, by decide +kernel, by decide, by decide, by decide, by decide⟩
theorem witness_barrierResults_counts : barArr (barS.core.barWord 8) + barExp (barS.core.barWord 8) = 3 ∧ 0 < barArr (barS.core.barWord 8) ∧ 0 < barExp (barS.core.barWord 8) := by decide +kernel

/-- U0 with the tag table entry of slot 1 valid for page 0. -/
def tagS : State := { uS [(3, 1), (4, 1024), (5, 1023)] with core := { (uS [(3, 1), (4, 1024), (5, 1023)]).core with tags := [(1, tagOf true false false false .u0 0 0)] } }
theorem witness_tagTableAndFullBitResults : Ready (f 1 2 3 0 0 0 0) tagS ∧ SMap.wf 0 tagS.core.tags = true ∧ tagV (tagS.core.tag 1) = true ∧ tagBusy (tagS.core.tag 1) = false ∧ tagAsid (tagS.core.tag 1) = tagS.curAsid ∧
    tagVpn (tagS.core.tag 1) = bits (tagS.getS 2) 47 12 ∧ tagV (tagS.core.tag 1023) = false ∧ tagBusy (tagS.core.tag 1023) = false ∧ 1024 ≤ (tagS.getS 4).toNat ∧ (tagS.getS 5).toNat < 1024 :=
  ⟨⟨⟨rfl, rfl⟩, by decide +kernel⟩, by decide +kernel, by decide +kernel, by decide +kernel, by decide +kernel, by decide +kernel, by decide +kernel, by decide +kernel, by decide, by decide⟩
theorem witness_tagTableAndFullBitResults_range : 0x400000 ≤ (0x400000 : Nat) ∧ (tagS.getS 2).toNat + ((tagS.getS 3).toNat + 0x3FFFFF) ≤ 0x400000 := by decide
/-- Port 1 reads FP32 in tiles of 32 by 32 and ports 2 and 3 write BFP blocks of it; circuit 0 joins port 4 to port 5 of core 1; slot 1 of the scratchpad is valid. -/
def flt32 : Desc := BitVec.ofNat 512 (0x10000 + 2 * 2 ^ 64 + 2 ^ 67 + 31 * 2 ^ 112 + 31 * 2 ^ 120 + 64 * 2 ^ 128 + 64 * 2 ^ 152 + 2 ^ 176 + 2 ^ 200 + 2 ^ 224 + 2 ^ 248 + 4 * 2 ^ 272 + 256 * 2 ^ 304)
def bfp32 : Desc := BitVec.ofNat 512 (0x20000 + 2 * 2 ^ 64 + 2 ^ 67 + 8 * 2 ^ 80 + 2 ^ 84 + 5 * 2 ^ 85 + 31 * 2 ^ 112 + 31 * 2 ^ 120 + 64 * 2 ^ 128 + 64 * 2 ^ 152 + 2 ^ 176 + 2 ^ 200 + 2 ^ 224 + 2 ^ 248 + 256 * 2 ^ 304 + 0x30000 * 2 ^ 464)
def wired : State :=
  { uS [(5, 8), (6, 1)] with core := { (uS [(5, 8), (6, 1)]).core with
    tags := [(1, tagOf true false false false .u0 0 0)]
    ports := [(1, { Port.reset with bound := true, desc := flt32 }), (2, { Port.reset with bound := true, desc := bfp32, wr := true }), (3, { Port.reset with bound := true, desc := bfp32, wr := true }),
      (4, { Port.reset with bound := true, desc := flt32 ||| (1#512 <<< 68) })]
    circuits := [(0, BitVec.ofNat 128 (4 * 2 ^ 6 + 1 * 2 ^ 9 + 5 * 2 ^ 18))] } }
theorem witness_copyIssue_others : Ready (f 2 1 5 3 0 0 0) wired ∧ dualBreach wired (f 2 1 5 3 0 0 0) = none ∧ slotWriteBreach wired (f 0 6 5 0 0 0 7) = none ∧ circBreach wired (f 4 0 5 0 0 0 0) 0 = none ∧
    wired.core.queueFull 0x7D [1, 2, 3] = false ∧ wired.core.queueFull 0x8D [4] = false := ⟨⟨⟨rfl, rfl⟩, by decide +kernel⟩, by decide +kernel, by decide +kernel, by decide +kernel, by decide +kernel, by decide +kernel⟩

theorem witness_vectorFloatResults : Open (uS []) := open_u []
theorem witness_vectorConversionResults : Open (uS []) ∧ (f 1 2 0 0 8 0 1).imm.toNat < 2 ∧ (f 1 2 0 0 14 0 3).imm.toNat < 4 ∧ 8 ≤ (f 1 2 0 0 14 0 3).q.toNat ∧ (f 1 2 0 0 14 0 3).q.toNat < 15 := ⟨open_u [], by decide, by decide, by decide, by decide⟩
theorem witness_vectorIntegerResults : Open (uS []) ∧ (f 1 2 3 0 2 0 0).q.toNat = 2 ∧ (f 1 2 3 0 0 1 0).m = 1 := ⟨open_u [], rfl, rfl⟩
theorem witness_laneMoveResults : Open (uS []) ∧ (uS []).guard0 (f 1 2 3 0 0 0 0) = true := ⟨open_u [], (ready_u _ _ rfl).2⟩
theorem witness_crossLaneResults : Open (uS []) ∧ (f 1 2 3 4 4 0 0).q.toNat = 4 ∧ (uS []).core.detmode.getLsbD 0 = false := ⟨open_u [], rfl, by decide⟩
theorem witness_crossLaneResults_histogram : Open (uWith { uCtx0 [(4, 2)] with p := [(1, 3)] }) ∧ 0 + 4 ≤ 2 ^ 48 ∧ histBins (uWith { uCtx0 [(4, 2)] with p := [(1, 3)] }) ⟨.l, 0, 2, 3, 4, 0, 1, 0, 0⟩ = [(0, 2)] ∧
    freeLanes (uWith { uCtx0 [(4, 2)] with p := [(1, 3)] }) .write (fun b => 4 * b) [0] = true := ⟨⟨rfl, rfl⟩, by decide, by decide +kernel, by decide +kernel⟩

theorem witness_engineIssue : Ready (f 1 2 3 4 0 0 31) (uS [(4, 0x3FFFF8)]) ∧ Room (uS []) 0 ∧ Room (uS []) 1 ∧ Room (uS []) 2 ∧ (∀ p, (uS []).core.portCount p < 8) ∧ ((uS []).getS 3).toNat + 31 < 32 ∧
    BarrierOk (uS [(4, 0x3FFFF8)]) 4 ∧ (f 1 2 3 4 0 0 31).m.getLsbD 0 = false ∧ (uS []).core.cur ≠ .k ∧ (uS []).ctx.ins.length < 16 :=
  ⟨ready_u _ _ rfl, by unfold Room; decide, by unfold Room; decide, by unfold Room; decide, fun p => by simp [uS, Core.portCount, Core.reset], by decide, by unfold BarrierOk; decide, by decide, by decide, by decide⟩
theorem witness_engineIssue_scratch : Ready (f 1 2 3 4 0 1 31) (uS [(2, 0x3F0000)]) ∧ (f 1 2 3 4 0 1 31).m.getLsbD 0 = true ∧ ((uS [(2, 0x3F0000)]).getS 2).toNat % 16 = 0 ∧ ((uS [(2, 0x3F0000)]).getS 2).toNat + 65536 ≤ 0x400000 :=
  ⟨ready_u _ _ rfl, by decide, by decide, by decide⟩
theorem witness_engineIssue_full : Ready (f 1 2 3 4 0 2 0) (uWith { uCtx0 [] with ins := List.replicate 16 ⟨.before 0, some 1, 0⟩ }) ∧ 16 ≤ (List.replicate 16 (⟨.before 0, some 1, 0⟩ : InsMark)).length ∧ (f 1 2 3 4 0 2 0).m.getLsbD 1 = true :=
  ⟨⟨⟨rfl, rfl⟩, by decide +kernel⟩, by decide, by decide⟩
theorem witness_engineIssue_steer : Ready (f 1 2 3 4 0 0 2) (uWith { uCtx0 [(3, 0x43)] with pivots := [(0, 5)] }) ∧ steerBad (uWith { uCtx0 [(3, 0x43)] with pivots := [(0, 5)] }) (f 1 2 3 4 0 0 2) = false := ⟨⟨⟨rfl, rfl⟩, by decide +kernel⟩, by decide +kernel⟩
theorem witness_engineConfiguration : Ready (f 1 2 3 0 0 0 0) (uS [(2, 65536), (4, 0xBB)]) ∧ chainBad 4 0 0 = false ∧ chainBad 4 6 0 = true ∧ ((uS [(2, 65536)]).getS 2).toNat % 16 = 0 ∧ 0 < ((uS [(2, 65536)]).getS 2).toNat ∧
    ((uS [(2, 65536)]).getS 2).toNat ≤ 65536 ∧ (∀ v ∈ (uS []).core.invs, unitOf v.op ≠ 0) ∧ ((uS [(4, 0xBB)]).getS 4).toNat < 256 ∧ 7 < bits ((uS [(4, 0xBB)]).getS 4) 3 0 ∧ 7 < bits ((uS [(4, 0xBB)]).getS 4) 7 4 :=
  ⟨ready_u _ _ rfl, by decide +kernel, by decide +kernel, by decide, by decide, by decide, by decide, by decide, by decide, by decide⟩
theorem witness_engineConfiguration_stride : Ready (f 1 2 3 0 0 0 0) (uS [(2, 8)]) ∧ ((uS [(2, 8)]).getS 2).toNat % 16 ≠ 0 := ⟨ready_u _ _ rfl, by decide⟩

/-- U0 recording, or replaying, in a page it may write. -/
def scrolls (m : BitVec 2) (fb : Bool) (r : SMap Word) : State := uWith { uCtx0 r with scroll := { Scroll.live with mode := m, fellBack := fb, track := 0x100, tlen := 0x800 } }
theorem witness_scrollResults : Ready (f 1 2 3 0 0 0 0) (scrolls 0 false []) ∧ (scrolls 0 false []).ctx.group = some grp ∧ tapeTlen 1 0 < 4096 ∧ 0 % 4096 = 0 ∧ Ready (f 1 2 3 0 0 0 0) (scrolls 1 false [(2, 2)]) ∧
    2 ^ (0 / 32 + 1) ≤ ((scrolls 1 false [(2, 2)]).getS 2).toNat ∧ Ready (f 1 2 3 0 0 0 0) (scrolls 0 true []) ∧ (scrolls 0 true []).ctx.scroll.fellBack = true ∧ (scrolls 2 false []).ctx.scroll.mode ≠ 1 :=
  ⟨⟨⟨rfl, rfl⟩, by decide +kernel⟩, rfl, by decide +kernel, rfl, ⟨⟨rfl, rfl⟩, by decide +kernel⟩, by decide, ⟨⟨rfl, rfl⟩, by decide +kernel⟩, rfl, by decide⟩
theorem witness_scrollResults_statuses : Ready (f 1 2 3 0 0 0 0) (kS []) ∧ (kS []).ctx.group = none ∧ (kS []).ctx.scroll.mode = 0 ∧ Ready (f 1 2 3 0 0 0 0) (scrolls 0 false [(2, 1), (3, 8192)]) ∧ 1 % 4096 ≠ 0 := ⟨(ready_k _ _ rfl).1, rfl, rfl, ⟨⟨rfl, rfl⟩, by decide +kernel⟩, by decide⟩
/-- A state with a page of 1 GiB at virtual address 0 of address space 0, which its tables map to device-physical address 0 with every right. -/
def mapped (s : State) : State := { s with hub := { s.hub with roots := [(0, 0x1001)] }, mem := [(0x1000, 0x01), (0x1001, 0x20), (0x2000, 0x79), (0x2001, 0x04)] }
/-- U0 with a tape area at 0x10000, in the mode given. -/
def area (m : BitVec 2) : State := mapped (scrolls m false [(2, 0x10000), (3, 0x10000)])
theorem witness_scrollResults_begin : Ready (f 1 2 3 0 0 0 0) (area 0) ∧ (((area 0).setS 1 0).beginTrack .u0 { ((area 0).setS 1 0).ctx with pc := (area 0).nextPc (f 1 2 3 0 0 0 0), counted := (area 0).ctx.counted + 1 } 0x10000 0x10000).1 = 0 :=
  ⟨⟨⟨rfl, rfl⟩, by decide +kernel⟩, by decide +kernel⟩
theorem witness_scrollResults_pages : tapePageOk (area 0) (area 0).curAsid 0x10000 = true ∧ tapePageOk (uS [(2, 0x1000)]) (uS [(2, 0x1000)]).curAsid 0x1000 = false ∧
    ((area 0).tapeWrite (area 0).curAsid 0x10000 [0, 0, 0, 0, 0, 0, 0, 0]).isSome = true ∧ free (area 0) .read (0x10000 + 56) 8 = true ∧ tapePagesOk ((((area 0).tapeWord (area 0).curAsid 0x10000 7).toNat + 4095) / 4096) (area 0) (area 0).curAsid 0x10000 = true := by decide +kernel
/-- U0 with a tape area of 64 KiB for one group at an address. -/
def tapeAt (a : Nat) : State := ((mapped (scrolls 0 false [])).pokeBytes a (leBytes 8 1)).pokeBytes (a + 56) (leBytes 8 0x10000)
theorem witness_scrollResults_scinv : (∀ a ∈ [0x10000, 0x3FFFF000], 4096 ≤ tapeTlen (bits ((tapeAt a).tapeWord 0 a 0) 31 0) ((tapeAt a).tapeWord 0 a 7).toNat ∧ tapePageOk (tapeAt a) 0 a = true) ∧
    tapePagesOk 16 (tapeAt 0x10000) 0 0x10000 = true ∧ tapePagesOk 16 (tapeAt 0x3FFFF000) 0 0x3FFFF000 = false ∧ ((tapeAt 0x10000).tapeWrite 0 0x10000 (leBytes 8 1)).isSome = true := by decide +kernel
/-- U0 recording, with a record's room left or none, whose tape area lies at 0 or at an address that nothing maps. -/
def patching (a : Word) (n : Nat) : State := mapped (uWith { uCtx0 [(2, 1)] with scroll := { Scroll.live with mode := 1, area := a, track := 0x10000, tlen := 16 * n } })
/-- The record of SCPATCH for slot 0, one bit wide, of s2 (R456). -/
def patched (a : Word) (n : Nat) : State := (patching a n).putRecords .u0 [2 * 2 ^ 126 + 0 * 2 ^ 121 + 0 / 32 * 2 ^ 115 + 2 * 2 ^ 109 + 1]
theorem witness_scrollResults_patch : Ready (f 0 2 0 0 0 1 0) (patching 0 1) ∧ (patching 0 1).ctx.scroll.mode = 1 ∧ ((patching 0 1).getS 2).toNat < 2 ^ (0 / 32 + 1) ∧ (patched 0 1).ctx.scroll.mode = 1 ∧
    (declareSlot (patched 0 1) (patched 0 1).curAsid (patched 0 1).ctx.scroll.area.toNat 0 (0 / 32 + 1)).isSome = true ∧ (patched 0 0).ctx.scroll.mode ≠ 1 ∧ (patched 0x10000000000 1).ctx.scroll.mode = 1 ∧
    (declareSlot (patched 0x10000000000 1) (patched 0x10000000000 1).curAsid (patched 0x10000000000 1).ctx.scroll.area.toNat 0 (0 / 32 + 1)).isNone = true :=
  ⟨⟨⟨rfl, rfl⟩, by decide +kernel⟩, rfl, by decide, by decide +kernel, by decide +kernel, by decide +kernel, by decide +kernel, by decide +kernel⟩
theorem witness_scrollResults_k : Ready (f 1 2 0 0 0 0 0) (kS []) ∧ (kS []).core.cur = .k ∧ (uS []).core.cur ≠ .k ∧ (f 1 2 0 0 0 1 7).imm.toNat < 8 ∧ 8 ≤ (f 1 2 0 0 0 1 8).imm.toNat := ⟨(ready_k _ _ rfl).1, rfl, by decide, by decide, by decide⟩
theorem witness_scrollResults_replay : (match (area 0).startReplay .u0 0x10000 0 none with | .ok _ => 0 | .fault _ => 1 | _ => 2) = 1 := by decide +kernel
theorem witness_systemCallsAndPrivilege : Ready (f 0 0 0 0 0 0 3) (kS []) ∧ (kS []).core.cur = .k ∧ Ready (f 0 0 0 0 0 0 0xFFFF) (uS []) ∧ (uS []).core.cur ≠ .k ∧ (uS []).core.halted = false ∧
    (Instr.eret (f 0 0 0 0 0 0 0)).opcode? = some 0xED ∧ (Instr.walk (f 0 0 0 0 0 0 0)).opcode? = some 0xFB ∧ (Instr.irqHost (f 0 0 0 0 1 0 0)).ops? = some (f 0 0 0 0 1 0 0) ∧ (uS []).guard0 ⟨.l, 0, 0, 0, 0, 0, 8, 0, 0⟩ = false :=
  ⟨(ready_k _ _ rfl).1, rfl, ready_u _ _ rfl, by decide, rfl, rfl, rfl, rfl, by decide +kernel⟩
theorem witness_trapEntry : (uS []).core.cur ≠ .k ∧ (match accessParts (uS []) (uS []).curAsid true .read (bits (uS []).core.kvbr 47 3 * 8 + 8 * 31) 8 with
    | .ok (ps, _) => leNat (readParts (uS []) ps) == 0 | .error _ => false) = true ∧ bits 0 63 48 = 0 ∧ bits 0 1 0 = 0 := ⟨by decide, by decide +kernel, by decide, by decide⟩
theorem witness_trapEntry_k : (kS []).core.cur = .k ∧ ((stuck []).ctxAt .u0).group.isSome = true := ⟨rfl, rfl⟩
/-- The K context after a class A trap of U0, whose instruction stood at 0x200 and was 8 bytes long. -/
def afterTrap : State := { stuck [] with core := { (stuck []).core with kcause := 0x8000 + 8, kepc := 0x200 } }
theorem witness_eretResults : ReadyK (f 0 0 0 0 0 0 0) afterTrap ∧ bits afterTrap.core.kcause 12 10 = 0 ∧ afterTrap.core.cut = none ∧ afterTrap.core.restore = none ∧ (afterTrap.ctxAt (uCtx 0)).st = .trapped ∧
    (afterTrap.ctxAt (uCtx 0)).scroll.mode ≠ 2 ∧ afterTrap.core.trapClass = .a ∧ (afterTrap.ctxAt (uCtx 0)).group.isSome = true ∧ (afterTrap.ctxAt (uCtx 0)).faulted = false ∧ (∀ v, (afterTrap.ctxAt v).gresume = none) :=
  ⟨⟨⟨⟨rfl, rfl⟩, by decide +kernel⟩, rfl⟩, by decide, rfl, rfl, rfl, by decide, by decide, rfl, rfl, fun v => by cases v <;> rfl⟩
theorem witness_translationControl_scopes : inScope (kS []) 0 5 = true ∧ inScope (kS []) 3 5 = false ∧ (5 : Nat) ≠ (kS []).coreId ∧ SMap.wf Core.reset (kS []).others = true ∧ ¬ ((3 : BitVec 4).toNat ≤ 1) := by decide +kernel
theorem witness_translationControl : ReadyK (f 1 2 3 4 0 0 0) (kS [(2, 511), (3, 1)]) ∧ ((kS [(2, 511)]).getS 2).toNat < 512 ∧ 512 ≤ ((kS [(2, 512)]).getS 2).toNat ∧ (kS [(3, 1)]).getS 3 ≠ 0 ∧ (kS []).getS 3 = 0 ∧
    2 ^ 48 ≤ ((kS [(2, 0x1000000000000)]).getS 2).toNat ∧ (∀ v ∈ (kS []).core.invs, v.st ≠ .starved ∧ v.st ≠ .discarded) ∧ SMap.wf Port.reset (kS []).core.ports = true ∧ (∀ e ∈ (kS []).core.ports, e.2.fault = none) :=
  ⟨ready_k _ _ rfl, by decide, by decide, by decide, by decide, by decide, by simp [kS, Core.reset], by decide, by simp [kS, Core.reset]⟩

/-- A K context that may cut U0 into an area at 0x10000. -/
def cutting (n : Word) : State := mapped { stuck [] with core := { (stuck []).core with k := { (stuck []).core.k with s := [(2, 0x10000), (3, n)] } } }
theorem witness_contextSwitchResults : ReadyK (f 1 2 3 0 0 1 0) (cutting 0x9440) ∧ ((cutting 0x9440).ctxAt (uCtx 0)).group ≠ none ∧ (cutting 0x9440).core.cut = none ∧ (cutting 0x9440).core.restore = none ∧
    0x10000 % 4096 = 0 ∧ (cutting 0x9440).saveLen .u0 = 0x9440 ∧ 0x943F < (cutting 0x9440).saveLen .u0 :=
  ⟨⟨⟨⟨rfl, rfl⟩, by decide +kernel⟩, rfl⟩, by decide, rfl, rfl, rfl, by decide +kernel, by decide +kernel⟩
theorem witness_contextSwitchResults_pages : tapePagesOk ((0x9440 + 4095) / 4096) (cutting 0x9440) (cutting 0x9440).curAsid 0x10000 = true ∧
    tapePagesOk ((0x9440 + 4095) / 4096) (kS [(2, 0x10000)]) (kS [(2, 0x10000)]).curAsid 0x10000 = false := by decide +kernel
theorem witness_contextSwitchResults_load : (mapped (kS [(2, 0x10000)])).ctxAt .u0 = Ctx.reset ∧ good ((mapped (kS [(2, 0x10000)])).hubRead 0 0x10000 64) = true ∧ good ((kS []).hubRead 0 0x10000 64) = false ∧
    (match (mapped (kS [(2, 0x10000)])).hubRead 0 0x10000 64 with | .ok h => leNat (h.take 8) / 2 ^ 63 == 0 | .error _ => false) = true := by decide +kernel
theorem witness_contextSwitchResults_drain : (match hubParts (mapped (kS [])) 0 true .read 0x2000 1 with | .ok (p :: _) => p.dpa == 0x2000 | _ => false) = true ∧ good (hubParts (kS []) 0 true .read 0x2000 1) = false ∧
    (mapped (kS [])).region 0x2000 = none := by decide +kernel

theorem witness_interruptResults : ReadyK (f 1 2 0 0 0 0 7) (kS [(2, 511)]) ∧ ((kS [(2, 511)]).getS 2).toNat < 512 ∧ ((kS [(2, 511)]).coreOf 511).irqs.length < 16 ∧ 256 ≤ ((kS [(2, 511)]).getS 2).toNat ∧ ((kS [(2, 255)]).getS 2).toNat < 256 ∧
    512 ≤ ((kS [(2, 512)]).getS 2).toNat ∧ (kS []).core.irqs = [] ∧ (kS []).ctx.waiting ≠ some .irq := ⟨ready_k _ _ rfl, by decide, by decide +kernel, by decide, by decide, by decide, rfl, by decide⟩
theorem witness_interruptResults_wait : ReadyK (f 1 2 0 0 0 0 7) { kS [] with core := { (kS []).core with irqs := [⟨1, 0, 0⟩], k := { (kS []).core.k with waiting := some .irq, wfiLeft := some 0 } } } := ⟨⟨⟨rfl, rfl⟩, by decide +kernel⟩, rfl⟩
theorem witness_memoryControlResults : ReadyK (f 1 2 3 0 3 0 3) (kS [(2, 7), (3, 16)]) ∧ ((kS [(2, 7)]).getS 2).toNat < 8 ∧ 16 ≤ ((kS [(3, 16)]).getS 3).toNat ∧ ((kS [(3, 16)]).getS 3).toNat ≤ 32 ∧ ((kS []).die 7).commit ≤ 16 ∧
    8 ≤ ((kS [(2, 8)]).getS 2).toNat ∧ 0x1000 % 4096 = 0 ∧ (kS []).committed 0x1000 = true ∧ fmrBal ((kS []).fmr 0x1000) = false ∧ ((kS []).die (dieOfDpa 0x1000)).lists.foldl (fun n e => n + e.2.length) 0 < 65536 :=
  ⟨ready_k _ _ rfl, by decide, by decide, by decide, by decide, by decide, rfl, by decide +kernel, by decide +kernel, by decide⟩
/-- A die whose COMMIT of 20 may be lowered, and one where a frame above the new bound holds chunks. -/
theorem witness_memoryControlResults_lower : (let d : Die := { Die.reset with commit := 20 }; 16 < d.commit ∧ (∀ e ∈ d.fmrs, ¬ (16 * 2 ^ 20 ≤ e.1 % 2 ^ 25 ∧ ((unpackFmr e.2).chunks ≠ [] ∨ (unpackFmr e.2).pend = true)))) ∧
    (let x := packFmr { unpackFmr 0 with chunks := [5] }; 16 * 2 ^ 20 ≤ (16 * 2 ^ 20 + 1) % 2 ^ 25 ∧ (unpackFmr x).chunks ≠ []) := by decide +kernel
theorem witness_memoryControlResults_tag : (kS []).lineStat (2 ^ 40) = 4 ∧ (kS []).lineStat 0x1000 ≠ 4 := by decide +kernel
theorem witness_memoryControlResults_ballooned : fmrBal (({ kS [] with dies := [(0, { Die.reset with fmrs := [(1, 1#1024 <<< 662)] })] } : State).fmr 0x1000) = true := by decide +kernel

/-- A K context with queue 5 active over a ring of 1,024 words at 0x10000. -/
def posting (r : SMap Word) (w : BitVec 32) : State :=
  mapped { kS r with hub := { Hub.reset with stage := 5, fest := 0, queues := [(5, { Queue.reset with state := 1, log2 := 10, base := 0x10000 / 4096, wptr := w })] } }
theorem witness_dispatchInstructionResults : ReadyK (f 1 2 3 0 0 0 4) (posting [(2, 5), (3, 0x20000)] 0) ∧ ((posting [(2, 5)] 0).queue 5).state = 1 ∧ 0x20000 % 4 = 0 ∧
    (((posting [] 0).queue 5).wptr - ((posting [] 0).queue 5).rptr).toNat + 4 ≤ ((posting [] 0).queue 5).size ∧ ((posting [] 1021).queue 5).size < (((posting [] 1021).queue 5).wptr - ((posting [] 1021).queue 5).rptr).toNat + 4 :=
  ⟨⟨⟨⟨rfl, rfl⟩, by decide +kernel⟩, rfl⟩, by decide +kernel, rfl, by decide +kernel, by decide +kernel⟩
theorem witness_dispatchInstructionResults_ring : (match (posting [] 0).hubWrite 0 (((posting [] 0).queue 5).wordVa 0) (leBytes 4 0x05030000) with | .ok t => good (t.hubWrite 0 (((posting [] 0).queue 5).wordVa 1) (leBytes 4 0x20000)) | .error _ => false) = true := by decide +kernel
theorem witness_dispatchInstructionResults_pinit : ReadyK (f 1 2 3 0 0 0 0) (mapped (kS [(2, 0x3000)])) ∧ 0x3000 % 256 = 0 ∧ (match accessParts (mapped (kS [(2, 0x3000)])) 0 true .write 0x3000 256 with | .ok (_ :: _, _) => true | _ => false) = true ∧ 0x3001 % 256 ≠ 0 :=
  ⟨⟨⟨⟨rfl, rfl⟩, by decide +kernel⟩, rfl⟩, rfl, by decide +kernel, by decide⟩

theorem witness_dispatchInstructionResults_load : (mapped (kS [(2, 0x3000)])).pinitWaits 0 0x3000 0x3000 0 = false ∧ (mapped (kS [])).ctx.waiting = none := by decide +kernel

/-- U0 parsing with the symbols and the stack given. -/
def parses (q : List Mark) (l : List StackEntry) : State := uWith { uCtx0 [] with st := .parsing, queue := q, stack := l }
theorem witness_ductusSteps : (parses [1] [⟨1, 0⟩]).gated = false ∧ ((parses [1] [⟨1, 0⟩]).ctxAt (uCtx 0)).scroll.mode = 0 ∧ (parses [1] [⟨1, 0⟩]).core.isCut (uCtx 0) = false ∧ ((parses [1] [⟨1, 0⟩]).ctxAt (uCtx 0)).drains = false ∧
    dropFrames ([⟨1, 0⟩] : List StackEntry) = ⟨1, 0⟩ :: [] ∧ ((parses [1] [⟨1, 0⟩]).ctxAt (uCtx 0)).peek1 = .sym 1 ∧ ((parses [] [⟨1, 0⟩]).ctxAt (uCtx 0)).peek1 = .absent ∧ dropFrames ([⟨0x8010, 0⟩] : List StackEntry) = [] := by decide +kernel
theorem witness_ductusSteps_ends : ({ uCtx0 [] with st := .parsing, eotc := true } : Ctx).peek1 = .stop ∧ ({ uCtx0 [] with stack := [⟨0x8010, 0⟩] } : Ctx).topFrame.isSome = true ∧ ntLa2 (Core.reset.ntEntry 16) = false ∧
    Core.reset.ptEntry (ntTable (Core.reset.ntEntry 16) + 2 * 1) = Core.reset.ptEntry (ntTable (Core.reset.ntEntry 16) + 2) := by decide +kernel
/-- U0 recovering in the frame of nonterminal 16, whose SYNC set holds symbol 1 only. -/
def recovers (q : List Mark) (d : Bool) : State := let s := uWith { uCtx0 [] with st := .recovering, errDone := d, queue := q, stack := [⟨0x8010, 0⟩] }; { s with core := { s.core with gram := [(0x44, 0x80)] } }
theorem witness_ductusSteps_recovery : ((recovers [1] true).ctxAt .u0).st = .recovering ∧ ((recovers [1] true).ctxAt .u0).parsed = false ∧ ((recovers [1] true).ctxAt .u0).errDone = true ∧ ((recovers [1] false).ctxAt .u0).topFrame = some ⟨0x8010, 0⟩ ∧
    ((recovers [1] false).ctxAt .u0).peek1 = .sym 1 ∧ ((recovers [] false).ctxAt .u0).peek1 = .absent ∧ ntSync ((recovers [1] false).core.ntEntry 16) 1 = true ∧ ntSync ((recovers [2] false).core.ntEntry 16) 2 = false ∧ (1 : Mark) ≠ mEOT ∧ (recovers [1] false).core.inTrap = false ∧ (recovers [1] false).gated = false ∧ ((recovers [mEOT] false).ctxAt .u0).peek1 = .sym mEOT ∧ ntSync ((recovers [mEOT] false).core.ntEntry 16) mEOT = false := by decide +kernel
theorem witness_ductusSteps_over : (uWith { uCtx0 [] with st := .mismatch, parsed := true }).core.isCut .u0 = false ∧ (∀ v ∈ (uS []).core.invs, v.ctx = .u0 → v.st = .discarded) ∧ ({ uCtx0 [] with queue := List.replicate 64 1 } : Ctx).queue.length = 64 := by decide
/-- U0 whose lead port has a mark to deliver. -/
def leads : State := { uS [] with core := { (uS []).core with ports := [(0, { Port.reset with bound := true, lead := true, owner := some .u0, outMarks := [mDATA, mCFG] })] } }
theorem witness_ductusSteps_mark : leads.core.leadPort .u0 = some 0 ∧ (leads.port 0).outMarks = mDATA :: [mCFG] ∧ (leads.ctxAt .u0).group.isSome = true ∧ (leads.ctxAt .u0).queue.length < 64 ∧ mDATA ≠ mCFG ∧ (leads.ctxAt .u0).drained = false := by decide +kernel

/-- U0 with a trap that waits, with an interrupt, with a fault of an invocation, or past the watchdog's limit. -/
def waitingTrap : State := { uS [] with core := { (uS []).core with pend := [⟨0, 0x100, 0, ⟨cGrammarMismatch, some 0, some 0, none, none⟩⟩] } }
theorem witness_trapDelivery_pending : waitingTrap.canTrap = true ∧ (firstPending waitingTrap.core.pend).isSome = true ∧ (uS []).canTrap = false := by decide +kernel
theorem witness_trapDelivery_interrupt : ({ uS [] with core := { (uS []).core with irqs := [⟨5, 1, 0⟩] } } : State).canInterrupt = true := by decide +kernel
def faulting : State := { uS [] with core := { (uS []).core with invs := [{ (uS []).newInv 0x90 (f 0 1 0 0 0 0 0) [1] false with st := .starved, fault := some ⟨cTidInvalid, 0x20, 0, 0, 0, 1⟩ }] } }
theorem witness_trapDelivery_fault : faulting.canDeliver = true ∧ ((firstFault faulting.core.pendingFaults).bind (fun p => p.inv)).isSome = true := by decide +kernel
theorem witness_trapDelivery_watchdog : ({ uS [] with core := { (uS []).core with wdx := 1, u0 := { uCtx0 [] with waiting := some .barrier, waited := 65536 } } } : State).core.expired .u0 = true ∧ ({ uS [] with core := { (uS []).core with wdx := 1, u0 := { uCtx0 [] with waiting := some .barrier, waited := 65536 } } } : State).watchdogFirst .u0 = true ∧ (2 : Nat) ^ (1 + 15) = 65536 ∧ (uS []).core.pend = [] ∧ (uCtx0 []).parsed = false := by decide +kernel

theorem witness_engineSteps : ((invS 0x7B .queued false).core.inv 0).isSome = true ∧ (uS []).core.inv 0 = none ∧
    ((invS 0x7B .queued false).core.invs.all (fun v => canStart (invS 0x7B .queued false) v && (startBreach (invS 0x7B .queued false) v).isNone)) = true ∧
    ((invS 0x91 .queued false).core.invs.all (fun v => canStart (invS 0x91 .queued false) v && (startBreach (invS 0x91 .queued false) v).isSome)) = true ∧
    ((invS 0x91 .running false).core.invs.all (fun v => canCommit (invS 0x91 .running false) v)) = true ∧ (uS []).core.firing = [] ∧ (invS 0x91 .queued true).core.firing ≠ [] ∧ ((invS 0x91 .queued true).core.invs.map (·.id)).Nodup ∧ (uS []).core.rank ≤ 8 ∧ (4 < ({ Core.reset with rank := 5 } : Core).rank) := by decide +kernel
theorem witness_engineSteps_ports : (uS []).peerSender 7 = none ∧ (uS []).canAccess 7 = false ∧ (uS []).core.circOn 7 = none ∧ (∀ v ∈ (uS []).core.invs, v.op ≠ 0x8D) ∧ (uS []).farEnds 7 = [] ∧ (uS []).peerReader 7 = none := by decide +kernel
theorem witness_waitsEnd : (uWith { uCtx0 [] with waiting := some .barrier }).core.halted = false ∧ ((uWith { uCtx0 [] with waiting := some .barrier }).ctxAt .u0).waiting = some .barrier ∧ (uS []).core.inTrap = false ∧ (kS []).core.inTrap = true := by decide
/-- U0 and U1 that wait for the granule at offset 8 of the scratchpad, which has become full, to read it and leave it empty: SPLD.WAIT.CLR s1, 8(s2). -/
def twoWait : State :=
  let x : Ctx := { uCtx0 [] with waiting := some .full, pc := 0 }
  let s := { uS [] with core := { (uS []).core with icache := [⟨0, false, 0, (encode (.spld ⟨.l, 1, 2, 0, 0, 0, 0, 3, 8⟩)).getD []⟩], full := [(0, true), (1, true)], u0 := x, u1 := x } }
  s
theorem witness_waitsEnd_yields : (twoWait.ctxAt .u0).waiting = some .full ∧ (twoWait.tryU .u0).issued = true ∧ (twoWait.tryU .u0).state.core.full ≠ twoWait.core.full ∧ twoWait.yields .u0 = false ∧ (twoWait.attempt .u0).issued = true ∧ (twoWait.atRank 0).gated = false ∧
    ctxNum .u0 < ctxNum .u1 ∧ ((twoWait.tryU .u0).state.tryU .u1).issued = false ∧ twoWait.yields .u1 = true := by decide +kernel
theorem witness_waitsEnd_slot : twoWait.slotIssuer = some .u0 ∧ twoWait.slotIssuer ≠ some .u1 ∧ twoWait.core.halted = false ∧ twoWait.core.inTrap = false ∧ ((twoWait.atRank 0).tryU .u0).issued = true ∧ (twoWait.atRank 0).yields .u0 = false ∧
    (∀ v ∈ [CtxId.u0, .u1, .u2, .u3], ((twoWait.atRank 0).ctxAt v).age ≠ 28) ∧ .u0 = uCtx (twoWait.atRank 0).core.rr ∧ 0 < ((twoWait.atRank 0).ctxAt .u0).slots := by decide +kernel
theorem witness_waitsEnd_aged : (let s := twoWait.putCtxAt .u1 { twoWait.ctxAt .u1 with age := 28, waiting := none }
    ((s.atRank 0).ctxAt .u1).age = 28 ∧ ((s.atRank 0).ctxAt .u0).age ≠ 28 ∧ (s.atRank 0).yields .u1 = false ∧ ((s.atRank 0).tryU .u1).issued = true ∧ s.slotIssuer = some .u1) := by decide +kernel
/-- U0 whose invocation waits for port 1, which reads the descriptor; the port may make its next access. -/
def reading : State := { bound with core := { bound.core with invs := [{ bound.newInv 0x7A (f 2 1 0 0 0 0 0) [1, 2] false with st := .running }] } }
theorem witness_engineSteps_access : reading.peerSender 1 = none ∧ reading.peerReader 1 = none ∧ reading.canAccess 1 = true ∧ (match reading.reader 1 with | some r => good (reading.portStep 1 r) | none => false) = true ∧
    (match ({ reading with core := { reading.core with l1tlb := [] } } : State).reader 1 with | some r => good (({ reading with core := { reading.core with l1tlb := [] } } : State).portStep 1 r) | none => true) = false := by decide +kernel
/-- U0 with a copy that reads 64 bytes at an address through port 3, which is unbound, or at one that nothing maps. -/
def linear (a : Word) : State := { bound with core := { bound.core with invs := [{ (bound.setS 1 a |>.setS 4 64).newInv 0x7B (f 2 1 0 4 0 0 3) [3] false with st := .running }] } }
theorem witness_engineSteps_linear : ((linear 0x100).linearOn 3).any (fun v => good ((linear 0x100).linearPiece v)) = true ∧ ((linear 0x100000).linearOn 3).any (fun v => !good ((linear 0x100000).linearPiece v)) = true ∧
    (linear 0x100).peerSender 3 = none ∧ (linear 0x100).peerReader 3 = none ∧ (linear 0x100).core.halted = false ∧ bound.linearOn 3 = none := by decide +kernel
/-- Port 5 receives circuit 0; a mark stands at its head. -/
def receiving : State := { wired with core := { wired.core with
  circuits := [(0, BitVec.ofNat 128 (5 * 2 ^ 6 + 1 * 2 ^ 9 + 4 * 2 ^ 18))]
  ports := [(5, { Port.reset with bound := true, desc := flt32, wr := true, circ := [.mark 1] })]
  invs := [{ wired.newInv 0x8D (f 5 0 0 0 0 0 0) [5] false with st := .running }] } }
/-- Port 0 with 32 beats in its data queue and no link. -/
def fullQueue : State := { uS [] with core := { (uS []).core with ports := [(0, { Port.reset with fifo := List.replicate 32 ⟨[], [], [], 0, 0, 0⟩ })] } }
theorem witness_engineSteps_full : 32 + fullQueue.core.slotsAt 0 ≤ (fullQueue.port 0).fifo.length ∧ (leads.port 0).lead = true ∧ (leads.port 0).outMarks ≠ [] ∧ (leads.port 0).owner = some .u0 := by decide +kernel
theorem witness_engineSteps_circuit : (match receiving.core.circOn 5 with | some v => decide (v.o.d.toNat = 5) && (match receiving.core.invEnd 0 v with | some e => e.kind == 0 | none => false) | none => false) = true ∧
    (receiving.port 5).wr = true ∧ (receiving.port 5).circ = .mark 1 :: [] ∧ (1 : Mark) ≠ mEOT ∧ (1 : Mark) ≠ mCFG ∧ receiving.atRank arrivalRank = { receiving with core := { receiving.core with rank := arrivalRank } } := by decide +kernel
/-- Port 5 receives a beat of 32 elements of FP32, or one that is too short. -/
def landing (n : Nat) : State := { receiving with core := { receiving.core with ports := [(5, { Port.reset with bound := true, desc := desc ||| (1#512 <<< 68), wr := true, circ := [.beat (List.replicate n 0x5A) []] })] } }
theorem witness_engineSteps_beat : (let u := (landing 128).atRank arrivalRank; let q := u.port 5
    match u.core.circOn 5 with
    | some v => decide (q.circ = [.beat (List.replicate 128 0x5A) []]) && q.beatBytes true == 128 && decide (q.cursor < q.tiles true) && q.mode == 0 && decide (u.unseen = []) && decide (v.copyBar = none) && !u.drains v
        && (q.writeTile u.free 5 true 0 ((List.replicate 128 0x5A).take (q.tileBytes true)) ((List.replicate 128 0x5A).drop (q.tileBytes true))).1.all (fun w => w.breach.isNone && w.sp && decide (w.port = 5) && decide (w.addr + w.data.length ≤ spmSize))
    | none => false) = true ∧ (((landing 127).atRank arrivalRank).port 5).beatBytes true ≠ 127 := by decide +kernel

/-- A launch of the region at 0x2000 on a queue: its count, the next index, the groups bound and retired, and whether it is closed. -/
def open1 (q n next bound ret : Nat) (c : Bool) : Launch := ⟨q, 0, 0x2000, 0x2000, 0, 1, 0, 0, false, 0, [], none, some (BitVec.ofNat 32 n), next, bound, ret, 0, 0, 0, 0, 0, c, false, none⟩
/-- A core whose cut of U0 has been taken. -/
def cutNow : State := let s := cutting 0x9440; { s with core := { s.core with cut := some ⟨.u0, 0x10000, 0, 0x9440, true, true⟩ } }
theorem witness_endsOfWork_cut : cutNow.core.canCut = true ∧ (uS []).core.canCut = false := by decide +kernel
/-- A region that drains, whose work is done, and a launch that waits for its last group. -/
def draining : State := { uWith { uCtx0 [] with st := .parsing, parsed := true } with hub := { Hub.reset with
  regions := [(0x3000, some ⟨0x3000, 0, 3, none, 0, some 0⟩)]
  launches := [(0, some (open1 0 1 1 1 0 true)), (1, some (open1 0 1 1 1 1 true))] } }
theorem witness_endsOfWork_drain : draining.canEndDrain 0x3000 = true ∧ (draining.region 0x3000).isSome = true ∧ SMap.wf Core.reset draining.others = true ∧ draining.canEndDrain 0x4000 = false := by decide +kernel
theorem witness_endsOfWork_retire : draining.core.canRetire .u0 = true ∧ (draining.ctxAt .u0).group = some grp ∧ (draining.ctxAt .u0).scroll.mode ≠ 1 ∧ (draining.launch 0).isSome = true ∧ draining.launch 2 = none := by decide +kernel
theorem witness_endsOfWork_launch : (match draining.launch 1 with | some l => l.closed && decide (l.bound = l.retired) && (((draining.acquireBy hubParty 4 [hubKey]).rcb l.asid l.rcbVa.toNat).cmode == 0) | none => false) = true ∧ (draining.launch 0).isSome = true := by decide +kernel

/-- Queue 5 with a NOP packet, a packet of a type that does not exist, or nothing in its ring. -/
def ring (b : Byte) (w : BitVec 32) : State := (posting [] w).pokeByte 0x10003 b
theorem witness_queueSteps : (ring 0 1).hub.fest = 0 ∧ ((ring 0 1).queue 5).state = 1 ∧ ((ring 0 1).queue 5).hold = none ∧ (match (ring 0 1).parsePacket 5 with | .packet p => p.type = 0 && (p.breach ((ring 0 1).queue 5)).isNone && (ring 0 1).packetReady 5 p && good ((ring 0 1).packetEffect 5 p) | _ => false) = true ∧
    (match (ring 10 1).parsePacket 5 with | .error k => k == 1 | _ => false) = true ∧ (match (ring 0 0).parsePacket 5 with | .wait => true | _ => false) = true ∧ (uS []).heldPacket 5 = none := by decide +kernel
/-- A FENCE packet that another launch of its queue holds back, then one that may go on. -/
theorem witness_queueSteps_held : (let s := ring 0x07 1; match s.parsePacket 5 with | .packet p => p.type == 7 && s.packetReady 5 p | _ => false) = true ∧
    (let s := (ring 0x07 1).putQueue 5 { (ring 0x07 1).queue 5 with hold := some 7, words := (⟨7, 0, []⟩ : Packet).words }; (s.heldPacket 5).isSome) = true ∧ ((ring 0x07 1).queue 5).state = 1 := by decide +kernel
theorem witness_queueSteps_stop : ((({ Queue.reset with state := 1, stop := true, wptr := 2, rptr := 1 } : Queue).advance 1).buffers = []) ∧ (0 : Nat) ≠ 5 ∧ ({ Queue.reset with state := 1, hold := some 7, words := [0x07000000] } : Queue).busy = true := by decide +kernel
theorem witness_queueSteps_notReady : (let s := ring 0x07 1; let t := s.putLaunch 0 (some (open1 5 1 0 0 0 false))
    match t.parsePacket 5 with | .packet p => (p.breach (t.queue 5)).isNone && !t.packetReady 5 p | _ => false) = true := by decide +kernel

theorem witness_bindSteps : (let s : State := { uS [] with hub := { Hub.reset with stage := 5 }, dies := [(0, { Die.reset with bind := [(3, some 0)] })] }
    (s.die 0).noBind = false ∧ s.fullSlot 0 = some (3, 0) ∧ s.bindCheck 0 = some 1 ∧ s.hub.stage = 5) := by decide +kernel
/-- A region of one core with its image, and an open launch of it. -/
def binding : State := { State.reset with hub := { Hub.reset with
  stage := 5
  regions := [(0x2000, some ⟨0x2000, 0, 1, some ⟨0, 0, 0, 1, 0, 0, [], [], [], [], [], [], 0⟩, 0, none⟩)]
  launches := [(0, some (open1 0 1 0 0 0 false))] } }
/-- A record past the count of its closed launch is consumed (R483). -/
theorem witness_bindSteps_applied : good ((binding.putLaunch 0 (some (open1 0 0 0 0 0 true))).applyRecord 0) = true := by decide +kernel
/-- A launch whose image puts port 1 of core 0 in the place of the port that an invocation of U1 uses. -/
def portsWait (b : Bool) : State := { binding with
  hub := { binding.hub with regions := [(0x2000, some ⟨0x2000, 0, 1, some ⟨0, 0, 0, 1, 0, 0, [], [], [1], [], [], [], 0⟩, 0, none⟩)], roots := [(0, 0x4001)] }
  mem := [(0x2010, 1), (0x4000, 1), (0x4001, 0x50), (0x5000, 0x79), (0x5001, 4)]
  core := { binding.core with invs := if b then [{ (uS []).newInv 0x7A (f 2 1 0 0 0 0 0) [1, 2] false with ctx := .u1 }] else [] } }
theorem witness_bindSteps_ports : (portsWait true).portsBusy 0x2000 0 = true ∧ (portsWait false).portsBusy 0x2000 0 = false ∧ (portsWait true).hasBound 0 = false ∧
    (match (portsWait true).applyRecord 0 with | .ok u => u.hasBound 0 | .error _ => false) = true ∧ ((portsWait true).launch (bindSlot 0)).any (fun l => decide (l.rcb = 0x2000)) = true ∧ bindCore 0 = 0 := by decide +kernel
theorem witness_bindSteps_move : (uS []).core.canMove .u0 = true ∧ ((uS []).ctxAt .u0).group = some grp ∧
    ({ uS [] with hub := binding.hub } : State).canTake grp 0 .u1 = true ∧ (uS []).core.hasRoom ((uS []).core.saved .u0 0) = true ∧ (uS []).core.canMove .u1 = false := by decide +kernel

theorem witness_storageSteps : dirtyS.isDirty 512 = true ∧ 512 ∉ (dirtyS.die (dieOfDpa (512 * 128))).deferred ∧ dirtyS.isDirty 513 = false ∧ (dirtyS.storeLine ⟨false, false⟩ 512 false).isSome = true ∧ dirtyS.wellDirty 512 = true ∧
    ({ dirtyS with dies := [(0, { Die.reset with dirty := [(512, 1)], l1 := [(512, 0)] })] } : State).wellDirty 512 = false ∧ ({ dirtyS with dies := [(0, { Die.reset with dirty := [(512, 1)], l1 := [(512, 0)] })] } : State).isDirty 512 = true := by decide +kernel
theorem witness_storageSteps_full : (let s : State := { dirtyS with dies := [(0, { Die.reset with dirty := [(512, 1)], free := 0, hwres := 0 })] }; let t := s.pokeBytes 0x10000 ((List.range 128).map (fun i => BitVec.ofNat 8 (i * i + 7 * i)))
    t.wellDirty 512 = true ∧ (t.storeLine ⟨false, false⟩ 512 false).isNone = true) := by decide +kernel
theorem witness_storageSteps_blotter : ({ Die.reset with free := 100, kres := 100 } : Die).canKres = true ∧ Die.reset.canKres = false ∧ ({ Die.reset with free := 100, lists := [(3, [9])] } : Die).canReclaim = true ∧
    ({ Die.reset with free := 100, lists := [(3, [9])] } : Die).nextVf = some 3 ∧ Die.reset.canReclaim = false ∧ ({ Die.reset with free := 100 } : Die).canDraw = true ∧ Die.reset.canDraw = false ∧
    ({ Die.reset with hwres := 0, held := [⟨0, .u0, some 0, 512, 0, 2, 0, 0⟩] } : Die).canRefill = true ∧ Die.reset.canRefill = false := by decide +kernel
theorem witness_storageSteps_held : (let s : State := { uS [] with dies := [(0, { Die.reset with held := [⟨0, .u0, some 0, 512, 0, 2, 0, 0⟩] })] }; (s.overdue 0).isSome = true ∧ (s.die 0).held ≠ [] ∧ s.core.halted = false) := by decide +kernel
theorem witness_storageSteps_deferred : (let s : State := { dirtyS with dies := [(0, { Die.reset with dirty := [(512, 1)], deferred := [512] })] }; (s.die 0).free ≠ 0 ∧ (s.die 0).held = [] ∧ (s.storeLine ⟨false, false⟩ 512 true).isSome = true) := by decide +kernel

/-- U0 replaying the records that stand at 0x10000. -/
def replaying (h : List Byte) (p : Nat) (e : Bool) : State :=
  (mapped (uWith { uCtx0 [] with st := .parsing, scroll := { Scroll.live with mode := 2, track := 0x10000, tlen := 0x800, total := 8, pendCons := p, ending := e } })).pokeBytes 0x10000 h
theorem witness_replaySteps : (replaying [] 0 false).gated = false ∧ (replaying [] 0 false).core.replays .u0 = true ∧ (uS []).core.replays .u0 = false ∧ ((replaying [] 0 false).ctxAt .u0).drains = false ∧ (replaying [] 0 false).nextRecord .u0 = some 0 ∧
    (match readRecord (replaying [] 0 false) 0 0x10000 0 with | .ok r => good (readRecords (recNx r) (replaying [] 0 false) 0 0x10000 1) | .error _ => false) = true ∧ (replaying [] 1 false).nextRecord .u0 = some 1 ∧ (replaying [] 1 true).nextRecord .u0 = some 3 := by decide +kernel
theorem witness_replaySteps_types : (let t := fun (b : Byte) => match readRecord (replaying (List.replicate 15 0 ++ [b]) 0 false) 0 0x10000 0 with | .ok r => recType r | .error _ => 9
    t 0x40 = 1 ∧ t 0x80 = 2 ∧ t 0xC0 = 3) := by decide +kernel
theorem witness_replaySteps_drn : (let s := replaying [] 0 false; let t := s.putCtxAt .u0 { s.ctxAt .u0 with queue := [mDRN] }; t.core.replays .u0 = true ∧ peekIn (t.ctxAt .u0).items 1 = .hw mDRN) := by decide +kernel

/-- The host's view: function 0 is enabled over address space 0, and memory is mapped. -/
def hosted : State := mapped { State.reset with hub := { Hub.reset with vfs := [(0, 0x80000000)], stage := 4 } }
theorem witness_hostSteps : (SMap.get 0 hosted.hub.vfs 0).getLsbD 31 = true ∧ good (hubParts hosted 0 false .read 0x3000 8) = true ∧ good (hubParts hosted 0 false .write 0x3000 8) = true ∧ (SMap.get 0 hosted.hub.vfs 1).getLsbD 31 = false ∧ hosted.hub.stage = 4 ∧
    (dpaParts 2 hosted true 0x3000 8).isSome = true ∧ dpaParts 2 hosted true 0x1000000000 8 = none ∧ (hosted.hub.slot 0).found = none ∧ hosted.hub.attestGo = false ∧ ({ hosted.hub with attestGo := true, spst := 0 } : Hub).spst = 0 := by decide +kernel
theorem witness_hostSteps_reads : ({ hosted with agenda := [.pfRead 8] } : State).agenda = .pfRead 8 :: [] ∧ ({ hosted with agenda := [.vfRead 0 0x3004] } : State).agenda = .vfRead 0 (BitVec.ofNat 16 (4096 * (3 : BitVec 4).toNat + 4)) :: [] := by decide +kernel
/-- BOOTST after a cold reset, from the reset column of R508. -/
theorem test_bootst : State.reset.pfWord 0 = 0xFFF00 := by decide +kernel
/-- A node record of R499: port 3 of core offset 0 has source-graph number 0x1234. -/
theorem test_nodeNumber : (let s : State := { State.reset with
      core := { Core.reset with image := some 0x2000 }
      hub := { Hub.reset with regions := [(0x2000, some ⟨0x2000, 0, 1, some ⟨0, 0, 0, 1, 0, 0, [0x330001234], [], [], [], [], [], 0⟩, 0, none⟩)] } }
    s.nodeNumber 3 3 = 0x1234 ∧ s.nodeNumber 3 2 = 0xFFFF ∧ s.nodeNumber 0 0 = 0xFFFF) := by decide +kernel
theorem witness_hostSteps_boot : kbootErrOf hosted.hub.kboot ≠ 0 := by decide +kernel
theorem witness_hostSteps_doorbell : (512 : Nat) % 65536 = 512 ∧ (State.reset.coreOf 511).halted = false ∧ (State.reset.coreOf 511).irqs.length < 16 := by decide +kernel
theorem witness_resetAndErrorSteps : ({ State.reset with dies := [(0, { Die.reset with gate := 64 })] } : State).gated = true ∧ State.reset.gated = false ∧ State.reset.others = [] ∧ State.reset.core.linkPorts State.reset.coreId 15 = [] ∧ ({ Die.reset with gate := 64 } : Die).gate = 64 ∧ State.reset.core.saving = none ∧ cutNow.core.saving.isSome = true := by decide +kernel

theorem witness_decodeEncodeRoundTrip : (Instr.addi ⟨.c, 63, 62, 0, 0, 0, 0, 0, 0xFFFFFFFFFFF0⟩).wellFormed = true ∧ (encode (.addi ⟨.c, 63, 62, 0, 0, 0, 0, 0, 0xFFFFFFFFFFF0⟩)).isSome = true := by decide
/-- ADDI s3, s1, 16 stored where the next step fetches. -/
def fetching : State := State.reset.withFetchWord 64 0x1000010C15
theorem witness_stepRunsDecodedInstruction : (match fetch (fetching.select .k) with
    | .ok (bs, s1) => decide (decodeAt true bs = .ok (.addi ⟨.m, 3, 1, 0, 0, 0, 0, 0, 16⟩, [])) && !s1.core.hazard .k 5 ⟨.m, 3, 1, 0, 0, 0, 0, 0, 16⟩
        && (match exec (.addi ⟨.m, 3, 1, 0, 0, 0, 0, 0, 16⟩) s1 with | .next t => !t.blocked .k && decide ((t.ctxAt .k).st ≠ .trapped) && (t.core.inTrap == s1.core.inTrap) | _ => false)
    | .error _ => false) = true ∧ fetching.core.rank = 0 ∧ fetching.agenda = [] ∧ fetching.hwNext = false ∧ fetching.core.inTrap = true ∧ fetching.core.halted = false ∧ fetching.gated = false := by decide +kernel
/-- The same with a word that the map reserves. -/
theorem witness_stepRunsDecodedInstruction_error : (match fetch ((State.reset.withFetchWord 32 0xDE).select .k) with
    | .ok (bs, s1) => decide (bs.length = (formOf (bs.headD 0)).bytes) && decide (decodeAt true bs = .error (.illegalOp 0)) && !s1.core.hazard .k 0x6F ⟨.c, 0, 0, 0, 0, 0, 0, 0, 0⟩ && !s1.core.halted
    | .error _ => false) = true := by decide +kernel
theorem witness_stepNeverStops : State.reset.agenda = [] ∧ State.reset.hwNext = false ∧ State.reset.others = [] ∧ ({ State.reset with core := { Core.reset with halted := true } } : State).core.halted = true := by decide
theorem witness_stepKeepsMemoryCanonical : Canonical State.reset ∧ (match step State.reset with | .next _ => true | _ => false) = true := ⟨rfl, by decide +kernel⟩
theorem witness_memoryOperations : Canonical State.reset ∧ (∀ p ∈ ([⟨8, 4, 0⟩] : List Part), (7 : Nat) < p.dpa ∨ p.dpa + p.len ≤ 7) ∧ (∀ p ∈ ([⟨8, 4, 0⟩] : List Part), (12 : Nat) < p.dpa ∨ p.dpa + p.len ≤ 12) := ⟨rfl, by decide, by decide⟩
theorem witness_registerFrame : (Instr.plog (f 1 2 3 0 0 0 0)).opcode? ≠ none ∧ (Instr.add (f 1 2 3 0 0 0 0)).opcode? = some 3 ∧ (Instr.bswap (f 1 2 3 0 0 0 0)).ops? = some (f 1 2 3 0 0 0 0) ∧ Ready (f 1 2 3 0 0 0 0) (uS [(3, 5)]) ∧ (uS [(3, 5)]).getS 3 ≠ 0 :=
  ⟨by decide, rfl, rfl, ready_u _ _ rfl, by decide⟩

/-! ## Single steps, with results from the manual or worked out by hand from its rules -/

/-- The state that an instruction answers. -/
def out (r : Host.Outcome State Fault Refusal) : State :=
  match r with
  | .next t => t
  | _ => State.reset

/-- R255: sums are modulo 2^64. -/
theorem test_addi_wraps : (out (exec (.addi (f 1 2 0 0 0 0 1)) (uS [(2, 0xFFFFFFFFFFFFFFFF)]))).getS 1 = 0 := by decide +kernel
/-- R255: -2^63 div -1 gives -2^63, and the remainder is 0. -/
theorem test_div_overflow : (out (exec (.div (f 1 2 3 0 0 0 0)) (uS [(2, 0x8000000000000000), (3, 0xFFFFFFFFFFFFFFFF)]))).getS 1 = 0x8000000000000000 ∧
    (out (exec (.rem (f 1 2 3 0 0 0 0)) (uS [(2, 0x8000000000000000), (3, 0xFFFFFFFFFFFFFFFF)]))).getS 1 = 0 := by decide +kernel
/-- R255: the remainder has the dividend's sign: -7 rem 2 is -1, and -7 div 2 is -3. -/
theorem test_rem_sign : (out (exec (.rem (f 1 2 3 0 0 0 0)) (uS [(2, 0xFFFFFFFFFFFFFFF9), (3, 2)]))).getS 1 = 0xFFFFFFFFFFFFFFFF ∧
    (out (exec (.div (f 1 2 3 0 0 0 0)) (uS [(2, 0xFFFFFFFFFFFFFFF9), (3, 2)]))).getS 1 = 0xFFFFFFFFFFFFFFFD := by decide +kernel
/-- R255, R310: a zero divisor is DIVIDE_ZERO with the dividend in KAUX1, and the context is TRAPPED. -/
theorem test_divide_zero : (let t := out (exec (.divu (f 1 2 3 0 0 0 0)) (uS [(2, 9)])); t.core.kaux0 = 0 ∧ t.core.kaux1 = 9 ∧ t.core.u0.st = .trapped ∧ t.core.kepc = 0x100 ∧ bits t.core.kcause 15 14 = 3 ∧ t.core.cur = .k) := by decide +kernel
/-- R59: a write of s0 is discarded. -/
theorem test_s0_discards : (let t := out (exec (.addi (f 0 2 0 0 0 0 1)) (uS [(2, 4)])); t.getS 0 = 0 ∧ t.ctx.s = [(2, 4)] ∧ t.ctx.pc = 0x10C) := by decide +kernel
/-- R256: a rotation by 8 and an arithmetic shift by 4. -/
theorem test_shifts : (out (exec (.rol (f 1 2 0 0 0 0 8)) (uS [(2, 0x8100000000000001)]))).getS 1 = 0x181 ∧ (out (exec (.srai (f 1 2 0 0 0 0 4)) (uS [(2, 0x8000000000000010)]))).getS 1 = 0xF800000000000001 := by decide +kernel
/-- R259: bits [63:48] of 0xABCD_0000_0000_0000. -/
theorem test_ext : (out (exec (.ext (f 1 2 0 0 0 0 0x3F0)) (uS [(2, 0xABCD000000000000)]))).getS 1 = 0xABCD := by decide +kernel
/-- R265: a call writes its link and jumps. -/
theorem test_call : (let t := out (exec (.call (f 5 0 0 0 0 0 0x40)) (uS [])); t.getS 5 = 0x10C ∧ t.ctx.pc = 0x140) := by decide +kernel
/-- R273: 1.0 + 2^-24 is inexact and rounds to even; 1.0 / 0 is Inf and sets DZ. -/
theorem test_float : (let t := out (exec (.fadd (f 1 2 3 0 0 0 0)) (uS [(2, 0x3F800000), (3, 0x33800000)])); t.getS 1 = 0x3F800000 ∧ t.core.flags ≠ 0) ∧
    (let t := out (exec (.fdiv (f 1 2 3 0 0 0 0)) (uS [(2, 0x3F800000)])); t.getS 1 = 0x7F800000 ∧ t.core.flags = flagDZ) := by decide +kernel
/-- R5, R208: a store of 4 bytes is little-endian and a signed load extends. -/
theorem test_store_load : (let t := out (exec (.st (f 2 3 0 0 1 0 8)) (uS [(2, 0x1122334485667788)])); t.byteAt 0x10008 = 0x88 ∧ t.byteAt 0x1000B = 0x85 ∧ t.byteAt 0x1000C = 0 ∧
    (out (exec (.ld (f 4 3 0 0 1 0 8)) t)).getS 4 = 0xFFFFFFFF85667788) := by decide +kernel
/-- R210, R365: a masked lane keeps its value. -/
theorem test_vadd_mask : (let s := uWith { uCtx0 [] with p := [(1, 1)], v := [(1, 0x3F8000003F800000), (2, 0x4000000040000000), (3, 0x0000000700000007)] }
    let t := out (exec (.vadd ⟨.l, 3, 1, 2, 0, 0, 1, 0, 0⟩) s); lane (t.getV 3) 0 = 0x40400000 ∧ lane (t.getV 3) 1 = 7) := by decide +kernel
/-- R214: an atomic answers the old value and stores the sum. -/
theorem test_aadd : (let t := out (exec (.aadd (f 1 0 2 0 0 0 0x10)) ((uS [(2, 5)]).pokeByte 0x10010 7)); t.getS 1 = 7 ∧ t.byteAt 0x10010 = 12) := by decide +kernel
/-- R134: the second of two arrivals flips the phase and clears the count. -/
theorem test_bararr : (let t := out (exec (.bararr (f 0 2 3 0 0 0 0)) barS); barPh (t.core.barWord 8) = true ∧ barArr (t.core.barWord 8) = 0 ∧ barExp (t.core.barWord 8) = 2) := by decide +kernel
/-- R317: TRAP 3 at U-level is SYSCALL with KAUX1 3; at K-level it only counts. -/
theorem test_trap : (let t := out (exec (.trap (f 0 0 0 0 0 0 3)) (uS [])); t.core.kaux1 = 3 ∧ t.core.inTrap = true ∧ bits t.core.kcause 4 0 = cSyscall.toNat) ∧
    (out (exec (.trap (f 0 0 0 0 0 0 3)) (kS []))).ctx.pc = 0x10C := by decide +kernel
/-- R69: ERET at U-level is PRIV. -/
theorem test_priv : (let t := out (exec (.eret (f 0 0 0 0 0 0 0)) (uS [])); bits t.core.kcause 4 0 = cPriv.toNat ∧ t.core.kaux0 = 0) := by decide +kernel
/-- R318: ERET goes on at KEPC, ERET.SKIP past the instruction. -/
theorem test_eret : (out (exec (.eret (f 0 0 0 0 0 0 0)) afterTrap)).core.u0.pc = 0x200 ∧ (out (exec (.eretSkip (f 0 0 0 0 0 1 0)) afterTrap)).core.u0.pc = 0x208 ∧ (out (exec (.eret (f 0 0 0 0 0 0 0)) afterTrap)).core.inTrap = false := by decide +kernel
/-- R314: a trap of the K context halts the core, where nothing runs any more. -/
theorem test_halt : (let t := out (exec (.div (f 1 2 3 0 0 0 0)) (kS [])); t.core.halted = true ∧ (match exec (.nop (f 0 0 0 0 0 0 0)) t with | .fault .coreHalted => true | _ => false) = true) := by decide +kernel
/-- R426: the manual's line of 0x10 + i takes tag 2; with 0x300 in word 9 it takes tag 3. -/
theorem test_line_tags : chooseTag ((List.range 16).flatMap (fun i => leBytes 8 (0x10 + i))) = 2 ∧ chooseTag ((List.range 16).flatMap (fun i => leBytes 8 (if i = 9 then 0x300 else 0x10 + i))) = 3 := by decide +kernel
/-- R233: a terminal that matches is consumed; one that does not is a mismatch. -/
theorem test_parse : (out (exec (.parseStep 0) (parses [1] [⟨1, 0⟩]))).core.u0.stack = [] ∧ (out (exec (.parseStep 0) (parses [2] [⟨1, 0⟩]))).core.u0.st = .mismatch := by decide +kernel
/-- R290: SIGDEC answers the old value and stores the difference. -/
theorem test_sigdec : (let t := out (exec (.sigdec (f 1 0 2 0 0 0 0x20)) ((uS [(2, 1)]).pokeByte 0x10020 3)); t.getS 1 = 3 ∧ t.byteAt 0x10020 = 2) := by decide +kernel
/-- R23, R54: a step fetches ADDI s3, s1, 16 and runs it: s3 becomes 16 and the address advances by 8. -/
theorem test_step : (let t := out (step fetching); t.core.k.getS 3 = 16 ∧ t.core.k.pc = fetching.core.k.pc + 8) := by decide +kernel
/-- R107 to R109, the normalisation program's table: the quantised row 0 with its scale and NX, the zero row with QDEF, and VRSQ of 64. -/
theorem test_quantise : (let r := quantRow ([0x40280000, 0xBF600000, 0x3EC00000, 0xBEC00000, 0x3E000000, 0xBE000000, 0x3E000000, 0xBE000000].map f32 ++ List.replicate 248 (f32 0))
    r.1 = 0x3BC00000 ∧ (r.2.1.take 9) = [0x7E, 0xF1, 0x68, 0xE8, 0x5B, 0xDB, 0x5B, 0xDB, 0x00] ∧ r.2.2 = flagNX) ∧
    (let r := quantRow (List.replicate 256 (f32 0)); r.1 = 0x3F800000 ∧ r.2.1.all (fun b => b = 0) = true ∧ r.2.2 = flagQDEF) ∧ (fnRsq 0x42800000).1 = 0x3E000000 := by decide +kernel
/-- R483: a record that names no launch is refused with code 1 and leaves its slot. -/
theorem test_bind_refused : (let s : State := { State.reset with hub := { Hub.reset with stage := 5 }, dies := [(0, { Die.reset with bind := [(3, some 0)] })] }
    let t := out (exec (.bindRecordCheck 0) s); (t.die 0).bind = [] ∧ (t.die 0).refused = [(3, 0, 1)]) := by decide +kernel
/-- R138, R168: the beat stands in the scratchpad, and the granules it covers are full. -/
theorem test_beat : (let t := out (exec (.circuitBeatArrival 5 none) (landing 128)); t.core.spBytes 0x100 128 = List.replicate 128 0x5A ∧ t.core.allFull (granules 0x100 128) = true ∧ SMap.get false t.core.full 0x18 = false ∧ (t.port 5).cursor = 1) := by decide +kernel

end Sys2Proof.Tests
end

section
/-! PROOFS. System calls, privilege and reserved opcodes: what stands before the body of an instruction decides each outcome (R67 to R70, R314, R315, R317). -/

namespace Sys2Proof.Machine

/-! ## TRAP and BRK -/

/-- In a U context the call traps with KAUX0 0 and its immediate in KAUX1 (R317). -/
theorem callTrap_ready_user {o : Ops} {s : State} (cause : BitVec 5) (h : Ready o s) (hu : s.core.cur ≠ .k) :
    callTrap cause o s = .next (s.trapA (trapInfo cause 0 (BitVec.ofNat 64 (o.imm.toNat % 65536))) o.form.bytes) := by
  have hk : s.kLevel = false := by simp [State.kLevel, hu]
  simp [callTrap, runInstr_ready _ h, hk, finish, Ops.uimm]

/-- In the K context it only counts (R317). -/
theorem callTrap_ready_kernel {o : Ops} {s : State} (cause : BitVec 5) (h : Ready o s) (hc : s.core.cur = .k) :
    callTrap cause o s = .next (s.goTo (s.nextPc o)) := by
  have hk : s.kLevel = true := by simp [State.kLevel, hc]
  simp [callTrap, runInstr_ready _ h, hk, finish]

theorem callTrap_suppressed {o : Ops} {s : State} (cause : BitVec 5) (h : Open s) (hg : s.guard0 o = false) :
    callTrap cause o s = .next (s.goTo (s.nextPc o)) :=
  runInstr_suppressed _ h hg

/-! ## The K-only forms -/

/-- A form of a K-only opcode (R69); 0xF5, BRK, lies between them and is not one. -/
def isKOnly (i : Instr) : Bool := i.opcode?.any (fun n => 0xED ≤ n && n ≤ 0xFB && n ≠ 0xF5)

theorem isKOnly_iff {i : Instr} {n : Nat} (hn : i.opcode? = some n) : isKOnly i = true ↔ (0xED ≤ n ∧ n ≤ 0xFB) ∧ n ≠ 0xF5 := by
  simp [isKOnly, hn]

/-- An instruction runs behind the K-level check: its meaning is a body under `runK`, or it is an ERET form. -/
def RunsBehindK (i : Instr) (o : Ops) : Prop :=
  (∃ body, exec i = runK o body) ∨ (∃ m, exec i = eretWith m o)

/-- Every form of a K-only opcode runs behind the K-level check (R69). -/
theorem runsBehindK_of_isKOnly {i : Instr} {o : Ops} (hk : isKOnly i = true) (ho : i.ops? = some o) : RunsBehindK i o := by
  cases i with
  | eret | eretSkip | eretKill =>
    cases ho
    exact .inr ⟨_, rfl⟩
  | tlbinvPage | tlbinvAsid | tlbinvAll | asidset | ctxsave | ctxload | resume | drain | wfi | memctlTag | memctlFmr | memctlRd
  | memctlWr | balloonAdd | balloonRem | balloonPri | qpost | pinit | irqCore | irqHost | walk =>
    cases ho
    exact .inl ⟨_, rfl⟩
  | _ => exact absurd hk Bool.false_ne_true

/-- An ERET form at U-level raises PRIV with SUB 0 (R69). -/
theorem eretWith_priv {o : Ops} {s : State} (m : Nat) (h : s.core.halted = false) (hu : s.core.cur ≠ .k) :
    eretWith m o s = .next (s.trapA (trapSub cPriv 0) o.form.bytes) := by
  simp [eretWith, h, State.kLevel, hu, finish]

theorem RunsBehindK.priv {i : Instr} {o : Ops} {s : State} (hi : RunsBehindK i o) (h : s.core.halted = false) (hu : s.core.cur ≠ .k) :
    exec i s = .next (s.trapA (trapSub cPriv 0) o.form.bytes) := by
  obtain ⟨body, hb⟩ | ⟨m, hm⟩ := hi
  · rw [hb, runK_priv body h hu]
  · rw [hm, eretWith_priv m h hu]

/-! ## Reserved opcodes -/

theorem execReservedOpcode_running {o : Ops} (op sub : BitVec 8) {s : State} (h : s.core.halted = false) :
    execReservedOpcode o op sub s = .next (s.trapA (trapSub cIllegalOp (sub.setWidth 64)) o.form.bytes) := by
  simp [execReservedOpcode, h, finish]

theorem execReservedOpcode_halted {o : Ops} (op sub : BitVec 8) {s : State} (h : s.core.halted = true) :
    execReservedOpcode o op sub s = .fault .coreHalted := by
  simp [execReservedOpcode, h]

/-- Settles O34: TRAP and BRK by the guard and the level, the K-only forms by the check that stands before their bodies, the reserved opcodes by the halt. -/
theorem systemCallsAndPrivilege : Obligations.SystemCallsAndPrivilege := by
  refine ⟨fun o s => ⟨fun h hg => ?suppressed, fun h => ⟨fun hc => ?kernel, fun hu => ?user⟩⟩, ?kOnly, fun o op sub s => ⟨?running, ?halted⟩⟩
  case suppressed => exact ⟨callTrap_suppressed _ h hg, callTrap_suppressed _ h hg⟩
  case kernel => exact ⟨callTrap_ready_kernel _ h hc, callTrap_ready_kernel _ h hc⟩
  case user => exact ⟨callTrap_ready_user _ h hu, callTrap_ready_user _ h hu⟩
  case kOnly =>
    rintro i o s hh hu ho ⟨n, hn, hk⟩
    have hi : isKOnly i = true := (isKOnly_iff hn).2 (by omega)
    exact (runsBehindK_of_isKOnly hi ho).priv hh hu
  case running => exact execReservedOpcode_running op sub
  case halted => exact execReservedOpcode_halted op sub

end Sys2Proof.Machine
end

section
/-! PROOFS. The action unit: moves, integer arithmetic, shifts and comparisons, and transfers of control (R254 to R257, R260 to R265). Each shape of body has its rule once; a value is then a fact about words. -/

namespace Sys2Proof.Machine

/-! ## What the shapes of the forms answer when they run -/

section Forms

variable {o : Ops} {s : State}

/-- A form that only writes a scalar register. -/
theorem runPlain_setS (f : State → Word) (h : Ready o s) :
    runPlain o (fun t => t.setS o.d (f t)) s = .next ((s.setS o.d (f s)).goTo (s.nextPc o)) := by
  rw [runPlain_ready _ h, State.nextPc_setS]

/-- A form that only writes a predicate register. -/
theorem runPlain_setP (f : State → PReg) (h : Ready o s) :
    runPlain o (fun t => t.setP o.d (f t)) s = .next ((s.setP o.d (f s)).goTo (s.nextPc o)) := by
  rw [runPlain_ready _ h, State.nextPc_setP]

theorem runPlain_setS_of_eq (h : Ready o s) {f : State → Word} {w : Word} (hw : f s = w) :
    runPlain o (fun t => t.setS o.d (f t)) s = .next ((s.setS o.d w).goTo (s.nextPc o)) :=
  hw ▸ runPlain_setS f h

theorem alu_of_eq (h : Ready o s) {f : Word → Word → Word} {w : Word} (hw : f (s.getS o.a) (s.getS o.b) = w) :
    alu o f s = .next ((s.setS o.d w).goTo (s.nextPc o)) :=
  runPlain_setS_of_eq h hw

theorem aluImm_of_eq (h : Ready o s) {f : Word → Word → Word} {w : Word} (hw : f (s.getS o.a) (o.imm.signExtend 64) = w) :
    aluImm o f s = .next ((s.setS o.d w).goTo (s.nextPc o)) :=
  runPlain_setS_of_eq h hw

theorem divide_of_ne_zero (h : Ready o s) (hb : s.getS o.b ≠ 0) {f : Word → Word → Word} {w : Word}
    (hw : f (s.getS o.a) (s.getS o.b) = w) :
    divide o f s = .next ((s.setS o.d w).goTo (s.nextPc o)) := by
  simp only [divide, runInstr_ready _ h, if_neg hb, finish, State.nextPc_setS, hw]

/-- A zero divisor traps with the dividend in KAUX1 (R255). -/
theorem divide_of_eq_zero (h : Ready o s) (hb : s.getS o.b = 0) (f : Word → Word → Word) :
    divide o f s = .next (s.trapA (trapInfo cDivideZero 0 (s.getS o.a)) o.form.bytes) := by
  simp only [divide, runInstr_ready _ h, if_pos hb, finish]

end Forms

/-! ## Moves -/

/-- The quarter named takes the word's bits, the other lanes stay (R264). -/
theorem getLsbD_setQuarter (p : PReg) (w : Word) {n i : Nat} (hi : i < 256) :
    (setQuarter p n w).getLsbD i = if i / 64 = n then w.getLsbD (i % 64) else p.getLsbD i := by
  simp only [setQuarter, BitVec.getLsbD_or, BitVec.getLsbD_and, BitVec.getLsbD_not, BitVec.getLsbD_shiftLeft,
    BitVec.getLsbD_setWidth, BitVec.getLsbD_allOnes]
  by_cases h : i / 64 = n
  · have hlow : ¬ i < 64 * n := by omega
    have hsub : i - 64 * n = i % 64 := by omega
    have hmod : i % 64 < 64 := by omega
    have hmod' : i % 64 < 256 := by omega
    simp [h, hi, hlow, hsub, hmod, hmod']
  · by_cases hlow : i < 64 * n
    · simp [h, hi, hlow]
    · have hhigh : ¬ i - 64 * n < 64 := by omega
      have hnone : w.getLsbD (i - 64 * n) = false := BitVec.getLsbD_of_ge w _ (by omega)
      simp [h, hi, hlow, hhigh, hnone]

/-- Settles O1: every form has a body that only writes one register; PMOV.FROM is given by its lanes, MOVI.HI by its halves. -/
theorem moveResults : Obligations.MoveResults := by
  intro o s h
  refine ⟨?nop, ?mov, ?movi, ?moviHi, ?sel, ?pmov, ?pmovTo, fun hc => ?selP0, ?pmovFrom⟩
  case nop => exact (runPlain_ready _ h : execNop o s = _)
  case mov => exact (runPlain_setS _ h : execMov o s = _)
  case movi => exact (runPlain_setS _ h : execMovi o s = _)
  case moviHi =>
    refine ⟨o.imm.setWidth 32 ++ (s.getS o.d).setWidth 32, ?_, ?_, (runPlain_setS _ h : execMoviHi o s = _)⟩
    · rw [BitVec.extractLsb'_append_eq_left, BitVec.setWidth_eq_extractLsb' (by decide)]
    · rw [BitVec.extractLsb'_append_eq_right, BitVec.setWidth_eq_extractLsb' (by decide)]
  case sel => exact (runPlain_setS _ h : execSel o s = _)
  case pmov => exact (runPlain_setP _ h : execPmov o s = _)
  case pmovTo => exact (runPlain_setS _ h : execPmovTo o s = _)
  case selP0 =>
    have hp0 : (s.getP o.c).getLsbD 0 = true := by simp [hc, State.getP]
    exact (runPlain_setS_of_eq h (if_pos hp0) : execSel o s = _)
  case pmovFrom =>
    exact ⟨setQuarter (s.getP o.d) (o.imm.toNat % 4) (s.getS o.a),
      fun i hi => getLsbD_setQuarter _ _ hi, (runPlain_setP _ h : execPmovFrom o s = _)⟩

/-! ## Words as numbers: sums, products, quotients -/

theorem add_eq_ofNat {w : Nat} (a b : BitVec w) : a + b = BitVec.ofNat w (a.toNat + b.toNat) := by
  simp [BitVec.ofNat_add]

theorem sub_eq_ofInt {w : Nat} (a b : BitVec w) : a - b = BitVec.ofInt w (a.toNat - b.toNat) := by
  rw [Int.sub_eq_add_neg, BitVec.ofInt_add, BitVec.ofInt_neg, BitVec.sub_eq_add_neg]
  simp

theorem mul_eq_ofInt {w : Nat} (a b : BitVec w) : a * b = BitVec.ofInt w (a.toInt * b.toInt) := by
  simp [BitVec.ofInt_mul]

/-- Bits 64 to 127 of a number, read off its low 128 bits. -/
theorem extractHigh_ofInt (z : Int) : (BitVec.ofInt 128 z).extractLsb' 64 64 = BitVec.ofInt 64 (z / 2 ^ 64) := by
  apply BitVec.eq_of_toNat_eq
  simp only [BitVec.extractLsb'_toNat, BitVec.toNat_ofInt, Nat.shiftRight_eq_div_pow]
  omega

/-- The high half of the signed product (R255). -/
theorem mulHigh_signed (a b : Word) :
    (a.signExtend 128 * b.signExtend 128).extractLsb' 64 64 = BitVec.ofInt 64 (a.toInt * b.toInt / 2 ^ 64) := by
  have hprod : a.signExtend 128 * b.signExtend 128 = BitVec.ofInt 128 (a.toInt * b.toInt) := by
    rw [mul_eq_ofInt, BitVec.toInt_signExtend_of_le (by decide), BitVec.toInt_signExtend_of_le (by decide)]
  rw [hprod, extractHigh_ofInt]

/-- The high half of the unsigned product (R255). -/
theorem mulHigh_unsigned (a b : Word) :
    (a.setWidth 128 * b.setWidth 128).extractLsb' 64 64 = BitVec.ofNat 64 (a.toNat * b.toNat / 2 ^ 64) := by
  have hprod : a.setWidth 128 * b.setWidth 128 = BitVec.ofInt 128 (a.toNat * b.toNat : Nat) := by
    rw [BitVec.ofInt_natCast, BitVec.ofNat_mul, BitVec.ofNat_toNat, BitVec.ofNat_toNat]
  rw [hprod, extractHigh_ofInt]
  exact BitVec.ofInt_natCast 64 _

/-- The quotient rounds toward zero (R255). -/
theorem sdiv_eq_ofInt {w : Nat} (a b : BitVec w) : a.sdiv b = BitVec.ofInt w (a.toInt.tdiv b.toInt) := by
  apply BitVec.eq_of_toInt_eq
  rw [BitVec.toInt_sdiv, BitVec.toInt_ofInt]

theorem srem_eq_ofInt {w : Nat} (a b : BitVec w) :
    a.srem b = BitVec.ofInt w (a.toInt - a.toInt.tdiv b.toInt * b.toInt) := by
  rw [Int.mul_comm, ← Int.tmod_def, ← BitVec.toInt_srem, BitVec.ofInt_toInt]

theorem udiv_eq_ofNat {w : Nat} (a b : BitVec w) : a.udiv b = BitVec.ofNat w (a.toNat / b.toNat) := by
  simp [← BitVec.toNat_udiv]

theorem umod_eq_ofNat {w : Nat} (a b : BitVec w) : a.umod b = BitVec.ofNat w (a.toNat % b.toNat) := by
  simp [← BitVec.toNat_umod]

theorem shiftLeft_eq_ofNat {w : Nat} (a : BitVec w) (n : Nat) : a <<< n = BitVec.ofNat w (a.toNat * 2 ^ n) := by
  apply BitVec.eq_of_toNat_eq
  simp [Nat.shiftLeft_eq]

/-- The address that LEA forms (R260). -/
theorem addScaled_eq_ofNat {w : Nat} (a b k : BitVec w) (n : Nat) :
    a + (b <<< n) + k = BitVec.ofNat w (a.toNat + b.toNat * 2 ^ n + k.toNat) := by
  rw [BitVec.ofNat_add, BitVec.ofNat_add, ← shiftLeft_eq_ofNat]
  simp

/-- Settles O2: the forms by their shape and the value of their operation; a division by the two cases of its divisor. -/
theorem arithmeticResults : Obligations.ArithmeticResults := by
  refine ⟨fun o s h => ?plain, fun o s h hb => ?quotients, fun o s h hb => ?zeroDivisor⟩
  case plain =>
    refine ⟨?add, ?addi, ?sub, ?mul, ?mulh, ?mulhu, ?and, ?andi, ?or, ?ori, ?xor, ?xori, ?lea⟩
    case add => exact (alu_of_eq h (add_eq_ofNat _ _) : execAdd o s = _)
    case addi => exact (aluImm_of_eq h (add_eq_ofNat _ _) : execAddi o s = _)
    case sub => exact (alu_of_eq h (sub_eq_ofInt _ _) : execSub o s = _)
    case mul => exact (alu_of_eq h (mul_eq_ofInt _ _) : execMul o s = _)
    case mulh => exact (alu_of_eq h (mulHigh_signed _ _) : execMulh o s = _)
    case mulhu => exact (alu_of_eq h (mulHigh_unsigned _ _) : execMulhu o s = _)
    case and | or | xor => exact alu_of_eq h rfl
    case andi | ori | xori => exact aluImm_of_eq h rfl
    case lea => exact (runPlain_setS_of_eq h (addScaled_eq_ofNat _ _ _ _) : execLea o s = _)
  case quotients =>
    exact ⟨divide_of_ne_zero h hb (sdiv_eq_ofInt _ _), divide_of_ne_zero h hb (udiv_eq_ofNat _ _),
      divide_of_ne_zero h hb (srem_eq_ofInt _ _), divide_of_ne_zero h hb (umod_eq_ofNat _ _)⟩
  case zeroDivisor =>
    exact ⟨divide_of_eq_zero h hb _, divide_of_eq_zero h hb _, divide_of_eq_zero h hb _, divide_of_eq_zero h hb _⟩

/-! ## Shifts, comparisons, lanes of a predicate -/

theorem ushiftRight_eq_ofNat {w : Nat} (a : BitVec w) (n : Nat) : a >>> n = BitVec.ofNat w (a.toNat / 2 ^ n) := by
  rw [← Nat.shiftRight_eq_div_pow, ← BitVec.toNat_ushiftRight, BitVec.ofNat_toNat, BitVec.setWidth_eq]

theorem sshiftRight_eq_ofInt {w : Nat} (a : BitVec w) (n : Nat) : a.sshiftRight n = BitVec.ofInt w (a.toInt / 2 ^ n) := by
  rw [BitVec.sshiftRight, Int.shiftRight_eq_div_pow]
  norm_cast

/-- A rotation carries bit i to bit i + r, around the end of the word (R256). -/
theorem getLsbD_rotateLeft_add_mod {w : Nat} (a : BitVec w) {r i : Nat} (hr : r < w) (hi : i < w) :
    (a.rotateLeft r).getLsbD ((i + r) % w) = a.getLsbD i := by
  rw [BitVec.getLsbD_rotateLeft_of_le hr]
  by_cases h : i + r < w
  · have hnot : ¬ i + r < r := by omega
    simp [Nat.mod_eq_of_lt h, hnot, h]
  · have hmod : (i + r) % w = i + r - w := by
      rw [Nat.mod_eq_sub_mod (by omega), Nat.mod_eq_of_lt (by omega)]
    have hlt : i + r - w < r := by omega
    have hidx : w - r + (i + r - w) = i := by omega
    simp [hmod, hlt, hidx]

theorem boolWord_decide (p : Prop) [Decidable p] : boolWord (decide p) = if p then 1 else 0 := by
  simp [boolWord]

theorem smin_eq_ofInt {w : Nat} (a b : BitVec w) : (if b.slt a then b else a) = BitVec.ofInt w (min a.toInt b.toInt) := by
  rw [min_comm, min_def_lt, apply_ite (BitVec.ofInt w)]
  simp [BitVec.slt_eq_decide]

theorem smax_eq_ofInt {w : Nat} (a b : BitVec w) : (if a.slt b then b else a) = BitVec.ofInt w (max a.toInt b.toInt) := by
  rw [max_def_lt, apply_ite (BitVec.ofInt w)]
  simp [BitVec.slt_eq_decide]

theorem umin_eq_ofNat {w : Nat} (a b : BitVec w) : (if b.ult a then b else a) = BitVec.ofNat w (min a.toNat b.toNat) := by
  rw [min_comm, min_def_lt, apply_ite (BitVec.ofNat w)]
  simp [BitVec.ult_eq_decide]

theorem umax_eq_ofNat {w : Nat} (a b : BitVec w) : (if a.ult b then b else a) = BitVec.ofNat w (max a.toNat b.toNat) := by
  rw [max_def_lt, apply_ite (BitVec.ofNat w)]
  simp [BitVec.ult_eq_decide]

theorem getLsbD_allLanes (c : Bool) {i : Nat} (hi : i < 256) : (allLanes c).getLsbD i = c := by
  cases c with
  | false => exact BitVec.getLsbD_zero
  | true => rw [allLanes, if_pos rfl, BitVec.getLsbD_allOnes, decide_eq_true hi]

/-- PLOG combines its operands lane by lane (R263). -/
theorem getLsbD_plogOp (q : Nat) (a b : PReg) {i : Nat} (hi : i < 256) :
    (plogOp q a b).getLsbD i = laneLogic q (a.getLsbD i) (b.getLsbD i) := by
  unfold plogOp laneLogic
  split <;> simp [hi]
  -- left is the last row, where the model negates an exclusive or and the table asks for equality
  cases a[i] <;> cases b[i] <;> rfl

/-- Settles O3: the forms by their shape and the value of their operation; ROL by its bits, CMPP and PLOG by their lanes. -/
theorem shiftAndCompareResults : Obligations.ShiftAndCompareResults := by
  refine ⟨fun o s h _ => ?shifts, fun o s h => ?compares⟩
  case shifts =>
    refine ⟨?shl, ?shli, ?shr, ?shri, ?sra, ?srai, ?rol⟩
    case shl => exact (alu_of_eq h (shiftLeft_eq_ofNat _ _) : execShl o s = _)
    case shli => exact (runPlain_setS_of_eq h (shiftLeft_eq_ofNat _ _) : execShli o s = _)
    case shr => exact (alu_of_eq h (ushiftRight_eq_ofNat _ _) : execShr o s = _)
    case shri => exact (runPlain_setS_of_eq h (ushiftRight_eq_ofNat _ _) : execShri o s = _)
    case sra => exact (alu_of_eq h (sshiftRight_eq_ofInt _ _) : execSra o s = _)
    case srai => exact (runPlain_setS_of_eq h (sshiftRight_eq_ofInt _ _) : execSrai o s = _)
    case rol =>
      exact ⟨(s.getS o.a).rotateLeft (((s.getS o.b).toNat + o.imm.toNat) % 64),
        fun i hi => getLsbD_rotateLeft_add_mod _ (Nat.mod_lt _ (by decide)) hi, (alu_of_eq h rfl : execRol o s = _)⟩
  case compares =>
    refine ⟨?slt, ?sltu, ?slti, ?min, ?max, ?minu, ?maxu, ?cmpp, ?plog⟩
    case slt => exact (alu_of_eq h (boolWord_decide _) : execSlt o s = _)
    case sltu => exact (alu_of_eq h (boolWord_decide _) : execSltu o s = _)
    case slti => exact (aluImm_of_eq h (boolWord_decide _) : execSlti o s = _)
    case min => exact (alu_of_eq h (smin_eq_ofInt _ _) : execMin o s = _)
    case max => exact (alu_of_eq h (smax_eq_ofInt _ _) : execMax o s = _)
    case minu => exact (alu_of_eq h (umin_eq_ofNat _ _) : execMinu o s = _)
    case maxu => exact (alu_of_eq h (umax_eq_ofNat _ _) : execMaxu o s = _)
    case cmpp => exact ⟨allLanes _, fun i hi => getLsbD_allLanes _ hi, (runPlain_setP _ h : execCmpp o s = _)⟩
    case plog => exact ⟨plogOp o.q.toNat _ _, fun i hi => getLsbD_plogOp _ _ _ hi, fun _ => (runPlain_setP _ h : execPlog o s = _)⟩

/-! ## Transfers of control -/

theorem low48_eq_ofNat (w : Word) : low48 w = BitVec.ofNat 64 (w.toNat % 2 ^ 48) := by
  have hmask : (0x0000FFFFFFFFFFFF : Word).toNat = 2 ^ 48 - 1 := by decide
  apply BitVec.eq_of_toNat_eq
  rw [low48, BitVec.toNat_and, hmask, Nat.and_two_pow_sub_one_eq_mod, BitVec.toNat_ofNat]
  omega

theorem aligned4_iff {w : Word} : aligned4 w = true ↔ w.toNat % 4 = 0 := by
  simp [aligned4]

section Transfers

variable {o : Ops} {s : State} {t : Word}

theorem finish_transfer_aligned (ht : t.toNat % 4 = 0) : finish o (transfer s t) = .next (s.goTo t) := by
  rw [transfer, if_pos (aligned4_iff.2 ht), finish]

/-- A misaligned target traps, and nothing else happens (R54, R265). -/
theorem finish_transfer_misaligned (ht : t.toNat % 4 ≠ 0) :
    finish o (transfer s t) = .next (s.trapA (trapAddr cAlign t) o.form.bytes) := by
  rw [transfer, if_neg (mt aligned4_iff.1 ht), finish]

/-- A branch: not taken, taken, or trapped at its target; the target is looked at only when it is taken (R265). -/
theorem branch_ready (cc : Nat) (h : Ready o s) (ht : t = pcTarget s o) :
    branch o cc s = .next (if intCond cc (s.getS o.a) (s.getS o.b) = false then s.goTo (s.nextPc o)
      else if t.toNat % 4 = 0 then s.goTo t else s.trapA (trapAddr cAlign t) o.form.bytes) := by
  rw [branch, runInstr_ready _ h, ← ht]
  by_cases hc : intCond cc (s.getS o.a) (s.getS o.b) = true
  · rw [if_pos hc, if_neg (by simp [hc])]
    by_cases ha : t.toNat % 4 = 0
    · rw [finish_transfer_aligned ha, if_pos ha]
    · rw [finish_transfer_misaligned ha, if_neg ha]
  · rw [if_neg hc, if_pos (by simpa using hc), finish]

/-- A jump whose body only transfers, to an aligned target. -/
theorem runInstr_transfer_aligned (h : Ready o s) {f : State → Word} (hf : f s = t) (ht : t.toNat % 4 = 0) :
    runInstr o (fun u => transfer u (f u)) s = .next (s.goTo t) := by
  rw [runInstr_ready _ h, hf, finish_transfer_aligned ht]

theorem runInstr_transfer_misaligned (h : Ready o s) {f : State → Word} (hf : f s = t) (ht : t.toNat % 4 ≠ 0) :
    runInstr o (fun u => transfer u (f u)) s = .next (s.trapA (trapAddr cAlign t) o.form.bytes) := by
  rw [runInstr_ready _ h, hf, finish_transfer_misaligned ht]

/-! ### Call and return: the return predictor is no register and no memory (R266) -/

@[simp] theorem getS_putPredictor (s : State) (l : List Word) (n : BitVec 6) : (s.putCtx { s.ctx with predictor := l }).getS n = s.getS n := by
  simp [State.getS, Ctx.getS]

@[simp] theorem getS_pushReturn (s : State) (w : Word) (n : BitVec 6) : (pushReturn s w).getS n = s.getS n :=
  getS_putPredictor s _ n
@[simp] theorem ctx_v_pushReturn (s : State) (w : Word) : (pushReturn s w).ctx.v = s.ctx.v := by simp [pushReturn]
@[simp] theorem ctx_p_pushReturn (s : State) (w : Word) : (pushReturn s w).ctx.p = s.ctx.p := by simp [pushReturn]
@[simp] theorem mem_pushReturn (s : State) (w : Word) : (pushReturn s w).mem = s.mem := rfl

theorem execCall_aligned (h : Ready o s) (hf : pcTarget s o = t) (ht : t.toNat % 4 = 0) :
    execCall o s = .next ((pushReturn (s.setS o.d (s.nextPc o)) (s.nextPc o)).goTo t) := by
  simp only [execCall, runInstr_ready _ h, hf, aligned4_iff.2 ht, if_true, finish]

/-- A call with a misaligned target writes no link (R265). -/
theorem execCall_misaligned (h : Ready o s) (hf : pcTarget s o = t) (ht : t.toNat % 4 ≠ 0) :
    execCall o s = .next (s.trapA (trapAddr cAlign t) o.form.bytes) := by
  simp only [execCall, runInstr_ready _ h, hf, if_neg (mt aligned4_iff.1 ht), finish]

/-- RET pops the predictor where it transfers (R266). -/
theorem execRet_aligned (h : Ready o s) (hf : low48 (s.getS o.a) = t) (ht : t.toNat % 4 = 0) :
    execRet o s = .next ((s.putCtx { s.ctx with predictor := s.ctx.predictor.tail }).goTo t) := by
  rw [execRet, runInstr_ready _ h, hf, finish_transfer_aligned ht, popReturn, if_pos (aligned4_iff.2 ht)]

theorem execRet_misaligned (h : Ready o s) (hf : low48 (s.getS o.a) = t) (ht : t.toNat % 4 ≠ 0) :
    execRet o s = .next (s.trapA (trapAddr cAlign t) o.form.bytes) := by
  rw [execRet, runInstr_ready _ h, hf, finish_transfer_misaligned ht, popReturn, if_neg (mt aligned4_iff.1 ht)]

end Transfers

/-- Settles O5: the branches by their condition and their target, the jumps, the call and the return by the alignment of theirs. -/
theorem controlTransferResults : Obligations.ControlTransferResults := by
  refine ⟨fun o s t h ht => ?branches, fun o s h => ?jumps⟩
  case branches =>
    have hpc : t = pcTarget s o := ht.trans (low48_eq_ofNat _).symm
    exact ⟨branch_ready 0 h hpc, branch_ready 1 h hpc, branch_ready 2 h hpc, branch_ready 3 h hpc, branch_ready 4 h hpc, branch_ready 5 h hpc⟩
  case jumps =>
    intro rel ind back
    have hrel : pcTarget s o = rel := low48_eq_ofNat _
    have hind : low48 (s.getS o.a + o.simm) = ind := low48_eq_ofNat _
    have hback : low48 (s.getS o.a) = back := low48_eq_ofNat _
    refine ⟨fun ha => ?jmp, fun ha => ?jr, fun ha => ?call, fun ha => ?ret, fun ha => ?relMisaligned, fun ha => ?jrMisaligned, fun ha => ?retMisaligned⟩
    case jmp => exact (runInstr_transfer_aligned h hrel ha : execJmp o s = _)
    case jr => exact (runInstr_transfer_aligned h hind ha : execJr o s = _)
    case call =>
      refine ⟨_, execCall_aligned h hrel ha, by simp, fun hd => ?link, fun n hn => ?others, by simp, by simp, by simp⟩
      case link => rw [State.getS_goTo, getS_pushReturn, State.getS_setS, if_pos ⟨rfl, hd⟩]
      case others => rw [State.getS_goTo, getS_pushReturn, State.getS_setS, if_neg (fun hc => hn hc.1)]
    case ret =>
      refine ⟨_, execRet_aligned h hback ha, by simp, fun n => ?registers, by simp, by simp, by simp⟩
      case registers => rw [State.getS_goTo, getS_putPredictor]
    case relMisaligned =>
      exact ⟨(runInstr_transfer_misaligned h hrel ha : execJmp o s = _), execCall_misaligned h hrel ha⟩
    case jrMisaligned => exact (runInstr_transfer_misaligned h hind ha : execJr o s = _)
    case retMisaligned => exact execRet_misaligned h hback ha

end Sys2Proof.Machine
end

section
/-! PROOFS. The grammar instructions that read: GPEEK, GFSTAT and the two forms of GSTATE (R278, R281, R285, R286). -/

namespace Sys2Proof.Machine

/-! ## GPEEK -/

theorem peekCode_of_eotc {x : Ctx} (he : x.eotc = true) (n : Nat) : peekCode x n = some 0x10 := by simp [peekCode, he]

section Peek

variable {o : Ops} {s : State}

/-- A form whose body ends by writing a scalar register. -/
theorem runInstr_setS_of_eq (h : Ready o s) {body : State → Eff} {w : Word} (hb : body s = .next (s.setS o.d w)) :
    runInstr o body s = .next ((s.setS o.d w).goTo (s.nextPc o)) := by
  rw [runInstr_ready _ h, hb, finish, State.nextPc_setS]

theorem execGpeek_noGroup (h : Ready o s) (hg : s.holdsGroup (s.target o) = false) :
    execGpeek o s = .next ((s.setS o.d 0x13).goTo (s.nextPc o)) :=
  runInstr_setS_of_eq h (by simp [hg])

theorem execGpeek_present (h : Ready o s) (hg : s.holdsGroup (s.target o) = true) {n : Nat}
    (hn : peekCode (s.ctxAt (s.target o)) o.imm.toNat = some n) :
    execGpeek o s = .next ((s.setS o.d (BitVec.ofNat 64 n)).goTo (s.nextPc o)) :=
  runInstr_setS_of_eq h (by simp [hg, Ops.uimm, hn])

/-- With .NB, or on another context than the executing one, GPEEK does not block (R280, R281). -/
theorem execGpeek_absent (h : Ready o s) (hg : s.holdsGroup (s.target o) = true)
    (hn : peekCode (s.ctxAt (s.target o)) o.imm.toNat = none) (hq : o.q ≠ 0 ∨ s.target o ≠ s.core.cur) :
    execGpeek o s = .next ((s.setS o.d 0x11).goTo (s.nextPc o)) := by
  have hnb : o.q = 0 → s.target o ≠ s.core.cur := fun hz => hq.resolve_left (not_not.2 hz)
  exact runInstr_setS_of_eq h (by simpa [hg, Ops.uimm, hn] using hnb)

end Peek

/-! ## GSTATE's word -/

theorem Ctx.stateCode_lt (x : Ctx) : x.stateCode < 8 := by
  unfold Ctx.stateCode
  split
  case h_2 => split <;> decide
  all_goals decide

/-- HWM: a PRE or DRN is queued (R285). -/
def Ctx.markQueued (x : Ctx) : Bool := x.queue.any (fun m => m = mPRE || m = mDRN)

/-- TRAPC: the cause while the context is TRAPPED (R285). -/
def Ctx.trappedCause (x : Ctx) : BitVec 8 := if x.st = .trapped then x.trapCause.setWidth 8 else 0

theorem Ctx.toNat_trappedCause (x : Ctx) : x.trappedCause.toNat = if x.st = .trapped then x.trapCause.toNat else 0 := by
  unfold Ctx.trappedCause
  split
  · exact BitVec.toNat_setWidth_of_le (by decide)
  · rfl

/-- GSTATE's word as the sum of its fields at their places. -/
theorem Ctx.stateWord_eq_sum (x : Ctx) : x.stateWord = BitVec.ofNat 64 (x.pos.toNat * 2 ^ 32 + x.stateCode * 2 ^ 29 + x.eotc.toNat * 2 ^ 28
    + x.stack.length * 2 ^ 21 + x.queue.length * 2 ^ 14 + x.ins.length * 2 ^ 9 + x.markQueued.toNat * 2 ^ 8 + x.trappedCause.toNat) := by
  have hbit : ∀ (b : Bool) (n : Nat), (if b then n else 0) = b.toNat * n := fun b n => by cases b <;> simp
  rw [Ctx.stateWord, Ctx.toNat_trappedCause, hbit, hbit]
  rfl

theorem toNat_extractLsb'_ofNat {w n i k : Nat} (h : i + k ≤ w) :
    ((BitVec.ofNat w n).extractLsb' i k).toNat = n / 2 ^ i % 2 ^ k := by
  rw [BitVec.extractLsb'_toNat, BitVec.toNat_ofNat, Nat.shiftRight_eq_div_pow]
  obtain ⟨m, rfl⟩ := Nat.exists_eq_add_of_le h
  rw [Nat.add_assoc, Nat.pow_add, Nat.mod_mul_right_div_self, Nat.pow_add, Nat.mod_mod_of_dvd _ (Nat.dvd_mul_right _ _)]

theorem getLsbD_ofNat_of_div_mod {w n i : Nat} {b : Bool} (hi : i < w) (h : n / 2 ^ i % 2 = b.toNat) :
    (BitVec.ofNat w n).getLsbD i = b := by
  rw [BitVec.getLsbD_ofNat, decide_eq_true hi, Bool.true_and, Nat.testBit_eq_decide_div_mod_eq, h]
  cases b <;> rfl

/-- The fields of GSTATE's word do not overlap while the stack, the queue and the buffer keep to their sizes (R285). -/
theorem Ctx.stateWord_fields (x : Ctx) (hstack : x.stack.length ≤ 64) (hqueue : x.queue.length ≤ 64) (hins : x.ins.length ≤ 16) :
    x.stateWord.extractLsb' 32 32 = x.pos ∧ (x.stateWord.extractLsb' 29 3).toNat = x.stateCode ∧ x.stateWord.getLsbD 28 = x.eotc ∧
    (x.stateWord.extractLsb' 21 7).toNat = x.stack.length ∧ (x.stateWord.extractLsb' 14 7).toNat = x.queue.length ∧
    (x.stateWord.extractLsb' 9 5).toNat = x.ins.length ∧ x.stateWord.getLsbD 8 = x.markQueued ∧
    x.stateWord.extractLsb' 0 8 = x.trappedCause := by
  have hpos : x.pos.toNat < 2 ^ 32 := x.pos.isLt
  have hcode : x.stateCode < 8 := x.stateCode_lt
  have heotc : x.eotc.toNat < 2 := x.eotc.toNat_lt
  have hmark : x.markQueued.toNat < 2 := x.markQueued.toNat_lt
  have hcause : x.trappedCause.toNat < 2 ^ 8 := x.trappedCause.isLt
  rw [Ctx.stateWord_eq_sum]
  refine ⟨?pos, ?state, ?eotc, ?depth, ?qocc, ?ibuf, ?hwm, ?trapc⟩
  case state | depth | qocc | ibuf =>
    rw [toNat_extractLsb'_ofNat (by decide)]
    omega
  case eotc | hwm =>
    apply getLsbD_ofNat_of_div_mod (by decide)
    omega
  case pos | trapc =>
    apply BitVec.eq_of_toNat_eq
    rw [toNat_extractLsb'_ofNat (by decide)]
    omega

/-- Settles O10: GPEEK by the group and by what Peek finds; GFSTAT and the GSTATE forms only write a register, GSTATE's word given by its fields. -/
theorem grammarReadResults : Obligations.GrammarReadResults := by
  intro o s h u x put
  refine ⟨fun hg => ?noGroup, fun hg he => ?ended, fun n hg hn => ?present, fun hg hn hq => ?absent, ?gfstat, fun hu hstack hqueue hins => ?gstate,
    fun hu => ?gstateK, fun hu => ?gstateStk⟩
  case noGroup => exact execGpeek_noGroup h hg
  case ended => exact execGpeek_present h hg (peekCode_of_eotc he _)
  case present => exact execGpeek_present h hg hn
  case absent => exact execGpeek_absent h hg hn hq
  case gfstat => exact (runPlain_setS _ h : execGfstat o s = _)
  case gstate => exact ⟨x.stateWord, (runPlain_setS_of_eq h (if_neg hu) : execGstate o s = _), x.stateWord_fields hstack hqueue hins⟩
  case gstateK =>
    exact ⟨(runPlain_setS_of_eq h (if_pos hu) : execGstate o s = _), (runPlain_setS_of_eq h (if_pos hu) : execGstateStk o s = _)⟩
  case gstateStk => exact (runPlain_setS_of_eq h (if_neg hu) : execGstateStk o s = _)

end Sys2Proof.Machine
end

section
/-! PROOFS. The decoder reads back what the encoder writes, and words of the manual's tables (R47 to R53, R66 to R71). -/

namespace Sys2Proof

open Laws

/-- For every instruction the table of constructors gives back the one whose opcode and fixed fields it is asked for (R70, R71). -/
theorem build_statement (i : Instr) : Built.Statement i := by
  cases i with
  | nop o => exact Built.nop o | mov o => exact Built.mov o | movi o => exact Built.movi o | moviHi o => exact Built.moviHi o | add o => exact Built.add o
  | sub o => exact Built.sub o | addi o => exact Built.addi o | mul o => exact Built.mul o | mulh o => exact Built.mulh o | mulhu o => exact Built.mulhu o
  | div o => exact Built.div o | divu o => exact Built.divu o | rem o => exact Built.rem o | remu o => exact Built.remu o | and o => exact Built.and o
  | or o => exact Built.or o | xor o => exact Built.xor o | andi o => exact Built.andi o | ori o => exact Built.ori o | xori o => exact Built.xori o
  | shl o => exact Built.shl o | shr o => exact Built.shr o | sra o => exact Built.sra o | shli o => exact Built.shli o | shri o => exact Built.shri o
  | srai o => exact Built.srai o | rol o => exact Built.rol o | slt o => exact Built.slt o | sltu o => exact Built.sltu o | slti o => exact Built.slti o
  | min o => exact Built.min o | max o => exact Built.max o | minu o => exact Built.minu o | maxu o => exact Built.maxu o | clz o => exact Built.clz o
  | ctz o => exact Built.ctz o | popc o => exact Built.popc o | bswap o => exact Built.bswap o | ext o => exact Built.ext o | ins o => exact Built.ins o
  | sext o => exact Built.sext o | lea o => exact Built.lea o | cmpp o => exact Built.cmpp o | beq o => exact Built.beq o | bne o => exact Built.bne o
  | blt o => exact Built.blt o | bge o => exact Built.bge o | bltu o => exact Built.bltu o | bgeu o => exact Built.bgeu o | jmp o => exact Built.jmp o
  | jr o => exact Built.jr o | call o => exact Built.call o | ret o => exact Built.ret o | sel o => exact Built.sel o | plog o => exact Built.plog o
  | pmov o => exact Built.pmov o | pmovFrom o => exact Built.pmovFrom o | pmovTo o => exact Built.pmovTo o | mfc o => exact Built.mfc o | mtc o => exact Built.mtc o
  | budget o => exact Built.budget o | budgetSet o => exact Built.budgetSet o | aend o => exact Built.aend o | fadd o => exact Built.fadd o
  | fmul o => exact Built.fmul o | fdiv o => exact Built.fdiv o | fcvtF2i o => exact Built.fcvtF2i o | fcvtI2f o => exact Built.fcvtI2f o
  | fcvtU2f o => exact Built.fcvtU2f o | fcvtF2bf o => exact Built.fcvtF2bf o | fcvtBf2f o => exact Built.fcvtBf2f o | fcvtF2h o => exact Built.fcvtF2h o
  | fcvtH2f o => exact Built.fcvtH2f o | fcvtF2e4 o => exact Built.fcvtF2e4 o | fcvtE42f o => exact Built.fcvtE42f o | fcmp o => exact Built.fcmp o
  | gpeek o => exact Built.gpeek o | gskip o => exact Built.gskip o | gpush o => exact Built.gpush o | gpop o => exact Built.gpop o
  | gfstat o => exact Built.gfstat o | gresume o => exact Built.gresume o | gresumeRecover o => exact Built.gresumeRecover o | markif o => exact Built.markif o
  | markemit o => exact Built.markemit o | markemitR o => exact Built.markemitR o | sigdec o => exact Built.sigdec o | sigwait o => exact Built.sigwait o
  | sigwaitPoll o => exact Built.sigwaitPoll o | sigset o => exact Built.sigset o | ligcfgTerm o => exact Built.ligcfgTerm o
  | ligcfgSrc o => exact Built.ligcfgSrc o | ligcfgTread o => exact Built.ligcfgTread o | ligcntRd o => exact Built.ligcntRd o
  | ligcntSet o => exact Built.ligcntSet o | ligcntSub o => exact Built.ligcntSub o | ligcntClrv o => exact Built.ligcntClrv o | ligfire o => exact Built.ligfire o
  | gstate o => exact Built.gstate o | gstateStk o => exact Built.gstateStk o | evwait o => exact Built.evwait o | ld o => exact Built.ld o
  | st o => exact Built.st o | ldx o => exact Built.ldx o | stx o => exact Built.stx o | ldv o => exact Built.ldv o | stv o => exact Built.stv o
  | ldg o => exact Built.ldg o | sct o => exact Built.sct o | spld o => exact Built.spld o | spst o => exact Built.spst o | spldv o => exact Built.spldv o
  | spstv o => exact Built.spstv o | aadd o => exact Built.aadd o | aand o => exact Built.aand o | aor o => exact Built.aor o | axor o => exact Built.axor o
  | amin o => exact Built.amin o | amax o => exact Built.amax o | aminu o => exact Built.aminu o | amaxu o => exact Built.amaxu o | aswp o => exact Built.aswp o
  | acas o => exact Built.acas o | afadd o => exact Built.afadd o | fence o => exact Built.fence o | fenceAcq o => exact Built.fenceAcq o
  | fenceRel o => exact Built.fenceRel o | ldacq o => exact Built.ldacq o | strel o => exact Built.strel o | pref o => exact Built.pref o
  | cwb o => exact Built.cwb o | cinv o => exact Built.cinv o | cinvI o => exact Built.cinvI o | ldnt o => exact Built.ldnt o | stnt o => exact Built.stnt o
  | tidset o => exact Built.tidset o | tidget o => exact Built.tidget o | tidmodBase o => exact Built.tidmodBase o | tidmodSbase o => exact Built.tidmodSbase o
  | tidmodSize o => exact Built.tidmodSize o | tidmodStride o => exact Built.tidmodStride o | tidmodValid o => exact Built.tidmodValid o
  | tidmodAddbase o => exact Built.tidmodAddbase o | tidchk o => exact Built.tidchk o | pbind o => exact Built.pbind o | punbind o => exact Built.punbind o
  | pseek o => exact Built.pseek o | pstat o => exact Built.pstat o | pwin o => exact Built.pwin o | pxform o => exact Built.pxform o | cpy o => exact Built.cpy o
  | cpys o => exact Built.cpys o | cpyt o => exact Built.cpyt o | cpyq o => exact Built.cpyq o | cpyr o => exact Built.cpyr o | cpyw o => exact Built.cpyw o
  | barinit o => exact Built.barinit o | bararm o => exact Built.bararm o | barwait o => exact Built.barwait o | bartest o => exact Built.bartest o
  | bararr o => exact Built.bararr o | sptlook o => exact Built.sptlook o | sptins o => exact Built.sptins o | sptevict o => exact Built.sptevict o
  | sptread o => exact Built.sptread o | feset o => exact Built.feset o | feclr o => exact Built.feclr o | fetest o => exact Built.fetest o
  | pflush o => exact Built.pflush o | circ o => exact Built.circ o | mxmma o => exact Built.mxmma o | mxzero o => exact Built.mxzero o
  | mxldacc o => exact Built.mxldacc o | mxstacc o => exact Built.mxstacc o | mxwload o => exact Built.mxwload o | mxwdrop o => exact Built.mxwdrop o
  | mxwdropAll o => exact Built.mxwdropAll o | mxscale o => exact Built.mxscale o | mxfmt o => exact Built.mxfmt o | mxchainOff o => exact Built.mxchainOff o
  | mxchainScale o => exact Built.mxchainScale o | mxchainBias o => exact Built.mxchainBias o | mxchainResid o => exact Built.mxchainResid o
  | mxchainAct o => exact Built.mxchainAct o | mxchainClamp o => exact Built.mxchainClamp o | mxchainQnt o => exact Built.mxchainQnt o
  | mxskipOff o => exact Built.mxskipOff o | mxskipOn o => exact Built.mxskipOn o | mxskipRd o => exact Built.mxskipRd o | mxwait o => exact Built.mxwait o
  | mxwaitAll o => exact Built.mxwaitAll o | mxstat o => exact Built.mxstat o | mxstatSlot o => exact Built.mxstatSlot o
  | mxstatZmask o => exact Built.mxstatZmask o | mxstatSkipcnt o => exact Built.mxstatSkipcnt o | vadd o => exact Built.vadd o | vsub o => exact Built.vsub o
  | vmul o => exact Built.vmul o | vfma o => exact Built.vfma o | vfms o => exact Built.vfms o | vdiv o => exact Built.vdiv o | vsqrt o => exact Built.vsqrt o
  | vrsq o => exact Built.vrsq o | vrcp o => exact Built.vrcp o | vmin o => exact Built.vmin o | vmax o => exact Built.vmax o | vabs o => exact Built.vabs o
  | vneg o => exact Built.vneg o | vfn o => exact Built.vfn o | vscaleb o => exact Built.vscaleb o | vround o => exact Built.vround o
  | vclass o => exact Built.vclass o | vcvtF2i o => exact Built.vcvtF2i o | vcvtI2f o => exact Built.vcvtI2f o | vcvtUi2f o => exact Built.vcvtUi2f o
  | vcvtF2bf o => exact Built.vcvtF2bf o | vcvtBf2f o => exact Built.vcvtBf2f o | vcvtF2h o => exact Built.vcvtF2h o | vcvtH2f o => exact Built.vcvtH2f o
  | vcvtF2e4 o => exact Built.vcvtF2e4 o | vcvtE42f o => exact Built.vcvtE42f o | vcvtF2e5 o => exact Built.vcvtF2e5 o | vcvtE52f o => exact Built.vcvtE52f o
  | vcvtF2i8 o => exact Built.vcvtF2i8 o | vcvtI82f o => exact Built.vcvtI82f o | vqntE4m3 o => exact Built.vqntE4m3 o | vqntBfp o => exact Built.vqntBfp o
  | vdqnt o => exact Built.vdqnt o | vcmp o => exact Built.vcmp o | vsel o => exact Built.vsel o | viadd o => exact Built.viadd o | visub o => exact Built.visub o
  | vimul o => exact Built.vimul o | vimad o => exact Built.vimad o | vand o => exact Built.vand o | vor o => exact Built.vor o | vxor o => exact Built.vxor o
  | vshl o => exact Built.vshl o | vshr o => exact Built.vshr o | vsra o => exact Built.vsra o | vclz o => exact Built.vclz o | vpopc o => exact Built.vpopc o
  | vred o => exact Built.vred o | vscan o => exact Built.vscan o | vbcast o => exact Built.vbcast o | vbcastLane o => exact Built.vbcastLane o
  | vextr o => exact Built.vextr o | vins o => exact Built.vins o | vperm o => exact Built.vperm o | vrot o => exact Built.vrot o | viota o => exact Built.viota o
  | vsort o => exact Built.vsort o | vtopk o => exact Built.vtopk o | vgate o => exact Built.vgate o | vgateRenorm o => exact Built.vgateRenorm o
  | vhist o => exact Built.vhist o | vprng o => exact Built.vprng o | vprd o => exact Built.vprd o | vpwr o => exact Built.vpwr o | vpcnt o => exact Built.vpcnt o
  | vplogNz o => exact Built.vplogNz o | vplogBit o => exact Built.vplogBit o | vplogP2v o => exact Built.vplogP2v o | vmov o => exact Built.vmov o
  | mgisect o => exact Built.mgisect o | mgunion o => exact Built.mgunion o | mgdiff o => exact Built.mgdiff o | mgmerge o => exact Built.mgmerge o
  | mgsteer o => exact Built.mgsteer o | mgseq o => exact Built.mgseq o | mgstat o => exact Built.mgstat o | mgstatPart o => exact Built.mgstatPart o
  | mgstatLeaf o => exact Built.mgstatLeaf o | mgcfgPivot o => exact Built.mgcfgPivot o | mgcfgPread o => exact Built.mgcfgPread o
  | mgcfgMark o => exact Built.mgcfgMark o | screcBegin o => exact Built.screcBegin o | screcEnd o => exact Built.screcEnd o | scplay o => exact Built.scplay o
  | scguard o => exact Built.scguard o | scpatch o => exact Built.scpatch o | scinv o => exact Built.scinv o | scstat o => exact Built.scstat o
  | trap o => exact Built.trap o | eret o => exact Built.eret o | eretSkip o => exact Built.eretSkip o | eretKill o => exact Built.eretKill o
  | tlbinvPage o => exact Built.tlbinvPage o | tlbinvAsid o => exact Built.tlbinvAsid o | tlbinvAll o => exact Built.tlbinvAll o
  | asidset o => exact Built.asidset o | ctxsave o => exact Built.ctxsave o | ctxload o => exact Built.ctxload o | resume o => exact Built.resume o
  | drain o => exact Built.drain o | wfi o => exact Built.wfi o | brk o => exact Built.brk o | memctlTag o => exact Built.memctlTag o
  | memctlFmr o => exact Built.memctlFmr o | memctlRd o => exact Built.memctlRd o | memctlWr o => exact Built.memctlWr o | balloonAdd o => exact Built.balloonAdd o
  | balloonRem o => exact Built.balloonRem o | balloonPri o => exact Built.balloonPri o | qpost o => exact Built.qpost o | pinit o => exact Built.pinit o
  | irqCore o => exact Built.irqCore o | irqHost o => exact Built.irqHost o | walk o => exact Built.walk o
  | _ => rintro _ _ ⟨⟩

/-- Opcodes beyond the map have no fields (R70). -/
theorem lt_of_fieldForm {k : Bool} {op q m : Nat} {f : FieldForm} (h : fieldForm k op q m = some f) : op < 256 := by
  unfold fieldForm at h
  by_contra hop
  have hk : op / 16 = op / 16 - 16 + 16 := by omega
  rw [hk] at h
  cases h

/-- The constructors of the Scroll opcodes have M 0 or 1 (R71). -/
theorem unassignedSub_of_build {op q m : Nat} {o : Ops} {i : Instr} (h : build op q m o = some i) : unassignedSub op m = false := by
  by_contra hu
  simp only [unassignedSub, Bool.not_eq_false, Bool.and_eq_true, Bool.or_eq_true, decide_eq_true_eq] at hu
  obtain ⟨hop, hm⟩ := hu
  have h0 : m ≠ 0 := by omega
  have h1 : m ≠ 1 := by omega
  rcases hop with (rfl | rfl) | rfl <;> simp [build, buildE, h0, h1] at h

/-- The parts of well-formedness, for an instruction of the map. -/
theorem Instr.wellFormed_parts {i : Instr} {op : Nat} {o : Ops} (hop : i.opcode? = some op) (ho : i.ops? = some o) (h : i.wellFormed = true) :
    ∃ f, fieldForm true op o.q.toNat o.m.toNat = some f ∧ fieldBreach f op o = none ∧ i.fixes.admits o.q.toNat o.m.toNat = true ∧ o.fits = true := by
  simp only [Instr.wellFormed, hop, ho] at h
  split at h
  case h_1 f hf => exact ⟨f, hf, by simpa [and_assoc] using h⟩
  case h_2 => cases h

/-- The fields of a well-formed instruction decode to it. -/
theorem decodeFields_of_wellFormed {i : Instr} {op : Nat} {o : Ops} (hop : i.opcode? = some op) (ho : i.ops? = some o) (h : i.wellFormed = true) :
    decodeFields true op o = .ok i := by
  obtain ⟨f, hf, hbreach, hfix, -⟩ := Instr.wellFormed_parts hop ho h
  have hb : build op o.q.toNat o.m.toNat o = some i := build_statement i op o hop ho hfix
  simp [decodeFields, unassignedSub_of_build hb, hf, hbreach, hb]

/-- Bytes whose first selects a form and whose head is a stored word decode by that word's fields. -/
theorem decodeAt_append {k : Bool} {op : Nat} {o : Ops} {i : Instr} (hop : op < 256) (hf : o.fits = true) (hd : decodeFields k op o = .ok i) (rest : List Byte) :
    decodeAt k (leBytes o.form.bytes (wordOf op o) ++ rest) = .ok (i, rest) := by
  have hlen : (leBytes o.form.bytes (wordOf op o)).length = o.form.bytes := leBytes_length _ _
  have hnum : leNat (leBytes o.form.bytes (wordOf op o)) = wordOf op o := by
    rw [leNat_leBytes, Nat.mod_eq_of_lt (wordOf_lt op o)]
  obtain ⟨n, hn⟩ : ∃ n, o.form.bytes = n + 1 := by cases o.form <;> exact ⟨_, rfl⟩
  have hcons : leBytes o.form.bytes (wordOf op o) = BitVec.ofNat 8 (wordOf op o) :: leBytes n (wordOf op o / 256) := by rw [hn, leBytes]
  generalize hbs : leBytes o.form.bytes (wordOf op o) = bs at *
  subst hcons
  simp only [List.cons_append, decodeAt, formOf_wordOf]
  rw [← List.cons_append, List.take_left' hlen, List.drop_left' hlen, hnum, expand_wordOf op o hop hf, hd, if_neg]
  rw [List.length_append, hlen]
  omega

/-- Settles O53: the stored word gives back the opcode and the fields, and the table of constructors gives back the instruction. -/
theorem decodeEncodeRoundTrip : Obligations.DecodeEncodeRoundTrip := by
  intro i bs rest h henc
  unfold encode at henc
  split at henc
  case h_1 op o hop ho =>
    cases henc
    obtain ⟨f, hf, -, -, hfits⟩ := Instr.wellFormed_parts hop ho h
    exact decodeAt_append (lt_of_fieldForm hf) hfits (decodeFields_of_wellFormed hop ho h) rest
  case h_2 => cases henc

/-- Settles O54: the decoder evaluated on each word. -/
theorem decodeWords : Obligations.DecodeWords := by
  unfold Obligations.DecodeWords
  decide

end Sys2Proof
end

section
/-! PROOFS. Bytes of numbers, and counts of bits: what the list functions of the model read at each place (R5, R258, R259). -/

namespace Sys2Proof

/-! ## Little-endian bytes -/

/-- Byte k of a number. -/
theorem leBytes_getElem {n x k : Nat} (h : k < (leBytes n x).length) : (leBytes n x)[k] = BitVec.ofNat 8 (x / 2 ^ (8 * k)) := by
  induction n generalizing x k with
  | zero => exact absurd h (Nat.not_lt_zero k)
  | succ n ih =>
    cases k with
    | zero => simp [leBytes]
    | succ k =>
      have hpow : 2 ^ (8 * (k + 1)) = 256 * 2 ^ (8 * k) := by rw [Nat.mul_add, Nat.pow_add, Nat.mul_comm]
      simp only [leBytes, List.getElem_cons_succ]
      rw [ih, Nat.div_div_eq_div_mul, hpow]

theorem leBytes_getElem? {n x k : Nat} (h : k < n) : (leBytes n x)[k]? = some (BitVec.ofNat 8 (x / 2 ^ (8 * k))) := by
  rw [List.getElem?_eq_getElem (by rwa [leBytes_length]), leBytes_getElem]

theorem leBytes_getD {n x k : Nat} (h : k < n) (d : Byte) : (leBytes n x).getD k d = BitVec.ofNat 8 (x / 2 ^ (8 * k)) := by
  rw [List.getD_eq_getElem?_getD, leBytes_getElem? h, Option.getD_some]

/-- Bit i of the number of some bytes is bit i mod 8 of byte i div 8. -/
theorem testBit_leNat (bs : List Byte) (i : Nat) : (leNat bs).testBit i = (bs.getD (i / 8) 0).getLsbD (i % 8) := by
  induction bs generalizing i with
  | nil => simp [leNat]
  | cons b t ih =>
    rw [leNat, Nat.add_comm, show (256 : Nat) = 2 ^ 8 from rfl, Nat.testBit_two_pow_mul_add _ b.isLt]
    by_cases h : i < 8
    · have hdiv : i / 8 = 0 := by omega
      have hmod : i % 8 = i := by omega
      simp [h, hdiv, hmod, BitVec.getLsbD]
    · have hdiv : i / 8 = (i - 8) / 8 + 1 := by omega
      have hmod : i % 8 = (i - 8) % 8 := by omega
      rw [if_neg h, ih, hdiv, hmod, List.getD_cons_succ]

theorem leNat_lt (bs : List Byte) : leNat bs < 2 ^ (8 * bs.length) := by
  induction bs with
  | nil => simp [leNat]
  | cons b t ih =>
    have hb := b.isLt
    rw [leNat, List.length_cons, Nat.mul_add, Nat.pow_add]
    omega

/-! ## Counts -/

/-- A fold that adds one where a test holds counts the elements that pass. -/
theorem foldl_count {α : Type} (p : α → Bool) (l : List α) (n : Nat) :
    l.foldl (fun n x => if p x then n + 1 else n) n = n + l.countP p := by
  induction l generalizing n with
  | nil => rfl
  | cons x t ih =>
    rw [List.foldl_cons, ih, List.countP_cons]
    split <;> omega

namespace Machine

theorem ones_eq_countP (w : Word) : ones w = (List.range 64).countP (fun i => w.getLsbD i) := by
  rw [ones, foldl_count, Nat.zero_add]

theorem leadingZeros_le (w : Word) : leadingZeros w ≤ 64 := by
  unfold leadingZeros
  split <;> omega

theorem log2_toNat_lt {w : Nat} (a : BitVec w) (h : a ≠ 0) : Nat.log2 a.toNat < w := by
  have h0 : a.toNat ≠ 0 := fun hz => h (BitVec.eq_of_toNat_eq hz)
  exact (Nat.log2_lt h0).2 a.isLt

/-- Above the leading one every bit is 0. -/
theorem getLsbD_of_leadingZeros {w : Word} {i : Nat} (h : 64 - leadingZeros w ≤ i) : w.getLsbD i = false := by
  unfold leadingZeros at h
  split at h
  case isTrue hz => simp [hz]
  case isFalse hz =>
    have hlog := log2_toNat_lt w hz
    exact Nat.testBit_lt_two_pow (lt_of_lt_of_le Nat.lt_log2_self (Nat.pow_le_pow_right (by decide) (by omega)))

theorem getLsbD_leadingOne {w : Word} (h : leadingZeros w < 64) : w.getLsbD (63 - leadingZeros w) = true := by
  unfold leadingZeros at h ⊢
  split at h
  case isTrue => omega
  case isFalse hz =>
    have hlog := log2_toNat_lt w hz
    have h0 : w.toNat ≠ 0 := fun h0 => hz (BitVec.eq_of_toNat_eq h0)
    have hpos : 63 - (63 - Nat.log2 w.toNat) = Nat.log2 w.toNat := by omega
    rw [if_neg hz, hpos]
    exact Nat.testBit_log2 h0

theorem trailingZeros_cases (w : Word) :
    (trailingZeros w = 64 ∧ ∀ i, i < 64 → w.getLsbD i = false) ∨
      (trailingZeros w < 64 ∧ w.getLsbD (trailingZeros w) = true ∧ ∀ i, i < trailingZeros w → w.getLsbD i = false) := by
  unfold trailingZeros
  cases hf : (List.range 64).find? (fun i => w.getLsbD i) with
  | none => exact .inl ⟨rfl, fun i hi => by simpa using List.find?_eq_none.1 hf i (List.mem_range.2 hi)⟩
  | some n =>
    obtain ⟨hn, hmem, hlow⟩ := List.find?_range_eq_some.1 hf
    exact .inr ⟨List.mem_range.1 hmem, hn, fun i hi => by simpa using hlow i hi⟩

end Machine
end Sys2Proof
end

section
/-! PROOFS. The action unit: bit fields, control registers, the budget, and the scalar floating forms (R258, R259, R268, R270 to R275). -/

namespace Sys2Proof.Machine

/-! ## Byte order and bit fields -/

/-- Reversing the low m bytes carries bit i to the mirrored byte. -/
theorem testBit_reverseBytes {x m i : Nat} (hi : i < 8 * m) :
    (leNat (leBytes m x).reverse).testBit i = x.testBit (8 * m - 8 * (i / 8 + 1) + i % 8) := by
  have hlen : (leBytes m x).length = m := leBytes_length m x
  have hk : m - 1 - i / 8 < m := by omega
  have hpos : 8 * m - 8 * (i / 8 + 1) + i % 8 = i % 8 + 8 * (m - 1 - i / 8) := by omega
  have hmod : i % 8 < 8 := Nat.mod_lt _ (by decide)
  rw [testBit_leNat, List.getD_eq_getElem?_getD, List.getElem?_reverse (by rw [hlen]; omega), hlen, leBytes_getElem? hk, Option.getD_some,
    BitVec.getLsbD_ofNat, decide_eq_true hmod, Bool.true_and, Nat.testBit_div_two_pow, hpos]

theorem testBit_reverseBytes_ge {x m i : Nat} (hi : 8 * m ≤ i) : (leNat (leBytes m x).reverse).testBit i = false := by
  refine Nat.testBit_lt_two_pow (lt_of_lt_of_le (leNat_lt _) (Nat.pow_le_pow_right (by decide) ?_))
  rwa [List.length_reverse, leBytes_length]

/-- BSWAP by its bits (R258). -/
theorem getLsbD_reverseBytes (a : Word) {m i : Nat} (hi : i < 64) :
    (BitVec.ofNat 64 (leNat (leBytes m a.toNat).reverse)).getLsbD i = if i < 8 * m then a.getLsbD (8 * m - 8 * (i / 8 + 1) + i % 8) else false := by
  rw [BitVec.getLsbD_ofNat, decide_eq_true hi, Bool.true_and]
  split
  case isTrue h => exact testBit_reverseBytes h
  case isFalse h => exact testBit_reverseBytes_ge (by omega)

/-- EXT by its bits (R259). -/
theorem getLsbD_extractField (w : Word) (pos : Nat) {len i : Nat} (hlen : 0 < len) (signed : Bool) (hi : i < 64) :
    (extractField w pos len signed).getLsbD i = if i < len then w.getLsbD (pos + i) else signed && w.getLsbD (pos + len - 1) := by
  have hbit : ∀ j, j < len → (BitVec.ofNat len (w.toNat / 2 ^ pos)).getLsbD j = w.getLsbD (pos + j) := by
    intro j hj
    rw [BitVec.getLsbD_ofNat, decide_eq_true hj, Bool.true_and, Nat.testBit_div_two_pow, Nat.add_comm]
    rfl
  have hmsb : (BitVec.ofNat len (w.toNat / 2 ^ pos)).msb = w.getLsbD (pos + len - 1) := by
    rw [BitVec.msb_eq_getLsbD_last, hbit _ (by omega)]
    congr 1
    omega
  cases signed with
  | true =>
    simp only [extractField, if_true, BitVec.getLsbD_signExtend, hi, decide_true, Bool.true_and, hmsb]
    split
    case isTrue h => exact hbit i h
    case isFalse => rfl
  | false =>
    simp only [extractField, Bool.false_eq_true, if_false, BitVec.getLsbD_setWidth, hi, decide_true, Bool.true_and, Bool.false_and]
    split
    case isTrue h => exact hbit i h
    case isFalse h => exact BitVec.getLsbD_of_ge _ _ (by omega)

/-- A run of len ones from bit pos on. -/
theorem testBit_ones_mul (len pos i : Nat) : ((2 ^ len - 1) * 2 ^ pos).testBit i = decide (pos ≤ i ∧ i < pos + len) := by
  rw [Nat.testBit_mul_two_pow, Nat.testBit_two_pow_sub_one, ← Bool.decide_and]
  exact decide_eq_decide.2 (by omega)

/-- INS by its bits (R259). -/
theorem getLsbD_insertField (d a : Word) {pos len i : Nat} (hi : i < 64) :
    (insertField d a pos len).getLsbD i = if pos ≤ i ∧ i < pos + len then a.getLsbD (i - pos) else d.getLsbD i := by
  simp only [insertField, BitVec.getLsbD_or, BitVec.getLsbD_and, BitVec.getLsbD_not, BitVec.getLsbD_shiftLeft, BitVec.getLsbD_ofNat, hi,
    decide_true, Bool.true_and, testBit_ones_mul]
  by_cases h : pos ≤ i ∧ i < pos + len
  · have hlow : ¬ i < pos := by omega
    simp [h, hlow]
  · simp [h]

/-- Settles O4: the forms by their shape; the counts by what lies around the bit they stop at, BSWAP, EXT and INS by their bits. -/
theorem bitFieldResults : Obligations.BitFieldResults := by
  intro o s h a pos len put
  refine ⟨?clz, ?ctz, ?popc, fun hq => ?bswap, ?sext, fun _ => ?ext, fun _ => ?ins⟩
  case clz =>
    exact ⟨leadingZeros a, leadingZeros_le a, fun i hi _ => getLsbD_of_leadingZeros hi, getLsbD_leadingOne, (runPlain_setS _ h : execClz o s = _)⟩
  case ctz =>
    refine ⟨trailingZeros a, ?_, ?_, ?_, (runPlain_setS _ h : execCtz o s = _)⟩ <;>
      obtain ⟨hn, hlow⟩ | ⟨hn, hone, hlow⟩ := trailingZeros_cases a
    · omega
    · omega
    · exact fun i hi => hlow i (by omega)
    · exact hlow
    · exact fun hlt => absurd hn (by omega)
    · exact fun _ => hone
  case popc => exact (runPlain_setS_of_eq h (congrArg _ (ones_eq_countP _)) : execPopc o s = _)
  case bswap =>
    refine ⟨BitVec.ofNat 64 (leNat (leBytes (8 / 2 ^ o.q.toNat) a.toNat).reverse), fun i hi => ?_, (runPlain_setS _ h : execBswap o s = _)⟩
    have hm : 64 / 2 ^ o.q.toNat = 8 * (8 / 2 ^ o.q.toNat) := by
      generalize o.q.toNat = q at hq
      interval_cases q <;> rfl
    rw [hm]
    exact getLsbD_reverseBytes a hi
  case sext => exact (runPlain_setS _ h : execSext o s = _)
  case ext => exact ⟨_, fun i hi => getLsbD_extractField a pos (Nat.succ_pos _) _ hi, (runPlain_setS _ h : execExt o s = _)⟩
  case ins => exact ⟨_, fun i hi => getLsbD_insertField _ a hi, (runPlain_setS _ h : execIns o s = _)⟩

/-! ## Control registers -/

/-- MFC or MTC of a K-only register at U-level: PRIV with SUB 1, before the budget and the guard (R62, R68). -/
theorem runControl_priv {o : Ops} {s : State} (f : State → State) (hh : s.core.halted = false) (hu : s.core.cur ≠ .k) (hn : 0x800 ≤ o.imm.toNat) :
    runControl o f s = .next (s.trapA (trapSub cPriv 1) o.form.bytes) := by
  simp [runControl, hh, State.kLevel, hu, hn, finish]

@[simp] theorem Core.cur_writeControl (c : Core) (n : Nat) (w : Word) : (c.writeControl n w).cur = c.cur := by
  unfold Core.writeControl
  split <;> rfl

@[simp] theorem Core.ctxOf_writeControl (c : Core) (n : Nat) (w : Word) (i : CtxId) : (c.writeControl n w).ctxOf i = c.ctxOf i := by
  unfold Core.writeControl
  split <;> rfl

/-- MTC does not touch the address of the next instruction. -/
theorem State.nextPc_writeControl (s : State) (n : Nat) (w : Word) (o : Ops) : (writeControl s n w).nextPc o = s.nextPc o := by
  unfold writeControl
  split
  · simp [State.nextPc, State.putCtx, State.ctx]
  · split <;> simp [State.nextPc, State.putCtx, State.ctx]

/-- Settles O6: the check that stands before the body decides, and the body reads or writes the register named. -/
theorem controlRegisterAccess : Obligations.ControlRegisterAccess := by
  intro o s
  refine ⟨fun h hp => ⟨?mfc, ?mtc⟩, fun hh hu hn => ⟨runControl_priv _ hh hu hn, runControl_priv _ hh hu hn⟩⟩
  case mfc =>
    rw [show exec (.mfc o) s = _ from runControl_ready _ h hp, State.nextPc_setS]
    rfl
  case mtc =>
    rw [show exec (.mtc o) s = _ from runControl_ready _ h hp, State.nextPc_writeControl]
    rfl

/-- A bit of a word under a mask whose ones are the places that a test admits. -/
theorem getLsbD_and_mask {w : Nat} (x m : BitVec w) {p : Nat → Prop} [DecidablePred p] (hm : ∀ i, i < w → m.getLsbD i = decide (p i)) {i : Nat} (hi : i < w) :
    (x &&& m).getLsbD i = (decide (p i) && x.getLsbD i) := by
  rw [BitVec.getLsbD_and, hm i hi, Bool.and_comm]

/-- KAUX3 as it reads (R311). -/
theorem getLsbD_aux3 (c : Core) (w : Word) {i : Nat} (hi : i < 64) :
    (c.aux3 (c.aux3 w)).getLsbD i = (!(c.kcause.getLsbD 8 && decide (8 ≤ i ∧ i < 20)) && w.getLsbD i) := by
  have hmask : ∀ i, i < 64 → (0xFFFFFFFFFFF000FF : Word).getLsbD i = decide (¬ (8 ≤ i ∧ i < 20)) := by decide
  cases hk : c.kcause.getLsbD 8 <;> simp only [Core.aux3, bit, hk, Bool.false_eq_true, if_false, if_true]
  · rfl
  · rw [getLsbD_and_mask _ _ hmask hi, getLsbD_and_mask _ _ hmask hi, ← Bool.and_assoc, Bool.and_self, decide_not, Bool.true_and]

/-- Flags 1 to 8 of KSTAT clear where 1 is written (R110, R268). -/
theorem getLsbD_clearFlags (f : BitVec 16) (w : Word) {i : Nat} (hi : i < 16) :
    (f &&& ~~~(w.setWidth 16 &&& 0x1FE)).getLsbD i = (f.getLsbD i && !(decide (1 ≤ i ∧ i < 9) && w.getLsbD i)) := by
  have hmask : ∀ i, i < 16 → (0x1FE : BitVec 16).getLsbD i = decide (1 ≤ i ∧ i < 9) := by decide
  rw [BitVec.getLsbD_and, BitVec.getLsbD_not, getLsbD_and_mask _ _ hmask hi, BitVec.getLsbD_setWidth, decide_eq_true hi, Bool.true_and, Bool.true_and]

/-- KSTAT as the sum of its fields at their places. -/
theorem Core.kstat_eq_sum (c : Core) : c.kstat = BitVec.ofNat 64 (c.flags.toNat % 512 + c.wdx.toNat * 2 ^ 28 + c.inTrap.toNat * 2 ^ 24
    + (!c.irqs.isEmpty).toNat * 2 ^ 23 + c.irqs.length * 2 ^ 18 + (c.cut.isSome || c.restore.isSome).toNat * 2 ^ 17) := by
  have hbit : ∀ (b : Bool) (n : Nat), (if b then n else 0) = b.toNat * n := fun b n => by cases b <;> simp
  have hnot : ∀ (b : Bool) (n : Nat), (if b then 0 else n) = (!b).toNat * n := fun b n => by cases b <;> simp
  rw [Core.kstat, hbit, hbit, hnot]

/-- The fields of KSTAT do not overlap while at most 31 interrupts are queued (R309, R329). -/
theorem Core.kstat_fields (c : Core) (h : c.irqs.length < 32) :
    c.kstat.extractLsb' 28 4 = c.wdx ∧ c.kstat.getLsbD 24 = c.inTrap ∧ c.kstat.getLsbD 23 = !c.irqs.isEmpty ∧
    (c.kstat.extractLsb' 18 5).toNat = c.irqs.length ∧ c.kstat.getLsbD 17 = (c.cut.isSome || c.restore.isSome) ∧
    c.kstat.extractLsb' 0 9 = c.flags.extractLsb' 0 9 ∧ c.kstat.extractLsb' 9 8 = 0 ∧ c.kstat.extractLsb' 25 3 = 0 ∧ c.kstat.extractLsb' 32 32 = 0 := by
  have hwdx : c.wdx.toNat < 2 ^ 4 := c.wdx.isLt
  have htrap := c.inTrap.toNat_lt
  have hirq := (!c.irqs.isEmpty).toNat_lt
  have hcut := (c.cut.isSome || c.restore.isSome).toNat_lt
  have hflags : c.flags.toNat % 512 < 512 := Nat.mod_lt _ (by decide)
  have hlow : (c.flags.extractLsb' 0 9).toNat = c.flags.toNat % 512 := by simp [BitVec.extractLsb'_toNat]
  rw [Core.kstat_eq_sum]
  refine ⟨?wdx, ?inTrap, ?pending, ?queued, ?cut, ?flags, ?low, ?mid, ?high⟩
  case wdx =>
    apply BitVec.eq_of_toNat_eq
    rw [toNat_extractLsb'_ofNat (by decide)]
    omega
  case flags =>
    apply BitVec.eq_of_toNat_eq
    rw [toNat_extractLsb'_ofNat (by decide), hlow]
    omega
  case low | mid | high =>
    apply BitVec.eq_of_toNat_eq
    refine (toNat_extractLsb'_ofNat (by decide)).trans (show _ = 0 from ?_)
    omega
  case inTrap | pending | cut =>
    apply getLsbD_ofNat_of_div_mod (by decide)
    omega
  case queued =>
    rw [toNat_extractLsb'_ofNat (by decide)]
    omega

/-- Settles O7: each register by its mask, KSTAT by its fields. -/
theorem controlRegisterLayout : Obligations.ControlRegisterLayout := by
  refine ⟨fun s w => ?written, fun s h => Core.kstat_fields s.core (by omega)⟩
  case written =>
    refine ⟨?readOnly, ?budget, ?whole, fun i hi => ⟨?kcause, ?kaux0, getLsbD_aux3 s.core w hi, ?sstep, ?detmode⟩, fun i hi => ?kvbr, rfl,
      fun i hi => getLsbD_clearFlags _ w hi, rfl, rfl⟩
    case readOnly => rintro n (rfl | rfl) <;> rfl
    case budget => simp [writeControl, readControl, State.putCtx, State.ctx]
    case whole =>
      rintro n (rfl | rfl | rfl | rfl | rfl)
      · simp [writeControl, readControl, State.putCtx, State.ctx]
      all_goals rfl
    case kcause => exact getLsbD_and_mask w 0xDF1F (p := fun i => i < 5 ∨ 8 ≤ i ∧ i < 13 ∨ i = 14 ∨ i = 15) (by decide) hi
    case kaux0 => exact getLsbD_and_mask w 0x1FFFF (p := fun i => i < 17) (by decide) hi
    case sstep => exact getLsbD_and_mask w 0xF07 (p := fun i => i < 3 ∨ 8 ≤ i ∧ i < 12) (by decide) hi
    case detmode => exact getLsbD_and_mask w 1 (p := fun i => i = 0) (by decide) hi
    case kvbr => exact getLsbD_and_mask w 0x0000FFFFFFFFFFF8 (p := fun i => 3 ≤ i ∧ i < 48) (by decide) hi

/-! ## The budget and the end of a routine -/

theorem toNat_ofNat_min (n : Nat) {w m : Nat} (h : m < 2 ^ w) : (BitVec.ofNat w (min n m)).toNat = min n m := by
  rw [BitVec.toNat_ofNat, Nat.mod_eq_of_lt (lt_of_le_of_lt (Nat.min_le_right _ _) h)]

theorem endRoutine_kernel {s : State} (h : s.core.cur = .k) : endRoutine s = s := by simp [endRoutine, State.kLevel, h]

theorem endRoutine_user {s : State} (h : s.core.cur ≠ .k) :
    endRoutine s = s.putCtx (if s.ctx.errAction then { s.ctx with st := .recovering, errAction := false, errDone := true } else { s.ctx with st := .parsing }) := by
  simp [endRoutine, State.kLevel, h]

/-- Settles O8: BUDGET by the level; the others change the fields of the context that they name. -/
theorem budgetAndAendResults : Obligations.BudgetAndAendResults := by
  refine ⟨fun o s h => ⟨?budget, _, (runPlain_ready _ h : execBudgetSet o s = _), ?set⟩, fun o s h => ⟨fun hk => ?kernel, fun hu => ⟨_, (runPlain_ready _ h : execAend o s = _), ?user⟩⟩⟩
  case budget =>
    refine (runPlain_setS_of_eq h ?_ : execBudget o s = _)
    simp only [budgetLeft, State.kLevel, Nat.sub_sub, decide_eq_true_eq]
  case set =>
    simp only [State.goTo_ctx, State.putCtx_ctx, State.goTo_mem, State.putCtx_mem, State.nextPc, toNat_ofNat_min _ (show 2 ^ 32 - 1 < 2 ^ 32 by decide)]
    exact ⟨rfl, trivial, trivial, trivial, trivial⟩
  case kernel => rw [show exec (.aend o) s = _ from runPlain_ready _ h, endRoutine_kernel hk]
  case user =>
    rw [endRoutine_user hu]
    cases he : s.ctx.errAction <;> simp [he]

/-! ## The scalar floating forms -/

section Floats

variable {o : Ops} {s : State}

/-- A form that writes a scalar register and raises flags. -/
theorem runPlain_setS_addFlags (f : State → Word) (g : State → BitVec 16) (h : Ready o s) {w : Word} (hw : f s = w) :
    runPlain o (fun t => (t.setS o.d (f t)).addFlags (g t)) s = .next (((s.setS o.d w).addFlags (g s)).goTo (s.nextPc o)) := by
  rw [runPlain_ready _ h, State.nextPc_addFlags, State.nextPc_setS, hw]

theorem scalarFloat_ready (f : FVal → FVal → Nat × BitVec 16) (h : Ready o s) :
    scalarFloat o f s = .next (((s.setS o.d (BitVec.ofNat 64 (f (f32 ((s.getS o.a).setWidth 32)) (f32 ((s.getS o.b).setWidth 32))).1)).addFlags
      (f (f32 ((s.getS o.a).setWidth 32)) (f32 ((s.getS o.b).setWidth 32))).2).goTo (s.nextPc o)) :=
  runPlain_setS_addFlags _ _ h rfl

theorem convertScalar_ready (f : Word → Nat × BitVec 16) (h : Ready o s) :
    convertScalar o f s = .next (((s.setS o.d (BitVec.ofNat 64 (f (s.getS o.a)).1)).addFlags (f (s.getS o.a)).2).goTo (s.nextPc o)) :=
  runPlain_setS_addFlags _ _ h rfl

end Floats

theorem unpack_fp32_low (a : Word) : unpack fp32 (a.toNat % 2 ^ fp32.width) = f32 (a.setWidth 32) := by
  rw [f32, BitVec.toNat_setWidth]
  rfl

/-- A product raises the flags of the exact product and of its rounding. -/
theorem mulVal_of_exact {f : FloatFmt} {mode : Nat} {x y v : FVal} {g : BitVec 16} (h : mulExact x y = (v, g)) :
    mulVal f mode x y = ((roundVal f mode v).1, g ||| (roundVal f mode v).2) := by
  simp only [mulVal, h]

theorem mulExact_nan_right (x : FVal) (n : Bool) : mulExact x (.nan n) = (.nan false, 0) := by cases x <;> rfl

theorem mulVal_nan {x y : FVal} (q : Nat) {g : BitVec 16} (h : mulExact x y = (.nan false, g)) : mulVal fp32 q x y = (0x7FC00000, g) := by
  rw [mulVal_of_exact h]
  simp [roundVal, nanBits, signBit, fp32]

/-- Settles O9: the forms by their shape, the special values case by case. -/
theorem scalarFloatResults : Obligations.ScalarFloatResults := by
  refine ⟨fun o s h => ?forms, fun q => ⟨fun n y => ?nan, fun n => ?infinities, fun n k e => ?zeroTimesInf, fun n k => rfl, fun n k e d m => ⟨rfl, fun hm => ?zeroDivisor⟩⟩⟩
  case forms =>
    refine ⟨?fadd, ?fmul, ?fdiv, ?f2i, ?i2f, ?u2f, ?f2bf, ?f2h, ?f2e4, ?bf2f, ?h2f, ?e42f, ?fcmp⟩
    case fadd => exact (scalarFloat_ready _ h : execFadd o s = _)
    case fmul => exact (scalarFloat_ready _ h : execFmul o s = _)
    case fdiv => exact (scalarFloat_ready _ h : execFdiv o s = _)
    case i2f => exact (convertScalar_ready _ h : execFcvtI2f o s = _)
    case u2f => exact (convertScalar_ready _ h : execFcvtU2f o s = _)
    case bf2f => exact (convertScalar_ready _ h : execFcvtBf2f o s = _)
    case h2f => exact (convertScalar_ready _ h : execFcvtH2f o s = _)
    case e42f => exact (convertScalar_ready _ h : execFcvtE42f o s = _)
    case f2i =>
      have hrun := convertScalar_ready (fun a => intResult (toInteger 32 o.q.toNat (f32 (a.setWidth 32)))) h
      rw [intResult, BitVec.ofNat_toNat, BitVec.setWidth_eq] at hrun
      exact (hrun : execFcvtF2i o s = _)
    case f2bf => rw [← unpack_fp32_low]; exact (convertScalar_ready _ h : execFcvtF2bf o s = _)
    case f2h => rw [← unpack_fp32_low]; exact (convertScalar_ready _ h : execFcvtF2h o s = _)
    case f2e4 => rw [← unpack_fp32_low]; exact (convertScalar_ready _ h : execFcvtF2e4 o s = _)
    case fcmp => exact ⟨allLanes _, fun i hi => getLsbD_allLanes _ hi, (runPlain_setP _ h : execFcmp o s = _)⟩
  case nan =>
    refine ⟨rfl, ?_, mulVal_nan q rfl, mulVal_nan q (mulExact_nan_right y n), rfl, ?_⟩
    · cases y <;> rfl
    · cases y <;> rfl
  case infinities => cases n <;> exact ⟨rfl, rfl⟩
  case zeroTimesInf => exact ⟨mulVal_nan q rfl, mulVal_nan q rfl⟩
  case zeroDivisor => cases n <;> cases k <;> simp [divVal, hm, infBits, signBit, fp32]

end Sys2Proof.Machine
end

section
/-! PROOFS. The frame of the register forms: opcodes 0x01 to 0x28 write one scalar register, the count and the address (R61, R62, R110). -/

namespace Sys2Proof.Machine

/-- A form of opcodes 0x01 to 0x28. -/
def isRegisterForm (i : Instr) : Bool := i.opcode?.any (fun n => decide (1 ≤ n ∧ n ≤ 0x28))

/-- A form of the four divisions, 0x09 to 0x0C. -/
def isDivision (i : Instr) : Bool := i.opcode?.any (fun n => decide (9 ≤ n ∧ n ≤ 12))

/-- The meaning of an instruction is a body that only writes S[D], or a division. -/
def OnlyWritesS (i : Instr) (o : Ops) : Prop :=
  (∃ f : State → Word, exec i = runPlain o (fun t => t.setS o.d (f t))) ∨ (isDivision i = true ∧ ∃ f, exec i = divide o f)

theorem onlyWritesS_of_isRegisterForm {i : Instr} {o : Ops} (hi : isRegisterForm i = true) (ho : i.ops? = some o) : OnlyWritesS i o := by
  cases i with
  | div | divu | rem | remu =>
    cases ho
    exact .inr ⟨rfl, _, rfl⟩
  | mov | movi | moviHi | add | sub | addi | mul | mulh | mulhu | and | or | xor | andi | ori | xori | shl | shr | sra | shli | shri | srai | rol
  | slt | sltu | slti | min | max | minu | maxu | clz | ctz | popc | bswap | ext | ins | sext | lea =>
    cases ho
    exact .inl ⟨_, rfl⟩
  | _ => exact absurd hi Bool.false_ne_true

/-- Such an instruction that runs, its divisor not zero, writes S[D] and goes on. -/
theorem OnlyWritesS.ready {i : Instr} {o : Ops} {s : State} (hi : OnlyWritesS i o) (h : Ready o s) (hb : isDivision i = true → s.getS o.b ≠ 0) :
    ∃ w : Word, exec i s = .next ((s.setS o.d w).goTo (s.nextPc o)) := by
  obtain ⟨f, hf⟩ | ⟨hd, f, hf⟩ := hi
  · exact ⟨_, hf ▸ runPlain_setS f h⟩
  · exact ⟨_, hf ▸ divide_of_ne_zero h (hb hd) rfl⟩

theorem State.goTo_ctxAt_ne (s : State) (pc : Word) {c : CtxId} (h : c ≠ s.core.cur) : (s.goTo pc).ctxAt c = s.ctxAt c := s.putCtx_ctxAt_ne _ h
theorem State.setS_ctxAt_ne (s : State) (n : BitVec 6) (w : Word) {c : CtxId} (h : c ≠ s.core.cur) : (s.setS n w).ctxAt c = s.ctxAt c := s.putCtx_ctxAt_ne _ h

/-- Settles O60: the form only writes S[D], and a write of S[D] leaves the rest. -/
theorem registerFrame : Obligations.RegisterFrame := by
  intro i o n s hn ho h1 h2 h hb
  have hi : isRegisterForm i = true := by simp [isRegisterForm, hn, h1, h2]
  have hdiv : isDivision i = true → s.getS o.b ≠ 0 := fun hd => by
    simp only [isDivision, hn, Option.any_some, decide_eq_true_eq] at hd
    exact hb hd.1 hd.2
  obtain ⟨w, hw⟩ := (onlyWritesS_of_isRegisterForm hi ho).ready h hdiv
  have hscalar : ∀ r, r ≠ o.d.toNat → ((s.setS o.d w).goTo (s.nextPc o)).ctx.getS r = s.ctx.getS r := fun r hr => by
    rw [State.goTo_ctx, ← Ctx.getS_setS_ne s.ctx w hr, ← State.setS_ctx]
    rfl
  have hothers : ∀ c, c ≠ s.core.cur → ((s.setS o.d w).goTo (s.nextPc o)).ctxAt c = s.ctxAt c := fun c hc => by
    rw [State.goTo_ctxAt_ne _ _ (by simpa using hc), State.setS_ctxAt_ne _ _ _ hc]
  refine ⟨_, hw, by simp, hscalar, fun hd => ?zero, by simp, by simp, by simp, by simp, by simp, by simp, by simp, by simp, by simp, hothers, by simp, by simp, by simp⟩
  case zero => simp [hd, Ctx.setS]

end Sys2Proof.Machine
end

section
/-! PROOFS. Main memory: what bytes read after a store, the canonical form, and the machine right after reset (R208, R423, R530). -/

namespace Sys2Proof.Machine

@[simp] theorem State.pokeBytes_core (bs : List Byte) (s : State) (a : Nat) : (s.pokeBytes a bs).core = s.core := by
  induction bs generalizing s a with
  | nil => rfl
  | cons b t ih => rw [State.pokeBytes, ih, State.pokeByte_core]

@[simp] theorem State.pokeBytes_dies (bs : List Byte) (s : State) (a : Nat) : (s.pokeBytes a bs).dies = s.dies := by
  induction bs generalizing s a with
  | nil => rfl
  | cons b t ih => rw [State.pokeBytes, ih, State.pokeByte_dies]

/-- What a byte reads after bytes were written from an address on. -/
theorem State.byteAt_pokeBytes (bs : List Byte) (s : State) (a x : Nat) :
    (s.pokeBytes a bs).byteAt x = if a ≤ x ∧ x < a + bs.length then bs.getD (x - a) 0 else s.byteAt x := by
  induction bs generalizing s a with
  | nil =>
    rw [if_neg (by simp), State.pokeBytes]
  | cons b t ih =>
    rw [State.pokeBytes, ih, State.byteAt_pokeByte, List.length_cons]
    by_cases hx : x = a
    · subst hx
      simp
    · by_cases hin : a + 1 ≤ x ∧ x < a + 1 + t.length
      · have hsub : x - a = x - (a + 1) + 1 := by omega
        rw [if_pos hin, if_pos (by omega), hsub, List.getD_cons_succ]
      · rw [if_neg hin, if_neg hx, if_neg (by omega)]

theorem State.byteAt_pokeBytes_of_not_mem {bs : List Byte} (s : State) {a x : Nat} (h : x < a ∨ a + bs.length ≤ x) : (s.pokeBytes a bs).byteAt x = s.byteAt x := by
  rw [State.byteAt_pokeBytes, if_neg (by omega)]

@[simp] theorem State.byteAt_dirtyLines (s : State) (a n x : Nat) (i : Bool) : (s.dirtyLines a n i).byteAt x = s.byteAt x := by
  rw [State.byteAt, State.dirtyLines_mem, State.byteAt]

/-- A store over parts leaves every byte outside them. -/
theorem State.byteAt_storeParts_of_not_mem (ps : List Part) (s : State) (bs : List Byte) {x : Nat} (h : ∀ p ∈ ps, x < p.dpa ∨ p.dpa + p.len ≤ x) :
    (storeParts s ps bs).byteAt x = s.byteAt x := by
  induction ps generalizing s bs with
  | nil => rfl
  | cons p t ih =>
    have hlen : (bs.take p.len).length ≤ p.len := List.length_take_le _ _
    have hp := h p List.mem_cons_self
    rw [storeParts, ih _ _ (fun q hq => h q (List.mem_cons_of_mem _ hq)), State.byteAt_dirtyLines, State.byteAt_pokeBytes_of_not_mem _ (by omega)]

/-- Settles O58: byte by byte, and part by part; two canonical memories that read alike are one list. -/
theorem memoryOperations : Obligations.MemoryOperations := fun s a bs =>
  ⟨Memory.wf_pokeBytes bs s a, State.byteAt_pokeBytes bs s a, State.pokeBytes_core bs s a, State.pokeBytes_dies bs s a, fun ps => Memory.wf_storeParts ps s bs,
    fun ps _ h => State.byteAt_storeParts_of_not_mem ps s bs h, fun t hs ht h => SMap.ext_of_wf 0 s.mem t.mem hs ht h⟩

/-- Settles O59: the reset state evaluated at each field. -/
theorem resetState : Obligations.ResetState := by
  refine ⟨Memory.wf_reset, fun a => rfl, rfl, rfl, rfl, rfl, rfl, rfl, rfl, ?kstat, rfl, rfl, rfl, rfl, rfl, fun n => rfl, fun q => rfl, rfl, rfl, rfl, rfl, rfl, rfl, rfl⟩
  case kstat => decide

end Sys2Proof.Machine
end

section
/-! PROOFS. The grammar instructions that change a parse, and marks put into the insertion buffer (R278, R282 to R284, R287 to R289). -/

namespace Sys2Proof.Machine

/-! ## The address of the next instruction, by the program counter alone -/

theorem State.nextPc_of_pc {s t : State} (o : Ops) (h : t.ctx.pc = s.ctx.pc) : t.nextPc o = s.nextPc o := by
  rw [State.nextPc, h, State.nextPc]

section Ends

variable {o : Ops} {s t : State}

/-- A body that goes on from a state with the program counter where it was. -/
theorem runInstr_next (h : Ready o s) {body : State → Eff} (hb : body s = .next t) (hpc : t.ctx.pc = s.ctx.pc) :
    runInstr o body s = .next (t.goTo (s.nextPc o)) := by
  rw [runInstr_ready _ h, hb, finish, State.nextPc_of_pc o hpc]

theorem runPlain_next (h : Ready o s) {f : State → State} (hf : f s = t) (hpc : t.ctx.pc = s.ctx.pc) :
    runPlain o f s = .next (t.goTo (s.nextPc o)) :=
  runInstr_next h (congrArg Eff.next hf) hpc

theorem runInstr_trap (h : Ready o s) {body : State → Eff} {i : TrapInfo} (hb : body s = .trap i t) :
    runInstr o body s = .next (t.trapA i o.form.bytes) := by
  rw [runInstr_ready _ h, hb, finish]

theorem runInstr_block (h : Ready o s) {body : State → Eff} {w : Wait} (hb : body s = .block w t) :
    runInstr o body s = .next (t.putCtx { t.ctx with waiting := some w }) := by
  rw [runInstr_ready _ h, hb, finish]

theorem State.setS_pc (s : State) (n : BitVec 6) (w : Word) : (s.setS n w).ctx.pc = s.ctx.pc := by simp

/-- A context changed in other fields than its program counter leaves that of the executing context. -/
theorem State.putCtxAt_pc {s : State} {u : CtxId} {x : Ctx} (h : x.pc = (s.ctxAt u).pc) : (s.putCtxAt u x).ctx.pc = s.ctx.pc := by
  by_cases hu : s.core.cur = u
  · subst hu
    simpa [State.ctx] using h
  · rw [State.ctx, State.putCtxAt_core, Core.putCtx_cur, Core.ctxOf_putCtx_ne _ _ hu, State.ctx]

theorem State.putCtxAt_ctxAt_self (s : State) (u : CtxId) : s.putCtxAt u (s.ctxAt u) = s := by
  rw [State.putCtxAt, State.ctxAt, Core.putCtx_ctxOf]

end Ends

/-! ## Skipping symbols changes no program counter -/

@[simp] theorem Ctx.consume_pc (x : Ctx) : x.consume.pc = x.pc := by
  simp only [Ctx.consume]
  split
  · rfl
  · split <;> rfl

@[simp] theorem Core.settleDrops_ctxOf (c : Core) (n : Nat) (u : CtxId) : (c.settleDrops n).ctxOf u = c.ctxOf u := by
  simp only [Core.settleDrops]
  split <;> rfl

@[simp] theorem Core.settleDrops_cur (c : Core) (n : Nat) : (c.settleDrops n).cur = c.cur := by
  simp only [Core.settleDrops]
  split <;> rfl

@[simp] theorem Core.settleSkips_ctxOf (c : Core) (u : CtxId) : c.settleSkips.ctxOf u = c.ctxOf u := by
  unfold Core.settleSkips
  induction List.range 8 generalizing c with
  | nil => rfl
  | cons n l ih => rw [List.foldl_cons, ih, Core.settleDrops_ctxOf]

@[simp] theorem Core.settleSkips_cur (c : Core) : c.settleSkips.cur = c.cur := by
  unfold Core.settleSkips
  induction List.range 8 generalizing c with
  | nil => rfl
  | cons n l ih => rw [List.foldl_cons, ih, Core.settleDrops_cur]

@[simp] theorem Core.ctxOf_putPorts (c : Core) (m : SMap Port) (v : CtxId) : ({ c with ports := m } : Core).ctxOf v = c.ctxOf v := by cases v <;> rfl

@[simp] theorem Core.discardBeat_ctxOf (c : Core) (u v : CtxId) (d : Nat) : (c.discardBeat u d).ctxOf v = c.ctxOf v := by
  simp only [Core.discardBeat, Core.settleSkips_ctxOf, Core.ctxOf_putPorts]

@[simp] theorem Core.discardBeat_cur (c : Core) (u : CtxId) (d : Nat) : (c.discardBeat u d).cur = c.cur := by
  simp only [Core.discardBeat, Core.settleSkips_cur]

@[simp] theorem Core.skipSymbol_cur (c : Core) (u : CtxId) : (c.skipSymbol u).cur = c.cur := by
  simp only [Core.skipSymbol, Core.putCtx_cur]
  split
  · exact Core.discardBeat_cur _ _ _
  · rfl

/-- A skip consumes for its context and leaves every other. -/
theorem Core.skipSymbol_ctxOf (c : Core) (u v : CtxId) : (c.skipSymbol u).ctxOf v = if v = u then (c.ctxOf u).consume else c.ctxOf v := by
  simp only [Core.skipSymbol]
  by_cases hv : v = u
  · rw [hv, if_pos rfl, Core.ctxOf_putCtx]
  · rw [if_neg hv, Core.ctxOf_putCtx_ne _ _ hv]
    split
    · exact Core.discardBeat_ctxOf _ _ _ _
    · rfl

theorem Core.skipSymbol_pc (c : Core) (u v : CtxId) : ((c.skipSymbol u).ctxOf v).pc = (c.ctxOf v).pc := by
  rw [Core.skipSymbol_ctxOf]
  split
  · rename_i h
    rw [h, Ctx.consume_pc]
  · rfl

theorem Core.skipSymbols_pc (c : Core) (u v : CtxId) (n : Nat) : ((c.skipSymbols u n).ctxOf v).pc = (c.ctxOf v).pc := by
  induction n generalizing c with
  | zero => rfl
  | succ n ih => rw [Core.skipSymbols, ih, Core.skipSymbol_pc]

theorem Core.skipSymbols_cur (c : Core) (u : CtxId) (n : Nat) : (c.skipSymbols u n).cur = c.cur := by
  induction n generalizing c with
  | zero => rfl
  | succ n ih => rw [Core.skipSymbols, ih, Core.skipSymbol_cur]

theorem State.skipSymbols_pc (s : State) (u : CtxId) (n : Nat) : (s.putCore (s.core.skipSymbols u n)).ctx.pc = s.ctx.pc := by
  rw [State.ctx, State.putCore_core, Core.skipSymbols_cur, Core.skipSymbols_pc, State.ctx]

/-! ## A form that writes its status -/

section Status

variable {o : Ops} {s t : State}

theorem runInstr_status (h : Ready o s) {body : State → Eff} {w : Word} (hb : body s = .next (t.setS o.d w)) (hpc : t.ctx.pc = s.ctx.pc) :
    runInstr o body s = .next ((t.setS o.d w).goTo (s.nextPc o)) :=
  runInstr_next h hb ((State.setS_pc _ _ _).trans hpc)

theorem runPlain_status (h : Ready o s) {f : State → State} {w : Word} (hf : f s = t.setS o.d w) (hpc : t.ctx.pc = s.ctx.pc) :
    runPlain o f s = .next ((t.setS o.d w).goTo (s.nextPc o)) :=
  runInstr_status h (congrArg Eff.next hf) hpc

end Status

section Grammar

variable {o : Ops} {s : State}

/-- A target that may be changed holds a group and is the context, or one of the contexts, that R278 admits. -/
theorem refuseChange_none (h : s.refuseChange (s.target o) = none) : s.holdsGroup (s.target o) = true ∧ s.mayChange (s.target o) = true := by
  unfold State.refuseChange at h
  split at h
  · cases h
  · rename_i hg
    split at h
    · cases h
    · rename_i hm
      exact ⟨by simpa using hg, by simpa using hm⟩

/-- A refused change of a parse writes 6 for no group and 4 for a target that may not be changed. -/
theorem resumeParse_refused (r : Bool) {k : Nat} (hk : s.refuseChange (s.target o) = some k) : resumeParse o r s = s.setS o.d (BitVec.ofNat 64 k) := by
  unfold State.refuseChange at hk
  unfold resumeParse
  split at hk
  · rename_i hg
    cases hk
    exact if_pos hg
  · rename_i hg
    split at hk
    · rename_i hm
      cases hk
      exact (if_neg hg).trans (if_pos (by rw [hm, Bool.true_or]))
    · cases hk

theorem resumeParse_notTrapped (r : Bool) (hk : s.refuseChange (s.target o) = none) (hp : (s.ctxAt (s.target o)).parseTrapped = false) :
    resumeParse o r s = s.setS o.d 4 := by
  obtain ⟨hg, hm⟩ := refuseChange_none hk
  simp [resumeParse, hg, hm, hp]

theorem resumeParse_armed (r : Bool) (hk : s.refuseChange (s.target o) = none) (hp : (s.ctxAt (s.target o)).parseTrapped = true)
    (hf : r = true → (s.ctxAt (s.target o)).topFrame ≠ none) :
    resumeParse o r s = (s.putCtxAt (s.target o) { s.ctxAt (s.target o) with gresume := some r, frec := (s.ctxAt (s.target o)).frec &&& ~~~(1#256 <<< 19) }).setS o.d 0 := by
  obtain ⟨hg, hm⟩ := refuseChange_none hk
  have hno : (r && (s.ctxAt (s.target o)).topFrame.isNone) = false := by
    cases r with
    | false => rfl
    | true => simpa [Option.isSome_iff_ne_none] using hf rfl
  simp [resumeParse, hg, hm, hp, hno]

theorem resumeParse_noFrame (hk : s.refuseChange (s.target o) = none) (hp : (s.ctxAt (s.target o)).parseTrapped = true)
    (hf : (s.ctxAt (s.target o)).topFrame = none) : resumeParse o true s = s.setS o.d 5 := by
  obtain ⟨hg, hm⟩ := refuseChange_none hk
  simp [resumeParse, hg, hm, hp, hf]

theorem execGskip_refused (h : Ready o s) {k : Nat} (hk : s.refuseChange (s.target o) = some k) :
    execGskip o s = .next ((s.setS o.d (BitVec.ofNat 64 (256 * k))).goTo (s.nextPc o)) :=
  runInstr_status h (by simp only [hk]) rfl

theorem execGpush_refused (h : Ready o s) {k : Nat} (hk : s.refuseChange (s.target o) = some k) :
    execGpush o s = .next ((s.setS o.d (BitVec.ofNat 64 k)).goTo (s.nextPc o)) :=
  runPlain_status h (by simp only [hk]) rfl

theorem execGpop_refused (h : Ready o s) {k : Nat} (hk : s.refuseChange (s.target o) = some k) :
    execGpop o s = .next ((s.setS o.d (BitVec.ofNat 64 (2 ^ 24 * k))).goTo (s.nextPc o)) :=
  runPlain_status h (by simp only [hk, Nat.mul_comm k]) rfl

/-- GSKIP of n symbols, not blocking (R282). -/
theorem execGskip_of_reach (h : Ready o s) (hk : s.refuseChange (s.target o) = none) {n : Nat} {b : Bool} (he : (s.ctxAt (s.target o)).eotc = false)
    (hr : skipReach (s.ctxAt (s.target o)).items (min ((s.getS o.a).toNat + o.imm.toNat) 16) = (n, b)) (hq : b = true → o.q ≠ 0 ∨ s.target o ≠ s.core.cur) :
    execGskip o s = .next (((s.putCore (s.core.skipSymbols (s.target o) n)).setS o.d (BitVec.ofNat 64 ((if b then 0x300 else 0) + n))).goTo (s.nextPc o)) := by
  refine runInstr_status h ?_ (State.skipSymbols_pc _ _ _)
  have hb : ¬ ((b && decide (o.q = 0) && decide (s.target o = s.core.cur)) = true) := by
    simp only [Bool.and_eq_true, decide_eq_true_eq]
    rintro ⟨⟨hb, h0⟩, hc⟩
    exact (hq hb).elim (fun hne => hne h0) (fun hne => hne hc)
  simp only [hk, he, Bool.false_eq_true, if_false, Ops.uimm, hr, hb]

theorem execGskip_blocks (h : Ready o s) (hk : s.refuseChange (s.target o) = none) {n : Nat} (he : (s.ctxAt (s.target o)).eotc = false)
    (hr : skipReach (s.ctxAt (s.target o)).items (min ((s.getS o.a).toNat + o.imm.toNat) 16) = (n, true)) (hq : o.q = 0) (hc : s.target o = s.core.cur) :
    execGskip o s = .next (s.putCtx { s.ctx with waiting := some .mark }) := by
  refine runInstr_block h ?_
  have hb : (true && decide (o.q = 0) && decide (s.target o = s.core.cur)) = true := by simp [hq, hc]
  simp only [hk, he, Bool.false_eq_true, if_false, Ops.uimm, hr, hb, if_true]

theorem execGskip_ended (h : Ready o s) (hk : s.refuseChange (s.target o) = none) (he : (s.ctxAt (s.target o)).eotc = true) :
    execGskip o s = .next ((s.setS o.d 0).goTo (s.nextPc o)) := by
  refine runInstr_status h ?_ rfl
  simp only [hk, he, if_true, Bool.false_and, Bool.false_eq_true, if_false, Core.skipSymbols]
  rfl

/-- GPUSH of an invalid symbol, of a symbol on a full stack, and of one that goes onto the stack (R283, R311). -/
theorem execGpush_invalid (h : Ready o s) (hk : s.refuseChange (s.target o) = none)
    (hv : s.core.validSymbol (((s.getS o.a).toNat + o.imm.toNat) % 1024) (o.q = 1) = false) :
    execGpush o s = .next ((s.setS o.d 1).goTo (s.nextPc o)) :=
  runPlain_status h (by simp only [hk, Ops.uimm, hv, Bool.not_false, if_true]) rfl

theorem execGpush_full (h : Ready o s) (hk : s.refuseChange (s.target o) = none)
    (hv : s.core.validSymbol (((s.getS o.a).toNat + o.imm.toNat) % 1024) (o.q = 1) = true) (hl : 64 ≤ (s.ctxAt (s.target o)).stack.length) :
    execGpush o s = .next ((s.setS o.d 2).goTo (s.nextPc o)) :=
  runPlain_status h (by simp only [hk, Ops.uimm, hv, hl, Bool.not_true, Bool.false_eq_true, if_true, if_false]) rfl

theorem execGpush_pushed (h : Ready o s) (hk : s.refuseChange (s.target o) = none)
    (hv : s.core.validSymbol (((s.getS o.a).toNat + o.imm.toNat) % 1024) (o.q = 1) = true) (hl : (s.ctxAt (s.target o)).stack.length < 64) :
    execGpush o s = .next (((s.putCtxAt (s.target o) { s.ctxAt (s.target o) with
      stack := ⟨BitVec.ofNat 16 (((s.getS o.a).toNat + o.imm.toNat) % 1024 + if o.q = 1 then 0x8000 else 0), (s.ctxAt (s.target o)).lastProd⟩
        :: (s.ctxAt (s.target o)).stack }).setS o.d 0).goTo (s.nextPc o)) :=
  runPlain_status h (by simp only [hk, Ops.uimm, hv, if_neg (not_le.2 hl), Bool.not_true, Bool.false_eq_true, if_false]) (State.putCtxAt_pc rfl)

/-- What GPOP of k entries leaves and writes (R284). -/
theorem execGpop_allowed (h : Ready o s) (hk : s.refuseChange (s.target o) = none) {k last : Nat} (hn : min o.imm.toNat (s.ctxAt (s.target o)).stack.length = k)
    (hl : (if k = 0 then 0 else (((s.ctxAt (s.target o)).stack.getD (k - 1) ⟨0, 0⟩).entry).toNat) = last) :
    execGpop o s = .next (((s.putCtxAt (s.target o) { s.ctxAt (s.target o) with stack := (s.ctxAt (s.target o)).stack.drop k }).setS o.d
      (BitVec.ofNat 64 (last + 2 ^ 16 * k))).goTo (s.nextPc o)) := by
  refine runPlain_status h ?_ (State.putCtxAt_pc rfl)
  simp only [hk, Ops.uimm, hn, hl, Nat.mul_comm k (2 ^ 16)]

end Grammar

/-- Settles O11: a refusal by its status; GSKIP by how far it gets, GPUSH by the symbol and the room, GPOP by the depth, GRESUME by the trap and the frame. -/
theorem grammarChangeResults : Obligations.GrammarChangeResults := by
  intro o s h u x put sym e
  refine ⟨fun k hk => ⟨execGskip_refused h hk, execGpush_refused h hk, execGpop_refused h hk, ?resumeRefused, ?recoverRefused⟩, fun hk =>
    ⟨fun n he hr => ?skip, fun n he hr => ⟨fun hq => execGskip_of_reach h hk he hr (fun _ => hq), fun hq hc => ?skipBlocks⟩, fun he => execGskip_ended h hk he,
      fun hv => execGpush_invalid h hk hv, fun hv hl => execGpush_full h hk hv hl, fun hv hl => execGpush_pushed h hk hv hl,
      fun l y r hs hl => ?pop, fun l y hs hl => ?popAll, fun hs => ?popNone, fun hp => ⟨?resumeNot, ?recoverNot⟩,
      fun hp => ⟨?resume, fun hf => ?recover, fun hf => ?noFrame⟩⟩⟩
  case resumeRefused => exact (runPlain_status h (resumeParse_refused false hk) rfl : execGresume o s = _)
  case recoverRefused => exact (runPlain_status h (resumeParse_refused true hk) rfl : execGresumeRecover o s = _)
  case skip =>
    have hrun := execGskip_of_reach h hk he hr (fun hb => absurd hb Bool.false_ne_true)
    rw [if_neg Bool.false_ne_true, Nat.zero_add] at hrun
    exact hrun
  case skipBlocks =>
    refine ⟨_, execGskip_blocks h hk he hr hq hc, ?_⟩
    have hx : x = s.ctx := by rw [← State.ctxAt_cur, ← hc]
    simp [hx]
  case pop =>
    have hstack : (s.ctxAt (s.target o)).stack = l ++ y :: r := hs
    have hrun := execGpop_allowed h hk (k := o.imm.toNat) (last := y.entry.toNat) (by rw [hstack]; simp; omega) (by rw [hstack, ← hl]; simp)
    rw [hstack, ← hl, List.append_cons, List.drop_left' (by simp)] at hrun
    rw [← hl]
    exact hrun
  case popAll =>
    have hstack : (s.ctxAt (s.target o)).stack = l ++ [y] := hs
    have hrun := execGpop_allowed h hk (k := l.length + 1) (last := y.entry.toNat) (by rw [hstack]; simp; omega) (by rw [hstack]; simp)
    rw [hstack, List.drop_of_length_le (by simp)] at hrun
    exact hrun
  case popNone =>
    have hmin : min o.imm.toNat (s.ctxAt (s.target o)).stack.length = 0 := by
      rcases hs with hs | hs
      · rw [show (s.ctxAt (s.target o)).stack = [] from hs]; simp
      · simp [hs]
    have hrun := execGpop_allowed h hk hmin rfl
    rw [List.drop_zero, if_pos rfl] at hrun
    rw [show ({ s.ctxAt (s.target o) with stack := (s.ctxAt (s.target o)).stack } : Ctx) = s.ctxAt (s.target o) from rfl, State.putCtxAt_ctxAt_self] at hrun
    exact hrun
  case resumeNot => exact (runPlain_status h (resumeParse_notTrapped false hk hp) rfl : execGresume o s = _)
  case recoverNot => exact (runPlain_status h (resumeParse_notTrapped true hk hp) rfl : execGresumeRecover o s = _)
  case resume =>
    exact (runPlain_status h (resumeParse_armed false hk hp (fun hb => absurd hb Bool.false_ne_true)) (State.putCtxAt_pc rfl) : execGresume o s = _)
  case recover => exact (runPlain_status h (resumeParse_armed true hk hp (fun _ => hf)) (State.putCtxAt_pc rfl) : execGresumeRecover o s = _)
  case noFrame => exact (runPlain_status h (resumeParse_noFrame hk hp hf) rfl : execGresumeRecover o s = _)

/-! ## Marks -/

theorem ne_zero_of_mem_markList {n : Nat} {w : BitVec 48} {m : Mark} (h : m ∈ markList n w) : m ≠ 0 := by
  induction n generalizing w with
  | zero => cases h
  | succ n ih =>
    unfold markList at h
    split at h
    · cases h
    · rename_i hw
      rcases List.mem_cons.1 h with rfl | h
      · exact hw
      · exact ih h

/-- A code that may not be emitted (R289). -/
theorem badMark_iff {ms : List Mark} :
    ms.any (fun m => decide (m = 0) || (decide (4 ≤ m.toNat) && decide (m.toNat ≤ 7))) = true ↔ ∃ m ∈ ms, m = 0 ∨ 4 ≤ m.toNat ∧ m.toNat ≤ 7 := by
  simp only [List.any_eq_true, Bool.or_eq_true, Bool.and_eq_true, decide_eq_true_eq]

section Marks

variable {o : Ops} {s : State} {ms : List Mark}

theorem emitMarks_refused {k : Nat} (hk : s.refuseChange (s.target o) = some k) : emitMarks o ms s = .next (s.setS o.d (BitVec.ofNat 64 k)) := by
  simp only [emitMarks, hk]

theorem emitMarks_bad (hk : s.refuseChange (s.target o) = none) (hb : ∃ m ∈ ms, m = 0 ∨ 4 ≤ m.toNat ∧ m.toNat ≤ 7) : emitMarks o ms s = .next (s.setS o.d 1) := by
  simp only [emitMarks, hk, badMark_iff.2 hb, if_true]

theorem emitMarks_room (hk : s.refuseChange (s.target o) = none) (hb : ¬ ∃ m ∈ ms, m = 0 ∨ 4 ≤ m.toNat ∧ m.toNat ≤ 7)
    (hl : (s.ctxAt (s.target o)).ins.length + ms.length ≤ 16) :
    emitMarks o ms s = .next ((s.putCtxAt (s.target o) { s.ctxAt (s.target o) with
      ins := (s.ctxAt (s.target o)).ins ++ ms.map (fun m => ⟨.before (s.ctxAt (s.target o)).qbase, some m, 0⟩) }).setS o.d 0) := by
  simp only [emitMarks, hk, if_neg (mt badMark_iff.1 hb), if_neg (not_lt.2 hl)]

theorem emitMarks_full (hk : s.refuseChange (s.target o) = none) (hb : ¬ ∃ m ∈ ms, m = 0 ∨ 4 ≤ m.toNat ∧ m.toNat ≤ 7)
    (hl : 16 < (s.ctxAt (s.target o)).ins.length + ms.length) :
    emitMarks o ms s = if s.target o = s.core.cur then .trap (bufferFull (s.ctxAt (s.target o))) s else .next (s.setS o.d 2) := by
  simp only [emitMarks, hk, if_neg (mt badMark_iff.1 hb), if_pos hl]

end Marks

/-- Settles O12: MARKIF by its code and the room; the two forms of MARKEMIT by the refusal, the codes and the room. -/
theorem markResults : Obligations.MarkResults := by
  intro o s h u x y put code
  refine ⟨fun hc => ?nothing, fun hc h0 hl => ?place, fun hc h0 hl => ?full, fun k hk => ⟨?refused, ?refusedR⟩, fun hk => ⟨?register, ?list⟩⟩
  case nothing =>
    refine (runInstr_next h ?_ rfl : execMarkif o s = _)
    rcases hc with hc | hc
    · simp [State.kLevel, hc]
    · by_cases hk : s.kLevel = true
      · simp [hk]
      · rw [if_neg hk]
        exact if_pos hc
  case place =>
    refine (runInstr_next h ?_ ?_ : execMarkif o s = _)
    · simp only [State.kLevel, hc, decide_false, Bool.false_eq_true, if_false]
      exact (if_neg h0).trans (if_neg (not_le.2 hl))
    · simp only [State.putCtx_ctx]
      rfl
  case full =>
    refine (runInstr_trap h ?_ : execMarkif o s = _)
    simp only [State.kLevel, hc, decide_false, Bool.false_eq_true, if_false]
    exact (if_neg h0).trans (if_pos hl)
  case refused => exact (runInstr_status h (emitMarks_refused hk) rfl : execMarkemit o s = _)
  case refusedR => exact (runInstr_status h (emitMarks_refused hk) rfl : execMarkemitR o s = _)
  case register =>
    rintro m rfl
    refine ⟨fun hm => ?_, fun hm hl => ?_⟩
    · exact (runInstr_status h (emitMarks_bad hk ⟨_, List.mem_singleton.2 rfl, hm⟩) rfl : execMarkemitR o s = _)
    · refine (runInstr_status h (emitMarks_room hk ?_ hl) (State.putCtxAt_pc rfl) : execMarkemitR o s = _)
      rintro ⟨m, hmem, hbad⟩
      rw [List.mem_singleton.1 hmem] at hbad
      exact hm hbad
  case list =>
    rintro ms rfl hms
    have hgood : ¬ ∃ m ∈ markList 4 o.imm, m = 0 ∨ 4 ≤ m.toNat ∧ m.toNat ≤ 7 := by
      rintro ⟨m, hmem, h0 | hbad⟩
      · exact ne_zero_of_mem_markList hmem h0
      · exact hms m hmem hbad
    refine ⟨fun hl => ?_, fun hl => ?_⟩
    · exact (runInstr_status h (emitMarks_room hk hgood hl) (State.putCtxAt_pc rfl) : execMarkemit o s = _)
    · have hrun := emitMarks_full (o := o) hk hgood hl
      by_cases hu : s.target o = s.core.cur
      · rw [if_pos hu] at hrun ⊢
        exact (runInstr_trap h hrun : execMarkemit o s = _)
      · rw [if_neg hu] at hrun ⊢
        exact (runInstr_status h hrun rfl : execMarkemit o s = _)

end Sys2Proof.Machine
end

section
/-! PROOFS. The Ligature: what its instructions add to a cycle, and what the end of the cycle makes of it (R41, R294 to R301). -/

namespace Sys2Proof.Machine

/-- A fold keeps what each of its steps keeps. -/
theorem foldl_keeps {α β γ : Type} {f : α → β → α} (g : α → γ) (h : ∀ a b, g (f a b) = g a) (l : List β) (a : α) : g (l.foldl f a) = g a := by
  induction l generalizing a with
  | nil => rfl
  | cons x t ih => rw [List.foldl_cons, ih, h]

/-! ## The instructions -/

section Instructions

variable {o : Ops} {s : State}

/-- EVWAIT ends (R301). -/
theorem execEvwait_ends (h : Ready o s)
    (hc : s.ctx.evWait = some (o.a.toNat, ligAmount s o, true) ∨ ligAmount s o ≤ s.core.evCount o.a.toNat ∧ (o.q = 0 ∨ ligAmount s o = 0 ∨ s.core.mayTake o.a.toNat = true)) :
    execEvwait o s = .next (((if o.q = 1 ∧ ligAmount s o ≠ 0 then s.putCore (s.core.subEv o.a.toNat (ligAmount s o)) else s).acquire s.core.cur 3
      [evKey s.coreId o.a.toNat]).goTo (s.nextPc o)) := by
  have hb : (decide (s.ctx.evWait = some (o.a.toNat, ligAmount s o, true)) || (decide (ligAmount s o ≤ s.core.evCount o.a.toNat)
      && (decide (o.q = 0) || decide (ligAmount s o = 0) || s.core.mayTake o.a.toNat))) = true := by
    simpa [or_assoc] using hc
  refine runInstr_next h (if_pos ?_ |>.trans ?_) ?_
  · exact hb
  · simp
  · split <;> simp [State.ctx, Core.subEv, Core.ctxOf]

theorem execEvwait_blocks (h : Ready o s) (hc : s.ctx.evWait ≠ some (o.a.toNat, ligAmount s o, true)) (hk : s.core.evCount o.a.toNat < ligAmount s o) :
    execEvwait o s = .next ((s.putCtx { s.ctx with evWait := if o.q = 0 then some (o.a.toNat, ligAmount s o, false) else none }).putCtx
      { s.ctx with evWait := if o.q = 0 then some (o.a.toNat, ligAmount s o, false) else none, waiting := some .ligature }) := by
  have hrun : execEvwait o s = _ := runInstr_block h (if_neg ?_)
  · rw [hrun, State.putCtx_ctx]
  · simp [hc, not_le.2 hk]

/-- A routing in force names a barrier of the scratchpad (R297). -/
theorem execLigcfgSrc_taken (h : Ready o s) {w : Word} (hw : s.getS o.a &&& 0x803FFFFF000007FF = w)
    (hb : w.getLsbD 63 = false ∨ bits w 53 32 % 8 = 0 ∧ bits w 53 32 < 0x400000) :
    execLigcfgSrc o s = .next (((s.putCore { s.core with lig := { s.core.lig with routes := s.core.lig.routes ++ [(o.imm.toNat % 16, w)] } }).setS o.d 0).goTo (s.nextPc o)) := by
  refine runInstr_status h ?_ rfl
  have h1 : ¬ (bit w 63 && decide (bits w 53 32 % 8 ≠ 0)) = true := by
    rcases hb with hb | ⟨hb, -⟩
    · simp only [bit, hb, Bool.false_and, Bool.false_eq_true, not_false_eq_true]
    · simp [hb]
  have h2 : ¬ (bit w 63 && decide (spmSize ≤ bits w 53 32)) = true := by
    rcases hb with hb | ⟨-, hb⟩
    · simp only [bit, hb, Bool.false_and, Bool.false_eq_true, not_false_eq_true]
    · simp [not_le.2 (show bits w 53 32 < spmSize from hb)]
  simp only [hw, if_neg h1, if_neg h2, Ops.uimm]

theorem execLigcfgSrc_misaligned (h : Ready o s) {w : Word} (hw : s.getS o.a &&& 0x803FFFFF000007FF = w) (hv : w.getLsbD 63 = true) (hb : bits w 53 32 % 8 ≠ 0) :
    execLigcfgSrc o s = .next (s.trapA (trapAddr cAlign (BitVec.ofNat 64 (bits w 53 32))) o.form.bytes) := by
  refine runInstr_trap h ?_
  have h1 : (bit w 63 && decide (bits w 53 32 % 8 ≠ 0)) = true := by simp [bit, hv, hb]
  simp only [hw, if_pos h1]

theorem execLigfire_ready (h : Ready o s) :
    execLigfire o s = .next ((if ligAmount s o = 0 then s.putCore (s.core.addEv o.d.toNat (ligAmount s o))
      else (s.putCore (s.core.addEv o.d.toNat (ligAmount s o))).release s.core.cur 3 [evKey s.coreId o.d.toNat]).goTo (s.nextPc o)) := by
  refine runPlain_next h rfl ?_
  split <;> simp [State.ctx, Core.addEv, Core.ctxOf]

end Instructions

/-- The word that shows a term (R298), the reserved bits of its lower condition being 0. -/
theorem termWord_fields {lo hi : BitVec 32} {e : BitVec 5} {c : Bool} (hlo : lo.extractLsb' 20 11 = 0) {w : Word}
    (hw : w = BitVec.ofNat 64 (hi.toNat * 2 ^ 32 + lo.toNat + e.toNat * 2 ^ 24 + c.toNat * 2 ^ 30)) :
    w.extractLsb' 32 32 = hi ∧ w.extractLsb' 0 20 = lo.setWidth 20 ∧ w.extractLsb' 24 5 = e ∧ w.getLsbD 30 = c ∧ w.getLsbD 31 = lo.getLsbD 31 := by
  have hres : lo.toNat / 2 ^ 20 % 2 ^ 11 = 0 := by
    have hz := congrArg BitVec.toNat hlo
    rwa [BitVec.extractLsb'_toNat, Nat.shiftRight_eq_div_pow] at hz
  have htop : (lo.getLsbD 31).toNat = lo.toNat / 2 ^ 31 := by
    rw [BitVec.getLsbD, Nat.testBit_eq_decide_div_mod_eq]
    have : lo.toNat / 2 ^ 31 < 2 := by have := lo.isLt; omega
    interval_cases lo.toNat / 2 ^ 31 <;> rfl
  have hl := lo.isLt
  have hh := hi.isLt
  have he := e.isLt
  have hc := c.toNat_lt
  subst hw
  refine ⟨?hi, ?lo, ?eng, ?conf, ?top⟩
  case hi =>
    apply BitVec.eq_of_toNat_eq
    rw [toNat_extractLsb'_ofNat (by decide)]
    omega
  case lo =>
    apply BitVec.eq_of_toNat_eq
    rw [toNat_extractLsb'_ofNat (by decide), BitVec.toNat_setWidth]
    omega
  case eng =>
    apply BitVec.eq_of_toNat_eq
    rw [toNat_extractLsb'_ofNat (by decide)]
    omega
  case conf => exact getLsbD_ofNat_of_div_mod (by decide) (by omega)
  case top => exact getLsbD_ofNat_of_div_mod (by decide) (by omega)

/-! ## The end of a cycle -/

/-- What a cycle subtracts from a counter, as a sum. -/
theorem Ligature.taken_eq_sum (l : Ligature) (n : Nat) : l.taken n = ((l.subs.filter (fun e => decide (e.1 = n))).map (·.2)).sum := by
  have hfold : ∀ (es : List (Nat × Nat)) (k : Nat), es.foldl (fun k e => if e.1 = n then k + e.2 else k) k = k + ((es.filter (fun e => decide (e.1 = n))).map (·.2)).sum := by
    intro es
    induction es with
    | nil => exact fun k => rfl
    | cons e t ih =>
      intro k
      by_cases he : e.1 = n
      · simp [he, ih, Nat.add_assoc]
      · simp [he, ih]
  rw [Ligature.taken, hfold, Nat.zero_add]

@[simp] theorem Core.settleEv_lig (c : Core) (n : Nat) : (c.settleEv n).lig = c.lig := by simp only [Core.settleEv]; split <;> rfl
@[simp] theorem Core.settleEv_terms (c : Core) (n : Nat) : (c.settleEv n).terms = c.terms := by simp only [Core.settleEv]; split <;> rfl
@[simp] theorem Core.settleEv_routes (c : Core) (n : Nat) : (c.settleEv n).routes = c.routes := by simp only [Core.settleEv]; split <;> rfl
@[simp] theorem Core.applyEv_lig (c : Core) (w : Nat × BitVec 2 × BitVec 16) : (c.applyEv w).lig = c.lig := by unfold Core.applyEv; split <;> rfl
@[simp] theorem Core.applyEv_terms (c : Core) (w : Nat × BitVec 2 × BitVec 16) : (c.applyEv w).terms = c.terms := by unfold Core.applyEv; split <;> rfl
@[simp] theorem Core.applyEv_routes (c : Core) (w : Nat × BitVec 2 × BitVec 16) : (c.applyEv w).routes = c.routes := by unfold Core.applyEv; split <;> rfl

/-- The counters after the cycle's subtractions and increments, before its writes. -/
def Core.settled (c : Core) : Core := (List.range 16).foldl Core.settleEv c

@[simp] theorem Core.settled_lig (c : Core) : c.settled.lig = c.lig := foldl_keeps _ Core.settleEv_lig _ c
@[simp] theorem Core.settled_terms (c : Core) : c.settled.terms = c.terms := foldl_keeps _ Core.settleEv_terms _ c
@[simp] theorem Core.settled_routes (c : Core) : c.settled.routes = c.routes := foldl_keeps _ Core.settleEv_routes _ c

/-- Counter and overflow bit n. -/
def Core.evOf (c : Core) (n : Nat) : BitVec 16 × Bool := (SMap.get 0 c.ev n, SMap.get false c.ovf n)

theorem Core.evOf_setEv (c : Core) (n v k : Nat) : (c.setEv n v).evOf k = if k = n then (BitVec.ofNat 16 v, SMap.get false c.ovf k) else c.evOf k := by
  simp only [Core.evOf, Core.setEv, SMap.get_set]
  split <;> rfl

theorem Core.evOf_setOvf (c : Core) (n k : Nat) (b : Bool) : (c.setOvf n b).evOf k = if k = n then (SMap.get 0 c.ev k, b) else c.evOf k := by
  simp only [Core.evOf, Core.setOvf, SMap.get_set]
  split <;> rfl

theorem Core.evOf_settleEv_ne (c : Core) {n k : Nat} (h : k ≠ n) : (c.settleEv n).evOf k = c.evOf k := by
  simp only [Core.settleEv]
  split
  · rw [Core.evOf_setOvf, if_neg h, Core.evOf_setEv, if_neg h]
  · rw [Core.evOf_setEv, if_neg h]

/-- What the cycle makes of a counter before its writes: the count without what is subtracted, with what is added. -/
def Core.evSum (c : Core) (n : Nat) : Nat := (SMap.get 0 c.ev n).toNat - c.lig.taken n + SMap.get 0 c.lig.adds n

theorem Core.evOf_settleEv_self (c : Core) (n : Nat) :
    (c.settleEv n).evOf n = (BitVec.ofNat 16 (min (c.evSum n) 0xFFFF), SMap.get false c.ovf n || decide (0xFFFF < c.evSum n)) := by
  simp only [Core.settleEv]
  change (if 0xFFFF < c.evSum n then _ else _ : Core).evOf n = _
  split
  · rename_i h
    rw [Core.evOf_setOvf, if_pos rfl, decide_eq_true h, Bool.or_true, Nat.min_eq_right h.le]
    simp [Core.setEv]
  · rename_i h
    rw [Core.evOf_setEv, if_pos rfl, decide_eq_false h, Bool.or_false, Nat.min_eq_left (not_lt.1 h)]
    rfl

theorem Core.evOf_settleEvs_of_not_mem {l : List Nat} (c : Core) {n : Nat} (h : n ∉ l) : (l.foldl Core.settleEv c).evOf n = c.evOf n := by
  induction l generalizing c with
  | nil => rfl
  | cons m t ih =>
    obtain ⟨hm, ht⟩ := not_or.1 (fun hm => h (List.mem_cons.2 hm))
    rw [List.foldl_cons, ih _ ht, Core.evOf_settleEv_ne _ hm]

/-- Each counter is settled once. -/
theorem Core.evOf_settleEvs_of_mem {l : List Nat} (c : Core) {n : Nat} (h : n ∈ l) (hl : l.Nodup) :
    (l.foldl Core.settleEv c).evOf n = (BitVec.ofNat 16 (min (c.evSum n) 0xFFFF), SMap.get false c.ovf n || decide (0xFFFF < c.evSum n)) := by
  induction l generalizing c with
  | nil => cases h
  | cons m t ih =>
    obtain ⟨hm, ht⟩ := List.nodup_cons.1 hl
    rw [List.foldl_cons]
    rcases List.mem_cons.1 h with rfl | h
    · rw [Core.evOf_settleEvs_of_not_mem _ hm, Core.evOf_settleEv_self]
    · have hne : n ≠ m := fun he => hm (he ▸ h)
      have hev := Core.evOf_settleEv_ne c hne
      have hsum : (c.settleEv m).evSum n = c.evSum n := by
        have hcount : SMap.get 0 (c.settleEv m).ev n = SMap.get 0 c.ev n := congrArg Prod.fst hev
        rw [Core.evSum, Core.evSum, Core.settleEv_lig, hcount]
      rw [ih _ h ht, hsum, show SMap.get false (c.settleEv m).ovf n = SMap.get false c.ovf n from congrArg Prod.snd hev]

theorem Core.evOf_settled (c : Core) {n : Nat} (h : n < 16) :
    c.settled.evOf n = (BitVec.ofNat 16 (min (c.evSum n) 0xFFFF), SMap.get false c.ovf n || decide (0xFFFF < c.evSum n)) :=
  Core.evOf_settleEvs_of_mem c (List.mem_range.2 h) List.nodup_range

theorem Core.evOf_applyEv_ne (c : Core) {w : Nat × BitVec 2 × BitVec 16} {n : Nat} (h : w.1 ≠ n) : (c.applyEv w).evOf n = c.evOf n := by
  unfold Core.applyEv
  split
  · rw [Core.evOf_setOvf, if_neg h.symm, Core.evOf_setEv, if_neg h.symm]
  · rw [Core.evOf_setEv, if_neg h.symm]
  · rw [Core.evOf_setOvf, if_neg h.symm]
  · rfl

theorem Core.evOf_applyEvs_ne {l : List (Nat × BitVec 2 × BitVec 16)} (c : Core) {n : Nat} (h : ∀ w ∈ l, w.1 ≠ n) : (l.foldl Core.applyEv c).evOf n = c.evOf n := by
  induction l generalizing c with
  | nil => rfl
  | cons w t ih =>
    rw [List.foldl_cons, ih _ (fun x hx => h x (List.mem_cons_of_mem _ hx)), Core.evOf_applyEv_ne _ (h w List.mem_cons_self)]

/-- A fold of writes leaves a key that it does not name. -/
theorem SMap.get_foldl_set_ne {α : Type} [DecidableEq α] (d : α) (l : List (Nat × α)) (m : SMap α) {k : Nat} (h : ∀ e ∈ l, e.1 ≠ k) :
    SMap.get d (l.foldl (fun m e => SMap.set d m e.1 e.2) m) k = SMap.get d m k := by
  induction l generalizing m with
  | nil => rfl
  | cons e t ih =>
    rw [List.foldl_cons, ih _ (fun x hx => h x (List.mem_cons_of_mem _ hx)), SMap.get_set_ne _ _ _ (h e List.mem_cons_self).symm]

theorem SMap.get_foldl_set_last {α : Type} [DecidableEq α] (d : α) (l : List (Nat × α)) (m : SMap α) (k : Nat) (x : α) :
    SMap.get d ((l ++ [(k, x)]).foldl (fun m e => SMap.set d m e.1 e.2) m) k = x := by
  rw [List.foldl_append, List.foldl_cons, List.foldl_nil, SMap.get_set_self]

/-- The end of a cycle by its parts, also of one in which nothing was done: counters, overflow bits, terms and routings. -/
theorem Core.endLigature_parts (c : Core) {n : Nat} (hn : n < 16) :
    c.endLigature.lig = Ligature.idle ∧ c.endLigature.evOf n = (c.lig.writes.foldl Core.applyEv c.settled).evOf n ∧
    c.endLigature.terms = c.lig.terms.foldl (fun m e => SMap.set Term.reset m e.1 e.2) c.terms ∧
    c.endLigature.routes = c.lig.routes.foldl (fun m e => SMap.set 0 m e.1 e.2) c.routes := by
  unfold Core.endLigature
  split
  · rename_i h
    have hsum : c.evSum n = (SMap.get 0 c.ev n).toNat := by simp [Core.evSum, h, Ligature.idle, Ligature.taken, SMap.get_nil]
    have hlt : (SMap.get 0 c.ev n).toNat < 2 ^ 16 := (SMap.get 0 c.ev n).isLt
    refine ⟨h, ?_, by rw [h]; rfl, by rw [h]; rfl⟩
    rw [show c.lig.writes = [] by rw [h]; rfl, List.foldl_nil, Core.evOf_settled c hn, hsum, Nat.min_eq_left (by omega), decide_eq_false (by omega), Bool.or_false,
      BitVec.ofNat_toNat, BitVec.setWidth_eq, Core.evOf]
  · have hlig : (c.lig.writes.foldl Core.applyEv c.settled).lig = c.lig := (foldl_keeps _ Core.applyEv_lig _ _).trans (Core.settled_lig c)
    have hterms : (c.lig.writes.foldl Core.applyEv c.settled).terms = c.terms := (foldl_keeps _ Core.applyEv_terms _ _).trans (Core.settled_terms c)
    have hroutes : (c.lig.writes.foldl Core.applyEv c.settled).routes = c.routes := (foldl_keeps _ Core.applyEv_routes _ _).trans (Core.settled_routes c)
    refine ⟨rfl, rfl, ?_, ?_⟩
    · rw [← hterms, ← congrArg Ligature.terms hlig]
      rfl
    · rw [← hroutes, ← congrArg Ligature.routes hlig]
      rfl

/-! ## The obligation -/

theorem ligcntWord_eq (s : State) (n : Nat) :
    ligcntWord s.core n = BitVec.ofNat 64 ((SMap.get 0 s.core.ev n).toNat + if SMap.get false s.core.ovf n then 2 ^ 16 else 0) := rfl

theorem execLigcntWrite {o : Ops} {s u : State} (h : Ready o s) (q : BitVec 2) (hu : u = s.setS o.d (ligcntWord s.core o.a.toNat)) :
    runPlain o (ligcntWrite q o) s = .next ((u.putCore { u.core with lig := { u.core.lig with writes := u.core.lig.writes ++ [(o.a.toNat, q, (u.getS o.b).setWidth 16)] } }).goTo (s.nextPc o)) := by
  subst hu
  exact runPlain_next h rfl (State.setS_pc s o.d _)

/-- LIGCFG.TERM refuses a term that tests a counter twice, and configures any other (R296). -/
theorem execLigcfgTerm_ready {o : Ops} {s : State} (h : Ready o s) {x : Term} (h0 : x.c0 = (s.getS o.a).setWidth 32 &&& 0x800FFFFF)
    (h1 : x.c1 = (s.getS o.a).extractLsb' 32 32 &&& 0x800FFFFF) (h2 : x.c2 = (s.getS o.b).setWidth 32 &&& 0x800FFFFF)
    (h3 : x.c3 = (s.getS o.b).extractLsb' 32 32 &&& 0x800FFFFF) (he : x.eng = BitVec.ofNat 5 (o.imm.toNat / 32)) (hc : x.configured = true) :
    execLigcfgTerm o s = if hasRepeat (x.conds.map condCtr) then .next ((s.setS o.d 1).goTo (s.nextPc o))
      else .next (((s.putCore { s.core with lig := { s.core.lig with terms := s.core.lig.terms ++ [(o.imm.toNat % 32, x)] } }).setS o.d 0).goTo (s.nextPc o)) := by
  obtain ⟨c0, c1, c2, c3, eng, conf⟩ := x
  subst h0 h1 h2 h3 he hc
  split
  · rename_i hr
    exact runPlain_status h (if_pos hr) rfl
  · rename_i hr
    exact runPlain_status h (if_neg hr) rfl

/-- The word of LIGCFG.TREAD (R298). -/
theorem execLigcfgTread_ready {o : Ops} {s : State} (h : Ready o s) {x : Term} (hx : x = SMap.get Term.reset s.core.terms (o.imm.toNat % 32)) :
    execLigcfgTread o s = .next ((s.setS o.d (BitVec.ofNat 64 ((if o.imm.getLsbD 5 then x.c3 else x.c1).toNat * 2 ^ 32 + (if o.imm.getLsbD 5 then x.c2 else x.c0).toNat
      + x.eng.toNat * 2 ^ 24 + x.configured.toNat * 2 ^ 30))).goTo (s.nextPc o)) := by
  obtain ⟨c0, c1, c2, c3, eng, conf⟩ := x
  refine runPlain_status h ?_ rfl
  simp only [Ops.uimm, ← hx]
  split <;> cases conf <;> rfl

/-- What each form of LIGCNT makes of its counter at the end of the cycle (R294, R299). -/
theorem Core.evOf_applyEv_self (c : Core) (n : Nat) (v : BitVec 16) :
    (c.applyEv (n, 1, v)).evOf n = (v, false) ∧ ((c.applyEv (n, 2, v)).evOf n).1.toNat = (c.evOf n).1.toNat - v.toNat ∧
      (c.applyEv (n, 3, v)).evOf n = ((c.evOf n).1, false) := by
  refine ⟨?_, ?_, ?_⟩
  · rw [show c.applyEv (n, 1, v) = (c.setEv n v.toNat).setOvf n false from rfl, Core.evOf_setOvf, if_pos rfl]
    simp [Core.setEv]
  · rw [show c.applyEv (n, 2, v) = c.setEv n (c.evCount n - v.toNat) from rfl, Core.evOf_setEv, if_pos rfl]
    have := (SMap.get 0 c.ev n).isLt
    simp only [Core.evOf, Core.evCount, BitVec.toNat_ofNat]
    omega
  · rw [show c.applyEv (n, 3, v) = c.setOvf n false from rfl, Core.evOf_setOvf, if_pos rfl]
    rfl

/-- Settles O14: the instructions by what each adds to the cycle, and the end of the cycle by one counter at a time. -/
theorem ligatureResults : Obligations.LigatureResults := by
  refine ⟨?instructions, ?cycleEnd⟩
  case instructions =>
    intro o s h c n k v was go src
    have hk : ligAmount s o = k := rfl
    have hv : s.core.evCount o.a.toNat = v := rfl
    refine ⟨?rd, ?write, ?fire, ?waitPlain, ?waitZero, ?blocks, ?waitSub, ?source, ?misaligned, ?term, ?tread⟩
    case rd => exact (runPlain_setS_of_eq h (ligcntWord_eq s n) : execLigcntRd o s = _)
    case write =>
      intro i q hi u hu
      simp only [List.mem_cons, Prod.mk.injEq, List.not_mem_nil, or_false] at hi
      rcases hi with ⟨rfl, rfl⟩ | ⟨rfl, rfl⟩ | ⟨rfl, rfl⟩
      · exact (execLigcntWrite h 1 hu : execLigcntSet o s = _)
      · exact (execLigcntWrite h 2 hu : execLigcntSub o s = _)
      · exact (execLigcntWrite h 3 hu : execLigcntClrv o s = _)
    case fire =>
      rintro t rfl
      exact (execLigfire_ready h : execLigfire o s = _)
    case waitPlain =>
      intro hc hq
      refine (execEvwait_ends h ?_ : execEvwait o s = _).trans ?_
      · exact hc.elim (fun hle => .inr ⟨hle, .inl hq⟩) .inl
      · rw [if_neg (by simp [hq])]
    case waitZero =>
      intro hle _ h0
      refine (execEvwait_ends h (.inr ⟨hle, .inr (.inl h0)⟩) : execEvwait o s = _).trans ?_
      rw [if_neg (fun hc => hc.2 h0)]
    case blocks =>
      intro hlt hw
      refine ⟨_, (execEvwait_blocks h hw hlt : execEvwait o s = _), ?_⟩
      simp [c]
    case waitSub =>
      intro hle hq h0 hm
      refine (execEvwait_ends h (.inr ⟨hle, .inr (.inr hm)⟩) : execEvwait o s = _).trans ?_
      rw [if_pos ⟨hq, h0⟩]
      rfl
    case source => exact fun hb => (execLigcfgSrc_taken h rfl hb : execLigcfgSrc o s = _)
    case misaligned => exact fun hv hb => (execLigcfgSrc_misaligned h rfl hv hb : execLigcfgSrc o s = _)
    case term => exact fun x h0 h1 h2 h3 he hc => (execLigcfgTerm_ready h h0 h1 h2 h3 he hc : execLigcfgTerm o s = _)
    case tread =>
      intro x hx
      refine ⟨_, (execLigcfgTread_ready h hx : execLigcfgTread o s = _), fun h0 h2 => termWord_fields ?_ rfl⟩
      split
      · exact h2
      · exact h0
  case cycleEnd =>
    intro c n hn d sum
    obtain ⟨hlig, hev, hterms, hroutes⟩ := c.endLigature_parts hn
    have hsum : c.evSum n = sum := by rw [Core.evSum, Ligature.taken_eq_sum]
    have hread : ∀ {p}, c.endLigature.evOf n = p → SMap.get 0 d.ev n = p.1 ∧ SMap.get false d.ovf n = p.2 := fun hp => ⟨congrArg Prod.fst hp, congrArg Prod.snd hp⟩
    have hset := c.evOf_settled hn
    rw [hsum] at hset
    have hcount : (c.settled.evOf n).1.toNat = min sum 0xFFFF := by
      rw [hset, BitVec.toNat_ofNat]
      exact Nat.mod_eq_of_lt (by omega)
    refine ⟨hlig, ?quiet, ?set, ?sub, ?clrv, ?termKept, ?termSet, ?routeKept, ?routeSet⟩
    case quiet =>
      intro hw
      rw [Core.evOf_applyEvs_ne _ hw] at hev
      obtain ⟨hcnt, hovf⟩ := hread hev
      exact ⟨by rw [hcnt, hcount], by rw [hovf, hset]⟩
    case set =>
      intro l v hw
      rw [hw, List.foldl_append, List.foldl_cons, List.foldl_nil, (Core.evOf_applyEv_self _ n v).1] at hev
      exact hread hev
    case sub =>
      intro v hw
      rw [hw, List.foldl_cons, List.foldl_nil] at hev
      rw [(hread hev).1, (Core.evOf_applyEv_self _ n v).2.1, hcount]
    case clrv =>
      intro v hw
      rw [hw, List.foldl_cons, List.foldl_nil, (Core.evOf_applyEv_self _ n v).2.2] at hev
      obtain ⟨hcnt, hovf⟩ := hread hev
      exact ⟨by rw [hcnt, hcount], hovf⟩
    case termKept =>
      intro k hk
      rw [show d.terms = _ from hterms, SMap.get_foldl_set_ne _ _ _ hk]
    case termSet =>
      intro l k x hl
      rw [show d.terms = _ from hterms, hl, SMap.get_foldl_set_last]
    case routeKept =>
      intro k hk
      rw [show d.routes = _ from hroutes, SMap.get_foldl_set_ne _ _ _ hk]
    case routeSet =>
      intro l k x hl
      rw [show d.routes = _ from hroutes, hl, SMap.get_foldl_set_last]

end Sys2Proof.Machine
end

section
/-! PROOFS. What loads and stores change besides memory, which stores a party may miss, and what a load reads and a store leaves where it can miss none (R115, R116, R119 to R124). -/

namespace Sys2Proof.Machine

/-! ## States that differ in what parties may miss -/

/-- Two states that differ at most in which stores parties may still miss, and in the free choices taken. -/
def SameButViews (s t : State) : Prop := t = { s with unseen := t.unseen, free := t.free }

namespace SameButViews

variable {s t u : State}

theorem refl (s : State) : SameButViews s s := rfl

theorem trans (h : SameButViews s t) (k : SameButViews t u) : SameButViews s u := by
  rw [SameButViews] at *
  rw [k, h]

theorem mem (h : SameButViews s t) : t.mem = s.mem := by rw [h]
theorem core (h : SameButViews s t) : t.core = s.core := by rw [h]
theorem coreId (h : SameButViews s t) : t.coreId = s.coreId := by rw [h]
theorem others (h : SameButViews s t) : t.others = s.others := by rw [h]
theorem dies (h : SameButViews s t) : t.dies = s.dies := by rw [h]
theorem hub (h : SameButViews s t) : t.hub = s.hub := by rw [h]
theorem agenda (h : SameButViews s t) : t.agenda = s.agenda := by rw [h]
theorem hwNext (h : SameButViews s t) : t.hwNext = s.hwNext := by rw [h]
theorem ctx (h : SameButViews s t) : t.ctx = s.ctx := by rw [State.ctx, h.core]; rfl
theorem me (h : SameButViews s t) : t.me = s.me := by rw [State.me, h.core, h.coreId]; rfl
theorem bytesAt (h : SameButViews s t) (a n : Nat) : t.bytesAt a n = s.bytesAt a n := by simp only [State.bytesAt, State.byteAt, h.mem]
theorem cells (h : SameButViews s t) (a n : Nat) : t.cells a n = s.cells a n := by rw [State.cells, h.bytesAt, h.core]; rfl

/-- A fold of steps that change only views. -/
theorem foldl {α : Type} {f : State → α → State} (h : ∀ t x, SameButViews t (f t x)) (l : List α) (s : State) : SameButViews s (l.foldl f s) := by
  induction l generalizing s with
  | nil => exact refl s
  | cons x t ih => exact (h s x).trans (ih _)

theorem pruned (s : State) : SameButViews s s.pruned := rfl

theorem saw (s : State) (q : Nat) (acq : Option Nat) (l : List Unseen) : SameButViews s (s.saw q acq l) := by
  cases acq <;> rfl

theorem look (s : State) (q : Nat) (acq : Option Nat) (a n : Nat) : SameButViews s (s.look q acq a n).2 := by
  simp only [State.look]
  split
  · exact refl s
  · exact trans (t := { s with unseen := s.unseen.flatMap (Unseen.pieces a n), free := s.free + 1 }) rfl (saw _ _ _ _)

theorem lookAll (s : State) (q : Nat) (acq : Option Nat) (us : List (Nat × Nat)) : SameButViews s (s.lookAll q acq us).2 := by
  have key : ∀ (us : List (Nat × Nat)) (r : List (List Byte) × State),
      SameButViews r.2 (us.foldl (fun r u => let x := r.2.look q acq u.1 u.2; (r.1 ++ [x.1], x.2)) r).2 := by
    intro us
    induction us with
    | nil => exact fun r => refl r.2
    | cons u t ih => exact fun r => (look r.2 q acq u.1 u.2).trans (ih _)
  exact key us ([], s)

theorem loadIn (s : State) (q : Nat) (acq : Option Nat) (m a n : Nat) : SameButViews s (s.loadIn q acq m a n).2 := by
  simp only [State.loadIn]
  split
  · exact refl s
  · split
    · exact lookAll _ _ _ _
    · exact lookAll _ _ _ _

theorem settleSo (s : State) (p k : Nat) : SameButViews s (s.settleSo p k) := by
  unfold State.settleSo
  split
  · rfl
  · exact refl s

theorem readView (s : State) (q : Nat) (acq : Option Nat) (m : Nat) (ps : List Part) : SameButViews s (readView s q acq m ps).2 := by
  induction ps generalizing s with
  | nil => exact refl s
  | cons x t ih => exact ((settleSo s q x.kind).trans (loadIn _ q acq m x.dpa x.len)).trans (ih _)

theorem noteUnit (s : State) (e : Unseen) (a : Nat) (bs : List Byte) : SameButViews s (s.noteUnit e a bs).2 := by
  simp only [State.noteUnit]
  split <;> rfl

theorem noteStore (s : State) (e : Unseen) (a : Nat) (bs : List Byte) : SameButViews s (s.noteStore e a bs).2 := by
  have key : ∀ (us : List (Nat × Nat)) (r : List Byte × State),
      SameButViews r.2 (us.foldl (fun r u => let x := r.2.noteUnit e u.1 ((bs.drop (u.1 - a)).take u.2); (r.1 ++ x.1, x.2)) r).2 := by
    intro us
    induction us with
    | nil => exact fun r => refl r.2
    | cons u t ih => exact fun r => (noteUnit r.2 e u.1 _).trans (ih _)
  simp only [State.noteStore]
  split
  · exact refl s
  · split
    · exact trans (t := { s with unseen := s.unseen.flatMap (Unseen.pieces a bs.length) }) rfl (key _ _)
    · rfl

theorem noteLast (s : State) (e : Unseen) (a n : Nat) : SameButViews s (s.noteLast e a n) := by
  unfold State.noteLast
  split
  · exact refl s
  · rfl

theorem observe (s : State) (q : Nat) (acq : Option Nat) (a n : Nat) : SameButViews s (s.observe q acq a n) := by
  simp only [State.observe]
  split
  · exact refl s
  · exact saw _ _ _ _

theorem readAtomic (s : State) (q : Nat) (acq : Option Nat) (ps : List Part) : SameButViews s (s.readAtomic q acq ps) :=
  foldl (f := fun (t : State) (x : Part) => (t.settleSo q x.kind).observe q acq x.dpa x.len) (fun t x => (settleSo t q x.kind).trans (observe _ _ _ _ _)) ps s

theorem orderOwn (s : State) (p n : Nat) : SameButViews s (s.orderOwn p n) := rfl

theorem acquireBy (s : State) (q n : Nat) (l : List (Nat × Nat)) : SameButViews s (s.acquireBy q n l) :=
  foldl (fun _ _ => observe _ _ _ _ _) l s

theorem releaseBy (s : State) (p n : Nat) (b : Bool) (l : List (Nat × Nat)) : SameButViews s (s.releaseBy p n b l) := by
  simp only [State.releaseBy]
  split <;> rfl

end SameButViews

/-! ## Stores that a party may miss -/

theorem meets_iff {a n b m : Nat} : meets a n b m = true ↔ a < b + m ∧ b < a + n := by
  rw [meets, Bool.and_eq_true, decide_eq_true_eq, decide_eq_true_eq]

theorem Unseen.stores_iff {e : Unseen} {a n : Nat} : e.stores a n = true ↔ e.old ≠ [] ∧ e.addr < a + n ∧ a < e.addr + e.len := by
  rw [Unseen.stores, Bool.and_eq_true, meets_iff]
  simp

theorem Unseen.stores_of_le {e : Unseen} {a n b m : Nat} (hab : a ≤ b) (hbm : b + m ≤ a + n) (h : e.stores b m = true) : e.stores a n = true := by
  rw [Unseen.stores_iff] at h ⊢
  obtain ⟨h1, h2, h3⟩ := h
  exact ⟨h1, by omega, by omega⟩

/-- A store that stands for another, or for a part of it, and that no party misses which does not miss that one. -/
structure Unseen.Within (e f : Unseen) : Prop where
  party : e.party = f.party
  seq : e.seq = f.seq
  miss : ∀ q, e.mayMiss q = true → f.mayMiss q = true
  stores : ∀ a n, e.stores a n = true → f.stores a n = true

theorem Unseen.Within.refl (e : Unseen) : e.Within e := ⟨rfl, rfl, fun _ h => h, fun _ _ h => h⟩

theorem Unseen.Within.trans {e f g : Unseen} (h : e.Within f) (k : f.Within g) : e.Within g :=
  ⟨h.party.trans k.party, h.seq.trans k.seq, fun q hq => k.miss q (h.miss q hq), fun a n ha => k.stores a n (h.stores a n ha)⟩

/-- What is visible further and ordered later is missed by no more parties. -/
theorem Unseen.mayMiss_of_le {e f : Unseen} {q : Nat} (hp : e.party = f.party) (hk : e.kind = f.kind) (hg : e.got = f.got) (ho : f.ord ≤ e.ord) (hv : f.vis ≤ e.vis)
    (h : e.mayMiss q = true) : f.mayMiss q = true := by
  unfold Unseen.mayMiss at h ⊢
  rw [hp, hk, hg] at h
  split
  · rename_i hq
    rw [if_pos hq] at h
    simp only [Bool.and_eq_true, decide_eq_true_eq] at h ⊢
    obtain ⟨⟨⟨h1, h2⟩, h3⟩, h4⟩ := h
    exact ⟨⟨⟨h1, by omega⟩, by omega⟩, h4⟩
  · rename_i hq
    rw [if_neg hq] at h
    split
    · rename_i hi
      rwa [if_pos hi] at h
    · rename_i hi
      rw [if_neg hi, decide_eq_true_eq] at h
      exact decide_eq_true (by omega)

theorem Unseen.mayMiss_visible {e : Unseen} {q : Nat} (hq : isInvParty q = false) (hv : 4 ≤ e.vis) : e.mayMiss q = false := by
  unfold Unseen.mayMiss
  have := partyDist_le e.party q
  split
  · simp [not_lt.2 hv]
  · rw [hq, if_neg Bool.false_ne_true]
    exact decide_eq_false (by omega)

theorem Unseen.within_raise (e : Unseen) {o v : Nat} (r : List Nat) (ho : e.ord ≤ o) (hv : e.vis ≤ v) : ({ e with ord := o, vis := v, readers := r } : Unseen).Within e :=
  ⟨rfl, rfl, fun _ => Unseen.mayMiss_of_le rfl rfl rfl ho hv, fun _ _ h => h⟩

theorem Unseen.within_part (e : Unseen) (off n : Nat) (h : off + n ≤ e.len) : (e.part off n).Within e :=
  ⟨rfl, rfl, fun _ hm => hm, fun a m hs => by
    rw [Unseen.stores_iff] at hs ⊢
    obtain ⟨h1, h2, h3⟩ := hs
    simp only [Unseen.part] at h1 h2 h3
    exact ⟨fun h0 => h1 (by simp [h0]), by omega, by omega⟩⟩

/-- A store made visible to every party. -/
theorem Unseen.within_open (e : Unseen) (b : Bool) : (e.open' b).Within e := by
  refine ⟨rfl, rfl, fun q hm => ?_, fun _ _ h => h⟩
  have hvis : (e.open' b).vis = 4 := rfl
  unfold Unseen.mayMiss at hm ⊢
  rw [hvis, show (e.open' b).party = e.party from rfl, show (e.open' b).got = e.got from rfl] at hm
  split
  · rename_i hq
    rw [if_pos hq] at hm
    simp at hm
  · rename_i hq
    rw [if_neg hq] at hm
    split
    · rename_i hi
      rwa [if_pos hi] at hm
    · rename_i hi
      rw [if_neg hi, decide_eq_true_eq] at hm
      exact absurd hm (not_lt.2 (partyDist_le _ _))

theorem Unseen.within_pieces {e x : Unseen} {a n : Nat} (h : x ∈ e.pieces a n) : x.Within e := by
  unfold Unseen.pieces at h
  split at h
  · rw [List.mem_singleton.1 h]
    exact Unseen.Within.refl e
  · rename_i hc
    simp only [Bool.or_eq_true, decide_eq_true_eq, Bool.not_eq_true', not_or, not_le, Bool.not_eq_false, meets_iff] at hc
    obtain ⟨⟨hu, -⟩, hlt, hgt⟩ := hc
    dsimp only at h
    set lo := (max e.addr a - e.addr) / e.unit * e.unit with hlo
    set hi := min e.len ((min (e.addr + e.len) (a + n) - e.addr + e.unit - 1) / e.unit * e.unit) with hhi
    have hlole : lo ≤ e.len := (Nat.div_mul_le_self _ _).trans (by omega)
    have hhile : hi ≤ e.len := min_le_left _ _
    simp only [List.mem_filter, List.mem_append, List.mem_singleton, List.mem_map, List.mem_range] at h
    obtain ⟨(rfl | ⟨i, hi', rfl⟩) | rfl, -⟩ := h
    · exact e.within_part 0 lo (by omega)
    · refine e.within_part _ _ ?_
      have hmul := (Nat.le_div_iff_mul_le (by omega : 0 < e.unit)).1 hi'
      rw [Nat.succ_mul, Nat.mul_comm] at hmul
      omega
    · exact e.within_part _ _ (by omega)

theorem Unseen.within_cuts {rs l : List Unseen} {x : Unseen} (h : x ∈ rs.foldl (fun u r => u.flatMap (Unseen.pieces r.addr r.len)) l) : ∃ e ∈ l, x.Within e := by
  induction rs generalizing l with
  | nil => exact ⟨x, h, Unseen.Within.refl x⟩
  | cons r t ih =>
    obtain ⟨y, hy, hx⟩ := ih h
    obtain ⟨e, he, hye⟩ := List.mem_flatMap.1 hy
    exact ⟨e, he, hx.trans (Unseen.within_pieces hye)⟩

theorem within_openIds {ids : List (Nat × Nat)} {rs l : List Unseen} {x : Unseen} (h : x ∈ openIds ids rs l) : ∃ e ∈ l, x.Within e := by
  induction l generalizing rs with
  | nil => cases h
  | cons e t ih =>
    unfold openIds at h
    split at h
    · rcases List.mem_cons.1 h with rfl | h
      · exact ⟨e, List.mem_cons_self, e.within_open _⟩
      · obtain ⟨f, hf, hw⟩ := ih h
        exact ⟨f, List.mem_cons_of_mem _ hf, hw⟩
    · rcases List.mem_append.1 h with h | h
      · obtain ⟨y, hy, rfl⟩ := List.mem_map.1 h
        obtain ⟨f, hf, hyf⟩ := Unseen.within_cuts hy
        rw [List.mem_singleton.1 hf] at hyf
        refine ⟨e, List.mem_cons_self, ?_⟩
        split
        · exact (y.within_open _).trans hyf
        · exact hyf
      · obtain ⟨f, hf, hw⟩ := ih h
        exact ⟨f, List.mem_cons_of_mem _ hf, hw⟩

/-- No store can be missed in one state that could not be missed in another. -/
def NoMoreMissed (s t : State) : Prop := ∀ e ∈ t.unseen, ∃ f ∈ s.unseen, e.Within f

namespace NoMoreMissed

variable {s t u : State}

theorem refl (s : State) : NoMoreMissed s s := fun e he => ⟨e, he, Unseen.Within.refl e⟩

theorem trans (h : NoMoreMissed s t) (k : NoMoreMissed t u) : NoMoreMissed s u := fun e he =>
  let ⟨f, hf, hef⟩ := k e he
  let ⟨g, hg, hfg⟩ := h f hf
  ⟨g, hg, hef.trans hfg⟩

theorem foldl {α : Type} {f : State → α → State} (h : ∀ t x, NoMoreMissed t (f t x)) (l : List α) (s : State) : NoMoreMissed s (l.foldl f s) := by
  induction l generalizing s with
  | nil => exact refl s
  | cons x t ih => exact (h s x).trans (ih _)

theorem pruned (s : State) : NoMoreMissed s s.pruned := fun e he => ⟨e, mem_pruned he, Unseen.Within.refl e⟩

/-- The stores changed one by one. -/
theorem map {f : Unseen → Unseen} (hf : ∀ e, (f e).Within e) (ht : t.unseen = s.unseen.map f) : NoMoreMissed s t := by
  intro e he
  obtain ⟨g, hg, rfl⟩ := List.mem_map.1 (ht ▸ he)
  exact ⟨g, hg, hf g⟩

theorem pieces (s : State) (k a n : Nat) : NoMoreMissed s { s with unseen := s.unseen.flatMap (Unseen.pieces a n), free := k } := by
  intro e he
  obtain ⟨g, hg, hx⟩ := List.mem_flatMap.1 he
  exact ⟨g, hg, Unseen.within_pieces hx⟩

theorem openIds (s : State) (ids : List (Nat × Nat)) : NoMoreMissed s { s with unseen := openIds ids [] s.unseen } := fun _ he => within_openIds he

theorem saw (s : State) (q : Nat) (acq : Option Nat) (l : List Unseen) : NoMoreMissed s (s.saw q acq l) := by
  set ids := (l.filter (fun e => e.party ≠ q)).map Unseen.id
  have hopen := openIds s ids
  cases acq with
  | some a => exact (hopen.trans (openIds _ _)).trans (pruned _)
  | none =>
    refine NoMoreMissed.trans (hopen.trans ?_) (pruned _)
    by_cases hq : isInvParty q = true
    · exact fun e he => ⟨e, by simpa only [if_pos hq] using he, Unseen.Within.refl e⟩
    · refine map (f := fun e => if (chained (l.map Unseen.id) [] (Sys2Proof.Machine.openIds ids [] s.unseen)).contains e.id && !e.readers.contains q then { e with readers := q :: e.readers } else e) ?_ (if_neg hq)
      intro e
      split
      · exact e.within_raise _ le_rfl le_rfl
      · exact Unseen.Within.refl e

theorem look (s : State) (q : Nat) (acq : Option Nat) (a n : Nat) : NoMoreMissed s (s.look q acq a n).2 := by
  simp only [State.look]
  split
  · exact refl s
  · exact (pieces s _ a n).trans (saw _ _ _ _)

theorem lookAll (s : State) (q : Nat) (acq : Option Nat) (us : List (Nat × Nat)) : NoMoreMissed s (s.lookAll q acq us).2 := by
  have key : ∀ (us : List (Nat × Nat)) (r : List (List Byte) × State),
      NoMoreMissed r.2 (us.foldl (fun r u => let x := r.2.look q acq u.1 u.2; (r.1 ++ [x.1], x.2)) r).2 := by
    intro us
    induction us with
    | nil => exact fun r => refl r.2
    | cons u t ih => exact fun r => (look r.2 q acq u.1 u.2).trans (ih _)
  exact key us ([], s)

theorem loadIn (s : State) (q : Nat) (acq : Option Nat) (m a n : Nat) : NoMoreMissed s (s.loadIn q acq m a n).2 := by
  simp only [State.loadIn]
  split
  · exact refl s
  · split
    · exact lookAll _ _ _ _
    · exact lookAll _ _ _ _

theorem settleSo (s : State) (p k : Nat) : NoMoreMissed s (s.settleSo p k) := by
  unfold State.settleSo
  split
  · refine NoMoreMissed.trans (map (f := fun e => if e.party = p && e.kind = 1 then { e with vis := 4 } else e) ?_ rfl) (pruned _)
    intro e
    split
    · exact e.within_open false
    · exact Unseen.Within.refl e
  · exact refl s

theorem readView (s : State) (q : Nat) (acq : Option Nat) (m : Nat) (ps : List Part) : NoMoreMissed s (readView s q acq m ps).2 := by
  induction ps generalizing s with
  | nil => exact refl s
  | cons x t ih => exact ((settleSo s q x.kind).trans (loadIn _ q acq m x.dpa x.len)).trans (ih _)

theorem observe (s : State) (q : Nat) (acq : Option Nat) (a n : Nat) : NoMoreMissed s (s.observe q acq a n) := by
  simp only [State.observe]
  split
  · exact refl s
  · exact saw _ _ _ _

theorem readAtomic (s : State) (q : Nat) (acq : Option Nat) (ps : List Part) : NoMoreMissed s (s.readAtomic q acq ps) :=
  foldl (f := fun (t : State) (x : Part) => (t.settleSo q x.kind).observe q acq x.dpa x.len) (fun t x => (settleSo t q x.kind).trans (observe _ _ _ _ _)) ps s

theorem acquireBy (s : State) (q n : Nat) (l : List (Nat × Nat)) : NoMoreMissed s (s.acquireBy q n l) :=
  foldl (fun _ _ => observe _ _ _ _ _) l s

theorem orderOwn (s : State) (p n : Nat) : NoMoreMissed s (s.orderOwn p n) := by
  refine map (f := fun e => if e.party = p then { e with ord := max e.ord n } else e) ?_ rfl
  intro e
  split
  · exact e.within_raise _ (le_max_left _ _) le_rfl
  · exact Unseen.Within.refl e

/-- Fewer stores can be missed where the list of them shrinks only. -/
theorem of_subset (h : ∀ e ∈ t.unseen, e ∈ s.unseen) : NoMoreMissed s t := fun e he => ⟨e, h e he, Unseen.Within.refl e⟩

theorem settledAt (h : NoMoreMissed s t) (hv : SameButViews s t) {a n : Nat} (hs : s.settledAt a n) : t.settledAt a n := by
  refine ⟨hv.coreId ▸ hs.1, fun e he hm => ?_⟩
  obtain ⟨f, hf, hw⟩ := h e he
  rw [hv.me] at hm
  have hno := hs.2 f hf (hw.miss _ hm)
  by_contra hc
  rw [hw.stores _ _ (Bool.not_eq_false _ ▸ hc)] at hno
  cases hno

end NoMoreMissed

theorem State.settledAt_of_le {s : State} {a n b m : Nat} (h : s.settledAt a n) (hab : a ≤ b) (hbm : b + m ≤ a + n) : s.settledAt b m := by
  refine ⟨h.1, fun e he hm => ?_⟩
  by_contra hc
  have hno := h.2 e he hm
  rw [Unseen.stores_of_le hab hbm (Bool.not_eq_false _ ▸ hc)] at hno
  cases hno

/-! ## What a load reads where no store can be missed -/

theorem Unseen.stores_of_wanted {e : Unseen} {a : Nat} {bs : List (Byte × Bool)} (h : e.wanted a bs = true) : e.stores a bs.length = true := by
  simp only [Unseen.wanted, Bool.and_eq_true, List.any_eq_true, List.mem_range, decide_eq_true_eq] at h
  obtain ⟨hold, i, hi, ⟨h1, h2⟩, -⟩ := h
  rw [Unseen.stores_iff]
  exact ⟨by simpa using hold, by omega, by omega⟩

theorem Unseen.map_fst_over (e : Unseen) (a : Nat) (bs : List (Byte × Bool)) : (e.over a bs (fun _ b => (b, true))).map Prod.fst = bs.map Prod.fst := by
  apply List.ext_getElem
  · simp [Unseen.over]
  · intro i h1 h2
    have hi : i < bs.length := by simpa using h2
    simp only [Unseen.over, List.getElem_map, List.getElem_range, List.getD_eq_getElem?_getD, List.getElem?_eq_getElem hi, Option.getD_some]
    split <;> rfl

theorem Unseen.length_over (e : Unseen) (a : Nat) (bs : List (Byte × Bool)) (f : Nat → Byte → Byte × Bool) : (e.over a bs f).length = bs.length := by
  simp [Unseen.over]

/-- A load that misses none of the stores to its bytes reads the bytes that stand there. -/
theorem viewBytes_fst {miss : Unseen → Nat → Bool} {q a : Nat} {l : List Unseen} {bs : List (Byte × Bool)} {src : List Unseen}
    (h : ∀ e ∈ l, e.stores a bs.length = true → ∀ i, miss e i = false) : (viewBytes miss q a l bs src).1 = bs.map Prod.fst := by
  induction l generalizing bs src with
  | nil => rfl
  | cons e t ih =>
    have htail : ∀ x ∈ t, x.stores a bs.length = true → ∀ i, miss x i = false := fun x hx => h x (List.mem_cons_of_mem _ hx)
    unfold viewBytes
    split
    · exact ih htail
    · rename_i hw
      rw [h e List.mem_cons_self (Unseen.stores_of_wanted (by simpa using hw)), Bool.false_and, if_neg Bool.false_ne_true,
        ih (by rwa [Unseen.length_over]), Unseen.map_fst_over]

theorem State.length_cells (s : State) (a n : Nat) : (s.cells a n).length = n := by
  unfold State.cells
  split <;> simp [State.bytesAt, Core.spBytes]

theorem State.look_settled {s : State} {q a n : Nat} (acq : Option Nat) (hq : q = s.me) (h : s.settledAt a n) : (s.look q acq a n).1 = s.cells a n := by
  subst hq
  simp only [State.look]
  split
  · rfl
  · dsimp only
    rw [viewBytes_fst, List.map_map]
    · exact List.map_id _
    · intro e he hs i
      rw [List.length_map, State.length_cells] at hs
      obtain ⟨f, hf, hx⟩ := List.mem_flatMap.1 he
      have hw := Unseen.within_pieces hx
      have hno : e.mayMiss s.me = false := by
        by_contra hc
        have hno := h.2 f hf (hw.miss _ (Bool.not_eq_false _ ▸ hc))
        rw [hw.stores _ _ hs] at hno
        cases hno
      rw [hno, Bool.false_and, Bool.false_and, Bool.false_and]

theorem State.lookAll_settled {s : State} {q : Nat} (acq : Option Nat) {us : List (Nat × Nat)} (hq : q = s.me) (h : ∀ u ∈ us, s.settledAt u.1 u.2) :
    (s.lookAll q acq us).1 = us.map (fun u => s.cells u.1 u.2) := by
  have key : ∀ (us : List (Nat × Nat)) (r : List (List Byte) × State), q = r.2.me → (∀ u ∈ us, r.2.settledAt u.1 u.2) →
      (us.foldl (fun r u => let x := r.2.look q acq u.1 u.2; (r.1 ++ [x.1], x.2)) r).1 = r.1 ++ us.map (fun u => r.2.cells u.1 u.2) := by
    intro us
    induction us with
    | nil => exact fun r _ _ => (List.append_nil _).symm
    | cons u t ih =>
      intro r hq h
      have hv := SameButViews.look r.2 q acq u.1 u.2
      have hn := NoMoreMissed.look r.2 q acq u.1 u.2
      rw [List.foldl_cons, ih _ (hq.trans hv.me.symm) (fun x hx => hn.settledAt hv (h x (List.mem_cons_of_mem _ hx)))]
      simp only [State.look_settled acq hq (h u List.mem_cons_self), List.append_assoc, hv.cells, List.map_cons, List.singleton_append]
  exact (key us ([], s) hq h).trans (List.nil_append _)

/-- A range of places that lies in memory, or in one scratchpad. -/
def OnePlace (a n : Nat) : Prop := a / 2 ^ 64 = (a + n) / 2 ^ 64

/-- The byte that stands at a place. -/
def State.cell (s : State) (x : Nat) : Byte := if x < 2 ^ 64 then s.byteAt x else SMap.get 0 s.core.spm (x % 2 ^ 64)

theorem State.cells_eq_map {s : State} {a n : Nat} (h : OnePlace a n) : s.cells a n = (List.range n).map (fun i => s.cell (a + i)) := by
  unfold OnePlace at h
  unfold State.cells
  split
  · refine List.map_congr_left fun i hi => ?_
    have := List.mem_range.1 hi
    rw [State.cell, if_pos (by omega)]
  · refine List.map_congr_left fun i hi => ?_
    have := List.mem_range.1 hi
    rw [State.cell, if_neg (by omega)]
    congr 1
    omega

theorem OnePlace.of_le {a n b m : Nat} (h : OnePlace a n) (hab : a ≤ b) (hbm : b + m ≤ a + n) : OnePlace b m := by
  unfold OnePlace at *
  omega

/-- A range cut into pieces of m, and put together again. -/
theorem flatMap_range_pieces {α : Type} (f : Nat → α) (m n c : Nat) :
    (List.range c).flatMap (fun i => (List.range (min m (n - m * i))).map (fun j => f (m * i + j))) = (List.range (min (m * c) n)).map f := by
  induction c with
  | zero => simp
  | succ c ih =>
    have hlen : min (m * (c + 1)) n = min (m * c) n + min m (n - m * c) := by rw [Nat.mul_succ]; omega
    rw [List.range_succ, List.flatMap_append, ih, hlen, List.range_add, List.map_append, List.map_map]
    simp only [List.flatMap_cons, List.flatMap_nil, List.append_nil]
    congr 1
    refine List.map_congr_left fun j hj => ?_
    have := List.mem_range.1 hj
    rw [Function.comp_apply, Nat.min_eq_left (by omega)]

/-- The pieces of an access cover it. -/
theorem flatten_cells_piecesOf {s : State} {m a n : Nat} (hm : 0 < m) (h : OnePlace a n) :
    ((piecesOf m a n).map (fun u => s.cells u.1 u.2)).flatten = s.cells a n := by
  have hpiece : ∀ i ∈ List.range ((n + m - 1) / m), s.cells (a + m * i) (min m (n - m * i)) = (List.range (min m (n - m * i))).map (fun j => s.cell (a + (m * i + j))) := by
    intro i hi
    have := List.mem_range.1 hi
    have hle := (Nat.le_div_iff_mul_le hm).1 this
    rw [Nat.succ_mul, Nat.mul_comm] at hle
    rw [State.cells_eq_map (h.of_le (by omega) (by omega))]
    simp only [Nat.add_assoc]
  have hcover : n ≤ m * ((n + m - 1) / m) := by
    have := Nat.lt_mul_div_succ (n + m - 1) hm
    rw [Nat.mul_succ] at this
    omega
  rw [piecesOf, List.map_map, ← List.flatMap_def]
  rw [show (List.range ((n + m - 1) / m)).flatMap ((fun u : Nat × Nat => s.cells u.1 u.2) ∘ fun i => (a + m * i, min m (n - m * i)))
    = (List.range ((n + m - 1) / m)).flatMap (fun i => (List.range (min m (n - m * i))).map (fun j => s.cell (a + (m * i + j)))) from
    List.flatMap_congr hpiece, flatMap_range_pieces (fun j => s.cell (a + j)), Nat.min_eq_right hcover, State.cells_eq_map h]

theorem piecesOf_within {m a n : Nat} (hm : 0 < m) {u : Nat × Nat} (hu : u ∈ piecesOf m a n) : a ≤ u.1 ∧ u.1 + u.2 ≤ a + n := by
  obtain ⟨i, hi, rfl⟩ := List.mem_map.1 hu
  have hle := (Nat.le_div_iff_mul_le hm).1 (List.mem_range.1 hi)
  rw [Nat.succ_mul, Nat.mul_comm] at hle
  dsimp only
  omega

theorem State.loadIn_settled {s : State} {q m a n : Nat} (acq : Option Nat) (hq : q = s.me) (hm : 0 < m) (hp : OnePlace a n) (h : s.settledAt a n) :
    (s.loadIn q acq m a n).1 = s.cells a n := by
  have hpieces : ∀ u ∈ piecesOf m a n, s.settledAt u.1 u.2 := fun u hu =>
    have hw := piecesOf_within hm hu
    State.settledAt_of_le h hw.1 hw.2
  simp only [State.loadIn]
  split
  · rfl
  · split
    · rw [State.lookAll_settled acq hq (fun u hu => hpieces u (List.mem_reverse.1 hu)), List.map_reverse, List.reverse_reverse]
      exact flatten_cells_piecesOf hm hp
    · rw [State.lookAll_settled acq hq hpieces]
      exact flatten_cells_piecesOf hm hp

/-- A load over parts whose stores the executing context cannot miss reads the bytes that stand there. -/
theorem readView_settled {s : State} {q m : Nat} (acq : Option Nat) {ps : List Part} (hq : q = s.me) (hm : 0 < m)
    (hp : ∀ p ∈ ps, p.dpa + p.len < 2 ^ 64) (h : s.settled ps) : (readView s q acq m ps).1 = readParts s ps := by
  induction ps generalizing s with
  | nil => rfl
  | cons x t ih =>
    have hv := (SameButViews.settleSo s q x.kind).trans (SameButViews.loadIn _ q acq m x.dpa x.len)
    have hn := (NoMoreMissed.settleSo s q x.kind).trans (NoMoreMissed.loadIn _ q acq m x.dpa x.len)
    have hx := hp x List.mem_cons_self
    have hs1 := SameButViews.settleSo s q x.kind
    have htail := ih (hq.trans hv.me.symm) (fun p hpt => hp p (List.mem_cons_of_mem _ hpt)) (fun p hpt => hn.settledAt hv (h p (List.mem_cons_of_mem _ hpt)))
    unfold readView
    dsimp only
    rw [htail, State.loadIn_settled acq (hq.trans hs1.me.symm) hm (by unfold OnePlace; omega) ((NoMoreMissed.settleSo s q x.kind).settledAt hs1 (h x List.mem_cons_self)),
      hs1.cells, State.cells, if_pos (by omega)]
    simp only [readParts, List.flatMap_cons, hv.bytesAt]

/-! ## What stands after a store -/

/-- Each store to n bytes at a place that a party may miss is its own, of the instruction numbered seq. -/
def State.ownOnly (s : State) (q seq a n : Nat) : Prop := ∀ e ∈ s.unseen, e.mayMiss q = true → e.stores a n = true → e.party = q ∧ e.seq = seq

theorem State.settledAt.ownOnly {s : State} {a n : Nat} (h : s.settledAt a n) (seq : Nat) : s.ownOnly s.me seq a n := by
  intro e he hm hs
  rw [h.2 e he hm] at hs
  cases hs

theorem State.ownOnly.of_le {s : State} {q seq a n b m : Nat} (h : s.ownOnly q seq a n) (hab : a ≤ b) (hbm : b + m ≤ a + n) : s.ownOnly q seq b m :=
  fun e he hm hs => h e he hm (Unseen.stores_of_le hab hbm hs)

theorem NoMoreMissed.ownOnly {s t : State} (h : NoMoreMissed s t) {q seq a n : Nat} (ho : s.ownOnly q seq a n) : t.ownOnly q seq a n := by
  intro e he hm hs
  obtain ⟨f, hf, hw⟩ := h e he
  obtain ⟨hp, hseq⟩ := ho f hf (hw.miss _ hm) (hw.stores _ _ hs)
  exact ⟨hw.party.trans hp, hw.seq.trans hseq⟩

/-- A context numbers below the invocations. -/
theorem State.me_not_inv {s : State} (h : s.coreId < 512) : isInvParty s.me = false := by
  have : ctxNum s.core.cur ≤ 7 := by cases s.core.cur <;> decide
  simp only [isInvParty, State.me, partyOf]
  exact decide_eq_false (by omega)

/-- A store goes only before one that its party may miss, and before none of its own instruction. -/
theorem Unseen.mayMiss_of_passedBy {e f : Unseen} (hq : isInvParty e.party = false) (h : e.passedBy f = true) :
    f.mayMiss e.party = true ∧ ¬ (f.party = e.party ∧ f.seq = e.seq) := by
  simp only [Unseen.passedBy, Bool.and_eq_true, decide_eq_true_eq] at h
  obtain ⟨⟨⟨hvis, -⟩, -⟩, h⟩ := h
  split at h
  · rename_i hp
    simp only [Bool.and_eq_true, decide_eq_true_eq] at h
    obtain ⟨⟨⟨hk, -⟩, ho⟩, hs⟩ := h
    refine ⟨?_, fun hc => hs hc.2⟩
    rw [Unseen.mayMiss, if_pos hp, hq]
    simp only [hk, Bool.and_eq_true, decide_eq_true_eq, Bool.not_false, and_true, true_and]
    omega
  · rename_i hp
    exact ⟨h, fun hc => hp hc.1⟩

theorem State.none_passed {s : State} {e : Unseen} {a n : Nat} (hq : isInvParty e.party = false) (h : s.ownOnly e.party e.seq a n) :
    s.unseen.any (fun f => f.stores a n && e.passedBy f) = false := by
  rw [List.any_eq_false]
  intro f hf hc
  simp only [Bool.and_eq_true] at hc
  obtain ⟨hm, hne⟩ := Unseen.mayMiss_of_passedBy hq hc.2
  exact hne (h f hf hm hc.1)

/-- Where a party can miss no other store, its own stands last. -/
theorem State.noteStore_fst {s : State} {e : Unseen} {a : Nat} {bs : List Byte} (hq : isInvParty e.party = false) (h : s.ownOnly e.party e.seq a bs.length) :
    (s.noteStore e a bs).1 = bs := by
  simp only [State.noteStore, State.none_passed hq h]
  split
  · rename_i hb
    exact (List.isEmpty_iff.1 hb).symm
  · rfl

/-- And it is the only further store that can be missed. -/
theorem State.noteStore_ownOnly {s : State} {e : Unseen} {a b m : Nat} {bs : List Byte} (hq : isInvParty e.party = false) (h : s.ownOnly e.party e.seq a bs.length)
    (ho : s.ownOnly e.party e.seq b m) : (s.noteStore e a bs).2.ownOnly e.party e.seq b m := by
  simp only [State.noteStore, State.none_passed hq h]
  split
  · exact ho
  · rw [if_neg Bool.false_ne_true]
    intro f hf hm hs
    rcases List.mem_cons.1 hf with rfl | hf
    · exact ⟨rfl, rfl⟩
    · exact ho f hf hm hs

theorem State.length_noteUnit (s : State) (e : Unseen) (a : Nat) (bs : List Byte) : (s.noteUnit e a bs).1.length = bs.length := by
  simp only [State.noteUnit]
  split
  · exact State.length_cells _ _ _
  · rfl

/-- The lengths of the pieces of an access do not exceed it. -/
theorem sum_piecesOf_le (m a n : Nat) : ((piecesOf m a n).map (·.2)).sum ≤ n := by
  have key : ∀ c, ((List.range c).map (fun i => min m (n - m * i))).sum = min (m * c) n := by
    intro c
    induction c with
    | zero => simp
    | succ c ih =>
      rw [List.range_succ, List.map_append, List.sum_append, ih, Nat.mul_succ]
      simp only [List.map_cons, List.map_nil, List.sum_cons, List.sum_nil]
      omega
  rw [piecesOf, List.map_map]
  exact (key _).le.trans (min_le_right _ _)

/-- What stands after a store is no longer than it. -/
theorem State.length_noteStore_le (s : State) (e : Unseen) (a : Nat) (bs : List Byte) : (s.noteStore e a bs).1.length ≤ bs.length := by
  have key : ∀ (us : List (Nat × Nat)) (r : List Byte × State),
      (us.foldl (fun r u => let x := r.2.noteUnit e u.1 ((bs.drop (u.1 - a)).take u.2); (r.1 ++ x.1, x.2)) r).1.length ≤ r.1.length + (us.map (·.2)).sum := by
    intro us
    induction us with
    | nil => exact fun r => le_rfl
    | cons u t ih =>
      intro r
      refine (ih _).trans ?_
      simp only [List.length_append, State.length_noteUnit, List.length_take, List.map_cons, List.sum_cons]
      omega
  simp only [State.noteStore]
  split
  · exact Nat.zero_le _
  · split
    · refine (key _ _).trans ?_
      rw [List.length_nil, Nat.zero_add]
      exact sum_piecesOf_le _ _ _
    · exact le_rfl

/-! ## Stores over parts -/

@[simp] theorem State.pokeBytes_coreId (bs : List Byte) (s : State) (a : Nat) : (s.pokeBytes a bs).coreId = s.coreId := by
  induction bs generalizing s a with
  | nil => rfl
  | cons b t ih => exact ih (s.pokeByte a b) (a + 1)

@[simp] theorem State.pokeBytes_unseen (bs : List Byte) (s : State) (a : Nat) : (s.pokeBytes a bs).unseen = s.unseen := by
  induction bs generalizing s a with
  | nil => rfl
  | cons b t ih => exact ih (s.pokeByte a b) (a + 1)

theorem State.pokeBytes_mem_congr {s t : State} (h : s.mem = t.mem) (a : Nat) (bs : List Byte) : (s.pokeBytes a bs).mem = (t.pokeBytes a bs).mem := by
  induction bs generalizing s t a with
  | nil => exact h
  | cons b r ih => exact ih (by simp only [State.pokeByte, h]) (a + 1)

theorem State.foldl_dirtyLine {α : Type} (g : State → α) (h : ∀ (t : State) a i, g (t.dirtyLine a i) = g t) (s : State) (a n : Nat) (i : Bool) : g (s.dirtyLines a n i) = g s :=
  foldl_keeps g (fun _ _ => h _ _ _) _ s

@[simp] theorem State.dirtyLines_core (s : State) (a n : Nat) (i : Bool) : (s.dirtyLines a n i).core = s.core := State.foldl_dirtyLine (·.core) (fun _ _ _ => rfl) s a n i
@[simp] theorem State.dirtyLines_coreId (s : State) (a n : Nat) (i : Bool) : (s.dirtyLines a n i).coreId = s.coreId := State.foldl_dirtyLine (·.coreId) (fun _ _ _ => rfl) s a n i
@[simp] theorem State.dirtyLines_unseen (s : State) (a n : Nat) (i : Bool) : (s.dirtyLines a n i).unseen = s.unseen := State.foldl_dirtyLine (·.unseen) (fun _ _ _ => rfl) s a n i

section StoreParts

variable (ps : List Part) (s : State) (bs : List Byte)

@[simp] theorem storeParts_core : (storeParts s ps bs).core = s.core := by
  induction ps generalizing s bs with
  | nil => rfl
  | cons p t ih => rw [storeParts, ih, State.dirtyLines_core, State.pokeBytes_core]

@[simp] theorem storeParts_coreId : (storeParts s ps bs).coreId = s.coreId := by
  induction ps generalizing s bs with
  | nil => rfl
  | cons p t ih => rw [storeParts, ih, State.dirtyLines_coreId, State.pokeBytes_coreId]

@[simp] theorem storeParts_unseen : (storeParts s ps bs).unseen = s.unseen := by
  induction ps generalizing s bs with
  | nil => rfl
  | cons p t ih => rw [storeParts, ih, State.dirtyLines_unseen, State.pokeBytes_unseen]

theorem storeParts_mem_congr {s t : State} (h : s.mem = t.mem) : (storeParts s ps bs).mem = (storeParts t ps bs).mem := by
  induction ps generalizing s t bs with
  | nil => exact h
  | cons p r ih => exact ih _ (by rw [State.dirtyLines_mem, State.dirtyLines_mem, State.pokeBytes_mem_congr h])

end StoreParts

@[simp] theorem State.l1Line_core (s : State) (l : Nat) : (s.l1Line l).core = s.core := rfl
@[simp] theorem State.l1Line_coreId (s : State) (l : Nat) : (s.l1Line l).coreId = s.coreId := rfl
@[simp] theorem State.l1Line_mem (s : State) (l : Nat) : (s.l1Line l).mem = s.mem := rfl
@[simp] theorem State.l1Line_unseen (s : State) (l : Nat) : (s.l1Line l).unseen = s.unseen := rfl

/-- A plain store of one part, as the recursion of `State.plainStore` makes it. -/
def State.plainPart (s : State) (l1 : Bool) (p seq m : Nat) (x : Part) (bs : List Byte) : State :=
  let r := (s.settleSo p x.kind).noteStore (newStore p seq x.kind m none) x.dpa (bs.take x.len)
  let u := storeParts r.2 [x] r.1
  if l1 then (linesOf x.dpa x.len).foldl (fun (a : State) l => a.l1Line l) u else u

theorem State.plainStore_cons (s : State) (l1 : Bool) (p seq m : Nat) (x : Part) (t : List Part) (bs : List Byte) :
    s.plainStore l1 p seq m (x :: t) bs = (s.plainPart l1 p seq m x bs).plainStore l1 p seq m t (bs.drop x.len) := rfl

section PlainStore

variable (s : State) (l1 : Bool) (p seq m : Nat)

/-- The lines of a part go to the L1: nothing but the die that keeps them changes. -/
theorem State.plainPart_of_l1Line {α : Type} (g : State → α) (h : ∀ (t : State) l, g (t.l1Line l) = g t) (x : Part) (bs : List Byte) :
    g (s.plainPart l1 p seq m x bs) = g (storeParts ((s.settleSo p x.kind).noteStore (newStore p seq x.kind m none) x.dpa (bs.take x.len)).2 [x]
      ((s.settleSo p x.kind).noteStore (newStore p seq x.kind m none) x.dpa (bs.take x.len)).1) := by
  simp only [State.plainPart]
  split
  · exact foldl_keeps g (fun _ _ => h _ _) _ _
  · rfl

theorem State.plainPart_core (x : Part) (bs : List Byte) : (s.plainPart l1 p seq m x bs).core = s.core := by
  rw [State.plainPart_of_l1Line (g := (·.core)) (h := fun _ _ => rfl), storeParts_core, (SameButViews.noteStore _ _ _ _).core, State.settleSo_core]

theorem State.plainPart_coreId (x : Part) (bs : List Byte) : (s.plainPart l1 p seq m x bs).coreId = s.coreId := by
  rw [State.plainPart_of_l1Line (g := (·.coreId)) (h := fun _ _ => rfl), storeParts_coreId, (SameButViews.noteStore _ _ _ _).coreId, State.settleSo_coreId]

@[simp] theorem State.plainStore_core (ps : List Part) (bs : List Byte) : (s.plainStore l1 p seq m ps bs).core = s.core := by
  induction ps generalizing s bs with
  | nil => rfl
  | cons x t ih => rw [State.plainStore_cons, ih, State.plainPart_core]

@[simp] theorem State.plainStore_coreId (ps : List Part) (bs : List Byte) : (s.plainStore l1 p seq m ps bs).coreId = s.coreId := by
  induction ps generalizing s bs with
  | nil => rfl
  | cons x t ih => rw [State.plainStore_cons, ih, State.plainPart_coreId]

theorem State.plainPart_mem (x : Part) (bs : List Byte) :
    (s.plainPart l1 p seq m x bs).mem = (storeParts s [x] ((s.settleSo p x.kind).noteStore (newStore p seq x.kind m none) x.dpa (bs.take x.len)).1).mem := by
  rw [State.plainPart_of_l1Line (g := (·.mem)) (h := fun _ _ => rfl)]
  exact storeParts_mem_congr _ _ ((SameButViews.noteStore _ _ _ _).mem.trans (State.settleSo_mem _ _ _))

/-- A store changes no byte outside the parts it goes to. -/
theorem State.byteAt_plainStore_of_not_mem (ps : List Part) (bs : List Byte) {a : Nat} (h : ∀ x ∈ ps, a < x.dpa ∨ x.dpa + x.len ≤ a) :
    (s.plainStore l1 p seq m ps bs).byteAt a = s.byteAt a := by
  induction ps generalizing s bs with
  | nil => rfl
  | cons x t ih =>
    rw [State.plainStore_cons, ih _ _ (fun y hy => h y (List.mem_cons_of_mem _ hy)), State.byteAt, State.plainPart_mem]
    exact State.byteAt_storeParts_of_not_mem [x] s _ (fun y hy => h y (by rw [List.mem_singleton.1 hy]; exact List.mem_cons_self))

variable {s l1 p seq m}

theorem State.plainPart_ownOnly (hp : isInvParty p = false) {x : Part} {bs : List Byte} (h : s.ownOnly p seq x.dpa x.len) {b k : Nat} (ho : s.ownOnly p seq b k) :
    (s.plainPart l1 p seq m x bs).ownOnly p seq b k := by
  rw [State.ownOnly, State.plainPart_of_l1Line (g := (·.unseen)) (h := fun _ _ => rfl), storeParts_unseen]
  exact State.noteStore_ownOnly (e := newStore p seq x.kind m none) hp
    ((NoMoreMissed.settleSo s p x.kind).ownOnly (h.of_le le_rfl (by rw [List.length_take]; omega))) ((NoMoreMissed.settleSo s p x.kind).ownOnly ho)

/-- Where its party can miss no store but its own instruction's, a plain store is that of its bytes over the parts. -/
theorem State.plainStore_mem (hp : isInvParty p = false) {ps : List Part} {bs : List Byte} (h : ∀ x ∈ ps, s.ownOnly p seq x.dpa x.len) :
    (s.plainStore l1 p seq m ps bs).mem = (storeParts s ps bs).mem := by
  induction ps generalizing s bs with
  | nil => rfl
  | cons x t ih =>
    have hx := h x List.mem_cons_self
    have hfst : ((s.settleSo p x.kind).noteStore (newStore p seq x.kind m none) x.dpa (bs.take x.len)).1 = bs.take x.len :=
      State.noteStore_fst hp ((NoMoreMissed.settleSo s p x.kind).ownOnly (hx.of_le le_rfl (by rw [List.length_take]; omega)))
    rw [State.plainStore_cons, ih (fun y hy => State.plainPart_ownOnly hp hx (h y (List.mem_cons_of_mem _ hy))), storeParts]
    refine storeParts_mem_congr t _ ?_
    rw [State.plainPart_mem, hfst, State.dirtyLines_mem]
    simp only [storeParts, State.dirtyLines_mem, List.take_take, Nat.min_self]

theorem State.plainStore_ownOnly (hp : isInvParty p = false) {ps : List Part} {bs : List Byte} (h : ∀ x ∈ ps, s.ownOnly p seq x.dpa x.len) {b k : Nat} (ho : s.ownOnly p seq b k) :
    (s.plainStore l1 p seq m ps bs).ownOnly p seq b k := by
  induction ps generalizing s bs with
  | nil => exact ho
  | cons x t ih =>
    have hx := h x List.mem_cons_self
    exact ih (fun y hy => State.plainPart_ownOnly hp hx (h y (List.mem_cons_of_mem _ hy))) (State.plainPart_ownOnly hp hx ho)

end PlainStore

end Sys2Proof.Machine
end

section
/-! PROOFS. Loads, stores, signals and atomics of the executing context (R204 to R218, R290 to R293). -/

namespace Sys2Proof.Machine

/-! ## The parts of an access -/

theorem map_pair_ok' {α β ε : Type} {e : Except ε α} {c t : β} {x : α} (h : e.map (fun y => (y, c)) = .ok (x, t)) : e = .ok x ∧ t = c := by
  cases e with
  | error _ => cases h
  | ok a =>
    simp only [Except.map, Except.ok.injEq, Prod.mk.injEq] at h
    exact ⟨congrArg _ h.1, h.2.symm⟩

/-- A translation that succeeds gives the address of a TLB entry at its address, and changes no store that may be missed. -/
theorem translate_shape {s t : State} {asid : BitVec 9} {kl : Bool} {a : Access} {va : Nat} {x : Xlat} (h : translate s asid kl a va = .ok (x, t)) :
    t.unseen = s.unseen ∧ ∃ e : TlbEntry, checkPerm kl a va (e.xlat va) = .ok x := by
  unfold translate at h
  split at h
  · obtain ⟨hx, rfl⟩ := map_pair_ok' h
    exact ⟨rfl, _, hx⟩
  · dsimp only at h
    split at h
    · obtain ⟨hx, rfl⟩ := map_pair_ok' h
      exact ⟨rfl, _, hx⟩
    · split at h
      · cases h
      · obtain ⟨hx, rfl⟩ := map_pair_ok' h
        exact ⟨rfl, _, hx⟩

theorem checkPerm_eq {kl : Bool} {a : Access} {va : Nat} {x y : Xlat} (h : checkPerm kl a va x = .ok y) : y = x := by
  unfold checkPerm at h
  split at h
  all_goals (repeat' split at h)
  all_goals cases h
  all_goals rfl

theorem translate_dpa_lt {s t : State} {asid : BitVec 9} {kl : Bool} {a : Access} {va : Nat} {x : Xlat} (h : translate s asid kl a va = .ok (x, t)) : x.dpa < 2 ^ 40 + va + 1 := by
  obtain ⟨-, e, he⟩ := translate_shape h
  rw [checkPerm_eq he]
  have hp : pteDpa e.pte < 2 ^ 40 := by
    have : bits e.pte 39 12 < 2 ^ 28 := Nat.mod_lt _ (by decide)
    simp only [pteDpa]
    omega
  have h1 := Nat.div_mul_le_self (pteDpa e.pte) e.size
  have h2 := Nat.mod_le va e.size
  simp only [TlbEntry.xlat]
  omega

section Parts

variable {tr : State → Nat → Except Flt (Xlat × State)} {fr : State → Nat → Nat → Nat → Option Flt}

/-- One step of cutting an access at page boundaries. -/
theorem partsWith_succ {f n : Nat} {s t : State} {va : Nat} {ps : List Part} (hn : n ≠ 0) (h : partsWith tr fr (f + 1) s va n = .ok (ps, t)) :
    ∃ x s1 q, tr s va = .ok (x, s1) ∧ partsWith tr fr f s1 (va + min n (4096 - va % 4096)) (n - min n (4096 - va % 4096)) = .ok (q, t) ∧
      ps = ⟨x.dpa, min n (4096 - va % 4096), x.attr⟩ :: q := by
  rw [partsWith, if_neg hn] at h
  dsimp only at h
  split at h
  · cases h
  · rename_i x s1 h1
    split at h
    · cases h
    · split at h
      · cases h
      · rename_i q s2 h2
        cases h
        exact ⟨x, s1, q, h1, h2, rfl⟩

theorem partsWith_nil {f : Nat} {s t : State} {va : Nat} {ps : List Part} (h : partsWith tr fr f s va 0 = .ok (ps, t)) : ps = [] ∧ t = s := by
  cases f <;> cases h <;> exact ⟨rfl, rfl⟩

theorem partsWith_keeps {α : Type} (g : State → α) (htr : ∀ s va x t, tr s va = .ok (x, t) → g t = g s) (f : Nat) :
    ∀ (s : State) (va n : Nat) (ps : List Part) (t : State), partsWith tr fr f s va n = .ok (ps, t) → g t = g s := by
  induction f with
  | zero =>
    intro s va n ps t h
    cases h
    rfl
  | succ f ih =>
    intro s va n ps t h
    by_cases hn : n = 0
    · subst hn
      rw [(partsWith_nil h).2]
    · obtain ⟨x, s1, q, h1, h2, -⟩ := partsWith_succ hn h
      exact (ih _ _ _ _ _ h2).trans (htr _ _ _ _ h1)

theorem partsWith_dpa_le (htr : ∀ s va x t, tr s va = .ok (x, t) → x.dpa < 2 ^ 40 + va + 1) (f : Nat) :
    ∀ (s : State) (va n : Nat) (ps : List Part) (t : State), partsWith tr fr f s va n = .ok (ps, t) → ∀ p ∈ ps, p.dpa + p.len < 2 ^ 40 + va + n + 1 := by
  induction f with
  | zero =>
    intro s va n ps t h p hp
    cases h
    cases hp
  | succ f ih =>
    intro s va n ps t h p hp
    by_cases hn : n = 0
    · subst hn
      rw [(partsWith_nil h).1] at hp
      cases hp
    · obtain ⟨x, s1, q, h1, h2, rfl⟩ := partsWith_succ hn h
      rcases List.mem_cons.1 hp with rfl | hp
      · have := htr _ _ _ _ h1
        dsimp only
        omega
      · have := ih _ _ _ _ _ h2 p hp
        omega

end Parts

section Access

variable {s t : State} {asid : BitVec 9} {kl : Bool} {k : Access} {va n : Nat} {ps : List Part}

theorem accessParts_unseen (h : accessParts s asid kl k va n = .ok (ps, t)) : t.unseen = s.unseen :=
  partsWith_keeps (·.unseen) (fun _ _ _ _ h => (translate_shape h).1) _ _ _ _ _ _ h

/-- The parts of an access within the address space lie below the scratchpads' places. -/
theorem accessParts_lt (hn : va + n ≤ 2 ^ 48) (h : accessParts s asid kl k va n = .ok (ps, t)) {p : Part} (hp : p ∈ ps) : p.dpa + p.len < 2 ^ 64 := by
  have := partsWith_dpa_le (fun _ _ _ _ h => translate_dpa_lt h) _ _ _ _ _ _ h p hp
  omega

/-- An access that is one part is that part. -/
theorem accessParts_single {p : Part} (h : accessParts s asid kl k va n = .ok ([p], t)) : p.len = n := by
  by_cases hn : n = 0
  · subst hn
    cases (partsWith_nil h).1
  · obtain ⟨x, s1, q, -, h2, hps⟩ := partsWith_succ hn h
    obtain ⟨rfl, rfl⟩ := List.cons.inj hps
    by_cases hrest : n - min n (4096 - va % 4096) = 0
    · dsimp only
      omega
    · obtain ⟨y, s2, q, -, -, hq⟩ := partsWith_succ hrest h2
      cases hq

theorem SameButTlb.ctx (h : SameButTlb s t) : t.ctx = s.ctx := by
  rw [State.ctx, h.core, State.ctx]
  cases s.core.cur <;> rfl

theorem SameButTlb.cur (h : SameButTlb s t) : t.core.cur = s.core.cur := by rw [h.core]

theorem SameButTlb.me (h : SameButTlb s t) : t.me = s.me := by rw [State.me, h.cur, h.coreId, State.me]

theorem SameButTlb.readParts (h : SameButTlb s t) (ps : List Part) : readParts t ps = readParts s ps := by
  simp only [Machine.readParts, State.bytesAt, State.byteAt, h.mem]

theorem accessParts_settledAt (h : accessParts s asid kl k va n = .ok (ps, t)) {a m : Nat} (hs : s.settledAt a m) : t.settledAt a m := by
  have hb := accessParts_ok h
  exact ⟨hb.coreId ▸ hs.1, by rw [accessParts_unseen h, hb.me]; exact hs.2⟩

end Access

/-! ## Loads -/

section UseLines

variable (s : State) (ls : List Nat)

theorem State.useLines_keeps {α : Type} (g : State → α) (h : ∀ (t : State) d x, g (t.putDie d x) = g t) : g (s.useLines ls) = g s :=
  foldl_keeps g (fun _ _ => h _ _ _) ls s

theorem State.useL1_keeps {α : Type} (g : State → α) (h : ∀ (t : State) d x, g (t.putDie d x) = g t) : g (s.useL1 ls) = g s := by
  refine foldl_keeps g (fun t l => ?_) ls s
  dsimp only
  split
  · rfl
  · exact h _ _ _

@[simp] theorem State.useLines_mem : (s.useLines ls).mem = s.mem := s.useLines_keeps ls (·.mem) fun _ _ _ => rfl
@[simp] theorem State.useLines_core : (s.useLines ls).core = s.core := s.useLines_keeps ls (·.core) fun _ _ _ => rfl
@[simp] theorem State.useLines_coreId : (s.useLines ls).coreId = s.coreId := s.useLines_keeps ls (·.coreId) fun _ _ _ => rfl
@[simp] theorem State.useLines_unseen : (s.useLines ls).unseen = s.unseen := s.useLines_keeps ls (·.unseen) fun _ _ _ => rfl
@[simp] theorem State.useL1_mem : (s.useL1 ls).mem = s.mem := s.useL1_keeps ls (·.mem) fun _ _ _ => rfl
@[simp] theorem State.useL1_core : (s.useL1 ls).core = s.core := s.useL1_keeps ls (·.core) fun _ _ _ => rfl
@[simp] theorem State.useL1_coreId : (s.useL1 ls).coreId = s.coreId := s.useL1_keeps ls (·.coreId) fun _ _ _ => rfl
@[simp] theorem State.useL1_unseen : (s.useL1 ls).unseen = s.unseen := s.useL1_keeps ls (·.unseen) fun _ _ _ => rfl

end UseLines

theorem State.ctx_of_core {s t : State} (h : t.core = s.core) : t.ctx = s.ctx := by rw [State.ctx, h, State.ctx]

section LoadParts

variable (s : State) (k : LoadKind) (m : Nat) (ps : List Part)

theorem State.loadParts_keeps {α : Type} (g : State → α) (hd : ∀ (t : State) d x, g (t.putDie d x) = g t) (hv : ∀ t, SameButViews s t → g t = g s) :
    g (s.loadParts k m ps).2 = g s := by
  simp only [State.loadParts]
  split
  · exact hv _ (SameButViews.readView _ _ _ _ _)
  · exact (State.useL1_keeps _ _ g hd).trans ((State.useLines_keeps _ _ g hd).trans (hv _ (SameButViews.readView _ _ _ _ _)))

@[simp] theorem State.loadParts_mem : (s.loadParts k m ps).2.mem = s.mem := s.loadParts_keeps k m ps (·.mem) (fun _ _ _ => rfl) fun _ h => h.mem
@[simp] theorem State.loadParts_core : (s.loadParts k m ps).2.core = s.core := s.loadParts_keeps k m ps (·.core) (fun _ _ _ => rfl) fun _ h => h.core
@[simp] theorem State.loadParts_coreId : (s.loadParts k m ps).2.coreId = s.coreId := s.loadParts_keeps k m ps (·.coreId) (fun _ _ _ => rfl) fun _ h => h.coreId
@[simp] theorem State.loadParts_ctx : (s.loadParts k m ps).2.ctx = s.ctx := State.ctx_of_core (s.loadParts_core k m ps)

theorem State.loadParts_unseen : (s.loadParts k m ps).2.unseen = (readView s s.me k.reach m ps).2.unseen := by
  simp only [State.loadParts]
  split
  · rfl
  · simp

variable {s k m ps}

theorem State.loadParts_settled (hm : 0 < m) (hp : ∀ p ∈ ps, p.dpa + p.len < 2 ^ 64) (h : s.settled ps) : (s.loadParts k m ps).1 = readParts s ps :=
  readView_settled k.reach rfl hm hp h

end LoadParts

theorem State.waiting_putCtx (s : State) (x : Ctx) (w : Wait) : (s.putCtx { x with waiting := some w }).ctx.waiting = some w := by simp

/-! ## The scalar forms -/

theorem eaFlt_none {a : Word} {n : Nat} (h : a.toNat + n ≤ 2 ^ 48) : eaFlt a n = none := if_neg (not_lt.2 h)

theorem eaFlt_some {a : Word} {n : Nat} (h : 2 ^ 48 < a.toNat + n) : eaFlt a n = some ⟨cPagePermission, 0x03, a.toNat⟩ := if_pos h

theorem fltTrap_scalar (c : BitVec 5) (k : Nat) (a : Word) (w : Bool) :
    fltTrap ⟨c, k, a.toNat⟩ scalarLane w = ⟨c, some (BitVec.ofNat 64 k), some a, some (if w then 0x1FFFF else 0xFFFF), none⟩ := by
  cases w <;> simp [fltTrap]

section Scalar

variable {s t : State} {q : Nat} {a : Word} {k : LoadKind} {done : State → Word → State} {ps : List Part}

theorem loadAt_ok (hn : a.toNat + widthBytes q ≤ 2 ^ 48) (hal : k.reach.isSome = true → a.toNat % widthBytes q = 0)
    (hacc : accessParts s s.curAsid s.kLevel .read a.toNat (widthBytes q) = .ok (ps, t)) (hw : k = .nt ∨ t.waitsWay ps = false) :
    loadAt s q a k done = .next (done (t.loadParts k (unitOfAccess a.toNat (widthBytes q)) ps).2 (extendLoad q (leNat (t.loadParts k (unitOfAccess a.toNat (widthBytes q)) ps).1))) := by
  have h1 : ¬ (k.reach.isSome && decide (a.toNat % widthBytes q ≠ 0)) = true := by
    simp only [Bool.and_eq_true, decide_eq_true_eq, not_and, not_not]
    exact hal
  have h2 : ¬ (decide (k ≠ .nt) && t.waitsWay ps) = true := by
    rcases hw with rfl | hw
    · simp
    · simp [hw]
  simp only [loadAt, eaFlt_none hn, if_neg h1, hacc, if_neg h2]

theorem loadAt_waits (hn : a.toNat + widthBytes q ≤ 2 ^ 48) (hal : k.reach = none)
    (hacc : accessParts s s.curAsid s.kLevel .read a.toNat (widthBytes q) = .ok (ps, t)) (hk : k ≠ .nt) (hw : t.waitsWay ps = true) :
    loadAt s q a k done = .block .storage t := by
  simp [loadAt, eaFlt_none hn, hal, hacc, hk, hw]

theorem loadAt_misaligned (hn : a.toNat + widthBytes q ≤ 2 ^ 48) (hk : k.reach.isSome = true) (hal : a.toNat % widthBytes q ≠ 0) :
    loadAt s q a k done = .trap ⟨cAlign, some 1, some a, some 0xFFFF, none⟩ s := by
  have h1 : (k.reach.isSome && decide (a.toNat % widthBytes q ≠ 0)) = true := by simp [hk, hal]
  simp only [loadAt, eaFlt_none hn, if_pos h1, scalarTrap, alignFlt, fltTrap_scalar]
  rfl

theorem loadAt_past (hn : 2 ^ 48 < a.toNat + widthBytes q) : loadAt s q a k done = .trap ⟨cPagePermission, some 3, some a, some 0xFFFF, none⟩ s := by
  simp only [loadAt, eaFlt_some hn, scalarTrap, fltTrap_scalar]
  rfl

end Scalar

theorem State.addr_eq (s : State) (o : Ops) : s.addr o = s.getS o.a + o.imm.signExtend 64 := rfl

theorem State.addrX_eq (s : State) (o : Ops) :
    s.addrX o = s.getS o.a + BitVec.ofNat 64 ((s.getS o.b).toNat * widthBytes o.q.toNat) + o.imm.signExtend 64 := by
  rw [State.addrX, BitVec.ofNat_mul, BitVec.ofNat_toNat, BitVec.setWidth_eq]
  rfl

/-- The trap of a store that passes the end of the address space. -/
def storePast (a : Word) : TrapInfo := ⟨cPagePermission, some 3, some a, some 0x1FFFF, none⟩

section Past

variable {s : State} {a : Word}

theorem storeAt_past {q : Nat} {w : Word} (hn : 2 ^ 48 < a.toNat + widthBytes q) : storeAt s q a w = .trap (storePast a) s := by
  simp only [storeAt, eaFlt_some hn, scalarTrap, fltTrap_scalar]
  rfl

theorem storeRel_past {q scope : Nat} {w : Word} (hn : 2 ^ 48 < a.toNat + widthBytes q) : storeRel s q scope a w = .trap (storePast a) s := by
  simp only [storeRel, eaFlt_some hn, scalarTrap, fltTrap_scalar]
  rfl

theorem storeNt_past {o : Ops} (hn : 2 ^ 48 < (s.addr o).toNat + widthBytes o.q.toNat) : storeNt s o = .trap (storePast (s.addr o)) s := by
  simp only [storeNt, eaFlt_some hn, scalarTrap, fltTrap_scalar]
  rfl

end Past

theorem State.ctx_pc_loadParts {s t : State} (h : SameButTlb s t) (k : LoadKind) (m : Nat) (ps : List Part) : (t.loadParts k m ps).2.ctx.pc = s.ctx.pc := by
  rw [State.loadParts_ctx, h.ctx]

theorem unitOfAccess_pos {a n : Nat} : 0 < unitOfAccess a n := by
  unfold unitOfAccess
  split
  · rename_i h
    simp only [Bool.and_eq_true, Bool.or_eq_true, decide_eq_true_eq] at h
    omega
  · exact Nat.one_pos

/-- Settles O15: each load is one access at its address; where the executing context can miss no store to its bytes, the walk over the stores misses none. -/
theorem loadResults : Obligations.LoadResults := by
  refine ⟨?loads, ?past⟩
  case loads =>
    intro o s h n a x seen
    have hloads : ∀ {y : Word} {k : LoadKind} {ps : List Part} {t : State}, y.toNat + n ≤ 2 ^ 48 → (k.reach.isSome = true → y.toNat % n = 0) →
        accessParts s s.curAsid s.kLevel .read y.toNat n = .ok (ps, t) → (k = .nt ∨ t.waitsWay ps = false) →
        ∀ body : State → Eff, body s = loadAt s o.q.toNat y k (fun u w => u.setS o.d w) → runInstr o body s = seen k y t ps :=
      fun hn hal hacc hw body hb => runInstr_status h (hb.trans (loadAt_ok hn hal hacc hw)) (State.ctx_pc_loadParts (accessParts_ok hacc) _ _ _)
    refine ⟨?based, ?indexed, ?misaligned⟩
    case based =>
      intro ps t hn hacc
      have htlb := accessParts_ok hacc
      refine ⟨fun k m => ⟨?_, ?_, fun hm hs => ?_⟩, ?_, fun hw => ⟨?_, fun hal => ?_⟩, fun hw => ?_⟩
      · rw [State.loadParts_mem, htlb.mem]
      · rw [State.loadParts_ctx, htlb.ctx]
      · rw [State.loadParts_settled hm (fun p hp => accessParts_lt hn hacc hp) hs, htlb.readParts]
      · exact (hloads hn (by simp [LoadKind.reach]) hacc (.inl rfl) _ rfl : execLdnt o s = _)
      · exact (hloads hn (by simp [LoadKind.reach]) hacc (.inr hw) _ rfl : execLd o s = _)
      · exact (hloads hn (fun _ => hal) hacc (.inr hw) _ rfl : execLdacq o s = _)
      · refine ⟨_, (runInstr_block h (loadAt_waits hn rfl hacc (by simp) hw) : execLd o s = _), ?_⟩
        simp [htlb.ctx, htlb.mem]
    case indexed =>
      intro ps t hn hacc hw
      exact (hloads (k := .plain) hn (fun hc => absurd hc Bool.false_ne_true) hacc (.inr hw) _
        (congrArg (fun y => loadAt s o.q.toNat y .plain _) (State.addrX_eq s o)) : execLdx o s = _)
    case misaligned => exact fun hn hal => (runInstr_trap h (loadAt_misaligned hn rfl hal) : execLdacq o s = _)
  case past =>
    intro o s h n a hn
    have hload : ∀ k, runInstr o (fun t => loadAt t o.q.toNat (t.addr o) k (fun u w => u.setS o.d w)) s = _ := fun k => runInstr_trap h (loadAt_past hn)
    refine ⟨?_, ?_⟩
    · rintro i (rfl | rfl | rfl)
      · exact (hload .plain : execLd o s = _)
      · exact (hload .nt : execLdnt o s = _)
      · exact (hload (.acq (scopeReach o.m.toNat)) : execLdacq o s = _)
    · rintro i (rfl | rfl | rfl)
      · exact (runInstr_trap h (storeAt_past hn) : execSt o s = _)
      · exact (runInstr_trap h (storeNt_past hn) : execStnt o s = _)
      · exact (runInstr_trap h (storeRel_past hn) : execStrel o s = _)

end Sys2Proof.Machine
end

section
/-! PROOFS. Stores, signals and atomics of the executing context (R208, R214 to R218, R290 to R293). -/

namespace Sys2Proof.Machine

/-! ## Stores with an order -/

/-- The stores of an ordered access noted. -/
def State.noteOrdered (s : State) (q seq rel : Nat) (chain : Bool) (ps : List Part) : State :=
  ps.foldl (fun (t : State) x => (t.settleSo q x.kind).noteLast { newStore q seq (orderedKind x.kind) x.len none with rel := rel, chain := chain } x.dpa x.len) s

theorem State.storeOrdered_eq (s : State) (q rel : Nat) (chain : Bool) (ps : List Part) (bs : List Byte) :
    s.storeOrdered q rel chain ps bs =
      storeParts ((if 0 < rel then s.orderOwn q 1 else s).noteOrdered q (if 0 < rel then s.orderOwn q 1 else s).nextSeq rel chain ps) ps bs := rfl

theorem SameButViews.noteOrdered (s : State) (q seq rel : Nat) (chain : Bool) (ps : List Part) : SameButViews s (s.noteOrdered q seq rel chain ps) :=
  SameButViews.foldl (f := fun (t : State) (x : Part) => (t.settleSo q x.kind).noteLast { newStore q seq (orderedKind x.kind) x.len none with rel := rel, chain := chain } x.dpa x.len)
    (fun t x => (SameButViews.settleSo t q x.kind).trans (SameButViews.noteLast _ _ _ _)) ps s

theorem SameButViews.ordered (s : State) (q rel : Nat) : SameButViews s (if 0 < rel then s.orderOwn q 1 else s) := by
  split
  · exact SameButViews.orderOwn _ _ _
  · exact SameButViews.refl s

section StoreOrdered

variable (s : State) (q rel : Nat) (chain : Bool) (ps : List Part) (bs : List Byte)

theorem State.storeOrdered_mem : (s.storeOrdered q rel chain ps bs).mem = (storeParts s ps bs).mem := by
  rw [State.storeOrdered_eq]
  exact storeParts_mem_congr _ _ ((SameButViews.ordered s q rel).trans (SameButViews.noteOrdered _ _ _ _ _ _)).mem

@[simp] theorem State.storeOrdered_core : (s.storeOrdered q rel chain ps bs).core = s.core := by
  rw [State.storeOrdered_eq, storeParts_core, ((SameButViews.ordered s q rel).trans (SameButViews.noteOrdered _ _ _ _ _ _)).core]

@[simp] theorem State.storeOrdered_coreId : (s.storeOrdered q rel chain ps bs).coreId = s.coreId := by
  rw [State.storeOrdered_eq, storeParts_coreId, ((SameButViews.ordered s q rel).trans (SameButViews.noteOrdered _ _ _ _ _ _)).coreId]

end StoreOrdered

theorem State.mem_settleSo {s : State} {p k : Nat} {e : Unseen} (h : e ∈ (s.settleSo p k).unseen) : ∃ f ∈ s.unseen, e.party = f.party ∧ e.seq = f.seq ∧ e.ord = f.ord := by
  unfold State.settleSo at h
  split at h
  · have h := mem_pruned h
    obtain ⟨f, hf, rfl⟩ := List.mem_map.1 h
    refine ⟨f, hf, ?_⟩
    split <;> exact ⟨rfl, rfl, rfl⟩
  · exact ⟨e, h, rfl, rfl, rfl⟩

/-- The store of an ordered access stands first in the list of those that may be missed, and as a release covers each earlier one of its party (R126, R128). -/
theorem State.storeOrdered_unseen (s : State) (q rel : Nat) (chain : Bool) {x : Part} (bs : List Byte) (hx : x.len ≠ 0) :
    ∃ r rest, (s.storeOrdered q rel chain [x] bs).unseen = r :: rest ∧ r.party = q ∧ r.addr = x.dpa ∧ r.len = x.len ∧ r.rel = rel ∧ r.chain = chain ∧
      ∀ e ∈ rest, e.party = q → r.covers e = true ∧ (0 < rel → 1 ≤ e.ord) := by
  set u := if 0 < rel then s.orderOwn q 1 else s with hu
  refine ⟨{ newStore q u.nextSeq (orderedKind x.kind) x.len none with rel := rel, chain := chain, addr := x.dpa, len := x.len, old := (u.settleSo q x.kind).cells x.dpa x.len },
    (u.settleSo q x.kind).unseen, ?_, rfl, rfl, rfl, rfl, rfl, fun e he hp => ?_⟩
  · rw [State.storeOrdered_eq, storeParts_unseen, State.noteOrdered, List.foldl_cons, List.foldl_nil, State.noteLast, if_neg hx]
  · obtain ⟨f, hf, hpf, hsf, hof⟩ := State.mem_settleSo he
    refine ⟨?_, fun hrel => ?_⟩
    · have := State.lt_nextSeq hf
      simp [Unseen.covers, newStore, hp, hsf, this]
    · rw [hu, if_pos hrel] at hf
      obtain ⟨g, -, rfl⟩ := List.mem_map.1 hf
      rw [hof]
      have hg : g.party = q := by
        rw [hp] at hpf
        revert hpf
        split
        · exact fun _ => ‹_›
        · exact Eq.symm
      rw [if_pos hg]
      exact le_max_right _ _

/-! ## Plain stores -/

section Stores

variable {s t : State} {ps : List Part}

theorem storeAt_ok {q : Nat} {a w : Word} (hn : a.toNat + widthBytes q ≤ 2 ^ 48) (hacc : accessParts s s.curAsid s.kLevel .write a.toNat (widthBytes q) = .ok (ps, t))
    (hw : t.waitsWay ps = false) :
    storeAt s q a w = .next (t.plainStore true t.me t.nextSeq (unitOfAccess a.toNat (widthBytes q)) ps (leBytes (widthBytes q) w.toNat)) := by
  have hlen : (leBytes (widthBytes q) w.toNat).length = widthBytes q := leBytes_length _ _
  simp only [storeAt, eaFlt_none hn, State.writeVa, hlen, hacc, hw]
  rfl

theorem storeRel_ok {q scope : Nat} {a w : Word} (hn : a.toNat + widthBytes q ≤ 2 ^ 48) (hal : a.toNat % widthBytes q = 0)
    (hacc : accessParts s s.curAsid s.kLevel .write a.toNat (widthBytes q) = .ok (ps, t)) (hw : t.waitsWay ps = false) :
    storeRel s q scope a w = .next (t.storeOrdered t.me (scopeReach scope) false ps (leBytes (widthBytes q) w.toNat)) := by
  simp [storeRel, eaFlt_none hn, hal, hacc, hw]

end Stores

theorem widthBytes_pos (q : Nat) : 0 < widthBytes q := by
  unfold widthBytes
  split <;> decide

/-- One part stored: each byte of it is the one stored there. -/
theorem State.byteAt_storePart {s : State} {p : Part} {bs : List Byte} (h : bs.length = p.len) {k : Nat} (hk : k < p.len) :
    (storeParts s [p] bs).byteAt (p.dpa + k) = bs.getD k 0 := by
  rw [storeParts, storeParts, State.byteAt_dirtyLines, State.byteAt_pokeBytes, List.take_of_length_le h.le, if_pos (by omega), Nat.add_sub_cancel_left]

/-- What an instruction leaves of the executing context when it changed nothing of the core but its TLB. -/
theorem goTo_frame {s t u : State} (h : SameButTlb s t) (hc : u.core = t.core) (pc : Word) :
    (u.goTo pc).ctx.pc = pc ∧ (u.goTo pc).ctx.s = s.ctx.s ∧ (u.goTo pc).ctx.v = s.ctx.v ∧ (u.goTo pc).ctx.p = s.ctx.p ∧ (u.goTo pc).core.flags = s.core.flags := by
  have hx : u.ctx = s.ctx := (State.ctx_of_core hc).trans h.ctx
  have hf : u.core.flags = s.core.flags := by rw [hc, h.core]
  simp [hx, hf]

theorem getD_leBytes (w : Word) {n k : Nat} (h : k < n) (d : Byte) : (leBytes n w.toNat).getD k d = w.extractLsb' (8 * k) 8 := by
  rw [leBytes_getD h]
  apply BitVec.eq_of_toNat_eq
  rw [BitVec.extractLsb'_toNat, BitVec.toNat_ofNat, Nat.shiftRight_eq_div_pow]

section StoreResults

variable {s t : State} {ps : List Part} {asid : BitVec 9} {kl : Bool} {va n : Nat}

/-- A plain store of the executing context over the parts of an access (R208). -/
theorem plainStore_results (hacc : accessParts s asid kl .write va n = .ok (ps, t)) (w : Word) (m : Nat) :
    let u := t.plainStore true t.me t.nextSeq m ps (leBytes n w.toNat)
    u.core = t.core ∧ (∀ x, (∀ p ∈ ps, x < p.dpa ∨ p.dpa + p.len ≤ x) → u.byteAt x = s.byteAt x) ∧
      (∀ p, ps = [p] → s.settledAt p.dpa n → ∀ k, k < n → u.byteAt (p.dpa + k) = w.extractLsb' (8 * k) 8) := by
  have htlb := accessParts_ok hacc
  refine ⟨State.plainStore_core _ _ _ _ _ _ _, fun x hx => ?_, ?_⟩
  · rw [State.byteAt_plainStore_of_not_mem _ _ _ _ _ _ _ hx, State.byteAt, htlb.mem, State.byteAt]
  · rintro p rfl hs k hk
    have hlen := accessParts_single hacc
    have hset := accessParts_settledAt hacc hs
    have hown : ∀ x ∈ [p], t.ownOnly t.me t.nextSeq x.dpa x.len := by
      intro x hx
      rw [List.mem_singleton.1 hx, hlen]
      exact hset.ownOnly _
    rw [State.byteAt, State.plainStore_mem (State.me_not_inv hset.1) hown, ← State.byteAt, State.byteAt_storePart (by rw [leBytes_length, hlen]) (by omega),
      getD_leBytes w hk]

/-- A store with release order over the parts of an access (R218). -/
theorem storeOrdered_results (hacc : accessParts s asid kl .write va n = .ok (ps, t)) (hn : n ≠ 0) (w : Word) (scope : Nat) :
    let u := t.storeOrdered t.me (scopeReach scope) false ps (leBytes n w.toNat)
    u.core = t.core ∧ (∀ x, (∀ p ∈ ps, x < p.dpa ∨ p.dpa + p.len ≤ x) → u.byteAt x = s.byteAt x) ∧
      (∀ p, ps = [p] → ∀ k, k < n → u.byteAt (p.dpa + k) = w.extractLsb' (8 * k) 8) ∧
      (∀ p, ps = [p] → ∃ r ∈ u.unseen, r.party = s.me ∧ r.addr = p.dpa ∧ r.len = n ∧ r.rel = scopeReach scope ∧
        ∀ e ∈ u.unseen, e.party = s.me → e = r ∨ (r.covers e = true ∧ 1 ≤ e.ord)) := by
  have htlb := accessParts_ok hacc
  refine ⟨State.storeOrdered_core _ _ _ _ _ _, fun x hx => ?_, ?_, ?_⟩
  · rw [State.byteAt, State.storeOrdered_mem, ← State.byteAt, State.byteAt_storeParts_of_not_mem _ _ _ hx, State.byteAt, htlb.mem, State.byteAt]
  · rintro p rfl k hk
    have hlen := accessParts_single hacc
    rw [State.byteAt, State.storeOrdered_mem, ← State.byteAt, State.byteAt_storePart (by rw [leBytes_length, hlen]) (by omega), getD_leBytes w hk]
  · rintro p rfl
    have hlen := accessParts_single hacc
    obtain ⟨r, rest, hu, hp, ha, hl, hr, -, hrest⟩ := t.storeOrdered_unseen t.me (scopeReach scope) false (x := p) (leBytes n w.toNat) (hlen ▸ hn)
    rw [htlb.me] at hp hu hrest
    rw [htlb.me, hu]
    refine ⟨r, List.mem_cons_self, hp, ha, hl.trans hlen, hr, fun e he hpe => ?_⟩
    rcases List.mem_cons.1 he with rfl | he
    · exact .inl rfl
    · obtain ⟨hc, ho⟩ := hrest e he hpe
      exact .inr ⟨hc, ho (scopeReach_pos scope)⟩

end StoreResults

/-- Settles O16: a plain store notes what it may pass and writes its parts; STREL writes them last, behind every earlier store of its context. -/
theorem storeResults : Obligations.StoreResults := by
  intro o s i a h n hi hal hn ps u hacc hw
  by_cases hrel : i = .strel o
  · subst hrel
    have ha : a = s.addr o := by
      rcases hi with ⟨-, ha⟩ | ⟨hi, -⟩
      · exact ha
      · cases hi
    subst ha
    obtain ⟨hcore, hout, hin, hlist⟩ := storeOrdered_results hacc (widthBytes_pos _).ne' (s.getS o.d) o.m.toNat
    have hexec : execStrel o s = _ := runInstr_next h (storeRel_ok hn (hal rfl) hacc hw) (by rw [State.ctx_of_core hcore, (accessParts_ok hacc).ctx])
    obtain ⟨hpc, hs, hv, hp, hf⟩ := goTo_frame (accessParts_ok hacc) hcore (s.nextPc o)
    exact ⟨_, hexec, hpc, hs, hv, hp, hf, hout, fun p hps _ => hin p hps, fun p hps _ => hlist p hps⟩
  · obtain ⟨hcore, hout, hin⟩ := plainStore_results hacc (s.getS o.d) (unitOfAccess a.toNat n)
    have hexec : exec i s = .next ((u.plainStore true u.me u.nextSeq (unitOfAccess a.toNat n) ps (leBytes n (s.getS o.d).toNat)).goTo (s.nextPc o)) := by
      have hstore := storeAt_ok (w := s.getS o.d) hn hacc hw
      have hpc : (u.plainStore true u.me u.nextSeq (unitOfAccess a.toNat n) ps (leBytes n (s.getS o.d).toNat)).ctx.pc = s.ctx.pc := by
        rw [State.ctx_of_core hcore, (accessParts_ok hacc).ctx]
      rcases hi with ⟨rfl | rfl, rfl⟩ | ⟨rfl, rfl⟩
      · exact (runInstr_next h hstore hpc : execSt o s = _)
      · exact absurd rfl hrel
      · exact (runInstr_next h ((congrArg (fun y => storeAt s o.q.toNat y (s.getS o.d)) (State.addrX_eq s o)).trans hstore) hpc : execStx o s = _)
    obtain ⟨hpc, hs, hv, hp, hf⟩ := goTo_frame (accessParts_ok hacc) hcore (s.nextPc o)
    exact ⟨_, hexec, hpc, hs, hv, hp, hf, hout, fun p hps hc => hin p hps (hc.resolve_left hrel), fun p hps hc => absurd hc hrel⟩

/-! ## Signals and atomics -/

/-- An atomic read-modify-write over the parts of an access (R123, R126, R128). -/
theorem writeAtomic_results (t : State) (acq : Option Nat) (rel : Nat) (ps : List Part) (bs : List Byte) :
    (t.writeAtomic t.me acq rel ps bs).mem = (storeParts t ps bs).mem ∧ (t.writeAtomic t.me acq rel ps bs).core = t.core ∧
      ∀ p, ps = [p] → p.len ≠ 0 → ∃ r ∈ (t.writeAtomic t.me acq rel ps bs).unseen, r.party = t.me ∧ r.addr = p.dpa ∧ r.len = p.len ∧ r.chain = true ∧ r.rel = rel ∧
        ∀ e ∈ (t.writeAtomic t.me acq rel ps bs).unseen, e.party = t.me → e = r ∨ r.covers e = true := by
  have hv := SameButViews.readAtomic t t.me acq ps
  refine ⟨?_, ?_, ?_⟩
  · rw [State.writeAtomic, State.storeOrdered_mem, storeParts_mem_congr _ _ hv.mem]
  · rw [State.writeAtomic, State.storeOrdered_core, hv.core]
  · rintro p rfl hp
    obtain ⟨r, rest, hu, hpar, ha, hl, hr, hc, hrest⟩ := (t.readAtomic t.me acq [p]).storeOrdered_unseen t.me rel true (x := p) bs hp
    rw [State.writeAtomic, hu]
    refine ⟨r, List.mem_cons_self, hpar, ha, hl, hc, hr, fun e he hpe => ?_⟩
    rcases List.mem_cons.1 he with rfl | he
    · exact .inl rfl
    · exact .inr (hrest e he hpe).1

section Signals

variable {s t : State} {a : Word} {write : Bool} {body : State → List Part → Eff} {ps : List Part}

theorem signalAt_ok (hn : a.toNat + 8 ≤ 2 ^ 48) (hal : a.toNat % 8 = 0) (hacc : accessParts s s.curAsid s.kLevel (if write then .write else .read) a.toNat 8 = .ok (ps, t))
    (hw : t.waitsWay ps = false) : signalAt s a write body = body t ps := by
  simp [signalAt, eaFlt_none hn, hal, hacc, hw]

theorem signalAt_misaligned (hn : a.toNat + 8 ≤ 2 ^ 48) (hal : a.toNat % 8 ≠ 0) :
    ∃ k, signalAt s a write body = .trap ⟨cSignalInvalid, some 0, some a, some k, none⟩ s := by
  refine ⟨if write then 0x1FFFF else 0xFFFF, ?_⟩
  simp only [signalAt, eaFlt_none hn, if_pos hal, scalarTrap, fltTrap_scalar]
  rfl

end Signals

/-- Settles O13. -/
theorem signalResults : Obligations.SignalResults := by
  intro o s h a old put
  refine ⟨fun hn hal => ⟨fun ps t hacc hw => ?write, fun ps t hacc hw => ?read⟩, fun hn hal => ?misaligned⟩
  case write =>
    intro new
    have htlb := accessParts_ok hacc
    have hupd : ∀ f : Word → Word, runInstr o (fun t => updateSignal t o f) s = put (new (f (old t ps))) (old t ps) := by
      intro f
      refine runInstr_status h (signalAt_ok (write := true) hn hal hacc hw) ?_
      rw [State.ctx_of_core (writeAtomic_results t _ _ _ _).2.1, htlb.ctx]
    refine ⟨fun w => ?_, (hupd (fun x => x - s.getS o.b) : _), (hupd (fun _ => s.getS o.b) : _)⟩
    obtain ⟨hmem, hcore, hlist⟩ := writeAtomic_results t none (scopeReach o.q.toNat) ps (leBytes 8 w.toNat)
    refine ⟨hmem, State.ctx_of_core hcore, ?_⟩
    rintro p rfl
    have hlen := accessParts_single hacc
    obtain ⟨r, hr, hp, ha, hl, -, hrel, hrest⟩ := hlist p rfl (by omega)
    exact ⟨r, hr, hp.trans htlb.me, ha, hl.trans hlen, hrel, fun e he hpe => hrest e he (hpe.trans htlb.me.symm)⟩
  case read =>
    intro r v
    have htlb := accessParts_ok hacc
    have hpc : r.2.ctx.pc = s.ctx.pc := by rw [State.loadParts_ctx, htlb.ctx]
    refine ⟨by rw [State.loadParts_mem, htlb.mem], fun hs => ?_, ?_, fun hle => ?_⟩
    · rw [show v = BitVec.ofNat 64 (leNat r.1) from rfl, State.loadParts_settled (by decide) (fun p hp => accessParts_lt hn hacc hp) hs]
    · exact (runInstr_status h (signalAt_ok (write := false) hn hal hacc hw) hpc : execSigwaitPoll o s = _)
    · refine (runInstr_status h ((signalAt_ok (write := false) hn hal hacc hw).trans (if_pos ?_)) hpc : execSigwait o s = _)
      exact BitVec.sle_iff_toInt_le.2 hle
  case misaligned =>
    rintro i (rfl | rfl | rfl | rfl)
    · obtain ⟨k, hk⟩ := signalAt_misaligned hn hal
      exact ⟨k, (runInstr_trap h hk : execSigdec o s = _)⟩
    · obtain ⟨k, hk⟩ := signalAt_misaligned hn hal
      exact ⟨k, (runInstr_trap h hk : execSigset o s = _)⟩
    · obtain ⟨k, hk⟩ := signalAt_misaligned hn hal
      exact ⟨k, (runInstr_trap h hk : execSigwait o s = _)⟩
    · obtain ⟨k, hk⟩ := signalAt_misaligned hn hal
      exact ⟨k, (runInstr_trap h hk : execSigwaitPoll o s = _)⟩

/-! ## Atomics -/

section Atomic

variable {o : Ops} {s t : State} {ps : List Part}

theorem atomBytes_eq (o : Ops) : atomBytes o = if o.m.getLsbD 0 then 4 else 8 := rfl

/-- The write of an atomic (R123, R128, R214). -/
theorem atomWrite_results (t : State) (o : Ops) (ps : List Part) (bs : List Byte) :
    (atomWrite t o ps bs).mem = (storeParts t ps bs).mem ∧ (atomWrite t o ps bs).core = t.core ∧
      (o.m.getLsbD 1 = true → o.m.getLsbD 2 = true → ∀ e ∈ (atomWrite t o ps bs).unseen, e.party = t.me → 3 ≤ e.ord) ∧
      ∀ p, ps = [p] → p.len ≠ 0 → ∃ r ∈ (atomWrite t o ps bs).unseen, r.party = t.me ∧ r.addr = p.dpa ∧ r.len = p.len ∧ r.chain = true ∧
        r.rel = (if o.m.getLsbD 2 then scopeReach o.q.toNat else 0) ∧ ∀ e ∈ (atomWrite t o ps bs).unseen, e.party = t.me → e = r ∨ r.covers e = true := by
  obtain ⟨hmem, hcore, hlist⟩ := writeAtomic_results t (if o.m.getLsbD 1 then some (scopeReach o.q.toNat) else none) (if o.m.getLsbD 2 then scopeReach o.q.toNat else 0) ps bs
  simp only [atomWrite]
  split
  · refine ⟨hmem, hcore, fun _ _ e he hp => ?_, ?_⟩
    · obtain ⟨f, -, rfl⟩ := List.mem_map.1 he
      have hf : f.party = t.me := by
        revert hp
        split <;> exact id
      rw [if_pos hf]
      exact le_max_right _ _
    · intro p hps hlen
      obtain ⟨r, hr, hp, ha, hl, hc, hrel, hrest⟩ := hlist p hps hlen
      refine ⟨{ r with ord := max r.ord 3 }, List.mem_map.2 ⟨r, hr, if_pos hp⟩, hp, ha, hl, hc, hrel, fun e he hpe => ?_⟩
      obtain ⟨f, hf, rfl⟩ := List.mem_map.1 he
      have hfp : f.party = t.me := by
        revert hpe
        split <;> exact id
      rw [if_pos hfp]
      rcases hrest f hf hfp with rfl | hcov
      · exact .inl rfl
      · exact .inr hcov
  · rename_i hno
    exact ⟨hmem, hcore, fun h1 h2 => absurd (by rw [h1, h2]; rfl) hno, hlist⟩

theorem casFail_results (t : State) (o : Ops) (ps : List Part) : (casFail t o ps).mem = t.mem ∧ (casFail t o ps).core = t.core :=
  have hv := SameButViews.readAtomic t t.me (if o.m.getLsbD 3 then some (scopeReach o.q.toNat) else none) ps
  ⟨hv.mem, hv.core⟩

/-- What an atomic leaves in S[D] of the old value (R215). -/
def atomOld (o : Ops) (signed : Bool) (x : Nat) : Word :=
  if atomBytes o = 8 then BitVec.ofNat 64 x else if signed then (BitVec.ofNat 32 x).signExtend 64 else BitVec.ofNat 64 x

/-- The steps of R215, once the address is aligned and translates. -/
theorem atomic_ok (hn : (s.addr o).toNat + atomBytes o ≤ 2 ^ 48) (hal : (s.addr o).toNat % atomBytes o = 0)
    (hacc : accessParts s s.curAsid s.kLevel .write (s.addr o).toNat (atomBytes o) = .ok (ps, t)) (hw : t.waitsWay ps = false) (x : AtomOp) {r : Option Nat × BitVec 16}
    (hr : x.op (8 * atomBytes o) (leNat (readParts t ps)) ((s.getS o.b).toNat % 2 ^ (8 * atomBytes o)) ((s.getS o.c).toNat % 2 ^ (8 * atomBytes o)) = r) {u : State}
    (hu : (match r.1 with | some new => atomWrite t o ps (leBytes (atomBytes o) new) | none => casFail t o ps) = u) :
    atomic s o x = .next ((u.setS o.d (atomOld o x.signed (leNat (readParts t ps)))).addFlags r.2) := by
  subst hr hu
  simp only [atomic, eaFlt_none hn, hal, hacc, hw, atomOld]
  rfl

end Atomic

theorem atomOld_plain (o : Ops) (x : Nat) : atomOld o false x = BitVec.ofNat 64 x := by
  unfold atomOld
  split <;> rfl

theorem atomOld_signed (o : Ops) (x : Nat) : atomOld o true x = if atomBytes o = 8 then BitVec.ofNat 64 x else (BitVec.ofNat 32 x).signExtend 64 := rfl

theorem State.addFlags_zero (s : State) : s.addFlags 0 = s := by
  simp [State.addFlags]

/-- Settles O20: the steps of R215 once for every atomic. -/
theorem atomicResults : Obligations.AtomicResults := by
  intro o s ps t h n a hn hal hacc hw x written b signed put plain wide
  have htlb := accessParts_ok hacc
  have hlen : ∀ p, ps = [p] → p.len = n := by
    rintro p rfl
    exact accessParts_single hacc
  have hpos : n ≠ 0 := by
    show (if o.m.getLsbD 0 then 4 else 8) ≠ 0
    split <;> decide
  have hcore : ∀ y, (written y).core = t.core := fun y => (atomWrite_results t o ps (leBytes n y)).2.1
  have hwrites : ∀ (y : Nat) (f : BitVec 16) (op : AtomOp), op.op (8 * n) x b ((s.getS o.c).toNat % 2 ^ (8 * n)) = (some y, f) →
      runInstr o (fun u => atomic u o op) s = put y (atomOld o op.signed x) f := by
    intro y f op hop
    refine runInstr_next h (atomic_ok hn hal hacc hw op hop rfl) ?_
    rw [State.addFlags_ctx, State.setS_pc, State.ctx_of_core (hcore y), htlb.ctx]
  have hplain : ∀ (y : Nat) (f : BitVec 16) (op : AtomOp), op.signed = false → op.op (8 * n) x b ((s.getS o.c).toNat % 2 ^ (8 * n)) = (some y, f) →
      runInstr o (fun u => atomic u o op) s = put y plain f := by
    intro y f op hsign hop
    rw [hwrites y f op hop, hsign, atomOld_plain]
  refine ⟨fun y => ?written, ?failMem, ?failCore, ?add, ?min, ?max, ?and, ?or, ?xor, ?minu, ?maxu, ?swap, ?cas, ?casNot, ?fadd⟩
  case written =>
    obtain ⟨hmem, hc, hord, hlist⟩ := atomWrite_results t o ps (leBytes n y)
    rw [htlb.me] at hord
    refine ⟨hmem, by rw [hc, storeParts_core], hord, fun p hps => ?_⟩
    obtain ⟨r, hr, hp, ha, hl, hch, hrel, hrest⟩ := hlist p hps (by rw [hlen p hps]; exact hpos)
    exact ⟨r, hr, hp.trans htlb.me, ha, hl.trans (hlen p hps), hch, hrel, fun e he hpe => hrest e he (hpe.trans htlb.me.symm)⟩
  case failMem => rw [(casFail_results t o ps).1, htlb.mem]
  case failCore => exact (casFail_results t o ps).2
  case add => exact (hwrites _ 0 (atomWrites (fun w a b => (a + b) % 2 ^ w) true) rfl : execAadd o s = _)
  case min => exact (hwrites _ 0 (atomWrites (fun w a b => if asSigned w b < asSigned w a then b else a) true) rfl : execAmin o s = _)
  case max => exact (hwrites _ 0 (atomWrites (fun w a b => if asSigned w a < asSigned w b then b else a) true) rfl : execAmax o s = _)
  case and => exact (hplain _ 0 (atomWrites (fun _ a b => a &&& b) false) rfl rfl : execAand o s = _)
  case or => exact (hplain _ 0 (atomWrites (fun _ a b => a ||| b) false) rfl rfl : execAor o s = _)
  case xor => exact (hplain _ 0 (atomWrites (fun _ a b => a ^^^ b) false) rfl rfl : execAxor o s = _)
  case minu => exact (hplain _ 0 (atomWrites (fun _ a b => Nat.min a b) false) rfl rfl : execAminu o s = _)
  case maxu => exact (hplain _ 0 (atomWrites (fun _ a b => Nat.max a b) false) rfl rfl : execAmaxu o s = _)
  case swap => exact (hplain _ 0 (atomWrites (fun _ _ b => b) false) rfl rfl : execAswp o s = _)
  case cas =>
    intro hx
    exact (hplain _ 0 ⟨fun _ old b c => (if old = b then some c else none, 0), false⟩ rfl (congrArg (·, 0) (if_pos hx)) : execAcas o s = _)
  case casNot =>
    intro hx
    have hrun : execAcas o s = _ := runInstr_next h (atomic_ok hn hal hacc hw ⟨fun _ old b c => (if old = b then some c else none, 0), false⟩
      (r := (none, 0)) (congrArg (·, 0) (if_neg hx)) rfl) ?_
    · rw [atomOld_plain, State.addFlags_zero] at hrun
      exact hrun
    · rw [State.addFlags_ctx, State.setS_pc, State.ctx_of_core (casFail_results t o ps).2, htlb.ctx]
  case fadd =>
    exact (hplain _ _ ⟨fun _ old b _ => let r := addVal fp32 0 (unpack fp32 old) (unpack fp32 b); (some r.1, r.2), false⟩ rfl rfl : execAfadd o s = _)

end Sys2Proof.Machine
end

section
/-! PROOFS. Lanes: what the vector and predicate constructors read at each lane (R364, R365). -/

namespace Sys2Proof

/-! ## Digits of a number written from a list -/

/-- Digit i of the number whose digits to a base are those of a list. -/
theorem foldr_digits_div_mod {α : Type} (g : α → Nat) (b : Nat) (l : List α) (h : ∀ x ∈ l, g x < b) (hb : 0 < b) (i : Nat) :
    l.foldr (fun x acc => g x + b * acc) 0 / b ^ i % b = (l.map g).getD i 0 := by
  induction l generalizing i with
  | nil => simp
  | cons x t ih =>
    have hx := h x List.mem_cons_self
    rw [List.foldr_cons]
    cases i with
    | zero => simp [Nat.mod_eq_of_lt hx]
    | succ i =>
      have ht := ih (fun y hy => h y (List.mem_cons_of_mem _ hy)) i
      rw [Nat.pow_succ', ← Nat.div_div_eq_div_mul, Nat.add_mul_div_left _ _ hb, Nat.div_eq_of_lt hx, Nat.zero_add, ht]
      simp

theorem getD_map_range (g : Nat → Nat) {n i : Nat} (h : i < n) : ((List.range n).map g).getD i 0 = g i := by
  simp [List.getD_eq_getElem?_getD, h]

namespace Machine

theorem lane_eq_of_toNat {v : VReg} {i : Nat} {x : BitVec 32} (h : v.toNat / 2 ^ (32 * i) % 2 ^ 32 = x.toNat) : lane v i = x := by
  apply BitVec.eq_of_toNat_eq
  rw [lane, BitVec.extractLsb'_toNat, Nat.shiftRight_eq_div_pow, h]

theorem lane_ofNat {n i : Nat} {x : BitVec 32} (hi : i < 256) (h : n / (2 ^ 32) ^ i % 2 ^ 32 = x.toNat) : lane (BitVec.ofNat 8192 n) i = x := by
  apply BitVec.eq_of_toNat_eq
  rw [lane, toNat_extractLsb'_ofNat (by omega), Nat.pow_mul, h]

/-- Lane i of the vector of a function. -/
@[simp] theorem lane_ofLanes (f : Nat → BitVec 32) {i : Nat} (h : i < 256) : lane (ofLanes f) i = f i := by
  refine lane_ofNat h ?_
  rw [foldr_digits_div_mod (fun i => (f i).toNat) (2 ^ 32) _ (fun x _ => (f x).isLt) (by decide), getD_map_range _ h]

/-- Lane i of the vector of a list. -/
theorem lane_ofLaneList (l : List (BitVec 32)) {i : Nat} (h : i < 256) : lane (ofLaneList l) i = l.getD i 0 := by
  refine lane_ofNat h ?_
  rw [foldr_digits_div_mod (fun x : BitVec 32 => x.toNat) (2 ^ 32) _ (fun x _ => x.isLt) (by decide)]
  simp only [List.getD_eq_getElem?_getD, List.getElem?_map]
  cases l[i]? <;> rfl

/-- Lane i of the predicate of a function. -/
@[simp] theorem getLsbD_ofPred (f : Nat → Bool) {i : Nat} (h : i < 256) : (ofPred f).getLsbD i = f i := by
  refine getLsbD_ofNat_of_div_mod h ?_
  rw [show (fun (i acc : Nat) => (if f i then 1 else 0) + 2 * acc) = fun i acc => (f i).toNat + 2 * acc from by
    funext i acc
    cases f i <;> rfl]
  rw [foldr_digits_div_mod (fun i => (f i).toNat) 2 _ (fun x _ => (f x).toNat_lt) (by decide), getD_map_range _ h]

theorem mem_maskLanes {m : PReg} {i : Nat} : i ∈ maskLanes m ↔ i < 256 ∧ m.getLsbD i = true := by
  simp [maskLanes]

theorem maskLanes_nodup (m : PReg) : (maskLanes m).Nodup := List.nodup_range.filter _

/-- Listed lanes put into a vector. -/
theorem lane_setLanes (v : VReg) (l : List (Nat × BitVec 32)) {i : Nat} (h : i < 256) :
    lane (setLanes v l) i = match l.find? (fun e => e.1 = i) with
      | some e => e.2
      | none => lane v i :=
  lane_ofLanes _ h

/-- What stands for a lane in a list of lanes and what belongs to each. -/
theorem find?_fst_of_mem {α : Type} {l : List (Nat × α)} (h : (l.map Prod.fst).Nodup) {e : Nat × α} (he : e ∈ l) : l.find? (fun x => x.1 = e.1) = some e := by
  induction l with
  | nil => cases he
  | cons x t ih =>
    rw [List.map_cons, List.nodup_cons] at h
    rcases List.mem_cons.1 he with rfl | he
    · simp
    · have hne : x.1 ≠ e.1 := fun hc => h.1 (hc ▸ List.mem_map_of_mem he)
      rw [List.find?_cons_of_neg (by simpa using hne)]
      exact ih h.2 he

theorem find?_fst_eq_none {α : Type} {l : List (Nat × α)} {i : Nat} (h : i ∉ l.map Prod.fst) : l.find? (fun x => x.1 = i) = none := by
  rw [List.find?_eq_none]
  intro e he hc
  exact h (of_decide_eq_true hc ▸ List.mem_map_of_mem he)

theorem find?_fst_isSome {α : Type} (l : List (Nat × α)) (i : Nat) : (l.find? (fun x => x.1 = i)).isSome = decide (i ∈ l.map Prod.fst) := by
  rw [Bool.eq_iff_iff, List.find?_isSome, decide_eq_true_eq, List.mem_map]
  simp

end Machine

end Sys2Proof
end

section
/-! PROOFS. Vector loads and stores, and gathers and scatters (R210, R211). -/

namespace Sys2Proof.Machine

/-- A vector form at an open core goes on with the state that its body leaves. -/
theorem runVec_next {o : Ops} {s t : State} (h : Open s) {body : State → Eff} (hb : body s = .next t) (hpc : t.ctx.pc = s.ctx.pc) :
    runVec o body s = .next (t.goTo (s.nextPc o)) := by
  rw [runVec_open _ h, hb, finish, State.nextPc_of_pc o hpc]

/-! ## The parts of lanes -/

section LaneParts

variable {s t : State} {k : Access} {addr : Nat → Nat} {lanes : List Nat} {l : List (Nat × List Part)}

/-- The first of the lanes, and the others. -/
theorem laneParts_cons {i : Nat} (h : laneParts s k addr (i :: lanes) = .ok (l, t)) :
    ∃ ps u r, addr i + 4 ≤ 2 ^ 48 ∧ accessParts s s.curAsid s.kLevel k (addr i) 4 = .ok (ps, u) ∧ laneParts u k addr lanes = .ok (r, t) ∧ l = (i, ps) :: r := by
  unfold laneParts at h
  dsimp only at h
  split at h
  · cases h
  · rename_i hlim
    split at h
    · cases h
    · split at h
      · cases h
      · rename_i ps u hacc
        split at h
        · cases h
        · rename_i r v hrest
          cases h
          exact ⟨ps, u, r, not_lt.1 hlim, hacc, hrest, rfl⟩

theorem laneParts_keys (h : laneParts s k addr lanes = .ok (l, t)) : l.map Prod.fst = lanes := by
  induction lanes generalizing s l with
  | nil => cases h; rfl
  | cons i r ih =>
    obtain ⟨ps, u, q, -, -, hrest, rfl⟩ := laneParts_cons h
    rw [List.map_cons, ih hrest]

theorem laneParts_tlb (h : laneParts s k addr lanes = .ok (l, t)) : SameButTlb s t := by
  induction lanes generalizing s l with
  | nil => cases h; exact SameButTlb.refl _
  | cons i r ih =>
    obtain ⟨ps, u, q, -, hacc, hrest, rfl⟩ := laneParts_cons h
    exact (accessParts_ok hacc).trans (ih hrest)

theorem laneParts_lt (h : laneParts s k addr lanes = .ok (l, t)) {e : Nat × List Part} (he : e ∈ l) {p : Part} (hp : p ∈ e.2) : p.dpa + p.len < 2 ^ 64 := by
  induction lanes generalizing s l with
  | nil => cases h; cases he
  | cons i r ih =>
    obtain ⟨ps, u, q, hlim, hacc, hrest, rfl⟩ := laneParts_cons h
    rcases List.mem_cons.1 he with rfl | he
    · exact accessParts_lt hlim hacc hp
    · exact ih hrest he

end LaneParts

/-! ## Loads -/

@[simp] theorem loadLaneParts_core (s : State) (l : List (Nat × List Part)) : (loadLaneParts s l).2.core = s.core := by
  induction l generalizing s with
  | nil => rfl
  | cons e t ih => exact (ih _).trans (State.loadParts_core _ _ _ _)

theorem State.loadParts_noMore (s : State) (k : LoadKind) (m : Nat) (ps : List Part) : NoMoreMissed s (s.loadParts k m ps).2 := by
  intro e he
  rw [State.loadParts_unseen] at he
  exact NoMoreMissed.readView s s.me k.reach m ps e he

theorem State.loadParts_settledAt {s : State} (k : LoadKind) (m : Nat) (ps : List Part) {a n : Nat} (h : s.settledAt a n) : (s.loadParts k m ps).2.settledAt a n := by
  refine ⟨(State.loadParts_coreId s k m ps).symm ▸ h.1, fun e he hm => ?_⟩
  obtain ⟨f, hf, hw⟩ := State.loadParts_noMore s k m ps e he
  rw [State.me, State.loadParts_core, State.loadParts_coreId] at hm
  by_contra hc
  have hno := h.2 f hf (hw.miss _ hm)
  rw [hw.stores _ _ (Bool.not_eq_false _ ▸ hc)] at hno
  cases hno

/-- The lanes of a vector load where none of their stores can be missed. -/
theorem loadLaneParts_settled {s : State} {l : List (Nat × List Part)} (hlt : ∀ e ∈ l, ∀ p ∈ e.2, p.dpa + p.len < 2 ^ 64) (h : ∀ e ∈ l, s.settled e.2) :
    (loadLaneParts s l).1 = l.map (fun e => (e.1, BitVec.ofNat 32 (leNat (readParts s e.2)))) := by
  induction l generalizing s with
  | nil => rfl
  | cons e t ih =>
    have hmem : ∀ ps, readParts (s.loadParts .plain 4 e.2).2 ps = readParts s ps := fun ps => by
      simp only [readParts, State.bytesAt, State.byteAt, State.loadParts_mem]
    have htail := ih (s := (s.loadParts .plain 4 e.2).2) (fun x hx => hlt x (List.mem_cons_of_mem _ hx))
      (fun x hx p hp => State.loadParts_settledAt _ _ _ (h x (List.mem_cons_of_mem _ hx) p hp))
    unfold loadLaneParts
    dsimp only
    rw [htail, State.loadParts_settled (by decide) (hlt e List.mem_cons_self) (h e List.mem_cons_self)]
    simp only [hmem, List.map_cons]

/-! ## Stores -/

section StoreLanes

variable (s : State) (v : VReg) (q seq : Nat)

/-- Lanes stored under a party and a number. -/
def State.storeLanesAs (l : List (Nat × List Part)) : State :=
  l.foldl (fun t e => t.plainStore true q seq 4 e.2 (leBytes 4 (lane v e.1).toNat)) s

theorem storeLaneParts_eq (l : List (Nat × List Part)) : storeLaneParts s v l = s.storeLanesAs v s.me s.nextSeq l := rfl

theorem State.storeLanesAs_core (l : List (Nat × List Part)) : (s.storeLanesAs v q seq l).core = s.core :=
  foldl_keeps (f := fun (t : State) (e : Nat × List Part) => t.plainStore true q seq 4 e.2 (leBytes 4 (lane v e.1).toNat)) (·.core) (fun _ _ => State.plainStore_core _ _ _ _ _ _ _) l s

variable {s v q seq}

/-- Where the context can miss no other store to them, the lanes stand as they were stored, in order. -/
theorem State.storeLanesAs_mem {l : List (Nat × List Part)} (h : ∀ e ∈ l, ∀ p ∈ e.2, isInvParty q = false ∧ s.ownOnly q seq p.dpa p.len) {u : State} (hu : s.mem = u.mem) :
    (s.storeLanesAs v q seq l).mem = (l.foldl (fun u e => storeParts u e.2 (leBytes 4 (lane v e.1).toNat)) u).mem := by
  induction l generalizing s u with
  | nil => exact hu
  | cons e t ih =>
    have he := h e List.mem_cons_self
    have hmem : (s.plainStore true q seq 4 e.2 (leBytes 4 (lane v e.1).toNat)).mem = (storeParts u e.2 (leBytes 4 (lane v e.1).toNat)).mem := by
      rw [← storeParts_mem_congr e.2 _ hu]
      rcases List.eq_nil_or_concat e.2 with hnil | ⟨r, p, hps⟩
      · rw [hnil]
        rfl
      · exact State.plainStore_mem (he p (by simp [hps])).1 (fun p hp => (he p hp).2)
    rw [State.storeLanesAs, List.foldl_cons, List.foldl_cons]
    refine ih (fun x hx p hp => ?_) hmem
    obtain ⟨hq, ho⟩ := h x (List.mem_cons_of_mem _ hx) p hp
    exact ⟨hq, State.plainStore_ownOnly hq (fun y hy => (he y hy).2) ho⟩

end StoreLanes

/-! ## The obligation -/

section Forms

variable {o : Ops} {s t : State} {addr : Nat → Nat} {l : List (Nat × List Part)}

theorem loadLanes_ok (hl : laneParts s .read addr (maskLanes (guardMask s.ctx o.g)) = .ok (l, t)) (hw : t.waitsWay (l.flatMap (·.2)) = false) :
    loadLanes s o addr = .next ((loadLaneParts t l).2.setV o.d (setLanes (s.getV o.d) (loadLaneParts t l).1)) := by
  have hv : (loadLaneParts t l).2.getV o.d = s.getV o.d := by
    rw [State.getV, State.ctx_of_core (loadLaneParts_core t l), (laneParts_tlb hl).ctx, State.getV]
  simp only [loadLanes, hl, hw, hv]
  rfl

theorem storeLanes_ok (hl : laneParts s .write addr (maskLanes (guardMask s.ctx o.g)) = .ok (l, t)) (hw : t.waitsWay (l.flatMap (·.2)) = false) :
    storeLanes s o addr = .next (storeLaneParts t (s.getV o.d) l) := by
  simp only [storeLanes, hl, hw]
  rfl

end Forms

/-- Settles O18. -/
theorem vectorMemoryResults : Obligations.VectorMemoryResults := by
  intro o s h m unit each free loaded stored
  have hload : ∀ {addr : Nat → Nat} {l : List (Nat × List Part)} {t : State}, laneParts s .read addr (maskLanes m) = .ok (l, t) → free l t →
      ∀ body : State → Eff, body s = loadLanes s o addr → ∃ v, loaded l t v ∧ runVec o body s = .next (((loadLaneParts t l).2.setV o.d v).goTo (s.nextPc o)) := by
    intro addr l t hl hw body hb
    have htlb := laneParts_tlb hl
    refine ⟨_, ⟨fun i hi => lane_setLanes _ _ hi, fun hs => ?_⟩, runVec_next h (hb.trans (loadLanes_ok hl hw)) ?_⟩
    · rw [loadLaneParts_settled (fun e he p hp => laneParts_lt hl he hp) hs]
      simp only [htlb.readParts]
    · rw [State.setV_ctx, Ctx.setV_pc, State.ctx_of_core (loadLaneParts_core t l), htlb.ctx]
  have hstore : ∀ {addr : Nat → Nat} {l : List (Nat × List Part)} {t : State}, laneParts s .write addr (maskLanes m) = .ok (l, t) → free l t →
      ∀ body : State → Eff, body s = storeLanes s o addr → runVec o body s = .next ((storeLaneParts t (s.getV o.d) l).goTo (s.nextPc o)) ∧ stored l t := by
    intro addr l t hl hw body hb
    refine ⟨runVec_next h (hb.trans (storeLanes_ok hl hw)) ?_, fun hs => ?_⟩
    · rw [storeLaneParts_eq, State.ctx_of_core (State.storeLanesAs_core _ _ _ _ _), (laneParts_tlb hl).ctx]
    · exact State.storeLanesAs_mem (fun e he p hp => ⟨State.me_not_inv (hs e he p hp).1, (hs e he p hp).ownOnly _⟩) rfl
  refine ⟨fun addr l t hl i => ?keys, fun hal l t hl hw => ?ldv, fun l t hl hw => ?ldg, fun hal l t hl hw => ?stv, fun l t hl hw => ?sct⟩
  case keys =>
    rw [find?_fst_isSome, laneParts_keys hl, Bool.eq_iff_iff]
    simp [mem_maskLanes]
  case ldv => exact (hload hl hw _ (if_pos hal) : ∃ v, loaded l t v ∧ execLdv o s = _)
  case ldg => exact (hload hl hw _ rfl : ∃ v, loaded l t v ∧ execLdg o s = _)
  case stv => exact (hstore hl hw _ (if_pos hal) : execStv o s = _ ∧ _)
  case sct => exact (hstore hl hw _ rfl : execSct o s = _ ∧ _)

end Sys2Proof.Machine
end

section
/-! PROOFS. The scratchpad: its bytes, the full bits, and the forms that load and store there (R120, R138, R142, R212). -/

namespace Sys2Proof.Machine

/-! ## Bytes of the scratchpad -/

/-- What a byte reads after bytes were put. -/
theorem get_spPut (bs : List Byte) (m : SMap Byte) (off x : Nat) :
    SMap.get 0 (spPut m off bs) x = if off ≤ x ∧ x < off + bs.length then bs.getD (x - off) 0 else SMap.get 0 m x := by
  induction bs generalizing m off with
  | nil => rw [spPut, if_neg (by simp)]
  | cons b t ih =>
    rw [spPut, ih, SMap.get_set]
    simp only [List.length_cons]
    by_cases hx : x = off
    · subst hx
      rw [if_neg (by omega), if_pos rfl, if_pos (by omega), Nat.sub_self]
      rfl
    · by_cases hin : off + 1 ≤ x ∧ x < off + 1 + t.length
      · rw [if_pos hin, if_pos (by omega), show x - off = (x - (off + 1)) + 1 by omega]
        rfl
      · rw [if_neg hin, if_neg hx, if_neg (by omega)]

@[simp] theorem Core.markSlots_spm (c : Core) (off n : Nat) : (c.markSlots off n).spm = c.spm := by unfold Core.markSlots; split <;> rfl
@[simp] theorem Core.markSlots_full (c : Core) (off n : Nat) : (c.markSlots off n).full = c.full := by unfold Core.markSlots; split <;> rfl
@[simp] theorem Core.markSlots_cur (c : Core) (off n : Nat) : (c.markSlots off n).cur = c.cur := by unfold Core.markSlots; split <;> rfl
@[simp] theorem Core.markSlots_ctxOf (c : Core) (off n : Nat) (v : CtxId) : (c.markSlots off n).ctxOf v = c.ctxOf v := by
  unfold Core.markSlots
  split
  · rfl
  · cases v <;> rfl

@[simp] theorem Core.spStore_spm (c : Core) (off : Nat) (bs : List Byte) : (c.spStore off bs).spm = spPut c.spm off bs := Core.markSlots_spm _ _ _
@[simp] theorem Core.spStore_full (c : Core) (off : Nat) (bs : List Byte) : (c.spStore off bs).full = c.full := Core.markSlots_full _ _ _
@[simp] theorem Core.spStore_cur (c : Core) (off : Nat) (bs : List Byte) : (c.spStore off bs).cur = c.cur := Core.markSlots_cur _ _ _
@[simp] theorem Core.spStore_ctxOf (c : Core) (off : Nat) (bs : List Byte) (v : CtxId) : (c.spStore off bs).ctxOf v = c.ctxOf v := by
  rw [Core.spStore, Core.markSlots_ctxOf]
  cases v <;> rfl

theorem spKey_onePlace {core off n : Nat} (h : off + n ≤ 0x400000) : OnePlace (spKey core off) n := by
  unfold OnePlace spKey
  omega

theorem State.cells_spKey {s : State} {core off n : Nat} (h : off + n ≤ 0x400000) : s.cells (spKey core off) n = s.core.spBytes off n := by
  have h1 : ¬ spKey core off < 2 ^ 64 := by unfold spKey; omega
  have h2 : 0 < n → spKey core off % 2 ^ 64 = off := by unfold spKey; omega
  rw [State.cells, if_neg h1]
  rcases Nat.eq_zero_or_pos n with rfl | hn
  · rfl
  · rw [h2 hn]

/-! ## Full bits -/

theorem get_foldl_set_const {α : Type} [DecidableEq α] (d b : α) (l : List Nat) (m : SMap α) (k : Nat) :
    SMap.get d (l.foldl (fun m g => SMap.set d m g b) m) k = if k ∈ l then b else SMap.get d m k := by
  induction l generalizing m with
  | nil => rw [List.foldl_nil, if_neg List.not_mem_nil]
  | cons g t ih =>
    rw [List.foldl_cons, ih, SMap.get_set]
    by_cases ht : k ∈ t
    · rw [if_pos ht, if_pos (List.mem_cons_of_mem _ ht)]
    · by_cases hg : k = g
      · rw [if_neg ht, if_pos hg, if_pos (hg ▸ List.mem_cons_self)]
      · rw [if_neg ht, if_neg hg, if_neg (fun hc => (List.mem_cons.1 hc).elim hg ht)]

theorem Core.get_setFull (c : Core) (gs : List Nat) (b : Bool) (g : Nat) : SMap.get false (c.setFull gs b).full g = if g ∈ gs then b else SMap.get false c.full g :=
  get_foldl_set_const false b gs c.full g

@[simp] theorem Core.setFull_ctxOf (c : Core) (gs : List Nat) (b : Bool) (v : CtxId) : (c.setFull gs b).ctxOf v = c.ctxOf v := by cases v <;> rfl

@[simp] theorem State.clearFull_core (s : State) (gs : List Nat) : (s.clearFull gs).core = s.core.setFull gs false := by
  rw [State.clearFull, State.forgetAll_core, State.putCore_core]

@[simp] theorem State.clearFull_mem (s : State) (gs : List Nat) : (s.clearFull gs).mem = s.mem := by
  rw [State.clearFull, State.forgetAll_mem, State.putCore_mem]

theorem State.ctx_of_ctxOf {s t : State} (hcur : t.core.cur = s.core.cur) (h : ∀ v, t.core.ctxOf v = s.core.ctxOf v) : t.ctx = s.ctx := by
  rw [State.ctx, h, hcur, State.ctx]

@[simp] theorem State.clearFull_ctx (s : State) (gs : List Nat) : (s.clearFull gs).ctx = s.ctx :=
  State.ctx_of_ctxOf (by rw [State.clearFull_core]; rfl) (fun v => by rw [State.clearFull_core, Core.setFull_ctxOf])

/-! ## Stores to the scratchpad -/

section SpWrite

variable (s : State) (p seq m off : Nat) (bs : List Byte)

/-- The bytes that stand in the scratchpad after a store of a party. -/
def State.spStands : List Byte := (s.noteStore (newStore p seq 0 m (s.cycleAt (spKey s.coreId off))) (spKey s.coreId off) bs).1

theorem State.spWrite_core : (s.spWrite p seq m off bs).core = s.core.spStore off (s.spStands p seq m off bs) := by
  rw [State.spWrite, State.putCore_core, (SameButViews.noteStore s _ _ _).core]
  rfl

@[simp] theorem State.spWrite_mem : (s.spWrite p seq m off bs).mem = s.mem := (SameButViews.noteStore s _ _ _).mem
@[simp] theorem State.spWrite_coreId : (s.spWrite p seq m off bs).coreId = s.coreId := (SameButViews.noteStore s _ _ _).coreId

@[simp] theorem State.spWrite_ctx : (s.spWrite p seq m off bs).ctx = s.ctx :=
  State.ctx_of_ctxOf (by rw [State.spWrite_core, Core.spStore_cur]) (fun v => by rw [State.spWrite_core, Core.spStore_ctxOf])

@[simp] theorem State.spWrite_full : (s.spWrite p seq m off bs).core.full = s.core.full := by rw [State.spWrite_core, Core.spStore_full]

/-- A store to the scratchpad changes its own bytes only. -/
theorem State.get_spWrite_of_not_mem {x : Nat} (h : x < off ∨ off + bs.length ≤ x) : SMap.get 0 (s.spWrite p seq m off bs).core.spm x = SMap.get 0 s.core.spm x := by
  have hlen : (s.spStands p seq m off bs).length ≤ bs.length := State.length_noteStore_le _ _ _ _
  rw [State.spWrite_core, Core.spStore_spm, get_spPut, if_neg (by omega)]

variable {s p seq m off bs}

theorem State.spStands_eq (hp : isInvParty p = false) (h : s.ownOnly p seq (spKey s.coreId off) bs.length) : s.spStands p seq m off bs = bs :=
  State.noteStore_fst (e := newStore p seq 0 m (s.cycleAt (spKey s.coreId off))) hp h

/-- Where its party can miss no other store, its bytes stand there. -/
theorem State.get_spWrite (hp : isInvParty p = false) (h : s.ownOnly p seq (spKey s.coreId off) bs.length) {k : Nat} (hk : k < bs.length) :
    SMap.get 0 (s.spWrite p seq m off bs).core.spm (off + k) = bs.getD k 0 := by
  rw [State.spWrite_core, Core.spStore_spm, State.spStands_eq hp h, get_spPut, if_pos (by omega), Nat.add_sub_cancel_left]

theorem State.spWrite_ownOnly (hp : isInvParty p = false) (h : s.ownOnly p seq (spKey s.coreId off) bs.length) {b k : Nat} (ho : s.ownOnly p seq b k) :
    (s.spWrite p seq m off bs).ownOnly p seq b k :=
  State.noteStore_ownOnly (e := newStore p seq 0 m (s.cycleAt (spKey s.coreId off))) hp h ho

end SpWrite

/-! ## Loads from the scratchpad -/

theorem State.spLoad_settled {s : State} {m off n : Nat} (hm : 0 < m) (hn : off + n ≤ 0x400000) (h : s.settledAt (spKey s.coreId off) n) :
    (s.spLoad s.me m off n).1 = s.core.spBytes off n := by
  rw [State.spLoad, State.loadIn_settled none rfl hm (spKey_onePlace hn) h, State.cells_spKey hn]

/-- The acquire that a load under a qualifier makes which finds every granule full. -/
def State.spAcquire (s : State) (o : Ops) (gs : List Nat) : State :=
  if (o.m.getLsbD 0 || o.m.getLsbD 1) && s.core.allFull gs then s.acquire s.core.cur 3 (s.fullKeys gs) else s

theorem State.spAcquire_views (s : State) (o : Ops) (gs : List Nat) : SameButViews s (s.spAcquire o gs) ∧ NoMoreMissed s (s.spAcquire o gs) := by
  unfold State.spAcquire
  split
  · exact ⟨SameButViews.acquireBy _ _ _ _, NoMoreMissed.acquireBy _ _ _ _⟩
  · exact ⟨SameButViews.refl s, NoMoreMissed.refl s⟩

/-- A load that does not wait. -/
theorem spLoad_ok {s : State} {o : Ops} {gs : List Nat} {done : State → State} (h : o.m.getLsbD 0 = false ∨ s.core.allFull gs = true) :
    spLoad s o gs done = .next (if o.m.getLsbD 1 then (done (s.spAcquire o gs)).clearFull gs else done (s.spAcquire o gs)) := by
  have hw : ¬ (o.m.getLsbD 0 && !s.core.allFull gs) = true := by
    rcases h with h | h
    · rw [h, Bool.false_and]
      exact Bool.false_ne_true
    · simp [h]
  simp only [spLoad, if_neg hw, State.spAcquire]

theorem spFlt_none {x n : Nat} (h : x + n ≤ 0x400000) : spFlt x n = none := if_neg (not_lt.2 h)

theorem spFlt_some {x n : Nat} (h : 0x400000 < x + n) : spFlt x n = some ⟨cScratchRange, 0x00, max x 0x400000⟩ := if_pos h

/-- What a load's clearing leaves: the core, but for the full bits that it clears. -/
theorem clearIf_results (t : State) (b : Bool) (gs : List Nat) :
    let u := if b then t.clearFull gs else t
    u.ctx = t.ctx ∧ u.core.spm = t.core.spm ∧ u.mem = t.mem ∧ ∀ g, SMap.get false u.core.full g = (SMap.get false t.core.full g && !(b && gs.contains g)) := by
  cases b with
  | false => simp
  | true =>
    refine ⟨State.clearFull_ctx t gs, by rw [if_pos rfl, State.clearFull_core]; rfl, State.clearFull_mem t gs, fun g => ?_⟩
    rw [if_pos rfl, State.clearFull_core, Core.get_setFull]
    by_cases hg : g ∈ gs <;> simp [hg]

/-! ## The vector forms -/

/-- Lanes put from a list of values. -/
theorem find?_zip_of_mem {ls : List Nat} (hls : ls.Nodup) {f : Nat → BitVec 32} {i : Nat} (hi : i ∈ ls) :
    (ls.map (fun i => (i, f i))).find? (fun e => e.1 = i) = some (i, f i) :=
  find?_fst_of_mem (e := (i, f i)) (by simpa [Function.comp_def] using hls) (List.mem_map_of_mem hi)

theorem map_zip_map {α β γ : Type} (f : β → γ) (g : α → β) (l : List α) : (l.zip (l.map g)).map (fun e => (e.1, f e.2)) = l.map (fun x => (x, f (g x))) := by
  induction l with
  | nil => rfl
  | cons x t ih => simp only [List.map_cons, List.zip_cons_cons, ih]

/-- Lanes stored one after another at offsets of the scratchpad. -/
def State.spWriteLanes (s : State) (p seq : Nat) (addr : Nat → Nat) (v : VReg) (ls : List Nat) : State :=
  ls.foldl (fun u i => u.spWrite p seq 4 (addr i) (leBytes 4 (lane v i).toNat)) s

section SpWriteLanes

variable {s : State} {p seq : Nat} {addr : Nat → Nat} {v : VReg}

theorem State.spWriteLanes_mem (ls : List Nat) : (s.spWriteLanes p seq addr v ls).mem = s.mem :=
  foldl_keeps (f := fun (u : State) i => u.spWrite p seq 4 (addr i) (leBytes 4 (lane v i).toNat)) (·.mem) (fun _ _ => State.spWrite_mem _ _ _ _ _ _) ls s

theorem State.spWriteLanes_ctx (ls : List Nat) : (s.spWriteLanes p seq addr v ls).ctx = s.ctx :=
  foldl_keeps (f := fun (u : State) i => u.spWrite p seq 4 (addr i) (leBytes 4 (lane v i).toNat)) (·.ctx) (fun _ _ => State.spWrite_ctx _ _ _ _ _ _) ls s

theorem State.spWriteLanes_of_not_mem {ls : List Nat} {x : Nat} (h : ∀ i ∈ ls, x < addr i ∨ addr i + 4 ≤ x) :
    SMap.get 0 (s.spWriteLanes p seq addr v ls).core.spm x = SMap.get 0 s.core.spm x := by
  induction ls generalizing s with
  | nil => rfl
  | cons i t ih =>
    rw [State.spWriteLanes, List.foldl_cons, ← State.spWriteLanes, ih (fun j hj => h j (List.mem_cons_of_mem _ hj)), State.get_spWrite_of_not_mem]
    rw [leBytes_length]
    exact h i List.mem_cons_self

/-- Each lane stands where it was stored when the lanes do not overlap. -/
theorem State.spWriteLanes_of_mem (hp : isInvParty p = false) {ls : List Nat} (hls : ls.Nodup) (hdis : ∀ i j, i ≠ j → addr i + 4 ≤ addr j ∨ addr j + 4 ≤ addr i)
    (ho : ∀ i ∈ ls, s.ownOnly p seq (spKey s.coreId (addr i)) 4) {i k : Nat} (hi : i ∈ ls) (hk : k < 4) :
    SMap.get 0 (s.spWriteLanes p seq addr v ls).core.spm (addr i + k) = (lane v i).extractLsb' (8 * k) 8 := by
  induction ls generalizing s with
  | nil => cases hi
  | cons j t ih =>
    obtain ⟨hj, ht⟩ := List.nodup_cons.1 hls
    have hown := ho j List.mem_cons_self
    rw [State.spWriteLanes, List.foldl_cons, ← State.spWriteLanes]
    rcases List.mem_cons.1 hi with rfl | hi
    · rw [State.spWriteLanes_of_not_mem, State.get_spWrite hp (by rw [leBytes_length]; exact hown) (by rw [leBytes_length]; exact hk), leBytes_getD hk]
      · apply BitVec.eq_of_toNat_eq
        rw [BitVec.extractLsb'_toNat, BitVec.toNat_ofNat, Nat.shiftRight_eq_div_pow]
      · intro l hl
        have hne : i ≠ l := fun hc => hj (hc ▸ hl)
        rcases hdis i l hne with h | h
        · exact .inl (by omega)
        · exact .inr (by omega)
    · refine ih ht (fun l hl => ?_) hi
      rw [State.spWrite_coreId]
      exact State.spWrite_ownOnly hp (by rw [leBytes_length]; exact hown) (ho l (List.mem_cons_of_mem _ hl))

end SpWriteLanes

/-! ## The obligation -/

theorem State.lookAll_length (s : State) (q : Nat) (acq : Option Nat) (us : List (Nat × Nat)) : (s.lookAll q acq us).1.length = us.length := by
  have key : ∀ (us : List (Nat × Nat)) (r : List (List Byte) × State), (us.foldl (fun r u => let x := r.2.look q acq u.1 u.2; (r.1 ++ [x.1], x.2)) r).1.length = r.1.length + us.length := by
    intro us
    induction us with
    | nil => exact fun r => rfl
    | cons u t ih =>
      intro r
      rw [List.foldl_cons, ih]
      simp only [List.length_append, List.length_cons, List.length_nil]
      omega
  exact (key us ([], s)).trans (Nat.zero_add _)

section Forms

variable {o : Ops} {s : State}

/-- SPLD, once its granules are full or it does not wait (R212). -/
theorem execSpld_ok (h : Ready o s) {a : Nat} (ha : (s.addr o).toNat = a) (hn : a + widthBytes o.q.toNat ≤ 0x400000)
    (hf : o.m.getLsbD 0 = false ∨ s.core.allFull (granules a (widthBytes o.q.toNat)) = true) :
    ∃ t, execSpld o s = .next t ∧ t.ctx.pc = s.nextPc o ∧
      (s.settledAt (spKey s.coreId a) (widthBytes o.q.toNat) → o.d ≠ 0 → t.getS o.d = extendLoad o.q.toNat (leNat (s.core.spBytes a (widthBytes o.q.toNat)))) ∧
      t.core.spm = s.core.spm ∧ t.mem = s.mem ∧
      ∀ g, SMap.get false t.core.full g = (SMap.get false s.core.full g && !(o.m.getLsbD 1 && (granules a (widthBytes o.q.toNat)).contains g)) := by
  subst ha
  set n := widthBytes o.q.toNat
  set a := (s.addr o).toNat
  set u := s.spAcquire o (granules a n)
  obtain ⟨hview, hmore⟩ : SameButViews s u ∧ NoMoreMissed s u := s.spAcquire_views o _
  set r := u.spLoad u.me (unitOfAccess a n) a n
  have hr : SameButViews s r.2 := hview.trans (SameButViews.loadIn _ _ _ _ _ _)
  set w := extendLoad o.q.toNat (leNat r.1)
  set v := if o.m.getLsbD 1 then (r.2.setS o.d w).clearFull (granules a n) else r.2.setS o.d w
  obtain ⟨hctx, hspm, hmem, hfull⟩ := clearIf_results (r.2.setS o.d w) (o.m.getLsbD 1) (granules a n)
  have hvctx : v.ctx = s.ctx.setS o.d.toNat w := by rw [hctx, State.setS_ctx, hr.ctx]
  have hexec : execSpld o s = .next (v.goTo (s.nextPc o)) := by
    refine runInstr_next h ?_ (by rw [hvctx, Ctx.setS_pc])
    simp only [show (s.addr o).toNat = a from rfl, show widthBytes o.q.toNat = n from rfl, spFlt_none hn]
    exact spLoad_ok hf
  refine ⟨_, hexec, by rw [State.goTo_ctx], fun hs hd => ?_, ?_, ?_, fun g => ?_⟩
  · have hbytes : r.1 = s.core.spBytes a n := by
      have hs' : u.settledAt (spKey u.coreId a) n := hview.coreId.symm ▸ hmore.settledAt hview hs
      rw [State.spLoad_settled unitOfAccess_pos hn hs', hview.core]
    have hd' : o.d.toNat ≠ 0 := fun hc => hd (BitVec.eq_of_toNat_eq hc)
    rw [State.getS_goTo, State.getS, hvctx, Ctx.getS_setS_self _ _ hd', ← hbytes]
  · rw [State.goTo_core, Core.putCtx_spm, hspm, State.setS_core, Core.putCtx_spm, hr.core]
  · rw [State.goTo_mem, hmem, State.setS_mem, hr.mem]
  · rw [State.goTo_core, Core.putCtx_full, hfull, State.setS_core, Core.putCtx_full, hr.core]

/-- SPST (R212). -/
theorem execSpst_ok (h : Ready o s) {a : Nat} (ha : (s.addr o).toNat = a) (hn : a + widthBytes o.q.toNat ≤ 0x400000) :
    execSpst o s = .next ((s.spWrite s.me s.nextSeq (unitOfAccess a (widthBytes o.q.toNat)) a (leBytes (widthBytes o.q.toNat) (s.getS o.d).toNat)).goTo (s.nextPc o)) := by
  subst ha
  refine runInstr_next h ?_ (by rw [State.spWrite_ctx])
  simp only [spFlt_none hn]

theorem execSpld_past (h : Ready o s) {a : Nat} (ha : (s.addr o).toNat = a) (hn : 0x400000 < a + widthBytes o.q.toNat) :
    execSpld o s = .next (s.trapA ⟨cScratchRange, some 0, some (BitVec.ofNat 64 (max a 0x400000)), some 0xFFFF, none⟩ o.form.bytes) := by
  subst ha
  refine runInstr_trap h ?_
  simp only [spFlt_some hn]
  rfl

theorem laneAddr_eq {a : Nat} (ha : (s.addr o).toNat = a) (i : Nat) : s.laneAddr o i = a + 4 * i := by rw [State.laneAddr, ha]

theorem spLaneFlt_none {a : Nat} (ha : (s.addr o).toNat = a) (hn : a + 1024 ≤ 0x400000) : spLaneFlt s o = none := by
  rw [spLaneFlt, List.findSome?_eq_none_iff]
  intro i hi
  have := (mem_maskLanes.1 hi).1
  rw [laneAddr_eq ha, spFlt_none (by omega)]
  rfl

/-- The places of lanes in the scratchpad. -/
def State.lanePlaces (s : State) (o : Ops) (ls : List Nat) : List (Nat × Nat) := ls.map (fun i => (spKey s.coreId (s.laneAddr o i), 4))

/-- SPLDV without .WAIT (R212). -/
theorem execSpldv_ok (h : Open s) {a : Nat} (ha : (s.addr o).toNat = a) (hal : a % 4 = 0) (hn : a + 1024 ≤ 0x400000) (hw : o.m.getLsbD 0 = false) :
    ∃ t v, execSpldv o s = .next t ∧ t.ctx = ((s.setV o.d v).goTo (s.nextPc o)).ctx ∧ t.mem = s.mem ∧ t.core.spm = s.core.spm ∧
      (∀ i, i < 256 → (guardMask s.ctx o.g).getLsbD i = false → lane v i = lane (s.getV o.d) i) ∧
      (s.settledAt (spKey s.coreId a) 1024 → ∀ i, i < 256 → (guardMask s.ctx o.g).getLsbD i = true → lane v i = BitVec.ofNat 32 (leNat (s.core.spBytes (a + 4 * i) 4))) := by
  set ls := maskLanes (guardMask s.ctx o.g) with hls
  set gs := ls.flatMap (fun i => granules (s.laneAddr o i) 4)
  set u := s.spAcquire o gs
  obtain ⟨hview, hmore⟩ : SameButViews s u ∧ NoMoreMissed s u := s.spAcquire_views o _
  set us := ls.map (fun i => (spKey u.coreId (s.laneAddr o i), 4))
  set r := u.lookAll u.me none us
  have hr : SameButViews s r.2 := hview.trans (SameButViews.lookAll _ _ _ _)
  set v := setLanes (s.getV o.d) ((ls.zip r.1).map (fun e => (e.1, BitVec.ofNat 32 (leNat e.2))))
  set t := if o.m.getLsbD 1 then (r.2.setV o.d v).clearFull gs else r.2.setV o.d v
  obtain ⟨hctx, hspm, hmem, -⟩ := clearIf_results (r.2.setV o.d v) (o.m.getLsbD 1) gs
  have htctx : t.ctx = (s.setV o.d v).ctx := by rw [hctx, State.setV_ctx, State.setV_ctx, hr.ctx]
  have hexec : execSpldv o s = .next (t.goTo (s.nextPc o)) := by
    refine runVec_next h ?_ (by rw [htctx, State.setV_ctx, Ctx.setV_pc])
    simp only [baseAligned, ha, hal, if_true, spLaneFlt_none ha hn]
    exact spLoad_ok (.inl hw)
  refine ⟨_, v, hexec, by rw [State.goTo_ctx, State.goTo_ctx, htctx], ?_, ?_, fun i hi hm => ?_, fun hs i hi hm => ?_⟩
  · rw [State.goTo_mem, hmem, State.setV_mem, hr.mem]
  · rw [State.goTo_core, Core.putCtx_spm, hspm, State.setV_core, Core.putCtx_spm, hr.core]
  · rw [lane_setLanes _ _ hi, find?_fst_eq_none]
    intro hc
    obtain ⟨e, he, rfl⟩ := List.mem_map.1 hc
    obtain ⟨x, hx, rfl⟩ := List.mem_map.1 he
    rw [(mem_maskLanes.1 (List.of_mem_zip hx).1).2] at hm
    cases hm
  · have hset : ∀ j, j < 256 → u.settledAt (spKey u.coreId (s.laneAddr o j)) 4 := by
      intro j hj
      rw [hview.coreId, laneAddr_eq ha]
      refine State.settledAt_of_le (hmore.settledAt hview hs) ?_ ?_ <;> unfold spKey <;> omega
    have hbytes : r.1 = ls.map (fun j => s.core.spBytes (a + 4 * j) 4) := by
      rw [State.lookAll_settled none rfl, List.map_map]
      · refine List.map_congr_left fun j hj => ?_
        have := (mem_maskLanes.1 hj).1
        rw [Function.comp_apply, laneAddr_eq ha, State.cells_spKey (by omega), hview.core]
      · intro x hx
        obtain ⟨j, hj, rfl⟩ := List.mem_map.1 hx
        exact hset j (mem_maskLanes.1 hj).1
    have hzip : (ls.zip r.1).map (fun e => (e.1, BitVec.ofNat 32 (leNat e.2))) = ls.map (fun j => (j, BitVec.ofNat 32 (leNat (s.core.spBytes (a + 4 * j) 4)))) := by
      rw [hbytes]
      exact map_zip_map (fun bs => BitVec.ofNat 32 (leNat bs)) (fun j => s.core.spBytes (a + 4 * j) 4) ls
    rw [lane_setLanes _ _ hi, hzip, find?_zip_of_mem (maskLanes_nodup _) (mem_maskLanes.2 ⟨hi, hm⟩)]

/-- SPSTV (R212). -/
theorem execSpstv_ok (h : Open s) {a : Nat} (ha : (s.addr o).toNat = a) (hal : a % 4 = 0) (hn : a + 1024 ≤ 0x400000) :
    execSpstv o s = .next ((s.spWriteLanes s.me s.nextSeq (s.laneAddr o) (s.getV o.d) (maskLanes (guardMask s.ctx o.g))).goTo (s.nextPc o)) := by
  refine runVec_next h ?_ (by rw [State.spWriteLanes_ctx])
  simp only [baseAligned, ha, hal, if_true, spLaneFlt_none ha hn]
  rfl

end Forms

/-- Settles O19. -/
theorem scratchpadResults : Obligations.ScratchpadResults := by
  intro o s n a byte
  have ha : (s.addr o).toNat = a := rfl
  refine ⟨fun h hn => ⟨fun hf => execSpld_ok h ha hn hf, ?store⟩, fun h hn => execSpld_past h ha hn, fun h hal hn => ⟨fun hw => execSpldv_ok h ha hal hn hw, ?storeLanes⟩⟩
  case store =>
    have hlen : (leBytes n (s.getS o.d).toNat).length = n := leBytes_length _ _
    refine ⟨_, execSpst_ok h ha hn, by rw [State.goTo_ctx], by rw [State.goTo_ctx, State.spWrite_ctx], by rw [State.goTo_mem, State.spWrite_mem],
      by rw [State.goTo_core, Core.putCtx_full, State.spWrite_full], fun hs k hk => ?_, fun x hx => ?_⟩
    · have hown : s.ownOnly s.me s.nextSeq (spKey s.coreId a) (leBytes n (s.getS o.d).toNat).length := by
        rw [hlen]
        exact hs.ownOnly _
      simp only [byte]
      rw [State.goTo_core, Core.putCtx_spm, State.get_spWrite (State.me_not_inv hs.1) hown (by rw [hlen]; exact hk), getD_leBytes _ hk]
    · simp only [byte]
      rw [State.goTo_core, Core.putCtx_spm, State.get_spWrite_of_not_mem _ _ _ _ _ _ (by rw [hlen]; exact hx)]
  case storeLanes =>
    refine ⟨_, execSpstv_ok h ha hal hn, by rw [State.goTo_ctx, State.goTo_ctx, State.spWriteLanes_ctx], by rw [State.goTo_mem, State.spWriteLanes_mem],
      fun i k hi hk hm => ?_, fun hs i k hi hk hm => ?_⟩
    · simp only [byte]
      rw [State.goTo_core, Core.putCtx_spm, State.spWriteLanes_of_not_mem]
      intro j hj
      have hne : j ≠ i := by
        rintro rfl
        rw [(mem_maskLanes.1 hj).2] at hm
        cases hm
      rw [laneAddr_eq ha]
      omega
    · simp only [byte]
      rw [State.goTo_core, Core.putCtx_spm, ← laneAddr_eq ha]
      refine State.spWriteLanes_of_mem (State.me_not_inv hs.1) (maskLanes_nodup _) (fun x y hxy => ?_) (fun j hj => ?_) (mem_maskLanes.2 ⟨hi, hm⟩) hk
      · rw [laneAddr_eq ha, laneAddr_eq ha]
        omega
      · have := (mem_maskLanes.1 hj).1
        rw [laneAddr_eq ha]
        exact (hs.ownOnly _).of_le (by unfold spKey; omega) (by unfold spKey; omega)

end Sys2Proof.Machine
end

section
/-! PROOFS. Barriers, the tag table of the scratchpad and the full bits (R134 to R139, R192 to R199). -/

namespace Sys2Proof.Machine

/-! ## Barrier words -/

theorem leNat_leBytes_word (w : Word) : BitVec.ofNat 64 (leNat (leBytes 8 w.toNat)) = w := by
  rw [leNat_leBytes, show 8 * 8 = 64 from rfl, Nat.mod_eq_of_lt w.isLt, BitVec.ofNat_toNat, BitVec.setWidth_eq]

/-- A barrier word reads as it was written. -/
theorem Core.barWord_putBar (c : Core) (off : Nat) (w : Word) : (c.putBar off w).barWord off = w := by
  have hbytes : (c.putBar off w).spBytes off 8 = leBytes 8 w.toNat := by
    refine List.ext_getElem (by simp [Core.spBytes, leBytes_length]) fun k h1 h2 => ?_
    have hk : k < 8 := by simpa [Core.spBytes] using h1
    rw [leBytes_length] at h2
    simp only [Core.spBytes, List.getElem_map, List.getElem_range, Core.putBar, Core.spStore_spm, get_spPut, leBytes_length]
    rw [if_pos (by omega), Nat.add_sub_cancel_left, List.getD_eq_getElem?_getD, List.getElem?_eq_getElem (by rw [leBytes_length]; exact hk), Option.getD_some]
  rw [Core.barWord, hbytes, leNat_leBytes_word]

theorem Core.get_putBar_of_not_mem (c : Core) (off : Nat) (w : Word) {x : Nat} (h : x < off ∨ off + 8 ≤ x) : SMap.get 0 (c.putBar off w).spm x = SMap.get 0 c.spm x := by
  rw [Core.putBar, Core.spStore_spm, get_spPut, leBytes_length, if_neg (by omega)]

/-- A barrier word's fields (R134). -/
theorem barOf_fields (ph : Bool) (e a : Nat) : barPh (barOf ph e a) = ph ∧ barExp (barOf ph e a) = e % 2 ^ 31 ∧ barArr (barOf ph e a) = a % 2 ^ 32 := by
  have hph : (if ph then 2 ^ 63 else 0) = ph.toNat * 2 ^ 63 := by cases ph <;> rfl
  have hb := ph.toNat_lt
  simp only [barPh, bit, barExp, barArr, bits, barOf, hph, BitVec.toNat_ofNat]
  refine ⟨getLsbD_ofNat_of_div_mod (by decide) (by omega), by omega, by omega⟩

theorem barArr_lt (w : Word) : barArr w < 2 ^ 32 := Nat.mod_lt _ (by decide)

theorem barExp_lt (w : Word) : barExp w < 2 ^ 31 := Nat.mod_lt _ (by decide)

section Pulse

variable (c : Core) (p : Pulse)

theorem Core.pulse_keeps {α : Type} (g : Core → α) (h : ∀ (d : Core) n k, g (d.addEv n k) = g d) : g (c.pulse p) = g c := by
  refine foldl_keeps g (fun d n => ?_) _ c
  split
  · exact h _ _ _
  · rfl

@[simp] theorem Core.pulse_spm : (c.pulse p).spm = c.spm := c.pulse_keeps p (·.spm) fun _ _ _ => rfl
@[simp] theorem Core.pulse_cur : (c.pulse p).cur = c.cur := c.pulse_keeps p (·.cur) fun _ _ _ => rfl
@[simp] theorem Core.pulse_ctxOf (v : CtxId) : (c.pulse p).ctxOf v = c.ctxOf v := c.pulse_keeps p (·.ctxOf v) fun _ _ _ => by cases v <;> rfl

theorem Core.barWord_of_spm {c d : Core} (h : d.spm = c.spm) (off : Nat) : d.barWord off = c.barWord off := by
  simp only [Core.barWord, Core.spBytes, h]

end Pulse

/-- What a barrier instruction may leave of a core: its contexts as they are, of the scratchpad all but the barrier word, and in that the fields given. -/
structure Core.BarLeft (c : Core) (off : Nat) (ph : Bool) (e a : Nat) (d : Core) : Prop where
  cur : d.cur = c.cur
  ctxOf : ∀ v, d.ctxOf v = c.ctxOf v
  ph : barPh (d.barWord off) = ph
  exp : barExp (d.barWord off) = e
  arr : barArr (d.barWord off) = a
  rest : ∀ x, x < off ∨ off + 8 ≤ x → SMap.get 0 d.spm x = SMap.get 0 c.spm x

theorem Core.barLeft_putBar (c : Core) (off : Nat) (ph : Bool) {e a : Nat} (he : e < 2 ^ 31) (ha : a < 2 ^ 32) : c.BarLeft off ph e a (c.putBar off (barOf ph e a)) := by
  obtain ⟨hph, hexp, harr⟩ := barOf_fields ph e a
  refine ⟨Core.spStore_cur _ _ _, fun v => Core.spStore_ctxOf _ _ _ v, ?_, ?_, ?_, fun x hx => c.get_putBar_of_not_mem off _ hx⟩
  · rw [Core.barWord_putBar, hph]
  · rw [Core.barWord_putBar, hexp, Nat.mod_eq_of_lt he]
  · rw [Core.barWord_putBar, harr, Nat.mod_eq_of_lt ha]

theorem Core.BarLeft.pulse {c d : Core} {off e a : Nat} {ph : Bool} (h : c.BarLeft off ph e a d) (p : Pulse) : c.BarLeft off ph e a (d.pulse p) := by
  have hw := Core.barWord_of_spm (Core.pulse_spm d p) off
  refine ⟨(Core.pulse_cur d p).trans h.cur, fun v => (Core.pulse_ctxOf d p v).trans (h.ctxOf v), ?_, ?_, ?_, fun x hx => ?_⟩
  · rw [hw, h.ph]
  · rw [hw, h.exp]
  · rw [hw, h.arr]
  · rw [Core.pulse_spm, h.rest x hx]

theorem Core.barLeft_self (c : Core) (off : Nat) : c.BarLeft off (barPh (c.barWord off)) (barExp (c.barWord off)) (barArr (c.barWord off)) c :=
  ⟨rfl, fun _ => rfl, rfl, rfl, rfl, fun _ _ => rfl⟩

/-- An arrival that flips the phase, and one that does not (R135). -/
theorem Core.arrive_flip {c : Core} {off n : Nat} (hn : 0 < n) (h : barArr (c.barWord off) + n = barExp (c.barWord off)) :
    ∃ d, c.arrive off n = some d ∧ c.BarLeft off (!barPh (c.barWord off)) (barExp (c.barWord off)) 0 d := by
  refine ⟨_, ?_, (c.barLeft_putBar off _ (barExp_lt _) (by decide)).pulse (.flip off)⟩
  simp [Core.arrive, hn.ne', h]

theorem Core.arrive_count {c : Core} {off n : Nat} (hn : 0 < n) (h : barArr (c.barWord off) + n < barExp (c.barWord off)) :
    ∃ d, c.arrive off n = some d ∧ c.BarLeft off (barPh (c.barWord off)) (barExp (c.barWord off)) (barArr (c.barWord off) + n) d := by
  have := barExp_lt (c.barWord off)
  refine ⟨_, ?_, c.barLeft_putBar off _ (barExp_lt _) (by omega)⟩
  simp [Core.arrive, hn.ne', not_lt.2 h.le, h.ne]

theorem Core.arrive_past {c : Core} {off n : Nat} (hn : 0 < n) (h : barExp (c.barWord off) < barArr (c.barWord off) + n) : c.arrive off n = none := by
  simp [Core.arrive, hn.ne', h]

/-! ## Barrier instructions -/

section Barriers

variable {o : Ops} {s t : State} {body : Nat → Eff}

theorem withBar_ok (hal : (s.getS o.a).toNat % 8 = 0) (hr : (s.getS o.a).toNat < 0x400000) : withBar s o body = body (s.getS o.a).toNat := by
  simp [withBar, barBreach, hal, not_le.2 (show (s.getS o.a).toNat < spmSize from hr)]

theorem withBar_misaligned (hal : (s.getS o.a).toNat % 8 ≠ 0) : withBar s o body = .trap ⟨cAlign, none, some (s.getS o.a), some 0xFFFF, none⟩ s := by
  simp [withBar, barBreach, hal, unitTrap]

theorem withBar_range (hal : (s.getS o.a).toNat % 8 = 0) (hr : 0x400000 ≤ (s.getS o.a).toNat) :
    withBar s o body = .trap ⟨cScratchRange, some 0, some (s.getS o.a), some 0xFFFF, none⟩ s := by
  simp [withBar, barBreach, hal, show spmSize ≤ (s.getS o.a).toNat from hr, unitTrap]

/-- A barrier instruction whose effect leaves a core, apart from what the parties see. -/
theorem barrier_done (h : Ready o s) {run : State → Eff} (t : State) (hrun : run s = .next t) {x e a : Nat} {ph : Bool} (hm : t.mem = s.mem) (hd : s.core.BarLeft x ph e a t.core) :
    ∃ u, runInstr o run s = .next u ∧ u.ctx.pc = s.nextPc o ∧ u.ctx.s = s.ctx.s ∧ u.mem = s.mem ∧
      barPh (u.core.barWord x) = ph ∧ barExp (u.core.barWord x) = e ∧ barArr (u.core.barWord x) = a ∧ ∀ y, y < x ∨ x + 8 ≤ y → SMap.get 0 u.core.spm y = SMap.get 0 s.core.spm y := by
  have hctx : t.ctx = s.ctx := State.ctx_of_ctxOf hd.cur hd.ctxOf
  have hspm : (t.goTo (s.nextPc o)).core.spm = t.core.spm := by rw [State.goTo_core, Core.putCtx_spm]
  have hw := Core.barWord_of_spm hspm x
  refine ⟨_, runInstr_next h hrun (by rw [hctx]), by rw [State.goTo_ctx], by rw [State.goTo_ctx, hctx], by rw [State.goTo_mem, hm], ?_, ?_, ?_, fun y hy => ?_⟩
  · rw [hw, hd.ph]
  · rw [hw, hd.exp]
  · rw [hw, hd.arr]
  · rw [hspm, hd.rest y hy]

/-- BARARR whose arrival counts (R192). -/
theorem execBararr_done (h : Ready o s) {x n e a : Nat} {ph : Bool} (hx : (s.getS o.a).toNat = x) (hn : (s.getS o.b).toNat + o.imm.toNat = n) (hlim : n < 2 ^ 32)
    (hal : x % 8 = 0) (hr : x < 0x400000) {d : Core} (harrive : s.core.arrive x n = some d) (hd : s.core.BarLeft x ph e a d) :
    ∃ u, execBararr o s = .next u ∧ u.ctx.pc = s.nextPc o ∧ u.ctx.s = s.ctx.s ∧ u.mem = s.mem ∧
      barPh (u.core.barWord x) = ph ∧ barExp (u.core.barWord x) = e ∧ barArr (u.core.barWord x) = a ∧ ∀ y, y < x ∨ x + 8 ≤ y → SMap.get 0 u.core.spm y = SMap.get 0 s.core.spm y := by
  subst hx hn
  refine barrier_done h ((s.barStep (s.getS o.a).toNat d).release s.core.cur 3 ((s.barStep (s.getS o.a).toNat d).barKeys s.core (s.getS o.a).toNat)) ((withBar_ok hal hr).trans ?_) ?_ ?_
  · simp only [show barCount s o = (s.getS o.b).toNat + o.imm.toNat from rfl, if_neg (not_le.2 hlim), harrive]
  · rw [State.release_mem]
    rfl
  · rw [State.release_core]
    exact hd

theorem State.barStep_mem (s : State) (off : Nat) (c : Core) : (s.barStep off c).mem = s.mem := rfl
theorem State.barStep_core (s : State) (off : Nat) (c : Core) : (s.barStep off c).core = c := rfl

end Barriers

/-- Settles O24. -/
theorem barrierResults : Obligations.BarrierResults := by
  intro o s h x n w named done spill
  have hxo : (s.getS o.a).toNat = x := rfl
  have harr := barArr_lt w
  have hexp := barExp_lt w
  refine ⟨fun hal hr => ⟨fun hn => ?init, fun hn hle => ⟨fun hflip => ?armFlip, fun hkeep => ?arm⟩, fun hlt => ?armSpill, fun hn => ?arrNone, fun hn hlt => ?arr, fun hn heq => ?arrFlip,
    fun hn hlt => ?arrSpill, fun hph => ?wait, ?test⟩, fun hal => ?misaligned, fun hal hr => ?range⟩
  case init =>
    refine (barrier_done h (x := x) ((s.barStep x (s.core.putBar x (barOf false n 0))).forget (spKey s.coreId x) 8) ((withBar_ok hal hr).trans (if_neg (not_le.2 hn))) ?_ ?_ :
      ∃ t, execBarinit o s = .next t ∧ _)
    · rw [State.forget_mem, State.barStep_mem]
    · rw [State.forget_core, State.barStep_core]
      exact s.core.barLeft_putBar x false hn (by decide)
  case armFlip =>
    have hbody : ¬ (decide (2 ^ 31 ≤ n) || decide (n < barArr w)) = true := by simpa [hle] using hn
    have hcond : (decide (0 < n) && decide (barArr w = n)) = true := by simpa using hflip
    refine (barrier_done h (x := x) _ ((withBar_ok hal hr).trans ((if_neg hbody).trans (if_pos hcond))) ?_ ?_ : ∃ t, execBararm o s = .next t ∧ _)
    · rw [State.release_mem]
      rfl
    · rw [State.release_core]
      exact (s.core.barLeft_putBar x _ hn (by decide)).pulse (.flip x)
  case arm =>
    have hbody : ¬ (decide (2 ^ 31 ≤ n) || decide (n < barArr w)) = true := by simpa [hle] using hn
    have hcond : ¬ (decide (0 < n) && decide (barArr w = n)) = true := by simpa using hkeep
    refine (barrier_done h (x := x) (s.barStep x (s.core.putBar x (barOf (barPh w) n (barArr w)))) ((withBar_ok hal hr).trans ((if_neg hbody).trans (if_neg hcond))) ?_ ?_ :
      ∃ t, execBararm o s = .next t ∧ _)
    · rw [State.barStep_mem]
    · rw [State.barStep_core]
      exact s.core.barLeft_putBar x _ hn harr
  case armSpill =>
    have hbody : (decide (2 ^ 31 ≤ n) || decide (n < barArr w)) = true := by simp [hlt]
    exact (runInstr_trap h ((withBar_ok hal hr).trans (if_pos hbody)) : execBararm o s = _)
  case arrNone => exact execBararr_done h rfl rfl (by omega) hal hr (if_pos hn) (s.core.barLeft_self x)
  case arr =>
    obtain ⟨d, hd, hleft⟩ := Core.arrive_count hn hlt
    exact execBararr_done h rfl rfl (by omega) hal hr hd hleft
  case arrFlip =>
    obtain ⟨d, hd, hleft⟩ := Core.arrive_flip hn heq
    exact execBararr_done h rfl rfl (by omega) hal hr hd hleft
  case arrSpill =>
    have hnone : (if 2 ^ 32 ≤ n then none else s.core.arrive x n) = none := by
      split
      · rfl
      · exact Core.arrive_past hn hlt
    refine (runInstr_trap h ((withBar_ok hal hr).trans ?_) : execBararr o s = _)
    simp only [hxo, show barCount s o = n from rfl, hnone]
    rfl
  case wait =>
    refine (runInstr_next h ((withBar_ok hal hr).trans (if_neg hph)) ?_ : execBarwait o s = _)
    rw [State.ctx_of_core (State.acquire_core _ _ _ _)]
  case test =>
    rw [Nat.mul_comm (2 ^ 32)]
    refine (runInstr_status h (withBar_ok hal hr) ?_ : execBartest o s = _)
    split
    · rfl
    · rw [State.ctx_of_core (State.acquire_core _ _ _ _)]
  case misaligned =>
    rintro i (rfl | rfl | rfl | rfl | rfl)
    · exact (runInstr_trap h (withBar_misaligned hal) : execBarinit o s = _)
    · exact (runInstr_trap h (withBar_misaligned hal) : execBararm o s = _)
    · exact (runInstr_trap h (withBar_misaligned hal) : execBararr o s = _)
    · exact (runInstr_trap h (withBar_misaligned hal) : execBarwait o s = _)
    · exact (runInstr_trap h (withBar_misaligned hal) : execBartest o s = _)
  case range =>
    rintro i (rfl | rfl | rfl | rfl | rfl)
    · exact (runInstr_trap h (withBar_range hal hr) : execBarinit o s = _)
    · exact (runInstr_trap h (withBar_range hal hr) : execBararm o s = _)
    · exact (runInstr_trap h (withBar_range hal hr) : execBararr o s = _)
    · exact (runInstr_trap h (withBar_range hal hr) : execBarwait o s = _)
    · exact (runInstr_trap h (withBar_range hal hr) : execBartest o s = _)

end Sys2Proof.Machine
end

section
/-! PROOFS. The tag table of the scratchpad and the full bits by instruction (R194 to R199). -/

namespace Sys2Proof.Machine

/-! ## The tag table in its canonical form -/

theorem SMap.mem_of_get_ne {α : Type} {d : α} {m : SMap α} {k : Nat} (h : SMap.get d m k ≠ d) : (k, SMap.get d m k) ∈ m := by
  induction m with
  | nil => exact absurd rfl h
  | cons e t ih =>
    by_cases he : e.1 = k
    · have hget : SMap.get d (e :: t) k = e.2 := if_pos he
      rw [hget, ← he]
      exact List.mem_cons_self
    · have hget : SMap.get d (e :: t) k = SMap.get d t k := if_neg he
      rw [hget] at h ⊢
      exact List.mem_cons_of_mem _ (ih h)

theorem SMap.get_of_mem {α : Type} [DecidableEq α] {d : α} {m : SMap α} (hwf : SMap.wf d m = true) {e : Nat × α} (he : e ∈ m) : SMap.get d m e.1 = e.2 := by
  induction m with
  | nil => cases he
  | cons x t ih =>
    obtain ⟨hlt, -, ht⟩ := (SMap.wf_cons d x t).1 hwf
    rcases List.mem_cons.1 he with rfl | he
    · exact if_pos rfl
    · have hne : x.1 ≠ e.1 := (hlt e he).ne
      have hget : SMap.get d (x :: t) e.1 = SMap.get d t e.1 := if_neg hne
      rw [hget, ih ht he]

/-- In a list of rising keys the entry found first is the lowest that meets the test. -/
theorem find?_of_rising {α : Type} [DecidableEq α] {d : α} {m : SMap α} (hwf : SMap.wf d m = true) {p : Nat × α → Bool} {e : Nat × α} (he : e ∈ m) (hp : p e = true)
    (hlow : ∀ x ∈ m, x.1 < e.1 → p x = false) : m.find? p = some e := by
  induction m with
  | nil => cases he
  | cons x t ih =>
    obtain ⟨hlt, -, ht⟩ := (SMap.wf_cons d x t).1 hwf
    rcases List.mem_cons.1 he with rfl | he
    · exact List.find?_cons_of_pos hp
    · rw [List.find?_cons_of_neg (by rw [hlow x List.mem_cons_self (hlt e he)]; exact Bool.false_ne_true)]
      exact ih ht he (fun y hy => hlow y (List.mem_cons_of_mem _ hy))

section FindTag

variable {c : Core} {p : Nat → Word → Bool}

theorem Core.findTag_some (hwf : SMap.wf 0 c.tags = true) {k : Nat} (h0 : c.tag k ≠ 0) (hp : p k (c.tag k) = true) (hlow : ∀ j, j < k → p j (c.tag j) = false) :
    c.findTag p = some k := by
  rw [Core.findTag, find?_of_rising hwf (SMap.mem_of_get_ne h0) hp]
  · rfl
  · intro x hx hlt
    have := hlow x.1 hlt
    rwa [Core.tag, SMap.get_of_mem hwf hx] at this

theorem Core.findTag_none (hwf : SMap.wf 0 c.tags = true) (h : ∀ j, p j (c.tag j) = false) : c.findTag p = none := by
  rw [Core.findTag, List.find?_eq_none.2, Option.map_none]
  intro x hx
  have := h x.1
  rw [Core.tag, SMap.get_of_mem hwf hx] at this
  rw [this]
  exact Bool.false_ne_true

theorem Core.findTag_isSome {j : Nat} (h0 : c.tag j ≠ 0) (hp : p j (c.tag j) = true) : (c.findTag p).isSome = true := by
  rw [Core.findTag, Option.isSome_map, List.find?_isSome]
  exact ⟨_, SMap.mem_of_get_ne h0, hp⟩

end FindTag

/-- An entry that is valid or busy is listed. -/
theorem tag_ne_zero {w : Word} (h : tagV w = true ∨ tagBusy w = true) : w ≠ 0 := by
  rintro rfl
  rcases h with h | h <;> cases h

theorem ctxNum_lt (c : CtxId) : ctxNum c < 8 := by cases c <;> decide

/-- The fields of a tag entry (R194). -/
theorem tagOf_fields (v busy dirty live : Bool) (ctx : CtxId) (asid : BitVec 9) {vpn : Nat} (hv : vpn < 2 ^ 36) {w : Word} (hw : w = tagOf v busy dirty live ctx asid vpn) :
    tagAsid w = asid ∧ tagVpn w = vpn ∧ tagV w = v ∧ tagBusy w = busy ∧ w.getLsbD 61 = dirty ∧ tagLive w = live ∧ tagCtx w = ctxNum ctx := by
  have hbit : ∀ (x : Bool) (n : Nat), (if x then 2 ^ n else 0) = x.toNat * 2 ^ n := fun x n => by cases x <;> simp
  have h1 := v.toNat_lt
  have h2 := busy.toNat_lt
  have h3 := dirty.toNat_lt
  have h4 := live.toNat_lt
  have h5 := ctxNum_lt ctx
  have h6 := asid.isLt
  subst hw
  simp only [tagAsid, tagVpn, tagV, tagBusy, tagLive, tagCtx, bit, bits, tagOf, hbit, Nat.mod_eq_of_lt hv, BitVec.toNat_ofNat]
  refine ⟨BitVec.eq_of_toNat_eq ?_, by omega, getLsbD_ofNat_of_div_mod (by decide) (by omega), getLsbD_ofNat_of_div_mod (by decide) (by omega),
    getLsbD_ofNat_of_div_mod (by decide) (by omega), getLsbD_ofNat_of_div_mod (by decide) (by omega), by omega⟩
  rw [toNat_extractLsb'_ofNat (by decide)]
  omega

/-! ## Full bits -/

theorem mem_granules {off n g : Nat} (hn : 0 < n) : g ∈ granules off n ↔ off < 16 * (g + 1) ∧ 16 * g < off + n := by
  simp only [granules, if_neg hn.ne', List.mem_map, List.mem_range]
  constructor
  · rintro ⟨i, hi, rfl⟩
    omega
  · intro h
    exact ⟨g - off / 16, by omega, by omega⟩

theorem State.ctx_putCore_full (s : State) (m : SMap Bool) : (s.putCore { s.core with full := m }).ctx = s.ctx :=
  State.ctx_of_ctxOf rfl (fun v => by cases v <;> rfl)

section FullRange

variable {o : Ops} {s : State}

theorem fullRange_none (b : Bool) (hn : (s.getS o.b).toNat + o.imm.toNat = 0) : fullRange o b s = .next s := if_pos hn

theorem fullRange_ok (b : Bool) {a n : Nat} (ha : (s.getS o.a).toNat = a) (hn : (s.getS o.b).toNat + o.imm.toNat = n) (h0 : n ≠ 0) (hlim : a + n ≤ 0x400000) :
    fullRange o b s = .next (if b then (s.release s.core.cur 3 [fullKey s.coreId a n]).putCore (s.core.setFull (granules a n) true)
        else (s.putCore (s.core.setFull (granules a n) false)).forget (fullKey s.coreId a n).1 (fullKey s.coreId a n).2) := by
  subst ha hn
  simp only [fullRange, show barCount s o = (s.getS o.b).toNat + o.imm.toNat from rfl, if_neg h0, spFlt_none hlim]

/-- FESET and FECLR by the full bits that they leave (R198). -/
theorem fullRange_results (h : Ready o s) (b : Bool) {a n : Nat} (ha : (s.getS o.a).toNat = a) (hn : (s.getS o.b).toNat + o.imm.toNat = n) (hlim : a + n ≤ 0x400000) :
    ∃ m, runInstr o (fullRange o b) s = .next ((if n = 0 then s.putCore { s.core with full := m } else if b then (s.release s.core.cur 3 [fullKey s.coreId a n]).putCore { s.core with full := m }
        else (s.putCore { s.core with full := m }).forget (fullKey s.coreId a n).1 (fullKey s.coreId a n).2).goTo (s.nextPc o)) ∧
      ∀ g, SMap.get false m g = if a < 16 * (g + 1) ∧ 16 * g < a + n ∧ 0 < n then b else SMap.get false s.core.full g := by
  by_cases h0 : n = 0
  · refine ⟨s.core.full, ?_, fun g => by rw [if_neg (by omega)]⟩
    rw [if_pos h0]
    exact runInstr_next h (fullRange_none b (hn.trans h0)) rfl
  · refine ⟨(s.core.setFull (granules a n) b).full, ?_, fun g => ?_⟩
    · rw [if_neg h0]
      refine runInstr_next h ((fullRange_ok b ha hn h0 hlim).trans (by cases b <;> rfl)) ?_
      cases b
      · exact congrArg Ctx.pc (s.ctx_putCore_full _)
      · exact congrArg Ctx.pc (s.ctx_putCore_full _)
    · have hpos : 0 < n := Nat.pos_of_ne_zero h0
      rw [Core.get_setFull]
      simp only [mem_granules hpos, hpos, and_true]

end FullRange

/-! ## The obligation -/

/-- Settles O25. -/
theorem tagTableAndFullBitResults : Obligations.TagTableAndFullBitResults := by
  intro o s h hwf a i n names go range hit
  set test : Nat → Word → Bool := fun _ w => tagV w && !tagBusy w && decide (tagAsid w = s.curAsid) && decide (tagVpn w = bits a 47 12) with htest
  have hhit : ∀ k, test k (s.core.tag k) = true ↔ hit k := fun k => by
    simp only [htest, hit, names, Bool.and_eq_true, Bool.not_eq_true', decide_eq_true_eq, and_assoc]
  have hnot : ∀ {k}, ¬ hit k → test k (s.core.tag k) = false := fun {k} hk => by
    rw [← hhit k] at hk
    exact Bool.not_eq_true _ ▸ hk
  have hslot : ∀ x : Word, slotTrap 1 x.toNat = ⟨cScratchRange, some (BitVec.ofNat 64 1), some x, some 0xFFFF, none⟩ := fun x => by simp [slotTrap, unitTrap]
  refine ⟨fun k hk hlow => ?look, fun hno => ?lookNone, fun hi hbusy => ?insUsed, fun hi hv hb => ⟨?insTwice, fun hfree => ?ins⟩, fun hi => ?insRange, fun ha hb => ?evict, fun ha => ?read,
    fun ha => ?slotRange, fun f b hf hlim => ?full, fun ha => ?test, fun ha => ?testRange⟩
  case look =>
    have hfind : s.core.findTag test = some k := Core.findTag_some hwf (tag_ne_zero (.inl hk.1)) ((hhit k).2 hk) (fun j hj => hnot (hlow j hj))
    rw [Nat.mul_comm 4096]
    refine (runPlain_status (t := s.acquire s.core.cur 3 [slotKey s.coreId k]) h ?_ ?_ : execSptlook o s = _)
    · simp only [htest] at hfind
      simp only [show s.getS o.a = a from rfl, hfind]
    · rw [State.ctx_of_core (State.acquire_core _ _ _ _)]
  case lookNone =>
    have hfind : s.core.findTag test = none := Core.findTag_none hwf (fun j => hnot (hno j))
    refine (runPlain_status h ?_ rfl : execSptlook o s = _)
    simp only [htest] at hfind
    simp only [show s.getS o.a = a from rfl, hfind]
  case insUsed =>
    have hused : (tagV (s.core.tag i) || tagBusy (s.core.tag i)) = true := by simpa using hbusy
    exact (runInstr_status h ((if_neg (not_le.2 hi)).trans (if_pos hused)) rfl : execSptins o s = _)
  case insTwice =>
    rintro ⟨j, hj, hused, hname⟩
    have hfree : ¬ (tagV (s.core.tag i) || tagBusy (s.core.tag i)) = true := by simp [hv, hb]
    refine (runInstr_status h ((if_neg (not_le.2 hi)).trans ((if_neg hfree).trans (if_pos ?_))) rfl : execSptins o s = _)
    refine Core.findTag_isSome (j := j) (tag_ne_zero hused) ?_
    simp only [Bool.and_eq_true, Bool.or_eq_true, decide_eq_true_eq]
    exact ⟨⟨⟨hj, hused⟩, hname.1⟩, hname.2⟩
  case ins =>
    have hempty : ¬ (tagV (s.core.tag i) || tagBusy (s.core.tag i)) = true := by simp [hv, hb]
    have hvpn : bits a 47 12 < 2 ^ 36 := Nat.mod_lt _ (by decide)
    obtain ⟨w, hw⟩ : ∃ w, w = tagOf true false false (decide (o.q = 1)) s.core.cur s.curAsid (bits a 47 12) := ⟨_, rfl⟩
    obtain ⟨h1, h2, h3, h4, h5, h6, h7⟩ := tagOf_fields true false false (decide (o.q = 1)) s.core.cur s.curAsid hvpn hw
    refine ⟨w, (runInstr_status (t := s.putCore (s.core.putTag i w)) h ((if_neg (not_le.2 hi)).trans ((if_neg hempty).trans ((if_neg ?_).trans ?_))) ?_ : execSptins o s = _), ⟨h1, h2⟩, h3, h4, h5, h6, h7⟩
    · rw [Core.findTag_none hwf]
      · exact Bool.false_ne_true
      · intro j
        by_contra hc
        simp only [Bool.not_eq_false, Bool.and_eq_true, Bool.or_eq_true, decide_eq_true_eq] at hc
        obtain ⟨⟨⟨hj, hused⟩, hasid⟩, hpage⟩ := hc
        exact hfree j hj hused ⟨hasid, hpage⟩
    · rw [hw]
    · exact congrArg Ctx.pc (State.ctx_of_ctxOf rfl (fun v => by cases v <;> rfl))
  case insRange => exact (runInstr_trap h ((if_pos hi).trans (by rw [hslot])) : execSptins o s = _)
  case evict =>
    refine (runInstr_status h ((if_neg (not_le.2 ha)).trans (if_neg (by rw [hb]; exact Bool.false_ne_true))) ?_ : execSptevict o s = _)
    exact congrArg Ctx.pc (State.ctx_of_ctxOf rfl (fun v => by cases v <;> rfl))
  case read => exact (runInstr_status h (if_neg (not_le.2 ha)) rfl : execSptread o s = _)
  case slotRange =>
    exact ⟨(runInstr_trap h ((if_pos ha).trans (by rw [hslot])) : execSptevict o s = _), (runInstr_trap h ((if_pos ha).trans (by rw [hslot])) : execSptread o s = _)⟩
  case full =>
    rcases hf with hf | hf
    · obtain ⟨rfl, rfl⟩ := Prod.mk.inj hf
      exact fullRange_results h true rfl rfl hlim
    · obtain ⟨rfl, rfl⟩ := Prod.mk.inj hf
      exact fullRange_results h false rfl rfl hlim
  case test =>
    have hlim : ¬ spmSize ≤ a.toNat := not_le.2 ha
    split
    · rename_i hset
      refine (runInstr_status h ((if_neg hlim).trans (if_pos hset)) ?_ : execFetest o s = _)
      rw [State.ctx_of_core (State.acquire_core _ _ _ _)]
    · rename_i hset
      exact (runInstr_status h ((if_neg hlim).trans (if_neg hset)) rfl : execFetest o s = _)
  case testRange =>
    refine (runInstr_trap h ((if_pos ha).trans ?_) : execFetest o s = _)
    simp [unitTrap, a]

end Sys2Proof.Machine
end

section
/-! PROOFS. Fences, prefetch, cache maintenance and non-temporal stores (R129, R131, R209, R219 to R222, R443). -/

namespace Sys2Proof.Machine

/-! ## Fences -/

theorem State.mem_orderOwn {s : State} {p n : Nat} {e : Unseen} (h : e ∈ (s.orderOwn p n).unseen) (hp : e.party = p) : n ≤ e.ord ∧ e.seq < s.nextSeq := by
  obtain ⟨f, hf, rfl⟩ := List.mem_map.1 h
  have hfp : f.party = p := by
    revert hp
    split <;> exact id
  rw [if_pos hfp]
  have hseq := State.lt_nextSeq hf
  exact ⟨le_max_right _ _, hseq⟩

theorem State.fenceAcq_own {s : State} {c : CtxId} {n : Nat} {e : Unseen} (he : e ∈ (s.fenceAcq c n).unseen) (hp : e.party = partyOf s.coreId c) : 1 ≤ e.ord := by
  rw [State.fenceAcq, State.fenceReads] at he
  obtain ⟨f, hf, ⟨hpf, -, -, ho, -⟩, -⟩ := mem_openIds (mem_pruned he)
  have := (State.mem_orderOwn hf (hpf.symm.trans hp)).1
  omega

/-- After a release fence each store of the context that may be missed is one that the fence covers (R129). -/
theorem State.fenceRel_own {s : State} {c : CtxId} {n : Nat} {e : Unseen} (he : e ∈ (s.fenceRel c n).unseen) (hp : e.party = partyOf s.coreId c) :
    2 ≤ e.ord ∧ (e.fence = false → e.vis < 4 → ∃ f ∈ (s.fenceRel c n).unseen, f.fence = true ∧ f.party = partyOf s.coreId c ∧ f.rel = scopeReach n ∧ f.covers e = true) := by
  set r : Unseen := { releaseEntry (partyOf s.coreId c) s.nextSeq (scopeReach n) false (0, 0) with fence := true } with hr
  have hlist : (s.fenceRel c n).unseen = ({ s.orderOwn (partyOf s.coreId c) 2 with unseen := r :: (s.orderOwn (partyOf s.coreId c) 2).unseen } : State).pruned.unseen := rfl
  rw [hlist] at he ⊢
  have hstood := mem_pruned he
  rcases List.mem_cons.1 hstood with rfl | hold
  · exact ⟨show 2 ≤ 3 by decide, fun hf => absurd hf (by simp [hr])⟩
  · obtain ⟨ho, hs⟩ := State.mem_orderOwn hold hp
    have hcov : r.covers e = true := by simp [Unseen.covers, hr, releaseEntry, newStore, hp, hs]
    refine ⟨ho, fun _ hv => ⟨r, ?_, rfl, rfl, rfl, hcov⟩⟩
    refine List.mem_filter.2 ⟨List.mem_cons_self, ?_⟩
    simp only [Bool.or_eq_true]
    refine .inl (.inr ?_)
    simp only [Unseen.pending, Bool.and_eq_true, List.any_eq_true, Bool.or_eq_true, decide_eq_true_eq]
    exact ⟨show 3 < 4 by decide, e, hstood, hv, .inl ⟨scopeReach_pos n, hcov⟩⟩

/-! ## Prefetch and cache maintenance -/

section Forms

variable {o : Ops} {s t : State}

theorem runInstr_go (h : Ready o s) {body : State → Eff} (hb : body s = .next t) : runInstr o body s = .next (t.goTo (t.nextPc o)) := by
  rw [runInstr_ready _ h, hb, finish]

/-- What PREF leaves but for the lines that the Well holds (R220). -/
theorem execPref_results (h : Ready o s) : ∃ u : State, execPref o s = .next (u.goTo (u.nextPc o)) ∧ u.mem = s.mem ∧ u.ctx = s.ctx ∧ u.unseen = s.unseen := by
  refine ⟨_, runPlain_ready _ h, ?_⟩
  split
  · rename_i ps u hacc
    have hok : accessParts s s.curAsid s.kLevel .read (s.addr o).toNat 1 = .ok (ps, u) := by
      revert hacc
      split
      · exact fun hc => nomatch hc
      · cases accessParts s s.curAsid s.kLevel .read (s.addr o).toNat 1 with
        | error _ => exact fun hc => nomatch hc
        | ok x => exact fun hc => congrArg Except.ok (Option.some.inj hc)
    have htlb := accessParts_ok hok
    split
    · exact ⟨htlb.mem, htlb.ctx, accessParts_unseen hok⟩
    · exact ⟨(State.useLines_mem _ _).trans htlb.mem, (State.ctx_of_core (State.useLines_core _ _)).trans htlb.ctx, (State.useLines_unseen _ _).trans (accessParts_unseen hok)⟩
  · exact ⟨rfl, rfl, rfl⟩

theorem cacheRange_error {f : Flt} (h : cacheRange s o = .error f) : f = ⟨cPagePermission, 3, (s.getS o.a).toNat⟩ := by
  simp only [cacheRange] at h
  split at h
  · exact (Except.error.inj h).symm
  · cases h

theorem cacheRange_zero (h : (s.getS o.b).toNat + o.imm.toNat = 0) : cacheRange s o = .ok ((s.getS o.a).toNat, 0) := by
  simp [cacheRange, Ops.uimm, h]

variable {f : State → Nat → Nat → State}

theorem cleanRange_ok (hb : s.heldBallooned s.core.cur = none) {a n : Nat} (hr : cacheRange s o = .ok (a, n))
    (hw : writeBackPages (n / 4096 + 2) s o.form.bytes a n = .next t) : cleanRange s o f = .next ((f t a n).dropHeld s.core.cur) := by
  simp only [cleanRange, hb, hr, hw]

theorem cleanRange_error (hb : s.heldBallooned s.core.cur = none) {e : Flt} (hr : cacheRange s o = .error e) :
    cleanRange s o f = .trap ⟨cPagePermission, some 3, some (s.getS o.a), some 0xFFFF, none⟩ (s.dropHeld s.core.cur) := by
  simp only [cleanRange, hb, hr, cacheRange_error hr, scalarTrap, fltTrap_scalar]
  rfl

theorem cleanRange_ballooned {x : HeldWrite} (hb : s.heldBallooned s.core.cur = some x) :
    cleanRange s o f = .trap ⟨cBalloonAccess, some 0, some (BitVec.ofNat 64 x.va), some 0x1FFFF, none⟩ (s.dropHeld s.core.cur) := by
  simp only [cleanRange, hb, scalarTrap]
  rfl

/-- STNT over lines that the Well holds (R209). -/
theorem storeNt_held {a : Word} {ps : List Part} (ha : a = s.addr o) (hn : a.toNat + widthBytes o.q.toNat ≤ 2 ^ 48)
    (hacc : accessParts s s.curAsid s.kLevel .write a.toNat (widthBytes o.q.toNat) = .ok (ps, t)) (hheld : (partLines ps a.toNat).all (fun l => t.wellHolds l.1) = true) :
    storeNt s o = .next ((t.plainStore false t.me t.nextSeq (unitOfAccess a.toNat (widthBytes o.q.toNat)) ps (leBytes (widthBytes o.q.toNat) (s.getS o.d).toNat)).dropHeld s.core.cur) := by
  subst ha
  have hthrough : (partLines ps (s.addr o).toNat).filter (fun l => !t.wellHolds l.1) = [] := by
    rw [List.filter_eq_nil_iff]
    intro l hl
    rw [List.all_eq_true.1 hheld l hl]
    exact Bool.false_ne_true
  simp only [storeNt, eaFlt_none hn, hacc, hthrough, State.storeForCtx, State.plainStore_core, (accessParts_ok hacc).cur]

end Forms

/-- Settles O17. -/
theorem cacheResults : Obligations.CacheResults := by
  intro o s h n go done rel drop
  refine ⟨(runPlain_ready _ h : execFence o s = _), (runPlain_ready _ h : execFenceAcq o s = _), (runPlain_ready _ h : execFenceRel o s = _), fun e he hp => State.fence_own he hp,
    fun e he hp => State.fenceAcq_own he hp, fun e he hp => State.fenceRel_own he hp, fun p q n m k hpq hq hk hd e he hp hf => State.release_acquire hpq hq hk hd he hp hf,
    fun q m k hk => State.acquireBy_none hk, execPref_results h, fun hb => ⟨fun hn => ?none, fun a u hr hw => ?clean, fun f hr => ?past⟩,
    fun x hb => ?ballooned, fun a hr => ?code, fun f hr => cacheRange_error hr, fun a ps u ha hn hacc hheld => ?stnt⟩
  case none =>
    have hr := cacheRange_zero hn
    refine ⟨(runInstr_go h (cleanRange_ok (t := s) hb hr rfl) : execCwb o s = _), (runInstr_go h (cleanRange_ok (t := s) hb hr rfl) : execCinv o s = _).trans ?_⟩
    rfl
  case clean => exact ⟨(runInstr_go h (cleanRange_ok hb hr hw) : execCwb o s = _), (runInstr_go h (cleanRange_ok hb hr hw) : execCinv o s = _)⟩
  case past =>
    rintro i (rfl | rfl)
    · exact (runInstr_trap h (cleanRange_error hb hr) : execCwb o s = _)
    · exact (runInstr_trap h (cleanRange_error hb hr) : execCinv o s = _)
  case ballooned =>
    rintro i (rfl | rfl)
    · exact (runInstr_trap h (cleanRange_ballooned hb) : execCwb o s = _)
    · exact (runInstr_trap h (cleanRange_ballooned hb) : execCinv o s = _)
  case code =>
    refine (runInstr_go h ?_ : execCinvI o s = _)
    simp only [hr]
  case stnt => exact (runInstr_go h (storeNt_held ha hn hacc hheld) : execStnt o s = _)

end Sys2Proof.Machine
end

section
/-! PROOFS. Tensor descriptors and the tensor table (R144 to R147, R174 to R177). -/

namespace Sys2Proof.Machine

/-! ## Fields of a descriptor -/

theorem testBit_mul_two_pow_sub (n lo k : Nat) : (n * 2 ^ lo).testBit k = (decide (lo ≤ k) && n.testBit (k - lo)) := by
  rw [Nat.testBit_mul_two_pow]

/-- Each bit of a descriptor with a field replaced. -/
theorem getLsbD_dPut (t : Desc) (lo w x : Nat) {k : Nat} (hk : k < 512) :
    (dPut t lo w x).getLsbD k = if lo ≤ k ∧ k < lo + w then x.testBit (k - lo) else t.getLsbD k := by
  simp only [dPut, BitVec.getLsbD_or, BitVec.getLsbD_and, BitVec.getLsbD_not, BitVec.getLsbD_ofNat, decide_eq_true hk, Bool.true_and,
    testBit_mul_two_pow_sub, Nat.testBit_two_pow_sub_one, Nat.testBit_mod_two_pow]
  by_cases h1 : lo ≤ k
  · by_cases h2 : k < lo + w
    · simp [h1, h2, show k - lo < w by omega]
    · simp [h1, h2, show ¬ k - lo < w by omega]
  · simp [h1]

/-- A field reads as it was put. -/
theorem extract_dPut (t : Desc) {lo w : Nat} (x : Nat) (h : lo + w ≤ 512) : ((dPut t lo w x).extractLsb' lo w).toNat = x % 2 ^ w := by
  have hbits : (dPut t lo w x).extractLsb' lo w = BitVec.ofNat w x := by
    apply BitVec.eq_of_getLsbD_eq
    intro i hi
    rw [BitVec.getLsbD_extractLsb', getLsbD_dPut _ _ _ _ (by omega), if_pos ⟨by omega, by omega⟩, BitVec.getLsbD_ofNat, Nat.add_sub_cancel_left]
  rw [hbits, BitVec.toNat_ofNat]

/-- A field put leaves the others. -/
theorem extract_dPut_disjoint (t : Desc) {lo w a n : Nat} (x : Nat) (h : a + n ≤ 512) (hd : a + n ≤ lo ∨ lo + w ≤ a) : (dPut t lo w x).extractLsb' a n = t.extractLsb' a n := by
  apply BitVec.eq_of_getLsbD_eq
  intro i hi
  rw [BitVec.getLsbD_extractLsb', BitVec.getLsbD_extractLsb', getLsbD_dPut _ _ _ _ (by omega), if_neg (by omega)]

theorem gen_dNextGen (t : Desc) (g : BitVec 16) : (dNextGen t g).extractLsb' 48 16 = g + 1 := by
  apply BitVec.eq_of_toNat_eq
  rw [dNextGen, extract_dPut _ _ (by decide), Nat.mod_eq_of_lt (g + 1).isLt]

theorem getLsbD_dNextGen (t : Desc) (g : BitVec 16) {k : Nat} (hk : k < 512) (hn : ¬ (48 ≤ k ∧ k < 64)) : (dNextGen t g).getLsbD k = t.getLsbD k := by
  rw [dNextGen, getLsbD_dPut _ _ _ _ hk, if_neg hn]

theorem extract_dNextGen (t : Desc) (g : BitVec 16) {a n : Nat} (h : a + n ≤ 512) (hd : a + n ≤ 48 ∨ 64 ≤ a) : (dNextGen t g).extractLsb' a n = t.extractLsb' a n :=
  extract_dPut_disjoint t _ h hd

/-! ## The instructions -/

section Forms

variable {o : Ops} {s t : State}

theorem State.setT_pc (s : State) (n : BitVec 6) (x : Desc) : (s.setT n x).ctx.pc = s.ctx.pc := by
  rw [State.setT, State.putCtx_ctx]

theorem tensorAccess_ok {write : Bool} {ps : List Part} (hal : (s.addr o).toNat % 8 = 0) (hn : (s.addr o).toNat + 64 ≤ 2 ^ 48)
    (hacc : accessParts s s.curAsid s.kLevel (if write then .write else .read) (s.addr o).toNat 64 = .ok (ps, t)) : tensorAccess s o write = .ok (ps, t) := by
  simp [tensorAccess, hal, eaFlt_none hn, hacc]

theorem tensorAccess_misaligned {write : Bool} (hal : (s.addr o).toNat % 8 ≠ 0) : ∃ k, tensorAccess s o write = .error ⟨cAlign, none, some (s.addr o), some k, none⟩ := by
  refine ⟨BitVec.ofNat 64 (0xFF % 256 + o.d.toNat % 256 * 256 + 0 * 65536), ?_⟩
  simp only [tensorAccess, if_pos hal, unitTrap, Option.map_some, BitVec.ofNat_toNat, BitVec.setWidth_eq, Option.map_none]

theorem wordParts_lt {ps : List Part} (h : ∀ p ∈ ps, p.dpa + p.len < 2 ^ 64) : ∀ p ∈ wordParts ps, p.dpa + p.len < 2 ^ 64 := by
  intro p hp
  obtain ⟨q, hq, hp⟩ := List.mem_flatMap.1 hp
  obtain ⟨i, hi, rfl⟩ := List.mem_map.1 hp
  have := h q hq
  have := List.mem_range.1 hi
  dsimp only
  omega

/-- A plain store of the executing context over parts where it can miss no store. -/
theorem State.plainStore_settled {m : Nat} {l1 : Bool} {ps : List Part} (bs : List Byte) (h : s.settled ps) :
    (s.plainStore l1 s.me s.nextSeq m ps bs).mem = (storeParts s ps bs).mem := by
  rcases ps with _ | ⟨p, r⟩
  · rfl
  · exact State.plainStore_mem (State.me_not_inv (h p List.mem_cons_self).1) (fun x hx => (h x hx).ownOnly _)

theorem execTidset_ok (h : Ready o s) {ps : List Part} (hal : (s.addr o).toNat % 8 = 0) (hn : (s.addr o).toNat + 64 ≤ 2 ^ 48)
    (hacc : accessParts s s.curAsid s.kLevel .read (s.addr o).toNat 64 = .ok (ps, t)) (hw : t.waitsWay ps = false) :
    execTidset o s = .next (((t.loadParts .plain 8 (wordParts ps)).2.setT o.d (dNextGen (BitVec.ofNat 512 (leNat (t.loadParts .plain 8 (wordParts ps)).1)) (dGen (s.getT o.d)))).goTo (s.nextPc o)) := by
  refine runInstr_next h ?_ ?_
  · simp only [tensorAccess_ok (write := false) hal hn hacc, hw]
    rfl
  · rw [State.setT_pc, State.loadParts_ctx, (accessParts_ok hacc).ctx]

theorem execTidget_ok (h : Ready o s) {ps : List Part} (hal : (s.addr o).toNat % 8 = 0) (hn : (s.addr o).toNat + 64 ≤ 2 ^ 48)
    (hacc : accessParts s s.curAsid s.kLevel .write (s.addr o).toNat 64 = .ok (ps, t)) (hw : t.waitsWay ps = false) :
    execTidget o s = .next ((t.plainStore true t.me t.nextSeq 8 (wordParts ps) (leBytes 64 (s.getT o.d).toNat)).goTo (s.nextPc o)) := by
  refine runInstr_next h ?_ ?_
  · simp only [tensorAccess_ok (write := true) hal hn hacc, hw]
    rfl
  · rw [State.ctx_of_core (State.plainStore_core _ _ _ _ _ _ _), (accessParts_ok hacc).ctx]

theorem tidmod_ok (h : Ready o s) (f : Desc → Word → Desc) :
    tidmod o f s = .next ((s.setT o.d (dNextGen (f (s.getT o.d) (s.getS o.a)) (dGen (s.getT o.d)))).goTo (s.nextPc o)) :=
  runPlain_next h rfl (State.setT_pc _ _ _)

end Forms

/-- One field changed, and GEN advanced (R175). -/
theorem tidmod_field (old : Desc) {lo w : Nat} (v : Nat) (h : lo + w ≤ 512) (hd : lo + w ≤ 48 ∨ 64 ≤ lo) {x : Desc} (hx : x = dNextGen (dPut old lo w v) (dGen old)) :
    x.extractLsb' 48 16 = old.extractLsb' 48 16 + 1 ∧ (x.extractLsb' lo w).toNat = v % 2 ^ w ∧
      ∀ k, k < 512 → ¬ (lo ≤ k ∧ k < lo + w) → ¬ (48 ≤ k ∧ k < 64) → x.getLsbD k = old.getLsbD k := by
  subst hx
  refine ⟨gen_dNextGen _ _, by rw [extract_dNextGen _ _ h hd, extract_dPut _ _ h], fun k hk hf hg => ?_⟩
  rw [getLsbD_dNextGen _ _ hk hg, getLsbD_dPut _ _ _ _ hk, if_neg hf]

/-! ## Valid descriptors -/

theorem ite_le_of_le {p : Prop} [Decidable p] {a b c : Nat} (ha : a ≤ c) (hb : b ≤ c) : (if p then a else b) ≤ c := by
  split
  · exact ha
  · exact hb

theorem tidReason_le (t : Desc) : tidReason t ≤ 0x0A := by
  simp only [tidReason]
  repeat refine ite_le_of_le (by decide) ?_
  decide

theorem if_eq_zero {p : Prop} [Decidable p] {a b : Nat} (ha : a ≠ 0) : (if p then a else b) = 0 ↔ ¬ p ∧ b = 0 := by
  by_cases h : p
  · simp [h, ha]
  · simp [h]

/-- A descriptor is valid when none of the conditions of R145 fails (R177). -/
theorem tidReason_eq_zero {t : Desc} : tidReason t = 0 ↔
    ¬ (!dV t || dRank t = 0 || dRank t = 7 || dFmt t = 15) = true ∧
    ¬ ((List.range 6).any (fun d => if d < dRank t then dSize t d = 0 else dSize t d ≠ 1)) = true ∧
    ¬ ((List.range 6).any (fun d => 4 ≤ (dMark t d).toNat && (dMark t d).toNat ≤ 7)) = true ∧
    ¬ (if fmtBfp (dFmt t) then dBsh t ≠ 5 || dScf t ≠ 1 else dBsh t ≠ 0 || dScf t ≠ 0) = true ∧
    ¬ ((fmtBfp (dFmt t) || dFmt t = 7) && dStride t 0 ≠ 0) = true ∧
    ¬ (!(fmtBfp (dFmt t) || dFmt t = 7) && dStride t 0 ≠ 0 && (dStride t 0).natAbs ≠ fmtBits (dFmt t) / 8) = true ∧
    ¬ (if fmtBfp (dFmt t) then dCols t % 32 ≠ 0 else dCols t * fmtBits (dFmt t) % 128 ≠ 0) ∧
    ¬ 16384 < dCols t * dRows t * fmtBits (dFmt t) / 8 ∧ ¬ (!dInRange t) = true ∧ ¬ dField t 69 11 ≠ 0 := by
  unfold tidReason
  simp only [if_eq_zero (show (0x01 : Nat) ≠ 0 by decide), if_eq_zero (show (0x02 : Nat) ≠ 0 by decide), if_eq_zero (show (0x03 : Nat) ≠ 0 by decide),
    if_eq_zero (show (0x04 : Nat) ≠ 0 by decide), if_eq_zero (show (0x05 : Nat) ≠ 0 by decide), if_eq_zero (show (0x06 : Nat) ≠ 0 by decide),
    if_eq_zero (show (0x07 : Nat) ≠ 0 by decide), if_eq_zero (show (0x08 : Nat) ≠ 0 by decide), if_eq_zero (show (0x09 : Nat) ≠ 0 by decide),
    if_eq_zero (show (0x0A : Nat) ≠ 0 by decide), and_true]

/-- What a valid descriptor holds (R145). -/
theorem tidReason_valid {t : Desc} (h : tidReason t = 0) :
    t.getLsbD 67 = true ∧ 1 ≤ dRank t ∧ dRank t ≤ 6 ∧ dFmt t ≠ 15 ∧ dField t 69 11 = 0 ∧
      (∀ d, d < dRank t → dSize t d ≠ 0) ∧ (∀ d, dRank t ≤ d → d < 6 → dSize t d = 1) ∧ dCols t * dRows t * fmtBits (dFmt t) ≤ 8 * 16384 + 7 ∧
      (fmtBfp (dFmt t) = true → dCols t % 32 = 0 ∧ dStride t 0 = 0) ∧ (∀ d, d < 6 → ¬ (4 ≤ (dMark t d).toNat ∧ (dMark t d).toNat ≤ 7)) := by
  obtain ⟨h1, h2, h3, -, h5, -, h7, h8, -, h10⟩ := tidReason_eq_zero.1 h
  simp only [Bool.or_eq_true, decide_eq_true_eq, Bool.not_eq_true', not_or, Bool.not_eq_false] at h1
  simp only [List.any_eq_true, List.mem_range, not_exists, not_and, Bool.and_eq_true, decide_eq_true_eq] at h2 h3
  obtain ⟨⟨⟨hv, hr0⟩, hr7⟩, hf⟩ := h1
  have hr : dRank t < 8 := Nat.mod_lt _ (by decide)
  refine ⟨hv, by omega, by omega, hf, not_not.1 h10, fun d hd => ?_, fun d hd hd6 => ?_, by omega, fun hb => ?_, fun d hd hm => ?_⟩
  · have := h2 d (by omega)
    rw [if_pos hd] at this
    simpa using this
  · have := h2 d hd6
    rw [if_neg (by omega)] at this
    simpa using this
  · rw [if_pos hb] at h7
    simp only [hb, Bool.true_or, Bool.true_and, decide_eq_true_eq] at h5
    exact ⟨not_not.1 h7, not_not.1 h5⟩
  · exact h3 d hd hm.1 hm.2

/-- Where a descriptor puts an element of a format of whole bytes (R147). -/
theorem elemAddr_bytes {t : Desc} {c : List Nat} (hb : fmtBfp (dFmt t) = false) (h7 : dFmt t ≠ 7) :
    elemAddr t c = (((dBase t : Int) + c.getD 0 0 * dStride t 0 + c.getD 1 0 * dStride t 1 + c.getD 2 0 * dStride t 2 + c.getD 3 0 * dStride t 3
      + c.getD 4 0 * dStride t 4 + c.getD 5 0 * dStride t 5).toNat, 0) := by
  simp only [elemAddr, hb, h7, Bool.false_eq_true, if_false, List.foldl_cons, List.foldl_nil]
  congr 2
  ring

/-- Settles O21. -/
theorem tensorTableResults : Obligations.TensorTableResults := by
  refine ⟨?table, fun t => ⟨tidReason_valid, fun c _ hb h7 => elemAddr_bytes hb h7⟩⟩
  case table =>
    intro o s h a old gen go
    refine ⟨fun hal hn => ⟨fun ps t hacc hw => ?tidset, fun ps t hacc hw => ?tidget⟩, fun hal => ?misaligned, fun i lo w v hi himm => ?tidmod, ?tidchk⟩
    case tidset =>
      intro r
      have htlb := accessParts_ok hacc
      have hlt := wordParts_lt (fun p hp => accessParts_lt hn hacc hp)
      refine ⟨_, (execTidset_ok h hal hn hacc hw : execTidset o s = _), gen_dNextGen _ _, by rw [State.loadParts_mem, htlb.mem], fun k hk hg => getLsbD_dNextGen _ _ hk hg, fun hs => ?_⟩
      rw [State.loadParts_settled (by decide) hlt hs, htlb.readParts]
    case tidget =>
      intro u
      exact ⟨(execTidget_ok h hal hn hacc hw : execTidget o s = _), fun hs => State.plainStore_settled _ hs⟩
    case misaligned =>
      obtain ⟨k, hk⟩ := tensorAccess_misaligned (o := o) (s := s) (write := false) hal
      refine ⟨k, (runInstr_trap h ?_ : execTidset o s = _)⟩
      simp only [hk]
      rfl
    case tidmod =>
      simp only [List.mem_cons, Prod.mk.injEq, List.not_mem_nil, or_false] at hi
      rcases hi with ⟨rfl, rfl, rfl, rfl⟩ | ⟨rfl, rfl, rfl, rfl⟩ | ⟨rfl, rfl, rfl, rfl⟩ | ⟨rfl, rfl, rfl, rfl⟩ | ⟨rfl, rfl, rfl, rfl⟩ | ⟨rfl, rfl, rfl, rfl⟩
      · exact ⟨_, (tidmod_ok h _ : execTidmodBase o s = _), tidmod_field old _ (by decide) (by decide) rfl⟩
      · exact ⟨_, (tidmod_ok h _ : execTidmodSbase o s = _), tidmod_field old _ (by decide) (by decide) rfl⟩
      · have := himm (.inl rfl)
        exact ⟨_, (tidmod_ok h _ : execTidmodSize o s = _), tidmod_field old _ (by omega) (by omega) rfl⟩
      · have := himm (.inr rfl)
        exact ⟨_, (tidmod_ok h _ : execTidmodStride o s = _), tidmod_field old _ (by omega) (by omega) rfl⟩
      · exact ⟨_, (tidmod_ok h _ : execTidmodValid o s = _), tidmod_field old _ (by decide) (by decide) rfl⟩
      · exact ⟨_, (tidmod_ok h _ : execTidmodAddbase o s = _), tidmod_field old _ (by decide) (by decide) rfl⟩
    case tidchk =>
      refine ⟨_, (runPlain_status h rfl rfl : execTidchk o s = _), ?_⟩
      have h1 := tidReason_le (s.getT o.a)
      have h2 := (dGen (s.getT o.a)).isLt
      rw [BitVec.toNat_ofNat, show gen (s.getT o.a) = dGen (s.getT o.a) from rfl]
      omega

end Sys2Proof.Machine
end

section
/-! PROOFS. Binding, seeking, configuring and reading a port (R163, R178 to R184). -/

namespace Sys2Proof.Machine

theorem State.putPort_ctx (s : State) (n : Nat) (x : Port) : (s.putPort n x).ctx = s.ctx :=
  State.ctx_of_ctxOf rfl (fun v => by cases v <;> rfl)

theorem State.putPort_pc (s : State) (n : Nat) (x : Port) : (s.putPort n x).ctx.pc = s.ctx.pc := by rw [State.putPort_ctx]

section Forms

variable {o : Ops} {s : State}

/-- The first check of an instruction that configures a port: no invocation uses it. -/
theorem idle_not_busy {n : Nat} (hi : s.core.quiescentPort n = true) : ¬ (!s.core.quiescentPort n) = true := by
  rw [hi]
  exact Bool.false_ne_true

/-- The port as PBIND would leave it (R178). -/
def boundPort (s : State) (o : Ops) : Port :=
  (s.port o.d.toNat).bindTo (s.getT o.a) o.a (o.q.setWidth 2) (o.m.getLsbD 2) (o.m.setWidth 2) s.core.cur s.ctx.delivered

theorem execPbind_ok (h : Ready o s) (hi : s.core.quiescentPort o.d.toNat = true) (hb : bindBreach (boundPort s o) o.d.toNat o.a.toNat = none) :
    execPbind o s = .next ((s.putPort o.d.toNat (boundPort s o)).goTo (s.nextPc o)) := by
  refine runInstr_next h ((if_neg (idle_not_busy hi)).trans ?_) (State.putPort_pc _ _ _)
  rw [boundPort] at hb ⊢
  simp only [hb]

/-- PBIND of a descriptor that is not valid (R178). -/
theorem execPbind_invalid (h : Ready o s) (hi : s.core.quiescentPort o.d.toNat = true) (hr : tidReason (s.getT o.a) ≠ 0) :
    ∃ k, execPbind o s = .next (s.trapA ⟨cTidInvalid, some (BitVec.ofNat 64 (tidReason (s.getT o.a))), none, some k, none⟩ o.form.bytes) := by
  have hb : bindBreach (boundPort s o) o.d.toNat o.a.toNat = some (unitTrap cTidInvalid (some (tidReason (s.getT o.a))) none o.d.toNat o.a.toNat 0) := if_pos hr
  refine ⟨BitVec.ofNat 64 (o.d.toNat % 256 + o.a.toNat % 256 * 256 + 0 * 65536), runInstr_trap h ((if_neg (idle_not_busy hi)).trans ?_)⟩
  rw [boundPort] at hb
  simp only [hb]
  rfl

/-- The port as PUNBIND leaves it (R179). -/
def unboundPort (s : State) (o : Ops) : Port :=
  { (s.port o.d.toNat).restart with
    bound := false
    tid := 0
    gen := 0
    desc := 0
    mode := 0
    wr := false
    ouop := 0
    seekOrg := []
    seekLen := []
    owner := if (s.port o.d.toNat).lead then (s.port o.d.toNat).owner else none }

/-- The port as PSEEK leaves it (R180). -/
def soughtPort (s : State) (o : Ops) : Port :=
  { (s.port o.d.toNat).restart with
    seekOrg := SMap.set 0 (s.port o.d.toNat).seekOrg o.q.toNat (s.getS o.a).toNat
    seekLen := SMap.set 0 (s.port o.d.toNat).seekLen o.q.toNat (s.getS o.b).toNat }

theorem execPseek_ok (h : Ready o s) (hi : s.core.quiescentPort o.d.toNat = true) (hb : (s.port o.d.toNat).bound = true)
    (hk : seekBad (s.port o.d.toNat).desc o.q.toNat (s.getS o.a).toNat (s.getS o.b).toNat = false) :
    execPseek o s = .next ((s.putPort o.d.toNat (soughtPort s o)).goTo (s.nextPc o)) := by
  refine runInstr_next h ((if_neg (idle_not_busy hi)).trans ((if_neg ?_).trans (if_neg ?_))) (State.putPort_pc _ _ _)
  · rw [hb]
    exact Bool.false_ne_true
  · rw [hk]
    exact Bool.false_ne_true

/-- The range of the dimension that PSEEK names, and that of every other (R180). -/
theorem soughtPort_range (hk : seekBad (s.port o.d.toNat).desc o.q.toNat (s.getS o.a).toNat (s.getS o.b).toNat = false) :
    (soughtPort s o).org o.q.toNat = (s.getS o.a).toNat ∧ (soughtPort s o).len o.q.toNat = (s.getS o.b).toNat ∧
      ∀ d, d ≠ o.q.toNat → (soughtPort s o).org d = (s.port o.d.toNat).org d ∧ (soughtPort s o).len d = (s.port o.d.toNat).len d := by
  have hn : (s.getS o.b).toNat ≠ 0 := by
    simp only [seekBad, Bool.or_eq_false_iff, decide_eq_false_iff_not] at hk
    exact hk.1.1.1.2
  refine ⟨SMap.get_set_self _ _ _ _, ?_, fun d hd => ⟨SMap.get_set_ne _ _ _ hd, ?_⟩⟩
  · simp only [Port.len, soughtPort, SMap.get_set_self, if_neg hn]
  · simp only [Port.len, soughtPort, SMap.get_set_ne _ _ _ hd]
    rfl

end Forms

/-- A traversal that begins again. -/
def Port.Fresh (x : Port) : Prop := x.cursor = 0 ∧ x.rowCursor = 0 ∧ x.fifo = [] ∧ x.outMarks = [] ∧ x.ended = false ∧ x.fault = none ∧ x.drops = []

/-- Windows and transform stages kept. -/
def Port.Keeps (p x : Port) : Prop :=
  x.wins = p.wins ∧ x.xTranspose = p.xTranspose ∧ x.xPermute = p.xPermute ∧ x.xBroadcast = p.xBroadcast ∧ x.xConvert = p.xConvert ∧ x.xQrow = p.xQrow

theorem Port.fresh_restart (p : Port) : p.restart.Fresh := ⟨rfl, rfl, rfl, rfl, rfl, rfl, rfl⟩

theorem Port.keeps_restart (p : Port) : p.Keeps p.restart := ⟨rfl, rfl, rfl, rfl, rfl, rfl⟩

/-- A binding (R178). -/
theorem Port.bindTo_fields (p : Port) (t : Desc) (tn : BitVec 6) (mode : BitVec 2) (wr : Bool) (op : BitVec 2) (c : CtxId) (n : Nat) :
    (p.bindTo t tn mode wr op c n).Fresh ∧ p.Keeps (p.bindTo t tn mode wr op c n) ∧ (p.bindTo t tn mode wr op c n).bound = true ∧ (p.bindTo t tn mode wr op c n).desc = t ∧
      (p.bindTo t tn mode wr op c n).gen = t.extractLsb' 48 16 ∧ (p.bindTo t tn mode wr op c n).tid = tn ∧ (p.bindTo t tn mode wr op c n).mode = mode ∧
      (p.bindTo t tn mode wr op c n).wr = wr ∧ (p.bindTo t tn mode wr op c n).owner = some c ∧ (p.bindTo t tn mode wr op c n).kExtent = p.kExtent ∧
      (p.bindTo t tn mode wr op c n).edge = p.edge ∧ ((p.bindTo t tn mode wr op c n).lead = true ↔ p.lead = true ∧ p.owner = some c) := by
  refine ⟨p.fresh_restart, p.keeps_restart, rfl, rfl, rfl, rfl, rfl, rfl, rfl, rfl, rfl, ?_⟩
  show (p.lead && decide (p.owner = some c)) = true ↔ _
  rw [Bool.and_eq_true, decide_eq_true_eq]

/-! ## PSTAT's word -/

theorem Core.writeQueue_le (c : Core) (pn free : Nat) : c.writeQueue pn free ≤ 32 := by
  simp only [Core.writeQueue]
  split
  · exact Nat.zero_le _
  · split
    · exact min_le_left _ _
    · omega

/-- The beats that PSTAT shows in the data queue (R181). -/
def portQueue (c : Core) (pn free : Nat) : Nat :=
  if (SMap.get Port.reset c.ports pn).wr then c.writeQueue pn free else min 32 ((SMap.get Port.reset c.ports pn).fifo.length - c.slotsAt pn)

/-- The line requests that PSTAT shows in flight (R181). -/
def portInFlight (c : Core) (pn free : Nat) : Nat :=
  if !c.quiescentPort pn || (SMap.get Port.reset c.ports pn).lead then (Config.freeWord free).toNat % 65 else 0

theorem portQueue_le (c : Core) (pn free : Nat) : portQueue c pn free ≤ 32 := by
  unfold portQueue
  split
  · exact c.writeQueue_le pn free
  · exact min_le_left _ _

theorem portInFlight_le (c : Core) (pn free : Nat) : portInFlight c pn free ≤ 64 := by
  unfold portInFlight
  split
  · omega
  · exact Nat.zero_le _

/-- PSTAT's word as the sum of its fields at their places. -/
theorem portWord_eq_sum (c : Core) (pn free : Nat) {p : Port} (hp : SMap.get Port.reset c.ports pn = p) :
    portWord c pn free = BitVec.ofNat 64 (p.bound.toNat * 2 ^ 63 + p.mode.toNat * 2 ^ 61 + p.wr.toNat * 2 ^ 60 + p.ouop.toNat * 2 ^ 58 + p.tid.toNat * 2 ^ 52 + p.gen.toNat * 2 ^ 36
      + p.fault.isSome.toNat * 2 ^ 35 + (c.quiescentPort pn).toNat * 2 ^ 34 + p.xTranspose.toNat * 2 ^ 29 + p.xPermute.isSome.toNat * 2 ^ 30 + p.xBroadcast.isSome.toNat * 2 ^ 31
      + p.xConvert.isSome.toNat * 2 ^ 32 + p.xQrow.isSome.toNat * 2 ^ 33 + portQueue c pn free * 2 ^ 23 + portInFlight c pn free * 2 ^ 16 + min 8 (c.portCount pn) * 2 ^ 12) := by
  have hbit : ∀ (x : Bool) (n : Nat), (if x then 2 ^ n else 0) = x.toNat * 2 ^ n := fun x n => by cases x <;> simp
  subst hp
  simp only [portWord, hbit]
  rfl

theorem portWord_fields (c : Core) (pn free : Nat) {p : Port} (hp : SMap.get Port.reset c.ports pn = p) {w : Word} (hw : w = portWord c pn free) :
    w.getLsbD 63 = p.bound ∧ w.extractLsb' 61 2 = p.mode ∧ w.getLsbD 60 = p.wr ∧ w.extractLsb' 58 2 = p.ouop ∧ w.extractLsb' 52 6 = p.tid ∧ w.extractLsb' 36 16 = p.gen ∧
      w.getLsbD 35 = p.fault.isSome ∧ w.getLsbD 34 = c.quiescentPort pn ∧ w.getLsbD 33 = p.xQrow.isSome ∧ w.getLsbD 32 = p.xConvert.isSome ∧
      w.getLsbD 31 = p.xBroadcast.isSome ∧ w.getLsbD 30 = p.xPermute.isSome ∧ w.getLsbD 29 = p.xTranspose ∧ (w.extractLsb' 23 6).toNat = portQueue c pn free ∧
      (w.extractLsb' 16 7).toNat = portInFlight c pn free ∧ (w.extractLsb' 12 4).toNat = min 8 (c.portCount pn) := by
  have h1 := p.bound.toNat_lt
  have h2 := p.mode.isLt
  have h3 := p.wr.toNat_lt
  have h4 := p.ouop.isLt
  have h5 := p.tid.isLt
  have h6 := p.gen.isLt
  have h7 := p.fault.isSome.toNat_lt
  have h8 := (c.quiescentPort pn).toNat_lt
  have h9 := p.xTranspose.toNat_lt
  have h10 := p.xPermute.isSome.toNat_lt
  have h11 := p.xBroadcast.isSome.toNat_lt
  have h12 := p.xConvert.isSome.toNat_lt
  have h13 := p.xQrow.isSome.toNat_lt
  have h14 := portQueue_le c pn free
  have h15 := portInFlight_le c pn free
  have h16 : min 8 (c.portCount pn) ≤ 8 := min_le_left _ _
  rw [portWord_eq_sum c pn free hp] at hw
  generalize portQueue c pn free = q at *
  generalize portInFlight c pn free = i at *
  generalize min 8 (c.portCount pn) = k at *
  subst hw
  refine ⟨?b63, ?f61, ?b60, ?f58, ?f52, ?f36, ?b35, ?b34, ?b33, ?b32, ?b31, ?b30, ?b29, ?f23, ?f16, ?f12⟩
  case b63 | b60 | b35 | b34 | b33 | b32 | b31 | b30 | b29 => exact getLsbD_ofNat_of_div_mod (by decide) (by omega)
  case f61 | f58 | f52 | f36 =>
    apply BitVec.eq_of_toNat_eq
    rw [toNat_extractLsb'_ofNat (by decide)]
    omega
  case f23 | f16 | f12 =>
    rw [toNat_extractLsb'_ofNat (by decide)]
    omega

/-! ## Windows -/

/-- A window with a bit cleared. -/
theorem getLsbD_clear_bit (w : BitVec 128) {n : Nat} (hn : n < 128) (k : Nat) : (w &&& ~~~(BitVec.twoPow 128 n)).getLsbD k = (w.getLsbD k && decide (k ≠ n)) := by
  by_cases hk : k < 128
  · rw [BitVec.getLsbD_and, BitVec.getLsbD_not, BitVec.getLsbD_twoPow]
    simp [hk, hn, eq_comm]
  · simp [BitVec.getLsbD_of_ge _ _ (not_lt.1 hk)]

/-- The windows as PFLUSH.WIN leaves them (R184). -/
def uncheckedWins (m : SMap (BitVec 128)) : SMap (BitVec 128) := (List.range 4).foldl (fun m e => SMap.set 0 m e (SMap.get 0 m e &&& ~~~2#128)) m

theorem get_uncheckedWins (m : SMap (BitVec 128)) {e : Nat} (he : e < 4) : SMap.get 0 (uncheckedWins m) e = SMap.get 0 m e &&& ~~~2#128 := by
  simp only [uncheckedWins, show List.range 4 = [0, 1, 2, 3] from rfl, List.foldl_cons, List.foldl_nil, SMap.get_set]
  interval_cases e <;> rfl

/-- Settles O22. -/
theorem portResults : Obligations.PortResults := by
  intro o s h n p idle go fresh kept
  refine ⟨fun hi => ?pbind, fun hi hr => (execPbind_invalid h hi hr : ∃ k, execPbind o s = _), fun hi => ?punbind, fun hi hb hk => ?pseek, fun hi hb => ?pseekUnbound, ?pstat, fun hm hi => ?pwinClear,
    fun hm => ?pwin, fun hi hq hw hb => ?pxform, fun hi hq => ?pflush, fun hi hq => ?pflushWin⟩
  case pbind =>
    exact ⟨boundPort s o, fun hb => (execPbind_ok h hi hb : execPbind o s = _), Port.bindTo_fields _ _ _ _ _ _ _ _⟩
  case punbind =>
    refine ⟨unboundPort s o, (runInstr_next h (if_neg (idle_not_busy hi)) (State.putPort_pc _ _ _) : execPunbind o s = _), ⟨rfl, rfl, rfl, rfl, rfl, rfl, rfl⟩, ⟨rfl, rfl, rfl, rfl, rfl, rfl⟩,
      rfl, rfl, fun hl => if_neg (hl ▸ Bool.false_ne_true)⟩
  case pseek =>
    obtain ⟨horg, hlen, hrest⟩ := soughtPort_range hk
    exact ⟨soughtPort s o, (execPseek_ok h hi hb hk : execPseek o s = _), p.fresh_restart, p.keeps_restart, rfl, horg, hlen, hrest⟩
  case pseekUnbound =>
    refine ⟨_, (runInstr_trap h ((if_neg (idle_not_busy hi)).trans (if_pos ?_)) : execPseek o s = _)⟩
    show (!p.bound) = true
    rw [hb]
    rfl
  case pstat =>
    obtain ⟨w, hw⟩ : ∃ w, w = portWord s.core o.a.toNat s.free := ⟨_, rfl⟩
    obtain ⟨h63, h61, h60, h58, h52, h36, h35, h34, h33, h32, h31, h30, h29, h23, h16, h12⟩ := portWord_fields s.core o.a.toNat s.free rfl hw
    refine ⟨w, (runPlain_status (t := { s with free := s.free + 2 }) h (by rw [hw]) rfl : execPstat o s = _), h63, h61, h60, h58, h52, h36, h35, h34, h33, h32, h31, h30, h29, ?_, fun hwr => ?_, ?_, fun hl hq => ?_, h12⟩
    · rw [h23]
      exact portQueue_le _ _ _
    · have hread : (SMap.get Port.reset s.core.ports o.a.toNat).wr = false := hwr
      rw [h23, portQueue, hread]
      rfl
    · rw [h16]
      exact portInFlight_le _ _ _
    · apply BitVec.eq_of_toNat_eq
      rw [h16, portInFlight, hq, show (SMap.get Port.reset s.core.ports o.a.toNat).lead = false from hl]
      rfl
  case pwinClear =>
    refine ⟨{ s.port o.a.toNat with wins := SMap.set 0 (s.port o.a.toNat).wins (o.imm.toNat / 2) (SMap.get 0 (s.port o.a.toNat).wins (o.imm.toNat / 2) &&& ~~~1#128) },
      (runInstr_status h ((if_pos hm).trans (if_neg (idle_not_busy hi))) (State.putPort_pc _ _ _) : execPwin o s = _), ?_, fun k hk => SMap.get_set_ne _ _ _ hk⟩
    rw [SMap.get_set_self]
    exact (getLsbD_clear_bit _ (n := 0) (by decide) 0).trans (by simp)
  case pwin => exact (runInstr_status h (if_neg hm) rfl : execPwin o s = _)
  case pxform =>
    refine (runInstr_next h ((if_neg (idle_not_busy hi)).trans ((if_neg ?_).trans ?_)) (State.putPort_pc _ _ _) : execPxform o s = _)
    · simp only [Bool.and_eq_true, decide_eq_true_eq, not_and, not_not]
      exact fun _ => hw
    · have hb' : (s.port o.d.toNat).bound = false := hb
      simp only [hb', Bool.false_and, Bool.false_eq_true, if_false]
      rfl
  case pflush =>
    refine (runInstr_next h ((if_neg (idle_not_busy hi)).trans (if_neg hq)) ?_ : execPflush o s = _)
    rw [State.ctx_of_core (State.acquire_core _ _ _ _)]
  case pflushWin =>
    refine ⟨{ p with wins := uncheckedWins p.wins }, (runInstr_next h ((if_neg (idle_not_busy hi)).trans (if_pos hq)) ?_ : execPflush o s = _), fun e he => ?_⟩
    · rw [State.putPort_pc, State.ctx_of_core (State.acquire_core _ _ _ _)]
    · rw [get_uncheckedWins _ he]
      have hclear := getLsbD_clear_bit (SMap.get 0 p.wins e) (n := 1) (by decide)
      exact ⟨(hclear 1).trans (by simp), fun k hk => (hclear k).trans (by simp [hk])⟩

end Sys2Proof.Machine
end

section
/-! PROOFS. Invocations join their queues (R31, R32, R185 to R189, R200, R348 to R358, R395 to R397, R410 to R413). -/

namespace Sys2Proof.Machine

/-! ## Issue -/

section Issue

variable {o : Ops} {s : State}

@[simp] theorem State.addInv_core (s : State) (v : Inv) : (s.addInv v).core = { s.core with invs := s.core.invs ++ [v], nextInv := s.core.nextInv + 1 } := rfl

@[simp] theorem State.addInv_ctx (s : State) (v : Inv) : (s.addInv v).ctx = s.ctx := State.ctx_of_ctxOf rfl (fun u => by cases u <;> rfl)

/-- A queue with room takes an engine's invocation. -/
theorem State.issue_room {op : Nat} {ports : List Nat} {held : Bool} (h : s.core.queueFull op ports = false) :
    s.issue op o ports held = .next (s.addInv (s.newInv op o ports held)) := by
  rw [State.issue, h]
  rfl

/-- The queue of MX or of VX is full by its own count alone. -/
theorem Core.queueFull_engine {c : Core} {op u : Nat} {ports : List Nat} (hu : unitOf op = u) (hlt : u < 2) (h : c.engineCount u < 8) : c.queueFull op ports = false := by
  simp [Core.queueFull, hu, not_le.2 h, not_le.2 hlt]

theorem Core.queueFull_merge {c : Core} {op : Nat} {ports : List Nat} (hu : unitOf op = 2) (h : c.engineCount 2 < 8) (hp : ∀ p, c.portCount p < 8) : c.queueFull op ports = false := by
  simp [Core.queueFull, hu, h, hp]

/-- A barrier register that passes its checks stops no issue. -/
theorem barCheck_ok {r : BitVec 6} (h : BarrierOk s r) (port tensor : Nat) : barCheck s r port tensor = none := by
  unfold barCheck
  split
  · rfl
  · next hr =>
    obtain ⟨h8, hlt⟩ := h hr
    rw [barBreach, if_neg (not_not.2 h8), if_neg (not_le.2 hlt)]

theorem mxBarCheck_ok {r : BitVec 6} (h : BarrierOk s r) (slot acc : Nat) : mxBarCheck s r slot acc = none := by
  rw [mxBarCheck, barCheck_ok h]
  rfl

theorem mxSpCheck_ok {off align n : Nat} (ha : off % align = 0) (hn : off + n ≤ 0x400000) (slot acc : Nat) : mxSpCheck off align n slot acc = none := by
  rw [mxSpCheck, if_neg (not_not.2 ha), spFlt, if_neg (not_lt.2 hn)]
  rfl

theorem slotCheck_ok {n : Nat} (h : n < 32) : slotCheck n = none := if_neg (not_le.2 h)

theorem mgIssue_ok {op : Nat} {ports : List Nat} (hb : BarrierOk s o.c) (hq : s.core.queueFull op ports.eraseDups = false) :
    mgIssue s op o ports none = .next (s.addInv (s.newInv op o ports.eraseDups (o.m.getLsbD 2))) := by
  simp only [mgIssue, barCheck_ok hb, State.issue_room hq]

/-- A form whose body issues an invocation goes on. -/
theorem runInstr_issue (h : Ready o s) {body : State → Eff} {op : Nat} {ports : List Nat} {held : Bool} (hq : s.core.queueFull op ports = false)
    (hb : body s = s.issue op o ports held) : runInstr o body s = .next ((s.addInv (s.newInv op o ports held)).goTo (s.nextPc o)) :=
  runInstr_next h (hb.trans (State.issue_room hq)) (by rw [State.addInv_ctx])

/-- MXMMA and its kin: no check before the issue finds a breach. -/
theorem issueUnless_ok {l : List (Option TrapInfo)} {e : Eff} (h : ∀ x ∈ l, x = none) : issueUnless s l e = e := by
  have : l.findSome? (fun x => x) = none := List.findSome?_eq_none_iff.2 h
  rw [issueUnless, this]

theorem portForm_issues (h : Ready o s) {op pn : Nat} (hu : unitOf op = 1) (hr : Room s 1) (hb : BarrierOk s o.b) :
    portForm o op pn s = .next ((s.addInv (s.newInv op o [pn] (o.m.getLsbD 2))).goTo (s.nextPc o)) :=
  runInstr_issue h (Core.queueFull_engine hu (by norm_num) hr) (by simp only [barCheck_ok hb])

end Issue

/-! ## Set operations (R410, R411) -/

section Sets

variable {o : Ops} {s : State}

/-- The ports of a set operation: its lists, and the output that bit 0 of M asks for. -/
def setPorts (o : Ops) : List Nat := (o.a.toNat :: o.b.toNat :: if o.m.getLsbD 0 then [o.uimm] else []).eraseDups

/-- A set operation that emits no mark joins its queue. -/
theorem issueSet_plain (h : Ready o s) {op : Nat} (hq : s.core.queueFull op (setPorts o) = false) (hb : BarrierOk s o.c) (hm : o.m.getLsbD 1 = false) :
    runInstr o (fun t => issueSet t op o) s = .next ((s.addInv (s.newInv op o (setPorts o) (o.m.getLsbD 2))).goTo (s.nextPc o)) := by
  refine runInstr_next h ?_ (by rw [State.addInv_ctx])
  simp only [issueSet, hm, Bool.false_and, Bool.false_eq_true, if_false]
  exact mgIssue_ok hb hq

/-- A set operation with .MK reserves the place of its mark. -/
theorem issueSet_marks (h : Ready o s) {op : Nat} (hq : s.core.queueFull op (setPorts o) = false) (hb : BarrierOk s o.c) (hm : o.m.getLsbD 1 = true)
    (hk : s.core.cur ≠ .k) (hl : s.ctx.ins.length < 16) :
    runInstr o (fun t => issueSet t op o) s =
      .next (((s.addInv (s.newInv op o (setPorts o) (o.m.getLsbD 2))).putCtx { s.ctx with ins := s.ctx.ins ++ [⟨.afterData s.ctx.qbase, none, s.core.nextInv⟩] }).goTo (s.nextPc o)) := by
  refine runInstr_next h ?_ (by simp)
  simp only [issueSet, hm, State.kLevel, hk, decide_false, Bool.not_false, Bool.and_self, if_true, if_neg (not_le.2 hl)]
  simp only [mgIssue_ok hb hq, State.addInv_ctx]
  rfl

/-- A set operation with .MK finds the insertion buffer full. -/
theorem issueSet_full (h : Ready o s) {op : Nat} (hm : o.m.getLsbD 1 = true) (hk : s.core.cur ≠ .k) (hl : 16 ≤ s.ctx.ins.length) :
    runInstr o (fun t => issueSet t op o) s = .next (s.trapA ⟨cStackOverflow, some 2, some (BitVec.ofNat 64 s.ctx.ins.length), none, none⟩ o.form.bytes) := by
  refine runInstr_trap h ?_
  simp only [issueSet, hm, State.kLevel, hk, decide_false, Bool.not_false, Bool.and_self, if_true, if_pos hl]
  rfl

end Sets

/-- Settles O31: each form's checks pass, its queue has room, and `State.issue` takes the invocation. -/
theorem engineIssue : Obligations.EngineIssue := by
  unfold Obligations.EngineIssue
  intro o s h held sel sp
  refine ⟨fun hr => ?mx, fun hr hb => ?vx, fun hr hp hb => ?mg⟩
  case mx =>
    have hq : ∀ op ports, unitOf op = 0 → s.core.queueFull op ports = false := fun op ports hu => Core.queueFull_engine hu (by norm_num) hr
    refine ⟨fun h14 h32 hb => ?mma, ?zero, ?scale, fun hsp => ?ldacc, fun hb => ⟨fun hm hsp => ?raw, fun hm => ?drain⟩, fun hs hb => ?wload, fun hs => ?wdrop, ?wdropAll⟩
    case mma =>
      have hsel : ¬ ((mxSel (s.getS o.b) o % 256 / 32 ≠ 0 || decide (2 ^ 14 ≤ mxSel (s.getS o.b) o)) = true) := by
        have : mxSel (s.getS o.b) o = sel := rfl
        simp only [Bool.or_eq_true, decide_eq_true_eq, this]
        omega
      refine ⟨fun hm => ?_, fun hm hsp => ?_⟩
      · refine (runInstr_issue h (hq 0x90 _ rfl) ?_ : execMxmma o s = _)
        simp only [hm, if_neg hsel, mxBarCheck_ok hb, Bool.false_eq_true, if_false]
        exact issueUnless_ok (by simp)
      · refine (runInstr_issue h (hq 0x90 _ rfl) ?_ : execMxmma o s = _)
        simp only [hm, if_neg hsel, mxBarCheck_ok hb, mxSpCheck_ok hsp.1 hsp.2, if_true]
        exact issueUnless_ok (by simp)
    case zero => exact (runInstr_issue h (hq _ _ rfl) rfl : execMxzero o s = _)
    case scale => exact (runInstr_issue h (hq _ _ rfl) rfl : execMxscale o s = _)
    case ldacc => exact (runInstr_issue h (hq _ _ rfl) (issueUnless_ok (by simp [mxSpCheck_ok hsp.1 hsp.2])) : execMxldacc o s = _)
    case raw =>
      refine (runInstr_issue h (hq 0x93 _ rfl) ?_ : execMxstacc o s = _)
      simp only [hm, if_true, mxSpCheck_ok hsp.1 hsp.2, mxBarCheck_ok hb]
      exact issueUnless_ok (by simp)
    case drain =>
      refine (runInstr_issue h (hq 0x93 _ rfl) ?_ : execMxstacc o s = _)
      simp only [hm, Bool.false_eq_true, if_false, mxBarCheck_ok hb]
      exact issueUnless_ok (by simp)
    case wload => exact (runInstr_issue h (hq _ _ rfl) (issueUnless_ok (by simp [slotCheck_ok (show weightSlot (s.getS o.b) o < 32 from hs), mxBarCheck_ok hb])) : execMxwload o s = _)
    case wdrop => exact (runInstr_issue h (hq _ _ rfl) (issueUnless_ok (by simp [slotCheck_ok (show weightSlot (s.getS o.a) o < 32 from hs)])) : execMxwdrop o s = _)
    case wdropAll => exact (runInstr_issue h (hq _ _ rfl) rfl : execMxwdropAll o s = _)
  case vx => exact ⟨(portForm_issues h rfl hr hb : execVprd o s = _), (portForm_issues h rfl hr hb : execVpwr o s = _)⟩
  case mg =>
    have hq : ∀ op ports, unitOf op = 2 → s.core.queueFull op ports = false := fun op ports hu => Core.queueFull_merge hu hr hp
    refine ⟨fun hm => ⟨?isect, ?union, ?diff, ?merge⟩, fun i op hi hm => ⟨fun hk hl => ?marks, fun hk hl => ?full⟩, ?seq, fun hs => ?steer⟩
    case isect => exact (issueSet_plain h (hq _ _ rfl) hb hm : execMgisect o s = _)
    case union => exact (issueSet_plain h (hq _ _ rfl) hb hm : execMgunion o s = _)
    case diff => exact (issueSet_plain h (hq _ _ rfl) hb hm : execMgdiff o s = _)
    case merge => exact (issueSet_plain h (hq _ _ rfl) hb hm : execMgmerge o s = _)
    case marks =>
      simp only [List.mem_cons, Prod.mk.injEq, List.not_mem_nil, or_false] at hi
      rcases hi with ⟨rfl, rfl⟩ | ⟨rfl, rfl⟩ | ⟨rfl, rfl⟩ | ⟨rfl, rfl⟩
      · exact (issueSet_marks h (hq _ _ rfl) hb hm hk hl : execMgisect o s = _)
      · exact (issueSet_marks h (hq _ _ rfl) hb hm hk hl : execMgunion o s = _)
      · exact (issueSet_marks h (hq _ _ rfl) hb hm hk hl : execMgdiff o s = _)
      · exact (issueSet_marks h (hq _ _ rfl) hb hm hk hl : execMgmerge o s = _)
    case full =>
      simp only [List.mem_cons, Prod.mk.injEq, List.not_mem_nil, or_false] at hi
      rcases hi with ⟨rfl, rfl⟩ | ⟨rfl, rfl⟩ | ⟨rfl, rfl⟩ | ⟨rfl, rfl⟩
      · exact (issueSet_full h hm hk hl : execMgisect o s = _)
      · exact (issueSet_full h hm hk hl : execMgunion o s = _)
      · exact (issueSet_full h hm hk hl : execMgdiff o s = _)
      · exact (issueSet_full h hm hk hl : execMgmerge o s = _)
    case seq => exact (runInstr_next h (mgIssue_ok hb (hq _ _ rfl)) (by rw [State.addInv_ctx]) : execMgseq o s = _)
    case steer =>
      refine (runInstr_next h (?_ : _ = Eff.next (s.addInv (s.newInv 0xE4 o _ _))) (by rw [State.addInv_ctx]) : execMgsteer o s = _)
      simp only [hs, Bool.false_eq_true, if_false]
      exact mgIssue_ok hb (hq _ _ rfl)

/-! ## Copies (R185 to R190) -/

section Copies

variable {o : Ops} {s : State}

theorem State.trace_core (s : State) (r : Nat) : (s.trace r).core = { s.core with traceWptr := s.core.traceWptr + 1 } := by
  simp only [State.trace]
  split <;> simp

/-- A trace record moves the ring's pointer, and nothing else of the core. -/
theorem State.traceCopy_core (s : State) (v : Inv) (kind n : Nat) : ∃ w, (s.traceCopy v kind n).core = { s.core with traceWptr := w } := by
  unfold State.traceCopy
  split
  · simp only
    split
    · exact ⟨_, rfl⟩
    · exact ⟨_, State.trace_core _ _⟩
  · exact ⟨_, rfl⟩

/-- The issue of a copy numbers it, and moves nothing else of the core than its trace. -/
theorem State.stampCopy_core (s : State) (v : Inv) :
    ∃ w, (s.stampCopy v).core = { ({ s.core with copySeq := s.core.copySeq + 1 } : Core).putInv { v with seq := s.core.copySeq } with traceWptr := w } :=
  State.traceCopy_core _ _ _ _

/-- The invocation last issued is replaced alone: the earlier ones have lower numbers. -/
theorem Core.putInv_last {c : Core} {l : List Inv} {v w : Inv} (hi : c.invs = l ++ [v]) (hl : ∀ x ∈ l, x.id < v.id) (hw : w.id = v.id) : (c.putInv w).invs = l ++ [w] := by
  have hkeep : l.map (fun x => if x.id = w.id then w else x) = l := by
    refine (List.map_congr_left fun x hx => ?_).trans (List.map_id l)
    exact if_neg (by rw [hw]; exact (hl x hx).ne)
  simp only [Core.putInv, hi, List.map_append, hkeep, List.map_cons, List.map_nil, if_pos hw.symm]

/-- What an instruction that issues leaves: one more invocation, which captured the operands, and the context as it was (R31). -/
structure Joined (o : Ops) (s : State) (op : Nat) (ports : List Nat) (t : State) (v : Inv) : Prop where
  invs : t.core.invs = s.core.invs ++ [v]
  next : t.core.nextInv = s.core.nextInv + 1
  captured : ∃ asid seq, v = { s.newInv op o ports false with asid := asid, seq := seq }
  ctx : t.ctx = s.ctx
  spm : t.core.spm = s.core.spm
  ports : t.core.ports = s.core.ports

/-- A copy joins its queues as their last invocation, and takes the next sequence number. -/
theorem issueCopy_joins {op : Nat} {ports : List Nat} {asid : BitVec 9} {onIssue : State → Inv → State} (hq : s.core.queueFull op ports = false)
    (hid : ∀ w ∈ s.core.invs, w.id < s.core.nextInv) (hon : ∀ u v, ∃ tags, (onIssue u v).core = { u.core with tags := tags }) :
    ∃ t v, issueCopy s op o ports asid onIssue = .next t ∧ Joined o s op ports t v ∧ t.core.copySeq = s.core.copySeq + 1 ∧ v.seq = s.core.copySeq := by
  let v : Inv := { s.newInv op o ports false with asid := asid }
  obtain ⟨tags, htags⟩ := hon (s.addInv v) v
  obtain ⟨w, hw⟩ := State.stampCopy_core (onIssue (s.addInv v) v) v
  rw [htags, State.addInv_core] at hw
  refine ⟨_, { v with seq := s.core.copySeq }, if_neg (by rw [hq]; exact Bool.false_ne_true), ?_, congrArg Core.copySeq hw, rfl⟩
  refine ⟨(congrArg Core.invs hw).trans (Core.putInv_last rfl hid rfl), congrArg Core.nextInv hw, ⟨asid, _, rfl⟩, ?_, by rw [hw]; rfl, by rw [hw]; rfl⟩
  exact State.ctx_of_ctxOf (by rw [hw]; rfl) (fun u => by rw [hw]; cases u <;> rfl)

/-- The outcome of a copy or a CIRC that joined its queues: it goes on, and a copy has taken the next sequence number. -/
def CopyJoins (o : Ops) (s : State) (op : Nat) (ports : List Nat) (r : Host.Outcome State Fault Refusal) : Prop :=
  ∃ t v, r = .next (t.goTo (s.nextPc o)) ∧ Joined o s op ports t v ∧ (op ≠ 0x8D → t.core.copySeq = s.core.copySeq + 1 ∧ v.seq = s.core.copySeq)

/-- A copy whose checks find nothing joins its queues, and the instruction goes on. -/
theorem runInstr_copy (h : Ready o s) {body : State → Eff} {op : Nat} {ports : List Nat} {asid : BitVec 9} {onIssue : State → Inv → State} {own : Option TrapInfo} {port tensor : Nat}
    (hbody : body s = copyChecks s o own port tensor (issueCopy s op o ports asid onIssue)) (hown : own = none) (hb : BarrierOk s o.b) (hq : s.core.queueFull op ports = false)
    (hid : ∀ w ∈ s.core.invs, w.id < s.core.nextInv) (hon : ∀ u v, ∃ tags, (onIssue u v).core = { u.core with tags := tags }) :
    CopyJoins o s op ports (runInstr o body s) := by
  obtain ⟨t, v, ht, hj, hseq⟩ := issueCopy_joins (asid := asid) (o := o) hq hid hon
  refine ⟨t, v, runInstr_next h ?_ (by rw [hj.ctx]), hj, fun _ => hseq⟩
  rw [hbody, hown, copyChecks, barCheck_ok hb]
  exact ht

theorem runInstr_circ (h : Ready o s) (hown : circBreach s o ((s.getS o.a).toNat + o.imm.toNat) = none) (hb : BarrierOk s o.b) (hq : s.core.queueFull 0x8D [o.d.toNat] = false) :
    CopyJoins o s 0x8D [o.d.toNat] (execCirc o s) := by
  refine ⟨s.addInv (s.newInv 0x8D o [o.d.toNat] false), s.newInv 0x8D o [o.d.toNat] false, runInstr_next h ?_ (by rw [State.addInv_ctx]), ⟨rfl, rfl, ⟨_, _, rfl⟩, State.addInv_ctx _ _, rfl, rfl⟩, fun hne => absurd rfl hne⟩
  simp only [circNumber, Ops.uimm, hown, copyChecks, barCheck_ok hb]
  exact State.issue_room hq

/-- Settles O23: the invocation is the last of the core, with the operands that `State.newInv` captures. -/
theorem copyIssue : Obligations.CopyIssue := by
  unfold Obligations.CopyIssue
  intro o s i op ports own h hi hid hown hb hq
  suffices hs : CopyJoins o s op ports (exec i s) by
    obtain ⟨t, v, ht, ⟨hinvs, hnext, ⟨asid, seq, rfl⟩, hctx, hspm, hports⟩, hseq⟩ := hs
    refine ⟨_, { s.newInv op o ports false with asid := asid, seq := seq }, ht, ?_, rfl, ?_, rfl, rfl, rfl, rfl, rfl, rfl, rfl, rfl, rfl, ?_⟩
    · simpa using hinvs
    · simpa using hnext
    · simpa [hctx, hspm, hports] using hseq
  have keep : ∀ u v, ∃ tags, ((fun (u : State) (_ : Inv) => u) u v).core = { u.core with tags := tags } := fun u _ => ⟨u.core.tags, rfl⟩
  simp only [List.mem_cons, Prod.mk.injEq, List.not_mem_nil, or_false] at hi
  rcases hi with ⟨rfl, rfl, rfl, rfl⟩ | ⟨rfl, rfl, rfl, rfl⟩ | ⟨rfl, rfl, rfl, rfl⟩ | ⟨rfl, rfl, rfl, rfl⟩ | ⟨rfl, rfl, rfl, rfl⟩ | ⟨rfl, rfl, rfl, rfl⟩ | ⟨rfl, rfl, rfl, rfl⟩
  · exact (runInstr_copy h rfl hown hb hq hid keep : CopyJoins o s _ _ (execCpy o s))
  · exact (runInstr_copy h rfl hown hb hq hid keep : CopyJoins o s _ _ (execCpyt o s))
  · exact (runInstr_copy h rfl hown hb hq hid keep : CopyJoins o s _ _ (execCpyq o s))
  · exact (runInstr_copy h rfl hown hb hq hid keep : CopyJoins o s _ _ (execCpys o s))
  · exact (runInstr_copy h rfl hown hb hq hid (fun _ _ => ⟨_, rfl⟩) : CopyJoins o s _ _ (execCpyr o s))
  · exact (runInstr_copy h rfl hown hb hq hid (fun _ _ => ⟨_, rfl⟩) : CopyJoins o s _ _ (execCpyw o s))
  · exact (runInstr_circ h hown hb hq : CopyJoins o s _ _ (execCirc o s))

end Copies

end Sys2Proof.Machine
end

section
/-! PROOFS. Configuration and status of the engines (R356, R359 to R362, R414 to R416). -/

namespace Sys2Proof.Machine

section Forms

variable {o : Ops} {s : State}

/-- A change of the core that touches no context and keeps the one that executes leaves that context. -/
theorem State.putCore_pc {c : Core} (hcur : c.cur = s.core.cur) (h : ∀ v, c.ctxOf v = s.core.ctxOf v) : (s.putCore c).ctx.pc = s.ctx.pc := by
  rw [State.ctx_of_ctxOf (s := s) hcur h]

theorem chainSet_ok (h : Ready o s) {q : Nat} (hc : chainBad q (s.getS o.a) (s.getS o.b) = false) :
    runInstr o (chainSet o q) s =
      .next ((s.putCore { s.core with chain := SMap.set ChainNode.off s.core.chain o.imm.toNat ⟨BitVec.ofNat 3 q, s.getS o.a, s.getS o.b⟩ }).goTo (s.nextPc o)) := by
  refine runInstr_next h ?_ (State.putCore_pc rfl fun v => by cases v <;> rfl)
  simp only [chainSet, hc, Bool.false_eq_true, if_false]
  rfl

theorem chainSet_bad (h : Ready o s) {q : Nat} (hc : chainBad q (s.getS o.a) (s.getS o.b) = true) :
    ∃ x, runInstr o (chainSet o q) s = .next (s.trapA ⟨cTidInvalid, some 0x34, none, some x, none⟩ o.form.bytes) := by
  exact ⟨_, runInstr_trap h (if_pos hc)⟩

theorem skipSet_next (h : Ready o s) (b : Option Bool) :
    runPlain o (skipSet o b) s = .next (((s.putCore { s.core with skipOn := b.getD s.core.skipOn }).setS o.d (if s.core.skipOn then 1 else 0)).goTo (s.nextPc o)) :=
  runPlain_status h rfl (State.putCore_pc rfl fun v => by cases v <;> rfl)

theorem execMxfmt_ok (h : Ready o s) (h16 : (s.getS o.a).toNat % 16 = 0) (h0 : 0 < (s.getS o.a).toNat) (hle : (s.getS o.a).toNat ≤ 65536) :
    execMxfmt o s = .next ((s.putCtx { s.ctx with mxFmt := o.q, mxRs := s.getS o.a }).goTo (s.nextPc o)) := by
  have hne : s.getS o.a ≠ 0 := fun e => by simp [e] at h0
  refine (runInstr_next h (if_neg ?_) (by rw [State.putCtx_ctx]) : execMxfmt o s = _)
  simp only [h16, hne, not_lt.2 hle, ne_eq, not_true_eq_false, decide_false, Bool.or_self, Bool.false_eq_true, not_false_eq_true]

theorem execMxfmt_misaligned (h : Ready o s) (h16 : (s.getS o.a).toNat % 16 ≠ 0) :
    ∃ x, execMxfmt o s = .next (s.trapA ⟨cTidInvalid, some 0x33, none, some x, none⟩ o.form.bytes) := by
  exact ⟨_, (runInstr_trap h (if_pos (by simp [h16])) : execMxfmt o s = _)⟩

theorem execMxwait_ends (h : Ready o s) (hv : ∀ v ∈ s.core.invs, unitOf v.op = 0 → v.ctx ≠ s.core.cur) :
    execMxwait o s = .next ((s.acquire s.core.cur 3 [invKeys s.coreId s.core.cur 0 s.core.nextInv]).goTo (s.nextPc o)) := by
  refine (runInstr_next h (if_neg ?_) (by rw [State.ctx_of_core (State.acquire_core _ _ _ _)]) : execMxwait o s = _)
  simp only [List.any_eq_true, Bool.and_eq_true, decide_eq_true_eq]
  rintro ⟨v, hm, hu, hc⟩
  exact hv v hm hu hc

theorem execMxwaitAll_ends (h : Ready o s) {n : Nat} (hn : n = if s.ctx.waiting = some .invocation then s.ctx.waitInv else s.core.nextInv)
    (hv : ∀ v ∈ s.core.invs, unitOf v.op = 0 → n ≤ v.id) :
    execMxwaitAll o s = .next ((s.acquire s.core.cur 3 ([CtxId.u0, .u1, .u2, .u3, .k].map (fun c => invKeys s.coreId c 0 n))).goTo (s.nextPc o)) := by
  refine (runInstr_next h ?_ ?_ : execMxwaitAll o s = _)
  · rw [← hn]
    refine if_neg ?_
    simp only [List.any_eq_true, Bool.and_eq_true, decide_eq_true_eq]
    rintro ⟨v, hm, hu, hc⟩
    exact absurd (hv v hm hu) (not_le.2 hc)
  · rw [State.ctx_of_core (State.acquire_core _ _ _ _)]

theorem execMgcfgMark_ok (h : Ready o s) (hlt : (s.getS o.a).toNat < 256) (h0 : bits (s.getS o.a) 3 0 < 4 ∨ 7 < bits (s.getS o.a) 3 0)
    (h1 : bits (s.getS o.a) 7 4 < 4 ∨ 7 < bits (s.getS o.a) 7 4) : execMgcfgMark o s = .next ((s.putCtx { s.ctx with mkPair := (s.getS o.a).setWidth 8 }).goTo (s.nextPc o)) := by
  refine (runInstr_next h (if_neg ?_) (by simp) : execMgcfgMark o s = _)
  simp only [Bool.or_eq_true, Bool.and_eq_true, decide_eq_true_eq]
  omega

end Forms

/-- Settles O32, form by form. -/
theorem engineConfiguration : Obligations.EngineConfiguration := by
  unfold Obligations.EngineConfiguration
  intro o s h a b k go
  refine ⟨fun i q hi => ⟨fun hc => ?chain, fun hc => ?chainBad⟩, execMxfmt_ok h, execMxfmt_misaligned h, fun i on hi => ?skip, execMxwait_ends h, fun n hn hv => execMxwaitAll_ends h hn hv, ?rest⟩
  case chain =>
    simp only [List.mem_cons, Prod.mk.injEq, List.not_mem_nil, or_false] at hi
    rcases hi with ⟨rfl, rfl⟩ | ⟨rfl, rfl⟩ | ⟨rfl, rfl⟩ | ⟨rfl, rfl⟩ | ⟨rfl, rfl⟩ | ⟨rfl, rfl⟩ | ⟨rfl, rfl⟩ <;> exact chainSet_ok h hc
  case chainBad =>
    simp only [List.mem_cons, Prod.mk.injEq, List.not_mem_nil, or_false] at hi
    rcases hi with ⟨rfl, rfl⟩ | ⟨rfl, rfl⟩ | ⟨rfl, rfl⟩ | ⟨rfl, rfl⟩ | ⟨rfl, rfl⟩ | ⟨rfl, rfl⟩ | ⟨rfl, rfl⟩ <;> exact chainSet_bad h hc
  case skip =>
    simp only [List.mem_cons, Prod.mk.injEq, List.not_mem_nil, or_false] at hi
    rcases hi with ⟨rfl, rfl⟩ | ⟨rfl, rfl⟩ | ⟨rfl, rfl⟩
    · exact skipSet_next h (some false)
    · exact skipSet_next h (some true)
    · exact skipSet_next h none
  case rest =>
    refine ⟨(runPlain_status h rfl rfl : execMxstat o s = _), (runPlain_status h rfl rfl : execMxstatSlot o s = _), (runPlain_status h rfl rfl : execMxstatZmask o s = _),
      (runPlain_status h rfl rfl : execMxstatSkipcnt o s = _), (runPlain_status h rfl rfl : execMgstat o s = _), (runPlain_status h rfl rfl : execMgstatPart o s = _),
      (runPlain_status h rfl rfl : execMgstatLeaf o s = _), (runPlain_next h rfl (by simp) : execMgcfgPivot o s = _), (runPlain_status h rfl rfl : execMgcfgPread o s = _), execMgcfgMark_ok h⟩

end Sys2Proof.Machine
end

section
/-! PROOFS. Lane-wise vector forms: what every form of `runLanes` and `predWise` leaves, and the forms in turn (R364, R371 to R376, R380 to R386, R393). -/

namespace Sys2Proof.Machine

/-! ## Forms by lane -/

section Lanes

variable {o : Ops} {s : State}

/-- A bit of flags gathered over a list. -/
theorem getLsbD_foldl_or {α : Type} (f : α → BitVec 16) (l : List α) (g : BitVec 16) (n : Nat) :
    (l.foldl (fun a x => a ||| f x) g).getLsbD n = (g.getLsbD n || l.any (fun x => (f x).getLsbD n)) := by
  induction l generalizing g with
  | nil => simp
  | cons x t ih => rw [List.foldl_cons, ih, List.any_cons, BitVec.getLsbD_or, Bool.or_assoc]

/-- The lanes that `laneWise` writes, with their flags. -/
def laneList (o : Ops) (f : State → Nat → Lane) (t : State) : List Lane :=
  (List.range 256).map (fun i => if (guardMask t.ctx o.g).getLsbD i then f t i else (lane (t.getV o.d) i, 0))

theorem lane_laneList (f : State → Nat → Lane) (t : State) {k : Nat} (hk : k < 256) :
    lane (ofLaneList ((laneList o f t).map (·.1))) k = if (guardMask t.ctx o.g).getLsbD k then (f t k).1 else lane (t.getV o.d) k := by
  rw [lane_ofLaneList _ hk, laneList, List.map_map, List.getD_eq_getElem?_getD, List.getElem?_map, List.getElem?_range hk, Option.map_some, Option.getD_some,
    Function.comp_apply]
  split <;> rfl

theorem flags_laneList (f : State → Nat → Lane) (t : State) (n : Nat) :
    ((laneList o f t).foldl (fun g (r : Lane) => g ||| r.2) 0).getLsbD n = true ↔ ∃ k, k < 256 ∧ (guardMask t.ctx o.g).getLsbD k = true ∧ (f t k).2.getLsbD n = true := by
  rw [getLsbD_foldl_or, show (0 : BitVec 16).getLsbD n = false from BitVec.getLsbD_zero, Bool.false_or, laneList, List.any_map, List.any_eq_true]
  simp only [List.mem_range, Function.comp_apply]
  refine exists_congr fun k => and_congr_right fun _ => ?_
  cases (guardMask t.ctx o.g).getLsbD k <;> simp

/-- Every form that `runLanes` runs writes its unmasked lanes (R364, R368). -/
theorem laneResult_of_runLanes (h : Open s) {i : Instr} {F : State → Nat → Lane} {f : Nat → BitVec 32 × BitVec 16} (hi : exec i s = runLanes o F s)
    (hf : ∀ k, k < 256 → F s k = f k) : LaneResult o s i f := by
  refine ⟨_, _, hi.trans (runVec_next h rfl ?_), fun k hk => ?_, fun n _ => ?_⟩
  · rw [State.addFlags_ctx, State.setV_ctx, Ctx.setV_pc]
  · exact (lane_laneList F s hk).trans (by rw [hf k hk])
  · refine (flags_laneList F s n).trans (exists_congr fun k => and_congr_right fun hk => ?_)
    rw [hf k hk]

/-- Every form that `predWise` runs writes its unmasked lanes and clears the others (R380). -/
theorem predResult_of_predWise (h : Open s) {i : Instr} {F : State → Nat → Bool} {f : Nat → Bool} (hi : exec i s = predWise o F s) (hf : ∀ k, k < 256 → F s k = f k) :
    PredResult o s i f := by
  refine ⟨_, hi.trans (runVec_next h rfl ?_), fun k hk => ?_⟩
  · rw [State.setP_ctx, Ctx.setP_pc]
  · rw [getLsbD_ofPred _ hk, hf k hk]

end Lanes

/-! ## Floating forms -/

/-- A NaN gives the canonical NaN; any other lane the value of the form. -/
theorem signOp_eq (x y : BitVec 32) : signOp x y = (if f32 x = .nan false ∨ f32 x = .nan true then 0x7FC00000 else y, 0) := by
  unfold signOp
  split
  · next b hb =>
    rw [hb, if_pos (by cases b <;> simp)]
    rfl
  · next hb => rw [if_neg (not_or.2 ⟨hb false, hb true⟩)]

/-- Settles O26: each form is its lane function under `runLanes`. -/
theorem vectorFloatResults : Obligations.VectorFloatResults := by
  unfold Obligations.VectorFloatResults
  intro o s h q a b d x y
  refine ⟨laneResult_of_runLanes h rfl fun k _ => rfl, laneResult_of_runLanes h rfl fun k _ => rfl, laneResult_of_runLanes h rfl fun k _ => rfl,
    laneResult_of_runLanes h rfl fun k _ => rfl, ?fma, ?fms, laneResult_of_runLanes h rfl fun k _ => rfl, laneResult_of_runLanes h rfl fun k _ => rfl,
    laneResult_of_runLanes h rfl fun k _ => rfl, laneResult_of_runLanes h rfl fun k _ => signOp_eq _ _, laneResult_of_runLanes h rfl fun k _ => signOp_eq _ _,
    laneResult_of_runLanes h rfl fun k _ => rfl, laneResult_of_runLanes h rfl fun k _ => rfl, laneResult_of_runLanes h rfl fun k _ => rfl,
    laneResult_of_runLanes h rfl fun k _ => rfl, laneResult_of_runLanes h rfl fun k _ => rfl, laneResult_of_runLanes h rfl fun k _ => rfl⟩
  case fma => exact laneResult_of_runLanes h rfl fun k _ => rfl
  case fms => exact laneResult_of_runLanes h rfl fun k _ => rfl

/-! ## Integer forms -/

section Integer

theorem addLane_wrap (a b : BitVec 32) : addLane 0 false a b = (a + b, 0) := rfl

theorem subLane_wrap (a b : BitVec 32) : addLane 0 true a b = (a - b, 0) := rfl

/-- A sum saturated to unsigned (R382). -/
theorem addLane_unsigned (a b : BitVec 32) :
    addLane 2 false a b = (BitVec.ofNat 32 (min (a.toNat + b.toNat) (2 ^ 32 - 1)), if 2 ^ 32 ≤ a.toNat + b.toNat then flagISAT else 0) := by
  have hy : max 0 (min (2 ^ 32 - 1) ((a.toNat : Int) + b.toNat)) = ((min (a.toNat + b.toNat) (2 ^ 32 - 1) : Nat) : Int) := by omega
  simp only [addLane, Bool.false_eq_true, if_false, hy, BitVec.ofInt_natCast, flagIf, decide_eq_true_eq]
  congr 1
  exact if_congr (by omega) rfl rfl

/-- A difference saturated to unsigned (R382). -/
theorem subLane_unsigned (a b : BitVec 32) : addLane 2 true a b = (BitVec.ofNat 32 (a.toNat - b.toNat), if a.toNat < b.toNat then flagISAT else 0) := by
  have ha := a.isLt
  have hy : max 0 (min (2 ^ 32 - 1) ((a.toNat : Int) - b.toNat)) = ((a.toNat - b.toNat : Nat) : Int) := by omega
  simp only [addLane, if_true, hy, BitVec.ofInt_natCast, flagIf, decide_eq_true_eq]
  congr 1
  exact if_congr (by omega) rfl rfl

theorem countP_maskLanes (p q : PReg) : (maskLanes (p &&& q)).length = (List.range 256).countP (fun k => p.getLsbD k && q.getLsbD k) := by
  rw [List.countP_eq_length_filter, maskLanes]
  simp only [BitVec.getLsbD_and]

/-- The first element of a filtered range, or the default: the least that passes. -/
theorem headD_filter_range (p : Nat → Bool) (n : Nat) :
    ((List.range n).filter p).headD n ≤ n ∧ (((List.range n).filter p).headD n < n → p (((List.range n).filter p).headD n) = true) ∧
      ∀ j, j < ((List.range n).filter p).headD n → p j = false := by
  rw [List.headD_eq_head?_getD, List.head?_filter]
  cases hf : (List.range n).find? p with
  | none =>
    refine ⟨le_rfl, fun hlt => absurd hlt (lt_irrefl _), fun j hj => ?_⟩
    simpa using List.find?_eq_none.1 hf j (List.mem_range.2 hj)
  | some k =>
    have hk : k < n ∧ p k = true ∧ ∀ j, j < k → p j = false := by
      rw [List.find?_range_eq_some] at hf
      obtain ⟨hp, hm, hb⟩ := hf
      exact ⟨List.mem_range.1 hm, hp, fun j hj => by simpa using hb j hj⟩
    exact ⟨hk.1.le, fun _ => hk.2.1, hk.2.2⟩

end Integer

/-- Settles O28: the integer lane functions, and the predicate forms. -/
theorem vectorIntegerResults : Obligations.VectorIntegerResults := by
  unfold Obligations.VectorIntegerResults
  intro o s h q m a v b n
  refine ⟨fun hq => ?wrap, fun hq => ?signed, fun hq => ?unsigned, laneResult_of_runLanes h rfl fun k _ => rfl, laneResult_of_runLanes h rfl fun k _ => rfl,
    laneResult_of_runLanes h rfl fun k _ => rfl, laneResult_of_runLanes h rfl fun k _ => rfl,
    laneResult_of_runLanes h rfl fun k _ => congrArg (·, 0) (shiftLeft_eq_ofNat _ _), laneResult_of_runLanes h rfl fun k _ => congrArg (·, 0) (ushiftRight_eq_ofNat _ _),
    laneResult_of_runLanes h rfl fun k _ => congrArg (·, 0) (sshiftRight_eq_ofInt _ _), laneResult_of_runLanes h rfl fun k _ => rfl,
    laneResult_of_runLanes h rfl fun k _ => ?popc, laneResult_of_runLanes h rfl fun k _ => rfl, laneResult_of_runLanes h rfl fun k _ => rfl,
    ?cmp, ?nz, ?bit,
    laneResult_of_runLanes h rfl fun k _ => rfl, fun hm => ?count, fun hm => ?first⟩
  case wrap =>
    have hq' : o.q.toNat = 0 := hq
    exact ⟨laneResult_of_runLanes h rfl fun k _ => by rw [hq']; rfl, laneResult_of_runLanes h rfl fun k _ => by rw [hq']; rfl,
      laneResult_of_runLanes h rfl fun k _ => by rw [hq']; rfl⟩
  case signed =>
    have hq' : o.q.toNat = 1 := hq
    exact ⟨laneResult_of_runLanes h rfl fun k _ => by rw [hq']; rfl, laneResult_of_runLanes h rfl fun k _ => by rw [hq']; rfl,
      laneResult_of_runLanes h rfl fun k _ => by rw [hq']; rfl⟩
  case unsigned =>
    have hq' : o.q.toNat = 2 := hq
    exact ⟨laneResult_of_runLanes h rfl fun k _ => by rw [hq']; exact addLane_unsigned _ _, laneResult_of_runLanes h rfl fun k _ => by rw [hq']; exact subLane_unsigned _ _,
      laneResult_of_runLanes h rfl fun k _ => by rw [hq']; rfl⟩
  case popc => rw [List.countP_eq_length_filter]; rfl
  case cmp =>
    exact predResult_of_predWise h (F := fun t k => if o.m = 1 then intCond o.q.toNat (aLane t o k) (lane (t.getV o.b) k) else floatCond o.q.toNat (f32 (aLane t o k)) (f32 (lane (t.getV o.b) k)))
      (show execVcmp o s = _ from rfl) fun k _ => rfl
  case nz =>
    exact predResult_of_predWise h (F := fun t k => decide (aLane t o k ≠ 0)) (show execVplogNz o s = _ from rfl) fun k _ => by
      rw [Bool.eq_iff_iff]
      rw [decide_eq_true_iff, bne_iff_ne]
      rfl
  case bit =>
    exact predResult_of_predWise h (F := fun t k => (aLane t o k).getLsbD o.uimm) (show execVplogBit o s = _ from rfl) fun k _ => rfl
  case count =>
    refine (runVec_next h ?_ (State.setS_pc s o.d _) : execVpcnt o s = _)
    simp only [if_neg hm, countP_maskLanes]
    rfl
  case first =>
    obtain ⟨hle, hset, hclear⟩ := headD_filter_range (fun k => (s.getP o.a &&& m).getLsbD k) 256
    refine ⟨_, (runVec_next h ?_ (State.setS_pc s o.d _) : execVpcnt o s = _), hle, fun hlt => ?_, fun j hj => ?_⟩
    · simp only [if_pos hm]
      rfl
    · rw [← BitVec.getLsbD_and]
      exact hset hlt
    · rw [← BitVec.getLsbD_and]
      exact hclear j hj

/-! ## Moves of lanes -/

theorem iota_eq (a b : Word) (k : Nat) : (a + BitVec.ofNat 64 k * b).setWidth 32 = BitVec.ofNat 32 (a.toNat + k * b.toNat) := by
  apply BitVec.eq_of_toNat_eq
  simp [BitVec.toNat_add, BitVec.toNat_mul, Nat.add_mod, Nat.mul_mod]

/-- Settles O29: each form is its lane function under `runLanes`; VEXTR is a scalar form. -/
theorem laneMoveResults : Obligations.LaneMoveResults := by
  unfold Obligations.LaneMoveResults
  intro o s h a n
  refine ⟨laneResult_of_runLanes h rfl fun k _ => rfl, laneResult_of_runLanes h rfl fun k _ => rfl, fun hg => ?extr, laneResult_of_runLanes h rfl fun k _ => rfl,
    laneResult_of_runLanes h rfl fun k _ => rfl, laneResult_of_runLanes h rfl fun k _ => rfl, laneResult_of_runLanes h rfl fun k _ => ?iota, laneResult_of_runLanes h rfl fun k _ => rfl⟩
  case extr => exact (runPlain_status ⟨h, hg⟩ rfl rfl : execVextr o s = _)
  case iota => exact congrArg (·, 0) (iota_eq _ _ _)

end Sys2Proof.Machine
end

section
/-! PROOFS. Conversions between lanes and packed elements, and quantisation (R365, R377 to R379). -/

namespace Sys2Proof.Machine

/-! ## Packed elements -/

theorem testBit_packed (v : VReg) (w e j : Nat) : (packed v w e).testBit j = (decide (j < w) && v.getLsbD (w * e + j)) := by
  rw [packed, Nat.testBit_mod_two_pow, Nat.testBit_div_two_pow, BitVec.getLsbD, Nat.add_comm]

/-- A bit of a vector one of whose packed elements was replaced. -/
theorem getLsbD_setPacked (v : VReg) (w e x : Nat) {i : Nat} (hi : i < 8192) :
    (setPacked v w e x).getLsbD i = if w * e ≤ i ∧ i < w * e + w then x.testBit (i - w * e) else v.getLsbD i := by
  have hmask : ((2 ^ w - 1) * 2 ^ (w * e)).testBit i = decide (w * e ≤ i ∧ i < w * e + w) := by
    rw [Nat.testBit_mul_two_pow, Nat.testBit_two_pow_sub_one, Bool.eq_iff_iff]
    simp only [Bool.and_eq_true, decide_eq_true_eq]
    omega
  have hval : (x % 2 ^ w * 2 ^ (w * e)).testBit i = (decide (w * e ≤ i ∧ i < w * e + w) && x.testBit (i - w * e)) := by
    rw [Nat.testBit_mul_two_pow, Nat.testBit_mod_two_pow, ← Bool.and_assoc]
    congr 1
    rw [Bool.eq_iff_iff]
    simp only [Bool.and_eq_true, decide_eq_true_eq]
    omega
  rw [setPacked, BitVec.getLsbD_or, BitVec.getLsbD_and, BitVec.getLsbD_not, BitVec.getLsbD_ofNat, BitVec.getLsbD_ofNat, hmask, hval]
  by_cases h : w * e ≤ i ∧ i < w * e + w <;> simp [h, hi]

/-- A packed element reads as what was put there; every other keeps its value. -/
theorem packed_setPacked (v : VReg) {w e : Nat} (x : Nat) (he : w * e + w ≤ 8192) (k : Nat) : packed (setPacked v w e x) w k = if k = e then x % 2 ^ w else packed v w k := by
  apply Nat.eq_of_testBit_eq
  intro j
  rw [testBit_packed]
  by_cases hj : j < w
  · have hin : w * e ≤ w * k + j ∧ w * k + j < w * e + w ↔ k = e := by
      refine ⟨fun ⟨h1, h2⟩ => ?_, fun h => by subst h; omega⟩
      have hke : w * k < w * (e + 1) := by rw [Nat.mul_add]; omega
      have hek : w * e < w * (k + 1) := by rw [Nat.mul_add]; omega
      have := Nat.lt_of_mul_lt_mul_left hke
      have := Nat.lt_of_mul_lt_mul_left hek
      omega
    by_cases hk : k = e
    · subst hk
      rw [getLsbD_setPacked _ _ _ _ (by omega), if_pos (hin.2 rfl), if_pos rfl, Nat.testBit_mod_two_pow, Nat.add_sub_cancel_left]
    · rw [if_neg hk, testBit_packed]
      by_cases hb : w * k + j < 8192
      · rw [getLsbD_setPacked _ _ _ _ hb, if_neg (mt hin.1 hk)]
      · rw [BitVec.getLsbD_of_ge _ _ (not_lt.1 hb), BitVec.getLsbD_of_ge _ _ (not_lt.1 hb)]
  · have hlt : (if k = e then x % 2 ^ w else packed v w k) < 2 ^ w := by
      split <;> exact Nat.mod_lt _ (Nat.two_pow_pos w)
    rw [Nat.testBit_lt_two_pow (hlt.trans_le (Nat.pow_le_pow_right (by norm_num) (not_lt.1 hj)))]
    simp [hj]

/-- Elements put one after another, each where its number and its test say. -/
theorem packed_foldl_setPacked {α : Type} (w b : Nat) (p : Nat → Bool) (f : Nat → Nat) (g : α → Nat → α) (l : List Nat) (hl : ∀ i ∈ l, w * (b + i) + w ≤ 8192)
    (a : VReg × α) (e : Nat) :
    packed (l.foldl (fun (a : VReg × α) i => if p i then (setPacked a.1 w (b + i) (f i), g a.2 i) else a) a).1 w e =
      if b ≤ e ∧ e - b ∈ l ∧ p (e - b) = true then f (e - b) % 2 ^ w else packed a.1 w e := by
  induction l generalizing a with
  | nil => simp
  | cons i t ih =>
    rw [List.foldl_cons, ih (fun j hj => hl j (List.mem_cons_of_mem _ hj))]
    by_cases ht : b ≤ e ∧ e - b ∈ t ∧ p (e - b) = true
    · rw [if_pos ht, if_pos ⟨ht.1, List.mem_cons_of_mem _ ht.2.1, ht.2.2⟩]
    · rw [if_neg ht]
      by_cases hp : p i = true
      · rw [if_pos hp, packed_setPacked _ _ (hl i List.mem_cons_self)]
        by_cases he : e = b + i
        · subst he
          rw [if_pos rfl, if_pos (by simp [hp]), Nat.add_sub_cancel_left]
        · rw [if_neg he, if_neg]
          rintro ⟨hb, hm, hpe⟩
          rcases List.mem_cons.1 hm with h | h
          · omega
          · exact ht ⟨hb, h, hpe⟩
      · rw [if_neg hp, if_neg]
        rintro ⟨hb, hm, hpe⟩
        rcases List.mem_cons.1 hm with h | h
        · rw [h] at hpe
          exact hp hpe
        · exact ht ⟨hb, h, hpe⟩

/-- A whole list put into consecutive elements from b on. -/
theorem packed_foldl_zip {α : Type} (w b n : Nat) (d : α) (f : α → Nat) (l : List α) (hn : l.length = n) (hb : w * (b + n) ≤ 8192) (v : VReg) (e : Nat) :
    packed ((l.zip (List.range n)).foldl (fun (a : VReg) x => setPacked a w (b + x.2) (f x.1)) v) w e =
      if b ≤ e ∧ e < b + n then f (l.getD (e - b) d) % 2 ^ w else packed v w e := by
  have hz : l.zip (List.range n) = (List.range n).map (fun i => (l.getD i d, i)) := by
    apply List.ext_getElem
    · simp [hn]
    · intro i hi _
      simp only [List.length_zip, List.length_range, hn, min_self] at hi
      simp [List.getD_eq_getElem?_getD, hn, hi]
  have hfold : ∀ (m : List Nat) (v : VReg), (m.map (fun i => (l.getD i d, i))).foldl (fun (a : VReg) x => setPacked a w (b + x.2) (f x.1)) v =
      (m.foldl (fun (a : VReg × Unit) i => if true = true then (setPacked a.1 w (b + i) (f (l.getD i d)), ()) else a) (v, ())).1 := by
    intro m
    induction m with
    | nil => exact fun _ => rfl
    | cons i t ih => exact fun v => ih _
  rw [hz, hfold]
  refine (packed_foldl_setPacked w b (fun _ => true) (fun i => f (l.getD i d)) (fun _ _ => ()) _ (fun i hi => ?_) (v, ()) e).trans (if_congr ?_ rfl rfl)
  · have : b + i + 1 ≤ b + n := by have := List.mem_range.1 hi; omega
    calc w * (b + i) + w = w * (b + i + 1) := (Nat.mul_succ _ _).symm
      _ ≤ w * (b + n) := Nat.mul_le_mul_left _ this
      _ ≤ 8192 := hb
  · simp only [List.mem_range, and_true]
    omega

/-! ## Conversions -/

section Conversions

variable {o : Ops} {s : State}

/-- Every narrowing conversion writes the elements of its part whose guard lane is set (R368, R377). -/
theorem partResult_of_narrow (h : Open s) {i : Instr} {w : Nat} {F : BitVec 32 → Nat × BitVec 16} (hi : exec i s = narrow o w F s) (hw : w * (256 * o.imm.toNat + 256) ≤ 8192) :
    PartResult o s i w (fun k => F (lane (s.getV o.a) k)) := by
  refine ⟨_, _, hi.trans (runVec_next h rfl ?_), fun e _ => ?_⟩
  · rw [State.addFlags_ctx, State.setV_ctx, Ctx.setV_pc]
  · refine (packed_foldl_setPacked w (256 * o.imm.toNat) (fun i => (guardMask s.ctx o.g).getLsbD i) (fun i => (F (aLane s o i)).1) (fun g i => g ||| (F (aLane s o i)).2)
      (List.range 256) (fun i hi => ?_) (s.getV o.d, 0) e).trans (if_congr ?_ rfl rfl)
    · have : 256 * o.imm.toNat + i + 1 ≤ 256 * o.imm.toNat + 256 := by have := List.mem_range.1 hi; omega
      calc w * (256 * o.imm.toNat + i) + w = w * (256 * o.imm.toNat + i + 1) := (Nat.mul_succ _ _).symm
        _ ≤ w * (256 * o.imm.toNat + 256) := Nat.mul_le_mul_left _ this
        _ ≤ 8192 := hw
    · rw [List.mem_range]
      constructor
      · rintro ⟨h1, h2, h3⟩
        exact ⟨h1, by omega, h3⟩
      · rintro ⟨h1, h2, h3⟩
        exact ⟨h1, by omega, h3⟩

end Conversions

/-! ## Quantisation -/

theorem quantRow_length (xs : List FVal) : (quantRow xs).2.1.length = xs.length := by simp [quantRow]

theorem quantBfp_length (w : Nat) (p : Bool) (xs : List FVal) : (quantBfp w p xs).2.1.length = xs.length := by
  simp only [quantBfp]
  split
  · simp
  · split <;> simp

/-- An element of blocks of one length put one after another. -/
theorem getD_flatMap_range {α : Type} (f : Nat → List α) (m n : Nat) (hf : ∀ i, i < m → (f i).length = n) {e : Nat} (he : e < m * n) (d : α) :
    ((List.range m).flatMap f).getD e d = (f (e / n)).getD (e % n) d := by
  induction m with
  | zero => omega
  | succ m ih =>
    have hlen : ((List.range m).flatMap f).length = m * n := by
      rw [List.length_flatMap, List.map_congr_left (fun i hi => hf i (Nat.lt_succ_of_lt (List.mem_range.1 hi)))]
      simp
    rw [List.range_succ, List.flatMap_append, List.flatMap_singleton, List.getD_eq_getElem?_getD]
    by_cases hlt : e < m * n
    · rw [List.getElem?_append_left (by omega), ← List.getD_eq_getElem?_getD, ih (fun i hi => hf i (Nat.lt_succ_of_lt hi)) hlt]
    · have hn : e < m * n + n := by rwa [Nat.succ_mul] at he
      have hdiv : e / n = m := Nat.div_eq_of_lt_le (by omega) (by rw [Nat.succ_mul]; exact hn)
      have hmod : e % n = e - m * n := by rw [Nat.mod_eq_sub_mul_div, hdiv, Nat.mul_comm]
      rw [List.getElem?_append_right (by omega), hlen, hdiv, hmod, List.getD_eq_getElem?_getD]

theorem fmtBits_le_eight {q : Nat} (h8 : 8 ≤ q) (h15 : q < 15) : fmtBits q ≤ 8 := by
  interval_cases q <;> decide

theorem mod_eq_self_of_byte (b : Byte) : b.toNat % 2 ^ 8 = b.toNat := Nat.mod_eq_of_lt b.isLt

/-- The lanes of A with masked lanes as +0, as VQNT sees them. -/
theorem length_quantInput (s : State) (o : Ops) : (quantInput s o).length = 256 := by simp [quantInput]

theorem execVqntE4m3_result {o : Ops} {s : State} (h : Open s) :
    ∃ v, execVqntE4m3 o s = .next ((((s.setV o.d v).setS o.c ((quantRow (quantInput s o)).1.setWidth 64)).addFlags (quantRow (quantInput s o)).2.2).goTo (s.nextPc o)) ∧
      (o.imm.toNat < 4 → ∀ e, e < 1024 → packed v 8 e =
        if e / 256 = o.imm.toNat then ((quantRow (quantInput s o)).2.1.getD (e % 256) 0).toNat else packed (s.getV o.d) 8 e) := by
  refine ⟨_, (runVec_next h rfl ?_ : execVqntE4m3 o s = _), fun hp e he => ?_⟩
  · simp [quantE4m3]
  · refine (packed_foldl_zip 8 (256 * o.imm.toNat) 256 0 BitVec.toNat _ ((quantRow_length _).trans (length_quantInput s o)) (by omega) _ e).trans ?_
    rw [mod_eq_self_of_byte]
    by_cases hpart : e / 256 = o.imm.toNat
    · rw [if_pos (by omega), if_pos hpart, show e - 256 * o.imm.toNat = e % 256 by omega]
    · rw [if_neg (by omega), if_neg hpart]

/-- Block n of a VQNT to a BFP format. -/
def quantBlock (s : State) (o : Ops) (n : Nat) : Byte × List Nat × BitVec 16 := quantBfp (fmtBits o.q.toNat) (o.m = 1) (((quantInput s o).drop (32 * n)).take 32)

theorem length_quantBlock (s : State) (o : Ops) {n : Nat} (hn : n < 8) : (quantBlock s o n).2.1.length = 32 := by
  rw [quantBlock, quantBfp_length, List.length_take, List.length_drop, length_quantInput]
  omega

theorem execVqntBfp_result {o : Ops} {s : State} (h : Open s) :
    ∃ v g, execVqntBfp o s = .next ((((s.setV o.d v).setS o.c (BitVec.ofNat 64 ((List.range 8).foldr (fun n x => (quantBlock s o n).1.toNat + 256 * x) 0))).addFlags g).goTo (s.nextPc o)) ∧
      (8 ≤ o.q.toNat → o.q.toNat < 15 → ∀ e, fmtBits o.q.toNat * e < 8192 → packed v (fmtBits o.q.toNat) e =
        if e < 256 then (quantBlock s o (e / 32)).2.1.getD (e % 32) 0 % 2 ^ fmtBits o.q.toNat else packed (s.getV o.d) (fmtBits o.q.toNat) e) := by
  refine ⟨_, _, (runVec_next h rfl ?_ : execVqntBfp o s = _), fun h8 h15 e he => ?_⟩
  · simp [quantBlocks]
  · have hw := fmtBits_le_eight h8 h15
    have hlen : ((List.range 8).flatMap (fun n => (quantBlock s o n).2.1)).length = 256 := by
      rw [List.length_flatMap, List.map_congr_left (fun n hn => length_quantBlock s o (List.mem_range.1 hn))]
      rfl
    have hz := packed_foldl_zip (fmtBits o.q.toNat) 0 256 0 id _ hlen (by omega) (s.getV o.d) e
    simp only [Nat.zero_add, Nat.zero_le, true_and, Nat.sub_zero, id_eq] at hz
    refine Eq.trans ?_ (hz.trans ?_)
    · rw [List.flatMap_map]
      rfl
    · split
      · next hlt => rw [getD_flatMap_range _ 8 32 (fun n hn => length_quantBlock s o hn) hlt]
      · rfl

/-- Settles O27: conversions by lane or by part, and quantisation by row or by block. -/
theorem vectorConversionResults : Obligations.VectorConversionResults := by
  unfold Obligations.VectorConversionResults
  intro o s h mode ieee a part input
  refine ⟨laneResult_of_runLanes h rfl fun k _ => rfl, laneResult_of_runLanes h rfl fun k _ => rfl, laneResult_of_runLanes h rfl fun k _ => rfl,
    ?bf16, ?fp16, ?e4m3out, ?e5m2out, ?int8,
    laneResult_of_runLanes h rfl fun k _ => rfl,
    laneResult_of_runLanes h rfl fun k _ => rfl, laneResult_of_runLanes h rfl fun k _ => rfl, laneResult_of_runLanes h rfl fun k _ => rfl,
    laneResult_of_runLanes h rfl fun k _ => rfl, ?e4m3, ?bfp, laneResult_of_runLanes h rfl fun k _ => rfl⟩
  case bf16 => exact fun hp => partResult_of_narrow (o := o) (w := 16) (i := .vcvtF2bf o) (F := fun x => convertTo bf16 (o.q.toNat % 4) (o.q.getLsbD 2) (f32 x)) h rfl (by omega)
  case fp16 => exact fun hp => partResult_of_narrow (o := o) (w := 16) (i := .vcvtF2h o) (F := fun x => convertTo fp16 (o.q.toNat % 4) (o.q.getLsbD 2) (f32 x)) h rfl (by omega)
  case e4m3out => exact fun hp => partResult_of_narrow (o := o) (w := 8) (i := .vcvtF2e4 o) (F := fun x => convertTo e4m3 (o.q.toNat % 4) (o.q.getLsbD 2) (f32 x)) h rfl (by omega)
  case e5m2out => exact fun hp => partResult_of_narrow (o := o) (w := 8) (i := .vcvtF2e5 o) (F := fun x => convertTo e5m2 (o.q.toNat % 4) (o.q.getLsbD 2) (f32 x)) h rfl (by omega)
  case int8 => exact fun hp => partResult_of_narrow (o := o) (w := 8) (i := .vcvtF2i8 o) (F := fun x => ((BitVec.ofInt 8 (toInteger 8 (o.q.toNat % 4) (f32 x)).1).toNat, (toInteger 8 (o.q.toNat % 4) (f32 x)).2)) h rfl (by omega)
  case e4m3 =>
    have hin : input = quantInput s o := rfl
    rw [hin]
    exact execVqntE4m3_result h
  case bfp =>
    exact execVqntBfp_result h

end Sys2Proof.Machine
end

section
/-! PROOFS. The trees of reductions and scans (R107, R108, R384). -/

namespace Sys2Proof.Machine

section Tree

variable (f : BitVec 32 → BitVec 32 → Lane)

/-- Two lanes combined, with the flags of both and of the operation. -/
def joinLanes (a b : Lane) : Lane := ((f a.1 b.1).1, a.2 ||| b.2 ||| (f a.1 b.1).2)

/-- Node j of level k of the tree over the lanes h. -/
def treeNode (h : Nat → Lane) : Nat → Nat → Lane
  | 0, j => h j
  | k + 1, j => joinLanes f (treeNode h k (2 * j)) (treeNode h k (2 * j + 1))

/-- The tree over the first level is the tree but for its leaves. -/
theorem treeNode_shift (h : Nat → Lane) (k j : Nat) : treeNode f (treeNode f h 1) k j = treeNode f h (k + 1) j := by
  induction k generalizing j with
  | zero => rfl
  | succ k ih => rw [treeNode, ih, ih, ← treeNode]

theorem treeLevel_map_range (h : Nat → Lane) (n : Nat) : treeLevel f ((List.range (2 * n)).map h) = (List.range n).map (treeNode f h 1) := by
  induction n generalizing h with
  | zero => rfl
  | succ n ih =>
    rw [show 2 * (n + 1) = 2 * n + 1 + 1 by ring, List.range_succ_eq_map, List.range_succ_eq_map, List.map_cons, List.map_cons, List.map_cons, List.map_map, List.map_map, treeLevel,
      ih, List.range_succ_eq_map, List.map_cons, List.map_map]
    exact congrArg _ (List.map_congr_left fun j _ => rfl)

/-- The levels of the tree, node by node. -/
theorem treeLevels_map_range (h : Nat → Lane) (n : Nat) :
    treeLevels n f ((List.range (2 ^ n)).map h) = (List.range (n + 1)).map (fun k => (List.range (2 ^ (n - k))).map (treeNode f h k)) := by
  induction n generalizing h with
  | zero => rfl
  | succ n ih =>
    rw [treeLevels, Nat.pow_succ', treeLevel_map_range, ih, List.range_succ_eq_map (n := n + 1), List.map_cons, List.map_map]
    refine congrArg₂ List.cons (by rw [Nat.sub_zero, Nat.pow_succ']; rfl) (List.map_congr_left fun k _ => ?_)
    simp only [Function.comp_apply, Nat.succ_eq_add_one, Nat.add_sub_add_right]
    exact List.map_congr_left fun j _ => treeNode_shift f h k j

theorem treeRoot_eq (h : Nat → Lane) : treeRoot f ((List.range 256).map h) = treeNode f h 8 0 := by
  rw [treeRoot, show (256 : Nat) = 2 ^ 8 from rfl, treeLevels_map_range]
  rfl

/-- What holds of every leaf, and of a combination when it holds of both sides, holds of every node. -/
theorem treeNode_of_leaves {h : Nat → Lane} {p : Lane → Prop} (hl : ∀ j, p (h j)) (hj : ∀ a b, p a → p b → p (joinLanes f a b)) (k j : Nat) : p (treeNode f h k j) := by
  induction k generalizing j with
  | zero => exact hl j
  | succ k ih => exact hj _ _ (ih _) (ih _)

end Tree

/-! ## Sums -/

/-- The sum of the first n lanes, wrapping. -/
def laneSum (g : Nat → BitVec 32) : Nat → BitVec 32
  | 0 => 0
  | n + 1 => laneSum g n + g n

theorem treeNode_add (h : Nat → Lane) (k j : Nat) :
    (treeNode (redOp 4) h k j).1 = laneSum (fun i => (h i).1) ((j + 1) * 2 ^ k) - laneSum (fun i => (h i).1) (j * 2 ^ k) := by
  induction k generalizing j with
  | zero => simp [treeNode, laneSum]
  | succ k ih =>
    have hsplit : (treeNode (redOp 4) h (k + 1) j).1 = (treeNode (redOp 4) h k (2 * j)).1 + (treeNode (redOp 4) h k (2 * j + 1)).1 := rfl
    rw [hsplit, ih, ih, show (2 * j + 1 + 1) * 2 ^ k = (j + 1) * 2 ^ (k + 1) by ring, show 2 * j * 2 ^ k = j * 2 ^ (k + 1) by ring]
    abel

/-- Lanes of a mask summed: the masked lanes count as 0. -/
theorem laneSum_mask (m : PReg) (a : Nat → BitVec 32) (n : Nat) :
    laneSum (fun i => if m.getLsbD i then a i else 0) n = BitVec.ofNat 32 ((((List.range n).filter (fun i => m.getLsbD i)).map (fun k => (a k).toNat)).sum) := by
  induction n with
  | zero => rfl
  | succ n ih =>
    rw [laneSum, ih, List.range_succ, List.filter_append, List.map_append, List.sum_append, BitVec.ofNat_add]
    congr 1
    cases hm : m.getLsbD n <;> simp [hm]

/-- A bit of an OR tree: some lane under the node has it. -/
theorem treeNode_or (h : Nat → Lane) (k j n : Nat) :
    (treeNode (redOp 10) h k j).1.getLsbD n = true ↔ ∃ i, j * 2 ^ k ≤ i ∧ i < (j + 1) * 2 ^ k ∧ (h i).1.getLsbD n = true := by
  induction k generalizing j with
  | zero =>
    simp only [treeNode, Nat.pow_zero, Nat.mul_one]
    exact ⟨fun hb => ⟨j, le_rfl, Nat.lt_succ_self j, hb⟩, fun ⟨i, h1, h2, hb⟩ => (show i = j by omega) ▸ hb⟩
  | succ k ih =>
    have hsplit : (treeNode (redOp 10) h (k + 1) j).1 = (treeNode (redOp 10) h k (2 * j)).1 ||| (treeNode (redOp 10) h k (2 * j + 1)).1 := rfl
    rw [hsplit, BitVec.getLsbD_or, Bool.or_eq_true, ih, ih, show (2 * j + 1 + 1) * 2 ^ k = (j + 1) * 2 ^ (k + 1) by ring, show 2 * j * 2 ^ k = j * 2 ^ (k + 1) by ring]
    have h1 : j * 2 ^ (k + 1) ≤ (2 * j + 1) * 2 ^ k := by rw [show j * 2 ^ (k + 1) = 2 * j * 2 ^ k by ring]; exact Nat.mul_le_mul_right _ (Nat.le_succ _)
    have h2 : (2 * j + 1) * 2 ^ k ≤ (j + 1) * 2 ^ (k + 1) := by rw [show (j + 1) * 2 ^ (k + 1) = (2 * j + 2) * 2 ^ k by ring]; exact Nat.mul_le_mul_right _ (by omega)
    constructor
    · rintro (⟨i, ha, hb, hc⟩ | ⟨i, ha, hb, hc⟩)
      · exact ⟨i, ha, hb.trans_le h2, hc⟩
      · exact ⟨i, h1.trans ha, hb, hc⟩
    · rintro ⟨i, ha, hb, hc⟩
      by_cases hi : i < (2 * j + 1) * 2 ^ k
      · exact Or.inl ⟨i, ha, hi, hc⟩
      · exact Or.inr ⟨i, not_lt.1 hi, hb, hc⟩

/-! ## VRED -/

section Reduce

variable {o : Ops} {s : State}

/-- The leaves of VRED's and VSCAN's tree. -/
def redLeaf (s : State) (o : Ops) (i : Nat) : Lane := (if (guardMask s.ctx o.g).getLsbD i then lane (s.getV o.a) i else redIdentity o.q.toNat, 0)

theorem treeInput_eq (s : State) (o : Ops) : treeInput (guardMask s.ctx o.g) (redIdentity o.q.toNat) (aLane s o) = (List.range 256).map (redLeaf s o) := rfl

theorem redOp_identity (q : Nat) (hq : q < 16) : (redOp q (redIdentity q) (redIdentity q)).1 = redIdentity q := by
  revert q
  decide

/-- VRED of no lane is the identity. -/
theorem treeNode_empty (h : maskLanes (guardMask s.ctx o.g) = []) : (treeNode (redOp o.q.toNat) (redLeaf s o) 8 0).1 = redIdentity o.q.toNat := by
  have hleaf : ∀ j, (redLeaf s o j).1 = redIdentity o.q.toNat := by
    intro j
    have hm : (guardMask s.ctx o.g).getLsbD j = false := by
      by_cases hj : j < 256
      · have hn : j ∉ maskLanes (guardMask s.ctx o.g) := by rw [h]; exact List.not_mem_nil
        rw [mem_maskLanes, not_and, Bool.not_eq_true] at hn
        exact hn hj
      · exact BitVec.getLsbD_of_ge _ _ (not_lt.1 hj)
    rw [redLeaf, hm]
    rfl
  refine treeNode_of_leaves _ (p := fun x => x.1 = redIdentity o.q.toNat) hleaf (fun a b ha hb => ?_) 8 0
  rw [joinLanes, ha, hb]
  exact redOp_identity _ o.q.isLt

theorem redLeaf_add (hq : o.q.toNat = 4) : (fun i => (redLeaf s o i).1) = fun i => if (guardMask s.ctx o.g).getLsbD i then lane (s.getV o.a) i else 0 := by
  funext i
  rw [redLeaf, hq]
  rfl

theorem execVred_result (h : Open s) :
    let r := treeNode (redOp o.q.toNat) (redLeaf s o) 8 0
    execVred o s = .next (((s.setS o.d (redExtend o.q.toNat r.1)).addFlags r.2).goTo (s.nextPc o)) := by
  intro r
  refine (runVec_next h ?_ ?_ : execVred o s = _)
  · have hr : treeRoot (redOp o.q.toNat) (treeInput (guardMask s.ctx o.g) (redIdentity o.q.toNat) (aLane s o)) = r := by rw [treeInput_eq, treeRoot_eq]
    simp only [hr]
  · rw [State.addFlags_ctx, State.setS_pc]

theorem vred_add (hq : o.q.toNat = 4) :
    (treeNode (redOp o.q.toNat) (redLeaf s o) 8 0).1 = BitVec.ofNat 32 ((maskLanes (guardMask s.ctx o.g)).map (fun k => (lane (s.getV o.a) k).toNat)).sum ∧
      (treeNode (redOp o.q.toNat) (redLeaf s o) 8 0).2 = 0 := by
  rw [hq]
  refine ⟨?_, treeNode_of_leaves _ (p := fun x => x.2 = 0) (fun _ => rfl) (fun a b ha hb => ?_) 8 0⟩
  · rw [treeNode_add, redLeaf_add hq, laneSum_mask, laneSum_mask]
    simp [maskLanes]
  · rw [joinLanes, ha, hb]
    exact (by decide : (0 : BitVec 16) ||| 0 ||| 0 = 0)

theorem vred_or (hq : o.q.toNat = 10) (n : Nat) :
    (treeNode (redOp o.q.toNat) (redLeaf s o) 8 0).1.getLsbD n = (maskLanes (guardMask s.ctx o.g)).any (fun k => (lane (s.getV o.a) k).getLsbD n) := by
  rw [hq, Bool.eq_iff_iff, treeNode_or, List.any_eq_true]
  refine exists_congr fun i => ?_
  rw [mem_maskLanes, redLeaf, hq]
  cases hm : (guardMask s.ctx o.g).getLsbD i
  · simp [redIdentity]
  · simp

/-! ## VSCAN -/

/-- A sum gathered from the left. -/
theorem foldl_redOp_add (t : List Lane) (x : Lane) :
    (t.foldl (fun a y => ((redOp 4 a.1 y.1).1, a.2 ||| y.2 ||| (redOp 4 a.1 y.1).2)) x).1 = x.1 + (t.map (·.1)).sum := by
  induction t generalizing x with
  | nil => simp
  | cons y t ih =>
    rw [List.foldl_cons, ih, List.map_cons, List.sum_cons, ← add_assoc]
    rfl

/-- Lane i of an integer scan: the blocks' sums. -/
theorem scanLane_add (levels : Array (Array Lane)) (i : Nat) :
    (scanLane (redOp 4) levels i).1 =
      ((([8, 7, 6, 5, 4, 3, 2, 1, 0] : List Nat).filter (fun l => (i + 1) / 2 ^ l % 2 = 1)).map (fun l => ((levels.getD l #[]).getD ((i + 1) / 2 ^ l - 1) (0, 0)).1)).sum := by
  simp only [scanLane]
  split
  · next hnil =>
    rw [List.map_eq_nil_iff] at hnil
    rw [hnil]
    rfl
  · next x t hcons =>
    rw [foldl_redOp_add, ← List.sum_cons, ← List.map_cons, ← hcons, List.map_map]
    rfl

/-- The levels of the tree as VSCAN reads them. -/
theorem getD_treeLevels (f : BitVec 32 → BitVec 32 → Lane) (h : Nat → Lane) {k j : Nat} (hk : k ≤ 8) (hj : j < 2 ^ (8 - k)) :
    ((((treeLevels 8 f ((List.range 256).map h)).map List.toArray).toArray.getD k #[]).getD j (0, 0)) = treeNode f h k j := by
  rw [show (256 : Nat) = 2 ^ 8 from rfl, treeLevels_map_range]
  simp [Array.getD_eq_getD_getElem?, Nat.lt_succ_of_le hk, hj]

/-- A list of numbers that a test filters, summed. -/
theorem sum_filter_map {α M : Type} [AddCommMonoid M] (p : α → Bool) (f : α → M) (l : List α) : ((l.filter p).map f).sum = (l.map (fun x => if p x then f x else 0)).sum := by
  induction l with
  | nil => rfl
  | cons x t ih => cases hp : p x <;> simp [hp, ih]

/-- The sum up to n rounded down to a multiple of 2 ^ k. -/
def sumTo (g : Nat → BitVec 32) (n k : Nat) : BitVec 32 := laneSum g (n / 2 ^ k * 2 ^ k)

/-- A block of the binary decomposition is the difference of two rounded sums. -/
theorem block_eq (h : Nat → Lane) (n k : Nat) :
    (if (decide (n / 2 ^ k % 2 = 1)) = true then (treeNode (redOp 4) h k (n / 2 ^ k - 1)).1 else 0) = sumTo (fun i => (h i).1) n k - sumTo (fun i => (h i).1) n (k + 1) := by
  have hdiv : n / 2 ^ (k + 1) = n / 2 ^ k / 2 := by rw [Nat.pow_succ, Nat.div_div_eq_div_mul]
  rw [sumTo, sumTo, hdiv, Nat.pow_succ, show n / 2 ^ k / 2 * (2 ^ k * 2) = n / 2 ^ k / 2 * 2 * 2 ^ k by ring]
  generalize n / 2 ^ k = q
  split
  · next hb =>
    have hb := of_decide_eq_true hb
    rw [treeNode_add, Nat.sub_add_cancel (by omega), show q / 2 * 2 = q - 1 by omega]
  · next hb =>
    rw [decide_eq_true_eq] at hb
    rw [show q / 2 * 2 = q by omega, sub_self]

/-- Lane i of an integer scan is the sum of the lanes up to i. -/
theorem scanLane_treeLevels_add (h : Nat → Lane) {i : Nat} (hi : i < 256) :
    (scanLane (redOp 4) ((treeLevels 8 (redOp 4) ((List.range 256).map h)).map List.toArray).toArray i).1 = laneSum (fun j => (h j).1) (i + 1) := by
  have hblock : ∀ k ≤ 8, (i + 1) / 2 ^ k - 1 < 2 ^ (8 - k) := by
    intro k hk
    have hpow : 2 ^ (8 - k) * 2 ^ k = 256 := by rw [← Nat.pow_add, Nat.sub_add_cancel hk]
    have : (i + 1) / 2 ^ k ≤ 2 ^ (8 - k) := Nat.div_le_of_le_mul (by rw [Nat.mul_comm, hpow]; omega)
    have := Nat.two_pow_pos (8 - k)
    omega
  rw [scanLane_add, sum_filter_map, List.map_congr_left (g := fun k => sumTo (fun j => (h j).1) (i + 1) k - sumTo (fun j => (h j).1) (i + 1) (k + 1))]
  · have htop : sumTo (fun j => (h j).1) (i + 1) 9 = 0 := by
      rw [sumTo, Nat.div_eq_of_lt (by omega), Nat.zero_mul]
      rfl
    have hbot : sumTo (fun j => (h j).1) (i + 1) 0 = laneSum (fun j => (h j).1) (i + 1) := by simp [sumTo]
    simp only [List.map_cons, List.map_nil, List.sum_cons, List.sum_nil, Nat.reduceAdd, htop, hbot]
    abel
  · intro k hk
    have hk8 : k ≤ 8 := by
      simp only [List.mem_cons, List.not_mem_nil, or_false] at hk
      omega
    rw [getD_treeLevels _ _ hk8 (hblock k hk8)]
    exact block_eq h (i + 1) k

theorem filter_range_le {i n : Nat} (hi : i < n) : (List.range n).filter (fun k => decide (k ≤ i)) = List.range (i + 1) := by
  obtain ⟨d, rfl⟩ := Nat.exists_eq_add_of_le (Nat.succ_le_of_lt hi)
  rw [List.range_add, List.filter_append, List.filter_eq_self.2, List.filter_eq_nil_iff.2, List.append_nil]
  · intro k hk
    obtain ⟨j, _, rfl⟩ := List.mem_map.1 hk
    simp only [decide_eq_true_eq]
    omega
  · intro k hk
    exact decide_eq_true (Nat.le_of_lt_succ (List.mem_range.1 hk))

theorem execVscan_result (h : Open s) :
    ∃ g v, execVscan o s = .next (((s.setV o.d v).addFlags g).goTo (s.nextPc o)) ∧
      (o.q.toNat = 4 → ∀ i, i < 256 → lane v i =
        BitVec.ofNat 32 ((((maskLanes (guardMask s.ctx o.g)).filter (fun k => decide (k ≤ i))).map (fun k => (lane (s.getV o.a) k).toNat)).sum)) := by
  refine ⟨_, _, (runVec_next h rfl ?_ : execVscan o s = _), fun hq i hi => ?_⟩
  · rw [State.addFlags_ctx, State.setV_ctx, Ctx.setV_pc]
  · rw [lane_ofLaneList _ hi, List.map_map, List.getD_eq_getElem?_getD, List.getElem?_map, List.getElem?_range hi, Option.map_some, Option.getD_some, Function.comp_apply,
      treeInput_eq, hq, scanLane_treeLevels_add _ hi, redLeaf_add hq, laneSum_mask, maskLanes, List.filter_comm, filter_range_le hi]

end Reduce
end Sys2Proof.Machine
end

section
/-! PROOFS. Sorting, selection, gates and histograms (R387, R391, R392, R394). -/

namespace Sys2Proof.Machine

/-! ## Stable sorting -/

theorem insertBy_eq_orderedInsert {α : Type} (before : α → α → Bool) (x : α) (l : List α) : insertBy before x l = l.orderedInsert (fun a b => before a b = true) x := by
  induction l with
  | nil => rfl
  | cons y t ih => rw [insertBy, List.orderedInsert_cons, ih]

theorem sortBy_eq_insertionSort {α : Type} (before : α → α → Bool) (l : List α) : sortBy before l = l.insertionSort (fun a b => before a b = true) := by
  induction l with
  | nil => rfl
  | cons x t ih =>
    rw [List.insertionSort_cons, ← ih, ← insertBy_eq_orderedInsert]
    rfl

theorem sortBy_perm {α : Type} (before : α → α → Bool) (l : List α) : (sortBy before l).Perm l := by
  rw [sortBy_eq_insertionSort]
  exact List.perm_insertionSort _ l

theorem sortBy_pairwise {α : Type} {before : α → α → Bool} (htotal : ∀ a b, before a b = true ∨ before b a = true)
    (htrans : ∀ a b c, before a b = true → before b c = true → before a c = true) (l : List α) : (sortBy before l).Pairwise (fun a b => before a b = true) := by
  rw [sortBy_eq_insertionSort]
  have : Std.Total (fun a b => before a b = true) := ⟨htotal⟩
  have : IsTrans α (fun a b => before a b = true) := ⟨htrans⟩
  exact List.pairwise_insertionSort _ l

/-! ## VSORT -/

section Sorting

variable {o : Ops} {s : State}

/-- The lanes in the order of VSORT. -/
def sortedLanes (s : State) (o : Ops) : List Nat :=
  sortBy (fun a b : Nat => if o.m.getLsbD 0 then decide (sortKey o.q.toNat (lane (s.getV o.a) b) ≤ sortKey o.q.toNat (lane (s.getV o.a) a))
    else decide (sortKey o.q.toNat (lane (s.getV o.a) a) ≤ sortKey o.q.toNat (lane (s.getV o.a) b))) (maskLanes (guardMask s.ctx o.g))

theorem length_sortedLanes (s : State) (o : Ops) : (sortedLanes s o).length = (maskLanes (guardMask s.ctx o.g)).length := (sortBy_perm _ _).length_eq

theorem sortedLanes_ascending (hm : o.m = 0) : (sortedLanes s o).Pairwise (fun a b => sortKey o.q.toNat (lane (s.getV o.a) a) ≤ sortKey o.q.toNat (lane (s.getV o.a) b)) := by
  have hm0 : o.m.getLsbD 0 = false := by rw [hm]; rfl
  simp only [sortedLanes, hm0, Bool.false_eq_true, if_false]
  refine (sortBy_pairwise (fun a b => ?_) (fun a b c hab hbc => ?_) _).imp (fun h => of_decide_eq_true h)
  · simp only [decide_eq_true_eq]
    exact le_total _ _
  · rw [decide_eq_true_eq] at hab hbc ⊢
    exact hab.trans hbc

/-- A vector that VSORT writes: the sorted lanes, or their numbers, then the old lanes. -/
theorem execVsort_result (h : Open s) :
    ∃ v, execVsort o s = .next ((s.setV o.d v).goTo (s.nextPc o)) ∧
      (∀ j, (sortedLanes s o).length ≤ j → j < 256 → lane v j = lane (s.getV o.d) j) ∧
      (o.m = 0 → ∀ j, (hj : j < (sortedLanes s o).length) → lane v j = lane (s.getV o.a) (sortedLanes s o)[j]) := by
  have hlen : (sortedLanes s o).length ≤ 256 := by
    rw [length_sortedLanes]
    exact (List.length_filter_le _ _).trans (List.length_range).le
  refine ⟨_, (runVec_next h rfl ?_ : execVsort o s = _), fun j hj hlt => ?_, fun hm j hj => ?_⟩
  · rw [vsort, State.setV_ctx, Ctx.setV_pc]
  · have hn : (sortedLanes s o).toArray[j]? = none := by simp [hj]
    refine (lane_ofLanes _ hlt).trans ?_
    split
    · next i hi => exact absurd (hi.symm.trans hn) (by simp)
    · rfl
  · have hs : (sortedLanes s o).toArray[j]? = some (sortedLanes s o)[j] := by simp [hj]
    have hm1 : o.m.getLsbD 1 = false := by rw [hm]; rfl
    refine (lane_ofLanes _ (hj.trans_le hlen)).trans ?_
    split
    · next i hi =>
      rw [hm1, Option.some.inj (hi.symm.trans hs)]
      rfl
    · next hi => exact absurd (hi.symm.trans hs) (by simp)

end Sorting

/-! ## VTOPK -/

section Top

variable {o : Ops} {s : State}

/-- The rank of a lane in VTOPK: its score and its tie break. -/
def topRank (s : State) (o : Ops) (i : Nat) : Int × Nat :=
  if bit s.core.detmode 0 then (fxScore (lane (s.getV o.a) i), 0)
  else (topScore (lane (s.getV o.a) i), (mix64 (s.ctx.seed ^^^ mix64 (s.getS o.c) ^^^ BitVec.ofNat 64 i)).toNat)

/-- A ranked lane stands before another. -/
def topBefore (a b : Nat × Int × Nat) : Bool := b.2.1 < a.2.1 || (b.2.1 = a.2.1 && decide (b.2.2 ≤ a.2.2))

theorem topBefore_iff {a b : Nat × Int × Nat} : topBefore a b = true ↔ b.2.1 < a.2.1 ∨ b.2.1 = a.2.1 ∧ b.2.2 ≤ a.2.2 := by
  simp [topBefore]

/-- The ranked lanes, best first. -/
def topSorted (s : State) (o : Ops) : List (Nat × Int × Nat) := sortBy topBefore ((maskLanes (guardMask s.ctx o.g)).map (fun i => (i, topRank s o i)))

theorem topSorted_perm (s : State) (o : Ops) : (topSorted s o).Perm ((maskLanes (guardMask s.ctx o.g)).map (fun i => (i, topRank s o i))) := sortBy_perm _ _

theorem topSorted_fst_perm (s : State) (o : Ops) : ((topSorted s o).map (·.1)).Perm (maskLanes (guardMask s.ctx o.g)) := by
  refine ((topSorted_perm s o).map _).trans (.of_eq ?_)
  rw [List.map_map]
  exact List.map_id _

theorem topSorted_descending (s : State) (o : Ops) : (topSorted s o).Pairwise (fun a b => topBefore a b = true) := by
  refine sortBy_pairwise (fun a b => ?_) (fun a b c hab hbc => ?_) _
  · simp only [topBefore_iff]
    omega
  · rw [topBefore_iff] at hab hbc ⊢
    omega

/-- The lanes that VTOPK takes. -/
def topLanes (s : State) (o : Ops) : List Nat := ((topSorted s o).take (min (s.getS o.b).toNat 256)).map (·.1)

theorem topLanes_nodup (s : State) (o : Ops) : (topLanes s o).Nodup := by
  rw [topLanes, List.map_take]
  exact (((topSorted_fst_perm s o).nodup_iff).2 (maskLanes_nodup _)).sublist (List.take_sublist _ _)

theorem topLanes_subset {k : Nat} (h : k ∈ topLanes s o) : k ∈ maskLanes (guardMask s.ctx o.g) := by
  rw [topLanes, List.map_take] at h
  exact (topSorted_fst_perm s o).mem_iff.1 (List.mem_of_mem_take h)

theorem length_topLanes (s : State) (o : Ops) : (topLanes s o).length = min (min (s.getS o.b).toNat 256) (maskLanes (guardMask s.ctx o.g)).length := by
  rw [topLanes, List.length_map, List.length_take, (topSorted_perm s o).length_eq, List.length_map]

/-- A lane taken scores at least as high as one left out. -/
theorem topLanes_best (hd : s.core.detmode.getLsbD 0 = false) {k n : Nat} (hk : k ∈ topLanes s o) (hn : n ∈ maskLanes (guardMask s.ctx o.g)) (hnot : n ∉ topLanes s o) :
    topScore (lane (s.getV o.a) n) ≤ topScore (lane (s.getV o.a) k) := by
  have hrank : ∀ e ∈ topSorted s o, e.2.1 = topScore (lane (s.getV o.a) e.1) := by
    intro e he
    obtain ⟨i, _, rfl⟩ := List.mem_map.1 ((topSorted_perm s o).mem_iff.1 he)
    simp only [topRank, bit, hd, Bool.false_eq_true, if_false]
  obtain ⟨x, hx, rfl⟩ := List.mem_map.1 hk
  obtain ⟨y, hy, rfl⟩ := List.mem_map.1 ((topSorted_fst_perm s o).mem_iff.2 hn)
  have hdrop : y ∈ (topSorted s o).drop (min (s.getS o.b).toNat 256) := by
    rw [← List.take_append_drop (min (s.getS o.b).toNat 256) (topSorted s o), List.mem_append] at hy
    exact hy.resolve_left fun h => hnot (List.mem_map_of_mem h)
  have hpair := topSorted_descending s o
  rw [← List.take_append_drop (min (s.getS o.b).toNat 256) (topSorted s o), List.pairwise_append] at hpair
  have hb := topBefore_iff.1 (hpair.2.2 x hx y hdrop)
  rw [← hrank x (List.mem_of_mem_take hx), ← hrank y hy]
  omega

theorem execVtopk_result (h : Open s) :
    ∃ v, execVtopk o s = .next ((s.setV o.d v).goTo (s.nextPc o)) ∧
      ∀ j, j < 256 → lane v j = (((topLanes s o)[j]?).map (BitVec.ofNat 32)).getD 0xFFFFFFFF := by
  refine ⟨_, (runVec_next h rfl ?_ : execVtopk o s = _), fun j hj => ?_⟩
  · rw [vtopk, State.setV_ctx, Ctx.setV_pc]
  · have he : (topLanes s o)[j]? = (((topSorted s o).take (min (s.getS o.b).toNat 256)).toArray[j]?).map (·.1) := by
      rw [topLanes, List.getElem?_map, List.getElem?_toArray]
    refine (lane_ofLanes _ hj).trans ?_
    rw [he]
    split
    · next e hi => rw [show ((topSorted s o).take (min (s.getS o.b).toNat 256)).toArray[j]? = some e from hi]; rfl
    · next hi => rw [show ((topSorted s o).take (min (s.getS o.b).toNat 256)).toArray[j]? = none from hi]; rfl

end Top

/-! ## VGATE -/

section Gate

variable {o : Ops} {s : State}

/-- A lane that no entry names keeps what the array held. -/
theorem getD_foldl_set {α : Type} (l : List (Nat × α)) (a : Array α) (d : α) {j : Nat} (h : ∀ e ∈ l, e.1 ≠ j) :
    (l.foldl (fun (a : Array α) e => a.setIfInBounds e.1 e.2) a).getD j d = a.getD j d := by
  induction l generalizing a with
  | nil => rfl
  | cons e t ih =>
    rw [List.foldl_cons, ih _ (fun x hx => h x (List.mem_cons_of_mem _ hx)), Array.getD_eq_getD_getElem?, Array.getD_eq_getD_getElem?,
      Array.getElem?_setIfInBounds_ne (h e List.mem_cons_self)]

/-- VGATE's outcome: +0 in every lane that no entry names. -/
def GateResult (o : Ops) (s t : State) : Prop := ∃ g v, t = (s.setV o.d v).addFlags g ∧ ∀ j, j < 256 → j ∉ (gateEntries s o).map (·.1) → lane v j = 0

theorem gateWrite_result {l : List (Nat × BitVec 32)} (g : BitVec 16) (h : ∀ e ∈ l, e.1 ∈ (gateEntries s o).map (·.1)) : GateResult o s (gateWrite s o l g) := by
  refine ⟨g, _, rfl, fun j hj hn => ?_⟩
  rw [lane_ofLaneList _ hj]
  have := getD_foldl_set l (Array.replicate 256 (0 : BitVec 32)) 0 (j := j) (fun e he hc => hn (hc ▸ h e he))
  rw [List.getD_eq_getElem?_getD, Array.getElem?_toList, ← Array.getD_eq_getD_getElem?, this]
  simp [Array.getD_eq_getD_getElem?, hj]

/-- Entries computed from the gate's own, each for its lane. -/
theorem gateWrite_map {α : Type} (l : List (Nat × α)) (f : Nat × α → BitVec 32) (g : BitVec 16) (h : ∀ e ∈ l, e.1 ∈ (gateEntries s o).map (·.1)) :
    GateResult o s (gateWrite s o (l.map (fun e => (e.1, f e))) g) :=
  gateWrite_result g fun e he => by
    obtain ⟨x, hx, rfl⟩ := List.mem_map.1 he
    exact h x hx

theorem mem_fst_map {α β : Type} {l : List (Nat × α)} {f : Nat × α → β} {e : Nat × β} (he : e ∈ l.map (fun x => (x.1, f x))) : e.1 ∈ l.map (·.1) := by
  obtain ⟨x, hx, rfl⟩ := List.mem_map.1 he
  exact List.mem_map_of_mem hx

theorem gateDivide_result {l : List (Nat × BitVec 32)} (g : BitVec 16) (h : ∀ e ∈ l, e.1 ∈ (gateEntries s o).map (·.1)) : GateResult o s (gateDivide s o l g) :=
  gateWrite_map _ (fun e : Nat × BitVec 32 × BitVec 16 => e.2.1) _ fun e he => by
    obtain ⟨x, hx, hxe⟩ := List.mem_map.1 (mem_fst_map he)
    exact hxe ▸ h x hx

/-- Entries computed from entries are for their lanes. -/
theorem fst_mem_gate {α β : Type} {l : List (Nat × α)} {f : Nat × α → β} (h : ∀ e ∈ l, e.1 ∈ (gateEntries s o).map (·.1)) :
    ∀ e ∈ l.map (fun x => (x.1, f x)), e.1 ∈ (gateEntries s o).map (·.1) := by
  intro e he
  obtain ⟨x, hx, rfl⟩ := List.mem_map.1 he
  exact h x hx

theorem gateSoftmax_result (s : State) (o : Ops) : GateResult o s (gateSoftmax s o) := by
  have hl : ∀ e ∈ gateEntries s o, e.1 ∈ (gateEntries s o).map (·.1) := fun e he => List.mem_map_of_mem he
  simp only [gateSoftmax]
  split
  · exact gateWrite_result _ fun e he => absurd he List.not_mem_nil
  · split
    · exact gateWrite_result _ (fst_mem_gate (fst_mem_gate (fst_mem_gate hl)))
    · exact gateDivide_result _ (fst_mem_gate (fst_mem_gate hl))

theorem gateRenorm_result (s : State) (o : Ops) : GateResult o s (gateRenorm s o) := by
  have hl : ∀ e ∈ gateEntries s o, e.1 ∈ (gateEntries s o).map (·.1) := fun e he => List.mem_map_of_mem he
  simp only [gateRenorm]
  split
  · exact gateWrite_result _ fun e he => absurd he List.not_mem_nil
  · split
    · split
      · exact gateWrite_result _ fun e he => absurd he List.not_mem_nil
      · exact gateWrite_result _ (fst_mem_gate (fst_mem_gate hl))
    · exact gateDivide_result _ hl

/-- The lanes that VGATE's entries name. -/
theorem mem_gateEntries_fst {j : Nat} (h : j ∈ (gateEntries s o).map (·.1)) :
    (guardMask s.ctx o.g).getLsbD j = true ∧ j < min (s.getS o.c).toNat 256 ∧ (lane (s.getV o.b) j).toNat < 256 := by
  obtain ⟨e, he, rfl⟩ := List.mem_map.1 h
  simp only [gateEntries, List.mem_filterMap, List.mem_range, Option.ite_none_right_eq_some, Option.some.injEq, Bool.and_eq_true, decide_eq_true_eq] at he
  obtain ⟨j, hj, ⟨hm, hx⟩, rfl⟩ := he
  exact ⟨hm, hj, hx⟩

/-- A gate that leaves +0 outside its entries. -/
theorem runVec_gate (h : Open s) {f : State → State} (hf : GateResult o s (f s)) :
    ∃ g v, runVec o (fun t => .next (f t)) s = .next (((s.setV o.d v).addFlags g).goTo (s.nextPc o)) ∧
      ∀ j, j < 256 → (guardMask s.ctx o.g).getLsbD j = false ∨ min (s.getS o.c).toNat 256 ≤ j ∨ 256 ≤ (lane (s.getV o.b) j).toNat → lane v j = 0 := by
  obtain ⟨g, v, ht, hv⟩ := hf
  refine ⟨g, v, runVec_next h (congrArg Eff.next ht) ?_, fun j hj hout => hv j hj fun hin => ?_⟩
  · rw [State.addFlags_ctx, State.setV_ctx, Ctx.setV_pc]
  · obtain ⟨hm, hlt, hx⟩ := mem_gateEntries_fst hin
    rcases hout with h0 | h0 | h0
    · rw [hm] at h0
      exact absurd h0 (by simp)
    · omega
    · omega

end Gate

/-! ## VHIST -/

section Histogram

variable {o : Ops} {s : State}

/-- The counts of a list of lanes, by value. -/
theorem getD_foldl_count (f : Nat → Nat) (nb : Nat) (hnb : nb ≤ 256) (l : List Nat) (a : Array Nat) (ha : a.size = 256) (b : Nat) :
    (l.foldl (fun (a : Array Nat) i => if f i < nb then a.setIfInBounds (f i) (a.getD (f i) 0 + 1) else a) a).getD b 0 =
      a.getD b 0 + if b < nb then l.countP (fun i => decide (f i = b)) else 0 := by
  induction l generalizing a with
  | nil => simp
  | cons i t ih =>
    rw [List.foldl_cons, List.countP_cons]
    by_cases hi : f i < nb
    · rw [if_pos hi, ih _ (by rw [Array.size_setIfInBounds, ha])]
      have hset : (a.setIfInBounds (f i) (a.getD (f i) 0 + 1)).getD b 0 = a.getD b 0 + if f i = b then 1 else 0 := by
        rw [Array.getD_eq_getD_getElem?, Array.getElem?_setIfInBounds, Array.getD_eq_getD_getElem?]
        by_cases hb : f i = b
        · subst hb
          simp [ha, hi.trans_le hnb, Array.getD_eq_getD_getElem?]
        · simp [hb, Array.getD_eq_getD_getElem?]
      rw [hset]
      by_cases hb : f i = b
      · subst hb
        simp only [if_true, if_pos hi, decide_true]
        omega
      · simp [hb]
    · rw [if_neg hi, ih _ ha]
      by_cases hb : f i = b
      · subst hb
        simp [hi]
      · simp [hb]

/-- The bins: those below the bound that some unmasked lane names, with how many lanes name them. -/
theorem mem_histBins {b n : Nat} :
    (b, n) ∈ histBins s o ↔ 0 < n ∧ b < min (s.getS o.c).toNat 256 ∧
      n = (List.range 256).countP (fun k => (guardMask s.ctx o.g).getLsbD k && decide ((lane (s.getV o.b) k).toNat = b)) := by
  have hcount := getD_foldl_count (fun k => (lane (s.getV o.b) k).toNat) (min (s.getS o.c).toNat 256) (Nat.min_le_right _ _) (maskLanes (guardMask s.ctx o.g)) (Array.replicate 256 0)
    (Array.size_replicate) b
  have hrep : (Array.replicate 256 0).getD b 0 = 0 := by
    rw [Array.getD_eq_getD_getElem?, Array.getElem?_replicate]
    split <;> rfl
  have hmask : (maskLanes (guardMask s.ctx o.g)).countP (fun k => decide ((lane (s.getV o.b) k).toNat = b)) =
      (List.range 256).countP (fun k => (guardMask s.ctx o.g).getLsbD k && decide ((lane (s.getV o.b) k).toNat = b)) := by
    rw [maskLanes, List.countP_filter]
    simp only [Bool.and_comm]
  rw [hrep, Nat.zero_add, hmask] at hcount
  simp only [histBins, List.mem_filterMap, List.mem_range, Option.ite_none_left_eq_some, Option.some.injEq, Prod.mk.injEq]
  constructor
  · rintro ⟨b', hb', hn, rfl, rfl⟩
    rw [hcount] at hn ⊢
    split at hn
    · next hlt => rw [if_pos hlt]; exact ⟨Nat.pos_of_ne_zero hn, hlt, rfl⟩
    · exact absurd rfl hn
  · rintro ⟨hn, hb, rfl⟩
    rw [if_pos hb] at hcount
    exact ⟨b, hb.trans_le (Nat.min_le_right _ _), by rw [hcount]; exact hn.ne', rfl, hcount⟩

theorem histAdds_core (l : List ((Nat × List Part) × (Nat × Nat))) (u : State) (rel : Nat) : (histAdds u rel l).core = u.core :=
  foldl_keeps State.core (fun t _ => (writeAtomic_results t none rel _ _).2.1) l u

theorem foldl_histAdd_mem (l : List ((Nat × List Part) × (Nat × Nat))) {u w : State} (rel : Nat) (h : u.mem = w.mem) :
    (histAdds u rel l).mem = (l.foldl (fun u e => storeParts u e.1.2 (leBytes 4 ((leNat (readParts u e.1.2) + e.2.2) % 2 ^ 32))) w).mem := by
  induction l generalizing u w with
  | nil => exact h
  | cons e t ih =>
    rw [histAdds, List.foldl_cons, List.foldl_cons]
    refine ih ?_
    have hread : readParts u e.1.2 = readParts w e.1.2 := by simp only [readParts, State.bytesAt, State.byteAt, h]
    rw [(writeAtomic_results u none rel _ _).1, hread, storeParts_mem_congr _ _ h]

theorem execVhist_result (h : Open s) (hend : (s.getS o.a + o.imm.signExtend 64).toNat + 4 ≤ 2 ^ 48) (hal : (s.getS o.a + o.imm.signExtend 64).toNat % 4 = 0)
    {l : List (Nat × List Part)} {t : State}
    (hl : laneParts s .write (fun b => (s.getS o.a + o.imm.signExtend 64).toNat + 4 * b) ((histBins s o).map (·.1)) = .ok (l, t)) (hw : t.waitsWay (l.flatMap (·.2)) = false) :
    execVhist o s = .next ((histAdds t (if o.m.getLsbD 0 then scopeReach o.q.toNat else 0) (l.zip (histBins s o))).goTo (s.nextPc o)) := by
  refine (runVec_next h ?_ ?_ : execVhist o s = _)
  · have haddr : s.addr o = s.getS o.a + o.imm.signExtend 64 := rfl
    simp only [histogram, haddr, eaFlt_none hend, hal, ne_eq, not_true_eq_false, if_false, hl, hw, Bool.false_eq_true]
  · rw [State.ctx_of_core (histAdds_core _ _ _), (laneParts_tlb hl).ctx]

end Histogram

/-- Settles O30: the trees by node, the sorts as insertion sorts, the gate by its entries, the histogram by its counts. -/
theorem crossLaneResults : Obligations.CrossLaneResults := by
  unfold Obligations.CrossLaneResults
  refine ⟨fun o s h => ?forms, fun o s b n => mem_histBins⟩
  intro m q a ls
  refine ⟨?red, ?scan, ?sort, ?top, fun i hi => ?gate, fun hend hal l t hl hw => ⟨execVhist_result h hend hal hl hw, fun u rel => foldl_histAdd_mem _ rel rfl⟩⟩
  case red => exact ⟨_, _, execVred_result h, fun hq => vred_add hq, fun hq n => vred_or hq n, treeNode_empty⟩
  case scan => exact execVscan_result h
  case sort =>
    obtain ⟨v, hv, hrest, hsorted⟩ := execVsort_result h
    have hlen : (sortedLanes s o).length = ls.length := length_sortedLanes s o
    refine ⟨v, hv, fun j hj => hrest j (hlen ▸ hj), fun hm => ⟨?_, fun i j hij hj => ?_⟩⟩
    · have hmap : (List.range ls.length).map (fun j => lane v j) = (sortedLanes s o).map a := by
        refine List.ext_getElem (by simp [hlen]) fun j hj _ => ?_
        rw [List.length_map, List.length_range, ← hlen] at hj
        simp only [List.getElem_map, List.getElem_range]
        exact hsorted hm j hj
      rw [hmap]
      exact (sortBy_perm _ _).map a
    · rw [← hlen] at hj
      rw [hsorted hm i (hij.trans_lt hj), hsorted hm j hj]
      rcases hij.eq_or_lt with rfl | hlt
      · exact le_rfl
      · exact List.pairwise_iff_getElem.1 (sortedLanes_ascending hm) i j _ hj hlt
  case top =>
    obtain ⟨v, hv, hlane⟩ := execVtopk_result h
    refine ⟨v, hv, topLanes s o, topLanes_nodup s o, fun k hk => topLanes_subset hk, length_topLanes s o, fun j hj => ?_, fun hd k hk n hn hnot => topLanes_best hd hk hn hnot⟩
    rw [hlane j hj]
    cases (topLanes s o)[j]? <;> rfl
  case gate =>
    rcases hi with rfl | rfl
    · exact runVec_gate (f := fun t => gateSoftmax t o) h (gateSoftmax_result s o)
    · exact runVec_gate (f := fun t => gateRenorm t o) h (gateRenorm_result s o)

end Sys2Proof.Machine
end

section
/-! PROOFS. The Scroll forms and their statuses (R467 to R473). -/

namespace Sys2Proof.Machine

/-! ## What the tape's operations leave of the core -/

theorem storeSeen_core (s : State) (chain : Bool) (ps : List Part) (bs : List Byte) : (storeSeen s chain ps bs).core = s.core := by
  rw [storeSeen, storeParts_core, State.pruned_core]
  exact foldl_keeps State.core (fun t x => (SameButViews.noteLast _ _ _ _).core.trans (State.openRange_core t _ _ _)) ps s

theorem State.tapeWrite_core {s t : State} {asid : BitVec 9} {va : Nat} {bs : List Byte} (h : s.tapeWrite asid va bs = some t) : t.core = s.core := by
  unfold State.tapeWrite at h
  split at h
  · cases h
  · split at h
    · cases h
      exact storeSeen_core _ _ _ _
    · cases h

theorem State.tapeDone_core (s : State) (asid : BitVec 9) (area : Nat) (bad : Bool) : (s.tapeDone asid area bad).core = s.core := by
  simp only [State.tapeDone]
  split
  · rfl
  · next t ht =>
    cases hw : t.tapeWrite asid area _ with
    | none => exact State.tapeWrite_core ht
    | some u => exact (State.tapeWrite_core hw).trans (State.tapeWrite_core ht)

/-- The Scroll state of an aborted track. -/
def Scroll.aborted (x : Scroll) : Scroll := { x with mode := 0, abt := true, owed := 0, cmdInv := none, tags := [], recs := [] }

theorem State.abortTrack_core {s : State} {u : CtxId} (ovf : Bool) (h : (s.ctxAt u).scroll.mode = 1) :
    (s.abortTrack u ovf).core = (s.putScroll u (s.ctxAt u).scroll.aborted).core := by
  have hm : ¬ (s.ctxAt u).scroll.mode ≠ 1 := not_not.2 h
  simp only [State.abortTrack, if_neg hm]
  split
  · rfl
  · next t ht => rw [State.release_core, State.tapeDone_core, State.tapeWrite_core ht]; rfl

theorem State.putScroll_ctx (s : State) (x : Scroll) : (s.putScroll s.core.cur x).ctx = { s.ctx with scroll := x } := State.putCtx_ctx s _

theorem State.putScroll_ctx_of {s : State} {u : CtxId} (h : s.core.cur = u) (x : Scroll) : (s.putScroll u x).ctx = { s.ctx with scroll := x } := h ▸ State.putScroll_ctx s x

theorem State.abortTrack_mode {s : State} (ovf : Bool) (h : s.ctx.scroll.mode = 1) : (s.abortTrack s.core.cur ovf).ctx.scroll.mode = 0 := by
  rw [State.ctx_of_core (State.abortTrack_core ovf h), State.putScroll_ctx]
  rfl

@[simp] theorem State.keepRecord_cur (s : State) (asid : BitVec 9) (va : Nat) (r : BitVec 128) : (s.keepRecord asid va r).core.cur = s.core.cur := by
  unfold State.keepRecord
  split <;> rfl

@[simp] theorem State.keepRecords_cur (s : State) (asid : BitVec 9) (va : Nat) (rs : List (BitVec 128)) : (s.keepRecords asid va rs).core.cur = s.core.cur := by
  induction rs generalizing s va with
  | nil => rfl
  | cons r t ih => rw [State.keepRecords, ih, State.keepRecord_cur]

/-- Records that reach the track of the executing context count in NREC. -/
theorem State.putRecords_nrec {s : State} {rs : List Nat} (h : s.ctx.scroll.mode = 1) (ht : (s.putRecords s.core.cur rs).ctx.scroll.mode = 1) :
    (s.putRecords s.core.cur rs).ctx.scroll.nrec = s.ctx.scroll.nrec + rs.length := by
  have hm : ¬ (s.ctxAt s.core.cur).scroll.mode ≠ 1 := not_not.2 h
  have hab : ∀ b, (s.abortTrack s.core.cur b).ctx.scroll.mode ≠ 1 := fun b => by
    rw [State.abortTrack_mode b h]
    decide
  simp only [State.putRecords, if_neg hm] at ht ⊢
  split at ht
  · exact absurd ht (hab _)
  · next hfit =>
    rw [if_neg hfit]
    split at ht
    · exact absurd ht (hab _)
    · next t hw =>
      have hcur : t.core.cur = s.core.cur := by rw [State.tapeWrite_core hw]
      rw [State.putScroll_ctx_of (by rw [State.keepRecords_cur, hcur])]
      rfl

/-! ## The forms -/

section Forms

variable {o : Ops} {s : State}

/-- A form that only changes the state, where its body is known. -/
theorem runPlain_of (h : Ready o s) {f : State → State} {t : State} (hf : f s = t) : runPlain o f s = .next (t.goTo (t.nextPc o)) := by
  rw [runPlain_ready _ h, hf]

theorem runInstr_of_next (h : Ready o s) {body : State → Eff} {t : State} (hb : body s = .next t) : runInstr o body s = .next (t.goTo (t.nextPc o)) := by
  rw [runInstr_ready _ h, hb, finish]

theorem State.setS_scroll (s : State) (n : BitVec 6) (w : Word) : (s.setS n w).ctx.scroll = s.ctx.scroll := by
  rw [State.setS_ctx]
  unfold Ctx.setS
  split <;> rfl

/-- SCREC.BEGIN, once the status of its track is known. -/
theorem execScrecBegin_of (h : Ready o s) {k : Nat} {t : State}
    (hb : (s.setS o.d 0).beginTrack s.core.cur { (s.setS o.d 0).ctx with pc := s.nextPc o, counted := s.ctx.counted + 1 } (s.getS o.a) (s.getS o.b) = (k, t)) :
    execScrecBegin o s = .next ((if k = 0 then t else s.setS o.d (BitVec.ofNat 64 k)).goTo ((if k = 0 then t else s.setS o.d (BitVec.ofNat 64 k)).nextPc o)) := by
  refine (runPlain_of h ?_ : execScrecBegin o s = _)
  simp only [hb]

section Begin

variable {u : CtxId} {at' : Ctx} {area size : Word}

theorem beginTrack_busy (hu : s.core.cur = u) (hm : s.ctx.scroll.mode ≠ 0) : s.beginTrack u at' area size = (1, s) := by
  subst hu
  exact if_pos hm

theorem beginTrack_noGroup (hu : s.core.cur = u) (hm : s.ctx.scroll.mode = 0) (hg : s.ctx.group = none) : s.beginTrack u at' area size = (4, s) := by
  subst hu
  simp only [State.beginTrack, State.ctxAt_cur, hm, hg, ne_eq, not_true_eq_false, if_false]

theorem beginTrack_area (hu : s.core.cur = u) {g : Group} (hm : s.ctx.scroll.mode = 0) (hg : s.ctx.group = some g)
    (ha : area.toNat % 4096 ≠ 0 ∨ tapeTlen g.count.toNat size.toNat < 4096) : s.beginTrack u at' area size = (2, s) := by
  subst hu
  simp only [State.beginTrack, State.ctxAt_cur, hm, hg, ne_eq, not_true_eq_false, if_false]
  exact if_pos (by simpa using ha)

end Begin

/-! ### SCPLAY -/

theorem readHeader_core (s : State) (u : CtxId) (area pv : Word) : (s.readHeader u area pv).core = s.core := by
  simp only [State.readHeader]
  split
  · exact State.acquire_core _ _ _ _
  · rfl

theorem readHeader_mem (s : State) (u : CtxId) (area pv : Word) : (s.readHeader u area pv).mem = s.mem := by
  simp only [State.readHeader]
  split
  · exact State.acquire_mem _ _ _ _
  · rfl

theorem readHeader_read {area pv : Word} (hm : s.ctx.scroll.mode = 0) (hg : s.ctx.group ≠ none) (ha : area.toNat % 4096 = 0) (hp : pv.toNat % 8 = 0)
    (hok : tapePageOk s (s.asidOf s.core.cur) area.toNat = true) :
    s.readHeader s.core.cur area pv = s.acquire s.core.cur 1 (s.tapeKey (s.asidOf s.core.cur) area.toNat) := by
  refine if_pos ?_
  simp [hm, ha, hp, hok, Option.isSome_iff_ne_none, hg]

/-- A start whose first checks fail reads no header. -/
theorem readHeader_unread {area pv : Word} (h : s.ctx.scroll.mode ≠ 0 ∨ s.ctx.group = none ∨ area.toNat % 4096 ≠ 0 ∨ pv.toNat % 8 ≠ 0) : s.readHeader s.core.cur area pv = s := by
  refine if_neg ?_
  simp only [State.ctxAt_cur, Bool.and_eq_true, decide_eq_true_eq, Option.isSome_iff_ne_none]
  rintro ⟨⟨⟨⟨h0, hg⟩, ha⟩, hp⟩, -⟩
  have hm := of_decide_eq_true h0
  tauto

section Play

variable {area pv : Word}

theorem startReplay_busy (hm : s.ctx.scroll.mode ≠ 0) : s.startReplay s.core.cur area pv none = .status 1 := if_pos hm

theorem startReplay_noGroup (hm : s.ctx.scroll.mode = 0) (hg : s.ctx.group = none) : s.startReplay s.core.cur area pv none = .status 4 := by
  simp only [State.startReplay, State.ctxAt_cur, hm, hg, ne_eq, not_true_eq_false, if_false]

theorem startReplay_misaligned (hm : s.ctx.scroll.mode = 0) (hg : s.ctx.group ≠ none) (ha : area.toNat % 4096 ≠ 0 ∨ pv.toNat % 8 ≠ 0) :
    s.startReplay s.core.cur area pv none = .status 2 := by
  obtain ⟨g, hg⟩ := Option.ne_none_iff_exists'.1 hg
  simp only [State.startReplay, State.ctxAt_cur, hm, hg, ne_eq, not_true_eq_false, if_false]
  exact if_pos (by simpa using ha)

end Play

/-- SCPLAY of a context that has not just fallen back, by how its start ends. -/
theorem execScplay_of (h : Ready o s) (hf : s.ctx.scroll.fellBack = false) {t : State} (ht : s.readHeader s.core.cur (s.getS o.a) (s.getS o.b) = t) :
    (∀ v, t.startReplay s.core.cur (s.getS o.a) (s.getS o.b) none = .ok v → execScplay o s = .next ((v.setS o.d 0).goTo ((v.setS o.d 0).nextPc o))) ∧
    (∀ k, t.startReplay s.core.cur (s.getS o.a) (s.getS o.b) none = .status k →
      execScplay o s = .next ((t.setS o.d (BitVec.ofNat 64 k)).goTo ((t.setS o.d (BitVec.ofNat 64 k)).nextPc o))) ∧
    (∀ i, t.startReplay s.core.cur (s.getS o.a) (s.getS o.b) none = .fault i →
      execScplay o s = .next ((t.putScroll s.core.cur { s.ctx.scroll with fellBack := true }).raiseTrap i s.core.cur noPc)) := by
  subst ht
  refine ⟨fun v hv => (runInstr_of_next h ?_ : execScplay o s = _), fun k hk => (runInstr_of_next h ?_ : execScplay o s = _), fun i hi => ?_⟩
  · simp only [hf, Bool.false_eq_true, if_false, hv]
  · simp only [hf, Bool.false_eq_true, if_false, hk]
  · refine (runInstr_ready _ h : execScplay o s = _).trans ?_
    simp only [hf, Bool.false_eq_true, if_false, hi, finish]
    rw [show ((s.readHeader s.core.cur (s.getS o.a) (s.getS o.b)).putScroll s.core.cur { s.ctx.scroll with fellBack := true }).core.cur = s.core.cur by
      simp [State.putScroll, readHeader_core]]

/-- SCPLAY whose start reads no header ends with its status. -/
theorem execScplay_status (h : Ready o s) (hf : s.ctx.scroll.fellBack = false) {k : Nat} (hr : s.readHeader s.core.cur (s.getS o.a) (s.getS o.b) = s)
    (hk : s.startReplay s.core.cur (s.getS o.a) (s.getS o.b) none = .status k) :
    execScplay o s = .next ((s.setS o.d (BitVec.ofNat 64 k)).goTo ((s.setS o.d (BitVec.ofNat 64 k)).nextPc o)) :=
  (execScplay_of h hf hr).2.1 k hk

/-- The fields of SCSTAT's word (R473). -/
theorem Scroll.word_fields (y : Scroll) : y.word.extractLsb' 62 2 = y.mode ∧ y.word.getLsbD 61 = y.abt ∧ y.word.getLsbD 60 = y.clean ∧ y.word.extractLsb' 48 12 = 0 ∧
    y.word.extractLsb' 32 16 = y.div ∧ y.word.extractLsb' 0 32 = BitVec.ofNat 32 y.nrec := by
  have hm := y.mode.isLt
  have hd := y.div.isLt
  have ha : (if y.abt then 2 ^ 61 else 0) = y.abt.toNat * 2 ^ 61 := by cases y.abt <;> rfl
  have hc : (if y.clean then 2 ^ 60 else 0) = y.clean.toNat * 2 ^ 60 := by cases y.clean <;> rfl
  have ha1 := y.abt.toNat_le
  have hc1 := y.clean.toNat_le
  rw [Scroll.word, ha, hc]
  refine ⟨?mode, ?abt, ?clean, ?zero, ?div, ?nrec⟩
  case abt | clean =>
    apply getLsbD_ofNat_of_div_mod (by decide)
    omega
  case mode | div =>
    apply BitVec.eq_of_toNat_eq
    rw [toNat_extractLsb'_ofNat (by decide)]
    omega
  case zero =>
    apply BitVec.eq_of_toNat_eq
    refine (toNat_extractLsb'_ofNat (by decide)).trans (show _ = 0 from ?_)
    omega
  case nrec =>
    apply BitVec.eq_of_toNat_eq
    rw [toNat_extractLsb'_ofNat (by decide), BitVec.toNat_ofNat]
    omega

end Forms

/-- Settles O33: each form by the branch that its conditions select. -/
theorem scrollResults : Obligations.ScrollResults := by
  unfold Obligations.ScrollResults
  intro o s h u x a go put after word slot
  have inGroup : x.group ≠ none → u ≠ .k → (s.ctx.group.isNone || s.kLevel) = false := by
    intro hg hu
    rw [Bool.or_eq_false_iff, Option.isNone_eq_false_iff, Option.isSome_iff_ne_none]
    exact ⟨hg, decide_eq_false hu⟩
  have hcur0 : (s.setS o.d 0).core.cur = u := by simp [u]
  refine ⟨fun hm => ?begin1, fun hm hg => ?begin4, fun g hm hg ha => ?begin2, fun t ht => ?begin0, fun hg => ?end4, fun hg hu hm => ?end1, fun t hg hu hm ht hab => ?end0,
    fun hf => ?play8, fun hf hm => ?play1, fun hf hm hg => ?play4, fun hf hm hg ha => ?play2, fun t hf ht => ?play, fun hm => ?live, fun t hm ht => ?guard, fun hm hlt => ?wide,
    fun t hm hlt ht => ?patch, fun hu => ?kctx, fun hu ha => ?inv2, ?inv, fun ps t hu himm hend hacc hw r hr => ?statLoad, fun hu himm => ?statWord⟩
  case begin1 => exact execScrecBegin_of h (beginTrack_busy hcur0 ((State.setS_scroll s o.d 0).symm ▸ hm))
  case begin4 =>
    refine execScrecBegin_of h (beginTrack_noGroup hcur0 ((State.setS_scroll s o.d 0).symm ▸ hm) ?_)
    simpa using hg
  case begin2 =>
    refine execScrecBegin_of h (beginTrack_area hcur0 ((State.setS_scroll s o.d 0).symm ▸ hm) ?_ ha)
    simpa using hg
  case begin0 => exact execScrecBegin_of h ht
  case end4 =>
    refine (runPlain_of h ?_ : execScrecEnd o s = _)
    have hc : (s.ctx.group.isNone || s.kLevel) = true := by
      rw [Bool.or_eq_true, Option.isNone_iff_eq_none]
      exact hg.imp id fun hk => decide_eq_true hk
    simp only [hc, if_true]
    rfl
  case end1 =>
    refine (runPlain_of h ?_ : execScrecEnd o s = _)
    simp only [inGroup hg hu, show s.ctx.scroll.mode ≠ 1 from hm, Bool.false_eq_true, if_false, if_true, ne_eq, not_false_eq_true]
    rfl
  case end0 =>
    refine (runPlain_of h ?_ : execScrecEnd o s = _)
    simp only [inGroup hg hu, show s.ctx.scroll.mode = 1 from hm, ne_eq, not_true_eq_false, Bool.false_eq_true, if_false]
    subst ht
    exact (if_neg (by rw [hab]; exact Bool.false_ne_true))
  case play8 =>
    refine (runInstr_of_next h ?_ : execScplay o s = _)
    simp only [show s.ctx.scroll.fellBack = true from hf, if_true]
    rfl
  case play1 => exact execScplay_status h hf (readHeader_unread (Or.inl hm)) (startReplay_busy hm)
  case play4 => exact execScplay_status h hf (readHeader_unread (Or.inr (Or.inl hg))) (startReplay_noGroup hm hg)
  case play2 => exact execScplay_status h hf (readHeader_unread (Or.inr (Or.inr ha))) (startReplay_misaligned hm hg ha)
  case play =>
    have hp := execScplay_of h hf ht
    subst ht
    exact ⟨readHeader_core _ _ _ _, readHeader_mem _ _ _ _, fun hm hg ha hp hok => readHeader_read hm hg ha hp hok, hp⟩
  case live =>
    have hm' : s.ctx.scroll.mode ≠ 1 := hm
    refine ⟨(runPlain_of h (if_pos hm') : execScguard o s = _), (runPlain_of h (if_pos hm') : execScpatch o s = _)⟩
  case guard => exact (runPlain_of h ht : execScguard o s = _)
  case wide =>
    have hm' : ¬ s.ctx.scroll.mode ≠ 1 := not_not.2 hm
    exact (runPlain_of h ((if_neg hm').trans (if_pos hlt)) : execScpatch o s = _)
  case patch =>
    have hm' : ¬ s.ctx.scroll.mode ≠ 1 := not_not.2 hm
    have hbody : ∀ {r : State}, (if t.ctx.scroll.mode ≠ 1 then t else
        match declareSlot t t.curAsid t.ctx.scroll.area.toNat slot (o.imm.toNat / 32 + 1) with
        | none => t.abortTrack u false
        | some v => v.putScroll u { t.ctx.scroll with tags := if o.a = 0 then t.ctx.scroll.tags else SMap.set 0 t.ctx.scroll.tags o.a.toNat (BitVec.ofNat 6 (32 + slot)) }) = r →
        exec (.scpatch o) s = go r := by
      intro r hr
      subst ht
      exact (runPlain_of h (((if_neg hm').trans (if_neg (not_le.2 hlt))).trans hr) : execScpatch o s = _)
    refine ⟨fun hl => hbody (if_pos hl), fun hr => ⟨?_, fun v hv => hbody ?_, fun hn => hbody ?_⟩⟩
    · subst ht
      exact State.putRecords_nrec hm hr
    · simp only [hr, hv, ne_eq, not_true_eq_false, if_false]
    · simp only [hr, hn, ne_eq, not_true_eq_false, if_false]
  case kctx =>
    have hk : s.kLevel = true := decide_eq_true hu
    exact ⟨(runPlain_of h (if_pos hk) : execScinv o s = _), (runInstr_of_next h (if_pos hk) : execScstat o s = _)⟩
  case inv2 =>
    have hk : ¬ s.kLevel = true := fun hk => hu (of_decide_eq_true hk)
    exact (runPlain_of h ((if_neg hk).trans (if_pos ha)) : execScinv o s = _)
  case inv =>
    intro len pages hu ha
    have hk : ¬ s.kLevel = true := fun hk => hu (of_decide_eq_true hk)
    have ha' : ¬ (s.getS o.a).toNat % 4096 ≠ 0 := not_not.2 ha
    refine ⟨fun hp => ?_, fun hp => ⟨fun hl => ?_, fun hl hps => ?_, fun t hl hps ht => ?_⟩⟩
    · exact (runPlain_of h ((if_neg hk).trans ((if_neg ha').trans (if_pos (by rw [hp]; rfl)))) : execScinv o s = _)
    · exact (runPlain_of h ((if_neg hk).trans ((if_neg ha').trans ((if_neg (by rw [hp]; exact Bool.false_ne_true)).trans (if_pos hl)))) : execScinv o s = _)
    · exact (runPlain_of h ((if_neg hk).trans ((if_neg ha').trans ((if_neg (by rw [hp]; exact Bool.false_ne_true)).trans ((if_neg (not_lt.2 hl)).trans
        (if_pos (by rw [hps]; rfl)))))) : execScinv o s = _)
    · have hmask : ~~~(tapeValid ||| tapeStale) = (0x3FFFFFFFFFFFFFFF : Word) := by decide
      refine (runPlain_of h ((if_neg hk).trans ((if_neg ha').trans ((if_neg (by rw [hp]; exact Bool.false_ne_true)).trans ((if_neg (not_lt.2 hl)).trans
        ((if_neg (by rw [hps]; exact Bool.false_ne_true)).trans ?_))))) : execScinv o s = _)
      have hw : s.tapeWrite s.curAsid (s.getS o.a).toNat (leBytes 8 (s.tapeWord s.curAsid (s.getS o.a).toNat 0 &&& 0x3FFFFFFFFFFFFFFF).toNat) = some t := ht
      rw [← hmask] at hw
      simp only [hw]
      rfl
  case statLoad =>
    have hk : ¬ s.kLevel = true := fun hk => hu (of_decide_eq_true hk)
    subst hr
    refine (runInstr_next h ((if_neg hk).trans ((if_pos himm).trans (loadAt_ok (q := 0) (k := .plain) hend (fun hc => absurd hc (by simp [LoadKind.reach])) hacc (Or.inr hw)))) ?_ :
      execScstat o s = _)
    rw [State.setS_pc, State.ctx_pc_loadParts (accessParts_ok hacc)]
  case statWord =>
    have hk : ¬ s.kLevel = true := fun hk => hu (of_decide_eq_true hk)
    exact ⟨_, (runInstr_of_next h ((if_neg hk).trans (if_neg (not_lt.2 himm))) : execScstat o s = _), Scroll.word_fields _⟩

end Sys2Proof.Machine
end

section
/-! PROOFS. Trap entry: a translation depends on the tables only, what entering a handler leaves, and a halted core (R307 to R314). -/

namespace Sys2Proof.Machine

/-! ## A translation depends on the TLBs, the memory and the tables of the dies and of the hub -/

/-- Two states that agree in all that a translation reads. -/
structure SameTables (s t : State) : Prop where
  tlb : t.core.l1tlb = s.core.l1tlb
  mem : t.mem = s.mem
  dies : t.dies = s.dies
  hub : t.hub = s.hub
  coreId : t.coreId = s.coreId

namespace SameTables

variable {s t : State}

theorem die (h : SameTables s t) (d : Nat) : t.die d = s.die d := by rw [State.die, h.dies, State.die]

theorem dieId (h : SameTables s t) : t.dieId = s.dieId := by rw [State.dieId, h.coreId, State.dieId]

theorem eq (h : SameTables s t) : t = { s with core := t.core, others := t.others, agenda := t.agenda, hwNext := t.hwNext, free := t.free, unseen := t.unseen } := by
  obtain ⟨-, hmem, hdies, hhub, hid⟩ := h
  rw [← hmem, ← hdies, ← hhub, ← hid]

theorem wordAt (h : SameTables s t) (a : Nat) : t.wordAt a = s.wordAt a := by rw [h.eq]; rfl

theorem lineBad (h : SameTables s t) (l : Nat) : t.lineBad l = s.lineBad l := by rw [h.eq]; rfl

theorem frameFault (h : SameTables s t) (r : Bool) (a va : Nat) : Machine.frameFault t r a va = Machine.frameFault s r a va := by rw [h.eq]; rfl

theorem frameFaults (h : SameTables s t) (r : Bool) (a va n : Nat) : Machine.frameFaults t r a va n = Machine.frameFaults s r a va n := by rw [h.eq]; rfl

theorem contOk (h : SameTables s t) (table idx : Nat) (e : Word) : Machine.contOk t table idx e = Machine.contOk s table idx e := by rw [h.eq]; rfl

/- The kernel must not evaluate a match on a frame's fault (it would count the bytes of a committed region one by one): these are equations of functions. -/

theorem tableBreach (h : SameTables s t) : Machine.tableBreach t = Machine.tableBreach s := by
  delta Machine.tableBreach
  simp only [h.frameFault]

theorem walkFrom (h : SameTables s t) (va : Nat) : Machine.walkFrom t va = Machine.walkFrom s va := by
  have hstep : Machine.walkFrom._f t va = Machine.walkFrom._f s va := by
    delta Machine.walkFrom._f
    simp only [h.wordAt, h.contOk, h.tableBreach]
  delta Machine.walkFrom
  rw [hstep]

theorem walk (h : SameTables s t) (asid : BitVec 9) (va : Nat) : Machine.walk t asid va = Machine.walk s asid va := by
  simp only [Machine.walk, h.hub, h.walkFrom]

end SameTables

/-- Two results of an access, in states that agree in what translations read. -/
inductive SameResult {α : Type} : Except Flt (α × State) → Except Flt (α × State) → Prop
  | error (e : Flt) : SameResult (.error e) (.error e)
  | ok (a : α) {s t : State} (h : SameTables s t) : SameResult (.ok (a, s)) (.ok (a, t))

theorem SameResult.of_map {α : Type} (e : Except Flt α) {s t : State} (h : SameTables s t) : SameResult (e.map (fun x => (x, s))) (e.map (fun x => (x, t))) := by
  cases e with
  | error f => exact .error f
  | ok a => exact .ok a h

theorem SameTables.translate {s t : State} (h : SameTables s t) (asid : BitVec 9) (kl : Bool) (a : Access) (va : Nat) :
    SameResult (translate s asid kl a va) (translate t asid kl a va) := by
  simp only [Machine.translate, h.tlb, h.die, h.dieId, h.walk]
  generalize Machine.walk s asid va = w
  split
  · exact .of_map _ h
  · split
    · exact .of_map _ ⟨rfl, h.mem, h.dies, h.hub, h.coreId⟩
    · split
      · exact .error _
      · exact .of_map _ ⟨rfl, h.mem, by simp only [State.putDie, h.dies], h.hub, h.coreId⟩

theorem SameResult.partsWith {tr : State → Nat → Except Flt (Xlat × State)} {fr : State → Nat → Nat → Nat → Option Flt}
    (htr : ∀ {s t}, SameTables s t → ∀ va, SameResult (tr s va) (tr t va)) (hfr : ∀ {s t}, SameTables s t → fr t = fr s) (n : Nat) :
    ∀ {s t : State}, SameTables s t → ∀ va len, SameResult (partsWith tr fr n s va len) (partsWith tr fr n t va len) := by
  induction n with
  | zero => exact fun h _ _ => .ok _ h
  | succ n ih =>
    intro s t h va len
    simp only [Machine.partsWith]
    split
    · exact .ok _ h
    · have h1 := htr h va
      generalize tr s va = x at h1 ⊢
      generalize tr t va = y at h1 ⊢
      cases h1 with
      | error e => exact .error e
      | ok x h1 =>
        simp only [hfr h1]
        split
        · exact .error _
        · have h2 := ih h1 (va + min len (4096 - va % 4096)) (len - min len (4096 - va % 4096))
          generalize Machine.partsWith tr fr n _ _ _ = x at h2 ⊢
          generalize Machine.partsWith tr fr n _ _ _ = y at h2 ⊢
          cases h2 with
          | error e => exact .error e
          | ok x h2 => exact .ok _ h2

/-- An access translates alike in states that agree in what translations read. -/
theorem SameTables.accessParts {s t u : State} (h : SameTables s t) {asid : BitVec 9} {kl : Bool} {a : Access} {va n : Nat} {ps : List Part}
    (ho : accessParts s asid kl a va n = .ok (ps, u)) : ∃ v, Machine.accessParts t asid kl a va n = .ok (ps, v) := by
  have hr : SameResult (Machine.accessParts s asid kl a va n) (Machine.accessParts t asid kl a va n) :=
    SameResult.partsWith (fun h va => h.translate asid kl a va) (fun h => by funext b c d; exact h.frameFaults _ b c d) _ h va n
  rw [ho] at hr
  generalize Machine.accessParts t asid kl a va n = y at hr ⊢
  cases hr with
  | ok _ h => exact ⟨_, rfl⟩

/-! ## The Margin recorder writes its die only -/

theorem State.marginAt_keeps {α : Type} (g : State → α) (h : ∀ (t : State) d x, g (t.putDie d x) = g t) (s : State) (node d code cause : Nat) (addr detail : Word)
    (core ctx : Nat) (fatal : Bool) : g (s.marginAt node d code cause addr detail core ctx fatal) = g s := by
  simp only [State.marginAt]
  split
  · rfl
  · exact h _ _ _

theorem State.margin_keeps {α : Type} (g : State → α) (h : ∀ (t : State) d x, g (t.putDie d x) = g t) (s : State) (d code cause : Nat) (addr detail : Word)
    (core ctx : Nat) (fatal : Bool) : g (s.margin d code cause addr detail core ctx fatal) = g s :=
  s.marginAt_keeps g h ..

theorem State.logMem_keeps {α : Type} (g : State → α) (h : ∀ (t : State) d x, g (t.putDie d x) = g t) (s : State) (i : TrapInfo) (c : CtxId) : g (s.logMem i c) = g s := by
  simp only [State.logMem]
  split
  · exact s.margin_keeps g h ..
  · split
    · exact s.margin_keeps g h ..
    · rfl

@[simp] theorem State.logMem_core (s : State) (i : TrapInfo) (c : CtxId) : (s.logMem i c).core = s.core := s.logMem_keeps (·.core) (fun _ _ _ => rfl) i c
@[simp] theorem State.logMem_mem (s : State) (i : TrapInfo) (c : CtxId) : (s.logMem i c).mem = s.mem := s.logMem_keeps (·.mem) (fun _ _ _ => rfl) i c

theorem State.logMem_ctxAt (s : State) (i : TrapInfo) (c u : CtxId) : (s.logMem i c).ctxAt u = s.ctxAt u := by rw [State.ctxAt, logMem_core, State.ctxAt]

theorem State.asidOf_of_core {s t : State} (h : t.core = s.core) (c : CtxId) : t.asidOf c = s.asidOf c := by
  cases c <;> simp only [State.asidOf, State.ctxAt, h]

/-! ## Entering the handler -/

/-- A handler is entered where its vector entry can be read and has its reserved bits 0: the core runs its K context at the entry. -/
theorem State.enterHandler_ok {s u : State} {cause : BitVec 5} {ps : List Part}
    (ho : accessParts s s.core.asid true .read (bits s.core.kvbr 47 3 * 8 + 8 * cause.toNat) 8 = .ok (ps, u))
    (h1 : bits (BitVec.ofNat 64 (leNat (readParts s ps))) 63 48 = 0) (h2 : bits (BitVec.ofNat 64 (leNat (readParts s ps))) 1 0 = 0) :
    s.enterHandler cause = { u with core := { u.core with cur := .k, k := { u.core.k with pc := BitVec.ofNat 64 (leNat (readParts s ps)), waiting := none, evWait := none, waited := 0, wfiLeft := none } } } := by
  rw [← (accessParts_ok ho).readParts] at h1 h2 ⊢
  simp only [State.enterHandler, ho, h1, h2]
  rfl

/-- The registers that a trap of a U context saves, before its handler is entered. -/
def State.saved (s : State) (i : TrapInfo) (c : CtxId) (len : Nat) : State :=
  { (s.putCtxAt c ((s.ctxAt c).trap i)) with
    core := (s.core.putCtx c ((s.ctxAt c).trap i)).saveTrap (kcauseWord i.cause (ctxNum c) false false len) (s.ctxAt c).pc (s.asidOf c) (i.fill s.free)
    free := s.free + 4 }

theorem State.trapA_u {s : State} {i : TrapInfo} {len : Nat} (hc : s.core.cur ≠ .k) :
    s.trapA i len = ((s.logMem i s.core.cur).saved i s.core.cur (len / 4)).enterHandler i.cause := by
  simp only [State.trapA]
  rfl

theorem kcauseWord_toNat (cause : BitVec 5) (c : CtxId) {len : Nat} (hl : len = 4 ∨ len = 8 ∨ len = 12) :
    (kcauseWord cause (ctxNum c) false false (len / 4)).toNat = cause.toNat + ctxNum c * 1024 + len / 4 * 16384 := by
  have h1 : ctxNum c < 8 := by cases c <;> decide
  have h2 := cause.isLt
  simp only [kcauseWord, BitVec.toNat_ofNat, Bool.false_eq_true, if_false, Nat.mod_eq_of_lt h1]
  omega

theorem getD_of_some {i : Option Word} {w d : Word} (h : i = some w) : (some (i.getD d)).getD 0 = w := by rw [h]; rfl

theorem Core.ctxOf_enter {c d : Core} {tlb : List TlbEntry} (h : c = { d with l1tlb := tlb }) {v : CtxId} (hv : v ≠ .k) (x : Ctx) :
    Core.ctxOf { c with cur := .k, k := x } v = d.ctxOf v := by
  subst h
  cases v <;> first | rfl | exact absurd rfl hv

theorem Core.ctxOf_saveTrap (c : Core) (kcause kepc : Word) (asid : BitVec 9) (t : TrapInfo) (v : CtxId) : (c.saveTrap kcause kepc asid t).ctxOf v = c.ctxOf v := by
  cases v <;> rfl

theorem State.trapA_u_leaves {s u : State} {i : TrapInfo} {len : Nat} {ps : List Part} (hk : s.core.cur ≠ .k) (hl : len = 4 ∨ len = 8 ∨ len = 12)
    (ho : accessParts (s.logMem i s.core.cur) s.curAsid true .read (bits s.core.kvbr 47 3 * 8 + 8 * i.cause.toNat) 8 = .ok (ps, u))
    (h1 : bits (BitVec.ofNat 64 (leNat (readParts s ps))) 63 48 = 0) (h2 : bits (BitVec.ofNat 64 (leNat (readParts s ps))) 1 0 = 0) :
    ∃ t, s.trapA i len = t ∧ t.core.inTrap = true ∧ t.core.cur = .k ∧ t.core.k.pc = BitVec.ofNat 64 (leNat (readParts s ps)) ∧ t.core.kepc = s.ctx.pc ∧ t.core.asid = s.curAsid ∧
      t.core.kcause.toNat = i.cause.toNat + ctxNum s.core.cur * 1024 + len / 4 * 16384 ∧
      (∀ w, i.aux0 = some w → t.core.kaux0 = w) ∧ (∀ w, i.aux1 = some w → t.core.kaux1 = w) ∧
      (∀ w, i.aux2 = some w → t.core.kaux2 = w) ∧ (∀ w, i.aux3 = some w → t.core.kaux3 = w) ∧
      (t.ctxAt s.core.cur).st = .trapped ∧ (t.ctxAt s.core.cur).pc = s.ctx.pc ∧ (t.ctxAt s.core.cur).s = s.ctx.s ∧ t.mem = s.mem ∧ t.core.flags = s.core.flags ∧
      t.core.invs = s.core.invs := by
  have hlog := s.logMem_core i s.core.cur
  have hctx : (s.logMem i s.core.cur).ctxAt s.core.cur = s.ctx := s.logMem_ctxAt i _ _
  have hasid : (s.logMem i s.core.cur).asidOf s.core.cur = s.curAsid := State.asidOf_of_core hlog _
  have hmem := s.logMem_mem i s.core.cur
  rw [State.trapA_u hk]
  generalize s.logMem i s.core.cur = r at *
  have hread : readParts (r.saved i s.core.cur (len / 4)) ps = readParts s ps := by simp only [readParts, State.bytesAt, State.byteAt, State.saved, State.putCtxAt, hmem]
  have hsame : SameTables r (r.saved i s.core.cur (len / 4)) := ⟨by simp [State.saved, Core.saveTrap, hlog], rfl, rfl, rfl, rfl⟩
  obtain ⟨v, hv⟩ := hsame.accessParts ho
  have hcore : (r.saved i s.core.cur (len / 4)).core =
      (s.core.putCtx s.core.cur (s.ctx.trap i)).saveTrap (kcauseWord i.cause (ctxNum s.core.cur) false false (len / 4)) s.ctx.pc s.curAsid (i.fill r.free) := by
    simp only [State.saved, hlog, hctx, hasid]
  have hvcore := (accessParts_ok hv).core
  have hvmem := (accessParts_ok hv).mem
  refine ⟨_, State.enterHandler_ok (ps := ps) (u := v) ?_ (hread ▸ h1) (hread ▸ h2), ?_⟩
  · rw [hcore, ← hv]
    simp [Core.saveTrap]
  · rw [hread]
    have hd : (r.saved i s.core.cur (len / 4)).core.ctxOf s.core.cur = s.ctx.trap i := by rw [hcore, Core.ctxOf_saveTrap, Core.ctxOf_putCtx]
    have hat : ∀ x : Ctx, Core.ctxOf { v.core with cur := .k, k := x } s.core.cur = s.ctx.trap i := fun x => (Core.ctxOf_enter hvcore hk x).trans hd
    rw [hcore] at hvcore
    refine ⟨?_, rfl, rfl, ?_, ?_, ?_, fun w h => ?_, fun w h => ?_, fun w h => ?_, fun w h => ?_, ?_, ?_, ?_, hvmem.trans hmem, ?_, ?_⟩
    · exact congrArg Core.inTrap hvcore
    · exact congrArg Core.kepc hvcore
    · exact congrArg Core.asid hvcore
    · exact (congrArg (fun c : Core => c.kcause.toNat) hvcore).trans (kcauseWord_toNat _ _ hl)
    · exact (congrArg Core.kaux0 hvcore).trans (getD_of_some h)
    · exact (congrArg Core.kaux1 hvcore).trans (getD_of_some h)
    · exact (congrArg Core.kaux2 hvcore).trans (getD_of_some h)
    · exact (congrArg Core.kaux3 hvcore).trans (getD_of_some h)
    · exact congrArg Ctx.st (hat _)
    · exact show _ = (s.ctx.trap i).pc from congrArg Ctx.pc (hat _)
    · exact show _ = (s.ctx.trap i).s from congrArg Ctx.s (hat _)
    · exact (congrArg Core.flags hvcore).trans (Core.putCtx_flags _ _ _)
    · exact (congrArg Core.invs hvcore).trans (Core.putCtx_invs _ _ _)

/-! ## The halted core -/

/-- On a halted core no instruction runs (R314). -/
theorem exec_halted {j : Instr} {o : Ops} (t : State) (hj : j.ops? = some o) (hh : t.core.halted = true) : exec j t = .fault .coreHalted := by
  cases j
  all_goals cases hj
  all_goals exact if_pos hh

theorem Ctx.kill_ends {x : Ctx} (b : BitVec 8) (h : x.group.isSome = true) :
    (x.kill b).parsed = true ∧ (x.kill b).st = .parsing ∧ (x.kill b).faulted = true ∧ (x.kill b).gresume = none := by
  obtain ⟨g, hg⟩ := Option.isSome_iff_exists.1 h
  simp only [Ctx.kill, hg, and_self]

theorem Core.ctxOf_halted (c : Core) (b : BitVec 8) {u : CtxId} (hu : u ≠ .k) :
    Core.ctxOf { c with halted := true, invs := [], u0 := c.u0.kill b, u1 := c.u1.kill b, u2 := c.u2.kill b, u3 := c.u3.kill b } u = (c.ctxOf u).kill b := by
  cases u <;> first | rfl | exact absurd rfl hu

theorem State.trapA_k {s : State} {i : TrapInfo} {len : Nat} (hc : s.core.cur = .k) :
    ∃ (r : State) (a b : Word), r.core = s.core ∧ s.trapA i len = r.halt i.cause a b := by
  refine ⟨{ s.logMem i s.core.cur with free := (s.logMem i s.core.cur).free + 4 }, (s.logMem i s.core.cur).core.k.pc,
    i.aux1.getD (Config.freeWord ((s.logMem i s.core.cur).free + 1)), s.logMem_core i _, ?_⟩
  simp only [State.trapA, hc]

/-- Settles O35: a translation depends on the tables alone, which saving the trap's registers leaves, so the handler is entered; a trap of the K context halts, and no instruction runs on a halted core. -/
theorem trapEntry : Obligations.TrapEntry := by
  refine ⟨fun s i len ps u hk hl ho h1 h2 => State.trapA_u_leaves hk hl ho h1 h2, fun s i len hc => ?_⟩
  intro t
  obtain ⟨r, a, b, hr, ht⟩ := State.trapA_k (i := i) (len := len) hc
  have htt : t = r.halt i.cause a b := ht
  have hcore : t.core = { r.core with halted := true, invs := [], u0 := r.core.u0.kill (i.cause.setWidth 8), u1 := r.core.u1.kill (i.cause.setWidth 8), u2 := r.core.u2.kill (i.cause.setWidth 8), u3 := r.core.u3.kill (i.cause.setWidth 8) } := by
    rw [htt]
    rfl
  have hh : t.core.halted = true := congrArg Core.halted hcore
  refine ⟨hh, congrArg Core.invs hcore, fun u hu hg => ?_, fun j o hj => exec_halted t hj hh⟩
  rw [State.ctxAt, hcore, Core.ctxOf_halted _ _ hu, hr]
  exact Ctx.kill_ends _ hg

end Sys2Proof.Machine
end

section
/-! PROOFS. What the storing of lines can change: the dies and the counter of free values, and nothing else (R427 to R439). -/

namespace Sys2Proof.Machine

/-- Two states that differ at most in their dies and in the counter of free values. -/
structure SameButDies (s t : State) : Prop where
  eq : t = { s with dies := t.dies, free := t.free }

namespace SameButDies

variable {s t u : State}

theorem refl (s : State) : SameButDies s s := ⟨rfl⟩

theorem trans (h : SameButDies s t) (k : SameButDies t u) : SameButDies s u := ⟨by rw [k.eq, h.eq]⟩

theorem core (h : SameButDies s t) : t.core = s.core := by rw [h.eq]
theorem coreId (h : SameButDies s t) : t.coreId = s.coreId := by rw [h.eq]
theorem others (h : SameButDies s t) : t.others = s.others := by rw [h.eq]
theorem hub (h : SameButDies s t) : t.hub = s.hub := by rw [h.eq]
theorem mem (h : SameButDies s t) : t.mem = s.mem := by rw [h.eq]
theorem agenda (h : SameButDies s t) : t.agenda = s.agenda := by rw [h.eq]
theorem unseen (h : SameButDies s t) : t.unseen = s.unseen := by rw [h.eq]

theorem putDie (s : State) (d : Nat) (x : Die) : SameButDies s (s.putDie d x) := ⟨rfl⟩

/-- A fold keeps what each of its steps keeps. -/
theorem foldl {α : Type} {f : State → α → State} (h : ∀ t a, SameButDies t (f t a)) (l : List α) (s : State) : SameButDies s (l.foldl f s) := by
  induction l generalizing s with
  | nil => exact refl s
  | cons a l ih => exact (h s a).trans (ih _)

theorem margin (s : State) (d code cause : Nat) (addr detail : Word) (core ctx : Nat) (fatal : Bool) : SameButDies s (s.margin d code cause addr detail core ctx fatal) := by
  unfold State.margin
  simp only [State.marginAt]
  split
  · exact refl s
  · exact putDie _ _ _

theorem logMem (s : State) (i : TrapInfo) (c : CtxId) : SameButDies s (s.logMem i c) := by
  unfold State.logMem
  split
  · exact margin ..
  · split
    · exact margin ..
    · exact refl s

theorem genFault (s : State) (i : TrapInfo) (tile : Nat) : SameButDies s (s.genFault i tile).2 := ⟨rfl⟩

theorem dropHeld (s : State) (c : CtxId) : SameButDies s (s.dropHeld c) := by
  refine foldl (fun t i => ?_) _ s
  dsimp only
  split
  · exact putDie _ _ _
  · exact refl t

theorem unholdInv (s : State) (v : Inv) (saved : Bool) : SameButDies s (s.unholdInv v saved) := by
  refine foldl (fun t i => ?_) _ s
  dsimp only
  split
  · exact putDie _ _ _
  · exact refl t

theorem takeChunk {i : Nat} {w : Writer} {a : Nat} (h : s.takeChunk i w = some (a, t)) : SameButDies s t := by
  simp only [State.takeChunk] at h
  split at h
  · cases h; exact ⟨rfl⟩
  · split at h
    · cases h; exact ⟨rfl⟩
    · cases h

theorem takeChunks {i : Nat} {w : Writer} {n : Nat} (fuel : Nat) : ∀ {s t : State} {cs ds : List Nat}, s.takeChunks fuel i w cs n = some (ds, t) → SameButDies s t := by
  induction fuel with
  | zero => intro s t cs ds h; cases h; exact refl s
  | succ f ih =>
    intro s t cs ds h
    unfold State.takeChunks at h
    split at h
    · cases h; exact refl s
    · split at h
      · cases h
      · next a u hu => exact (takeChunk hu).trans (ih h)

theorem growLine {i : Nat} {w : Writer} {x y : Frame} {l tag : Nat} (h : s.growLine i w x l tag = some (y, t)) : SameButDies s t := by
  simp only [State.growLine] at h
  split at h
  · cases h; exact refl s
  · split at h
    · cases h
    · next cs u hu => cases h; exact takeChunks _ hu

theorem stored (s : State) (dpa : Nat) (x : Die) (y : Frame) (line : Nat) (keep : Bool) : SameButDies s (((s.putDie (dieOfDpa dpa) x).putFrame dpa y).cleanLine line keep) := ⟨rfl⟩

theorem storeLine {w : Writer} {line : Nat} {keep : Bool} (h : s.storeLine w line keep = some t) : SameButDies s t := by
  simp only [State.storeLine] at h
  split at h
  · cases h; exact ⟨rfl⟩
  · split at h
    · split at h
      · cases h
      · next cs u hu => cases h; exact (takeChunks _ hu).trans (stored u _ _ _ line keep)
    · split at h
      · cases h
      · next y u hu => cases h; exact (growLine hu).trans (stored u _ _ _ line keep)

theorem restoreLine (s : State) (line : Nat) : SameButDies s (s.restoreLine line) := by
  simp only [State.restoreLine]
  split
  · next t ht => exact storeLine ht
  · exact putDie _ _ _

theorem undoFrame (s : State) (u : Undo) : SameButDies s (s.undoFrame u) := by
  simp only [State.undoFrame]
  split
  · split
    · exact refl s
    · exact foldl restoreLine _ s
  · exact putDie _ _ _

end SameButDies

end Sys2Proof.Machine
end

section
/-! PROOFS. What ending invocations and losing circuits leaves of the cores, and the return from a trap (R129, R169, R318). -/

namespace Sys2Proof.Machine

/-! ## Cores that differ in their units only -/

/-- Two cores that differ at most in their ports, invocations and storage: same contexts, same K registers. -/
structure SameButUnits (c d : Core) : Prop where
  eq : d = { c with ports := d.ports, invs := d.invs, tags := d.tags, wslots := d.wslots, accs := d.accs, spm := d.spm, full := d.full, resv := d.resv, circuits := d.circuits, debugTable := d.debugTable, restore := d.restore }

namespace SameButUnits

variable {c d e : Core}

theorem refl (c : Core) : SameButUnits c c := ⟨rfl⟩

theorem trans (h : SameButUnits c d) (k : SameButUnits d e) : SameButUnits c e := ⟨by rw [k.eq, h.eq]⟩

theorem inTrap (h : SameButUnits c d) : d.inTrap = c.inTrap := by rw [h.eq]
theorem cur (h : SameButUnits c d) : d.cur = c.cur := by rw [h.eq]
theorem cut (h : SameButUnits c d) : d.cut = c.cut := by rw [h.eq]
theorem kcause (h : SameButUnits c d) : d.kcause = c.kcause := by rw [h.eq]
theorem ctxOf (h : SameButUnits c d) (u : CtxId) : d.ctxOf u = c.ctxOf u := by rw [h.eq]; cases u <;> rfl

/-- A fold keeps what each of its steps keeps. -/
theorem foldl {α : Type} {f : Core → α → Core} (h : ∀ t a, SameButUnits t (f t a)) (l : List α) (c : Core) : SameButUnits c (l.foldl f c) := by
  induction l generalizing c with
  | nil => exact refl c
  | cons a l ih => exact (h c a).trans (ih _)

theorem settleSkips (c : Core) : SameButUnits c c.settleSkips := by
  refine foldl (fun t n => ?_) _ c
  simp only [Core.settleDrops]
  split <;> exact ⟨rfl⟩

theorem returnBeats (c : Core) (v : Inv) : SameButUnits c (c.returnBeats v) := by
  unfold Core.returnBeats
  split <;> exact ⟨rfl⟩

theorem releaseSlot (c : Core) (v : Inv) : SameButUnits c (c.releaseSlot v) := by
  unfold Core.releaseSlot
  split
  · split <;> exact ⟨rfl⟩
  · split <;> exact ⟨rfl⟩

theorem spStore (c : Core) (off : Nat) (bs : List Byte) : SameButUnits c (c.spStore off bs) := by
  unfold Core.spStore Core.markSlots
  split <;> exact ⟨rfl⟩

theorem putInv (c : Core) (v : Inv) : SameButUnits c (c.putInv v) := ⟨rfl⟩

end SameButUnits

@[simp] theorem Core.settleSkips_invs (c : Core) : c.settleSkips.invs = c.invs :=
  foldl_keeps Core.invs (fun t n => by simp only [Core.settleDrops]; split <;> rfl) _ c

@[simp] theorem Core.settleSkips_restore (c : Core) : c.settleSkips.restore = c.restore :=
  foldl_keeps Core.restore (fun t n => by simp only [Core.settleDrops]; split <;> rfl) _ c

@[simp] theorem Core.releaseSlot_restore (c : Core) (v : Inv) : (c.releaseSlot v).restore = c.restore := by
  unfold Core.releaseSlot
  split
  · split <;> rfl
  · split <;> rfl

@[simp] theorem Core.releaseSlot_invs (c : Core) (v : Inv) : (c.releaseSlot v).invs = c.invs := by
  unfold Core.releaseSlot
  split
  · split <;> rfl
  · split <;> rfl

/-! ## The cores of the module -/

/-- Looking at another core changes no core. -/
theorem State.focus_coreOf (s : State) (n m : Nat) : (s.focus n).coreOf m = s.coreOf m := by
  unfold State.focus
  split
  · rfl
  · next hn =>
    by_cases hm : m = n
    · subst hm
      simp [State.coreOf, hn]
    · by_cases hc : m = s.coreId
      · subst hc
        simp [State.coreOf, SMap.get_set, hm]
      · simp [State.coreOf, SMap.get_set, hm, hc]

@[simp] theorem State.focus_coreId (s : State) (n : Nat) : (s.focus n).coreId = n := by
  unfold State.focus
  split
  · exact Eq.symm ‹_›
  · rfl

theorem State.coreOf_self (s : State) : s.coreOf s.coreId = s.core := if_pos rfl

/-- Two states whose cores differ in their units only, whichever is looked at. -/
def SameCores (s t : State) : Prop := ∀ n, SameButUnits (s.coreOf n) (t.coreOf n)

namespace SameCores

variable {s t u : State}

theorem refl (s : State) : SameCores s s := fun _ => SameButUnits.refl _
theorem trans (h : SameCores s t) (k : SameCores t u) : SameCores s u := fun n => (h n).trans (k n)
theorem focus (s : State) (n : Nat) : SameCores s (s.focus n) := fun m => by rw [State.focus_coreOf]; exact SameButUnits.refl _

theorem of_core (hid : t.coreId = s.coreId) (ho : t.others = s.others) (hc : SameButUnits s.core t.core) : SameCores s t := fun n => by
  unfold State.coreOf
  rw [hid, ho]
  split
  · exact hc
  · exact SameButUnits.refl _

theorem core (h : SameCores s t) (hid : t.coreId = s.coreId) : SameButUnits s.core t.core := by
  have := h s.coreId
  rw [State.coreOf_self, ← hid, State.coreOf_self] at this
  exact this

theorem foldl {α : Type} {f : State → α → State} (h : ∀ t a, SameCores t (f t a)) (l : List α) (s : State) : SameCores s (l.foldl f s) := by
  induction l generalizing s with
  | nil => exact refl s
  | cons a l ih => exact (h s a).trans (ih _)

theorem of_dies (h : SameButDies s t) : SameCores s t := of_core h.coreId h.others (by rw [h.core]; exact SameButUnits.refl _)

theorem putPort (s : State) (p : Nat) (x : Port) : SameCores s (s.putPort p x) := of_core rfl rfl ⟨rfl⟩

theorem discard (s : State) (v : Inv) (i : TrapInfo) (tile : Nat) : SameCores s (s.discard v i tile) := by
  simp only [State.discard]
  have hd := ((SameButDies.foldl SameButDies.undoFrame v.undo s).trans (SameButDies.genFault _ i tile)).trans (SameButDies.unholdInv _ v false)
  generalize State.unholdInv _ v false = u at hd
  exact (of_dies hd).trans (of_core rfl rfl (((SameButUnits.returnBeats _ v).trans (SameButUnits.releaseSlot _ v)).trans (SameButUnits.putInv _ _)))

theorem loseEnd (s : State) (pn : Nat) : SameCores s (s.loseEnd pn) := by
  simp only [State.loseEnd]
  split
  · exact putPort _ _ _
  · exact (putPort _ _ _).trans (discard _ _ _ _)

theorem rebuildCirc (s : State) (pn : Nat) : SameCores s (s.rebuildCirc pn) := by
  refine trans (foldl (fun t e => ?_) _ s) (focus _ _)
  exact (focus t e.1).trans (putPort _ _ _)

theorem circMoved (s : State) (old pn : Nat) : SameCores s (s.circMoved old pn) := by
  simp only [State.circMoved]
  split
  · exact refl s
  · refine trans (trans (focus s old) (foldl (fun t e => ?_) _ _)) (focus _ _)
    exact (focus t e.1).trans (loseEnd _ _)

theorem portsMoved (s : State) (old : Nat) (pns : List Nat) : SameCores s (s.portsMoved old pns) := by
  unfold State.portsMoved
  refine trans ?_ (foldl rebuildCirc _ _)
  split
  · exact refl s
  · exact foldl (fun t p => circMoved t old p) _ s

end SameCores

theorem State.rebuildCirc_coreId (s : State) (pn : Nat) : (s.rebuildCirc pn).coreId = s.coreId := State.focus_coreId _ _

theorem State.circMoved_coreId (s : State) (old pn : Nat) : (s.circMoved old pn).coreId = s.coreId := by
  simp only [State.circMoved]
  split
  · rfl
  · exact State.focus_coreId _ _

theorem State.portsMoved_coreId (s : State) (old : Nat) (pns : List Nat) : (s.portsMoved old pns).coreId = s.coreId := by
  unfold State.portsMoved
  refine (foldl_keeps State.coreId (fun t p => t.rebuildCirc_coreId p) _ _).trans ?_
  split
  · rfl
  · exact foldl_keeps State.coreId (fun t p => t.circMoved_coreId old p) _ _

/-! ## A cut that begins and a context that is restored keep INTRAP -/

theorem State.beginCut_inTrap (s : State) : s.beginCut.core.inTrap = s.core.inTrap := by
  have hw : ∀ (asid : BitVec 9) (va : Nat) (bs : List Byte), ((s.tapeWrite asid va bs).getD s).core = s.core := fun asid va bs => by
    cases h : s.tapeWrite asid va bs with
    | none => rfl
    | some t => exact State.tapeWrite_core h
  unfold State.beginCut
  split
  · rfl
  · next k _ =>
    split
    · rfl
    · have h := hw k.asid k.area.toNat (leBytes 8 0)
      generalize (s.tapeWrite k.asid k.area.toNat (leBytes 8 0)).getD s = t at h ⊢
      dsimp only
      split
      · show t.core.inTrap = _
        rw [h]
      · show (Core.putCtx _ _ _).inTrap = _
        rw [Core.putCtx_inTrap, ← h]

theorem Core.takeResv_inTrap (c : Core) (rcb : Nat) (u : CtxId) : (c.takeResv rcb u).inTrap = c.inTrap := rfl

theorem State.contextRestore_inTrap (s : State) : s.contextRestore.core.inTrap = s.core.inTrap := by
  unfold State.contextRestore
  split
  · rfl
  · next r _ =>
    split
    · rfl
    · dsimp only
      rw [((SameCores.portsMoved _ _ _).core (State.portsMoved_coreId _ _ _)).inTrap]
      rw [State.putCore_core, (SameButUnits.settleSkips _).inTrap, Core.putCtx_inTrap]
      have hslots : ∀ (f : Core → SavedSlot → Core) (c : Core), (∀ t e, (f t e).inTrap = t.inTrap) → (r.slots.foldl f c).inTrap = c.inTrap :=
        fun f c h => foldl_keeps Core.inTrap h _ c
      split
      · rw [Core.takeResv_inTrap, hslots]
        · split <;> rfl
        · exact fun t e => (SameButUnits.spStore t _ _).inTrap
      · rw [hslots]
        · split <;> rfl
        · exact fun t e => (SameButUnits.spStore t _ _).inTrap

theorem State.eret_inTrap (s : State) (m : Nat) : (s.eret m).core.inTrap = false :=
  (State.contextRestore_inTrap _).trans (State.beginCut_inTrap _)

theorem State.eret_idle {s : State} {m : Nat} (hc : ((s.fence .k 1).afterTrap m).core.cut = none) (hr : ((s.fence .k 1).afterTrap m).core.restore = none) :
    s.eret m = (((s.fence .k 1).afterTrap m).putCore ((s.fence .k 1).afterTrap m).core.applyResumes).leaveTrap := by
  unfold State.eret
  generalize (s.fence .k 1).afterTrap m = t at hc hr
  have hb : (t.putCore t.core.applyResumes).leaveTrap.beginCut = (t.putCore t.core.applyResumes).leaveTrap := by
    unfold State.beginCut
    rw [show (t.putCore t.core.applyResumes).leaveTrap.core.cut = none from hc]
  dsimp only
  rw [hb, State.contextRestore, show (t.putCore t.core.applyResumes).leaveTrap.core.restore = none from hr]

/-! ## The trapped context goes on -/

theorem Core.applyResumes_ctxOf {c : Core} {u : CtxId} (h : (c.ctxOf u).gresume = none) : c.applyResumes.ctxOf u = c.ctxOf u := by
  have happly : (c.ctxOf u).applyResume = c.ctxOf u := by rw [Ctx.applyResume, h]
  cases u
  case k => rfl
  all_goals exact happly

theorem State.leaveTrap_ctxAt (t : State) {u : CtxId} (h : (t.ctxAt u).gresume = none) : ((t.putCore t.core.applyResumes).leaveTrap).ctxAt u = t.ctxAt u := by
  rw [← show (t.putCore t.core.applyResumes).ctxAt u = t.ctxAt u from Core.applyResumes_ctxOf h]
  cases u <;> rfl

/-- The address at which a context goes on after a class A trap. -/
def Core.resumePc (c : Core) (skip : Bool) : Word := c.kepc + if skip then BitVec.ofNat 64 (4 * bits c.kcause 15 14) else 0

theorem State.returnTo_a {s : State} {u : CtxId} (skip : Bool) (ht : (s.ctxAt u).st = .trapped) (hm : (s.ctxAt u).scroll.mode ≠ 2) (ha : s.core.trapClass = .a) :
    s.returnTo u skip = s.putCtxAt u { s.ctxAt u with st := (s.ctxAt u).trapFrom, pc := s.core.resumePc skip } := by
  have hst : ¬ (s.ctxAt u).st ≠ .trapped := not_not.2 ht
  simp only [State.returnTo, if_neg hst, ha, if_neg hm]
  rfl

section Return

variable {s : State} {n : Nat} {x : Ctx}

theorem State.eret_returns (hn : n < 4) (hk : bits s.core.kcause 12 10 = n) (hx : s.ctxAt (uCtx n) = x) (hc : s.core.cut = none) (hr : s.core.restore = none)
    (hg : x.gresume = none) (ht : x.st = .trapped) (hm : x.scroll.mode ≠ 2) (ha : s.core.trapClass = .a) {m : Nat} (hm2 : m ≠ 2) :
    (s.eret m).ctxAt (uCtx n) = { x with st := x.trapFrom, pc := s.core.resumePc (m = 1) } ∧ (s.eret m).unseen = (s.fence .k 1).unseen := by
  have hf : (s.fence .k 1).ctxAt (uCtx n) = x := hx
  have hafter : (s.fence .k 1).afterTrap m = (s.fence .k 1).putCtxAt (uCtx n) { x with st := x.trapFrom, pc := s.core.resumePc (m = 1) } := by
    have hk' : bits (s.fence .k 1).core.kcause 12 10 = n := hk
    simp only [State.afterTrap, hk', if_pos hn, if_neg hm2]
    have hback := State.returnTo_a (s := s.fence .k 1) (u := uCtx n) (m = 1) (by rw [hf]; exact ht) (by rw [hf]; exact hm) ha
    rw [hf] at hback
    exact hback
  have hcut : ((s.fence .k 1).afterTrap m).core.cut = none := by rw [hafter]; exact (Core.putCtx_cut _ _ _).trans hc
  have hres : ((s.fence .k 1).afterTrap m).core.restore = none := by rw [hafter]; exact (Core.putCtx_restore _ _ _).trans hr
  rw [State.eret_idle hcut hres, hafter]
  have hat := fun y : Ctx => Core.ctxOf_putCtx (s.fence .k 1).core (uCtx n) y
  refine ⟨?_, rfl⟩
  rw [State.leaveTrap_ctxAt]
  · exact hat _
  · exact (congrArg Ctx.gresume (hat _)).trans hg

end Return

/-! ## The trapped group is killed -/

/-- One invocation dropped: its undone frames, its slot and its held write. -/
def State.dropOne (a : State) (v : Inv) : State := ((v.undo.foldl State.undoFrame a).putCore (a.core.releaseSlot v)).unholdInv v false

theorem State.dropOne_core (a : State) (v : Inv) : (a.dropOne v).core = a.core.releaseSlot v := by
  rw [State.dropOne, (SameButDies.unholdInv _ v false).core, State.putCore_core]

theorem State.dropInvs_eq (s : State) (p : Inv → Bool) : ∃ t : State, t = (s.core.invs.filter p).foldl State.dropOne s ∧
    s.dropInvs p = t.putCore ({ t.core with invs := t.core.invs.filter (fun v => !p v) }.quiet ((s.core.invs.filter p).flatMap Inv.ports)).settleSkips := by
  refine ⟨_, rfl, ?_⟩
  unfold State.dropInvs State.dropOne
  rfl

theorem Core.quiet_units (c : Core) (l : List Inv) (pns : List Nat) : SameButUnits c (({ c with invs := l } : Core).quiet pns) := ⟨rfl⟩

theorem State.dropInvs_core (s : State) (p : Inv → Bool) :
    SameButUnits s.core (s.dropInvs p).core ∧ (s.dropInvs p).core.invs = s.core.invs.filter (fun v => !p v) ∧ (s.dropInvs p).core.restore = s.core.restore := by
  have hstep : ∀ (l : List Inv) (a : State), SameButUnits a.core (l.foldl State.dropOne a).core ∧
      (l.foldl State.dropOne a).core.invs = a.core.invs ∧ (l.foldl State.dropOne a).core.restore = a.core.restore := by
    intro l
    induction l with
    | nil => exact fun a => ⟨SameButUnits.refl _, rfl, rfl⟩
    | cons v l ih =>
      intro a
      rw [List.foldl_cons]
      obtain ⟨h1, h2, h3⟩ := ih (a.dropOne v)
      rw [State.dropOne_core] at h1 h2 h3
      exact ⟨(SameButUnits.releaseSlot _ _).trans h1, h2.trans (Core.releaseSlot_invs _ _), h3.trans (Core.releaseSlot_restore _ _)⟩
  obtain ⟨t, ht, hdrop⟩ := s.dropInvs_eq p
  have hcore := congrArg State.core hdrop
  rw [State.putCore_core] at hcore
  obtain ⟨h1, h2, h3⟩ := hstep (s.core.invs.filter p) s
  rw [← ht] at h1 h2 h3
  rw [hcore, ← h2, ← h3]
  refine ⟨(h1.trans (Core.quiet_units _ _ _)).trans (SameButUnits.settleSkips _), Core.settleSkips_invs _, Core.settleSkips_restore _⟩

/-- A killed group's invocations that do not run are gone, and its context is killed; the core is otherwise as it was. -/
theorem State.killGroup_core (s : State) {u : CtxId} (hu : u ≠ .k) (cause : BitVec 8) :
    (s.killGroup u cause).core.cut = s.core.cut ∧ (s.killGroup u cause).core.restore = s.core.restore ∧ (s.killGroup u cause).ctxAt u = (s.ctxAt u).kill cause ∧
      ∀ v ∈ (s.killGroup u cause).core.invs, v.ctx = u → v.st = .running := by
  obtain ⟨t, ht⟩ : ∃ t, t = (s.putCtxAt u ((s.ctxAt u).kill cause)).dropInvs (fun v => v.ctx = u && v.st ≠ .running) := ⟨_, rfl⟩
  obtain ⟨h1, h2, h3⟩ := (s.putCtxAt u ((s.ctxAt u).kill cause)).dropInvs_core (fun v => v.ctx = u && v.st ≠ .running)
  rw [← ht] at h1 h2 h3
  have hk : s.killGroup u cause = (t.dropHeld u).putCore { (t.dropHeld u).core.quietPorts u with pend := (t.dropHeld u).core.pend.filter (fun p => decide (p.ctx.toNat ≠ ctxNum u)) } := by
    rw [ht]
    rfl
  have hheld := (SameButDies.dropHeld t u).core
  rw [hheld] at hk
  have hcore := congrArg State.core hk
  rw [State.putCore_core] at hcore
  refine ⟨?_, ?_, ?_, fun v hv hvu => ?_⟩
  · rw [hcore]
    exact h1.cut.trans (Core.putCtx_cut _ _ _)
  · rw [hcore]
    exact h3.trans (Core.putCtx_restore _ _ _)
  · rw [State.ctxAt, hcore]
    have hat : t.core.ctxOf u = (s.ctxAt u).kill cause := (h1.ctxOf u).trans (Core.ctxOf_putCtx _ _ _)
    rw [← hat]
    cases u <;> rfl
  · rw [hcore] at hv
    have hv2 : v ∈ t.core.invs := hv
    rw [h2] at hv2
    simpa [hvu] using (List.mem_filter.1 hv2).2

theorem uCtx_ne_k (n : Nat) : uCtx n ≠ .k := by
  unfold uCtx
  split <;> exact fun h => nomatch h

theorem State.eret_kills {s : State} {n : Nat} (hn : n < 4) (hk : bits s.core.kcause 12 10 = n) (hc : s.core.cut = none) (hr : s.core.restore = none)
    (hg : (s.ctxAt (uCtx n)).group.isSome = true) :
    (s.eret 2).ctxAt (uCtx n) = (s.ctxAt (uCtx n)).kill (BitVec.ofNat 8 (bits s.core.kcause 4 0)) ∧ ∀ v ∈ (s.eret 2).core.invs, v.ctx = uCtx n → v.st = .running := by
  obtain ⟨h1, h2, h3, h4⟩ := (s.fence .k 1).killGroup_core (uCtx_ne_k n) (BitVec.ofNat 8 (bits s.core.kcause 4 0))
  have hafter : (s.fence .k 1).afterTrap 2 = (s.fence .k 1).killGroup (uCtx n) (BitVec.ofNat 8 (bits s.core.kcause 4 0)) := by
    have hk' : bits (s.fence .k 1).core.kcause 12 10 = n := hk
    simp only [State.afterTrap, hk', if_pos hn, if_true]
    rfl
  rw [← hafter] at h1 h2 h3 h4
  rw [State.eret_idle (h1.trans hc) (h2.trans hr)]
  refine ⟨?_, h4⟩
  rw [State.leaveTrap_ctxAt, h3]
  · rfl
  · rw [h3]
    exact (Ctx.kill_ends _ hg).2.2.2

/-! ## The obligation -/

theorem Ctx.kill_fcause {x : Ctx} (b : BitVec 8) (hg : x.group.isSome = true) (hf : x.faulted = false) : (x.kill b).fcause = b := by
  obtain ⟨g, hg⟩ := Option.isSome_iff_exists.1 hg
  simp [Ctx.kill, hg, hf]

theorem eretWith_ready {m : Nat} {o : Ops} {s : State} (h : ReadyK o s) : eretWith m o s = .next (s.eret m) := by
  have hk : s.kLevel = true := decide_eq_true h.2
  rw [eretWith, h.1.1.1, hk, h.1.2]
  rfl

/-- Settles O36: the cut and the restore that a return begins keep INTRAP; with neither armed the return is what R318 selects, after a full fence. -/
theorem eretResults : Obligations.EretResults := by
  intro o s h
  have h0 : exec (.eret o) s = .next (s.eret 0) := eretWith_ready h
  have h1 : exec (.eretSkip o) s = .next (s.eret 1) := eretWith_ready h
  have h2 : exec (.eretKill o) s = .next (s.eret 2) := eretWith_ready h
  refine ⟨⟨_, h0, s.eret_inTrap 0⟩, ⟨_, h1, s.eret_inTrap 1⟩, ⟨_, h2, s.eret_inTrap 2⟩, fun n x hn hk hx hc hr hg ht hm ha => ⟨?_, ?_⟩, fun n x hn hk hx hc hr hg => ?_⟩
  · have hg' : x.gresume = none := hx ▸ hg _
    obtain ⟨hat, hun⟩ := State.eret_returns hn hk hx hc hr hg' ht hm ha (m := 0) (by decide)
    refine ⟨_, h0, hat.trans ?_, fun e he hp => ?_⟩
    · simp [Core.resumePc]
    · rw [hun] at he
      exact (State.fence_own he hp).2
  · have hg' : x.gresume = none := hx ▸ hg _
    obtain ⟨hat, -⟩ := State.eret_returns hn hk hx hc hr hg' ht hm ha (m := 1) (by decide)
    exact ⟨_, h1, hat⟩
  · subst hx
    obtain ⟨hat, hinv⟩ := State.eret_kills hn hk hc hr hg
    obtain ⟨hp, hst, hf, -⟩ := Ctx.kill_ends (BitVec.ofNat 8 (bits s.core.kcause 4 0)) hg
    refine ⟨_, h2, ?_, ?_, ?_, fun hx => ?_, hinv⟩
    all_goals rw [hat]
    · exact hp
    · exact hst
    · exact hf
    · exact Ctx.kill_fcause _ hg hx

end Sys2Proof.Machine
end

section
/-! PROOFS. Translation control: invalidations, roots, WALK and RESUME (R319, R324 to R326). -/

namespace Sys2Proof.Machine

/-! ## Tables whose every entry changes -/

/-- What a table reads after each of the listed entries is written anew: the keys of the list are distinct. -/
theorem SMap.get_foldl_update {α : Type} [DecidableEq α] (d : α) (f : Nat → α → α) (l : SMap α) (m : SMap α) (k : Nat) (hl : SMap.rising l = true) :
    SMap.get d (l.foldl (fun m e => SMap.set d m e.1 (f e.1 e.2)) m) k = if ∃ e ∈ l, e.1 = k then f k (SMap.get d l k) else SMap.get d m k := by
  induction l generalizing m with
  | nil => simp
  | cons e t ih =>
    obtain ⟨hlt, ht⟩ := (SMap.rising_cons e t).1 hl
    rw [List.foldl_cons, ih _ ht]
    by_cases hk : e.1 = k
    · have hno : ¬ ∃ x ∈ t, x.1 = k := fun ⟨x, hx, hxk⟩ => absurd (hlt x hx) (by omega)
      rw [if_neg hno, if_pos ⟨e, List.mem_cons_self, hk⟩, hk, SMap.get_set_self]
      simp [SMap.get, hk]
    · have htail : (∃ x ∈ e :: t, x.1 = k) ↔ ∃ x ∈ t, x.1 = k := by simp [hk]
      rw [SMap.get_set_ne _ _ _ (Ne.symm hk), if_congr htail rfl rfl, SMap.get, if_neg hk]

theorem SMap.rising_of_wf {α : Type} [DecidableEq α] {d : α} {m : SMap α} (h : SMap.wf d m = true) : SMap.rising m = true := by
  rw [SMap.wf, Bool.and_eq_true] at h
  exact h.1

theorem SMap.get_of_unlisted {α : Type} (d : α) (m : SMap α) {k : Nat} (h : ¬ ∃ e ∈ m, e.1 = k) : SMap.get d m k = d := by
  induction m with
  | nil => rfl
  | cons e t ih =>
    have he : e.1 ≠ k := fun hk => h ⟨e, List.mem_cons_self, hk⟩
    rw [SMap.get, if_neg he, ih fun ⟨x, hx, hk⟩ => h ⟨x, List.mem_cons_of_mem _ hx, hk⟩]

theorem SMap.get_mem {α : Type} (d : α) (m : SMap α) {k : Nat} (h : ∃ e ∈ m, e.1 = k) : (k, SMap.get d m k) ∈ m := by
  induction m with
  | nil => simp at h
  | cons e t ih =>
    by_cases hk : e.1 = k
    · rw [SMap.get, if_pos hk, ← hk]
      exact List.mem_cons_self
    · obtain ⟨x, hx, hxk⟩ := h
      rw [SMap.get, if_neg hk]
      rcases List.mem_cons.1 hx with rfl | hx
      · exact absurd hxk hk
      · exact List.mem_cons_of_mem _ (ih ⟨x, hx, hxk⟩)

/-- Rewriting every entry of a canonical table as it stands changes nothing. -/
theorem SMap.foldl_update_self {α : Type} [DecidableEq α] (d : α) (f : Nat → α → α) (m : SMap α) (hm : SMap.wf d m = true) (hf : ∀ e ∈ m, f e.1 e.2 = e.2) :
    m.foldl (fun m e => SMap.set d m e.1 (f e.1 e.2)) m = m := by
  have hwf : ∀ (l n : SMap α), SMap.wf d n = true → SMap.wf d (l.foldl (fun m e => SMap.set d m e.1 (f e.1 e.2)) n) = true := by
    intro l
    induction l with
    | nil => exact fun n h => h
    | cons e t ih => exact fun n h => ih _ (SMap.wf_set _ _ _ _ h)
  refine SMap.ext_of_wf d _ _ (hwf _ _ hm) hm fun k => ?_
  rw [SMap.get_foldl_update _ _ _ _ _ (SMap.rising_of_wf hm)]
  split
  · next h => exact hf _ (SMap.get_mem d m h)
  · rfl

theorem SMap.get_map {α : Type} (d : α) (f : Nat → α → α) (m : SMap α) (k : Nat) :
    SMap.get d (m.map (fun e => (e.1, f e.1 e.2))) k = if ∃ e ∈ m, e.1 = k then f k (SMap.get d m k) else d := by
  induction m with
  | nil => simp [SMap.get]
  | cons e t ih =>
    by_cases hk : e.1 = k
    · simp [SMap.get, hk]
    · have htail : (∃ x ∈ e :: t, x.1 = k) ↔ ∃ x ∈ t, x.1 = k := by simp [hk]
      rw [if_congr htail rfl rfl, List.map_cons, SMap.get, if_neg hk, SMap.get, if_neg hk, ih]

/-! ## What a change of every core leaves -/

theorem State.mapCores_coreOf_ne (s : State) (f : Nat → Core → Core) {n : Nat} (hn : n ≠ s.coreId) (hwf : SMap.wf Core.reset s.others = true) :
    (s.mapCores f).coreOf n = if ∃ e ∈ s.others, e.1 = n then f n (s.coreOf n) else s.coreOf n := by
  have h1 : (s.mapCores f).coreOf n = SMap.get Core.reset (s.mapCores f).others n := if_neg hn
  have h2 : s.coreOf n = SMap.get Core.reset s.others n := if_neg hn
  rw [h1, h2]
  exact SMap.get_foldl_update _ _ _ _ _ (SMap.rising_of_wf hwf)

section Invalidate

variable (s : State) (q : Nat) (f : TlbEntry → Bool) (w : Core → Option CtxId → BitVec 128 → Bool)

theorem inScope_self : inScope s q s.coreId = true := by
  unfold inScope
  split
  · rfl
  · rfl
  · exact decide_eq_true rfl
  · exact decide_eq_true rfl

theorem State.invalidate_mem : (s.invalidate q f w).mem = s.mem := rfl
theorem State.invalidate_hub : (s.invalidate q f w).hub = s.hub := rfl
theorem State.invalidate_coreId : (s.invalidate q f w).coreId = s.coreId := rfl

theorem State.invalidate_core : (s.invalidate q f w).core = s.core.invalidate f (w s.core) := by
  have h : (s.invalidate q f w).core = if inScope s q s.coreId then s.core.invalidate f (w s.core) else s.core := rfl
  rw [h, if_pos (inScope_self s q)]

theorem Core.invalidate_ctxOf (c : Core) (g : Option CtxId → BitVec 128 → Bool) (u : CtxId) : (c.invalidate f g).ctxOf u = c.ctxOf u := by cases u <;> rfl

theorem State.invalidate_ctx : (s.invalidate q f w).ctx = s.ctx :=
  State.ctx_of_ctxOf (by rw [State.invalidate_core]; rfl) fun u => by rw [State.invalidate_core, Core.invalidate_ctxOf]

theorem mem_filter_not {e : TlbEntry} {l : List TlbEntry} {p : TlbEntry → Prop} (hp : ∀ e, f e = true ↔ p e) : e ∈ l.filter (fun e => !f e) ↔ e ∈ l ∧ ¬ p e := by
  rw [List.mem_filter, ← hp, Bool.not_eq_true', Bool.not_eq_true]

/-- A die after an invalidation. -/
def Die.invalidated (x : Die) (here : Bool) : Die := if here then { x with tlb := x.tlb.filter (fun e => !f e) } else x

/-- The dies' TLBs after an invalidation: those of its scope, and the executing die's, lose what it names. -/
theorem State.invalidate_die (d : Nat) :
    ((s.invalidate q f w).die d).tlb = if q ≤ 1 ∨ d = s.dieId then (s.die d).tlb.filter (fun e => !f e) else (s.die d).tlb := by
  have hdies : (s.invalidate q f w).die d = SMap.get Die.reset (s.dies.map (fun e => (e.1, e.2.invalidated f (decide (q ≤ 1) || decide (e.1 = s.dieId))))) d := rfl
  rw [hdies, SMap.get_map Die.reset (fun n x => x.invalidated f (decide (q ≤ 1) || decide (n = s.dieId)))]
  by_cases hl : ∃ e ∈ s.dies, e.1 = d
  · rw [if_pos hl]
    by_cases hc : q ≤ 1 ∨ d = s.dieId
    · rw [if_pos hc, Die.invalidated, if_pos (by simpa using hc)]
      rfl
    · rw [if_neg hc, Die.invalidated, if_neg (by simpa using hc)]
      rfl
  · have hr : s.die d = Die.reset := SMap.get_of_unlisted _ _ hl
    rw [if_neg hl, hr]
    split <;> rfl

theorem State.invalidate_coreOf (hwf : SMap.wf Core.reset s.others = true) {n : Nat} (hn : n ≠ s.coreId) :
    ((s.invalidate q f w).coreOf n).l1tlb = (if inScope s q n then (s.coreOf n).l1tlb.filter (fun e => !f e) else (s.coreOf n).l1tlb) ∧
      (inScope s q n = false → (s.invalidate q f w).coreOf n = s.coreOf n) := by
  have hmap : (s.invalidate q f w).coreOf n = (s.mapCores (fun n c => if inScope s q n then c.invalidate f (w c) else c)).coreOf n := rfl
  rw [hmap, s.mapCores_coreOf_ne _ hn hwf]
  by_cases hl : ∃ e ∈ s.others, e.1 = n
  · rw [if_pos hl]
    by_cases hs : inScope s q n = true
    · rw [if_pos hs, if_pos hs]
      exact ⟨rfl, fun h => absurd h (by rw [hs]; decide)⟩
    · rw [if_neg hs, if_neg hs]
      exact ⟨rfl, fun _ => rfl⟩
  · have hr : s.coreOf n = Core.reset := (if_neg hn).trans (SMap.get_of_unlisted _ _ hl)
    rw [if_neg hl, hr]
    refine ⟨?_, fun _ => rfl⟩
    split <;> rfl

end Invalidate

/-- A state in which an invalidation of a scope has left no entry that it names, and kept every other. -/
structure Invalidated (s : State) (q : Nat) (p : TlbEntry → Prop) (t : State) : Prop where
  core : ∀ e, e ∈ t.core.l1tlb ↔ e ∈ s.core.l1tlb ∧ ¬ p e
  dies : ∀ d, q ≤ 1 ∨ d = s.dieId → ∀ e, e ∈ (t.die d).tlb ↔ e ∈ (s.die d).tlb ∧ ¬ p e
  far : ∀ d, 2 ≤ q → d ≠ s.dieId → (t.die d).tlb = (s.die d).tlb
  cores : SMap.wf Core.reset s.others = true → ∀ n, n ≠ s.coreId →
    (inScope s q n = true → ∀ e, e ∈ (t.coreOf n).l1tlb ↔ e ∈ (s.coreOf n).l1tlb ∧ ¬ p e) ∧ (inScope s q n = false → t.coreOf n = s.coreOf n)

theorem State.invalidate_invalidated (s : State) (q : Nat) {f : TlbEntry → Bool} (w : Core → Option CtxId → BitVec 128 → Bool) {p : TlbEntry → Prop} (hp : ∀ e, f e = true ↔ p e) :
    Invalidated s q p (s.invalidate q f w) where
  core := fun e => by
    rw [State.invalidate_core]
    exact mem_filter_not f hp
  dies := fun d hd e => by
    rw [State.invalidate_die, if_pos hd]
    exact mem_filter_not f hp
  far := fun d hq hd => by
    rw [State.invalidate_die, if_neg (by omega)]
  cores := fun hwf n hn => by
    obtain ⟨h1, h2⟩ := s.invalidate_coreOf q f w hwf hn
    refine ⟨fun hs e => ?_, h2⟩
    rw [h1, if_pos hs]
    exact mem_filter_not f hp

theorem Invalidated.goTo {s t : State} {q : Nat} {p : TlbEntry → Prop} (h : Invalidated s q p t) (hid : t.coreId = s.coreId) (pc : Word) : Invalidated s q p (t.goTo pc) where
  core := fun e => by
    rw [State.goTo_core, Core.putCtx_l1tlb]
    exact h.core e
  dies := h.dies
  far := h.far
  cores := fun hwf n hn => by
    have hne : (t.goTo pc).coreOf n = t.coreOf n := (if_neg (hid ▸ hn)).trans (if_neg (hid ▸ hn)).symm
    rw [hne]
    exact h.cores hwf n hn

/-! ## A K instruction that goes on -/

theorem runK_next {o : Ops} {s t : State} {body : State → Eff} (h : ReadyK o s) (hb : body s = .next t) : runK o body s = .next (t.goTo (t.nextPc o)) := by
  rw [runK_ready _ h, hb, finish]

/-- K instructions whose status is written to S[D]. -/
theorem runK_status {o : Ops} {s t : State} {w : Word} {body : State → Eff} (h : ReadyK o s) (hb : body s = .next (t.setS o.d w)) :
    runK o body s = .next ((t.setS o.d w).goTo ((t.setS o.d w).nextPc o)) := runK_next h hb

/-! ## RESUME with nothing to resume -/

theorem State.resumeAll_idle {s : State} (hv : ∀ v ∈ s.core.invs, v.st ≠ .starved ∧ v.st ≠ .discarded) (hwf : SMap.wf Port.reset s.core.ports = true)
    (hp : ∀ e ∈ s.core.ports, e.2.fault = none) : s.resumeAll = s := by
  have hback : s.core.invs.filter (fun v => v.st = .discarded && !(s.core.ctxOf v.ctx).draining) = [] := by
    refine List.filter_eq_nil_iff.2 fun v h => ?_
    simp [(hv v h).2]
  have hinvs : s.core.invs.map (fun v => if v.st = .starved then { v with st := .running } else v) = s.core.invs := by
    refine (List.map_congr_left fun v h => ?_).trans (List.map_id _)
    rw [if_neg (hv v h).1]
    rfl
  have hports : s.core.ports.foldl (fun m e => SMap.set Port.reset m e.1 ((fun (_ : Nat) (p : Port) => { p with fault := none }) e.1 e.2)) s.core.ports = s.core.ports :=
    SMap.foldl_update_self _ (fun (_ : Nat) (p : Port) => { p with fault := none }) _ hwf fun e he => by
      rw [← hp e he]
  simp only [State.resumeAll, hback, hinvs, List.any_nil, Bool.false_and, Bool.false_eq_true, if_false, List.foldl_nil]
  exact congrArg (fun m => s.putCore { s.core with ports := m }) hports

/-! ## The results of a walk -/

section Recursion

variable {α β : Type} {P : Nat → β → Prop} {F : (n : Nat) → @Nat.below (fun _ => α → β) n → α → β}

/-- A property of every result of a recursion by brecOn, from its one step. -/
theorem brecOn_induction (hs : ∀ n b a, (∀ l (h : n = l + 1) a, P l ((h ▸ b : @Nat.below (fun _ => α → β) (l + 1)).1 a)) → P n (F n b a)) (l : Nat) :
    ∀ a, P l (@Nat.brecOn (fun _ => α → β) l F a) := by
  induction l with
  | zero => exact fun a => hs 0 _ a fun l h => absurd h (by omega)
  | succ l ih =>
    refine fun a => hs (l + 1) _ a fun k h => ?_
    cases h
    exact ih

/-- A property of what a step answers, by the case of its number. -/
theorem below_cases {n : Nat} {b : @Nat.below (fun _ => α → β) n} (ih : ∀ l (h : n = l + 1) a, P l ((h ▸ b : @Nat.below (fun _ => α → β) (l + 1)).1 a))
    {z : @Nat.below (fun _ => α → β) 0 → β} {f : (l : Nat) → @Nat.below (fun _ => α → β) (l + 1) → β} (hz : ∀ b, P 0 (z b))
    (hf : ∀ l b, (∀ a, P l (b.1 a)) → P (l + 1) (f l b)) : P n (Nat.casesOn (motive := fun n => @Nat.below (fun _ => α → β) n → β) n z f b) := by
  cases n with
  | zero => exact hz _
  | succ l => exact hf _ _ (ih l rfl)

end Recursion

/-- The level and the size that a walk ends with, from a table of a level. -/
def WalkEnd.within (n : Nat) (w : WalkEnd) : Prop := w.level ≤ n ∧ w.size ≤ 65536 + 2 ^ (12 + 9 * n)

theorem walkFrom_within (s : State) (va l : Nat) : ∀ table, (walkFrom s va l table).within l := by
  delta walkFrom
  refine brecOn_induction (P := WalkEnd.within) (fun n b a ih => ?_) l
  delta walkFrom._f walkFrom.match_3
  refine below_cases (P := WalkEnd.within) ih (fun b => ?_) (fun l b ih => ?_)
  · exact ⟨le_refl _, Nat.zero_le _⟩
  · dsimp only
    generalize (tableBreach _ _).or _ = r
    have hpow : 2 ^ (12 + 9 * l) ≤ 2 ^ (12 + 9 * (l + 1)) := Nat.pow_le_pow_right (by decide) (by omega)
    split
    · exact ⟨le_refl _, show 2 ^ (12 + 9 * l) ≤ _ by omega⟩
    · split
      · split
        · split
          · exact ⟨show 1 ≤ l + 1 by omega, Nat.le_add_right _ _⟩
          · exact ⟨show 1 ≤ l + 1 by omega, Nat.le_add_right _ _⟩
        · exact ⟨le_refl _, show 2 ^ (12 + 9 * l) ≤ _ by omega⟩
      · obtain ⟨h1, h2⟩ := ih (pteDpa (s.wordAt (a + 8 * (va / 2 ^ (12 + 9 * l) % 512))))
        exact ⟨h1.trans (Nat.le_succ l), h2.trans (by omega)⟩

theorem walk_within (s : State) (asid : BitVec 9) (va : Nat) : (walk s asid va).level ≤ 4 ∧ (walk s asid va).size ≤ 65536 + 2 ^ 48 := by
  simp only [walk]
  split
  · exact walkFrom_within s va 4 _
  · exact ⟨le_refl 4, Nat.zero_le _⟩

/-- What STAT of WALK tells of a walk (R326); a table that cannot be read leaves it open. -/
def WalkFail.stat (f : WalkFail) (x : Nat) : Nat :=
  match f with
  | .root => 1
  | .notPresent => 2
  | .malformed => 3
  | .kind => 4
  | .balloon _ => x
  | .bad _ => x

theorem WalkFail.stat_balloon (n x : Nat) : (WalkFail.balloon n).stat x = x := rfl
theorem WalkFail.stat_bad (n x : Nat) : (WalkFail.bad n).stat x = x := rfl
theorem WalkFail.stat_root (x : Nat) : WalkFail.root.stat x = 1 := rfl
theorem WalkFail.stat_notPresent (x : Nat) : WalkFail.notPresent.stat x = 2 := rfl
theorem WalkFail.stat_malformed (x : Nat) : WalkFail.malformed.stat x = 3 := rfl
theorem WalkFail.stat_kind (x : Nat) : WalkFail.kind.stat x = 4 := rfl

section Fields

variable {n : Nat}

theorem walkWord_stat (h : n < 2 ^ 60) : ((BitVec.ofNat 64 n).extractLsb' 60 4).toNat = 0 := by
  rw [toNat_extractLsb'_ofNat (by decide)]
  omega

theorem stat_toNat {k m : Nat} (hk : k < 16) (hm : m < 2 ^ 60) (hn : n = k * 2 ^ 60 + m) : ((BitVec.ofNat 64 n).extractLsb' 60 4).toNat = k := by
  rw [toNat_extractLsb'_ofNat (by decide)]
  omega

theorem freeRest_lt (f : Nat) : f / 16 % 16 * 2 ^ 56 + f / 256 % 2 ^ 40 < 2 ^ 60 := by omega

theorem levelRest_lt (f : Nat) {l b : Nat} (hl : l ≤ 3) (hb : b < 4096) : l * 2 ^ 58 + (f % 4 * 2 ^ 56 + (f / 4 % 2 ^ 28 * 4096 + b)) < 2 ^ 60 := by omega

/-- A word whose bits below 56 reach no further than bit 39 has bits [55:40] 0. -/
theorem extractLsb'_40_16 {a b : Nat} (hb : b < 2 ^ 40) (hn : n = a * 2 ^ 56 + b) : (BitVec.ofNat 64 n).extractLsb' 40 16 = 0 := by
  apply BitVec.eq_of_toNat_eq
  rw [toNat_extractLsb'_ofNat (by decide), hn]
  show _ = 0
  omega

end Fields

theorem sizeCode_lt (n : Nat) : sizeCode n < 4 := by
  unfold sizeCode
  split
  · decide
  · split
    · decide
    · split <;> decide

theorem bits_lt (w : Word) (hi lo : Nat) : bits w hi lo < 2 ^ (hi + 1 - lo) := Nat.mod_lt _ (by positivity)

theorem pteDpa_lt (e : Word) : pteDpa e < 2 ^ 40 := by
  have := bits_lt e 39 12
  unfold pteDpa
  omega

theorem walkWord_past {s : State} {asid : BitVec 9} {va : Word} (h : 2 ^ 48 ≤ va.toNat) :
    ((walkWord s asid va).extractLsb' 60 4).toNat = 5 ∧ (walkWord s asid va).extractLsb' 40 16 = 0 := by
  have hw : walkWord s asid va = BitVec.ofNat 64 (5 * 2 ^ 60 + ((Config.freeWord s.free).toNat / 16 % 16 * 2 ^ 56 + (Config.freeWord s.free).toNat / 256 % 2 ^ 40)) := by
    simp only [walkWord, if_pos h]
  rw [hw]
  exact ⟨stat_toNat (m := (Config.freeWord s.free).toNat / 16 % 16 * 2 ^ 56 + (Config.freeWord s.free).toNat / 256 % 2 ^ 40) (by decide) (by omega) (by omega), extractLsb'_40_16 (a := 5 * 16 + (Config.freeWord s.free).toNat / 16 % 16) (b := (Config.freeWord s.free).toNat / 256 % 2 ^ 40) (Nat.mod_lt _ (by decide)) (by omega)⟩

/-- The fields of what WALK writes within the address space (R326). -/
theorem walkWord_fields {s : State} {asid : BitVec 9} {va : Word} (h : va.toNat < 2 ^ 48) {e : WalkEnd} (he : walk s asid va.toNat = e) :
    (((walkWord s asid va).extractLsb' 60 4).toNat = 0 ∧ e.fail = none) ∨
      ∃ f, e.fail = some f ∧ ((walkWord s asid va).extractLsb' 60 4).toNat = f.stat ((walkWord s asid va).extractLsb' 60 4).toNat ∧ (walkWord s asid va).extractLsb' 40 16 = 0 := by
  obtain ⟨hlev, hsize⟩ := he ▸ walk_within s asid va.toNat
  obtain ⟨w, hw⟩ : ∃ w, walkWord s asid va = w := ⟨_, rfl⟩
  have hpast : ¬ vaLimit ≤ va.toNat := not_le.2 h
  have hattr := bits_lt e.pte 11 0
  rw [hw]
  simp only [walkWord, if_neg hpast, he] at hw
  generalize (Config.freeWord s.free).toNat = f at hw
  cases hf : e.fail with
  | none =>
    refine .inl ⟨?_, rfl⟩
    rw [hf] at hw
    have hcode := sizeCode_lt e.size
    have h1 := Nat.div_mul_le_self (pteDpa e.pte) e.size
    have h2 := Nat.mod_le va.toNat e.size
    have h3 := pteDpa_lt e.pte
    rw [← hw]
    refine walkWord_stat ?_
    generalize pteDpa e.pte / e.size * e.size = p at h1 ⊢
    generalize va.toNat % e.size = q at h2 ⊢
    omega
  | some k =>
    refine .inr ⟨k, rfl, ?_⟩
    rw [hf] at hw
    have hlow : f / 256 % 2 ^ 40 < 2 ^ 40 := Nat.mod_lt _ (by decide)
    have hpage : f / 4 % 2 ^ 28 * 4096 + bits e.pte 11 0 < 2 ^ 40 := by omega
    have hrest := freeRest_lt f
    have hmore := levelRest_lt f (show e.level - 1 ≤ 3 by omega) hattr
    cases k with
    | root =>
      simp only at hw
      rw [← hw]
      refine ⟨?_, extractLsb'_40_16 (a := 16 + f / 16 % 16) hlow (by omega)⟩
      rw [WalkFail.stat_root]
      exact stat_toNat (by decide) hrest (by omega)
    | balloon n =>
      simp only at hw
      rw [← hw]
      exact ⟨(WalkFail.stat_balloon _ _).symm, extractLsb'_40_16 (a := f % 16 * 16 + f / 16 % 16) hlow (by omega)⟩
    | bad n =>
      simp only at hw
      rw [← hw]
      exact ⟨(WalkFail.stat_bad _ _).symm, extractLsb'_40_16 (a := f % 16 * 16 + f / 16 % 16) hlow (by omega)⟩
    | notPresent =>
      simp only [Nat.add_assoc] at hw
      rw [← hw]
      refine ⟨?_, extractLsb'_40_16 (a := 2 * 16 + (e.level - 1) * 4 + f % 4) hpage (by omega)⟩
      rw [WalkFail.stat_notPresent]
      exact stat_toNat (by decide) hmore (by omega)
    | malformed =>
      simp only [Nat.add_assoc] at hw
      rw [← hw]
      refine ⟨?_, extractLsb'_40_16 (a := 3 * 16 + (e.level - 1) * 4 + f % 4) hpage (by omega)⟩
      rw [WalkFail.stat_malformed]
      exact stat_toNat (by decide) hmore (by omega)
    | kind =>
      simp only [Nat.add_assoc] at hw
      rw [← hw]
      refine ⟨?_, extractLsb'_40_16 (a := 4 * 16 + (e.level - 1) * 4 + f % 4) hpage (by omega)⟩
      rw [WalkFail.stat_kind]
      exact stat_toNat (by decide) hmore (by omega)

/-! ## The obligation -/

section Controls

variable {o : Ops} {s : State}

theorem execTlbinv_results (h : ReadyK o s) {body : State → Eff} {f : TlbEntry → Bool} {w : Core → Option CtxId → BitVec 128 → Bool} {p : TlbEntry → Prop}
    (hb : body s = .next (s.invalidate o.q.toNat f w)) (hp : ∀ e, f e = true ↔ p e) :
    ∃ t, runK o body s = .next t ∧ Invalidated s o.q.toNat p t ∧ t.mem = s.mem :=
  ⟨_, runK_next h hb, (s.invalidate_invalidated _ w hp).goTo rfl _, rfl⟩

/-- ASIDSET sets the root and leaves no entry of its ASID in a TLB (R324). -/
theorem State.setRoot_results (s : State) (a : BitVec 9) (w : Word) :
    SMap.get 0 (s.setRoot a w).hub.roots a.toNat = (w &&& 0xFFFFFFF001) ∧
      (∀ n, n ≠ a.toNat → SMap.get 0 (s.setRoot a w).hub.roots n = SMap.get 0 s.hub.roots n) ∧ (∀ e ∈ (s.setRoot a w).core.l1tlb, e.asid ≠ a) ∧
      (∀ d, ∀ e ∈ ((s.setRoot a w).die d).tlb, e.asid ≠ a) ∧ (SMap.wf Core.reset s.others = true → ∀ n, ∀ e ∈ ((s.setRoot a w).coreOf n).l1tlb, e.asid ≠ a) := by
  have hinv := s.invalidate_invalidated 1 (f := fun e => e.asid = a) (fun c u _ => ownedBy c a u) (p := fun e => e.asid = a) (fun e => decide_eq_true_iff)
  refine ⟨SMap.get_set_self _ _ _ _, fun n hn => SMap.get_set_ne _ _ _ hn, fun e he => ((hinv.core e).1 he).2, fun d e he => ((hinv.dies d (.inl (le_refl _)) e).1 he).2,
    fun hwf n e he => ?_⟩
  by_cases hn : n = s.coreId
  · have hcore : (s.setRoot a w).coreOf n = (s.invalidate 1 (fun e => e.asid = a) (fun c u _ => ownedBy c a u)).core := if_pos hn
    rw [hcore] at he
    exact ((hinv.core e).1 he).2
  · exact (((hinv.cores hwf n hn).1 rfl e).1 he).2

theorem execAsidset_big (h : ReadyK o s) (ha : 512 ≤ (s.getS o.a).toNat) : exec (.asidset o) s = .next ((s.setS o.d 1).goTo ((s.setS o.d 1).nextPc o)) :=
  (runK_next (t := s.setS o.d 1) h (congrArg Eff.next (if_pos ha)) : execAsidset o s = _)

theorem execAsidset_set (h : ReadyK o s) (ha : (s.getS o.a).toNat < 512) :
    exec (.asidset o) s = .next ((((s.setRoot ((s.getS o.a).setWidth 9) (s.getS o.b)).fence .k 1).setS o.d 0).goTo
      ((((s.setRoot ((s.getS o.a).setWidth 9) (s.getS o.b)).fence .k 1).setS o.d 0).nextPc o)) :=
  (runK_next (t := ((s.setRoot ((s.getS o.a).setWidth 9) (s.getS o.b)).fence .k 1).setS o.d 0) h (congrArg Eff.next (if_neg (not_le.2 ha))) : execAsidset o s = _)

end Controls

/-- Settles O37: an invalidation filters each TLB of its scope, a walk from a table of level 4 ends at most there, and RESUME with nothing to resume is its fence. -/
theorem translationControl : Obligations.TranslationControl := by
  intro o s h go a lo hi root gone
  have hgone : ∀ {t : State} {p : TlbEntry → Prop}, Invalidated s o.q.toNat p t → gone t p := fun hi => ⟨hi.core, hi.dies, hi.far, hi.cores⟩
  refine ⟨?all, ?allGone, ?asidGone, ?pageGone, ?pageNone, ?big, ?set, ?walk, ?resume, ?idle⟩
  case all => exact (runK_next (t := s.invalidate o.q.toNat (fun _ => true) (fun _ _ _ => true)) h rfl : execTlbinvAll o s = _)
  case allGone =>
    obtain ⟨t, ht, hi, hm⟩ := execTlbinv_results h (o := o) (body := fun t => .next (t.invalidate o.q.toNat (fun _ => true) (fun _ _ _ => true))) (p := fun _ => True) rfl (fun e => by simp)
    exact ⟨t, ht, hgone hi, hm⟩
  case asidGone =>
    obtain ⟨t, ht, hi, hm⟩ := execTlbinv_results h (o := o)
      (body := fun t => .next (t.invalidate o.q.toNat (fun e => e.asid = (t.getS o.c).setWidth 9) (fun c u _ => ownedBy c ((t.getS o.c).setWidth 9) u))) (p := fun e => e.asid = a) rfl
      (fun e => decide_eq_true_iff)
    exact ⟨t, ht, hgone hi, hm⟩
  case pageGone =>
    intro hb
    refine ⟨_, (runK_next h (if_neg hb) : execTlbinvPage o s = _), hgone ((s.invalidate_invalidated _ _ fun e => ?_).goTo rfl _), rfl⟩
    simp only [Bool.and_eq_true, decide_eq_true_eq, and_assoc]
    rfl
  case pageNone => exact fun hb => (runK_next (t := s) h (if_pos hb) : execTlbinvPage o s = _)
  case big => exact fun ha => execAsidset_big h ha
  case set =>
    intro ha
    exact ⟨_, execAsidset_set h ha, s.setRoot_results root (s.getS o.b)⟩
  case walk =>
    refine ⟨{ s with free := s.free + 1 }, walkWord s ((s.getS o.b).setWidth 9) (s.getS o.a), (runK_next (t := State.setS { s with free := s.free + 1 } o.d _) h rfl : execWalk o s = _), rfl, rfl, rfl, fun hp => (walkWord_past hp).1, fun hst => ?_, fun e hlt he => ?_⟩
    · by_cases hp : 2 ^ 48 ≤ (s.getS o.a).toNat
      · exact (walkWord_past hp).2
      · rcases walkWord_fields (not_le.1 hp) rfl with ⟨h0, -⟩ | ⟨f, -, -, hmid⟩
        · exact absurd (BitVec.eq_of_toNat_eq h0) hst
        · exact hmid
    · rcases walkWord_fields hlt he with ⟨h0, hf⟩ | ⟨f, hf, hst, -⟩
      · rw [hf]
        exact h0
      · rw [hf]
        refine hst.trans ?_
        cases f <;> rfl
  case resume => exact (runK_next (t := (s.fence .k 1).resumeAll) h rfl : execResume o s = _)
  case idle =>
    intro hv hwf hp
    have hidle : (s.fence .k 1).resumeAll = s.fence .k 1 := State.resumeAll_idle hv hwf hp
    have hrun : exec (.resume o) s = go (s.fence .k 1).resumeAll := (runK_next (t := (s.fence .k 1).resumeAll) h rfl : execResume o s = _)
    rw [hrun, hidle]

end Sys2Proof.Machine
end

section
/-! PROOFS. CTXSAVE, CTXLOAD and DRAIN (R332, R336, R337), IRQ and WFI (R329 to R331). -/

namespace Sys2Proof.Machine

/-! ## CTXSAVE -/

section Save

variable {o : Ops} {s : State}

/-- CTXSAVE that its status refuses writes it and changes nothing else. -/
theorem execCtxsave_refused (h : ReadyK o s) {k : Nat} (hk : k ≠ 0) (hs : s.saveStatus (uCtx (o.m.toNat - 1)) (s.getS o.a) (s.getS o.b) (s.saveLen (uCtx (o.m.toNat - 1))) = k) :
    exec (.ctxsave o) s = .next ((s.setS o.d (BitVec.ofNat 64 (k + s.saveLen (uCtx (o.m.toNat - 1)) % 2 ^ 32 * 2 ^ 32))).goTo
      ((s.setS o.d (BitVec.ofNat 64 (k + s.saveLen (uCtx (o.m.toNat - 1)) % 2 ^ 32 * 2 ^ 32))).nextPc o)) := by
  refine (runK_next (t := s.setS o.d (BitVec.ofNat 64 (k + s.saveLen (uCtx (o.m.toNat - 1)) % 2 ^ 32 * 2 ^ 32))) h ?_ : execCtxsave o s = _)
  dsimp only
  rw [hs, if_neg hk]

theorem execCtxsave_armed (h : ReadyK o s) (hs : s.saveStatus (uCtx (o.m.toNat - 1)) (s.getS o.a) (s.getS o.b) (s.saveLen (uCtx (o.m.toNat - 1))) = 0) :
    let t := (s.putCore { s.core with cut := some ⟨uCtx (o.m.toNat - 1), s.getS o.a, s.curAsid, s.saveLen (uCtx (o.m.toNat - 1)), false, false⟩ }).setS o.d
      (BitVec.ofNat 64 (0 + s.saveLen (uCtx (o.m.toNat - 1)) % 2 ^ 32 * 2 ^ 32))
    exec (.ctxsave o) s = .next (t.goTo (t.nextPc o)) := by
  intro t
  refine (runK_next (t := t) h ?_ : execCtxsave o s = _)
  dsimp only
  rw [hs, if_pos rfl]

end Save

section Status

variable {s : State} {u : CtxId} {area size : Word} {need : Nat}

theorem State.saveStatus_1 (h : (s.ctxAt u).group = none) : s.saveStatus u area size need = 1 := if_pos (by rw [h]; rfl)

variable (hg : (s.ctxAt u).group ≠ none)
include hg

theorem group_isNone_false : ¬ (s.ctxAt u).group.isNone = true := by
  rwa [Option.isNone_iff_eq_none]

theorem State.saveStatus_2 (hf : ¬ (s.core.cut = none ∧ s.core.restore = none)) : s.saveStatus u area size need = 2 := by
  have h2 : (s.core.cut.isSome || s.core.restore.isSome) = true := by
    rw [Bool.or_eq_true, Option.isSome_iff_ne_none, Option.isSome_iff_ne_none]
    exact not_and_or.1 hf
  exact (if_neg (group_isNone_false hg)).trans (if_pos h2)

variable (hf : s.core.cut = none ∧ s.core.restore = none)
include hf

theorem State.saveStatus_free : s.saveStatus u area size need =
    if area.toNat % 4096 ≠ 0 then 3 else if size.toNat < need then 4 else if !tapePagesOk ((size.toNat + 4095) / 4096) s s.curAsid area.toNat then 5 else 0 :=
  (if_neg (group_isNone_false hg)).trans (if_neg (by rw [hf.1, hf.2]; decide))

end Status

/-! ## CTXLOAD -/

section Load

variable {o : Ops} {s : State}

theorem State.loadStatus_busy {u : CtxId} (hb : (s.ctxAt u).group ≠ none ∨ ¬ (s.core.cut = none ∧ s.core.restore = none)) :
    ((s.ctxAt u).group.isSome || s.core.cut.isSome || s.core.restore.isSome) = true := by
  rw [Bool.or_eq_true, Bool.or_eq_true, Option.isSome_iff_ne_none, Option.isSome_iff_ne_none, Option.isSome_iff_ne_none]
  rcases hb with h | h
  · exact .inl (.inl h)
  · rcases not_and_or.1 h with h | h
    · exact .inl (.inr h)
    · exact .inr h

theorem State.loadStatus_free {u : CtxId} (hg : (s.ctxAt u).group = none) (hf : s.core.cut = none ∧ s.core.restore = none) :
    ¬ ((s.ctxAt u).group.isSome || s.core.cut.isSome || s.core.restore.isSome) = true := by
  rw [hg, hf.1, hf.2]
  decide

theorem execCtxload_error (h : ReadyK o s) {k : Nat} (hl : s.loadStatus (uCtx (o.m.toNat - 1)) (s.getS o.a) = .error k) :
    let t := (s.readArea (uCtx (o.m.toNat - 1)) (s.getS o.a)).setS o.d (BitVec.ofNat 64 k)
    exec (.ctxload o) s = .next (t.goTo (t.nextPc o)) := by
  intro t
  refine (runK_next (t := t) h ?_ : execCtxload o s = _)
  dsimp only
  rw [hl]

theorem execCtxload_ok (h : ReadyK o s) {r : Restore} (hl : s.loadStatus (uCtx (o.m.toNat - 1)) (s.getS o.a) = .ok r) :
    let t := ((s.readArea (uCtx (o.m.toNat - 1)) (s.getS o.a)).putCore { s.core with restore := some r }).setS o.d 0
    exec (.ctxload o) s = .next (t.goTo (t.nextPc o)) := by
  intro t
  refine (runK_next (t := t) h ?_ : execCtxload o s = _)
  dsimp only
  rw [hl]

theorem State.loadStatus_unread {u : CtxId} {area : Word} {f : Flt} (hb : ¬ ((s.ctxAt u).group.isSome || s.core.cut.isSome || s.core.restore.isSome) = true)
    (hr : s.hubRead s.curAsid area.toNat 64 = .error f) : s.loadStatus u area = .error 5 := by
  simp only [State.loadStatus, if_neg hb, hr]

theorem State.loadStatus_invalid {u : CtxId} {area : Word} {b : List Byte} (hb : ¬ ((s.ctxAt u).group.isSome || s.core.cut.isSome || s.core.restore.isSome) = true)
    (hr : s.hubRead s.curAsid area.toNat 64 = .ok b) (hv : leNat (b.take 8) / 2 ^ 63 = 0) : s.loadStatus u area = .error 2 := by
  have hw : leNat ((b.drop (8 * 0)).take 8) / 2 ^ 63 = 0 := hv
  simp only [State.loadStatus, if_neg hb, hr, hw, decide_true, Bool.true_or, if_true]

/-- The restore that CTXLOAD arms is of the context that it names. -/
theorem State.loadStatus_ctx {u : CtxId} {area : Word} {r : Restore} (h : s.loadStatus u area = .ok r) : r.ctx = u := by
  simp only [State.loadStatus] at h
  repeat' split at h
  all_goals cases h
  all_goals rfl

end Load

/-! ## DRAIN -/

section Drain

variable {o : Ops} {s : State}

theorem execDrain_status (h : ReadyK o s) {k : Nat} {t : State} (hs : s.startDrain (s.getS o.a) = (k, t)) :
    exec (.drain o) s = .next ((t.setS o.d (BitVec.ofNat 64 k)).goTo ((t.setS o.d (BitVec.ofNat 64 k)).nextPc o)) := by
  refine (runK_next (t := t.setS o.d (BitVec.ofNat 64 k)) h ?_ : execDrain o s = _)
  dsimp only
  rw [hs]

theorem State.startDrain_unread {va : Word} {f : Flt} (hp : hubParts s s.curAsid true .read va.toNat 1 = .error f) : s.startDrain va = (3, s) := by
  simp only [State.startDrain, hp]

theorem State.startDrain_none {va : Word} {p : Part} {ps : List Part} (hp : hubParts s s.curAsid true .read va.toNat 1 = .ok (p :: ps)) (hr : s.region p.dpa = none) :
    s.startDrain va = (1, s) := by
  simp only [State.startDrain, hp, List.map_cons, List.headD_cons, hr]

theorem State.startDrain_region {va : Word} {p : Part} {ps : List Part} {r : Region} (hp : hubParts s s.curAsid true .read va.toNat 1 = .ok (p :: ps)) (hr : s.region p.dpa = some r) :
    s.startDrain va = if r.state = 0 then (1, s) else if r.state = 3 then (2, s) else (0, s.drainRegion p.dpa (some s.coreId)) := by
  simp only [State.startDrain, hp, List.map_cons, List.headD_cons, hr]

end Drain

/-- Settles O38: the statuses in their order, each by the first condition that holds. -/
theorem contextSwitchResults : Obligations.ContextSwitchResults := by
  intro o s h go u a n word free
  refine ⟨fun hg => ?_, fun hg hf => ?_, fun hg hf ha => ?_, fun hg hf ha hn => ?_, fun hg hf ha hn hp => ?_, fun hg hf ha hn hp => ?_, fun hb => ?busy, fun hg hf => ?load,
    fun f hp => ?unread, fun p ps hp => ⟨fun hr => ?none, fun r hr => ⟨fun h0 => ?unarmed, fun h3 => ?draining, fun h0 h3 => ?drains⟩⟩⟩
  · exact execCtxsave_refused h (by decide) (State.saveStatus_1 hg)
  · exact execCtxsave_refused h (by decide) (State.saveStatus_2 hg hf)
  · exact execCtxsave_refused h (by decide) ((State.saveStatus_free hg hf).trans (if_pos ha))
  · exact execCtxsave_refused h (by decide) ((State.saveStatus_free hg hf).trans ((if_neg (not_not.2 ha)).trans (if_pos hn)))
  · refine execCtxsave_refused h (k := 5) (by decide) ((State.saveStatus_free hg hf).trans ((if_neg (not_not.2 ha)).trans ((if_neg (not_lt.2 hn)).trans (if_pos ?_))))
    rw [hp]
    rfl
  · refine execCtxsave_armed h ((State.saveStatus_free hg hf).trans ((if_neg (not_not.2 ha)).trans ((if_neg (not_lt.2 hn)).trans (if_neg ?_))))
    rw [hp]
    decide
  case busy =>
    have hb' := State.loadStatus_busy hb
    have hread : s.readArea u a = s := if_pos hb'
    have hrun := execCtxload_error h (k := 1) (if_pos hb')
    rw [hread] at hrun
    exact hrun
  case load =>
    have hb := State.loadStatus_free hg hf
    have hread : s.readArea u a = s.acquire .k 1 (s.tapeKey s.curAsid a.toNat) := if_neg hb
    have herr : ∀ k, s.loadStatus u a = .error k → exec (.ctxload o) s = go ((s.acquire .k 1 (s.tapeKey s.curAsid a.toNat)).setS o.d (BitVec.ofNat 64 k)) := fun k hk => by
      have hrun := execCtxload_error h hk
      rw [hread] at hrun
      exact hrun
    refine ⟨fun f hr => herr 5 (State.loadStatus_unread hb hr), fun b hr hv => herr 2 (State.loadStatus_invalid hb hr hv), herr, fun r hr => ⟨State.loadStatus_ctx hr, ?_⟩⟩
    have hrun := execCtxload_ok h hr
    rw [hread] at hrun
    exact hrun
  case unread => exact execDrain_status h (State.startDrain_unread hp)
  case none => exact execDrain_status h (State.startDrain_none hp hr)
  case unarmed => exact execDrain_status h ((State.startDrain_region hp hr).trans (if_pos h0))
  case draining => exact execDrain_status h ((State.startDrain_region hp hr).trans ((if_neg (by rw [h3]; decide)).trans (if_pos h3)))
  case drains => exact execDrain_status h ((State.startDrain_region hp hr).trans ((if_neg h0).trans (if_neg h3)))

/-! ## The cycle of a core -/

/-- What a cycle's Ligature leaves: the K context, but for a wait that it ends, and the counter of cycles. -/
def Core.clock (c : Core) : Option Nat × Word := (c.k.wfiLeft, c.cycle)

theorem Core.fire_clock (c : Core) (t : Term) (v : Inv) : (c.fire t v).clock = c.clock :=
  foldl_keeps (f := fun (d : Core) w => d.subEv (condCtr w) (condThr w)) Core.clock (fun _ _ => rfl) t.conds (c.putInv { v with held := false })

theorem State.fireTerm_clock (s : State) : s.fireTerm.core.clock = s.core.clock :=
  foldl_keeps (f := fun (c : Core) (e : Nat × Term × Inv) => c.fire e.2.1 e.2.2) Core.clock (fun c e => c.fire_clock e.2.1 e.2.2) s.core.firing s.core

theorem Ctx.meetEv_wfiLeft (c : Core) (x : Ctx) : (x.meetEv c).wfiLeft = x.wfiLeft := by
  unfold Ctx.meetEv
  split
  · split <;> rfl
  · rfl

theorem Core.meetEvs_clock (c : Core) : c.meetEvs.clock = c.clock :=
  congrArg (fun n => (n, c.cycle)) (Ctx.meetEv_wfiLeft c c.k)

theorem Core.endLigature_clock (c : Core) : c.endLigature.clock = c.clock := by
  unfold Core.endLigature
  split
  · rfl
  · refine (foldl_keeps Core.clock (fun d w => ?_) c.lig.writes _).trans (foldl_keeps Core.clock (fun d n => ?_) (List.range 16) c)
    · unfold Core.applyEv
      split <;> rfl
    · simp only [Core.settleEv]
      split <;> rfl

/-- A cycle of a core takes one off the limit of WFI and adds one to CYCLE (R62, R331). -/
theorem State.tick_clock (s : State) : s.tick.core.k.wfiLeft = s.core.k.wfiLeft.map (fun n => n - 1) ∧ s.tick.core.cycle = s.core.cycle + 1 := by
  have ht : (if s.core.halted then s else s.fireTerm).core.clock = s.core.clock := by
    split
    · rfl
    · exact s.fireTerm_clock
  have hc := ((Core.endLigature_clock _).trans (Core.meetEvs_clock _)).trans ht
  exact ⟨congrArg (fun p : Option Nat × Word => p.1.map (fun n => n - 1)) hc, congrArg (fun p : Option Nat × Word => p.2 + 1) hc⟩

/-! ## Interrupts -/

section Irq

variable {s : State}

theorem runK_block {o : Ops} {s t : State} {w : Wait} {body : State → Eff} (h : ReadyK o s) (hb : body s = .block w t) :
    runK o body s = .next (t.putCtx { t.ctx with waiting := some w }) := by
  rw [runK_ready _ h, hb, finish]

theorem State.putCoreAt_coreOf (s : State) (n : Nat) (c : Core) : (s.putCoreAt n c).coreOf n = c := by
  unfold State.putCoreAt State.coreOf
  split
  · rfl
  · exact SMap.get_set_self _ _ _ _

theorem State.putCoreAt_coreOf_ne (s : State) {n k : Nat} (c : Core) (h : k ≠ n) : (s.putCoreAt n c).coreOf k = s.coreOf k := by
  unfold State.putCoreAt State.coreOf
  split
  · next hn => rw [if_neg (hn ▸ h), if_neg (hn ▸ h)]
  · dsimp only
    rw [SMap.get_set_ne _ _ _ h]

theorem State.putCoreAt_mem (s : State) (n : Nat) (c : Core) : (s.putCoreAt n c).mem = s.mem := by
  unfold State.putCoreAt
  split <;> rfl

theorem State.release_coreOf (s : State) (c : CtxId) (n : Nat) (l : List (Nat × Nat)) (k : Nat) : (s.release c n l).coreOf k = s.coreOf k := by
  rw [State.coreOf, State.release_core, State.release_coreId, State.release_others, State.coreOf]

end Irq

/-- Settles O39: an interrupt sent joins its queue, a cycle counts WFI's limit down, and WFI ends by an interrupt or at its limit. -/
theorem interruptResults : Obligations.InterruptResults := by
  intro o s h go n x
  refine ⟨fun hn => ?none, fun hn hfull => ?full, fun hn hroom => ?sent, fun hn => ?nohost, fun hn => ?host, fun k hk => ?clock, fun hi => ?ended, fun hi hw hz => ?limit, fun hi hw => ?starts⟩
  case none => exact (runK_next (t := s.setS o.d 2) h (if_pos hn) : execIrqCore o s = _)
  case full =>
    refine (runK_next (t := s.setS o.d 1) h ((if_neg (not_le.2 hn)).trans (if_pos ?_)) : execIrqCore o s = _)
    rw [Bool.not_eq_true', Core.irqRoom]
    exact decide_eq_false (not_lt.2 hfull)
  case sent =>
    refine ⟨_, (runK_next h ((if_neg (not_le.2 hn)).trans (if_neg ?_)) : execIrqCore o s = _), ?_, fun k hk => ?_, ?_⟩
    · rw [Bool.not_eq_true', Core.irqRoom, Bool.not_eq_false]
      exact decide_eq_true hroom
    · rw [State.release_coreOf, State.putCoreAt_coreOf]
      rfl
    · rw [State.release_coreOf, State.putCoreAt_coreOf_ne _ _ hk]
    · rw [State.release_mem, State.putCoreAt_mem]
  case nohost => exact (runK_next (t := s.setS o.d 2) h (if_pos hn) : execIrqHost o s = _)
  case host =>
    refine ⟨_, (runK_next h (if_neg (not_le.2 hn)) : execIrqHost o s = _), ?_, ?_, ?_⟩
    · rw [State.release_hub]
      rfl
    · rw [State.release_core]
      rfl
    · rw [State.release_mem]
      rfl
  case clock =>
    obtain ⟨h1, h2⟩ := s.tick_clock
    exact ⟨h1.trans (by rw [hk]; rfl), h2⟩
  case ended =>
    refine (runK_next (t := (s.putCtx { x with wfiLeft := none }).setS o.d 1) h (if_pos ?_) : execWfi o s = _)
    simpa using hi
  case limit =>
    refine (runK_next (t := (s.putCtx { x with wfiLeft := none }).setS o.d 0) h ((if_neg ?_).trans ((if_pos hw).trans (if_pos hz))) : execWfi o s = _)
    simp [hi]
  case starts =>
    have hempty : ¬ (!s.core.irqs.isEmpty) = true := by simp [hi]
    refine (runK_block (t := s.putCtx { x with wfiLeft := if o.uimm = 0 then none else some o.uimm }) h ((if_neg hempty).trans (if_neg hw)) : execWfi o s = _).trans ?_
    have himm : o.uimm = 0 ↔ o.imm = 0 := ⟨fun hz => BitVec.eq_of_toNat_eq hz, fun hz => by rw [Ops.uimm, hz]; rfl⟩
    rw [State.putCtx_putCtx, State.putCtx_ctx, if_congr himm rfl rfl]
    rfl

end Sys2Proof.Machine
end

section
/-! PROOFS. MEMCTL and BALLOON (R441 to R443). -/

namespace Sys2Proof.Machine

/-! ## MEMCTL.TAG -/

theorem tagSectors_le (t : Nat) : tagSectors t ≤ 8 := by
  unfold tagSectors
  split <;> decide

theorem State.lineStat_le (s : State) (a : Nat) : s.lineStat a ≤ 4 := by
  unfold State.lineStat
  split
  · decide
  · split
    · decide
    · split
      · decide
      · split <;> decide

/-- A line's tag and offset are those of its FMR's fields. -/
theorem State.frame_line_lt (s : State) (a n : Nat) : ((s.frame a).lines.getD n (0, 0)).1 < 16 ∧ ((s.frame a).lines.getD n (0, 0)).2 < 256 := by
  have hl : (s.frame a).lines = (List.range 32).map (fun l => (fmrField (s.fmr a) (12 * l) 4, fmrField (s.fmr a) (12 * l + 4) 8)) := rfl
  rw [hl, List.getD_eq_getElem?_getD, List.getElem?_map]
  cases (List.range 32)[n]? with
  | none => exact ⟨show 0 < 16 by decide, show 0 < 256 by decide⟩
  | some l => exact ⟨Nat.mod_lt _ (by decide), Nat.mod_lt _ (by decide)⟩

/-- The sum that TAG writes, by its parts. -/
def tagSum (st t off n : Nat) (dirty inc : Bool) : Nat :=
  st * 2 ^ 60 + t * 2 ^ 56 + off * 2 ^ 48 + n * 2 ^ 44 + (if dirty then 2 ^ 43 else 0) + (if inc then 2 ^ 42 else 0)

theorem State.tagWord_eq (s : State) (a : Nat) (h : s.lineStat a ≠ 4) : ∃ t off n, t < 16 ∧ off < 256 ∧ n ≤ 8 ∧
    s.tagWord a = BitVec.ofNat 64 (tagSum (s.lineStat a) t off n (s.wellDirty (a / 128)) (s.frame a).inc) := by
  obtain ⟨ht, hoff⟩ := s.frame_line_lt a (a / 128 % 32)
  refine ⟨_, _, _, ht, hoff, tagSectors_le ((s.frame a).lines.getD (a / 128 % 32) (0, 0)).1, ?_⟩
  simp only [State.tagWord, if_neg h]
  rfl

section TagSum

variable {st t off n : Nat} (dirty inc : Bool)

theorem tagSum_stat (hst : st < 16) (ht : t < 16) (hoff : off < 256) (hn : n ≤ 8) : tagSum st t off n dirty inc / 2 ^ 60 % 2 ^ 4 = st := by
  unfold tagSum
  cases dirty <;> cases inc <;> simp only [if_true, Bool.false_eq_true, if_false] <;> omega

theorem tagSum_dirty : tagSum st t off n dirty inc / 2 ^ 43 % 2 = dirty.toNat := by
  unfold tagSum
  cases dirty <;> cases inc <;> simp only [if_true, Bool.false_eq_true, if_false, Bool.toNat_true, Bool.toNat_false] <;> omega

theorem tagSum_inc : tagSum st t off n dirty inc / 2 ^ 42 % 2 = inc.toNat := by
  unfold tagSum
  cases dirty <;> cases inc <;> simp only [if_true, Bool.false_eq_true, if_false, Bool.toNat_true, Bool.toNat_false] <;> omega

end TagSum

/-- The word of TAG by its fields. -/
theorem State.tagWord_fields (s : State) (a : Nat) : ((s.tagWord a).extractLsb' 60 4).toNat = s.lineStat a ∧ (s.lineStat a = 4 → (s.tagWord a).extractLsb' 0 60 = 0) ∧
    (s.lineStat a ≠ 4 → (s.tagWord a).getLsbD 43 = s.wellDirty (a / 128) ∧ (s.tagWord a).getLsbD 42 = (s.frame a).inc) := by
  by_cases h4 : s.lineStat a = 4
  · have hw : s.tagWord a = BitVec.ofNat 64 (4 * 2 ^ 60) := by simp only [State.tagWord, h4, if_true]
    rw [hw, h4]
    exact ⟨rfl, fun _ => rfl, fun h => absurd rfl h⟩
  · have hst : s.lineStat a < 16 := lt_of_le_of_lt (s.lineStat_le a) (by decide)
    obtain ⟨t, off, n, ht, hoff, hn, hw⟩ := s.tagWord_eq a h4
    rw [hw]
    refine ⟨?_, fun h => absurd h h4, fun _ => ⟨?_, ?_⟩⟩
    · rw [toNat_extractLsb'_ofNat (by decide)]
      exact tagSum_stat _ _ hst ht hoff hn
    · exact getLsbD_ofNat_of_div_mod (by decide) (tagSum_dirty _ _)
    · exact getLsbD_ofNat_of_div_mod (by decide) (tagSum_inc _ _)

/-! ## MEMCTL.WR -/

section Registers

variable {o : Ops} {s : State}

/-- MEMCTL.WR on one of the dies leaves what the register's own write gives. -/
theorem execMemctlWr_die (h : ReadyK o s) (ha : (s.getS o.a).toNat < 8) {k : Nat} {x : Die} (hr : (s.die (s.getS o.a).toNat).setReg o.imm.toNat (s.getS o.b).toNat = (k, x)) :
    exec (.memctlWr o) s = .next (((s.putDie (s.getS o.a).toNat x).setS o.d (BitVec.ofNat 64 k)).goTo (((s.putDie (s.getS o.a).toNat x).setS o.d (BitVec.ofNat 64 k)).nextPc o)) := by
  refine (runK_next (t := (s.putDie (s.getS o.a).toNat x).setS o.d (BitVec.ofNat 64 k)) h ((if_neg (not_le.2 ha)).trans ?_) : execMemctlWr o s = _)
  have hr' : (s.die (s.getS o.a).toNat).setReg o.uimm (s.getS o.b).toNat = (k, x) := hr
  dsimp only
  rw [hr']

theorem Die.setReg_low (d : Die) (v : Nat) : d.setReg 1 v = if 1 ≤ v ∧ v ≤ 2 ^ 24 ∧ d.crit < v then (0, { d with low := v }) else (1, d) :=
  if_congr (by simp only [Bool.and_eq_true, decide_eq_true_eq, and_assoc]) rfl rfl

theorem Die.setReg_crit (d : Die) (v : Nat) : d.setReg 2 v = if v < d.low then (0, { d with crit := v }) else (1, d) := rfl

theorem Die.setReg_hbudg (d : Die) (v : Nat) : d.setReg 9 v = if 600 ≤ v ∧ v ≤ 600000 then (0, { d with hbudg := v }) else (1, d) :=
  if_congr (by simp only [Bool.and_eq_true, decide_eq_true_eq]) rfl rfl

theorem Die.setReg_other (d : Die) {n : Nat} (v : Nat) (h1 : n ≠ 1) (h2 : n ≠ 2) (h3 : n ≠ 3) (h9 : n ≠ 9) : d.setReg n v = (5, d) := by
  unfold Die.setReg
  split
  · exact absurd rfl h1
  · exact absurd rfl h2
  · exact absurd rfl h3
  · exact absurd rfl h9
  · rfl

section Commit

variable (d : Die) {v : Nat}

theorem Die.setCommit_out (h : v < 16 ∨ 32 < v) : d.setCommit v = (1, d) := if_pos (by simpa using h)

theorem Die.setCommit_grow (h1 : 16 ≤ v) (h2 : v ≤ 32) (hc : d.commit ≤ v) :
    d.setCommit v = if d.free < (v - d.commit) * 262144 then (3, d) else (0, { d with commit := v, free := d.free - (v - d.commit) * 262144 }) :=
  (if_neg (by simp only [Bool.or_eq_true, decide_eq_true_eq]; omega)).trans (if_pos hc)

theorem Die.setCommit_shrink (h1 : 16 ≤ v) (h2 : v ≤ 32) (hc : v < d.commit) :
    d.setCommit v = if d.usedBeyond v then (4, d) else (0, { d with commit := v, free := d.free + (d.commit - v) * 262144 }) :=
  (if_neg (by simp only [Bool.or_eq_true, decide_eq_true_eq]; omega)).trans (if_neg (not_le.2 hc))

theorem Die.usedBeyond_iff : d.usedBeyond v = true ↔ ∃ e ∈ d.fmrs, v * 2 ^ 20 ≤ e.1 % 2 ^ 25 ∧ ((unpackFmr e.2).chunks ≠ [] ∨ (unpackFmr e.2).pend = true) := by
  simp only [Die.usedBeyond, List.any_eq_true, Bool.and_eq_true, Bool.or_eq_true, decide_eq_true_eq, Bool.not_eq_true', List.isEmpty_eq_false_iff]

end Commit

end Registers

/-! ## BALLOON -/

theorem SMap.get_filter {α : Type} (d : α) (m : SMap α) (f : Nat → Bool) (k : Nat) : SMap.get d (m.filter (fun e => f e.1)) k = if f k then SMap.get d m k else d := by
  induction m with
  | nil => simp [SMap.get]
  | cons e t ih =>
    by_cases hf : f e.1 = true
    · rw [List.filter_cons_of_pos (p := fun (e : Nat × α) => f e.1) hf, SMap.get, SMap.get, ih]
      by_cases hk : e.1 = k
      · rw [if_pos hk, if_pos hk, if_pos (hk ▸ hf)]
      · rw [if_neg hk, if_neg hk]
    · rw [List.filter_cons_of_neg (p := fun (e : Nat × α) => f e.1) hf, ih, SMap.get]
      by_cases hk : e.1 = k
      · rw [if_neg (hk ▸ hf), if_neg (hk ▸ hf)]
      · rw [if_neg hk]

/-- The bytes of a dropped frame read 0, every other byte stays. -/
theorem State.dropFrame_byteAt (s : State) (a x : Nat) : (s.dropFrame a).byteAt x = if x / 4096 ≠ a / 4096 then s.byteAt x else 0 := by
  have hm : (s.dropFrame a).byteAt x = SMap.get 0 (s.mem.filter (fun e => decide (e.1 / 4096 ≠ a / 4096))) x := rfl
  rw [hm, SMap.get_filter 0 s.mem (fun k => decide (k / 4096 ≠ a / 4096))]
  simp only [decide_eq_true_eq]
  rfl

section Balloon

variable {s : State} {a vf : Nat}

/-- The frame of a DPA that BALLOON may name. -/
def State.frameGood (s : State) (a : Nat) : Prop := a % 4096 = 0 ∧ a < 2 ^ 40 ∧ s.committed a = true

theorem State.frameGood_iff : s.frameGood a ↔ ¬ (decide (a % 4096 ≠ 0) || decide (2 ^ 40 ≤ a) || decide (s.committed a = false)) = true := by
  simp only [State.frameGood, Bool.or_eq_true, decide_eq_true_eq, not_or, not_not, not_le, Bool.not_eq_false, and_assoc]

theorem State.balloonAdd_bad (h : ¬ s.frameGood a) : s.balloonAdd a vf = (1, s) := if_pos (not_not.1 (mt State.frameGood_iff.2 h))
theorem State.balloonRem_bad (h : ¬ s.frameGood a) : s.balloonRem a = (1, s) := if_pos (not_not.1 (mt State.frameGood_iff.2 h))

variable (hg : s.frameGood a)
include hg

theorem State.balloonAdd_vf (hv : 256 ≤ vf) : s.balloonAdd a vf = (2, s) := (if_neg (State.frameGood_iff.1 hg)).trans (if_pos hv)

theorem State.balloonAdd_again (hv : vf < 256) (hb : fmrBal (s.fmr a) = true) : s.balloonAdd a vf = (3, s) :=
  (if_neg (State.frameGood_iff.1 hg)).trans ((if_neg (not_le.2 hv)).trans (if_pos hb))

theorem State.balloonRem_none (hb : fmrBal (s.fmr a) = false) : s.balloonRem a = (3, s) :=
  (if_neg (State.frameGood_iff.1 hg)).trans (if_pos (by rw [hb]; rfl))

theorem State.balloonAdd_takes (hv : vf < 256) (hb : fmrBal (s.fmr a) = false) (hl : (s.die (dieOfDpa a)).lists.foldl (fun n e => n + e.2.length) 0 < 65536) :
    ∃ t : State, s.balloonAdd a vf = (0, t) ∧ t.core = s.core ∧ (∀ x, t.byteAt x = (s.dropFrame a).byteAt x) ∧
      SMap.get [] (t.die (dieOfDpa a)).lists vf = SMap.get [] (s.die (dieOfDpa a)).lists vf ++ [a / 4096] := by
  refine ⟨_, (if_neg (State.frameGood_iff.1 hg)).trans ((if_neg (not_le.2 hv)).trans ((if_neg (by rw [hb]; decide)).trans (if_neg (not_le.2 hl)))), rfl, fun x => rfl, ?_⟩
  simp only [State.putFrame, State.dropFrame, State.die, State.putDie, SMap.get_set_self]

theorem State.balloonRem_gives (hb : fmrBal (s.fmr a) = true) : ∃ t : State, s.balloonRem a = (0, t) ∧ t.core = s.core ∧ ∀ x, t.byteAt x = (s.dropFrame a).byteAt x :=
  ⟨_, (if_neg (State.frameGood_iff.1 hg)).trans (if_neg (by rw [hb]; decide)), rfl, fun x => rfl⟩

end Balloon

theorem State.putDie_die (s : State) (i : Nat) (x : Die) : (s.putDie i x).die i = x := SMap.get_set_self _ _ _ _

theorem State.putDie_die_ne (s : State) {i k : Nat} (x : Die) (h : k ≠ i) : (s.putDie i x).die k = s.die k := SMap.get_set_ne _ _ _ h

/-- Every die of the module, changed in turn. -/
theorem State.foldl_putDie_mem (f : Die → Die) {P : Die → Prop} (hf : ∀ d, P (f d)) (l : List Nat) :
    ∀ (s : State) (k : Nat), (k ∈ l ∨ P (s.die k)) → P ((l.foldl (fun u i => u.putDie i (f (u.die i))) s).die k) := by
  induction l with
  | nil => exact fun s k h => h.resolve_left (List.not_mem_nil)
  | cons i t ih =>
    intro s k h
    refine ih _ k (or_iff_not_imp_left.2 fun ht => ?_)
    by_cases hk : k = i
    · rw [hk, State.putDie_die]
      exact hf _
    · rw [State.putDie_die_ne _ _ hk]
      exact (h.resolve_left fun hm => (List.mem_cons.1 hm).elim hk ht)

section Issue

variable {o : Ops} {s : State}

theorem execBalloonAdd_run (h : ReadyK o s) {k : Nat} {t : State} (hr : s.balloonAdd (s.getS o.a).toNat (s.getS o.b).toNat = (k, t)) :
    exec (.balloonAdd o) s = .next (((if k = 0 then t.fence .k 1 else t).setS o.d (BitVec.ofNat 64 k)).goTo (((if k = 0 then t.fence .k 1 else t).setS o.d (BitVec.ofNat 64 k)).nextPc o)) := by
  refine (runK_next (t := (if k = 0 then t.fence .k 1 else t).setS o.d (BitVec.ofNat 64 k)) h ?_ : execBalloonAdd o s = _)
  dsimp only
  rw [hr]

theorem execBalloonRem_run (h : ReadyK o s) {k : Nat} {t : State} (hr : s.balloonRem (s.getS o.a).toNat = (k, t)) :
    exec (.balloonRem o) s = .next ((t.setS o.d (BitVec.ofNat 64 k)).goTo ((t.setS o.d (BitVec.ofNat 64 k)).nextPc o)) := by
  refine (runK_next (t := t.setS o.d (BitVec.ofNat 64 k)) h ?_ : execBalloonRem o s = _)
  dsimp only
  rw [hr]

end Issue

/-- A die with the priority of a VF set (R443). -/
def Die.setPrio (vf p : Nat) (d : Die) : Die := { d with prio := SMap.set 0 d.prio vf (BitVec.ofNat 4 p) }

theorem Die.setPrio_get (vf p : Nat) (d : Die) : SMap.get 0 (d.setPrio vf p).prio vf = BitVec.ofNat 4 p := SMap.get_set_self _ _ _ _

/-- Settles O40: each register by its own write, each status by the first condition that holds. -/
theorem memoryControlResults : Obligations.MemoryControlResults := by
  intro o s h go a b d wr good
  have hgood : good ↔ s.frameGood a := Iff.rfl
  refine ⟨?tag, ?fmr, ?rd, ?wrFar, ?low, ?crit, ?hbudg, ?out, ?grow, ?shrink, ?other, ?bad, ?vf, ?again, ?none, ?takes, ?gives, ?priBad, ?pri⟩
  case tag => exact ⟨_, (runK_next (t := s.setS o.d (s.tagWord a)) h rfl : execMemctlTag o s = _), s.tagWord_fields a⟩
  case fmr => exact (runK_next (t := s.setS o.d _) h rfl : execMemctlFmr o s = _)
  case rd => exact (runK_next (t := s.setS o.d _) h rfl : execMemctlRd o s = _)
  case wrFar => exact fun ha => (runK_next (t := s.setS o.d 2) h (if_pos ha) : execMemctlWr o s = _)
  case low =>
    intro ha hi
    split
    · next hc => exact execMemctlWr_die h ha (by rw [hi, Die.setReg_low, if_pos hc])
    · next hc => exact execMemctlWr_die h ha (by rw [hi, Die.setReg_low, if_neg hc])
  case crit =>
    intro ha hi
    split
    · next hc => exact execMemctlWr_die h ha (by rw [hi, Die.setReg_crit, if_pos hc])
    · next hc => exact execMemctlWr_die h ha (by rw [hi, Die.setReg_crit, if_neg hc])
  case hbudg =>
    intro ha hi
    split
    · next hc => exact execMemctlWr_die h ha (by rw [hi, Die.setReg_hbudg, if_pos hc])
    · next hc => exact execMemctlWr_die h ha (by rw [hi, Die.setReg_hbudg, if_neg hc])
  case out => exact fun ha hi hv => execMemctlWr_die h ha (by rw [hi]; exact Die.setCommit_out _ hv)
  case grow =>
    intro ha hi h16 h32 hc
    split
    · next hf => exact execMemctlWr_die h ha (by rw [hi]; exact (Die.setCommit_grow _ h16 h32 hc).trans (if_pos hf))
    · next hf => exact execMemctlWr_die h ha (by rw [hi]; exact (Die.setCommit_grow _ h16 h32 hc).trans (if_neg hf))
  case shrink =>
    intro ha hi h16 hc h32 used
    have hused : d.usedBeyond b = true ↔ used := d.usedBeyond_iff
    exact ⟨fun hu => execMemctlWr_die h ha (by rw [hi]; exact (Die.setCommit_shrink _ h16 h32 hc).trans (if_pos (hused.2 hu))),
      fun hu => execMemctlWr_die h ha (by rw [hi]; exact (Die.setCommit_shrink _ h16 h32 hc).trans (if_neg (mt hused.1 hu)))⟩
  case other => exact fun ha h1 h2 h3 h9 => execMemctlWr_die h ha (Die.setReg_other _ _ h1 h2 h3 h9)
  case bad => exact fun hb => ⟨execBalloonAdd_run h (State.balloonAdd_bad hb), execBalloonRem_run h (State.balloonRem_bad hb)⟩
  case vf => exact fun hg hv => execBalloonAdd_run h (State.balloonAdd_vf hg hv)
  case again => exact fun hg hv hb => execBalloonAdd_run h (State.balloonAdd_again hg hv hb)
  case none => exact fun hg hb => execBalloonRem_run h (State.balloonRem_none hg hb)
  case takes =>
    intro hg hv hb hl
    obtain ⟨t, ht, hcore, hbyte, hlist⟩ := State.balloonAdd_takes hg hv hb hl
    refine ⟨t.fence .k 1, execBalloonAdd_run h ht, hcore, fun x hx => ?_, fun x hx => ?_, hlist⟩
    · exact (hbyte x).trans ((s.dropFrame_byteAt a x).trans (if_neg (not_not.2 hx)))
    · exact (hbyte x).trans ((s.dropFrame_byteAt a x).trans (if_pos hx))
  case gives =>
    intro hg hb
    obtain ⟨t, ht, hcore, hbyte⟩ := State.balloonRem_gives hg hb
    refine ⟨t, execBalloonRem_run h ht, hcore, fun x hx => ?_, fun x hx => ?_⟩
    · exact (hbyte x).trans ((s.dropFrame_byteAt a x).trans (if_neg (not_not.2 hx)))
    · exact (hbyte x).trans ((s.dropFrame_byteAt a x).trans (if_pos hx))
  case priBad =>
    intro hb
    refine (runK_next (t := s.setS o.d 2) h (if_pos ?_) : execBalloonPri o s = _)
    rw [Bool.or_eq_true, decide_eq_true_eq, decide_eq_true_eq]
    exact hb
  case pri =>
    intro hb ha
    refine ⟨(List.range 8).foldl (fun u i => u.putDie i ((u.die i).setPrio b a)) s, (runK_next h (if_neg ?_) : execBalloonPri o s = _), ?_, ?_, fun k hk => ?_⟩
    · rw [Bool.or_eq_true, decide_eq_true_eq, decide_eq_true_eq, not_or]
      exact ⟨not_le.2 hb, not_le.2 ha⟩
    · exact foldl_keeps (f := fun (u : State) i => u.putDie i ((u.die i).setPrio b a)) State.core (fun _ _ => rfl) (List.range 8) s
    · exact foldl_keeps (f := fun (u : State) i => u.putDie i ((u.die i).setPrio b a)) State.mem (fun _ _ => rfl) (List.range 8) s
    · exact State.foldl_putDie_mem (Die.setPrio b a) (P := fun x => SMap.get 0 x.prio b = BitVec.ofNat 4 a) (Die.setPrio_get b a) (List.range 8) s k
        (.inl (List.mem_range.2 hk))

end Sys2Proof.Machine
end

section
/-! PROOFS. QPOST and PINIT (R163, R494 to R496). -/

namespace Sys2Proof.Machine

section Post

variable {o : Ops} {s : State}

/-- Four words written one after another. -/
theorem foldl_put4 {ε : Type} {f : State → Nat × Nat → Except ε State} {put : Except ε State → Nat × Nat → Except ε State} (hput : ∀ u e, put (.ok u) e = f u e)
    {t t0 t1 t2 t3 : State} {w0 w1 w2 w3 : Nat} (h0 : f t (0, w0) = .ok t0) (h1 : f t0 (1, w1) = .ok t1) (h2 : f t1 (2, w2) = .ok t2) (h3 : f t2 (3, w3) = .ok t3) :
    (numbered [w0, w1, w2, w3]).foldl put (.ok t) = .ok t3 := by
  have hn : numbered [w0, w1, w2, w3] = [(0, w0), (1, w1), (2, w2), (3, w3)] := rfl
  rw [hn, List.foldl_cons, hput, h0, List.foldl_cons, hput, h1, List.foldl_cons, hput, h2, List.foldl_cons, hput, h3, List.foldl_nil]

theorem execQpost_posts (h : ReadyK o s) {t0 t1 t2 t3 : State} (hq : (s.getS o.a).toNat < 4096) (hst : (s.queue (s.getS o.a).toNat).state = 1) (hn : o.imm.toNat % 65536 ≠ 0)
    (hb : (s.getS o.b).toNat % 4 = 0) (hroom : ((s.queue (s.getS o.a).toNat).wptr - (s.queue (s.getS o.a).toNat).rptr).toNat + 4 ≤ (s.queue (s.getS o.a).toNat).size)
    (h0 : s.hubWrite (s.queue (s.getS o.a).toNat).asid ((s.queue (s.getS o.a).toNat).wordVa (s.queue (s.getS o.a).toNat).wptr.toNat) (leBytes 4 0x05030000) = .ok t0)
    (h1 : t0.hubWrite (s.queue (s.getS o.a).toNat).asid ((s.queue (s.getS o.a).toNat).wordVa ((s.queue (s.getS o.a).toNat).wptr.toNat + 1)) (leBytes 4 ((s.getS o.b).toNat % 2 ^ 32)) = .ok t1)
    (h2 : t1.hubWrite (s.queue (s.getS o.a).toNat).asid ((s.queue (s.getS o.a).toNat).wordVa ((s.queue (s.getS o.a).toNat).wptr.toNat + 2)) (leBytes 4 ((s.getS o.b).toNat / 2 ^ 32)) = .ok t2)
    (h3 : t2.hubWrite (s.queue (s.getS o.a).toNat).asid ((s.queue (s.getS o.a).toNat).wordVa ((s.queue (s.getS o.a).toNat).wptr.toNat + 3)) (leBytes 4 (o.imm.toNat % 65536)) = .ok t3) :
    let t := ((t3.putQueue (s.getS o.a).toNat { s.queue (s.getS o.a).toNat with wptr := (s.queue (s.getS o.a).toNat).wptr + 4 }).release .k 0 [hubKey]).setS o.d 0
    exec (.qpost o) s = .next (t.goTo (t.nextPc o)) := by
  intro t
  have hnb : ¬ (decide (o.uimm % 65536 = 0) || decide ((s.getS o.b).toNat % 4 ≠ 0)) = true := by
    rw [Bool.or_eq_true, decide_eq_true_eq, decide_eq_true_eq, not_or, not_not]
    exact ⟨hn, hb⟩
  refine (runK_next (t := t) h ((if_neg (not_le.2 hq)).trans ((if_neg (not_not.2 hst)).trans ((if_neg hnb).trans ((if_neg (not_lt.2 hroom)).trans ?_)))) : execQpost o s = _)
  dsimp only
  have hw : [0x05030000, (s.getS o.b).toNat % 2 ^ 32, (s.getS o.b).toNat / 2 ^ 32, o.uimm % 65536] = [0x05030000, (s.getS o.b).toNat % 2 ^ 32, (s.getS o.b).toNat / 2 ^ 32, o.imm.toNat % 65536] := rfl
  rw [hw, foldl_put4 (f := fun u e => u.hubWrite (s.queue (s.getS o.a).toNat).asid ((s.queue (s.getS o.a).toNat).wordVa ((s.queue (s.getS o.a).toNat).wptr.toNat + e.1)) (leBytes 4 e.2)) ?_ h0 h1 h2 h3]
  exact fun u e => rfl

end Post

section Pinit

variable {o : Ops} {s t : State} {p : Part} {ps : List Part}

theorem SameButTlb.getS (h : SameButTlb s t) (n : BitVec 6) : t.getS n = s.getS n := by rw [State.getS, h.ctx, State.getS]

theorem SameButTlb.curAsid_k (h : SameButTlb s t) (hk : s.core.cur = .k) : t.curAsid = s.curAsid := by
  rw [State.curAsid, State.curAsid, h.cur, hk, State.asidOf, State.asidOf, h.core]

theorem execPinit_body (hal : (s.getS o.a).toNat % 256 = 0) (hend : (s.getS o.a).toNat + 256 ≤ 2 ^ 48) (hacc : accessParts s s.curAsid true .write (s.getS o.a).toNat 256 = .ok (p :: ps, t))
    (hk : s.core.cur = .k) (h : ReadyK o s) :
    exec (.pinit o) s = finish o (if t.pinitWaits s.curAsid (s.getS o.a).toNat p.dpa (s.getS o.b) then .block .port t
      else .next (((t.pinit s.curAsid (s.getS o.a) p.dpa (s.getS o.b)).2.release .k 1 (hubKey :: (p :: ps).map (fun x => (x.dpa, x.len)))).setS o.d
        (t.pinit s.curAsid (s.getS o.a) p.dpa (s.getS o.b)).1)) := by
  have htlb := accessParts_ok hacc
  refine (show execPinit o s = _ from (runK_ready _ h).trans (congrArg (finish o) ((if_neg (not_not.2 hal)).trans ?_)))
  dsimp only
  rw [eaFlt_none hend]
  dsimp only
  rw [hacc]
  dsimp only
  rw [htlb.getS, htlb.curAsid_k hk]
  rfl

end Pinit

/-- Settles O41: QPOST's conditions in their order and its four words one after another; PINIT by the translation of its RCB. -/
theorem dispatchInstructionResults : Obligations.DispatchInstructionResults := by
  intro o s h go q b n x room
  refine ⟨fun hq => ?far, fun hq hst => ?idle, fun hq hst hn => ?bad, fun hq hst hn hb hr => ?full, fun t0 t1 t2 t3 hq hst hn hb hr h0 h1 h2 h3 => ?posts, fun hal => ?align,
    fun p ps t hal hend hacc r hr => ⟨fun hw => ?loads, fun hw => ?waits⟩⟩
  case far => exact (runK_next (t := s.setS o.d 2) h (if_pos hq) : execQpost o s = _)
  case idle => exact (runK_next (t := s.setS o.d 3) h ((if_neg (not_le.2 hq)).trans (if_pos hst)) : execQpost o s = _)
  case bad =>
    refine (runK_next (t := s.setS o.d 4) h ((if_neg (not_le.2 hq)).trans ((if_neg (not_not.2 hst)).trans (if_pos ?_))) : execQpost o s = _)
    rw [Bool.or_eq_true, decide_eq_true_eq, decide_eq_true_eq]
    exact hn
  case full =>
    refine (runK_next (t := s.setS o.d 1) h ((if_neg (not_le.2 hq)).trans ((if_neg (not_not.2 hst)).trans ((if_neg ?_).trans (if_pos (not_le.1 hr))))) : execQpost o s = _)
    rw [Bool.or_eq_true, decide_eq_true_eq, decide_eq_true_eq, not_or, not_not]
    exact ⟨hn, hb⟩
  case posts => exact execQpost_posts h hq hst hn hb hr h0 h1 h2 h3
  case align =>
    refine (show execPinit o s = _ from (runK_ready _ h).trans (congrArg (finish o) (if_pos hal))).trans ?_
    rw [scalarTrap, finish, alignFlt, fltTrap_scalar]
    rfl
  case loads =>
    rw [execPinit_body hal hend hacc h.2 h, if_neg (by rw [hw]; decide), finish, hr]
  case waits =>
    have htlb := accessParts_ok hacc
    refine ⟨_, (execPinit_body hal hend hacc h.2 h).trans (congrArg (finish o) (if_pos hw)), ?_, ?_, ?_, htlb.mem⟩
    · rw [State.putCtx_ctx]
    · rw [State.putCtx_ctx, htlb.ctx]
    · rw [State.putCtx_ctx, htlb.ctx]

end Sys2Proof.Machine
end

section
/-! PROOFS. A step runs the instruction that the bytes at the program counter decode to (R23, R54, R68). -/

namespace Sys2Proof

/-- A constructor list gives nothing, or an instruction of the opcode with the fields asked for. -/
def Carries (op : Nat) (o : Ops) (a : Option Instr) : Prop := ∀ i, a = some i → i.opcode? = some op ∧ i.ops? = some o

theorem Carries.none (op : Nat) (o : Ops) : Carries op o none := by rintro _ ⟨⟩

theorem Carries.some {op : Nat} {o : Ops} {i : Instr} (hop : i.opcode? = some op) (ho : i.ops? = some o) : Carries op o (some i) := by
  rintro _ ⟨⟩
  exact ⟨hop, ho⟩

theorem Carries.ite {op : Nat} {o : Ops} {p : Prop} [Decidable p] {a b : Option Instr} (ha : Carries op o a) (hb : Carries op o b) :
    Carries op o (if p then a else b) := by
  split
  · exact ha
  · exact hb

theorem carries_build0 (lo q m : Nat) (o : Ops) : Carries (lo) o (build0 lo q m o) := by
  unfold build0
  split <;> apply_rules [Carries.ite, Carries.none, Carries.some]

theorem carries_build1 (lo q m : Nat) (o : Ops) : Carries (16 + lo) o (build1 lo q m o) := by
  unfold build1
  split <;> apply_rules [Carries.ite, Carries.none, Carries.some]

theorem carries_build2 (lo q m : Nat) (o : Ops) : Carries (32 + lo) o (build2 lo q m o) := by
  unfold build2
  split <;> apply_rules [Carries.ite, Carries.none, Carries.some]

theorem carries_build3 (lo q m : Nat) (o : Ops) : Carries (48 + lo) o (build3 lo q m o) := by
  unfold build3
  split <;> apply_rules [Carries.ite, Carries.none, Carries.some]

theorem carries_build4 (lo q m : Nat) (o : Ops) : Carries (64 + lo) o (build4 lo q m o) := by
  unfold build4
  split <;> apply_rules [Carries.ite, Carries.none, Carries.some]

theorem carries_build5 (lo q m : Nat) (o : Ops) : Carries (80 + lo) o (build5 lo q m o) := by
  unfold build5
  split <;> apply_rules [Carries.ite, Carries.none, Carries.some]

theorem carries_build6 (lo q m : Nat) (o : Ops) : Carries (96 + lo) o (build6 lo q m o) := by
  unfold build6
  split <;> apply_rules [Carries.ite, Carries.none, Carries.some]

theorem carries_build7 (lo q m : Nat) (o : Ops) : Carries (112 + lo) o (build7 lo q m o) := by
  unfold build7
  split <;> apply_rules [Carries.ite, Carries.none, Carries.some]

theorem carries_build8 (lo q m : Nat) (o : Ops) : Carries (128 + lo) o (build8 lo q m o) := by
  unfold build8
  split <;> apply_rules [Carries.ite, Carries.none, Carries.some]

theorem carries_build9 (lo q m : Nat) (o : Ops) : Carries (144 + lo) o (build9 lo q m o) := by
  unfold build9
  split <;> apply_rules [Carries.ite, Carries.none, Carries.some]

theorem carries_buildA (lo q m : Nat) (o : Ops) : Carries (160 + lo) o (buildA lo q m o) := by
  unfold buildA
  split <;> apply_rules [Carries.ite, Carries.none, Carries.some]

theorem carries_buildB (lo q m : Nat) (o : Ops) : Carries (176 + lo) o (buildB lo q m o) := by
  unfold buildB
  split
  case h_2 =>
    iterate 13 refine .ite (.some rfl rfl) ?_
    exact .none _ _
  all_goals apply_rules [Carries.ite, Carries.none, Carries.some]

theorem carries_buildC (lo q m : Nat) (o : Ops) : Carries (192 + lo) o (buildC lo q m o) := by
  unfold buildC
  split <;> apply_rules [Carries.ite, Carries.none, Carries.some]

theorem carries_buildD (lo q m : Nat) (o : Ops) : Carries (208 + lo) o (buildD lo q m o) := by
  unfold buildD
  split <;> apply_rules [Carries.ite, Carries.none, Carries.some]

theorem carries_buildE (lo q m : Nat) (o : Ops) : Carries (224 + lo) o (buildE lo q m o) := by
  unfold buildE
  split <;> apply_rules [Carries.ite, Carries.none, Carries.some]

theorem carries_buildF (lo q m : Nat) (o : Ops) : Carries (240 + lo) o (buildF lo q m o) := by
  unfold buildF
  split <;> apply_rules [Carries.ite, Carries.none, Carries.some]

/-- The instruction that opcode and fields build is of that opcode, with those fields (R70, R71). -/
theorem carries_build (op q m : Nat) (o : Ops) : Carries op o (build op q m o) := by
  unfold build
  obtain ⟨k, hk⟩ : ∃ k, op / 16 = k := ⟨_, rfl⟩
  have hop : op = 16 * k + op % 16 := by omega
  rw [hk]
  generalize op % 16 = lo at hop ⊢
  subst hop
  match k with
  | 0 => rw [Nat.mul_zero, Nat.zero_add]; exact carries_build0 lo q m o
  | 1 => exact carries_build1 lo q m o
  | 2 => exact carries_build2 lo q m o
  | 3 => exact carries_build3 lo q m o
  | 4 => exact carries_build4 lo q m o
  | 5 => exact carries_build5 lo q m o
  | 6 => exact carries_build6 lo q m o
  | 7 => exact carries_build7 lo q m o
  | 8 => exact carries_build8 lo q m o
  | 9 => exact carries_build9 lo q m o
  | 10 => exact carries_buildA lo q m o
  | 11 => exact carries_buildB lo q m o
  | 12 => exact carries_buildC lo q m o
  | 13 => exact carries_buildD lo q m o
  | 14 => exact carries_buildE lo q m o
  | 15 => exact carries_buildF lo q m o
  | _ + 16 => exact .none _ o

/-- Fields that decode give an instruction that carries them. -/
theorem opcode_of_decodeFields {k : Bool} {op : Nat} {o : Ops} {i : Instr} (h : decodeFields k op o = .ok i) : i.opcode? = some op ∧ i.ops? = some o := by
  unfold decodeFields at h
  split at h
  · cases h
  · split at h
    · cases h
    · split at h
      · cases h
      · split at h
        · next j hj =>
          cases h
          exact carries_build _ _ _ _ _ hj
        · cases h

/-- The opcode and the fields of the instruction at the head of bytes. -/
abbrev headFields (bs : List Byte) : Nat × Ops := expand (formOf (bs.headD 0)) (leNat bs)

/-- Bytes that decode with none left are the fields of the instruction. -/
theorem decodeFields_of_decodeAt {k : Bool} {bs : List Byte} {i : Instr} (h : decodeAt k bs = .ok (i, [])) : decodeFields k (headFields bs).1 (headFields bs).2 = .ok i := by
  unfold decodeAt at h
  split at h
  · cases h
  · next b l =>
    simp only at h
    split at h
    · cases h
    · next hlen =>
      split at h
      · cases h
      · next j hj =>
        obtain ⟨rfl, hdrop⟩ : j = i ∧ (b :: l).drop (formOf b).bytes = [] := by simpa using h
        rwa [List.take_of_length_le (List.drop_eq_nil_iff.1 hdrop)] at hj

/-- Bytes of the length of their form that do not decode: their fields do not. -/
theorem decodeFields_of_decodeAt_error {k : Bool} {bs : List Byte} {e : DecodeError} (hn : bs.length = (formOf (bs.headD 0)).bytes)
    (h : decodeAt k bs = .error e) : decodeFields k (headFields bs).1 (headFields bs).2 = .error e := by
  unfold decodeAt at h
  split at h
  · cases hn
  · next b l =>
    simp only at h
    rw [List.headD_cons] at hn
    rw [if_neg (by omega), List.take_of_length_le hn.le] at h
    split at h
    · next d hd =>
      cases h
      exact hd
    · cases h

namespace Machine

/-! ## What recording leaves of the core -/

/-- Two states whose cores run alike: the executing context, whether in a trap, whether halted. -/
structure SameRun (s t : State) : Prop where
  cur : t.core.cur = s.core.cur
  inTrap : t.core.inTrap = s.core.inTrap
  halted : t.core.halted = s.core.halted

theorem SameRun.refl (s : State) : SameRun s s := ⟨rfl, rfl, rfl⟩

theorem SameRun.trans {s t u : State} (h : SameRun s t) (k : SameRun t u) : SameRun s u :=
  ⟨k.cur.trans h.cur, k.inTrap.trans h.inTrap, k.halted.trans h.halted⟩

theorem SameRun.of_core {s t : State} (h : t.core = s.core) : SameRun s t := by constructor <;> rw [h]

theorem SameRun.ite {s a b : State} {p : Prop} [Decidable p] (ha : SameRun s a) (hb : SameRun s b) : SameRun s (if p then a else b) := by
  split
  · exact ha
  · exact hb

theorem SameRun.putScroll (s : State) (u : CtxId) (x : Scroll) : SameRun s (s.putScroll u x) := by constructor <;> simp [State.putScroll]

theorem SameRun.kLevel {s t : State} (h : SameRun s t) : t.kLevel = s.kLevel := by rw [State.kLevel, h.cur, State.kLevel]

theorem SameRun.abortTrack (s : State) (u : CtxId) (ovf : Bool) : SameRun s (s.abortTrack u ovf) := by
  by_cases hm : (s.ctxAt u).scroll.mode = 1
  · exact (SameRun.putScroll s u _).trans (.of_core (State.abortTrack_core ovf hm))
  · rw [State.abortTrack, if_pos hm]
    exact .refl s

theorem SameRun.keepRecords (s : State) (asid : BitVec 9) (va : Nat) (rs : List (BitVec 128)) : SameRun s (s.keepRecords asid va rs) := by
  induction rs generalizing s va with
  | nil => exact .refl s
  | cons r l ih =>
    refine .trans ?_ (ih _ _)
    unfold State.keepRecord
    split
    · exact .refl s
    · exact ⟨rfl, rfl, rfl⟩

theorem SameRun.putRecords (s : State) (u : CtxId) (rs : List Nat) : SameRun s (s.putRecords u rs) := by
  simp only [State.putRecords]
  split
  · exact .refl s
  · split
    · exact .abortTrack s u true
    · split
      · exact .abortTrack s u false
      · next t ht => exact ((SameRun.of_core (State.tapeWrite_core ht)).trans (.keepRecords t _ _ _)).trans (.putScroll _ u _)

theorem SameRun.writeGuard (s : State) (u : CtxId) (x : Ctx) (type kind data : Nat) (full : Bool) : SameRun s (s.writeGuard u x type kind data full) := by
  exact .ite (.refl s) (.ite (.putRecords s u _) ((SameRun.putRecords s u _).trans (.putScroll _ u _)))

theorem SameRun.beforeScroll (s : State) (u : CtxId) (op : Nat) (o : Ops) : SameRun s (s.beforeScroll u op o) := by
  unfold State.beforeScroll
  split
  · simp only [State.beforeOther]
    split
    · exact .abortTrack s u false
    · split
      · exact .writeGuard s u _ _ _ _ _
      · exact .refl s
  · exact .refl s

theorem State.beforeScroll_same {s : State} {c : CtxId} {op : Nat} {o : Ops} (h : (s.ctxAt c).scroll.mode ≠ 1 ∨ isScroll op = false ∨ c = .k) :
    s.beforeScroll c op o = s := by
  refine if_neg fun hall => ?_
  simp only [Bool.and_eq_true, decide_eq_true_eq] at hall
  obtain ⟨⟨hu, hm⟩, hs⟩ := hall
  rcases h with h | h | h
  · exact h hm
  · exact Bool.false_ne_true (h.symm.trans hs)
  · exact hu h

/-! ## Traps of an instruction -/

@[simp] theorem State.halt_inTrap (s : State) (cause : BitVec 5) (kepc aux1 : Word) : (s.halt cause kepc aux1).core.inTrap = s.core.inTrap := rfl

theorem State.enterHandler_inTrap (s : State) (cause : BitVec 5) : (s.enterHandler cause).core.inTrap = s.core.inTrap := by
  simp only [State.enterHandler]
  split
  · split
    · exact s.margin_keeps (fun t => t.core.inTrap) (fun _ _ _ => rfl) ..
    · rfl
  · next h =>
    split
    · rfl
    · exact (congrArg Core.inTrap (accessParts_ok h).core :)

/-- A class A trap of a U context puts the core into a trap. -/
theorem State.trapA_inTrap {s : State} (hc : s.core.cur ≠ .k) (i : TrapInfo) (len : Nat) : (s.trapA i len).core.inTrap = true := by
  rw [State.trapA_u hc, State.enterHandler_inTrap]
  rfl

/-! ## The attempt -/

theorem fetch_cur {s t : State} {bs : List Byte} (h : fetch s = .ok (bs, t)) : t.core.cur = s.core.cur := by
  simp only [fetch] at h
  split at h
  · cases h
    rfl
  · split at h
    · cases h
    · next h1 =>
      split at h
      · cases h
      · next h2 =>
        cases h
        exact (accessParts_ok h2).cur.trans (accessParts_ok h1).cur

theorem kLevel_of_fetch {s t : State} {c : CtxId} {bs : List Byte} (h : fetch (s.select c) = .ok (bs, t)) : t.kLevel = decide (c = .k) := by
  rw [State.kLevel, fetch_cur h]
  rfl

/-- An instruction that comes as far as its issue, and what it leaves there, give the attempt. -/
theorem State.runAt_of_issueAt {s s1 t : State} {c : CtxId} {bs : List Byte} (hf : fetch (s.select c) = .ok (bs, s1)) (hz : s1.core.hazard c (headFields bs).1 (headFields bs).2 = false)
    (hi : issueAt s1 c (headFields bs).1 (headFields bs).2 = .next t) : s.runAt c = ⟨settleInstr s1 t c (headFields bs).1 (headFields bs).2, !t.blocked c⟩ := by
  simp only [State.runAt, hf]
  rw [if_neg (Bool.eq_false_iff.1 hz), hi]

/-- What stands before the instruction is kept when the instruction completes. -/
theorem issueAt_completes {s t : State} {c : CtxId} {op : Nat} {o : Ops} (h : issueInstr op o (s.beforeScroll c op o) = .next t)
    (hb : t.blocked c = false) (ht : (t.ctxAt c).st ≠ .trapped) (hi : t.core.inTrap = s.core.inTrap) : issueAt s c op o = .next t := by
  simp [issueAt, h, hb, ht, hi]

/-- What stands before the instruction is not written when the instruction blocks or traps. -/
theorem issueAt_again {s t r : State} {c : CtxId} {op : Nat} {o : Ops} (hr : issueInstr op o (s.beforeScroll c op o) = .next r)
    (hstops : r.blocked c = true ∨ (r.ctxAt c).st = .trapped ∨ r.core.inTrap ≠ s.core.inTrap) (h : issueInstr op o s = .next t) : issueAt s c op o = .next t := by
  simp only [issueAt, hr]
  rw [if_pos (by simpa [or_assoc] using hstops), h]

theorem issueAt_same {s t : State} {c : CtxId} {op : Nat} {o : Ops} (hb : s.beforeScroll c op o = s) (h : issueInstr op o s = .next t) : issueAt s c op o = .next t := by
  simp only [issueAt, hb, h]
  split <;> rfl

/-- Fields that do not decode raise their fault, before anything that recording puts there. -/
theorem issueAt_error {s : State} {c : CtxId} {op : Nat} {o : Ops} {e : DecodeError} (hc : s.core.cur = c) (hd : decodeFields s.kLevel op o = .error e)
    (hh : s.core.halted = false) (hb : s.beforeScroll c op o = s ∨ s.core.inTrap = false) : issueAt s c op o = .next (s.trapA (decodeTrap e) o.form.bytes) := by
  have hs := issueInstr_error hh hd
  by_cases hsame : s.beforeScroll c op o = s
  · exact issueAt_same hsame hs
  · have hrun := SameRun.beforeScroll s c op o
    have hk : c ≠ .k := fun hk => hsame (State.beforeScroll_same (.inr (.inr hk)))
    refine issueAt_again (issueInstr_error (hrun.halted.trans hh) (by rw [hrun.kLevel]; exact hd)) (.inr (.inr ?_)) hs
    rw [State.trapA_inTrap (by rwa [hrun.cur, hc]), hb.resolve_left hsame]
    decide

/-- A core in a trap with nothing else to be done takes its K context's attempt. -/
theorem step_of_k {s s0 : State} {a : Attempt} (hs : s = s0.atRank 0) (ha : s0.agenda = []) (hw : s0.hwNext = false ∨ s0.hwMove = none) (hi : s.core.inTrap = true)
    (hh : s.core.halted = false) (hg : s.gated = false) (hr : s.runAt .k = a) :
    step s0 = .next { ({ a.state with core := { a.state.core with rank := 4 } } : State).passTurn with hwNext := true } := by
  have hone : s0.runOne = s0.cycleStep := by
    rcases hw with h | h <;> simp [State.runOne, h]
  have hslot : (s0.atRank 0).issueSlot = a.state := by
    simp [State.issueSlot, ← hs, hh, hg, hi, hr]
  simp only [step, ha, hone, State.cycleStep, State.inSlot, hslot]

/-- Settles O55: the fields at the program counter decide alike for the decoder and for the issue; a fault or a wait leaves out what recording would put before the instruction. -/
theorem stepRunsDecodedInstruction : Obligations.StepRunsDecodedInstruction := by
  intro c s s1 bs hf
  have hk : s1.kLevel = decide (c = .k) := kLevel_of_fetch hf
  constructor
  · intro i op o t hd hop ho hz b runs
    have hfields := decodeFields_of_decodeAt hd
    obtain ⟨rfl, rfl⟩ : (headFields bs).1 = op ∧ (headFields bs).2 = o := by
      obtain ⟨h1, h2⟩ := opcode_of_decodeFields hfields
      rw [h1] at hop
      rw [h2] at ho
      exact ⟨Option.some.inj hop, Option.some.inj ho⟩
    have hs : issueInstr (headFields bs).1 (headFields bs).2 s1 = exec i s1 := issueInstr_ok (by rw [hk]; exact hfields)
    have hb : issueInstr (headFields bs).1 (headFields bs).2 b = exec i b := issueInstr_ok (by rw [(SameRun.beforeScroll s1 c _ _).kLevel, hk]; exact hfields)
    have hsame : b = s1 → exec i s1 = .next t → runs := fun h1 h2 => State.runAt_of_issueAt hf hz (issueAt_same h1 (hs.trans h2))
    refine ⟨State.beforeScroll_same, hsame, ?_, ?_, ?_⟩
    · intro h1 h2 h3 h4
      exact State.runAt_of_issueAt hf hz (issueAt_completes (hb.trans h1) h2 h3 h4)
    · intro r h1 h2 h3
      exact State.runAt_of_issueAt hf hz (issueAt_again (hb.trans h1) h2 (hs.trans h3))
    · intro s0 hck hx h1 h2 h3 h4 h5 h6 u
      subst hck
      exact step_of_k h1 h2 h3 h4 h5 h6 (hsame (State.beforeScroll_same (.inr (.inr rfl))) hx)
  · rintro e w hn hd rfl hz hh hb t rfl
    exact State.runAt_of_issueAt hf hz (issueAt_error (fetch_cur hf) (by rw [hk]; exact decodeFields_of_decodeAt_error hn hd) hh hb)

end Machine

end Sys2Proof
end

section
/-! PROOFS. A step with nothing on the agenda answers a next state, and a core with nothing to do lets its cycle pass (R23, R62, R142). -/

namespace Sys2Proof.Machine

/-! ## What a cycle of a core leaves -/

/-- What the Ligature does not touch of a core: the registers and the address of its first context, and whether it is halted. -/
def Core.atRest (c : Core) : SMap Word × Word × Bool := (c.u0.s, c.u0.pc, c.halted)

theorem Core.fire_atRest (c : Core) (t : Term) (v : Inv) : (c.fire t v).atRest = c.atRest :=
  foldl_keeps (f := fun (d : Core) w => d.subEv (condCtr w) (condThr w)) Core.atRest (fun _ _ => rfl) t.conds (c.putInv { v with held := false })

theorem State.fireTerm_atRest (s : State) : s.fireTerm.core.atRest = s.core.atRest :=
  foldl_keeps (f := fun (c : Core) (e : Nat × Term × Inv) => c.fire e.2.1 e.2.2) Core.atRest (fun c e => c.fire_atRest e.2.1 e.2.2) s.core.firing s.core

theorem Ctx.meetEv_regs (c : Core) (x : Ctx) : (x.meetEv c).s = x.s ∧ (x.meetEv c).pc = x.pc := by
  unfold Ctx.meetEv
  split
  · split <;> exact ⟨rfl, rfl⟩
  · exact ⟨rfl, rfl⟩

theorem Core.meetEvs_atRest (c : Core) : c.meetEvs.atRest = c.atRest :=
  congrArg₂ (fun r p => (r, p, c.halted)) (Ctx.meetEv_regs c c.u0).1 (Ctx.meetEv_regs c c.u0).2

theorem Core.endLigature_atRest (c : Core) : c.endLigature.atRest = c.atRest := by
  unfold Core.endLigature
  split
  · rfl
  · refine (foldl_keeps Core.atRest (fun d w => ?_) c.lig.writes _).trans (foldl_keeps Core.atRest (fun d n => ?_) (List.range 16) c)
    · unfold Core.applyEv
      split <;> rfl
    · simp only [Core.settleEv]
      split <;> rfl

/-- A cycle leaves the first context's registers and address, and a halted core halted. -/
theorem State.tick_atRest (s : State) : s.tick.core.atRest = s.core.atRest := by
  have ht : (if s.core.halted then s else s.fireTerm).core.atRest = s.core.atRest := by
    split
    · rfl
    · exact s.fireTerm_atRest
  exact ((Core.endLigature_atRest _).trans (Core.meetEvs_atRest _)).trans ht

/-- Firing the terms changes neither main memory nor the hub, the agenda or the other cores. -/
theorem State.fireTerm_outside (s : State) : s.fireTerm.mem = s.mem ∧ s.fireTerm.hub = s.hub ∧ s.fireTerm.others = s.others := by
  have h := foldl_keeps (f := fun (t : State) (e : Nat × Term × Inv) => (t.acquireBy (t.partyInv e.2.2) 2 (e.2.1.conds.map (fun w => evKey t.coreId (condCtr w)))).beginAfter
    (t.partyInv e.2.2) (t.partyInv e.2.2)) (fun t => (t.mem, t.hub, t.others)) (fun t e => by simp) s.core.firing s
  obtain ⟨hm, hh, ho⟩ : _ ∧ _ ∧ _ := by simpa only [Prod.mk.injEq] using h
  exact ⟨hm, hh, ho⟩

theorem State.tick_outside (s : State) : s.tick.mem = s.mem ∧ s.tick.hub.cycle = s.hub.cycle + 1 ∧ s.tick.others = s.others := by
  simp only [State.tick]
  split
  · exact ⟨rfl, rfl, rfl⟩
  · obtain ⟨hm, hh, ho⟩ := s.fireTerm_outside
    exact ⟨hm, by rw [hh], ho⟩

/-- The cycles that pass before something of the first rank: one where a later rank has been reached (R142). -/
def State.cyclesTo (s : State) : Nat := if 0 < s.core.rank then 1 else 0

/-- What the beginning of the cycle's slot leaves: its registers, its memory, and the cycles counted. -/
theorem State.atRank_passes (s : State) :
    (s.atRank 0).core.atRest = s.core.atRest ∧ (s.atRank 0).mem = s.mem ∧ (s.atRank 0).others = s.others ∧
    (s.atRank 0).core.cycle = s.core.cycle + BitVec.ofNat 64 s.cyclesTo ∧ (s.atRank 0).hub.cycle = s.hub.cycle + BitVec.ofNat 64 s.cyclesTo := by
  simp only [State.atRank, State.cyclesTo]
  split
  · obtain ⟨hm, hh, ho⟩ := s.tick_outside
    exact ⟨s.tick_atRest, hm, ho, s.tick_clock.2, hh⟩
  · exact ⟨rfl, rfl, rfl, (BitVec.add_zero _).symm, (BitVec.add_zero _).symm⟩

theorem State.atRank_halted (s : State) : (s.atRank 0).core.halted = s.core.halted := congrArg (·.2.2) s.atRank_passes.1

/-! ## The step -/

theorem step_idle {s : State} (h : s.agenda = []) : step s = .next s.runOne := by simp [step, h]

theorem State.runOne_cycle {s : State} (h : s.hwNext = false) : s.runOne = s.cycleStep := by simp [State.runOne, h]

/-- A core that cannot issue lets its slot pass. -/
theorem State.inSlot_idle {s : State} (h : s.core.halted = true ∨ (s.atRank 0).gated = true) :
    s.inSlot State.issueSlot = { s.atRank 0 with core := { (s.atRank 0).core with rank := 4 } } := by
  have hslot : (s.atRank 0).issueSlot = s.atRank 0 := by
    rcases h with h | h
    · simp [State.issueSlot, State.atRank_halted, h]
    · simp [State.issueSlot, h]
  rw [State.inSlot, hslot]

theorem State.passTurn_alone {s : State} (h : s.others = []) : s.passTurn = s := by simp [State.passTurn, h]

/-- Settles O56: with no agenda a step is a move of the hardware or a cycle of the core, and both are functions of the state. -/
theorem stepNeverStops : Obligations.StepNeverStops := by
  intro s ha
  refine ⟨⟨_, step_idle ha⟩, fun hw => ⟨_, step_idle ha, by rw [State.runOne_cycle hw]; rfl⟩, ?_⟩
  rintro n rfl hw hidle ho
  obtain ⟨hq, hmem, hothers, hcycle, hhub⟩ := s.atRank_passes
  have hslot := State.inSlot_idle hidle
  have hturn : (s.inSlot State.issueSlot).passTurn = s.inSlot State.issueSlot := State.passTurn_alone (by rw [hslot]; exact hothers.trans ho)
  refine ⟨{ s.atRank 0 with core := { (s.atRank 0).core with rank := 4 }, hwNext := true }, ?_, ?_, ?_, rfl, hmem, congrArg (·.1) hq, congrArg (·.2.1) hq⟩
  · rw [step_idle ha, State.runOne_cycle hw, State.cycleStep, hturn, hslot]
  · exact (congrArg BitVec.toNat hcycle).trans (by simp [State.cyclesTo])
  · exact (congrArg BitVec.toNat hhub).trans (by simp [State.cyclesTo])

end Sys2Proof.Machine
end

section
/-! PROOFS. The steps of the Ductus for a context that neither records nor replays (R153, R233 to R244). -/

namespace Sys2Proof.Machine

/-! ## What Peek reads -/

/-- Two contexts with one sequence of symbols. -/
structure SameSeq (x y : Ctx) : Prop where
  queue : y.queue = x.queue
  qbase : y.qbase = x.qbase
  ins : y.ins = x.ins
  eotc : y.eotc = x.eotc

theorem SameSeq.placeOf {x y : Ctx} (h : SameSeq x y) : y.placeOf = x.placeOf := by
  funext p
  cases p <;> simp only [Ctx.placeOf, h.queue, h.qbase]

theorem SameSeq.lastGap {x y : Ctx} (h : SameSeq x y) (l : List InsMark) (j : Nat) : y.lastGap l j = x.lastGap l j := by
  induction l with
  | nil => rfl
  | cons e t ih => simp only [Ctx.lastGap, h.placeOf, ih]

theorem SameSeq.itemsFrom {x y : Ctx} (h : SameSeq x y) (j : Nat) (q : List Mark) : y.itemsFrom j q = x.itemsFrom j q := by
  induction q generalizing j with
  | nil => simp only [Ctx.itemsFrom, h.lastGap, h.ins]
  | cons m t ih => simp only [Ctx.itemsFrom, Ctx.gap, h.placeOf, h.ins, ih]

theorem SameSeq.peek1 {x y : Ctx} (h : SameSeq x y) : y.peek1 = x.peek1 := by
  simp only [Ctx.peek1, Ctx.items, h.eotc, h.qbase, h.queue, h.itemsFrom]

/-- The context without its wait, as a step of the Ductus begins with it. -/
abbrev Ctx.unwait (x : Ctx) : Ctx := { x with waiting := none, waited := 0 }

theorem SameSeq.unwait (x : Ctx) (l : List StackEntry) : SameSeq x { x.unwait with stack := l } := ⟨rfl, rfl, rfl, rfl⟩

/-! ## A parse step -/

section Parse

variable {s : State} {u : CtxId}

theorem ductusStep_live {f : State → State} (h : (s.ctxAt u).scroll.mode = 0) : ductusStep f u s = f s := by
  simp [ductusStep, State.recorded, h]

/-- A context that the Ductus may serve: of U-level, not cut and not draining, on a core that is not halted. -/
structure Served (s : State) (u : CtxId) : Prop where
  level : u ≠ .k
  running : s.core.halted = false
  uncut : s.core.isCut u = false
  drains : (s.ctxAt u).drains = false

/-- A context parses: it is in PARSING with a step to take, and no trap freezes it. -/
structure Parses (s : State) (u : CtxId) : Prop where
  served : Served s u
  outside : s.core.inTrap = false
  parsing : (s.ctxAt u).st = .parsing
  unparsed : (s.ctxAt u).parsed = false
  group : (s.ctxAt u).group.isSome = true

theorem State.parseStep_idle (h : Served s u) (hi : s.core.inTrap = true ∨ (s.ctxAt u).st ≠ .parsing ∨ (s.ctxAt u).parsed = true ∨ (s.ctxAt u).group = none) :
    s.parseStep u = s := by
  simp only [State.parseStep, h.running, h.uncut, h.level, h.drains]
  rcases hi with hi | hi | hi | hi <;> simp [hi]

theorem State.parseStep_absent (h : Parses s u) (ha : s.core.lookAhead (s.ctxAt u) = .absent) : s.parseStep u = s := by
  simp [State.parseStep, h.served.running, h.served.uncut, h.served.level, h.served.drains, h.outside, h.parsing, h.unparsed, ha]

theorem State.parseStep_ready (h : Parses s u) (hr : s.core.lookAhead (s.ctxAt u) = .ready) : s.parseStep u = s.parseBody u := by
  have hg : (s.ctxAt u).group.isNone = false := by
    obtain ⟨g, hg⟩ := Option.isSome_iff_exists.1 h.group
    rw [hg]
    rfl
  simp [State.parseStep, h.served.running, h.served.uncut, h.served.level, h.served.drains, h.outside, h.parsing, h.unparsed, hr, hg]

/-! ### The look-ahead -/

variable {c : Core} {x : Ctx} {e : StackEntry} {rest : List StackEntry}

theorem Core.lookAhead_empty (h : dropFrames x.stack = []) : c.lookAhead x = .ready := by simp [Core.lookAhead, Ctx.top, h]

theorem Core.lookAhead_terminal (h : dropFrames x.stack = e :: rest) (hk : e.entry.toNat % 1024 < 16) : c.lookAhead x = x.peek1.look := by
  simp [Core.lookAhead, Ctx.top, h, hk]

theorem Core.lookAhead_nonterminal {m : Mark} (h : dropFrames x.stack = e :: rest) (h1 : 16 ≤ e.entry.toNat % 1024) (h2 : e.entry.toNat % 1024 < 128)
    (hp : x.peek1 = .sym m) (hl : ntLa2 (c.ntEntry (e.entry.toNat % 1024)) = false) : c.lookAhead x = .ready := by
  simp [Core.lookAhead, Ctx.top, h, Nat.not_lt.2 h1, h2, hp, hl, Seen.look]

theorem Core.lookAhead_action (h : dropFrames x.stack = e :: rest) (hk : 128 ≤ e.entry.toNat % 1024) : c.lookAhead x = .ready := by
  simp [Core.lookAhead, Ctx.top, h, Nat.not_lt.2 hk, show ¬ e.entry.toNat % 1024 < 16 by omega]

/-- The production that one mark of look-ahead selects. -/
theorem Core.ptLook_one {w : Word} {m : Mark} (hl : ntLa2 w = false) (b : Seen) : c.ptLook w (.sym m) b = c.ptEntry (ntTable w + 2 * m.toNat) := by
  simp [Core.ptLook, hl]

/-! ### The step itself -/

theorem State.parseBody_empty (h : dropFrames (s.ctxAt u).stack = []) :
    s.parseBody u = s.putCtxAt u (if (s.ctxAt u).eotc then { (s.ctxAt u).unwait with stack := [], parsed := true } else { (s.ctxAt u).unwait with stack := [], st := .mismatch }) := by
  simp only [State.parseBody, h]
  rfl

theorem State.parseBody_terminal (h : dropFrames (s.ctxAt u).stack = e :: rest) (hk : e.entry.toNat % 1024 < 16) :
    s.parseBody u = s.putCtxAt u (if (s.ctxAt u).peek1 = .sym (BitVec.ofNat 4 (e.entry.toNat % 1024)) then Ctx.consume { (s.ctxAt u).unwait with stack := rest }
      else { (s.ctxAt u).unwait with stack := e :: rest, st := .mismatch }) := by
  have hp := (SameSeq.unwait (s.ctxAt u) (e :: rest)).peek1
  simp only [State.parseBody, h, hk, if_true, hp]
  split <;> rfl

theorem State.parseBody_action (h : dropFrames (s.ctxAt u).stack = e :: rest) (hk : 128 ≤ e.entry.toNat % 1024) :
    s.parseBody u = s.putCtxAt u (s.core.startRoutine { (s.ctxAt u).unwait with stack := rest } (e.entry.toNat % 1024) e.prod false) := by
  simp only [State.parseBody, h]
  rw [if_neg (by omega), if_neg (by omega)]

/-- The stack below an expansion: the nonterminal's frame, where it has one, on the rest. -/
def frameBase (w : Word) (n p : Nat) (rest : List StackEntry) : List StackEntry :=
  if ntRec w then (⟨BitVec.ofNat 16 (0x8000 + n), p⟩ : StackEntry) :: rest else rest

theorem frameBase_length (w : Word) (n p : Nat) (rest : List StackEntry) : (frameBase w n p rest).length = rest.length + if ntRec w then 1 else 0 := by
  unfold frameBase
  split <;> rfl

theorem State.parseBody_expand {m : Mark} {p : Nat} (h : dropFrames (s.ctxAt u).stack = e :: rest) (h1 : 16 ≤ e.entry.toNat % 1024) (h2 : e.entry.toNat % 1024 < 128)
    (hp : (s.ctxAt u).peek1 = .sym m) (hl : ntLa2 (s.core.ntEntry (e.entry.toNat % 1024)) = false)
    (hprod : s.core.ptEntry (ntTable (s.core.ntEntry (e.entry.toNat % 1024)) + 2 * m.toNat) = some p) :
    s.parseBody u = if 64 < (frameBase (s.core.ntEntry (e.entry.toNat % 1024)) (e.entry.toNat % 1024) p rest).length + (s.core.prodSyms p).length
      then (s.putCtxAt u { (s.ctxAt u).unwait with stack := e :: rest }).raiseTrap ⟨cStackOverflow, some 1, some (BitVec.ofNat 64 p), none, none⟩ u noPc
      else s.putCtxAt u { (s.ctxAt u).unwait with
        stack := (s.core.prodSyms p).map (fun y => (⟨BitVec.ofNat 16 y, p⟩ : StackEntry)) ++ frameBase (s.core.ntEntry (e.entry.toNat % 1024)) (e.entry.toNat % 1024) p rest } := by
  have hseq := (SameSeq.unwait (s.ctxAt u) (e :: rest)).peek1
  simp only [State.parseBody, h, hseq, hp, Core.ptLook_one hl, hprod, frameBase_length]
  rw [if_neg (by omega), if_pos h2]
  rfl

theorem State.parseBody_no_production {m : Mark} (h : dropFrames (s.ctxAt u).stack = e :: rest) (h1 : 16 ≤ e.entry.toNat % 1024) (h2 : e.entry.toNat % 1024 < 128)
    (hp : (s.ctxAt u).peek1 = .sym m) (hl : ntLa2 (s.core.ntEntry (e.entry.toNat % 1024)) = false)
    (hprod : s.core.ptEntry (ntTable (s.core.ntEntry (e.entry.toNat % 1024)) + 2 * m.toNat) = none) :
    s.parseBody u = s.putCtxAt u { (s.ctxAt u).unwait with stack := e :: rest, st := .mismatch } := by
  have hseq := (SameSeq.unwait (s.ctxAt u) (e :: rest)).peek1
  simp only [State.parseBody, h, hseq, hp, Core.ptLook_one hl, hprod]
  rw [if_neg (by omega), if_pos h2]
  rfl

end Parse

/-! ## Mismatch and recovery -/

section Recovery

variable {s : State} {u : CtxId}

theorem State.joinKeys_of_core {t : State} (hc : t.core.nextInv = s.core.nextInv) (hi : t.coreId = s.coreId) (v : CtxId) : t.joinKeys v = s.joinKeys v := by
  simp only [State.joinKeys, hc, hi]

/-- A trap of a mismatch, whatever of the core's invocations is unchanged. -/
theorem State.grammarTrap_putCtxAt (s : State) (u : CtxId) (y : Ctx) :
    (s.putCtxAt u y).grammarTrap u = ((s.putCtxAt u y).acquire .k 3 (s.joinKeys u)).raiseTrap ⟨cGrammarMismatch, some 0, some (y.frecWord 1), none, none⟩ u noPc := by
  rw [State.grammarTrap, State.putCtxAt_ctxAt, State.joinKeys_of_core (s := s) (t := s.putCtxAt u y) (by simp) rfl]
  rfl

theorem State.mismatchWrite_idle (h : (s.ctxAt u).st ≠ .mismatch ∨ (s.ctxAt u).parsed = true ∨ (∃ v ∈ s.core.invs, v.ctx = u ∧ v.st ≠ .discarded) ∨ (s.ctxAt u).peek1 = .absent) :
    s.mismatchWrite u = s := by
  simp only [State.mismatchWrite]
  split
  · rfl
  · next hg =>
    simp only [Bool.or_eq_true, decide_eq_true_eq, Bool.not_eq_true', not_or, Bool.not_eq_true, Bool.not_eq_false] at hg
    obtain ⟨⟨⟨⟨⟨hst, -⟩, hparsed⟩, -⟩, hinvs⟩, -⟩ := hg
    rcases h with h | h | ⟨v, hv, hvu, hvs⟩ | h
    · exact absurd h hst
    · rw [h] at hparsed
      cases hparsed
    · have hmem : v ∈ s.core.pendingInvs u := by simp [Core.pendingInvs, hv, hvu, hvs]
      rw [List.isEmpty_iff.1 hinvs] at hmem
      cases hmem
    · rw [h]

/-- The context at the end of its mismatch, its record written. -/
abbrev State.recordedCtx (s : State) (u : CtxId) : Ctx := { s.ctxAt u with frec := s.core.faultRecord (s.ctxAt u), waiting := none, waited := 0 }

/-- A context's mismatch ends: nothing that it issued is pending and Peek(1) is present. -/
structure Ends (s : State) (u : CtxId) : Prop where
  served : Served s u
  live : (s.ctxAt u).scroll.mode = 0
  mismatch : (s.ctxAt u).st = .mismatch
  unparsed : (s.ctxAt u).parsed = false
  done : ∀ v ∈ s.core.invs, v.ctx = u → v.st = .discarded
  peek : (∃ m, (s.ctxAt u).peek1 = .sym m) ∨ (s.ctxAt u).peek1 = .stop

theorem Ends.guard (h : Ends s u) :
    ¬ ((s.ctxAt u).st ≠ .mismatch || (s.ctxAt u).scroll.mode = 2 || (s.ctxAt u).parsed || s.core.isCut u || !(s.core.pendingInvs u).isEmpty || s.core.halted) = true := by
  have hinvs : (s.core.pendingInvs u).isEmpty = true := by
    simp only [Core.pendingInvs, List.isEmpty_iff, List.filter_eq_nil_iff, Bool.and_eq_true, decide_eq_true_eq, not_and, not_not]
    exact h.done
  simp [h.mismatch, h.live, h.unparsed, h.served.uncut, hinvs, h.served.running]

theorem Ctx.topFrame_frec (x : Ctx) (f : BitVec 256) (w : Option Wait) (n : Nat) : Ctx.topFrame { x with frec := f, waiting := w, waited := n } = x.topFrame := rfl

theorem State.recordedCtx_topFrame (s : State) (u : CtxId) : (s.recordedCtx u).topFrame = (s.ctxAt u).topFrame := Ctx.topFrame_frec _ _ _ _

theorem State.mismatchWrite_recovers {f : StackEntry} (h : Ends s u) (hf : (s.ctxAt u).topFrame = some f) :
    s.mismatchWrite u = (s.acquire u 4 (s.joinKeys u)).putCtxAt u { s.ctxAt u with frec := s.core.faultRecord (s.ctxAt u), waiting := none, waited := 0, st := .recovering } := by
  simp only [State.mismatchWrite]
  rw [if_neg h.guard]
  obtain ⟨m, hk⟩ | hk := h.peek <;> simp only [hk, State.recordedCtx_topFrame, hf]

theorem State.mismatchWrite_traps (h : Ends s u) (hf : (s.ctxAt u).topFrame = none) :
    s.mismatchWrite u = ((s.acquire u 4 (s.joinKeys u)).putCtxAt u (s.recordedCtx u)).grammarTrap u := by
  simp only [State.mismatchWrite]
  rw [if_neg h.guard]
  obtain ⟨m, hk⟩ | hk := h.peek <;> simp only [hk, State.recordedCtx_topFrame, hf]

theorem State.recoveryStep_idle (h : (s.ctxAt u).st ≠ .recovering ∨ (s.ctxAt u).parsed = true ∨ s.core.inTrap = true) : s.recoveryStep u = s := by
  simp only [State.recoveryStep]
  rcases h with h | h | h <;> simp [h]

/-- A context recovers: no trap freezes it. -/
structure Recovers (s : State) (u : CtxId) : Prop where
  served : Served s u
  recovering : (s.ctxAt u).st = .recovering
  unparsed : (s.ctxAt u).parsed = false
  outside : s.core.inTrap = false

theorem State.recoveryStep_counted (h : Recovers s u) (hd : (s.ctxAt u).errDone = true) :
    s.recoveryStep u = s.putCtxAt u (Ctx.countRecovery { (s.ctxAt u).unwait with st := .parsing, errDone := false }) := by
  simp [State.recoveryStep, h.served.running, h.served.uncut, h.recovering, h.unparsed, h.outside, hd]

/-- A context recovers below a frame, its error action not yet done. -/
structure Searches (s : State) (u : CtxId) (f : StackEntry) : Prop extends Recovers s u where
  pending : (s.ctxAt u).errDone = false
  frame : (s.ctxAt u).topFrame = some f

theorem Searches.guard {f : StackEntry} (h : Searches s u f) :
    ¬ ((s.ctxAt u).unwait.st ≠ .recovering || (s.ctxAt u).unwait.parsed || s.core.inTrap || s.core.halted || s.core.isCut u) = true := by
  simp [h.recovering, h.unparsed, h.outside, h.served.running, h.served.uncut]

theorem Ctx.unwait_topFrame (x : Ctx) : x.unwait.topFrame = x.topFrame := rfl

theorem Ctx.unwait_peek1 (x : Ctx) : x.unwait.peek1 = x.peek1 := (SameSeq.unwait x x.stack).peek1

theorem State.recoveryStep_sym {f : StackEntry} {m : Mark} (h : Searches s u f) (hm : (s.ctxAt u).peek1 = .sym m) :
    s.recoveryStep u = if ntSync (s.core.ntEntry (f.entry.toNat % 1024)) m then s.putCtxAt u (s.core.recovered (s.ctxAt u).unwait f)
      else if m = mEOT then (s.putCtxAt u (s.ctxAt u).unwait.setEotr).grammarTrap u
      else s.putCore ((s.core.putCtx u (s.ctxAt u).unwait).skipSymbol u) := by
  simp only [State.recoveryStep]
  rw [if_neg h.guard, if_neg (Bool.eq_false_iff.1 h.pending)]
  simp only [Ctx.unwait_topFrame, h.frame, Ctx.unwait_peek1, hm]

theorem State.recoveryStep_stop {f : StackEntry} (h : Searches s u f) (hm : (s.ctxAt u).peek1 = .stop) :
    s.recoveryStep u = (s.putCtxAt u (s.ctxAt u).unwait.setEotr).grammarTrap u := by
  simp only [State.recoveryStep]
  rw [if_neg h.guard, if_neg (Bool.eq_false_iff.1 h.pending)]
  simp only [Ctx.unwait_topFrame, h.frame, Ctx.unwait_peek1, hm]

end Recovery

/-! ## Arrivals -/

section Arrival

variable {s : State} {u : CtxId} {i : Nat} {m : Mark} {tl : List Mark}

theorem Core.startInterval_keeps (c : Core) (n : Nat) : (c.startInterval n).ports = c.ports ∧ ∀ v, (c.startInterval n).ctxOf v = c.ctxOf v := by
  have h : ∀ (d : Core) (k : Nat), (d.note n k).ports = d.ports ∧ ∀ v, (d.note n k).ctxOf v = d.ctxOf v := fun d k => by
    unfold Core.note
    split
    · exact ⟨rfl, fun _ => rfl⟩
    · exact ⟨rfl, fun v => by cases v <;> rfl⟩
  obtain ⟨h1, h2⟩ := h { c with snaps := if (SMap.get [] c.live n).isEmpty then c.snaps else SMap.set [] c.snaps n (SMap.get [] c.live n), live := SMap.set [] c.live n (List.replicate 12 0) } 1
  exact ⟨h1, fun v => (h2 v).trans (by cases v <;> rfl)⟩

/-- The ports once a symbol has left port i. -/
abbrev Core.marksLeft (c : Core) (i : Nat) (tl : List Mark) : Core :=
  { c with ports := SMap.set Port.reset c.ports i { SMap.get Port.reset c.ports i with outMarks := tl } }

theorem State.markArrival_eq (hl : s.core.leadPort u = some i) (hm : (s.port i).outMarks = m :: tl) (hg : (s.ctxAt u).group.isSome = true) :
    s.markArrival u = if 64 ≤ (s.ctxAt u).queue.length then s else s.putCore (if m = mCFG then (s.core.marksLeft i tl).startInterval i
      else (s.core.marksLeft i tl).putCtx u (if (s.ctxAt u).drained then s.ctxAt u else { s.ctxAt u with queue := (s.ctxAt u).queue ++ [m] })) := by
  have hg' : (s.ctxAt u).group ≠ none := Option.isSome_iff_ne_none.1 hg
  have hm' : (SMap.get Port.reset s.core.ports i).outMarks = m :: tl := hm
  simp [State.markArrival, hl, hm', hg']

theorem Core.marksLeft_port (c : Core) (i : Nat) (tl : List Mark) : (SMap.get Port.reset (c.marksLeft i tl).ports i).outMarks = tl := by simp

theorem Core.marksLeft_ctxOf (c : Core) (i : Nat) (tl : List Mark) (v : CtxId) : (c.marksLeft i tl).ctxOf v = c.ctxOf v := by cases v <;> rfl

theorem State.putCore_port (s : State) (c : Core) (i : Nat) : (s.putCore c).port i = SMap.get Port.reset c.ports i := rfl

end Arrival

/-- Settles O42: each step by the condition under which its function takes the branch, for a context whose step recording and replaying leave alone. -/
theorem ductusSteps : Obligations.DuctusSteps := by
  rintro n s x rfl hmode hh hcut hdr
  have hs : Served s (uCtx n.toNat) := ⟨uCtx_ne_k _, hh, hcut, hdr⟩
  have hparse : s.gated = false → exec (.parseStep n) s = .next (s.parseStep (uCtx n.toNat)) := fun hg =>
    congrArg Host.Outcome.next ((if_neg (Bool.eq_false_iff.1 hg)).trans (ductusStep_live hmode))
  have hrecover : s.gated = false → exec (.recoveryStep n) s = .next (s.recoveryStep (uCtx n.toNat)) := fun hg =>
    congrArg Host.Outcome.next ((if_neg (Bool.eq_false_iff.1 hg)).trans (ductusStep_live hmode))
  have hwrite : exec (.mismatchRecordWrite n) s = .next (s.mismatchWrite (uCtx n.toNat)) := congrArg Host.Outcome.next (ductusStep_live hmode)
  have harrive : exec (.markArrival n) s = .next (s.markArrival (uCtx n.toNat)) := rfl
  have hage : exec (.contextAged n) s = execContextAged n s := rfl
  dsimp only
  simp only [execContextAged] at hage
  generalize uCtx n.toNat = u at *
  refine ⟨fun hi => ?idle, fun hg hi hst hp hgr => ?parse, fun hi => ?unwritten, fun hst hp hi hk => ?mismatch, fun hi => ?unrecovered, fun hg hst hp hi hd => ?counted,
    fun f hg hst hp hi hd hf => ?recover, fun i m tl hl hm hgr => ?arrival, ?aged⟩
  case idle =>
    by_cases hg : s.gated = true
    · exact congrArg Host.Outcome.next (if_pos hg)
    · rw [hparse (Bool.eq_false_iff.2 hg), State.parseStep_idle hs (hi.resolve_left hg)]
  case parse =>
    have hpar : Parses s u := ⟨hs, hi, hst, hp, hgr⟩
    have hready : ∀ {t : State}, s.core.lookAhead (s.ctxAt u) = .ready → s.parseBody u = t → exec (.parseStep n) s = .next t := fun hr hb => by
      rw [hparse hg, State.parseStep_ready hpar hr, hb]
    refine ⟨fun he ht => ?_, fun he ht => ?_, ?_⟩
    · exact hready (Core.lookAhead_empty he) ((State.parseBody_empty he).trans (congrArg _ (if_pos ht)))
    · exact hready (Core.lookAhead_empty he) ((State.parseBody_empty he).trans (congrArg _ (if_neg (Bool.eq_false_iff.1 ht))))
    · rintro e rest k he rfl
      refine ⟨fun m hk hm => ?_, fun hk hm => ?_, fun hk hm => ?_, ?_, fun m h1 h2 hm hl hn => ?_, fun hk => ?_⟩
      · rw [hready ((Core.lookAhead_terminal he hk).trans (by rw [hm]; rfl)) (State.parseBody_terminal he hk), hm]
        have hiff : Seen.sym m = .sym (BitVec.ofNat 4 (e.entry.toNat % 1024)) ↔ m.toNat = e.entry.toNat % 1024 := by
          rw [Seen.sym.injEq, ← BitVec.toNat_inj, BitVec.toNat_ofNat, Nat.mod_eq_of_lt (by omega)]
        simp only [hiff]
        split <;> rfl
      · rw [hready ((Core.lookAhead_terminal he hk).trans (by rw [hm]; rfl)) (State.parseBody_terminal he hk), hm]
        rfl
      · rw [hparse hg, State.parseStep_absent hpar ((Core.lookAhead_terminal he hk).trans (by rw [hm]; rfl))]
      · rintro m p syms base h1 h2 hm hl hprod rfl rfl
        have hb := State.parseBody_expand he h1 h2 hm hl hprod
        exact ⟨fun hfit => hready (Core.lookAhead_nonterminal he h1 h2 hm hl) (hb.trans (if_neg (not_lt.2 hfit))),
          fun hover => hready (Core.lookAhead_nonterminal he h1 h2 hm hl) (hb.trans (if_pos hover))⟩
      · exact hready (Core.lookAhead_nonterminal he h1 h2 hm hl) (State.parseBody_no_production he h1 h2 hm hl hn)
      · exact hready (Core.lookAhead_action he hk) (State.parseBody_action he hk)
  case unwritten => rw [hwrite, State.mismatchWrite_idle hi]
  case mismatch =>
    have he : Ends s u := ⟨hs, hmode, hst, hp, hi, hk⟩
    refine ⟨fun hf => ?_, fun hf => ?_⟩
    · obtain ⟨f, hf⟩ := Option.isSome_iff_exists.1 hf
      rw [hwrite, State.mismatchWrite_recovers he hf]
    · rw [hwrite, State.mismatchWrite_traps he hf, State.grammarTrap_putCtxAt, State.joinKeys_of_core (s := s) (t := s.acquire u 4 (s.joinKeys u)) (by simp) (by simp)]
  case unrecovered =>
    by_cases hg : s.gated = true
    · exact congrArg Host.Outcome.next (if_pos hg)
    · rw [hrecover (Bool.eq_false_iff.2 hg), State.recoveryStep_idle (hi.resolve_left hg)]
  case counted => rw [hrecover hg, State.recoveryStep_counted ⟨hs, hst, hp, hi⟩ hd]
  case recover =>
    have hb : Searches s u f := ⟨⟨hs, hst, hp, hi⟩, hd, hf⟩
    refine ⟨fun m hm hsync heot => ?_, fun m hm hsync => ?_, fun hstop => ?_⟩
    · rw [hrecover hg, State.recoveryStep_sym hb hm, if_neg (Bool.eq_false_iff.1 hsync), if_neg heot]
    · rw [hrecover hg, State.recoveryStep_sym hb hm, if_pos hsync]
    · rcases hstop with hm | ⟨hm, hsync⟩
      · rw [hrecover hg, State.recoveryStep_stop hb hm]
        exact congrArg Host.Outcome.next (State.grammarTrap_putCtxAt s u _)
      · rw [hrecover hg, State.recoveryStep_sym hb hm, if_neg (Bool.eq_false_iff.1 hsync), if_pos rfl]
        exact congrArg Host.Outcome.next (State.grammarTrap_putCtxAt s u _)
  case arrival =>
    have hb := harrive.trans (congrArg Host.Outcome.next (State.markArrival_eq hl hm hgr))
    refine ⟨fun hq => ?_, fun hq hm6 hd => ?_, fun hq hm6 => ?_⟩
    · rw [hb, if_pos hq]
    · rw [if_neg (not_le.2 hq), if_neg hm6, hd] at hb
      refine ⟨_, hb, ?_, ?_⟩
      · exact Core.ctxOf_putCtx _ _ _
      · rw [State.putCore_port, Core.putCtx_ports, Core.marksLeft_port]
    · rw [if_neg (not_le.2 hq), if_pos hm6] at hb
      obtain ⟨hports, hctx⟩ := (s.core.marksLeft i tl).startInterval_keeps i
      refine ⟨_, hb, (hctx u).trans (Core.marksLeft_ctxOf _ _ _ u), ?_⟩
      rw [State.putCore_port, hports, Core.marksLeft_port]
  case aged =>
    rw [hage]
    refine congrArg Host.Outcome.next (if_congr ?_ rfl rfl)
    simp only [Bool.and_eq_true, Bool.not_eq_true', decide_eq_true_eq, hh, and_assoc, true_and]

end Sys2Proof.Machine
end

section
/-! PROOFS. Waiting traps, interrupts, generator faults and the watchdog are taken in their turn (R161, R308, R311 to R313, R328, R329). -/

namespace Sys2Proof.Machine

/-! ## What entering a handler leaves -/

/-- The registers of a core that a trap writes, and what waits on it. -/
def Core.trapRegs (c : Core) : (Bool × Word × Word × BitVec 9) × (Word × Word × Word × Word) × List Irq × List PendingTrap :=
  ((c.inTrap, c.kcause, c.kepc, c.asid), (c.kaux0, c.kaux1, c.kaux2, c.kaux3), c.irqs, c.pend)

/-- What entering a handler leaves: the registers just saved and main memory, and on a core that still runs the K context and the U contexts as they were. -/
structure Handles (s t : State) : Prop where
  regs : t.core.trapRegs = s.core.trapRegs
  mem : t.mem = s.mem
  running : t.core.halted = false → t.core.cur = .k ∧ ∀ v, v ≠ .k → t.ctxAt v = s.ctxAt v

theorem State.foldl_putDies_mem (f : State → Nat → Die) (l : List Nat) (s : State) : (l.foldl (fun t i => t.putDie i (f t i)) s).mem = s.mem :=
  foldl_keeps (f := fun (t : State) i => t.putDie i (f t i)) State.mem (fun _ _ => rfl) l s

theorem Handles.halt {s r : State} (hc : r.core.trapRegs = s.core.trapRegs) (hm : r.mem = s.mem) (cause : BitVec 5) (kepc aux1 : Word) : Handles s (r.halt cause kepc aux1) where
  regs := hc
  mem := by
    simp only [State.halt]
    rw [State.foldl_putDies_mem]
    exact (r.margin_keeps State.mem (fun _ _ _ => rfl) ..).trans hm
  running := fun h => Bool.noConfusion (h : true = false)

theorem State.enterHandler_handles (s : State) (cause : BitVec 5) : Handles s (s.enterHandler cause) := by
  simp only [State.enterHandler]
  split
  · split
    · exact .halt (s.margin_keeps (·.core.trapRegs) (fun _ _ _ => rfl) ..) (s.margin_keeps (·.mem) (fun _ _ _ => rfl) ..) _ _ _
    · exact .halt rfl rfl _ _ _
  · next h =>
    have hok := accessParts_ok h
    split
    · exact .halt rfl rfl _ _ _
    · exact ⟨(congrArg Core.trapRegs hok.core :), hok.mem, fun _ => ⟨rfl, fun v hv => Core.ctxOf_enter hok.core hv _⟩⟩

/-- What taking a trap leaves: the registers of its class, main memory, what waits, and the U contexts of a core that still runs. -/
structure Entered (s : State) (i : TrapInfo) (cause kepc : Word) (asid : BitVec 9) (t : State) : Prop where
  inTrap : t.core.inTrap = true
  kcause : t.core.kcause = cause
  kepc : t.core.kepc = kepc
  asid : t.core.asid = asid
  mem : t.mem = s.mem
  aux0 : ∀ w, i.aux0 = some w → t.core.kaux0 = w
  aux1 : ∀ w, i.aux1 = some w → t.core.kaux1 = w
  aux2 : ∀ w, i.aux2 = some w → t.core.kaux2 = w
  aux3 : ∀ w, i.aux3 = some w → t.core.kaux3 = w
  irqs : t.core.irqs = s.core.irqs
  pend : t.core.pend = s.core.pend
  running : t.core.halted = false → t.core.cur = .k ∧ ∀ v, v ≠ .k → t.ctxAt v = s.ctxAt v

theorem State.takeTrap_entered (s : State) (i : TrapInfo) (ctx : Nat) (inv irq : Bool) (kepc : Word) (ilen : Nat) (asid : BitVec 9) :
    Entered s i (kcauseWord i.cause ctx inv irq ilen) kepc asid (s.takeTrap i ctx inv irq kepc ilen asid) := by
  obtain ⟨hregs, hmem, hrun⟩ := State.enterHandler_handles
    { s with core := s.core.saveTrap (kcauseWord i.cause ctx inv irq ilen) kepc asid (i.fill s.free), free := s.free + 4 } i.cause
  simp only [Core.trapRegs, Prod.mk.injEq] at hregs
  obtain ⟨⟨h1, h2, h3, h4⟩, ⟨h5, h6, h7, h8⟩, h9, h10⟩ := hregs
  exact {
    inTrap := h1
    kcause := h2
    kepc := h3
    asid := h4
    mem := hmem
    aux0 := fun w h => h5.trans (getD_of_some h)
    aux1 := fun w h => h6.trans (getD_of_some h)
    aux2 := fun w h => h7.trans (getD_of_some h)
    aux3 := fun w h => h8.trans (getD_of_some h)
    irqs := h9
    pend := h10
    running := fun h => ⟨(hrun h).1, fun v hv => ((hrun h).2 v hv).trans (Core.ctxOf_saveTrap _ _ _ _ _ v)⟩ }

/-- KCAUSE of a trap of a context, with INV and IRQ, of no instruction (R308). -/
theorem kcauseWord_flags (cause : BitVec 5) {ctx : Nat} (h : ctx < 8) (inv irq : Bool) :
    (kcauseWord cause ctx inv irq 0).toNat = cause.toNat + (if inv then 256 else 0) + (if irq then 512 else 0) + ctx * 1024 := by
  have hc := cause.isLt
  have h1 : (if inv then 256 else 0) ≤ 256 := by split <;> omega
  have h2 : (if irq then 512 else 0) ≤ 512 := by split <;> omega
  simp only [kcauseWord, BitVec.toNat_ofNat, Nat.mod_eq_of_lt h]
  omega

/-! ## The turn of each -/

section Turn

variable {s : State}

theorem State.takePending_turn {p : PendingTrap} (hc : s.canTrap = true) (hp : firstPending s.core.pend = some p) :
    s.takePending = (s.putCore { s.core with pend := s.core.pend.erase p }).takeTrap p.info p.ctx.toNat false false p.kepc 0 p.asid := by
  simp only [State.takePending, hp, hc, if_true]

theorem State.takePending_not (h : s.canTrap = false) : s.takePending = s := by
  unfold State.takePending
  split
  · rfl
  · rw [h]
    rfl

theorem State.deliverIrq_turn {i : Irq} {tl : List Irq} (hc : s.canInterrupt = true) (hi : s.core.irqs = i :: tl) :
    s.deliverIrq = ((s.putCore { s.core with irqs := tl }).acquire .k 0 [irqKey s.coreId]).takeTrap ⟨0, some (i.source.setWidth 64), some i.aux1, some i.aux2, none⟩ 7 false true noPc 0 s.core.asid := by
  simp only [State.deliverIrq, hi, hc, if_true]

theorem State.deliverIrq_not (h : s.canInterrupt = false) : s.deliverIrq = s := by
  unfold State.deliverIrq
  split
  · rfl
  · rw [h]
    rfl

theorem State.deliverFault_turn {p : Pending} {v : Inv} (hc : s.canDeliver = true) (hp : firstFault s.core.pendingFaults = some p) (hv : p.inv = some v) :
    s.deliverFault = (({ s with free := s.free + 1 } : State).putCore (s.core.delivered p)).takeTrap
      ⟨p.fault.cause, some p.fault.aux0, some p.fault.aux1, some (iterationVector p.fault (some v)).1, some (iterationVector p.fault (some v)).2⟩ (ctxNum v.ctx) true false v.pc 0 v.asid := by
  simp only [State.deliverFault, hc, hp, faultContext, hv]
  rfl

theorem State.deliverFault_not (h : s.canDeliver = false) : s.deliverFault = s := by simp [State.deliverFault, h]

theorem invUnit_lt (v : Inv) : invUnit v < 8 := by
  unfold invUnit unitOf
  repeat' split
  all_goals decide

theorem iteration_fits {a u p q : Nat} (ha : a < 256) (hu : u < 8) (hp : p < 512) (hq : q < 2 ^ 32) : (a + u * 2 ^ 20 + p * 2 ^ 23 + q * 2 ^ 32) / 2 ^ 32 % 2 ^ 32 = q := by omega

/-- KAUX3[63:32] is the iteration vector's position (R311). -/
theorem iterationVector_pos (f : GenFault) (v : Inv) : (iterationVector f (some v)).2.extractLsb' 32 32 = v.pos := by
  apply BitVec.eq_of_toNat_eq
  refine (toNat_extractLsb'_ofNat (by decide)).trans (iteration_fits ?_ (invUnit_lt v) ?_ v.pos.isLt)
  · exact Nat.mod_lt _ (by decide)
  · exact Nat.mod_lt _ (by decide)

/-! ### The watchdog -/

theorem mem_uCtxs (n : Nat) : uCtx n ∈ uCtxs := by
  unfold uCtx
  split <;> decide

theorem ctxNum_uCtx (n : BitVec 2) : ctxNum (uCtx n.toNat) = n.toNat := by
  revert n
  decide

variable {u : CtxId}

theorem Core.expired_running (h : s.core.expired u = true) : s.core.inTrap = false := by
  simp only [Core.expired, Bool.and_eq_true, Bool.not_eq_true'] at h
  exact h.1.2

/-- The trap of an expired watchdog. -/
def State.watchdogInfo (s : State) (u : CtxId) : TrapInfo :=
  ⟨cWatchdog, if (s.ctxAt u).parsed then none else ((s.ctxAt u).waiting.getD .mark).code, none, none, none⟩

theorem State.watchdog_turn (he : s.core.expired u = true) (hf : s.watchdogFirst u = true) :
    s.watchdog u = (s.putCtxAt u ((s.ctxAt u).trap (s.watchdogInfo u))).takeTrap (s.watchdogInfo u) (ctxNum u) false false
      (if (s.ctxAt u).st = .action then (s.ctxAt u).pc else noPc) 0 (s.asidOf u) := by
  simp only [State.watchdog, he, hf, State.raiseTrap, Core.expired_running he]
  rfl

theorem State.watchdog_not (h : s.core.wdx = 0 ∨ (s.ctxAt u).waited < 2 ^ (s.core.wdx.toNat + 15) ∨ s.core.inTrap = true ∨ s.watchdogFirst u = false) : s.watchdog u = s := by
  refine if_neg fun hg => ?_
  simp only [Core.expired, Bool.and_eq_true, decide_eq_true_eq, Bool.not_eq_true'] at hg
  obtain ⟨⟨⟨⟨⟨⟨⟨-, hwdx⟩, -⟩, -⟩, hwaited⟩, htrap⟩, -⟩, hfirst⟩ := hg
  rcases h with h | h | h | h
  · exact hwdx h
  · exact absurd h (not_lt.2 hwaited)
  · rw [h] at htrap
    cases htrap
  · rw [h] at hfirst
    cases hfirst

/-- An expired watchdog comes before an interrupt (R313). -/
theorem State.canInterrupt_expired {n : Nat} (h : s.core.expired (uCtx n) = true) : s.canInterrupt = false := by
  have hb : s.core.expiredBefore 10 = true := by
    refine List.any_eq_true.2 ⟨uCtx n, mem_uCtxs n, ?_⟩
    have hn := ctxNum_lt (uCtx n)
    rw [h, Bool.true_and, decide_eq_true_eq]
    omega
  simp [State.canInterrupt, hb]

theorem State.canTrap_empty (h : s.core.pend = []) : s.canTrap = false := by simp [State.canTrap, h, firstPending]

end Turn

/-- Settles O43: each is taken by one trap entry when its turn has come, and its function is the identity before. -/
theorem trapDelivery : Obligations.TrapDelivery := by
  intro s entered
  refine ⟨fun h => ?_, fun p hc hp => ?_, fun h => ?_, fun i tl hc hi => ?_, fun h => ?_, fun p v hc hp hv => ?_, fun n u hu => ⟨fun h => ?_, fun he hf => ?_⟩, fun hp n he => ?_⟩
  · exact congrArg Host.Outcome.next (State.takePending_not h)
  · have ht := State.takeTrap_entered (s.putCore { s.core with pend := s.core.pend.erase p }) p.info p.ctx.toNat false false p.kepc 0 p.asid
    refine ⟨_, congrArg Host.Outcome.next (State.takePending_turn hc hp), ⟨ht.inTrap, ?_, ht.kepc, ht.asid, ht.mem, fun h => (ht.running h).1⟩, ht.pend, ht.aux0, ht.aux1⟩
    rw [ht.kcause, kcauseWord_flags _ p.ctx.isLt]
    rfl
  · exact congrArg Host.Outcome.next (State.deliverIrq_not h)
  · have ht := State.takeTrap_entered ((s.putCore { s.core with irqs := tl }).acquire .k 0 [irqKey s.coreId]) ⟨0, some (i.source.setWidth 64), some i.aux1, some i.aux2, none⟩ 7 false true noPc 0 s.core.asid
    refine ⟨_, congrArg Host.Outcome.next (State.deliverIrq_turn hc hi), ⟨ht.inTrap, ?_, ht.kepc, ht.asid, ht.mem.trans (State.acquire_mem ..), fun h => (ht.running h).1⟩, ?_, ht.aux0 _ rfl, ht.aux1 _ rfl, ht.aux2 _ rfl⟩
    · rw [ht.kcause]
      exact (by decide : (kcauseWord 0 7 false true 0).toNat = 512 + 7 * 1024)
    · rw [ht.irqs, State.acquire_core]
      rfl
  · exact congrArg Host.Outcome.next (State.deliverFault_not h)
  · have ht := State.takeTrap_entered (({ s with free := s.free + 1 } : State).putCore (s.core.delivered p))
      ⟨p.fault.cause, some p.fault.aux0, some p.fault.aux1, some (iterationVector p.fault (some v)).1, some (iterationVector p.fault (some v)).2⟩ (ctxNum v.ctx) true false v.pc 0 v.asid
    have h3 := ht.aux3 _ rfl
    refine ⟨_, congrArg Host.Outcome.next (State.deliverFault_turn hc hp hv), ⟨ht.inTrap, ?_, ht.kepc, ht.asid, ht.mem, fun h => (ht.running h).1⟩, ht.aux0 _ rfl, ht.aux1 _ rfl, ht.aux2 _ rfl, h3, ?_⟩
    · rw [ht.kcause, kcauseWord_flags _ (ctxNum_lt v.ctx)]
      rfl
    · rw [h3, iterationVector_pos]
  · rw [hu] at h
    exact congrArg Host.Outcome.next (State.watchdog_not h)
  · subst hu
    have ht := State.takeTrap_entered (s.putCtxAt (uCtx n.toNat) ((s.ctxAt (uCtx n.toNat)).trap (s.watchdogInfo (uCtx n.toNat)))) (s.watchdogInfo (uCtx n.toNat)) (ctxNum (uCtx n.toNat)) false false
      (if (s.ctxAt (uCtx n.toNat)).st = .action then (s.ctxAt (uCtx n.toNat)).pc else noPc) 0 (s.asidOf (uCtx n.toNat))
    refine ⟨_, congrArg Host.Outcome.next (State.watchdog_turn he hf), ⟨ht.inTrap, ?_, ht.kepc, ht.asid, ht.mem, fun h => (ht.running h).1⟩, fun h => ?_, fun hp w k hk hw => ht.aux0 _ ?_⟩
    · rw [ht.kcause, kcauseWord_flags _ (ctxNum_lt _), ctxNum_uCtx]
      rfl
    · rw [(ht.running h).2 _ (uCtx_ne_k _), State.putCtxAt_ctxAt]
      rfl
    · simp only [State.watchdogInfo, hp, hw]
      fin_cases hk <;> rfl
  · exact ⟨State.canTrap_empty hp, State.canInterrupt_expired he⟩

end Sys2Proof.Machine
end

section
/-! PROOFS. Starts and ends of invocations, the terms that fire, and the accesses of ports (R32, R34, R42, R43, R136, R142, R158, R295, R342). -/

namespace Sys2Proof.Machine

/-! ## Starts and ends -/

section Invocations

variable {s : State} {id : Nat} {v : Inv}

theorem State.startInv_none (h : s.core.inv id = none) : s.startInv id = s := by simp only [State.startInv, h]

theorem State.commitInv_none (h : s.core.inv id = none) : s.commitInv id = s := by simp only [State.commitInv, h]

theorem State.startInv_not (h : s.core.inv id = some v) (hn : v.st ≠ .queued ∨ v.held = true ∨ s.core.halted = true ∨ s.gated = true) : s.startInv id = s := by
  have hc : canStart s v = false := by
    rcases hn with hn | hn | hn | hn <;> simp [canStart, hn]
  simp [State.startInv, h, hc]

theorem State.startInv_runs (h : s.core.inv id = some v) (hc : canStart s v = true) (hb : startBreach s v = none) :
    s.startInv id = (s.putInv { v with st := .running }).markBusy v := by
  simp [State.startInv, h, hc, hb]

theorem State.startInv_discards {i : TrapInfo} (h : s.core.inv id = some v) (hc : canStart s v = true) (hb : startBreach s v = some i) :
    s.startInv id = s.discard v i noTile := by
  simp [State.startInv, h, hc, hb]

theorem State.commitInv_not (h : s.core.inv id = some v) (hn : v.st ≠ .running ∨ v.waitsStorage ≠ none) : s.commitInv id = s := by
  have hc : canCommit s v = false := by
    rcases hn with hn | hn
    · simp [canCommit, hn]
    · obtain ⟨w, hw⟩ := Option.ne_none_iff_exists'.1 hn
      simp [canCommit, hw]
  simp [State.commitInv, h, hc]

theorem State.commitInv_ends (h : s.core.inv id = some v) (hc : canCommit s v = true) : s.commitInv id = (s.atRank v.rank).endInv v := by
  simp [State.commitInv, h, hc]

theorem State.atRank_now {r : Nat} (h : s.core.rank ≤ r) : (s.atRank r).core.cycle = s.core.cycle := by
  simp only [State.atRank, if_neg (not_lt.2 h)]

theorem State.atRank_next {r : Nat} (h : r < s.core.rank) : (s.atRank r).core.cycle = s.core.cycle + 1 := by
  simp only [State.atRank, if_pos h]
  exact s.tick_clock.2

end Invocations

/-! ## The terms that fire -/

section Ligature

/-- What holds of a term that fires, where the counters `subs` have been subtracted from and the engines `engines` started. -/
structure Fires (c : Core) (subs engines : List Nat) (e : Nat × Term × Inv) : Prop where
  mem : e.2.2 ∈ c.invs
  held : e.2.2.held = true
  queued : e.2.2.st = .queued
  unit : unitOf e.2.2.op = e.2.1.eng.toNat
  term : e.2.1 = SMap.get Term.reset c.terms e.1
  configured : e.2.1.configured = true
  reached : ∀ w ∈ e.2.1.conds, condThr w ≤ c.evCount (condCtr w)
  unused : ∀ w ∈ e.2.1.conds, condCtr w ∉ subs
  idle : e.2.1.eng.toNat ∉ engines

theorem Fires.weaken {c : Core} {subs engines subs' engines' : List Nat} {e : Nat × Term × Inv} (h : Fires c subs' engines' e) (hs : subs ⊆ subs') (he : engines ⊆ engines') :
    Fires c subs engines e :=
  { h with unused := fun w hw hx => h.unused w hw (hs hx), idle := fun hx => h.idle (he hx) }

/-- The terms that fire from a number on: ascending, each as `Fires` says, no two with one engine or one counter. -/
structure Firing (c : Core) (n : Nat) (subs engines : List Nat) (l : List (Nat × Term × Inv)) : Prop where
  fires : ∀ e ∈ l, Fires c subs engines e
  above : ∀ e ∈ l, n ≤ e.1
  ascending : l.Pairwise (fun e f => e.1 < f.1)
  engines : l.Pairwise (fun e f => e.2.1.eng ≠ f.2.1.eng)
  counters : l.Pairwise (fun e f => ∀ w ∈ e.2.1.conds, ∀ x ∈ f.2.1.conds, condCtr w ≠ condCtr x)

theorem Firing.nil (c : Core) (n : Nat) (subs engines : List Nat) : Firing c n subs engines [] where
  fires := fun _ h => absurd h List.not_mem_nil
  above := fun _ h => absurd h List.not_mem_nil
  ascending := .nil
  engines := .nil
  counters := .nil

/-- A term that fires before others that start other engines and test other counters. -/
theorem Firing.cons {c : Core} {n : Nat} {subs engines : List Nat} {l : List (Nat × Term × Inv)} {t : Term} {v : Inv} (h : Fires c subs engines (n, t, v))
    (hl : Firing c (n + 1) (t.conds.map condCtr ++ subs) (t.eng.toNat :: engines) l) : Firing c n subs engines ((n, t, v) :: l) where
  fires := List.forall_mem_cons.2 ⟨h, fun e he => (hl.fires e he).weaken (List.subset_append_right _ _) (List.subset_cons_self _ _)⟩
  above := List.forall_mem_cons.2 ⟨le_rfl, fun e he => Nat.le_of_succ_le (hl.above e he)⟩
  ascending := .cons (fun e he => hl.above e he) hl.ascending
  engines := .cons (fun e he heq => (hl.fires e he).idle (by simp [← heq])) hl.engines
  counters := .cons (fun e he w hw x hx heq => (hl.fires e he).unused x hx (heq ▸ List.mem_append_left _ (List.mem_map_of_mem hw))) hl.counters

theorem Firing.later {c : Core} {n : Nat} {subs engines : List Nat} {l : List (Nat × Term × Inv)} (hl : Firing c (n + 1) subs engines l) : Firing c n subs engines l :=
  { hl with above := fun e he => Nat.le_of_succ_le (hl.above e he) }

theorem Core.firingFrom_firing (c : Core) (fuel : Nat) : ∀ (n : Nat) (subs engines : List Nat), Firing c n subs engines (c.firingFrom fuel n subs engines) := by
  induction fuel with
  | zero => exact fun n subs engines => .nil c n subs engines
  | succ f ih =>
    intro n subs engines
    simp only [Core.firingFrom]
    split
    · next v hv =>
      split at hv
      · next hfree =>
        simp only [Core.satisfied, Bool.and_eq_true, Bool.not_eq_true', List.all_eq_true, decide_eq_true_eq, List.any_eq_false, List.contains_iff_mem] at hfree
        obtain ⟨⟨⟨⟨hconf, -⟩, hthr⟩, heng⟩, hsubs⟩ := hfree
        have hprop := List.find?_some hv
        simp only [Bool.and_eq_true, decide_eq_true_eq] at hprop
        obtain ⟨⟨⟨hunit, hheld⟩, hst⟩, -⟩ := hprop
        exact .cons ⟨List.mem_of_find?_eq_some hv, hheld, hst, hunit, rfl, hconf, hthr, hsubs, by simpa using heng⟩ (ih _ _ _)
      · cases hv
    · exact (ih _ _ _).later

/-- No two terms that fire test one counter, whichever comes first. -/
theorem Firing.distinct {c : Core} {n : Nat} {subs engines : List Nat} {l : List (Nat × Term × Inv)} (hl : Firing c n subs engines l) :
    ∀ e ∈ l, ∀ f ∈ l, e.1 < f.1 → ∀ w ∈ e.2.1.conds, ∀ x ∈ f.2.1.conds, condCtr w ≠ condCtr x := by
  intro e he f hf
  exact List.Pairwise.forall_of_forall_of_flip (R := fun e f => e.1 < f.1 → ∀ w ∈ e.2.1.conds, ∀ x ∈ f.2.1.conds, condCtr w ≠ condCtr x)
    (fun x _ h => absurd h (lt_irrefl _)) (hl.counters.imp fun {e f} h (_ : e.1 < f.1) => h) (hl.ascending.imp fun h hgt => absurd hgt (Nat.lt_asymm h)) he hf

theorem Core.firing_firing (c : Core) : Firing c 0 (c.lig.subs.map (·.1)) c.lig.fired c.firing := c.firingFrom_firing 32 _ _ _

/-- What a term subtracts. -/
def Term.takes (t : Term) : List (Nat × Nat) := t.conds.map (fun w => (condCtr w, condThr w))

theorem Core.subEvs_subs (l : List (BitVec 32)) : ∀ c : Core,
    (l.foldl (fun (d : Core) w => d.subEv (condCtr w) (condThr w)) c).lig.subs = c.lig.subs ++ l.map (fun w => (condCtr w, condThr w)) ∧
    (l.foldl (fun (d : Core) w => d.subEv (condCtr w) (condThr w)) c).ev = c.ev ∧ (l.foldl (fun (d : Core) w => d.subEv (condCtr w) (condThr w)) c).invs = c.invs := by
  induction l with
  | nil => exact fun c => ⟨(List.append_nil _).symm, rfl, rfl⟩
  | cons w t ih =>
    intro c
    obtain ⟨hs, he, hi⟩ := ih (c.subEv (condCtr w) (condThr w))
    exact ⟨hs.trans (List.append_assoc _ [_] _), he, hi⟩

theorem Core.fire_eq (c : Core) (t : Term) (v : Inv) :
    (c.fire t v).lig.subs = c.lig.subs ++ t.takes ∧ (c.fire t v).ev = c.ev ∧ (c.fire t v).invs = (c.putInv { v with held := false }).invs :=
  Core.subEvs_subs t.conds (c.putInv { v with held := false })

/-- An invocation after the ends of the holds of some. -/
def unheld (l : List (Nat × Term × Inv)) (w : Inv) : Inv := if l.any (fun e => e.2.2.id = w.id) then { w with held := false } else w

theorem unheld_id (l : List (Nat × Term × Inv)) (w : Inv) : (unheld l w).id = w.id := by
  unfold unheld
  split <;> rfl

theorem unheld_append (l : List (Nat × Term × Inv)) (e : Nat × Term × Inv) (w : Inv) :
    unheld (l ++ [e]) w = if e.2.2.id = w.id then { w with held := false } else unheld l w := by
  unfold unheld
  rw [List.any_append]
  by_cases h : e.2.2.id = w.id
  · simp [h]
  · rw [if_neg h]
    simp only [List.any_cons, List.any_nil, decide_eq_false h, Bool.or_false]

theorem inv_unique {l : List Inv} (h : (l.map (·.id)).Nodup) {v w : Inv} (hv : v ∈ l) (hw : w ∈ l) (he : w.id = v.id) : w = v :=
  List.inj_on_of_nodup_map h hw hv he

/-- Firing terms one after another: what each subtracts is noted, and each invocation is held no longer. -/
theorem Core.fires_eq (c : Core) (l : List (Nat × Term × Inv)) :
    (l.foldl (fun d e => d.fire e.2.1 e.2.2) c).lig.subs = c.lig.subs ++ l.flatMap (fun e => e.2.1.takes) ∧
    (l.foldl (fun d e => d.fire e.2.1 e.2.2) c).ev = c.ev ∧
    ((∀ e ∈ l, e.2.2 ∈ c.invs) → (c.invs.map (·.id)).Nodup → (l.foldl (fun d e => d.fire e.2.1 e.2.2) c).invs = c.invs.map (unheld l)) := by
  induction l using List.reverseRecOn with
  | nil => exact ⟨(List.append_nil _).symm, rfl, fun _ _ => (List.map_id _).symm⟩
  | append_singleton l e ih =>
    obtain ⟨hs, he, hi⟩ := ih
    rw [List.foldl_concat]
    generalize l.foldl (fun d e => d.fire e.2.1 e.2.2) c = d at hs he hi ⊢
    obtain ⟨h1, h2, h3⟩ := d.fire_eq e.2.1 e.2.2
    refine ⟨by rw [h1, hs, List.flatMap_append, List.append_assoc]; simp, h2.trans he, fun hmem hnd => ?_⟩
    have hin := hi (fun x hx => hmem x (List.mem_append_left _ hx)) hnd
    have hmap : ((c.invs.map (unheld l)).map (fun w => if w.id = e.2.2.id then { e.2.2 with held := false } else w)) = c.invs.map (unheld (l ++ [e])) := by
      rw [List.map_map]
      refine List.map_congr_left fun w hw => ?_
      simp only [Function.comp_apply, unheld_id, unheld_append, eq_comm (a := e.2.2.id)]
      split
      · next heq => rw [inv_unique hnd (hmem e (List.mem_append_right _ (List.mem_singleton_self e))) hw heq]
      · rfl
    exact h3.trans ((congrArg (List.map _) hin).trans hmap)

theorem State.fireTerm_core (s : State) : s.fireTerm.core = s.core.firing.foldl (fun c e => c.fire e.2.1 e.2.2) s.core := rfl

theorem State.fireTerm_none {s : State} (h : s.core.firing = []) : s.fireTerm = s := by
  simp only [State.fireTerm, h]
  rfl

end Ligature

/-! ## Port accesses -/

section Access

variable {s : State} {n : Nat}

/-- The port has no end of a circuit to serve towards a peer. -/
structure Local (s : State) (n : Nat) : Prop where
  sender : s.peerSender n = none
  reader : s.peerReader n = none

theorem State.portAccess_piece_error {v : Inv} {t : State} (h : Local s n) (hh : s.core.halted = false) (hv : s.linearOn n = some v) (ht : s.linearPiece v = .error t) :
    s.portAccess n = t := by
  simp [State.portAccess, h.sender, h.reader, hh, hv, ht]

theorem State.portAccess_piece {v w : Inv} {t : State} (h : Local s n) (hh : s.core.halted = false) (hv : s.linearOn n = some v) (ht : s.linearPiece v = .ok (w, t)) :
    s.portAccess n = t.putInv w := by
  simp [State.portAccess, h.sender, h.reader, hh, hv, ht]

theorem linearOn_none (h : s.core.halted = true ∨ s.linearOn n = none) : (if s.core.halted then none else s.linearOn n) = none := by
  rcases h with h | h
  · exact if_pos h
  · rw [h, ite_self]

theorem State.portAccess_not (h : Local s n) (hn : s.core.halted = true ∨ s.linearOn n = none) (hc : s.canAccess n = false) : s.portAccess n = s := by
  simp [State.portAccess, h.sender, h.reader, linearOn_none hn, hc]

theorem State.portAccess_step {r : Reader} {t : State} (h : Local s n) (hn : s.core.halted = true ∨ s.linearOn n = none) (hc : s.canAccess n = true) (hr : s.reader n = some r)
    (ht : s.portStep n r = .ok t) : s.portAccess n = t := by
  simp [State.portAccess, h.sender, h.reader, linearOn_none hn, hc, hr, ht]

theorem State.portAccess_stops {r : Reader} {f : Flt} {t : State} (h : Local s n) (hn : s.core.halted = true ∨ s.linearOn n = none) (hc : s.canAccess n = true) (hr : s.reader n = some r)
    (ht : s.portStep n r = .error (f, t)) : s.portAccess n = if f = wayWait then t else t.stopPort n f (s.port n).cursor r := by
  simp [State.portAccess, h.sender, h.reader, linearOn_none hn, hc, hr, ht]

theorem State.canAccess_waits (h : (s.port n).lead = true ∧ (s.port n).outMarks ≠ [] ∨ 32 + s.core.slotsAt n ≤ (s.port n).fifo.length ∨ (s.port n).fault ≠ none) : s.canAccess n = false := by
  rcases h with ⟨h1, h2⟩ | h | h
  · simp [State.canAccess, h1, h2]
  · simp [State.canAccess, not_lt.2 h]
  · obtain ⟨f, hf⟩ := Option.ne_none_iff_exists'.1 h
    simp [State.canAccess, hf]

theorem State.canAccess_drains {u : CtxId} (hl : (s.port n).lead = true) (ho : (s.port n).owner = some u) (hd : (s.ctxAt u).draining = true) : s.canAccess n = false := by
  have hr : s.reader n = none := by simp [State.reader, hl, ho, hd]
  simp [State.canAccess, hr]

end Access

/-! ## Circuits -/

section Held

/-- An invocation of a core after a cycle is one of before, or waits in its queue. -/
theorem Core.fires_invs {l : List (Nat × Term × Inv)} (hl : ∀ e ∈ l, e.2.2.st = .queued) (c : Core) :
    ∀ w ∈ (l.foldl (fun d e => d.fire e.2.1 e.2.2) c).invs, w ∈ c.invs ∨ w.st = .queued := by
  induction l using List.reverseRecOn with
  | nil => exact fun w hw => .inl hw
  | append_singleton l e ih =>
    intro w hw
    rw [List.foldl_concat, (Core.fire_eq _ _ _).2.2] at hw
    obtain ⟨x, hx, rfl⟩ := List.mem_map.1 hw
    split
    · exact .inr (hl e (List.mem_append_right _ (List.mem_singleton_self e)))
    · exact ih (fun y hy => hl y (List.mem_append_left _ hy)) x hx

theorem Core.endLigature_invs (c : Core) : c.endLigature.invs = c.invs := by
  unfold Core.endLigature
  split
  · rfl
  · refine (foldl_keeps Core.invs (fun d w => ?_) c.lig.writes _).trans (foldl_keeps Core.invs (fun d n => ?_) (List.range 16) c)
    · unfold Core.applyEv
      split <;> rfl
    · simp only [Core.settleEv]
      split <;> rfl

theorem State.tick_invs (s : State) : ∀ w ∈ s.tick.core.invs, w ∈ s.core.invs ∨ w.st = .queued := by
  have hkeep : s.tick.core.invs = (if s.core.halted then s else s.fireTerm).core.invs := Core.endLigature_invs _
  intro w hw
  rw [hkeep] at hw
  split at hw
  · exact .inl hw
  · exact Core.fires_invs (fun e he => (s.core.firing_firing.fires e he).queued) s.core w hw

/-- No cycle makes a CIRC run. -/
theorem State.circOn_atRank {s : State} {p r : Nat} (h : s.core.circOn p = none) : (s.atRank r).core.circOn p = none := by
  have hinvs : ∀ w ∈ (s.atRank r).core.invs, w ∈ s.core.invs ∨ w.st = .queued := by
    simp only [State.atRank]
    split
    · exact s.tick_invs
    · exact fun w hw => .inl hw
  simp only [Core.circOn, List.find?_eq_none] at h ⊢
  intro w hw
  rcases hinvs w hw with hw | hw
  · exact h w hw
  · simp [hw]

end Held

section Beat

variable {s : State} {v : Inv} {e : CircEnd} {pn : Nat} {tl : List CircuitSymbol}

/-- Of a circuit within the module whose port has a symbol, the head symbol takes effect. -/
theorem State.circArrival_lands {x : CircuitSymbol} (hv : s.core.circOn pn = some v) (he : s.core.invEnd s.coreId v = some e) (hk : e.kind = 0) (hw : (s.port pn).wr = true)
    (hc : (s.port pn).circ = x :: tl) : s.circArrival pn none = s.landSymbol v e := by
  simp [State.circArrival, hv, he, hk, hw, hc]

theorem State.landSymbol_mark {m : Mark} (hd : v.o.d.toNat = pn) (hc : (s.port pn).circ = .mark m :: tl) (hm : m ≠ mEOT) :
    s.landSymbol v e = if m = mCFG then (s.putPort pn { s.port pn with circ := tl }).putCore ((s.putPort pn { s.port pn with circ := tl }).core.startInterval pn)
      else s.putPort pn { s.port pn with circ := tl } := by
  subst hd
  simp only [State.landSymbol, hc, if_neg hm]

theorem State.landSymbol_beat {bs ss : List Byte} (hd : v.o.d.toNat = pn) (hc : (s.port pn).circ = .beat bs ss :: tl) : s.landSymbol v e = s.landBeat v e bs ss := by
  subst hd
  simp only [State.landSymbol, hc]

/-- A beat that does not fit its port, or that comes past the traversal, ends its invocation (R201). -/
theorem State.landBeat_discards {bs ss : List Byte} (hd : v.o.d.toNat = pn) (hc : (s.port pn).circ = .beat bs ss :: tl)
    (hbad : (bs ++ ss).length ≠ (s.port pn).beatBytes true ∨ (s.port pn).tiles true ≤ (s.port pn).cursor) :
    s.landBeat v e bs ss = (s.putPort pn { s.port pn with circ := tl }).discard v (circTrap 4 (circNumber v.sa v.o) pn) noTile := by
  subst hd
  simp only [State.landBeat, hc, List.drop_one, List.tail_cons]
  refine if_pos ?_
  simp only [Bool.or_eq_true, decide_eq_true_eq]
  exact .inl hbad

/-! ### The stores of a beat -/

/-- The bytes that stand after a store under masks. -/
def Core.maskedOver (c : Core) (w : PWrite) : List Byte := ((c.spBytes w.addr w.data.length).zip w.data).map (fun x => maskedByte x.1 x.2)

/-- A store of a beat in the scratchpad of a core. -/
def Core.beatStore (c : Core) (w : PWrite) : Core := c.spStore w.addr (c.maskedOver w)

theorem Core.beatStore_spm {c d : Core} (h : d.spm = c.spm) (w : PWrite) : (d.beatStore w).spm = (c.beatStore w).spm := by
  have hb : d.maskedOver w = c.maskedOver w := by simp only [Core.maskedOver, Core.spBytes, h]
  have hs : ∀ (a : Core) (n : Nat) (bs : List Byte), (a.spStore n bs).spm = spPut a.spm n bs := fun a n bs => by
    unfold Core.spStore Core.markSlots
    split <;> rfl
  rw [Core.beatStore, Core.beatStore, hs, hs, hb, h]

theorem Core.spStore_keeps (c : Core) (n : Nat) (bs : List Byte) : (c.spStore n bs).ports = c.ports ∧ (c.spStore n bs).full = c.full := by
  unfold Core.spStore Core.markSlots
  split <;> exact ⟨rfl, rfl⟩

/-- Every store that can be missed is one of a party, to no page of the UO kind. -/
def State.onlyOf (s : State) (p : Nat) : Prop := ∀ f ∈ s.unseen, f.party = p ∧ f.kind = 0

/-- A store of the party comes after its own. -/
theorem State.noteStore_last {p seq m a : Nat} {cyc : Option Nat} {bs : List Byte} (h : s.onlyOf p) :
    (s.noteStore (newStore p seq 0 m cyc) a bs).1 = bs ∧ (s.noteStore (newStore p seq 0 m cyc) a bs).2.onlyOf p := by
  unfold State.noteStore
  split
  · next hb => exact ⟨(List.isEmpty_iff.1 hb).symm, h⟩
  · rw [if_neg]
    · exact ⟨rfl, List.forall_mem_cons.2 ⟨⟨rfl, rfl⟩, h⟩⟩
    · rw [Bool.not_eq_true, List.any_eq_false]
      intro f hf
      obtain ⟨hp, hk⟩ := h f hf
      simp [Unseen.passedBy, newStore, hp, hk]

theorem State.noteMasked_last {p seq m a : Nat} {cyc : Option Nat} {bs : List (Byte × Byte)} (h : s.onlyOf p) :
    (s.noteMasked (newStore p seq 0 m cyc) a bs).1 = ((s.cells a bs.length).zip bs).map (fun x => maskedByte x.1 x.2) ∧
    (s.noteMasked (newStore p seq 0 m cyc) a bs).2.onlyOf p ∧ SameButViews s (s.noteMasked (newStore p seq 0 m cyc) a bs).2 := by
  simp only [State.noteMasked]
  split
  · exact ⟨(State.noteStore_last h).1, (State.noteStore_last h).2, .noteStore s _ _ _⟩
  · refine ⟨rfl, ?_, .noteLast s _ _ _⟩
    unfold State.noteLast
    split
    · exact h
    · exact List.forall_mem_cons.2 ⟨⟨rfl, rfl⟩, h⟩

/-- What the stores of a beat leave: the scratchpad of the stores in turn, the ports, main memory, and full granules full. -/
structure BeatLanded (s : State) (p : Nat) (c : Core) (t : State) : Prop where
  spm : t.core.spm = c.spm
  ports : t.core.ports = s.core.ports
  mem : t.mem = s.mem
  own : t.onlyOf p
  full : ∀ g, SMap.get false s.core.full g = true → SMap.get false t.core.full g = true

/-- A store of a beat falls into the scratchpad, through a port that combines nothing. -/
structure Fits (s : State) (w : PWrite) : Prop where
  sp : w.sp = true
  mode : (s.port w.port).mode = 0
  within : w.addr + w.data.length ≤ spmSize

theorem applyWrite_fits {p seq : Nat} {w : PWrite} (hw : Fits s w) : applyWrite p seq s (w, []) = s.spMasked p seq (s.storeUnit w.port) w.addr w.data := by
  have hr : s.storedBytes (w, []) = (w.data, 0) := by simp [State.storedBytes, hw.mode]
  simp only [applyWrite, hr, hw.sp]
  rfl

theorem State.spMasked_lands {p seq m : Nat} {w : PWrite} (hw : Fits s w) (h : s.onlyOf p) :
    BeatLanded s p (s.core.beatStore w) (s.spMasked p seq m w.addr w.data) ∧
    ∀ g ∈ granules w.addr w.data.length, SMap.get false (s.spMasked p seq m w.addr w.data).core.full g = true := by
  obtain ⟨hbytes, hown, hsame⟩ := State.noteMasked_last (seq := seq) (m := m) (a := spKey s.coreId w.addr) (cyc := s.cycleAt (spKey s.coreId w.addr)) (bs := w.data) h
  rw [State.cells_spKey hw.within] at hbytes
  have hcore : (s.spMasked p seq m w.addr w.data).core = (s.core.beatStore w).setFull (granules w.addr w.data.length) true := by
    simp only [State.spMasked, State.putCore, hsame.core, hbytes]
    rfl
  obtain ⟨hports, hfull⟩ := s.core.spStore_keeps w.addr (s.core.maskedOver w)
  have hget : ∀ g, SMap.get false (s.spMasked p seq m w.addr w.data).core.full g = if g ∈ granules w.addr w.data.length then true else SMap.get false s.core.full g := fun g => by
    rw [hcore, Core.get_setFull, Core.beatStore, hfull]
  refine ⟨⟨by rw [hcore]; rfl, by rw [hcore]; exact hports, hsame.mem, hown, fun g hg => ?_⟩, fun g hg => ?_⟩
  · rw [hget, hg, ite_self]
  · rw [hget, if_pos hg]

theorem applyWrites_land {p seq : Nat} (ws : List PWrite) : ∀ (s : State) (c : Core), (∀ w ∈ ws, Fits s w) → s.onlyOf p → c.spm = s.core.spm →
    BeatLanded s p (ws.foldl Core.beatStore c) ((ws.map (fun w => (w, ([] : List Part)))).foldl (applyWrite p seq) s) ∧
    ∀ w ∈ ws, ∀ g ∈ granules w.addr w.data.length, SMap.get false ((ws.map (fun w => (w, ([] : List Part)))).foldl (applyWrite p seq) s).core.full g = true := by
  induction ws with
  | nil => exact fun s c _ ho hc => ⟨⟨hc.symm, rfl, rfl, ho, fun _ h => h⟩, fun _ h => absurd h List.not_mem_nil⟩
  | cons w ws ih =>
    intro s c hw ho hc
    obtain ⟨hfit, hrest⟩ := List.forall_mem_cons.1 hw
    obtain ⟨h1, h2⟩ := State.spMasked_lands (seq := seq) (m := s.storeUnit w.port) hfit ho
    rw [List.map_cons, List.foldl_cons, List.foldl_cons, applyWrite_fits hfit]
    generalize s.spMasked p seq (s.storeUnit w.port) w.addr w.data = t at h1 h2 ⊢
    obtain ⟨h3, h4⟩ := ih t (c.beatStore w) (fun x hx => ⟨(hrest x hx).sp, by rw [State.port, h1.ports]; exact (hrest x hx).mode, (hrest x hx).within⟩) h1.own
      ((Core.beatStore_spm hc w).trans h1.spm.symm)
    exact ⟨⟨h3.spm, h3.ports.trans h1.ports, h3.mem.trans h1.mem, h3.own, fun g hg => h3.full g (h1.full g hg)⟩,
      List.forall_mem_cons.2 ⟨fun g hg => h3.full g (h2 g hg), h4⟩⟩

theorem Core.fired_keeps (c : Core) (l : List Nat) : (c.fired l).spm = c.spm ∧ (c.fired l).ports = c.ports ∧ (c.fired l).full = c.full := by
  have h := foldl_keeps (f := fun (a : Core) n => a.note n 2) (fun a => (a.spm, a.ports, a.full)) (fun a n => by unfold Core.note; split <;> rfl) l c
  obtain ⟨h1, h2, h3⟩ : _ ∧ _ ∧ _ := by simpa only [Prod.mk.injEq] using h
  exact ⟨h1, h2, h3⟩

/-- The stores that a beat makes through its port. -/
def Port.beatWrites (q : Port) (free pn : Nat) (bs ss : List Byte) : List PWrite × BitVec 16 :=
  q.writeTile free pn true q.cursor ((bs ++ ss).take (q.tileBytes true)) ((bs ++ ss).drop (q.tileBytes true))

/-- The state that a committed beat leaves, once its stores are made in a: the port of the traversal one beat on. -/
def State.beatDone (a : State) (v : Inv) (pn cursor : Nat) (keys : State → List (Nat × Nat)) (free : Nat) : State :=
  let b := a.putCore (a.core.fired [pn])
  { (b.putPort pn { b.port pn with cursor := cursor + 1 }).releaseBy (b.partyInv v) 2 false (keys b) with free := free }

theorem State.beatDone_port (a : State) (v : Inv) (pn cursor : Nat) (keys : State → List (Nat × Nat)) (free : Nat) :
    (a.beatDone v pn cursor keys free).port pn = { a.port pn with cursor := cursor + 1 } := by
  simp only [State.beatDone, State.port, State.releaseBy_core, State.putPort, State.putCore, (Core.fired_keeps a.core [pn]).2.1, SMap.get_set, if_true]

theorem State.beatDone_keeps (a : State) (v : Inv) (pn cursor : Nat) (keys : State → List (Nat × Nat)) (free : Nat) :
    (a.beatDone v pn cursor keys free).mem = a.mem ∧ (a.beatDone v pn cursor keys free).core.spm = a.core.spm ∧ (a.beatDone v pn cursor keys free).core.full = a.core.full := by
  obtain ⟨h1, -, h3⟩ := Core.fired_keeps a.core [pn]
  simp only [State.beatDone, State.releaseBy_core, State.releaseBy_mem, State.putPort, State.putCore]
  exact ⟨trivial, h1, h3⟩

/-- A beat that fits, through a port whose rows keep to R149, makes its stores. -/
theorem State.landBeat_fits {bs ss : List Byte} {q : Port} {t : State} (hd : v.o.d.toNat = pn) (hq : s.port pn = q) (hc : q.circ = .beat bs ss :: tl) (hk : e.kind = 0)
    (hlen : (bs ++ ss).length = q.beatBytes true) (hcur : q.cursor < q.tiles true) (ht : s.putPort pn { q with circ := tl } = t) (hbar : v.copyBar = none)
    (hdr : t.drains v = false) (hws : (q.beatWrites t.free pn bs ss).1.findSome? (·.breach) = none) :
    ∃ keys free, s.landBeat v e bs ss = State.beatDone ((applyWrites t v ((q.beatWrites t.free pn bs ss).1.map (fun w => (w, [])))).addFlags (q.beatWrites t.free pn bs ss).2) v pn q.cursor keys free := by
  subst hd
  refine ⟨fun b => b.commitKeys t.core none (q.beatWrites t.free v.o.d.toNat bs ss).1, (applyWrites t v ((q.beatWrites t.free v.o.d.toNat bs ss).1.map (fun w => (w, [])))).free + q.tileScales true, ?_⟩
  simp only [Port.beatWrites] at hws ⊢
  simp only [State.landBeat, hq, hc, List.drop_one, List.tail_cons, hbar, State.arriveAt, ht, hws, hk]
  rw [if_neg (by simp [not_le.2 hcur]; simpa using hlen), if_neg (Bool.eq_false_iff.1 hdr)]
  rfl

/-- A beat that fits is committed on arrival (R168, R200). -/
theorem State.landBeat_commits {bs ss : List Byte} {q : Port} (hd : v.o.d.toNat = pn) (hq : s.port pn = q) (hc : q.circ = .beat bs ss :: tl) (hk : e.kind = 0)
    (hlen : (bs ++ ss).length = q.beatBytes true) (hcur : q.cursor < q.tiles true) (hmode : q.mode = 0) (hu : s.unseen = []) (hbar : v.copyBar = none) (hdr : s.drains v = false)
    (hws : ∀ w ∈ (q.beatWrites s.free pn bs ss).1, w.breach = none ∧ w.sp = true ∧ w.port = pn ∧ w.addr + w.data.length ≤ spmSize) :
    ((s.landBeat v e bs ss).port pn).cursor = q.cursor + 1 ∧ ((s.landBeat v e bs ss).port pn).circ = tl ∧ (s.landBeat v e bs ss).mem = s.mem ∧
    (s.landBeat v e bs ss).core.spm = ((q.beatWrites s.free pn bs ss).1.foldl Core.beatStore s.core).spm ∧
    ∀ w ∈ (q.beatWrites s.free pn bs ss).1, ∀ g ∈ granules w.addr w.data.length, SMap.get false (s.landBeat v e bs ss).core.full g = true := by
  obtain ⟨t, ht⟩ : ∃ t, s.putPort pn { q with circ := tl } = t := ⟨_, rfl⟩
  have hport : t.port pn = { q with circ := tl } := by rw [← ht, State.port, State.putPort, SMap.get_set, if_pos rfl]
  have hbreach : (q.beatWrites s.free pn bs ss).1.findSome? (·.breach) = none := List.findSome?_eq_none_iff.2 fun w hw => (hws w hw).1
  have hfree : t.free = s.free := by rw [← ht]; rfl
  rw [← hfree] at hws hbreach ⊢
  obtain ⟨keys, free, hland⟩ := State.landBeat_fits hd hq hc hk hlen hcur ht hbar (by rw [← ht]; exact hdr) hbreach
  obtain ⟨hmem, hspm, hfull⟩ := State.beatDone_keeps ((applyWrites t v ((q.beatWrites t.free pn bs ss).1.map (fun w => (w, [])))).addFlags (q.beatWrites t.free pn bs ss).2) v pn q.cursor keys free
  have hbeat := State.beatDone_port ((applyWrites t v ((q.beatWrites t.free pn bs ss).1.map (fun w => (w, [])))).addFlags (q.beatWrites t.free pn bs ss).2) v pn q.cursor keys free
  obtain ⟨hstores, hgran⟩ := applyWrites_land (p := t.partyInv v) (seq := t.nextSeq) (q.beatWrites t.free pn bs ss).1 t s.core
    (fun w hw => ⟨(hws w hw).2.1, by rw [(hws w hw).2.2.1, hport]; exact hmode, (hws w hw).2.2.2⟩)
    (fun f hf => by rw [← ht] at hf; exact absurd (hu ▸ hf : f ∈ ([] : List Unseen)) List.not_mem_nil) (by rw [← ht]; rfl)
  rw [← hland] at hmem hspm hfull hbeat
  have hports : ((applyWrites t v ((q.beatWrites t.free pn bs ss).1.map (fun w => (w, [])))).addFlags (q.beatWrites t.free pn bs ss).2).port pn = { q with circ := tl } :=
    (congrArg (fun m => SMap.get Port.reset m pn) hstores.ports).trans hport
  rw [hports] at hbeat
  refine ⟨congrArg Port.cursor hbeat, congrArg Port.circ hbeat, hmem.trans (hstores.mem.trans (by rw [← ht]; rfl)), hspm.trans hstores.spm, fun w hw g hg => ?_⟩
  rw [hfull]
  exact hgran w hw g hg

end Beat

/-- A circuit's end is lost where no CIRC uses it (R169). -/
theorem State.circLoss_idle {s : State} {pn : Nat} (h : ∀ v ∈ s.core.invs, v.op ≠ 0x8D) (hf : s.farEnds pn = []) :
    s.circLoss pn = s.putPort pn { s.port pn with circLost := true, circ := [] } := by
  have hnone : (s.putPort pn { s.port pn with circLost := true, circ := [] }).core.invs.find? (fun v => v.op = 0x8D && v.ports.contains pn && v.st ≠ .discarded) = none := by
    refine List.find?_eq_none.2 fun v hv => ?_
    simp [h v hv]
  have hlose : s.loseEnd pn = s.putPort pn { s.port pn with circLost := true, circ := [] } := by
    simp only [State.loseEnd, hnone]
  simp only [State.circLoss, hf, List.foldl_nil, hlose]
  exact if_pos rfl

/-- Settles O44: starts, ends and accesses by the conditions of their functions; the terms that fire by induction on the table of terms; the stores of a beat one after another. -/
theorem engineSteps : Obligations.EngineSteps := by
  intro s
  refine ⟨fun id h => ?_, fun id v h => ?_, fun r h => State.atRank_now h, fun r h => State.atRank_next h, fun h => ?_, ?_, fun p h1 h2 => ?_, fun n h => State.canAccess_waits h,
    fun n u h1 h2 h3 => State.canAccess_drains h1 h2 h3, fun p y => ?_, ?_, ?_, fun p h hf => ?_⟩
  · exact ⟨congrArg Host.Outcome.next (State.startInv_none h), congrArg Host.Outcome.next (State.commitInv_none h)⟩
  · exact ⟨fun hn => congrArg Host.Outcome.next (State.startInv_not h hn), fun hc hb => congrArg Host.Outcome.next (State.startInv_runs h hc hb),
      fun i hc hb => congrArg Host.Outcome.next (State.startInv_discards h hc hb), fun hn => congrArg Host.Outcome.next (State.commitInv_not h hn),
      fun hc => congrArg Host.Outcome.next (State.commitInv_ends h hc)⟩
  · exact congrArg Host.Outcome.next (State.fireTerm_none h)
  · intro l subs
    have hl := s.core.firing_firing
    obtain ⟨hsubs, hev, hinvs⟩ := Core.fires_eq s.core s.core.firing
    refine ⟨List.pairwise_map.2 hl.ascending, List.pairwise_map.2 hl.engines, fun e he => ?_, fun e he f hf hlt => ?_, _, rfl, hsubs, hev, fun hnd => ?_⟩
    · have hfire := hl.fires e he
      exact ⟨hfire.mem, hfire.held, hfire.queued, hfire.unit, hfire.term, hfire.configured,
        fun w hw => ⟨hfire.reached w hw, fun x hx heq => hfire.unused w hw (heq ▸ List.mem_map_of_mem hx)⟩⟩
    · exact hl.distinct e he f hf hlt
    · exact hinvs (fun e he => (hl.fires e he).mem) hnd
  · have hloc : Local s p.toNat := ⟨h1, h2⟩
    refine ⟨fun v hh hv => ⟨fun t ht => ?_, fun w t ht => ?_⟩, fun hn => ⟨fun hc => ?_, fun r t hc hr ht => ?_, fun r f t hc hr ht => ?_⟩⟩
    · exact congrArg Host.Outcome.next (State.portAccess_piece_error hloc hh hv ht)
    · exact congrArg Host.Outcome.next (State.portAccess_piece hloc hh hv ht)
    · exact congrArg Host.Outcome.next (State.portAccess_not hloc hn hc)
    · exact congrArg Host.Outcome.next (State.portAccess_step hloc hn hc hr ht)
    · exact congrArg Host.Outcome.next (State.portAccess_stops hloc hn hc hr ht)
  · refine ⟨rfl, fun h => congrArg Host.Outcome.next ?_⟩
    simp only [State.circArrival, State.circOn_atRank h]
  · rintro p v e bs ss tl u q r rfl rfl hv hd he hk hw hc rfl
    have hstep : exec (.circuitBeatArrival p none) s = .next ((s.atRank arrivalRank).landBeat v e bs ss) :=
      congrArg Host.Outcome.next ((State.circArrival_lands hv he hk hw hc).trans (State.landSymbol_beat hd hc))
    refine ⟨fun hbad => hstep.trans (congrArg Host.Outcome.next (State.landBeat_discards hd hc hbad)), fun hlen hcur hmode hu hbar hdr hws => ⟨_, hstep, ?_⟩⟩
    exact State.landBeat_commits hd rfl hc hk hlen hcur hmode hu hbar hdr hws
  · rintro p v e m tl u rfl hv hd he hk hw hc
    have hstep : exec (.circuitBeatArrival p none) s = .next ((s.atRank arrivalRank).landSymbol v e) := congrArg Host.Outcome.next (State.circArrival_lands hv he hk hw hc)
    refine ⟨fun h4 h6 => ?_, fun h6 => ?_⟩
    · rw [hstep, State.landSymbol_mark hd hc h4, if_neg h6]
    · rw [hstep, State.landSymbol_mark hd hc (by rw [h6]; decide), if_pos h6]
  · exact congrArg Host.Outcome.next (State.circLoss_idle h hf)

end Sys2Proof.Machine
end

section
/-! PROOFS. What ends a wait, and the context that takes the core's issue slot (R24, R26, R139, R213, R295). -/

namespace Sys2Proof.Machine

/-! ## The core in its next slot -/

theorem State.fireTerm_inTrap (s : State) : s.fireTerm.core.inTrap = s.core.inTrap :=
  foldl_keeps (f := fun (c : Core) (e : Nat × Term × Inv) => c.fire e.2.1 e.2.2) Core.inTrap
    (fun c e => foldl_keeps (f := fun (d : Core) w => d.subEv (condCtr w) (condThr w)) Core.inTrap (fun _ _ => rfl) e.2.1.conds (c.putInv { e.2.2 with held := false })) s.core.firing s.core

theorem Core.endLigature_inTrap (c : Core) : c.endLigature.inTrap = c.inTrap := by
  unfold Core.endLigature
  split
  · rfl
  · refine (foldl_keeps Core.inTrap (fun d w => ?_) c.lig.writes _).trans (foldl_keeps Core.inTrap (fun d n => ?_) (List.range 16) c)
    · unfold Core.applyEv
      split <;> rfl
    · simp only [Core.settleEv]
      split <;> rfl

theorem State.atRank_inTrap (s : State) (r : Nat) : (s.atRank r).core.inTrap = s.core.inTrap := by
  have ht : (if s.core.halted then s else s.fireTerm).core.inTrap = s.core.inTrap := by
    split
    · rfl
    · exact s.fireTerm_inTrap
  simp only [State.atRank]
  split
  · exact (Core.endLigature_inTrap _).trans ht
  · rfl

/-! ## The context that issues -/

section Select

variable {s : State} {c : CtxId} {l : List CtxId}

/-- A context that issues is one of those tried. -/
theorem firstIssue_mem (l : List CtxId) : ∀ s : State, (firstIssue s l).2 = some c → c ∈ l := by
  induction l with
  | nil => exact fun s h => nomatch h
  | cons u t ih =>
    intro s h
    simp only [firstIssue] at h
    split at h
    · exact List.mem_cons_of_mem _ (ih _ h)
    · split at h
      · cases h
        exact List.mem_cons_self
      · exact List.mem_cons_of_mem _ (ih _ h)

/-- The first context tried issues when it is ready. -/
theorem firstIssue_head (hy : s.yields c = false) (hi : (s.tryU c).issued = true) : firstIssue s (c :: l) = ((s.tryU c).state, some c) := by
  simp [firstIssue, hy, hi]

theorem ne_k_of_mem_uCtxs (h : c ∈ uCtxs) : c ≠ .k := by
  rintro rfl
  revert h
  decide

theorem ne_k_of_mem_fromPointer {n : Nat} (h : c ∈ fromPointer n) : c ≠ .k := by
  obtain ⟨i, -, rfl⟩ := List.mem_map.1 h
  exact uCtx_ne_k _

theorem roundRobin_ne_k (h : (roundRobin s).2 = some c) : c ≠ .k := by
  simp only [roundRobin] at h
  split at h
  · next u hu =>
    simp only at h
    cases h
    exact ne_k_of_mem_fromPointer (List.mem_of_mem_filter (firstIssue_mem _ _ hu))
  · next hu =>
    split at h
    · next v hv =>
      cases h
      exact ne_k_of_mem_fromPointer (firstIssue_mem _ _ hv)
    · next hv =>
      rw [hv] at h
      cases h

theorem selectU_ne_k (h : (selectU s).2 = some c) : c ≠ .k := by
  simp only [selectU] at h
  split at h
  · next u hu =>
    rw [hu] at h
    cases h
    exact ne_k_of_mem_uCtxs (List.mem_of_mem_filter (firstIssue_mem _ _ hu))
  · exact roundRobin_ne_k h

/-- The lowest aged context comes first. -/
theorem selectU_aged (hc : c ≠ .k) (hy : s.yields c = false) (hi : (s.tryU c).issued = true) (ha : (s.ctxAt c).age = 28)
    (hl : ∀ v, v ≠ .k → ctxNum v < ctxNum c → (s.ctxAt v).age ≠ 28) : (selectU s).2 = some c := by
  obtain ⟨t, ht⟩ : ∃ t, uCtxs.filter (fun u => (s.ctxAt u).age = 28) = c :: t := by
    have hlow : ∀ v, v ≠ .k → ctxNum v < ctxNum c → decide ((s.ctxAt v).age = 28) = false := fun v hv hlt => decide_eq_false (hl v hv hlt)
    have hage : decide ((s.ctxAt c).age = 28) = true := decide_eq_true ha
    cases c with
    | u0 => exact ⟨_, List.filter_cons_of_pos hage⟩
    | u1 => simp [uCtxs, List.filter_cons, hlow .u0 (by decide) (by decide), ha]
    | u2 => simp [uCtxs, List.filter_cons, hlow .u0 (by decide) (by decide), hlow .u1 (by decide) (by decide), ha]
    | u3 => simp [uCtxs, hlow .u0 (by decide) (by decide), hlow .u1 (by decide) (by decide), hlow .u2 (by decide) (by decide), ha]
    | k => exact absurd rfl hc
  simp only [selectU, ht, firstIssue_head hy hi]

/-- With none aged the context at the rotating pointer issues, when it is ready and has slots left. -/
theorem selectU_pointer (hy : s.yields c = false) (hi : (s.tryU c).issued = true) (ha : ∀ v, v ≠ .k → (s.ctxAt v).age ≠ 28) (hc : c = uCtx s.core.rr)
    (hs : 0 < (s.ctxAt c).slots) : (selectU s).2 = some c := by
  have hnone : uCtxs.filter (fun u => (s.ctxAt u).age = 28) = [] :=
    List.filter_eq_nil_iff.2 fun u hu => by simpa using ha u (ne_k_of_mem_uCtxs hu)
  obtain ⟨t, ht⟩ : ∃ t, (fromPointer s.core.rr).filter (fun u => decide (0 < (s.ctxAt u).slots)) = c :: t := by
    have hp : fromPointer s.core.rr = c :: [uCtx (s.core.rr + 1), uCtx (s.core.rr + 2), uCtx (s.core.rr + 3)] := by rw [hc]; rfl
    rw [hp]
    exact ⟨_, List.filter_cons_of_pos (decide_eq_true hs)⟩
  simp only [selectU, hnone, firstIssue, roundRobin, ht, firstIssue_head hy hi]

end Select

/-! ## The issuer of the slot -/

section Slot

variable {s : State} {c : CtxId}

theorem State.slotIssuer_none (h : s.core.halted = true ∨ (s.atRank 0).gated = true) : s.slotIssuer = none := by
  refine if_pos ?_
  rw [State.atRank_halted]
  rcases h with h | h <;> simp [h]

/-- Within a trap the slot is the K context's (R26). -/
theorem State.slotIssuer_k (hh : s.core.halted = false) (hg : (s.atRank 0).gated = false) (ht : s.core.inTrap = true) :
    s.slotIssuer = if ((s.atRank 0).runAt .k).issued then some .k else none := by
  simp [State.slotIssuer, State.atRank_halted, State.atRank_inTrap, hh, hg, ht]

/-- Outside a trap it is a U context's. -/
theorem State.slotIssuer_u (hh : s.core.halted = false) (hg : (s.atRank 0).gated = false) (ht : s.core.inTrap = false) : s.slotIssuer = (selectU (s.atRank 0)).2 := by
  simp [State.slotIssuer, State.atRank_halted, State.atRank_inTrap, hh, hg, ht]

theorem State.slotIssuer_level (h : s.slotIssuer = some c) : c = .k ↔ s.core.inTrap = true := by
  cases hh : s.core.halted with
  | true => rw [State.slotIssuer_none (.inl hh)] at h; cases h
  | false =>
    cases hg : (s.atRank 0).gated with
    | true => rw [State.slotIssuer_none (.inr hg)] at h; cases h
    | false =>
      cases ht : s.core.inTrap with
      | true =>
        rw [State.slotIssuer_k hh hg ht] at h
        split at h
        · cases h
          exact iff_of_true rfl rfl
        · cases h
      | false =>
        rw [State.slotIssuer_u hh hg ht] at h
        exact iff_of_false (selectU_ne_k h) Bool.false_ne_true

theorem mem_uCtxs_of_ne_k (h : c ≠ .k) : c ∈ uCtxs := by
  cases c <;> first | exact absurd rfl h | decide

/-- A context that a lower-numbered one's attempt would keep waiting puts its own off (R139, R213, R295). -/
theorem State.yields_lower {x y : CtxId} {w : Wait} (hw : w = .full ∨ w = .ligature) (hlt : ctxNum x < ctxNum y) (hy : y ≠ .k) (hwx : (s.ctxAt x).waiting = some w)
    (hwy : (s.ctxAt y).waiting = some w) (hx : x ≠ .k) (hi : (s.tryU x).issued = true) (hs : ((s.tryU x).state.tryU y).issued = false) : s.yields y = true := by
  simp only [State.yields, Bool.and_eq_true, Bool.or_eq_true, decide_eq_true_eq, List.any_eq_true, Bool.not_eq_true', hwy, Option.some.injEq]
  exact ⟨⟨hy, hw⟩, x, mem_uCtxs_of_ne_k hx, ⟨hlt, hwx⟩, hi, hs⟩

/-- The end of a wait is a new attempt in the core's next slot, when that is the context's, and nothing otherwise. -/
theorem State.wake_ends {i : Instr} {w : Wait} (hi : exec i s = .next (s.wake c w)) :
    ((s.ctxAt c).waiting ≠ some w ∨ s.slotIssuer ≠ some c → exec i s = .next s) ∧
    ((s.ctxAt c).waiting = some w → s.slotIssuer = some c → exec i s = .next (s.inSlot State.issueSlot)) := by
  refine ⟨fun h => ?_, fun h1 h2 => ?_⟩
  · rw [hi, State.wake, if_neg]
    rcases h with h | h <;> simp [h]
  · rw [hi, State.wake, if_pos (by simp [h1, h2])]

end Slot

/-- Settles O45: the order of R24 read off the lists that the selection tries, and each wake a new attempt in the slot that the order gives. -/
theorem waitsEnd : Obligations.WaitsEnd := by
  intro c s ends a
  refine ⟨State.slotIssuer_none, State.slotIssuer_level, fun hh hg ht hi => ?_, fun hh hg ht hc hy hi => ⟨fun ha hl => ?_, fun ha hp hs => ?_⟩,
    fun x y w hw hlt hy hwx hwy hx hi hs => State.yields_lower hw hlt hy hwx hwy hx hi hs, ?_⟩
  · rw [State.slotIssuer_k hh hg ht, if_pos hi]
  · rw [State.slotIssuer_u hh hg ht]
    exact selectU_aged hc hy hi ha hl
  · rw [State.slotIssuer_u hh hg ht]
    exact selectU_pointer hy hi ha hp hs
  · exact ⟨State.wake_ends rfl, State.wake_ends rfl, State.wake_ends rfl, State.wake_ends rfl, State.wake_ends rfl, State.wake_ends rfl, State.wake_ends rfl, State.wake_ends rfl,
      State.wake_ends rfl⟩

end Sys2Proof.Machine
end

section
/-! PROOFS. What the hub's stores leave, and the ends of cuts, drains, groups, launches and coalescing times (R14, R21, R22, R333, R485, R490). -/

namespace Sys2Proof.Machine

/-! ## States that differ in what stores change -/

/-- Two states that differ at most in what a store changes: the memory, the dies' lines, what parties may still miss, and the counter of free values. -/
structure Wrote (s t : State) : Prop where
  eq : t = { s with dies := t.dies, mem := t.mem, free := t.free, unseen := t.unseen }

namespace Wrote

variable {s t u : State}

theorem refl (s : State) : Wrote s s := ⟨rfl⟩

theorem trans (h : Wrote s t) (k : Wrote t u) : Wrote s u := ⟨by rw [k.eq, h.eq]⟩

theorem core (h : Wrote s t) : t.core = s.core := by rw [h.eq]
theorem coreId (h : Wrote s t) : t.coreId = s.coreId := by rw [h.eq]
theorem others (h : Wrote s t) : t.others = s.others := by rw [h.eq]
theorem hub (h : Wrote s t) : t.hub = s.hub := by rw [h.eq]
theorem coreOf (h : Wrote s t) (n : Nat) : t.coreOf n = s.coreOf n := by rw [State.coreOf, h.core, h.coreId, h.others, State.coreOf]
theorem launch (h : Wrote s t) (i : Nat) : t.launch i = s.launch i := by rw [State.launch, h.hub, State.launch]
theorem region (h : Wrote s t) (i : Nat) : t.region i = s.region i := by rw [State.region, h.hub, State.region]
theorem queue (h : Wrote s t) (q : Nat) : t.queue q = s.queue q := by rw [State.queue, h.hub, State.queue]

theorem of_dies (h : SameButDies s t) : Wrote s t := ⟨by rw [h.eq]⟩

theorem of_views (h : SameButViews s t) : Wrote s t := ⟨by rw [h]⟩

/-- A fold keeps what each of its steps keeps. -/
theorem foldl {α : Type} {f : State → α → State} (h : ∀ t a, Wrote t (f t a)) (l : List α) (s : State) : Wrote s (l.foldl f s) := by
  induction l generalizing s with
  | nil => exact refl s
  | cons a l ih => exact (h s a).trans (ih _)

theorem dirtyLine (s : State) (a : Nat) (b : Bool) : Wrote s (s.dirtyLine a b) := of_dies (SameButDies.putDie _ _ _)

theorem pokeBytes (bs : List Byte) (s : State) (a : Nat) : Wrote s (s.pokeBytes a bs) := by
  induction bs generalizing s a with
  | nil => exact refl s
  | cons b l ih => exact Wrote.trans ⟨rfl⟩ (ih (s.pokeByte a b) (a + 1))

theorem storeParts (ps : List Part) (s : State) (bs : List Byte) : Wrote s (storeParts s ps bs) := by
  induction ps generalizing s bs with
  | nil => exact refl s
  | cons p l ih =>
    exact ((pokeBytes _ s _).trans (foldl (fun t i => dirtyLine t _ _) _ _)).trans (ih _ _)

theorem storeSeen (s : State) (chain : Bool) (ps : List Part) (bs : List Byte) : Wrote s (storeSeen s chain ps bs) := by
  have hnote : ∀ (t : State) (x : Part), Wrote t
      ((t.openRange (!chain) x.dpa x.len).noteLast { newStore hubParty s.nextSeq 0 1 none with vis := 4, ord := 3, chain := chain } x.dpa x.len) :=
    fun t x => Wrote.trans ⟨rfl⟩ (of_views (SameButViews.noteLast _ _ _ _))
  exact ((foldl hnote ps s).trans (of_views (SameButViews.pruned _))).trans (storeParts ps _ bs)

theorem hubWrite {asid : BitVec 9} {va : Nat} {bs : List Byte} (h : s.hubWrite asid va bs = .ok t) : Wrote s t := by
  unfold State.hubWrite at h
  cases hp : hubParts s asid true .write va bs.length with
  | error f => rw [hp] at h; cases h
  | ok ps =>
    rw [hp] at h
    cases h
    exact storeSeen _ _ _ _

theorem writeRcb (s : State) (r : Region) (off : Nat) (w : Word) : Wrote s (s.writeRcb r off w) := by
  unfold State.writeRcb
  split
  · next t ht => exact hubWrite ht
  · exact refl s

theorem saveWrite {asid : BitVec 9} {va : Nat} {bs : List Byte} (h : s.saveWrite asid va bs = .ok t) : Wrote s t := by
  unfold State.saveWrite at h
  split at h
  · cases h
  · split at h
    · cases h
    · cases h
      exact storeSeen _ _ _ _

theorem releaseBy (s : State) (p n : Nat) (b : Bool) (l : List (Nat × Nat)) : Wrote s (s.releaseBy p n b l) := by
  simp only [State.releaseBy]
  split <;> exact ⟨rfl⟩

theorem releaseAll (s : State) (c : CtxId) (n : Nat) (l : List (Nat × Nat)) : Wrote s (s.releaseAll c n l) := releaseBy _ _ _ _ _

theorem putUsed {asid : BitVec 9} {va : Nat} {x : Needs} (h : s.putUsed asid va x = .ok t) : Wrote s t := hubWrite h

/-- The fold of `putAllUsed` from any answer. -/
theorem of_putUsed {f : Except Nat State → Nat × Needs → Except Nat State} {asid : BitVec 9} (hf : ∀ k e, f (.error k) e = .error k)
    (hok : ∀ a e u, f (.ok a) e = .ok u → a.putUsed asid e.1 e.2 = .ok u) (l : List (Nat × Needs)) :
    ∀ {a : Except Nat State}, l.foldl f a = .ok t → ∃ b, a = .ok b ∧ Wrote b t := by
  induction l with
  | nil => exact fun h => ⟨_, h, refl _⟩
  | cons e l ih =>
    intro a h
    obtain ⟨b, hb, hw⟩ := ih h
    cases a with
    | error k => rw [hf] at hb; cases hb
    | ok c => exact ⟨c, rfl, (putUsed (hok c e b hb)).trans hw⟩

theorem putAllUsed {asid : BitVec 9} {l : List (Nat × Needs)} (h : s.putAllUsed asid l = .ok t) : Wrote s t := by
  obtain ⟨b, hb, hw⟩ := of_putUsed (asid := asid) (fun _ _ => rfl) (fun a e u hu => by
    dsimp only at hu
    split at hu
    · cases hu
    · next w hw => cases hu; exact hw) l h
  cases hb
  exact hw

theorem refundGroup (s : State) (asid : BitVec 9) (r : Rcb) (need : Needs) : Wrote s (s.refundGroup asid r need) := by
  simp only [State.refundGroup]
  split
  · exact refl s
  · split
    · next t ht => exact putAllUsed ht
    · exact refl s

end Wrote

/-! ## Cuts (R333) -/

theorem State.completeCut_idle {s : State} (h : s.core.canCut = false) : s.completeCut = s := by
  unfold State.completeCut
  split
  · rfl
  · simp [h]

/-- A cut whose save area takes the context's bytes. -/
theorem State.completeCut_saved {s s1 t0 t1 : State} {k : Cut} (h : s.core.canCut = true) (hk : s.core.cut = some k) (h1 : s1 = s.putCore (s.core.withdrawPre k.ctx))
    (hb : s1.saveWrite k.asid (k.area.toNat + 64) (s1.saveBody k.ctx s1.hub.nextSave) = .ok t0)
    (hh : t0.saveWrite k.asid k.area.toNat (s1.saveHeader k.ctx (s1.saveBody k.ctx s1.hub.nextSave)) = .ok t1) :
    s.completeCut.core = t1.core.afterCut k.ctx k.area ∧ s.completeCut.mem = t1.mem := by
  subst h1
  simp only [State.completeCut, hk, h, hb, hh, Bool.not_true, Bool.false_eq_true, if_false]
  exact ⟨State.releaseAll_core _ _ _ _, State.releaseAll_mem _ _ _ _⟩

theorem Core.afterCut_group (c : Core) (u : CtxId) (area : Word) : ((c.afterCut u area).ctxOf u).group = none := by
  cases u <;> rfl

theorem Core.afterCut_cut (c : Core) (u : CtxId) (area : Word) : (c.afterCut u area).cut = none := by cases u <;> rfl

theorem Core.afterCut_irqs (c : Core) (u : CtxId) (area : Word) : (c.afterCut u area).irqs = c.irqs ++ [⟨2, area, BitVec.ofNat 64 (ctxNum u)⟩] := by cases u <;> rfl

theorem Core.withdrawPre_irqs (c : Core) (u : CtxId) : (c.withdrawPre u).irqs = c.irqs := by cases u <;> rfl

/-! ## Drains (R14) -/

theorem State.endDrain_idle {s : State} {rcb : Nat} (h : s.canEndDrain rcb = false) : s.endDrain rcb = s := by
  unfold State.endDrain
  split
  · rfl
  · simp [h]

/-- What the end of a drain does to a core: the region reserves nothing on it, and its image is gone. -/
def Core.undrained (c : Core) (rcb : Nat) : Core :=
  { c with resv := c.resv.filter (fun v => decide (v.rcb ≠ rcb)), image := if c.image = some rcb then none else c.image }

theorem State.undrained_irqs (s : State) (rcb n : Nat) (hwf : SMap.wf Core.reset s.others = true) :
    ((s.mapCores (fun _ c => c.undrained rcb)).coreOf n).irqs = (s.coreOf n).irqs := by
  by_cases hn : n = s.coreId
  · have hself : (s.mapCores (fun _ c => c.undrained rcb)).coreOf n = s.core.undrained rcb := if_pos hn
    rw [hself, hn, State.coreOf_self]
    rfl
  · rw [s.mapCores_coreOf_ne _ hn hwf]
    split <;> rfl

theorem State.putCoreAt_hub (s : State) (n : Nat) (c : Core) : (s.putCoreAt n c).hub = s.hub := by
  unfold State.putCoreAt
  split <;> rfl

/-- The end of a drain, up to the interrupt of the core that asked for it. -/
theorem State.endDrain_ends {s : State} {rcb : Nat} {r : Region} (hr : s.region rcb = some r) (h : s.canEndDrain rcb = true) :
    ∃ t, Wrote ((s.mapCores (fun _ c => c.undrained rcb)).putRegion rcb { r with state := 0, image := none, drainCore := none }) t ∧
      (r.drainCore = none → s.endDrain rcb = t) ∧
      (∀ n, r.drainCore = some n → s.endDrain rcb = t.putCoreAt n ((t.coreOf n).queueIrq ⟨0x04, BitVec.ofNat 64 rcb, 0⟩)) := by
  refine ⟨_, ((Wrote.writeRcb _ r 0x38 0).trans (Wrote.writeRcb _ r 0x58 0)).trans (Wrote.writeRcb _ r 0x60 0), fun hd => ?_, fun n hd => ?_⟩
  · simp only [State.endDrain, hr, h, hd, Bool.not_true, Bool.false_eq_true, if_false]
    rfl
  · simp only [State.endDrain, hr, h, hd, Bool.not_true, Bool.false_eq_true, if_false]
    rfl

theorem State.putRegion_region (s : State) (rcb : Nat) (r : Region) : (s.putRegion rcb r).region rcb = some r := by
  simp [State.putRegion, State.region]

theorem State.endDrain_results {s : State} {rcb : Nat} {r : Region} (hr : s.region rcb = some r) (h : s.canEndDrain rcb = true) (hwf : SMap.wf Core.reset s.others = true) :
    (s.endDrain rcb).region rcb = some { r with state := 0, image := none, drainCore := none } ∧
      (∀ n, r.drainCore = some n → ((s.endDrain rcb).coreOf n).irqs = (s.coreOf n).irqs ++ [⟨4, BitVec.ofNat 64 rcb, 0⟩]) := by
  obtain ⟨t, ht, hnone, hsome⟩ := s.endDrain_ends hr h
  have hreg : t.region rcb = some { r with state := 0, image := none, drainCore := none } := (ht.region rcb).trans (State.putRegion_region _ _ _)
  cases hd : r.drainCore with
  | none =>
    rw [hnone hd]
    exact ⟨hreg, fun n hn => by cases hn⟩
  | some m =>
    rw [hsome m hd]
    refine ⟨?_, fun n hn => ?_⟩
    · rw [State.region, State.putCoreAt_hub]
      exact hreg
    · cases hn
      rw [State.putCoreAt_coreOf, ht.coreOf, Core.queueIrq]
      exact congrArg (· ++ _) (s.undrained_irqs rcb m hwf)

/-! ## Groups (R21) -/

section Retire

variable {s : State} {u : CtxId}

theorem State.retireGroup_idle (h : s.core.canRetire u = false) : s.retireGroup u = s := by
  unfold State.retireGroup
  split
  · rfl
  · simp [h]

theorem Core.canRetire_false {c : Core} (h : (c.ctxOf u).group = none ∨ (c.ctxOf u).parsed = false ∨ (c.ctxOf u).st = .trapped ∨
    (∃ v ∈ c.invs, v.ctx = u ∧ v.spent (c.ctxOf u) = false)) : c.canRetire u = false := by
  rw [Core.canRetire]
  obtain h | h | h | ⟨v, hv, hu, hs⟩ := h
  · simp [h]
  · simp [h]
  · simp [h]
  · have hany : c.invs.any (fun v => v.ctx = u && !v.spent (c.ctxOf u)) = true := List.any_eq_true.2 ⟨v, hv, by simp [hu, hs]⟩
    simp [hany]

theorem State.dropOne_hub (a : State) (v : Inv) : (a.dropOne v).hub = a.hub := by
  have hundo : (v.undo.foldl State.undoFrame a).hub = a.hub := (SameButDies.foldl SameButDies.undoFrame v.undo a).hub
  exact (SameButDies.unholdInv _ v false).hub.trans hundo

theorem State.dropInvs_hub (s : State) (p : Inv → Bool) : (s.dropInvs p).hub = s.hub := by
  obtain ⟨t, ht, hd⟩ := s.dropInvs_eq p
  rw [hd, State.putCore_hub, ht]
  exact foldl_keeps (f := State.dropOne) State.hub State.dropOne_hub (s.core.invs.filter p) s

theorem Port.disown_owner (p : Port) (b : Bool) : (p.disown b).owner = none := by cases b <;> rfl

/-- A port of a core once the context's group is gone. -/
def Core.disownPort (c : Core) (u : CtxId) (n : Nat) (p : Port) : Port := if p.owner = some u then p.disown (!c.quiescentPort n) else p

theorem Core.disown_ports (c : Core) (u : CtxId) : (c.disown u).ports = c.ports.map (fun e => (e.1, c.disownPort u e.1 e.2)) := rfl

theorem Core.disownPort_owner (c : Core) (u : CtxId) (n : Nat) (p : Port) : (c.disownPort u n p).owner ≠ some u := by
  unfold Core.disownPort
  split
  · simp [Port.disown_owner]
  · next h => exact h

theorem Core.disown_owner (c : Core) (u : CtxId) (p : Nat) : (SMap.get Port.reset (c.disown u).ports p).owner ≠ some u := by
  rw [Core.disown_ports, SMap.get_map]
  split
  · exact c.disownPort_owner u _ _
  · simp [Port.reset]

theorem State.forgetRefused_core (s : State) (rcb : Nat) : (s.forgetRefused rcb).core = s.core := rfl
theorem State.forgetRefused_launch (s : State) (rcb i : Nat) : (s.forgetRefused rcb).launch i = s.launch i := rfl

theorem State.putLaunch_launch (s : State) (i : Nat) (l : Option Launch) : (s.putLaunch i l).launch i = l.map (fun m => m.at s.hub.cycle) := SMap.get_set_self _ _ _ _

theorem Launch.retire_congr (l : Launch) {x y : Ctx} (g : Group) (hf : x.faulted = y.faulted) (hc : x.fcause = y.fcause) : l.retire x g = l.retire y g := by
  rw [Launch.retire, Launch.retire, hf, hc]

/-- The core of a retired group. -/
def Core.retired (c : Core) (u : CtxId) : Core :=
  { ((c.passResv u).disown u).putCtx u { (c.ctxOf u).vacate with st := .retired } with
    cut := if ((c.passResv u).disown u).cut.any (fun k => k.ctx = u) then none else ((c.passResv u).disown u).cut }

theorem Core.retired_ctx (c : Core) (u : CtxId) : (c.retired u).ctxOf u = { (c.ctxOf u).vacate with st := .retired } := by cases u <;> rfl

theorem Core.retired_ports (c : Core) (u : CtxId) : (c.retired u).ports = ((c.passResv u).disown u).ports := by cases u <;> rfl

/-- The needs that a retired group gives back. -/
def State.needsOf (s : State) (rcb : Nat) : Needs := (((s.region rcb).bind (fun r => r.image)).map Image.groupNeeds).getD ⟨1, 0, 0, 0⟩

/-- The steps of the retirement of a group that records nothing. -/
theorem State.retireGroup_live {g : Group} {l : Launch} (h : s.core.canRetire u = true) (hg : (s.ctxAt u).group = some g) (hm : (s.ctxAt u).scroll.mode ≠ 1)
    {t t2 : State} (ht : t = (s.dropInvs (fun v => v.ctx = u)).releaseAll u 0 [hubKey]) (ht2 : t2 = t.putCore (t.core.retired u)) (hl : t2.launch g.slot = some l) :
    s.retireGroup u = ((t2.refundGroup l.asid (t2.rcb l.asid l.rcbVa.toNat) (t2.needsOf g.rcb)).putLaunch g.slot (some (l.retire (t.ctxAt u) g))).forgetRefused g.rcb := by
  have hmode : (decide ((s.ctxAt u).scroll.mode = 1) && (s.ctxAt u).scroll.atBind) = false := by rw [decide_eq_false hm, Bool.false_and]
  simp only [State.retireGroup, hg, h, hmode, Bool.not_true, Bool.false_eq_true, if_false]
  rw [← ht]
  have h2 : t.putCore { ((t.core.passResv u).disown u).putCtx u { (t.ctxAt u).vacate with st := .retired } with
      cut := if ((t.core.passResv u).disown u).cut.any (fun k => k.ctx = u) then none else ((t.core.passResv u).disown u).cut } = t2 := ht2.symm
  rw [h2, hl]
  rfl

/-- A group that may retire, and that records nothing. -/
theorem State.retireGroup_ends {g : Group} {l : Launch} (h : s.core.canRetire u = true) (hg : (s.ctxAt u).group = some g) (hm : (s.ctxAt u).scroll.mode ≠ 1)
    (hl : s.launch g.slot = some l) :
    ∃ c, SameButUnits s.core c ∧ (s.retireGroup u).core = c.retired u ∧ (s.retireGroup u).launch g.slot = some ((l.retire (s.ctxAt u) g).at s.hub.cycle) := by
  obtain ⟨t, ht⟩ : ∃ t, t = (s.dropInvs (fun v => v.ctx = u)).releaseAll u 0 [hubKey] := ⟨_, rfl⟩
  have hunits : SameButUnits s.core t.core := by rw [ht, State.releaseAll_core]; exact (s.dropInvs_core _).1
  have hhub : t.hub = s.hub := by rw [ht, State.releaseAll_hub, State.dropInvs_hub]
  have hctx : t.ctxAt u = s.ctxAt u := hunits.ctxOf u
  have hl1 : (t.putCore (t.core.retired u)).launch g.slot = some l := by rw [State.launch, State.putCore_hub, hhub]; exact hl
  have hw := Wrote.refundGroup (t.putCore (t.core.retired u)) l.asid ((t.putCore (t.core.retired u)).rcb l.asid l.rcbVa.toNat) ((t.putCore (t.core.retired u)).needsOf g.rcb)
  rw [State.retireGroup_live h hg hm ht rfl hl1]
  refine ⟨t.core, hunits, hw.core, ?_⟩
  rw [State.forgetRefused_launch, State.putLaunch_launch, hw.hub, State.putCore_hub, hhub, hctx]
  rfl

end Retire

/-! ## Launches and rings (R22, R485, R490) -/

section Launches

variable {s : State} {i : Nat} {l : Launch}

theorem State.completeLaunch_none (h : s.launch i = none) : s.completeLaunch i = s := by
  simp only [State.completeLaunch, h]

theorem State.completeLaunch_open (h : s.launch i = some l) (ho : l.over = false) : s.completeLaunch i = s := by
  simp only [State.completeLaunch, h, ho, Bool.not_false, if_true]

theorem Launch.over_iff : l.over = true ↔ l.closed = true ∧ l.bound = l.retired := by
  rw [Launch.over]
  simp

theorem State.setRegionState_hub (s : State) (rcb : Nat) (st : BitVec 2) :
    (s.setRegionState rcb st).hub.launches = s.hub.launches ∧ (s.setRegionState rcb st).hub.msix = s.hub.msix := by
  unfold State.setRegionState
  split
  · exact ⟨rfl, rfl⟩
  · rw [(Wrote.writeRcb _ _ _ _).hub]
    exact ⟨rfl, rfl⟩

theorem State.leaveTable_keeps (s : State) (i : Nat) (l : Launch) : (s.leaveTable i l).launch i = none ∧ (s.leaveTable i l).hub.msix = s.hub.msix := by
  simp only [State.leaveTable]
  split
  · obtain ⟨h1, h2⟩ := State.setRegionState_hub { s.putLaunch i none with hub := { (s.putLaunch i none).hub with accepted := (s.putLaunch i none).hub.accepted.filter (fun k => k ≠ i) } } l.rcb 1
    rw [State.launch, h1, h2]
    exact ⟨State.putLaunch_launch s i none, rfl⟩
  · exact ⟨State.putLaunch_launch s i none, rfl⟩

section Over

variable (h : s.launch i = some l) (ho : l.over = true)
include h ho

theorem State.completeLaunch_silent (hc : ((s.acquireBy hubParty 4 [hubKey]).rcb l.asid l.rcbVa.toNat).cmode = 3) :
    s.completeLaunch i = (s.acquireBy hubParty 4 [hubKey]).leaveTable i l := by
  simp [State.completeLaunch, h, ho, hc]

theorem State.completeLaunch_signal (hc : ((s.acquireBy hubParty 4 [hubKey]).rcb l.asid l.rcbVa.toNat).cmode = 0) :
    s.completeLaunch i = ((s.acquireBy hubParty 4 [hubKey]).completeSignal l).leaveTable i l := by
  simp [State.completeLaunch, h, ho, hc]

theorem State.completeLaunch_full {a : State} (ha : a = s.acquireBy hubParty 4 [hubKey]) {r : Ring}
    (hc : (a.rcb l.asid l.rcbVa.toNat).cmode = 1 ∨ (a.rcb l.asid l.rcbVa.toNat).cmode = 2)
    (hr : a.ring l.asid (a.rcb l.asid l.rcbVa.toNat).evr = some r) (hf : 2 ^ r.log2 ≤ (r.wptr - r.rptr).toNat) :
    s.completeLaunch i = a.putLaunch i (some { l with ringWait := true }) := by
  have hfull : r.full = true := decide_eq_true hf
  have hb : (decide ((a.rcb l.asid l.rcbVa.toNat).cmode = 1) || decide ((a.rcb l.asid l.rcbVa.toNat).cmode = 2)) = true := by simpa using hc
  subst ha
  simp only [State.completeLaunch, h, ho, hr, hfull, Bool.not_true, Bool.false_eq_true, if_false, if_true, hb]

end Over

end Launches

theorem State.ringExpiry_idle {s : State} {a : Nat} (h : s.ringDue a = false) : s.ringExpiry a = s := if_neg (by simp [h])

theorem State.ringExpiry_due {s : State} {a : Nat} (h : s.ringDue a = true) :
    s.ringExpiry a = s.raiseRing a (SMap.get ⟨0, 0, 0⟩ s.hub.rings a).vf (ringOf a (leNat (s.bytesAt a 64))).msix := if_pos h

/-- Settles O46: each end is an equation of its own for the condition that holds and for the one that does not; between the two stands what the hub's stores leave (`Wrote`). -/
theorem endsOfWork : Obligations.EndsOfWork := by
  intro s
  refine ⟨fun h => congrArg _ (State.completeCut_idle h), fun k s1 t0 t1 h hk h1 hb hh => ?_, fun rcb h => congrArg _ (State.endDrain_idle h), fun rcb r hr h hwf => ?_,
    fun n u hu => ⟨fun h => ?_, fun g l h hg hm hl => ?_⟩, fun i => ⟨fun h => congrArg _ (State.completeLaunch_none h), fun l hl => ⟨fun h => ?_, fun a ha hc hbr => ?_⟩⟩,
    fun a => ⟨fun h => congrArg _ (State.ringExpiry_idle h), fun h => ?_⟩⟩
  · have hser : s1.hub.nextSave = s.hub.nextSave := by rw [h1]; rfl
    rw [← hser] at hb hh
    obtain ⟨hcore, hmem⟩ := State.completeCut_saved h hk h1 hb hh
    have hirq : t1.core.irqs = s.core.irqs := by
      rw [((Wrote.saveWrite hb).trans (Wrote.saveWrite hh)).core, h1]
      exact Core.withdrawPre_irqs _ _
    refine ⟨_, rfl, ?_, ?_, hmem, ?_⟩
    · rw [State.ctxAt, hcore, Core.afterCut_group]
    · rw [hcore, Core.afterCut_cut]
    · rw [hcore, Core.afterCut_irqs, hirq]
  · exact ⟨_, rfl, State.endDrain_results hr h hwf⟩
  · subst hu
    exact congrArg _ (State.retireGroup_idle (Core.canRetire_false h))
  · subst hu
    obtain ⟨c, hc, hcore, hlaunch⟩ := State.retireGroup_ends h hg hm hl
    refine ⟨_, rfl, ?_, ?_, hlaunch, fun p => ?_⟩
    · rw [State.ctxAt, hcore, Core.retired_ctx]
      rfl
    · rw [State.ctxAt, hcore, Core.retired_ctx]
    · rw [State.port, hcore, Core.retired_ports]
      exact Core.disown_owner _ _ _
  · refine congrArg _ (State.completeLaunch_open hl (Bool.eq_false_iff.2 fun ho => ?_))
    obtain ⟨hc, hb⟩ := Launch.over_iff.1 ho
    simp [hc, hb] at h
  · have ho := Launch.over_iff.2 ⟨hc, hbr⟩
    refine ⟨fun h3 => ?_, fun h0 => ?_, fun r hm hr hf => congrArg _ (State.completeLaunch_full hl ho ha hm hr hf)⟩
    · subst ha
      obtain ⟨h1, h2⟩ := (s.acquireBy hubParty 4 [hubKey]).leaveTable_keeps i.toNat l
      refine ⟨_, congrArg Host.Outcome.next (State.completeLaunch_silent hl ho h3), h1, h2.trans ?_⟩
      rw [State.acquireBy_hub]
    · subst ha
      exact congrArg _ (State.completeLaunch_signal hl ho h0)
  · refine ⟨_, congrArg Host.Outcome.next (State.ringExpiry_due h), ?_, rfl⟩
    simp [State.raiseRing]

end Sys2Proof.Machine

end

section
/-! PROOFS. Doorbells, queue states, and the turns of the front end at command packets (R477 to R481, R493, R518). -/

namespace Sys2Proof.Machine

/-! ## A queue and its state -/

theorem State.putQueue_queue (s : State) (q : Nat) (x : Queue) : (s.putQueue q x).queue q = x := by
  simp [State.putQueue, State.queue]

theorem State.turnTaken_queue (s : State) (q n : Nat) : (s.turnTaken n).queue q = s.queue q := rfl

theorem State.doorbell_eq (s : State) (q : Nat) (w : BitVec 32) :
    s.doorbell q w = if (s.queue q).state = 3 ∨ (SMap.get 0 s.hub.vfs (q / 16)).getLsbD 31 = false then s else s.putQueue q { s.queue q with wptr := w } := by
  have hbit : bit (SMap.get 0 s.hub.vfs (q / 16)) 31 = (SMap.get 0 s.hub.vfs (q / 16)).getLsbD 31 := rfl
  simp only [State.doorbell, hbit]
  exact if_congr (by simp) rfl rfl

section WriteState

variable {s : State} {q : Nat} {v : BitVec 2}

theorem State.writeQueueState_ignored (h : (s.queue q).state = 3 ∨ v = 2 ∨ v = 3) : s.writeQueueState q v = s := by
  have hb : ((s.queue q).state = 3 || v = 2 || v = 3) = true := by simpa [or_assoc] using h
  simp only [State.writeQueueState, hb, if_true]

theorem State.writeQueueState_stop (h : (s.queue q).state ≠ 3) :
    s.writeQueueState q 0 = s.putQueue q (if (s.queue q).state = 1 ∧ (s.queue q).busy = true then { s.queue q with stop := true } else (s.queue q).off) := by
  have hb : ((s.queue q).state = 3 || (0 : BitVec 2) = 2 || (0 : BitVec 2) = 3) = false := by simpa using h
  simp only [State.writeQueueState, hb, Bool.false_eq_true, if_false, if_true]
  exact congrArg _ (if_congr (by simp) rfl rfl)

theorem Queue.sized_iff (x : Queue) : x.sized = true ↔ 10 ≤ x.log2.toNat ∧ x.log2.toNat ≤ 24 := by
  rw [Queue.sized]
  simp

theorem State.writeQueueState_start (h : (s.queue q).state = 0 ∨ (s.queue q).state = 2) :
    s.writeQueueState q 1 =
      s.putQueue q { (s.queue q).off with err := 0, state := if 10 ≤ (s.queue q).log2.toNat ∧ (s.queue q).log2.toNat ≤ 24 then 1 else 0 } := by
  have h3 : (s.queue q).state ≠ 3 := by rintro h3; rw [h3] at h; revert h; decide
  have h1 : (s.queue q).state ≠ 1 := by rintro h1; rw [h1] at h; revert h; decide
  have hb : ((s.queue q).state = 3 || (1 : BitVec 2) = 2 || (1 : BitVec 2) = 3) = false := by simpa using h3
  have hz : ¬ (1 : BitVec 2) = 0 := by decide
  simp only [State.writeQueueState, hb, h1, hz, Bool.false_eq_true, if_false]
  rw [if_congr (Queue.sized_iff _) rfl rfl]

end WriteState

/-! ## The turn of the front end -/

section Turn

variable {s : State} {q k : Nat}

theorem State.queueError_queue (s : State) (q k : Nat) : ((s.queueError q k).queue q).state = 2 ∧ ((s.queueError q k).queue q).err = BitVec.ofNat 32 ((s.queue q).errAt % 2 ^ 24 * 256 + k) := by
  rw [State.queueError, State.putQueue_queue]
  exact ⟨rfl, rfl⟩

theorem State.packetTurn_shut (h : s.hub.fest ≠ 0 ∨ (s.queue q).state ≠ 1 ∨ (s.queue q).hold ≠ none) : s.packetTurn q k = s := by
  have hb : (s.hub.fest ≠ 0 || (s.queue q).state ≠ 1 || (s.queue q).hold.isSome) = true := by
    simpa [or_assoc, Option.isSome_iff_ne_none] using h
  simp only [State.packetTurn, State.queueTurn, hb, if_true, Option.getD_none]

section Open

variable (hf : s.hub.fest = 0) (hs : (s.queue q).state = 1) (hh : (s.queue q).hold = none)
include hf hs hh

theorem State.packetTurn_wait (hp : s.parsePacket q = .wait) : s.packetTurn q k = s := by
  simp [State.packetTurn, State.queueTurn, hf, hs, hh, hp]

theorem State.packetTurn_error {e : Nat} (hp : s.parsePacket q = .error e) : s.packetTurn q k = (s.queueError q e).turnTaken q := by
  simp [State.packetTurn, State.queueTurn, hf, hs, hh, hp]

theorem State.packetTurn_other {p : Packet} (hp : s.parsePacket q = .packet p) (ht : p.type ≠ k) : s.packetTurn q k = s := by
  simp [State.packetTurn, State.queueTurn, hf, hs, hh, hp, ht]

theorem State.packetTurn_runs {p : Packet} (hp : s.parsePacket q = .packet p) (ht : p.type = k) : s.packetTurn q k = (s.runPacket q p).turnTaken q := by
  simp [State.packetTurn, State.queueTurn, hf, hs, hh, hp, ht]

end Open

/-- A breach of a packet is its queue's error. -/
theorem State.runPacket_breach {p : Packet} {e : Nat} (hb : p.breach (s.queue q) = some e) : s.runPacket q p = s.queueError q e := by
  simp only [State.runPacket, hb]

section Sound

variable {p : Packet} (hb : p.breach (s.queue q) = none)
include hb

theorem State.runPacket_holds (hr : s.packetReady q p = false) : s.runPacket q p = s.putQueue q { s.queue q with hold := some (BitVec.ofNat 8 p.type), words := p.words } := by
  simp [State.runPacket, hb, hr]

theorem State.runPacket_fails {e : Nat} (hr : s.packetReady q p = true) (he : s.packetEffect q p = .error e) : s.runPacket q p = s.queueError q e := by
  simp [State.runPacket, hb, hr, he]

theorem State.runPacket_passes {t : State} (hr : s.packetReady q p = true) (he : s.packetEffect q p = .ok t) : s.runPacket q p = t.passPacket q p := by
  simp [State.runPacket, hb, hr, he]

end Sound

end Turn

/-! ## The packet passed, and the packet that holds its queue -/

theorem Queue.advance_stop (x : Queue) (n : Nat) : (x.advance n).stop = x.stop := by
  unfold Queue.advance
  split <;> rfl

theorem Queue.stopped_state {y : Queue} (h : y.stop = true) (hb : y.busy = false) : (if (y.stop && !y.busy) = true then y.off else y).state = 0 := by
  rw [h, hb]
  rfl

theorem State.passPacket_stops {s : State} {q : Nat} {p : Packet} (h : (s.queue q).stop = true) (ht : p.type ≠ 5)
    (hb : ((s.queue q).advance (1 + p.body.length)).buffers = []) : ((s.passPacket q p).queue q).state = 0 := by
  simp only [State.passPacket, State.putQueue_queue, ht, if_false]
  refine Queue.stopped_state (y := { (s.queue q).advance (1 + p.body.length) with hold := none, words := [] }) ((Queue.advance_stop _ _).trans h) ?_
  exact congrArg (fun l => !List.isEmpty l) hb

theorem packetOf_words {p : Packet} (hf : p.flags < 2 ^ 16) (hl : p.body.length < 2 ^ 8) : packetOf p.words = some p := by
  have ht : (p.type * 2 ^ 24 + p.body.length * 2 ^ 16 + p.flags) / 2 ^ 24 = p.type := by omega
  have hm : (p.type * 2 ^ 24 + p.body.length * 2 ^ 16 + p.flags) % 65536 = p.flags := by omega
  rw [Packet.words, packetOf, ht, hm]

theorem State.heldPacket_held {s : State} {q : Nat} {p : Packet} (hf : s.hub.fest = 0) (hs : (s.queue q).state = 1) (hh : (s.queue q).hold ≠ none)
    (hw : (s.queue q).words = p.words) (hfl : p.flags < 2 ^ 16) (hl : p.body.length < 2 ^ 8) : s.heldPacket q = if s.packetReady q p = true then some p else none := by
  have hb : (s.hub.fest ≠ 0 || (s.queue q).state ≠ 1 || (s.queue q).hold.isNone) = false := by simp [hf, hs, Option.isSome_iff_ne_none.2 hh]
  simp only [State.heldPacket, hb, Bool.false_eq_true, if_false, hw, packetOf_words hfl hl]
  rfl

/-! ## A lost queue (R493) -/

theorem State.loseQueue_hub (s : State) (q : Nat) :
    (s.loseQueue q).hub = ((s.putQueue q { (s.queue q).off with state := 3 }).mapLaunches (fun l => if l.q = q then l.close 3 else l)).hub :=
  (SameButDies.margin _ _ _ _ _ _ _ _ _).hub

theorem State.mapLaunches_launch (s : State) (f : Launch → Launch) {i : Nat} {l : Launch} (h : s.launch i = some l) :
    (s.mapLaunches f).launch i = some ((f l).at s.hub.cycle) := by
  have hmap := SMap.get_map none (fun _ (e : Option Launch) => e.map (fun l => (f l).at s.hub.cycle)) s.hub.launches i
  have hl : SMap.get none s.hub.launches i = some l := h
  have hin : ∃ e ∈ s.hub.launches, e.1 = i := by
    by_contra hno
    rw [SMap.get_of_unlisted none _ hno] at hl
    cases hl
  rw [if_pos hin, hl] at hmap
  exact hmap

theorem State.loseQueue_leaves (s : State) (q : Nat) :
    ((s.loseQueue q).queue q).state = 3 ∧ (∀ i l, s.launch i = some l → l.q = q → (s.loseQueue q).launch i = some ((l.close 3).at s.hub.cycle)) ∧ (s.loseQueue q).mem = s.mem := by
  have hhub := s.loseQueue_hub q
  refine ⟨?_, fun i l hl hq => ?_, (SameButDies.margin _ _ _ _ _ _ _ _ _).mem⟩
  · have hqueue := State.putQueue_queue s q { (s.queue q).off with state := 3 }
    rw [State.queue, hhub]
    exact congrArg Queue.state hqueue
  · have hmap := (s.putQueue q { (s.queue q).off with state := 3 }).mapLaunches_launch (fun l => if l.q = q then l.close 3 else l) (i := i) (l := l) hl
    rw [State.launch, hhub]
    rw [if_pos hq] at hmap
    exact hmap

/-- Every one of the ten packets is the front end's turn at its type. -/
theorem exec_packet (q : BitVec 12) (s : State) (e : Instr × Nat)
    (h : e ∈ [(Instr.nopPacket q, 0), (.launchPacket q, 1), (.bindPacket q, 2), (.signalPacket q, 3), (.waitPacket q, 4), (.indirectPacket q, 5), (.pinitPacket q, 6),
      (.fencePacket q, 7), (.recordPacket q, 8), (.replayPacket q, 9)]) : exec e.1 s = .next (s.packetTurn q.toNat e.2) := by
  simp only [List.mem_cons, List.not_mem_nil, or_false] at h
  rcases h with rfl | rfl | rfl | rfl | rfl | rfl | rfl | rfl | rfl | rfl <;> rfl

/-- Settles O47: each write of a queue and each turn of the front end by its own equation; the ten packets differ in their type alone. -/
theorem queueSteps : Obligations.QueueSteps := by
  intro q s n x
  refine ⟨fun w => congrArg _ (s.doorbell_eq n w), fun v => ⟨fun h => congrArg _ (State.writeQueueState_ignored h), fun h hv => ?_, fun h hv => ?_⟩, fun e he => ?_,
    fun p => State.passPacket_stops, fun p => State.heldPacket_held, fun h => ?_, fun p h => ?_, ⟨_, rfl, s.loseQueue_leaves n⟩⟩
  · subst hv
    exact congrArg _ (State.writeQueueState_stop h)
  · subst hv
    exact congrArg _ (State.writeQueueState_start h)
  · rw [exec_packet q s e he]
    refine ⟨fun h => congrArg _ (State.packetTurn_shut h), fun hf hs hh => ⟨fun hp => congrArg _ (State.packetTurn_wait hf hs hh hp), fun k hp => ?_, fun p hp =>
      ⟨fun ht => congrArg _ (State.packetTurn_other hf hs hh hp ht), fun ht => ?_⟩⟩⟩
    · refine ⟨_, congrArg _ (State.packetTurn_error hf hs hh hp), rfl, ?_⟩
      exact s.queueError_queue n k
    · rw [State.packetTurn_runs hf hs hh hp ht]
      exact ⟨fun k hb => by rw [State.runPacket_breach hb], fun hb hr => by rw [State.runPacket_holds hb hr], fun k hb hr he => by rw [State.runPacket_fails hb hr he],
        fun t hb hr he => by rw [State.runPacket_passes hb hr he]⟩
  · have hr : s.releaseHold n = s := by simp only [State.releaseHold, h]
    exact congrArg _ hr
  · have hr : s.releaseHold n = s.runPacket n p := by simp only [State.releaseHold, h]
    exact congrArg _ hr

end Sys2Proof.Machine

end

section
/-! PROOFS. Bind records, the Scribe's reset, and the move of a group (R30, R482 to R484, R492, R500, R532). -/

namespace Sys2Proof.Machine

/-! ## The circuits of ports that move leave the memory -/

theorem State.focus_mem (s : State) (n : Nat) : (s.focus n).mem = s.mem := by
  unfold State.focus
  split <;> rfl

theorem State.discard_mem (s : State) (v : Inv) (i : TrapInfo) (tile : Nat) : (s.discard v i tile).mem = s.mem := by
  simp only [State.discard]
  have hd := ((SameButDies.foldl SameButDies.undoFrame v.undo s).trans (SameButDies.genFault _ i tile)).trans (SameButDies.unholdInv _ v false)
  generalize State.unholdInv _ v false = u at hd
  exact hd.mem

theorem State.loseEnd_mem (s : State) (pn : Nat) : (s.loseEnd pn).mem = s.mem := by
  simp only [State.loseEnd]
  split
  · rfl
  · exact State.discard_mem _ _ _ _

theorem State.circMoved_mem (s : State) (old pn : Nat) : (s.circMoved old pn).mem = s.mem := by
  simp only [State.circMoved]
  split
  · rfl
  · rw [State.focus_mem]
    exact (foldl_keeps (f := fun (a : State) (e : Nat × Nat) => (a.focus e.1).loseEnd e.2) State.mem
      (fun a e => (State.loseEnd_mem _ _).trans (a.focus_mem _)) _ (s.focus old)).trans (s.focus_mem old)

/-! ## Records in their slots -/

theorem State.scribeWrite_eq (s : State) (d k : Nat) (r : BitVec 128) :
    s.scribeWrite d k r = if s.hub.scribeUp = false ∨ (SMap.get none (s.die d).bind k).isSome then s
      else s.putDie d { s.die d with bind := SMap.set none (s.die d).bind k (some r) } := by
  simp only [State.scribeWrite]
  exact if_congr (by simp) rfl rfl

/-- A die's slot emptied. -/
def State.emptySlot (s : State) (d i : Nat) : State := s.putDie d { s.die d with bind := SMap.set none (s.die d).bind i none }

theorem State.emptySlot_bind (s : State) (d i : Nat) : SMap.get none ((s.emptySlot d i).die d).bind i = none := by
  rw [State.emptySlot, State.putDie_die]
  simp

section Check

variable {s : State} {d i : Nat} {r : BitVec 128}

theorem State.checkRecord_idle (h : s.hub.stage ≠ 5 ∨ (s.die d).noBind = true ∨ s.fullSlot d = none) : s.checkRecord d = s := by
  simp only [State.checkRecord, State.recordMove]
  rcases h with h | h | h
  · rw [decide_eq_true h, Bool.true_or, if_pos rfl]
    rfl
  · simp [h]
  · simp [h]

theorem State.fullSlot_noBind (h : s.fullSlot d = some (i, r)) : (s.die (bindCore r / 64)).noBind = false := by
  obtain ⟨e, -, he⟩ := List.exists_of_findSome?_eq_some h
  obtain ⟨x, -, hx⟩ := Option.bind_eq_some_iff.1 he
  split at hx
  · cases hx
  · next hb =>
    cases hx
    exact Bool.eq_false_iff.2 hb

section Open

variable (hf : s.fullSlot d = some (i, r))
include hf

theorem State.checkRecord_waits {u : State} {l : Launch} (ha : s.applyRecord r = .ok u) (hs : s.hasBound r = false) (hu : u.hasBound r = true)
    (hl : s.launch (bindSlot r) = some l) (hp : s.portsBusy l.rcb (bindCore r) = true) : s.checkRecord d = s := by
  simp [State.checkRecord, State.recordMove, hf, ha, hs, hu, hl, hp]

variable (hst : s.hub.stage = 5) (hnb : (s.die d).noBind = false)
include hst hnb

theorem State.checkRecord_binds {u : State} (ha : s.applyRecord r = .ok u)
    (hw : s.hasBound r = true ∨ u.hasBound r = false ∨ (∀ l, s.launch (bindSlot r) = some l → s.portsBusy l.rcb (bindCore r) = false)) :
    s.checkRecord d = u.emptySlot d i := by
  have hbusy : (!s.hasBound r && u.hasBound r && (s.launch (bindSlot r)).any (fun l => s.portsBusy l.rcb (bindCore r))) = false := by
    rcases hw with h | h | h
    · rw [h]; rfl
    · rw [h, Bool.and_false]; rfl
    · have hany : (s.launch (bindSlot r)).any (fun l => s.portsBusy l.rcb (bindCore r)) = false := by
        cases hl : s.launch (bindSlot r) with
        | none => rfl
        | some l => exact h l hl
      rw [hany, Bool.and_false]
  simp [State.checkRecord, State.recordMove, hst, hnb, hf, ha, hbusy, State.emptySlot]

theorem State.checkRecord_refuses {u : State} {k : Nat} (ha : s.applyRecord r = .error (k, u)) :
    s.checkRecord d = (u.emptySlot d i).putDie d { (u.emptySlot d i).die d with refused := ((u.emptySlot d i).die d).refused ++ [(i, r, k)] } := by
  simp [State.checkRecord, State.recordMove, hst, hnb, hf, ha, State.emptySlot]

end Open

end Check

theorem State.applyRecord_refused {s : State} {r : BitVec 128} {k : Nat} (h : s.bindCheck r = some k) : s.applyRecord r = .error (k, s) := by
  simp only [State.applyRecord, h]

theorem State.emptySlot_refused (s : State) (d i : Nat) : ((s.emptySlot d i).die d).refused = (s.die d).refused := by
  rw [State.emptySlot, State.putDie_die]

/-! ## The move of a group (R30) -/

theorem State.acquireBy_coreOf (s : State) (q m : Nat) (l : List (Nat × Nat)) (n : Nat) : (s.acquireBy q m l).coreOf n = s.coreOf n := by
  simp only [State.coreOf, State.acquireBy_core, State.acquireBy_coreId, State.acquireBy_others]

theorem State.putCoreAt_coreId (s : State) (n : Nat) (c : Core) : (s.putCoreAt n c).coreId = s.coreId := by
  unfold State.putCoreAt
  split <;> rfl

section Move

variable {s : State} {u v : CtxId} {core : Nat}

theorem State.rebalance_stays (h : (s.ctxAt u).group = none ∨ s.core.canMove u = false ∨ (∀ g, (s.ctxAt u).group = some g → s.canTake g core v = false) ∨
    (s.coreOf core).hasRoom (s.core.saved u s.coreId) = false) : s.rebalance u core v = s := by
  unfold State.rebalance
  split
  · rfl
  · next g hg =>
    rw [if_pos]
    rcases h with h | h | h | h
    · rw [h] at hg; cases hg
    · simp [h]
    · simp [h g hg]
    · simp [h]

theorem Core.takeResv_ctxOf (c : Core) (rcb : Nat) (u w : CtxId) : (c.takeResv rcb u).ctxOf w = c.ctxOf w := by cases w <;> rfl

theorem Core.withUnits_ctxOf (c : Core) (w : CtxId) (ports : SMap Port) (accs : SMap Acc) (ws : SMap WSlot) :
    ({ c with ports := ports, accs := accs, wslots := ws } : Core).ctxOf w = c.ctxOf w := by cases w <;> rfl

theorem Core.receive_ctxOf (c : Core) (v w : CtxId) (x : Ctx) (ports : SMap Port) (accs : SMap Acc) (ws : SMap WSlot) :
    (c.receive v x ports accs ws).ctxOf w = (c.putCtx v x).ctxOf w := by
  simp only [Core.receive]
  split
  · rw [Core.takeResv_ctxOf, (SameButUnits.settleSkips _).ctxOf, Core.withUnits_ctxOf]
  · rw [(SameButUnits.settleSkips _).ctxOf, Core.withUnits_ctxOf]

/-- The core that a group has left. -/
def Core.left (c : Core) (u : CtxId) (x : Ctx) : Core :=
  ({ c with
    ports := c.ports.filter (fun e => e.2.owner ≠ some u)
    resv := c.resv.map (fun (r : Reservation) => if r.owner = some u then { r with owner := none } else r) } : Core).putCtx u x.vacate

theorem Core.left_self (c : Core) (u : CtxId) (x : Ctx) : (c.left u x).ctxOf u = x.vacate := Core.ctxOf_putCtx _ _ _

/-- A group moves: it leaves its core, its stores are released there, and another core receives it. -/
theorem State.rebalance_moves {g : Group} (hg : (s.ctxAt u).group = some g) (hm : s.core.canMove u = true) (ht : s.canTake g core v = true)
    (hr : (s.coreOf core).hasRoom (s.core.saved u s.coreId) = true) :
    ∃ (t : State) (k : Saved), t.coreId = s.coreId ∧ t.mem = s.mem ∧
      s.rebalance u core v = (((t.putCore (t.core.left u (s.ctxAt u))).releaseAll u 1 [hubKey]).putCoreAt core
        (((t.putCore (t.core.left u (s.ctxAt u))).coreOf core).receive v (s.ctxAt u) k.ports k.accs k.wslots)).acquireBy (partyOf core v) 4 [hubKey] := by
  obtain ⟨t, hfold⟩ : ∃ t, t = ((s.core.saved u s.coreId).ports.map (·.1)).foldl (fun (a : State) p => a.circMoved s.coreId p) s := ⟨_, rfl⟩
  refine ⟨t, s.core.saved u s.coreId, ?_, ?_, ?_⟩
  · rw [hfold]
    exact foldl_keeps (f := fun (a : State) p => a.circMoved s.coreId p) State.coreId (fun a p => a.circMoved_coreId _ p) _ s
  · rw [hfold]
    exact foldl_keeps (f := fun (a : State) p => a.circMoved s.coreId p) State.mem (fun a p => a.circMoved_mem _ p) _ s
  · simp only [State.rebalance, Core.left, hg, hm, ht, hr, Bool.not_true, Bool.or_self, Bool.false_eq_true, if_false]
    rw [← hfold]

theorem State.releaseAll_coreOf (s : State) (c : CtxId) (n : Nat) (l : List (Nat × Nat)) (k : Nat) : (s.releaseAll c n l).coreOf k = s.coreOf k :=
  (Wrote.releaseAll _ _ _ _).coreOf k

theorem State.rebalance_results {g : Group} (hg : (s.ctxAt u).group = some g) (hm : s.core.canMove u = true) (ht : s.canTake g core v = true)
    (hr : (s.coreOf core).hasRoom (s.core.saved u s.coreId) = true) :
    ((s.rebalance u core v).ctxAt u).group = none ∧ ((s.rebalance u core v).coreOf core).ctxOf v = s.ctxAt u ∧ (s.rebalance u core v).mem = s.mem := by
  obtain ⟨t, k, hid, hmem, heq⟩ := State.rebalance_moves hg hm ht hr
  obtain ⟨c, hc0⟩ : ∃ c, c = t.putCore (t.core.left u (s.ctxAt u)) := ⟨_, rfl⟩
  rw [← hc0] at heq
  have hcid : c.coreId = s.coreId := by rw [hc0]; exact hid
  have hself : c.coreOf s.coreId = t.core.left u (s.ctxAt u) := by rw [← hcid, State.coreOf_self, hc0]; rfl
  have hrid : (s.rebalance u core v).coreId = s.coreId := by
    rw [heq, State.acquireBy_coreId, State.putCoreAt_coreId, State.releaseAll_coreId, hcid]
  refine ⟨?_, ?_, ?_⟩
  · have hat : (s.rebalance u core v).ctxAt u = ((s.rebalance u core v).coreOf s.coreId).ctxOf u := by rw [State.ctxAt, ← State.coreOf_self, hrid]
    rw [hat, heq, State.acquireBy_coreOf]
    by_cases hc : s.coreId = core
    · have hfree : (s.core.ctxOf v).group = none := by
        have hco : s.coreOf core = s.core := by rw [← hc, State.coreOf_self]
        simp only [State.canTake, hco, Bool.and_eq_true, Option.isNone_iff_eq_none] at ht
        exact ht.1.1.1.2
      have hne : u ≠ v := by
        rintro rfl
        rw [State.ctxAt, hfree] at hg
        cases hg
      rw [hc, State.putCoreAt_coreOf, Core.receive_ctxOf, Core.ctxOf_putCtx_ne _ _ hne, ← hc, hself, Core.left_self]
      rfl
    · rw [State.putCoreAt_coreOf_ne _ _ hc, State.releaseAll_coreOf, hself, Core.left_self]
      rfl
  · rw [heq, State.acquireBy_coreOf, State.putCoreAt_coreOf, Core.receive_ctxOf, Core.ctxOf_putCtx]
  · rw [heq, State.acquireBy_mem, State.putCoreAt_mem, State.releaseAll_mem, hc0]
    exact hmem

end Move

/-- Settles O48: a record's slot and its check by the cases of `applyRecord`, the Scribe's two resets, and the move of a group by what it leaves on each core. -/
theorem bindSteps : Obligations.BindSteps := by
  intro s
  refine ⟨fun d k r => congrArg _ (s.scribeWrite_eq _ _ _), fun d => ⟨fun h => congrArg _ (State.checkRecord_idle h), fun i r h => State.fullSlot_noBind h,
    fun i r k hst hnb hf hb => ?_, fun i r u hst hnb hf ha hw => ?_, fun i r u l hf ha hs hu hl hp => congrArg _ (State.checkRecord_waits hf ha hs hu hl hp)⟩, ?_, rfl,
    fun n core m u v hu hv => ⟨fun h => ?_, fun g hg hm ht hr => ?_⟩⟩
  · have hr := State.checkRecord_refuses hf hst hnb (State.applyRecord_refused hb)
    refine ⟨_, congrArg Host.Outcome.next hr, ?_, ?_, rfl, rfl⟩
    · rw [State.putDie_die]
      exact s.emptySlot_bind _ _
    · rw [State.putDie_die, State.emptySlot_refused]
  · exact ⟨_, congrArg Host.Outcome.next (State.checkRecord_binds hf hst hnb ha hw), u.emptySlot_bind _ _, rfl, rfl, rfl⟩
  · have hm := SameButDies.margin { s with hub := { s.hub with scribeUp := false } } 0 0x06 0 0 0 0x1FF 15 false
    exact ⟨_, rfl, by rw [hm.hub], hm.core, hm.mem, by rw [hm.hub]⟩
  · subst hu hv
    exact congrArg _ (State.rebalance_stays h)
  · subst hu hv
    exact ⟨_, rfl, State.rebalance_results hg hm ht hr⟩

end Sys2Proof.Machine

end

section
/-! PROOFS. Write-backs, the compaction of a frame, and the Blotter (R427 to R429, R432, R433, R435). -/

namespace Sys2Proof.Machine

/-! ## Dies whose chunks are counted -/

/-- The chunks that a die counts: in its pool and in its hardware reserve, and those drawn from the reserve. -/
def Die.counts (d : Die) : Nat × Nat × Word := (d.free, d.hwres, d.hwuse)

theorem Die.writeMargin_counts (l : List (Bool × BitVec 256)) : ∀ (d : Die) (w : BitVec 12) (n : BitVec 16), (d.writeMargin w n l).counts = d.counts := by
  induction l with
  | nil => exact fun _ _ _ => rfl
  | cons r t ih => exact fun d w n => ih { d with margin := SMap.set 0 d.margin w.toNat (r.2 + n.setWidth 256) } (w + 1) (n + 1)

theorem State.margin_counts (s : State) (d code cause : Nat) (addr detail : Word) (core ctx : Nat) (fatal : Bool) :
    ((s.margin d code cause addr detail core ctx fatal).die d).counts = (s.die d).counts := by
  simp only [State.margin, State.marginAt]
  split
  · rfl
  · rw [State.putDie_die]
    exact Die.writeMargin_counts _ _ _ _

/-- What R428's moves of a die's lines leave: its raw storage is all that changes. -/
theorem Die.moveForms_raw (d : Die) (x y : Frame) (l : Option Nat) : ∃ r, d.moveForms x y l = { d with raw := r } := by
  unfold Die.moveForms
  induction x.byOffset generalizing d with
  | nil => exact ⟨d.raw, rfl⟩
  | cons m t ih =>
    rw [List.foldl_cons]
    dsimp only
    split
    · exact ih d
    · obtain ⟨r, hr⟩ := ih (d.rawWrite y (y.lines.getD m.1 (0, 0)).2 (d.rawRead x m.2.2 (tagSectors m.2.1)))
      exact ⟨r, hr⟩

theorem State.putFrame_die (s : State) (a : Nat) (x : Frame) (i : Nat) : ∃ f, (s.putFrame a x).die i = { s.die i with fmrs := f } := by
  by_cases h : i = dieOfDpa a
  · subst h
    exact ⟨_, State.putDie_die _ _ _⟩
  · exact ⟨(s.die i).fmrs, State.putDie_die_ne _ _ h⟩

/-! ## Write-backs (R427, R435) -/

section WriteBack

variable {s t : State} {l : Nat}

theorem State.isDirty_of_dirty (h : (t.die (dieOfDpa (l * 128))).dirty = (s.die (dieOfDpa (l * 128))).dirty) : t.isDirty l = s.isDirty l := by
  rw [State.isDirty, h, State.isDirty]

theorem Die.useClean_dirty (d : Die) (l : Nat) : (d.useClean l).dirty = d.dirty := by
  unfold Die.useClean
  split <;> rfl

theorem State.cleanLine_clean (s : State) (l : Nat) (keep : Bool) : (s.cleanLine l keep).isDirty l = false := by
  have hset : ((s.cleanLine l keep).die (dieOfDpa (l * 128))).dirty = SMap.set 0 (s.die (dieOfDpa (l * 128))).dirty l 0 := by
    simp only [State.cleanLine, State.putDie_die]
    split
    · exact Die.useClean_dirty _ _
    · rfl
  rw [State.isDirty, hset, SMap.get_set_self]
  rfl

theorem State.storeLine_clean {w : Writer} {keep : Bool} (h : s.storeLine w l keep = some t) : t.isDirty l = false := by
  simp only [State.storeLine] at h
  split at h
  · cases h
    exact State.cleanLine_clean _ _ _
  · split at h
    · split at h
      · cases h
      · cases h
        exact State.cleanLine_clean _ _ _
    · split at h
      · cases h
      · cases h
        exact State.cleanLine_clean _ _ _

theorem State.wellWriteback_idle (h : s.isDirty l = false ∨ l ∈ (s.die (dieOfDpa (l * 128))).deferred) : s.wellWriteback l = s := by
  refine if_pos ?_
  simpa using h

theorem State.isDirty_of_wellDirty (h : s.wellDirty l = true) : s.isDirty l = true := (Bool.and_eq_true_iff.1 h).1

variable (hd : l ∉ (s.die (dieOfDpa (l * 128))).deferred)
include hd

theorem State.wellWriteback_fetch (h : s.isDirty l = true) (hw : s.wellDirty l = false) :
    s.wellWriteback l = s.putDie (dieOfDpa (l * 128)) { s.die (dieOfDpa (l * 128)) with l1 := (s.die (dieOfDpa (l * 128))).l1.filter (fun e => e.1 ≠ l) } := by
  simp [State.wellWriteback, h, hw, hd]

theorem State.fetched_wellDirty (h : s.isDirty l = true) (hw : s.wellDirty l = false) : (s.wellWriteback l).wellDirty l = true := by
  have hdirty : (s.wellWriteback l).isDirty l = true := by
    rw [State.wellWriteback_fetch hd h hw]
    exact (State.isDirty_of_dirty (by rw [State.putDie_die])).trans h
  have hl1 : ((s.wellWriteback l).die (dieOfDpa (l * 128))).l1 = (s.die (dieOfDpa (l * 128))).l1.filter (fun e => e.1 ≠ l) := by
    rw [State.wellWriteback_fetch hd h hw, State.putDie_die]
  rw [State.wellDirty, hdirty, hl1]
  simp

theorem State.wellWriteback_stores (h : s.wellDirty l = true) (hs : s.storeLine ⟨false, false⟩ l false = some t) : s.wellWriteback l = t := by
  simp [State.wellWriteback, h, hd, State.isDirty_of_wellDirty h, hs]

theorem State.wellWriteback_defers (h : s.wellDirty l = true) (hs : s.storeLine ⟨false, false⟩ l false = none) :
    s.wellWriteback l = s.putDie (dieOfDpa (l * 128)) { s.die (dieOfDpa (l * 128)) with deferred := (s.die (dieOfDpa (l * 128))).deferred ++ [l] } := by
  simp [State.wellWriteback, h, hd, State.isDirty_of_wellDirty h, hs]

end WriteBack

section Deferred

variable {s t : State} {i l : Nat} {tl : List Nat}

theorem State.deferredWriteback_idle (h : (s.die i).deferred = [] ∨ (s.die i).free = 0 ∨ (s.die i).held ≠ []) : s.deferredWriteback i = s := by
  simp only [State.deferredWriteback]
  split
  · rfl
  · next l tl hl =>
    refine if_pos ?_
    have h2 := h.resolve_left (by rw [hl]; exact List.cons_ne_nil _ _)
    simpa using h2

theorem State.deferredWriteback_stores (hl : (s.die i).deferred = l :: tl) (hf : (s.die i).free ≠ 0) (hh : (s.die i).held = [])
    (hs : s.storeLine ⟨false, false⟩ l true = some t) : s.deferredWriteback i = t := by
  simp [State.deferredWriteback, hl, hf, hh, hs]

end Deferred

/-! ## Compaction (R429) -/

section Compact

variable {s : State} {n : Nat}

theorem State.idleCompaction_idle (h : s.fmr (n * 4096) = 0 ∨ fmrBal (s.fmr (n * 4096)) = true) : s.idleCompaction n = s := by
  refine if_pos ?_
  rcases h with h | h
  · rw [decide_eq_true h, Bool.or_true]
  · have hb : (s.frame (n * 4096)).bal = true := h
    rw [hb, Bool.true_or, Bool.true_or]

theorem State.idleCompaction_frees {x : Frame} {keep : Nat} (hx : x = s.frame (n * 4096)) (hk : keep = (x.used - x.hole + 31) / 32)
    (hf : s.fmr (n * 4096) ≠ 0) (hb : x.bal = false) (h : x.hole ≠ 0 ∨ keep < x.chunks.length) :
    ((s.idleCompaction n).die (dieOfDpa (n * 4096))).free = (s.die (dieOfDpa (n * 4096))).free + (x.chunks.length - keep) ∧ (s.idleCompaction n).mem = s.mem := by
  have hc : (x.bal || (x.hole = 0 && x.chunks.length ≤ keep) || s.fmr (n * 4096) = 0) = false := by
    rw [hb, decide_eq_false hf, Bool.false_or, Bool.or_false, Bool.and_eq_false_iff, decide_eq_false_iff_not, decide_eq_false_iff_not]
    exact h.imp id Nat.not_le.2
  subst hx hk
  simp only [State.idleCompaction, hc, Bool.false_eq_true, if_false]
  refine ⟨?_, rfl⟩
  obtain ⟨r, hr⟩ := (s.die (dieOfDpa (n * 4096))).moveForms_raw (s.frame (n * 4096)) (s.frame (n * 4096)).compact none
  rw [State.putDie_die]
  obtain ⟨f, hfr⟩ := State.putFrame_die (s.putDie (dieOfDpa (n * 4096)) ((s.die (dieOfDpa (n * 4096))).moveForms (s.frame (n * 4096)) (s.frame (n * 4096)).compact none)) (n * 4096)
    { (s.frame (n * 4096)).compact with chunks := (s.frame (n * 4096)).compact.chunks.take (((s.frame (n * 4096)).used - (s.frame (n * 4096)).hole + 31) / 32) } (dieOfDpa (n * 4096))
  rw [hfr, State.putDie_die, hr]
  rfl

end Compact

/-! ## Held writes (R433) -/

section Held

variable {s : State} {d : Nat} {w : HeldWrite} {tl : List HeldWrite}

theorem State.focus_self (s : State) : s.focus s.coreId = s := if_pos rfl

theorem State.serveHeld_none (h : (s.die d).held = []) : s.serveHeld d = s := by
  simp only [State.serveHeld, h]

theorem State.serveHeld_halted (h : (s.die d).held = w :: tl) (hc : w.core = s.coreId) (hh : s.core.halted = true) : s.serveHeld d = s := by
  simp only [State.serveHeld, h, State.withCore, hc, State.focus_self, hh, if_true]

theorem State.serveHeld_inv {id : Nat} (h : (s.die d).held = w :: tl) (hc : w.core = s.coreId) (hi : w.inv = some id) (hh : s.core.halted = false) :
    s.serveHeld d = (s.retryInv id).focus s.coreId := by
  simp only [State.serveHeld, h, State.withCore, hc, State.focus_self, hh, hi, Bool.false_eq_true, if_false]

theorem State.expireHeld_none (h : ∀ w ∈ (s.die d).held, 0 < w.left) : s.expireHeld d = s := by
  have hn : s.overdue d = none := List.find?_eq_none.2 fun w hw => by
    have h0 : w.left ≠ 0 := Nat.ne_of_gt (h w hw)
    rw [decide_eq_false h0]
    exact Bool.false_ne_true
  simp only [State.expireHeld, hn]

end Held

/-! ## The Blotter (R432) -/

section Blotter

variable {s : State} {i : Nat}

theorem State.reclaim_frees {v fr : Nat} {tl : List Nat} (h : (s.die i).canReclaim = true) (hv : (s.die i).nextVf = some v) (hl : SMap.get [] (s.die i).lists v = fr :: tl) :
    ((s.reclaim i).die i).free = (s.die i).free + (s.frame (fr * 4096)).chunks.length ∧ SMap.get [] ((s.reclaim i).die i).lists v = tl ∧
      ((s.reclaim i).die i).lastVf = v ∧ (s.reclaim i).mem = s.mem := by
  obtain ⟨f, hf⟩ := s.putFrame_die (fr * 4096) { s.frame (fr * 4096) with chunks := [], pend := false } i
  simp only [State.reclaim, h, if_true, hv, hl, State.putDie_die, hf, SMap.get_set_self, true_and]
  rfl

theorem State.hwresDraw_draws (h : (s.die i).canDraw = true) :
    ((s.hwresDraw i).die i).free = (s.die i).free + min 64 (s.die i).hwres ∧ ((s.hwresDraw i).die i).hwres = (s.die i).hwres - min 64 (s.die i).hwres ∧
      ((s.hwresDraw i).die i).hwuse = (s.die i).hwuse + BitVec.ofNat 64 (min 64 (s.die i).hwres) := by
  obtain ⟨t, ht⟩ : ∃ t, t = s.putDie i { s.die i with
      hwres := (s.die i).hwres - min 64 (s.die i).hwres, free := (s.die i).free + min 64 (s.die i).hwres, hwuse := (s.die i).hwuse + BitVec.ofNat 64 (min 64 (s.die i).hwres) } := ⟨_, rfl⟩
  have hd : s.hwresDraw i = t.margin i 0x04 0 0 0 0x1FF 15 false := by rw [ht]; exact if_pos h
  have hc := t.margin_counts i 0x04 0 0 0 0x1FF 15 false
  rw [← hd] at hc
  have hat : t.die i = { s.die i with
      hwres := (s.die i).hwres - min 64 (s.die i).hwres, free := (s.die i).free + min 64 (s.die i).hwres, hwuse := (s.die i).hwuse + BitVec.ofNat 64 (min 64 (s.die i).hwres) } := by
    rw [ht, State.putDie_die]
  rw [hat] at hc
  exact ⟨congrArg (·.1) hc, congrArg (·.2.1) hc, congrArg (·.2.2) hc⟩

end Blotter

/-- Settles O49: each write-back, compaction and source of the Blotter by its equation, with the counts of its die. -/
theorem storageSteps : Obligations.StorageSteps := by
  intro s
  refine ⟨fun l h => congrArg _ (State.wellWriteback_idle h), fun l h hd hw => ?_, fun l hd h => ⟨fun t hs => ?_, fun hs => ?_⟩, fun n h => congrArg _ (State.idleCompaction_idle h),
    fun n x keep hx hk hf hb h => ⟨_, rfl, State.idleCompaction_frees hx hk hf hb h⟩, fun d => ?_⟩
  · refine ⟨_, rfl, ?_, State.fetched_wellDirty hd h hw, ?_⟩
    · rw [State.wellWriteback_fetch hd h hw]
      rfl
    · rw [State.wellWriteback_fetch hd h hw, State.putDie_die]
  · exact ⟨congrArg _ (State.wellWriteback_stores hd h hs), State.storeLine_clean hs, (SameButDies.storeLine hs).mem⟩
  · refine ⟨_, congrArg Host.Outcome.next (State.wellWriteback_defers hd h hs), rfl, ?_, by rw [State.putDie_die]⟩
    exact (State.isDirty_of_dirty (by rw [State.putDie_die])).trans (State.isDirty_of_wellDirty h)
  · dsimp only
    refine ⟨fun h => congrArg _ (State.deferredWriteback_idle h), fun l tl t hl hf hh hs => congrArg _ (State.deferredWriteback_stores hl hf hh hs),
      fun h => congrArg _ (State.serveHeld_none h), fun w tl h hc hh => congrArg _ (State.serveHeld_halted h hc hh), fun w tl id h hc hi hh => congrArg _ (State.serveHeld_inv h hc hi hh),
      fun h => congrArg _ (State.expireHeld_none h), fun w _ => ⟨_, rfl⟩, fun h => ?_, fun h => ?_, fun h => ?_, fun v fr tl h hv hl => ⟨_, rfl, State.reclaim_frees h hv hl⟩,
      fun h => ?_, fun h => ⟨_, rfl, State.hwresDraw_draws h⟩, fun h => ?_, fun h => ?_⟩
    · exact congrArg (fun x => Host.Outcome.next (s.putDie d.toNat x)) (if_pos h)
    · exact congrArg (fun x => Host.Outcome.next (s.putDie d.toNat x)) (if_neg (Bool.eq_false_iff.1 h))
    · exact congrArg _ (if_neg (Bool.eq_false_iff.1 h))
    · exact congrArg _ (if_neg (Bool.eq_false_iff.1 h))
    · exact congrArg (fun x => Host.Outcome.next (s.putDie d.toNat x)) (if_pos h)
    · exact congrArg (fun x => Host.Outcome.next (s.putDie d.toNat x)) (if_neg (Bool.eq_false_iff.1 h))

end Sys2Proof.Machine

end

section
/-! PROOFS. The steps of a replay (R246, R461, R462, R464, R465, R531). -/

namespace Sys2Proof.Machine

/-! ## The symbols that a context reads do not hang on its Scroll -/

theorem Ctx.lastGap_scroll (x : Ctx) (y : Scroll) (j : Nat) (l : List InsMark) : ({ x with scroll := y } : Ctx).lastGap l j = x.lastGap l j := by
  induction l with
  | nil => rfl
  | cons e t ih =>
    have hplace : ∀ p, ({ x with scroll := y } : Ctx).placeOf p = x.placeOf p := fun _ => rfl
    simp only [Ctx.lastGap, ih, hplace]

theorem Ctx.itemsFrom_scroll (x : Ctx) (y : Scroll) (q : List Mark) : ∀ j, ({ x with scroll := y } : Ctx).itemsFrom j q = x.itemsFrom j q := by
  induction q with
  | nil => exact fun j => x.lastGap_scroll y j x.ins
  | cons m t ih => exact fun j => congrArg (x.gap j ++ (if m = mPRE || m = mDRN then Item.hw m else Item.sym m) :: ·) (ih (j + 1))

theorem Ctx.items_scroll (x : Ctx) (y : Scroll) : ({ x with scroll := y } : Ctx).items = x.items := x.itemsFrom_scroll y x.queue x.qbase

section Replay

variable {s : State} {u : CtxId}

/-- What a context that replays is. -/
theorem Core.replays_iff {c : Core} : c.replays u = true ↔ u ≠ .k ∧ (c.ctxOf u).group.isSome = true ∧ (c.ctxOf u).scroll.mode = 2 ∧ (c.ctxOf u).st ≠ .trapped ∧
    (c.ctxOf u).parsed = false ∧ c.inTrap = false ∧ c.halted = false ∧ c.isCut u = false := by
  simp only [Core.replays, Bool.and_eq_true, decide_eq_true_eq, Bool.not_eq_true', and_assoc]

theorem State.replayStep_live {k : Nat} (h : s.core.replays u = false) : s.replayStep u k = s := if_pos (by rw [h]; rfl)

theorem State.replayStep_gated {k : Nat} (hg : s.gated = true) (hd : (s.ctxAt u).drains = false) : s.replayStep u k = s := by
  unfold State.replayStep
  split
  · rfl
  · rw [hd, hg]
    rfl

variable (hr : s.core.replays u = true)
include hr

/-! ## DRN during a replay (R246, R465) -/

theorem State.replayStep_drains {k : Nat} (hd : (s.ctxAt u).drains = true) : s.replayStep u k = s.drainMove u := by
  simp only [State.replayStep, hr, hd, Bool.not_true, Bool.false_eq_true, if_false, if_true]

theorem State.drains_of_drn (hp : peekIn (s.ctxAt u).items 1 = .hw mDRN) : (s.ctxAt u).drains = true := by
  obtain ⟨-, hg, -, -, hpa, -⟩ := Core.replays_iff.1 hr
  rw [Ctx.drains, State.ctxAt, hg, hpa, ← State.ctxAt, decide_eq_true hp, Bool.or_true]
  rfl

/-- DRN ends a replay: the context is drained, and its ports' inputs are discarded. -/
theorem State.drainMove_drn (hp : peekIn (s.ctxAt u).items 1 = .hw mDRN) :
    (s.drainMove u).ctxAt u = ({ s.ctxAt u with scroll := (s.ctxAt u).scroll.toLive false } : Ctx).drain := by
  obtain ⟨hk, hg, hm, -, -, -, -, hcut⟩ := Core.replays_iff.1 hr
  have hd := State.drains_of_drn hr hp
  obtain ⟨t, ht⟩ : ∃ t, t = s.putScroll u ((s.ctxAt u).scroll.toLive false) := ⟨_, rfl⟩
  have hx : t.ctxAt u = { s.ctxAt u with scroll := (s.ctxAt u).scroll.toLive false } := by rw [ht, State.putScroll, State.putCtxAt_ctxAt]
  have hpt : peekIn (t.ctxAt u).items 1 = .hw mDRN := by rw [hx, Ctx.items_scroll]; exact hp
  have hdt : (t.ctxAt u).drains = true := by rw [hx, Ctx.drains, Ctx.items_scroll]; exact hd
  have hct : t.core.isCut u = false := by rw [ht, State.putScroll, State.putCtxAt_core, Core.isCut, Core.putCtx_cut]; exact hcut
  have hmove : s.drainMove u = (t.drainCtx u).putCore ((t.drainCtx u).core.discardInputs u) := by
    have hmode : (s.ctxAt u).scroll.mode = 2 := hm
    have hstep : t.drainStep u = t.drainCtx u := by simp [State.drainStep, hdt, hct, hk, hpt]
    simp only [State.drainMove, hd, hmode, Bool.not_true, Bool.false_eq_true, if_false, if_true]
    rw [← ht, hstep]
  rw [hmove, State.ctxAt, State.putCore_core, ← hx]
  cases u <;> rfl

/-! ## The record that stands next -/

section Next

variable (hd : (s.ctxAt u).drains = false) (hg : s.gated = false)
include hd hg

theorem State.replayStep_other {k : Nat} (hn : s.nextRecord u ≠ some k) : s.replayStep u k = s := by
  simp [State.replayStep, hr, hd, hg, hn]

theorem State.replayStep_cmd {h : Nat} {cs : List Nat} (hn : s.nextRecord u = some 0)
    (h1 : readRecord s (s.asidOf u) (s.ctxAt u).scroll.track (s.ctxAt u).scroll.nrec = .ok h)
    (h2 : readRecords (recNx h) s (s.asidOf u) (s.ctxAt u).scroll.track ((s.ctxAt u).scroll.nrec + 1) = .ok cs) : s.replayStep u 0 = s.issueCmd u h cs := by
  simp [State.replayStep, State.handleCmd, hr, hd, hg, hn, h1, h2]

theorem State.replayStep_mark {k : Nat} (hk : k ≠ 0) (hn : s.nextRecord u = some k) : s.replayStep u k = s.handleMark u := by
  simp [State.replayStep, hr, hd, hg, hn, hk]

section Symbols

variable (hc : (s.ctxAt u).scroll.pendCons ≠ 0)
include hc

theorem State.replayStep_symbols {k : Nat} (hk : k = if (s.ctxAt u).scroll.ending then 3 else 1) :
    s.replayStep u k = State.consumeSymbols (s.ctxAt u).scroll.pendCons s u := by
  have hn : s.nextRecord u = some k := by rw [hk]; exact if_pos hc
  rw [State.replayStep_mark hr hd hg (by rw [hk]; split <;> decide) hn]
  exact if_pos hc

end Symbols

section Record

variable (hc : (s.ctxAt u).scroll.pendCons = 0) {h : Nat} (h1 : readRecord s (s.asidOf u) (s.ctxAt u).scroll.track (s.ctxAt u).scroll.nrec = .ok h)
include hc h1

omit hr hd hg in
theorem State.nextRecord_read : s.nextRecord u = some (if recType h = 2 then 1 else recType h) := by
  simp [State.nextRecord, hc, h1]

theorem State.replayStep_patch (ht : recType h = 2) : s.replayStep u 1 = s.handlePatch u h := by
  rw [State.replayStep_mark hr hd hg (by decide) ((State.nextRecord_read hc h1).trans (by rw [if_pos ht]))]
  simp [State.handleMark, hc, h1, ht]

theorem State.replayStep_guard {k : Nat} (hk : k ≠ 0) (hk2 : k ≠ 2) (ht : recType h = k) : s.replayStep u k = s.handleGuard u h := by
  have h2 : recType h ≠ 2 := by rw [ht]; exact hk2
  rw [State.replayStep_mark hr hd hg hk ((State.nextRecord_read hc h1).trans (by rw [if_neg h2, ht]))]
  simp [State.handleMark, hc, h1, h2]

end Record

end Next

end Replay

/-- Settles O50: what stands next decides (`nextRecord`), and each kind of record has its equation; DRN is `drainMove_drn`. -/
theorem replaySteps : Obligations.ReplaySteps := by
  intro n s x u hu hx
  subst hu hx
  refine ⟨fun h => ⟨congrArg _ (State.replayStep_live h), congrArg _ (State.replayStep_live h), congrArg _ (State.replayStep_live h)⟩, fun hr hp i hi => ?_,
    fun hg hd => ⟨congrArg _ (State.replayStep_gated hg hd), congrArg _ (State.replayStep_gated hg hd), congrArg _ (State.replayStep_gated hg hd)⟩, fun hr hd hg => ?_⟩
  · have hctx := State.drainMove_drn hr hp
    have hmove : ∀ k, s.replayStep (uCtx n.toNat) k = s.drainMove (uCtx n.toNat) := fun k => State.replayStep_drains hr (State.drains_of_drn hr hp)
    refine ⟨s.drainMove (uCtx n.toNat), ?_, by rw [hctx]; rfl, by rw [hctx]; rfl, by rw [hctx]; rfl, by rw [hctx]; rfl⟩
    rcases hi with rfl | rfl | rfl
    · exact congrArg _ (hmove 0)
    · exact congrArg _ (hmove 1)
    · exact congrArg _ (hmove 3)
  · refine ⟨fun hn => congrArg _ (State.replayStep_other hr hd hg hn), fun hn => congrArg _ (State.replayStep_other hr hd hg hn),
      fun hn => congrArg _ (State.replayStep_other hr hd hg hn), fun r cs hn h1 h2 => congrArg _ (State.replayStep_cmd hr hd hg hn h1 h2), fun r hc h1 => ⟨fun ht => ?_, fun ht => ?_, fun ht => ?_⟩,
      fun hc he => ?_, fun hc he => ?_⟩
    · exact congrArg _ (State.replayStep_patch hr hd hg hc h1 ht)
    · exact congrArg _ (State.replayStep_guard hr hd hg hc h1 (by decide) (by decide) ht)
    · exact congrArg _ (State.replayStep_guard hr hd hg hc h1 (by decide) (by decide) ht)
    · exact congrArg _ (State.replayStep_symbols hr hd hg hc (by rw [he]; rfl))
    · exact congrArg _ (State.replayStep_symbols hr hd hg hc (by rw [he]; rfl))

end Sys2Proof.Machine

end

section
/-! PROOFS. Accesses of the host and of peers, the K boot block, firmware and attestation (R504 to R513, R516, R520, R522, R525, R528). -/

namespace Sys2Proof.Machine

/-! ## Fields of words -/

theorem bits_eq_extractLsb' (w : Word) (hi lo : Nat) : bits w hi lo = (w.extractLsb' lo (hi + 1 - lo)).toNat := by
  rw [bits, BitVec.extractLsb'_toNat, Nat.shiftRight_eq_div_pow]

theorem bit_eq_getLsbD (w : Word) (n : Nat) : bit w n = w.getLsbD n := rfl

theorem vfAsidBase_eq (w : Word) : vfAsidBase w = (w.extractLsb' 0 9).toNat := bits_eq_extractLsb' w 8 0
theorem vfAsidN_eq (w : Word) : vfAsidN w = (w.extractLsb' 18 10).toNat := bits_eq_extractLsb' w 27 18

/-! ## Accesses that find their frames, and those that do not (R504, R506, R515, R516) -/

section Access

variable {s : State}

theorem SameButViews.seeParts (s : State) (ps : List Part) : SameButViews s (s.seeParts ps) := SameButViews.foldl (fun t _ => SameButViews.observe t _ _ _ _) ps s

theorem State.seeParts_toHost (s : State) (ps : List Part) (bs : List Byte) : (s.seeParts ps).toHost bs = { s.seeParts ps with hub := { s.hub with hostRead := bs } } := by
  rw [State.toHost, (SameButViews.seeParts s ps).hub]

theorem State.writeVf_eq (s : State) (v : Nat) (w : Word) :
    s.writeVf v w = if 512 < (w.extractLsb' 0 9).toNat + (w.extractLsb' 18 10).toNat then s else { s with hub := { s.hub with vfs := SMap.set 0 s.hub.vfs v (w &&& 0x7FF8FFC01FF) } } := by
  rw [State.writeVf, vfAsidBase_eq, vfAsidN_eq]
  rfl

section Aperture

variable {v off n : Nat}

theorem State.apertureRead_off (h : (SMap.get 0 s.hub.vfs v).getLsbD 31 = false) : s.apertureRead v off n = s.toHost (List.replicate n 0xFF) := by
  have hen : vfEn (s.vfEntry v) = false := h
  simp only [State.apertureRead, hen, Bool.not_false, if_true]
  rfl

theorem State.apertureRead_ok {ps : List Part} (h : (SMap.get 0 s.hub.vfs v).getLsbD 31 = true)
    (hp : hubParts s ((SMap.get 0 s.hub.vfs v).extractLsb' 0 9) false .read off n = .ok ps) : s.apertureRead v off n = (s.seeParts ps).toHost (readParts s ps) := by
  have hen : vfEn (s.vfEntry v) = true := h
  have hbase : BitVec.ofNat 9 (vfAsidBase (s.vfEntry v)) = (SMap.get 0 s.hub.vfs v).extractLsb' 0 9 := by rw [vfAsidBase_eq, BitVec.ofNat_toNat, BitVec.setWidth_eq]; rfl
  simp only [State.apertureRead, hen, hbase, hp, Bool.not_true, Bool.false_eq_true, if_false]

theorem State.apertureWrite_off {bs : List Byte} (h : (SMap.get 0 s.hub.vfs v).getLsbD 31 = false) : s.apertureWrite v off bs = s := by
  have hen : vfEn (s.vfEntry v) = false := h
  simp only [State.apertureWrite, hen, Bool.not_false, if_true]

theorem State.apertureWrite_ok {bs : List Byte} {ps : List Part} (h : (SMap.get 0 s.hub.vfs v).getLsbD 31 = true)
    (hp : hubParts s ((SMap.get 0 s.hub.vfs v).extractLsb' 0 9) false .write off bs.length = .ok ps) : s.apertureWrite v off bs = storeSeen s false ps bs := by
  have hen : vfEn (s.vfEntry v) = true := h
  have hbase : BitVec.ofNat 9 (vfAsidBase (s.vfEntry v)) = (SMap.get 0 s.hub.vfs v).extractLsb' 0 9 := by rw [vfAsidBase_eq, BitVec.ofNat_toNat, BitVec.setWidth_eq]; rfl
  simp only [State.apertureWrite, hen, hbase, hp, Bool.not_true, Bool.false_eq_true, if_false]

end Aperture

section Physical

variable {a n link : Nat} {ps : List Part} {bs : List Byte}

theorem State.pfAccess_unread (h : dpaParts (n / 4096 + 2) s true a n = none) : s.pfAccess a n none = s.toHost (List.replicate n 0xFF) := by
  simp only [State.pfAccess, h]
  rfl

theorem State.pfAccess_read (h : dpaParts (n / 4096 + 2) s true a n = some ps) : s.pfAccess a n none = (s.seeParts ps).toHost (readParts s ps) := by
  simp only [State.pfAccess, h]

theorem State.pfAccess_unwritten (h : dpaParts (bs.length / 4096 + 2) s false a bs.length = none) : s.pfAccess a n (some bs) = s := by
  simp only [State.pfAccess, h]

theorem State.pfAccess_write (h : dpaParts (bs.length / 4096 + 2) s false a bs.length = some ps) : s.pfAccess a n (some bs) = storeSeen s false ps bs := by
  simp only [State.pfAccess, h]

theorem State.peerAccess_unread (h : dpaParts (n / 4096 + 2) s true a n = none) : s.peerAccess link a n none = s.toPeer link .refused := by
  simp only [State.peerAccess, h]

theorem State.peerAccess_read (h : dpaParts (n / 4096 + 2) s true a n = some ps) :
    s.peerAccess link a n none = (s.seeParts ps).toPeer link (.beat (readParts s ps) []) := by
  simp only [State.peerAccess, h]

theorem State.peerAccess_unwritten (h : dpaParts (bs.length / 4096 + 2) s false a bs.length = none) : s.peerAccess link a n (some bs) = s.toPeer link .refused := by
  simp only [State.peerAccess, h]

theorem State.peerAccess_write (h : dpaParts (bs.length / 4096 + 2) s false a bs.length = some ps) : s.peerAccess link a n (some bs) = storeSeen s false ps bs := by
  simp only [State.peerAccess, h]

theorem State.peerRead_leaves (s : State) (ps : List Part) (link : Nat) (x : CircuitSymbol) :
    ((s.seeParts ps).toPeer link x).mem = s.mem ∧ ((s.seeParts ps).toPeer link x).core = s.core ∧
      ((s.seeParts ps).toPeer link x).hub.peerOut = s.hub.peerOut ++ [(link, .reply x)] := by
  have h := SameButViews.seeParts s ps
  refine ⟨h.mem, h.core, ?_⟩
  rw [State.toPeer, h.hub]

end Physical

end Access

/-! ## The registers that the host reads (R504, R508, R528) -/

section Registers

variable (s : State)

theorem Hub.bootst_fields (h : Hub) : h.bootst.extractLsb' 0 4 = h.stage ∧ h.bootst.extractLsb' 8 4 = h.spst ∧ h.bootst.extractLsb' 12 4 = h.fest ∧
    h.bootst.extractLsb' 16 4 = h.scrst ∧ h.bootst.extractLsb' 4 4 = 0 ∧ h.bootst.extractLsb' 20 44 = 0 := by
  have hst := h.stage.isLt
  have hsp := h.spst.isLt
  have hfe := h.fest.isLt
  have hsc := h.scrst.isLt
  rw [Hub.bootst]
  refine ⟨?_, ?_, ?_, ?_, ?_, ?_⟩ <;>
    rw [← BitVec.toNat_inj, toNat_extractLsb'_ofNat (by omega)]
  · omega
  · omega
  · omega
  · omega
  · have h0 : (0 : BitVec 4).toNat = 0 := rfl
    omega
  · have h0 : (0 : BitVec 44).toNat = 0 := rfl
    omega

theorem State.pfWord_fuse : (s.pfWord 8).extractLsb' 0 6 = s.hub.fuse := by
  have h8 : s.pfWord 8 = s.hub.fuse.setWidth 64 := rfl
  rw [h8]
  ext i hi
  simp [hi, Nat.lt_trans hi (by decide : 6 < 64)]

theorem State.pfWord_margin {d i k : Nat} (hd : d < 8) (hi : i < 4096) (hk : k < 4) :
    s.pfWord (0x800000 + 0x100000 * d + 32 * i + 8 * k) = (SMap.get 0 (s.die d).margin i).extractLsb' (64 * k) 64 := by
  have hdie : s.pfWord (0x800000 + 0x100000 * d + 32 * i + 8 * k) = s.dieWord d (32 * i + 8 * k) := by
    have hmod : (0x800000 + 0x100000 * d + 32 * i + 8 * k) % 8 = 0 := by omega
    have hq : (0x800000 + 0x100000 * d + 32 * i + 8 * k - 0x800000) / 0x100000 = d := by omega
    have hr : (0x800000 + 0x100000 * d + 32 * i + 8 * k) % 0x100000 = 32 * i + 8 * k := by omega
    have hge : 0x800000 ≤ 0x800000 + 0x100000 * d + 32 * i + 8 * k := by omega
    generalize 0x800000 + 0x100000 * d + 32 * i + 8 * k = off at hmod hq hr hge
    have hout : ∀ {a b : Nat}, b ≤ off → ¬ (decide (a ≤ off) && decide (off < b)) = true := fun hb h =>
      absurd (of_decide_eq_true (Bool.and_eq_true_iff.1 h).2) (not_lt.2 hb)
    simp only [State.pfWord]
    rw [if_neg (by omega), if_neg (by omega), if_neg (by omega), if_neg (hout (by omega)), if_neg (by omega), if_neg (by omega), if_neg (hout (by omega)), if_neg (hout (by omega)),
      if_neg (hout (by omega)), if_neg (hout (by omega)), if_neg (hout (by omega)), if_neg (by omega), if_neg (hout (by omega)), if_pos hge, hq, hr]
  rw [hdie, State.dieWord]
  have hlt : 32 * i + 8 * k < 0x20000 := by omega
  have hdiv : (32 * i + 8 * k) / 32 = i := by omega
  have hmod : (32 * i + 8 * k) % 32 * 8 = 64 * k := by omega
  simp only [hlt, if_true, hdiv, hmod]

end Registers

/-! ## The K boot block (R509) -/

section Kboot

variable {s : State}

/-- What an entry of the K boot block gives a core, over all that are given. -/
theorem State.foldl_boot (b : List Byte) (n : Nat) (l : List Nat) : ∀ s : State,
    (n ∈ l ∨ ((s.coreOf n).kvbr = kbootWord b n 0 ∧ (s.coreOf n).kscratch = kbootWord b n 1)) →
      ((l.foldl (fun (a : State) k => a.putCoreAt k ((a.coreOf k).boot b k)) s).coreOf n).kvbr = kbootWord b n 0 ∧
        ((l.foldl (fun (a : State) k => a.putCoreAt k ((a.coreOf k).boot b k)) s).coreOf n).kscratch = kbootWord b n 1 := by
  induction l with
  | nil => exact fun s h => h.resolve_left List.not_mem_nil
  | cons k l ih =>
    intro s h
    refine ih _ (or_iff_not_imp_left.2 fun hl => ?_)
    by_cases hk : n = k
    · subst hk
      rw [State.putCoreAt_coreOf]
      exact ⟨rfl, rfl⟩
    · rw [State.putCoreAt_coreOf_ne _ _ hk]
      exact h.resolve_left fun hm => (List.mem_cons.1 hm).elim hk hl

theorem State.setRoot_core (s : State) (a : BitVec 9) (w : Word) : (s.setRoot a w).core.kvbr = s.core.kvbr ∧ (s.setRoot a w).core.kscratch = s.core.kscratch := by
  have h : (s.setRoot a w).core = (s.invalidate 1 (fun e => e.asid = a) (fun c u _ => ownedBy c a u)).core := rfl
  rw [h, State.invalidate_core]
  exact ⟨rfl, rfl⟩

theorem State.kbootGo_early (h : s.hub.stage ≠ 4) : s.kbootGo = s := if_pos h

theorem State.kbootGo_fails (h : s.hub.stage = 4) (he : kbootErrOf s.hub.kboot ≠ 0) : s.kbootGo = { s with hub := { s.hub with kbootErr := kbootErrOf s.hub.kboot, kbootGo := false } } := by
  simp only [State.kbootGo]
  rw [if_neg (not_not.2 h), if_pos he]

/-- The cores and the roots that a K boot block gives. -/
def State.kbooted (s : State) : State :=
  (kbootRoots s.hub.kboot).foldl (fun (a : State) r => a.setRoot (r.1.setWidth 9) r.2) ((List.range 512).foldl (fun (a : State) k => a.putCoreAt k ((a.coreOf k).boot s.hub.kboot k)) s)

theorem State.kbootGo_boots (h : s.hub.stage = 4) (he : kbootErrOf s.hub.kboot = 0) :
    s.kbootGo = { s.kbooted with hub := { s.kbooted.hub with kbootErr := 0, kbootDone := true, kbootGo := true, stage := 5, measure := extend s.kbooted.hub.measure (sha384 s.hub.kboot) } } := by
  simp only [State.kbootGo, State.kbooted]
  rw [if_neg (not_not.2 h), if_neg (not_not.2 he)]

theorem State.kbooted_mem (s : State) : s.kbooted.mem = s.mem :=
  (foldl_keeps (f := fun (a : State) (r : Word × Word) => a.setRoot (r.1.setWidth 9) r.2) State.mem (fun _ _ => rfl) _ _).trans
    (foldl_keeps (f := fun (a : State) k => a.putCoreAt k ((a.coreOf k).boot s.hub.kboot k)) State.mem (fun a k => a.putCoreAt_mem k _) _ s)

theorem State.kbooted_measure (s : State) : s.kbooted.hub.measure = s.hub.measure := by
  obtain ⟨t, ht⟩ : ∃ t, t = (List.range 512).foldl (fun (a : State) k => a.putCoreAt k ((a.coreOf k).boot s.hub.kboot k)) s := ⟨_, rfl⟩
  have hhub : t.hub = s.hub := by
    rw [ht]
    exact foldl_keeps (f := fun (a : State) k => a.putCoreAt k ((a.coreOf k).boot s.hub.kboot k)) State.hub (fun a k => a.putCoreAt_hub k _) _ s
  rw [State.kbooted, ← ht, ← hhub]
  exact foldl_keeps (f := fun (a : State) (r : Word × Word) => a.setRoot (r.1.setWidth 9) r.2) (fun a => a.hub.measure) (fun _ _ => rfl) _ t

theorem State.kbooted_core (s : State) (h : s.coreId < 512) : s.kbooted.core.kvbr = kbootWord s.hub.kboot s.coreId 0 ∧ s.kbooted.core.kscratch = kbootWord s.hub.kboot s.coreId 1 := by
  obtain ⟨t, ht⟩ : ∃ t, t = (List.range 512).foldl (fun (a : State) k => a.putCoreAt k ((a.coreOf k).boot s.hub.kboot k)) s := ⟨_, rfl⟩
  have hid : t.coreId = s.coreId := by
    rw [ht]
    exact foldl_keeps (f := fun (a : State) k => a.putCoreAt k ((a.coreOf k).boot s.hub.kboot k)) State.coreId (fun a k => a.putCoreAt_coreId k _) _ s
  have hboot := State.foldl_boot s.hub.kboot s.coreId (List.range 512) s (.inl (List.mem_range.2 h))
  rw [← ht, ← hid, State.coreOf_self, hid] at hboot
  rw [State.kbooted, ← ht]
  exact ⟨(foldl_keeps (f := fun (a : State) (r : Word × Word) => a.setRoot (r.1.setWidth 9) r.2) (fun a => a.core.kvbr) (fun a r => (a.setRoot_core _ _).1) _ t).trans hboot.1,
    (foldl_keeps (f := fun (a : State) (r : Word × Word) => a.setRoot (r.1.setWidth 9) r.2) (fun a => a.core.kscratch) (fun a r => (a.setRoot_core _ _).2) _ t).trans hboot.2⟩

theorem State.kbootGo_results (h : s.hub.stage = 4) (he : kbootErrOf s.hub.kboot = 0) :
    s.kbootGo.hub.stage = 5 ∧ s.kbootGo.hub.kbootDone = true ∧ s.kbootGo.mem = s.mem ∧ s.kbootGo.hub.measure = extend s.hub.measure (sha384 s.hub.kboot) ∧
      (s.coreId < 512 → s.kbootGo.core.kvbr = kbootWord s.hub.kboot s.coreId 0 ∧ s.kbootGo.core.kscratch = kbootWord s.hub.kboot s.coreId 1) := by
  have hcore := s.kbooted_core
  have hmem := s.kbooted_mem
  have hmeasure := s.kbooted_measure
  rw [State.kbootGo_boots h he]
  generalize s.kbooted = t at hcore hmem hmeasure
  exact ⟨rfl, rfl, hmem, by rw [← hmeasure], hcore⟩

end Kboot

/-! ## Firmware and the doorbell to cores (R510, R511, R520) -/

section Firmware

variable {s : State} {k : Nat}

theorem State.fwslotGo_ignored (h : 3 ≤ k ∨ (s.hub.slot k).found ≠ none) : s.fwslotGo k = s := by
  refine if_pos ?_
  simpa [Option.isSome_iff_ne_none] using h

theorem State.fwslotGo_begins (hk : ¬ 3 ≤ k) (hf : (s.hub.slot k).found = none) :
    ((s.fwslotGo k).hub.slot k).found.isSome = true ∧ (s.fwslotGo k).core = s.core ∧ (s.fwslotGo k).mem = s.mem := by
  simp only [State.fwslotGo, hk, hf, decide_false, Option.isSome_none, Bool.or_self, Bool.false_eq_true, if_false]
  rw [Hub.slot, SMap.get_set_self]
  exact ⟨rfl, trivial, trivial⟩

theorem State.fwDone_idle (h : (s.hub.slot k).found = none) : s.fwDone k = s := by
  simp only [State.fwDone, h]

theorem State.fwDone_done {e : BitVec 8} {i : FwImage} (h : (s.hub.slot k).found = some (e, i)) :
    ((s.fwDone k).hub.slot k).status = e ∧ ((s.fwDone k).hub.slot k).found = none ∧
      ((s.fwDone k).hub.slot k).image = if e = 0 then some i else (s.hub.slot k).image := by
  have hd : (s.fwDone k).hub.slot k = { s.hub.slot k with status := e, found := none, image := if e = 0 then some i else (s.hub.slot k).image } := by
    simp only [State.fwDone, h]
    exact SMap.get_set_self _ _ _ _
  rw [hd]
  exact ⟨rfl, rfl, rfl⟩

theorem not_three_le {k : BitVec 2} (h : k ≠ 3) : ¬ 3 ≤ k.toNat := fun h3 => h (BitVec.eq_of_toNat_eq (by have := k.isLt; have h0 : (3 : BitVec 2).toNat = 3 := rfl; omega))

variable {w : Word} {n : Nat} (hn : n = (w.extractLsb' 0 16).toNat)
include hn

theorem State.kdoor_refused (h : 512 ≤ n ∨ (s.coreOf n).halted = true) : (s.kdoor w).hub.kdoorst = 2 ∧ (s.kdoor w).core = s.core := by
  have hb : bits w 15 0 = n := (bits_eq_extractLsb' w 15 0).trans hn.symm
  have hc : (decide (512 ≤ n) || (s.coreOf n).halted) = true := by simpa using h
  simp only [State.kdoor, hb, hc, if_true]
  exact ⟨rfl, rfl⟩

section Alive

variable (hlt : n < 512) (hh : (s.coreOf n).halted = false)
include hlt hh

theorem State.kdoor_full (h : 16 ≤ (s.coreOf n).irqs.length) : (s.kdoor w).hub.kdoorst = 1 ∧ (s.kdoor w).core = s.core := by
  have hb : bits w 15 0 = n := (bits_eq_extractLsb' w 15 0).trans hn.symm
  have hc : (decide (512 ≤ n) || (s.coreOf n).halted) = false := by rw [hh, decide_eq_false (by omega)]; rfl
  have hr : (s.coreOf n).irqRoom = false := decide_eq_false (by omega)
  simp only [State.kdoor, hb, hc, hr, Bool.false_eq_true, if_false]
  exact ⟨rfl, rfl⟩

theorem State.kdoor_queued (h : (s.coreOf n).irqs.length < 16) :
    (s.kdoor w).hub.kdoorst = 0 ∧ ((s.kdoor w).coreOf n).irqs = (s.coreOf n).irqs ++ [⟨5, (w.extractLsb' 16 16).setWidth 64, 0⟩] := by
  have hb : bits w 15 0 = n := (bits_eq_extractLsb' w 15 0).trans hn.symm
  have hc : (decide (512 ≤ n) || (s.coreOf n).halted) = false := by rw [hh, decide_eq_false (by omega)]; rfl
  have hr : (s.coreOf n).irqRoom = true := decide_eq_true h
  have hw : BitVec.ofNat 64 (bits w 31 16) = (w.extractLsb' 16 16).setWidth 64 := by rw [bits_eq_extractLsb' w 31 16, BitVec.ofNat_toNat]
  simp only [State.kdoor, hb, hc, hr, hw, Bool.false_eq_true, if_false, if_true]
  refine ⟨?_, ?_⟩
  · rw [State.putCoreAt_hub]
    rfl
  · rw [State.putCoreAt_coreOf]
    rfl

end Alive

end Firmware

/-! ## Attestation (R512, R522) -/

/-- A list held as a table of its elements that differ from d. -/
theorem get_numbered_from {α : Type} [DecidableEq α] (d : α) (l : List α) : ∀ m i : Nat, i < l.length →
    SMap.get d (((List.range' m l.length).zip l).filter (fun e => e.2 ≠ d)) (m + i) = l.getD i d := by
  induction l with
  | nil => exact fun _ _ h => absurd h (Nat.not_lt_zero _)
  | cons x t ih =>
    intro m i hi
    rw [List.length_cons, List.range'_succ, List.zip_cons_cons]
    cases i with
    | zero =>
      by_cases hx : x = d
      · have hun : ¬ ∃ e ∈ ((List.range' (m + 1) t.length).zip t).filter (fun e => e.2 ≠ d), e.1 = m + 0 := by
          rintro ⟨e, he, hm⟩
          have hkey := (List.mem_range'_1.1 (List.of_mem_zip (List.mem_filter.1 he).1).1).1
          omega
        rw [List.filter_cons_of_neg (by simp [hx]), SMap.get_of_unlisted d _ hun, hx]
        rfl
      · rw [List.filter_cons_of_pos (by simpa using hx), SMap.get, if_pos (Nat.add_zero m).symm]
        rfl
    | succ j =>
      have hne : m ≠ m + (j + 1) := by omega
      have htail := ih (m + 1) j (Nat.lt_of_succ_lt_succ hi)
      rw [Nat.add_assoc, Nat.add_comm 1 j] at htail
      rw [List.getD_cons_succ, ← htail, List.filter_cons]
      split
      · rw [SMap.get, if_neg hne]
      · rfl

theorem get_numbered {α : Type} [DecidableEq α] (d : α) (l : List α) {i : Nat} (h : i < l.length) : SMap.get d ((numbered l).filter (fun e => e.2 ≠ d)) i = l.getD i d := by
  have hfrom := get_numbered_from d l 0 i h
  rw [Nat.zero_add, ← List.range_eq_range'] at hfrom
  exact hfrom

section Attest

variable {s : State}

theorem State.attested_idle (h : s.hub.attestGo = false ∨ s.hub.spst ≠ 0) : s.attested = s := by
  refine if_pos ?_
  simpa using h

theorem Hub.reportHead_measure (h : Hub) : ∃ r, h.reportHead = measureBytes h.measure ++ r := by
  rw [Hub.reportHead, List.append_assoc, List.append_assoc, List.append_assoc]
  exact ⟨_, rfl⟩

theorem getD_measureBytes (m : BitVec 384) (r : List Byte) {i : Nat} (h : i < 48) : (measureBytes m ++ r).getD i 0 = m.extractLsb' (8 * i) 8 := by
  have hlen : (measureBytes m).length = 48 := leBytes_length 48 m.toNat
  rw [List.getD_append _ _ _ _ (by omega), measureBytes, leBytes_getD h]
  rw [BitVec.extractLsb', Nat.shiftRight_eq_div_pow]

theorem State.attested_report (hg : s.hub.attestGo = true) (hs : s.hub.spst = 0) :
    s.attested.hub.attestDone = true ∧ s.attested.hub.attestGo = false ∧ ∀ i, i < 48 → SMap.get 0 s.attested.hub.report i = s.hub.measure.extractLsb' (8 * i) 8 := by
  obtain ⟨r, hr⟩ := s.hub.reportHead_measure
  obtain ⟨a, ha⟩ : ∃ a, a = (List.range 64).map (Config.ed25519Sign s.hub.reportHead) ++ (List.range 3309).map (Config.mldsaSign s.hub.reportHead) := ⟨_, rfl⟩
  have hall : s.attested = { s with hub := { s.hub with attestGo := false, attestDone := true, report := (numbered (measureBytes s.hub.measure ++ (r ++ a))).filter (fun e => e.2 ≠ 0) } } := by
    simp only [State.attested, hg, hs, Bool.not_true, ne_eq, not_true, decide_false, Bool.or_self, Bool.false_eq_true, if_false]
    rw [List.append_assoc s.hub.reportHead, ← ha, hr, List.append_assoc]
  rw [hall]
  refine ⟨rfl, rfl, fun i hi => ?_⟩
  have hlen : (measureBytes s.hub.measure).length = 48 := leBytes_length 48 _
  exact (get_numbered 0 (measureBytes s.hub.measure ++ (r ++ a)) (by rw [List.length_append, hlen]; omega)).trans (getD_measureBytes _ _ hi)

end Attest

/-! ## Writes of the management block (R504) -/

section HostWrite

variable {s : State} {off : Nat} {w : Word}

theorem State.hostWrite_unaligned (h : off % 8 ≠ 0) : s.hostWrite off w = s := if_pos h

theorem State.hostWrite_kdoor : s.hostWrite 0x300 w = s.kdoor w := rfl

theorem State.hostWrite_attest (h : w.getLsbD 0 = true) : s.hostWrite 0x70020 w = s.attest := by
  simp [State.hostWrite, bit_eq_getLsbD, h]

theorem State.hostWrite_vf (h1 : 0x10000 ≤ off) (h2 : off < 0x10800) (h3 : off % 8 = 0) : s.hostWrite off w = s.writeVf ((off - 0x10000) / 8) w := by
  have hin : (decide (0x10000 ≤ off) && decide (off < 0x10800)) = true := by simp [h1, h2]
  have hout : ∀ {a b : Nat}, b ≤ off → ¬ (decide (a ≤ off) && decide (off < b)) = true := fun hb h =>
    absurd (of_decide_eq_true (Bool.and_eq_true_iff.1 h).2) (not_lt.2 hb)
  simp only [State.hostWrite]
  rw [if_neg (by omega), if_neg (hout (by omega)), if_neg (by omega), if_neg (by omega), if_neg (hout (by omega)), if_pos hin]

theorem State.writeMctl_eq (s : State) (d : Nat) (w : Word) : s.writeMctl d w = if w.getLsbD 31 then s.putDie d { s.die d with frz := false } else s := rfl

end HostWrite

theorem State.step_vfRead {s : State} {v : BitVec 8} {i : BitVec 4} {tl : List Turn} (ha : s.agenda = .vfRead v (BitVec.ofNat 16 (4096 * i.toNat + 4)) :: tl)
    (hv : (SMap.get 0 s.hub.vfs v.toNat).getLsbD 31 = true) :
    step s = .next { s with agenda := tl, hub := { s.hub with hostRead := leBytes 4 (s.queue (16 * v.toNat + i.toNat)).rptr.toNat } } := by
  have hi := i.isLt
  have hoff : (BitVec.ofNat 16 (4096 * i.toNat + 4)).toNat = 4096 * i.toNat + 4 := by rw [BitVec.toNat_ofNat]; omega
  have hen : vfEn (s.vfEntry v.toNat) = true := hv
  have hpage : (4096 * i.toNat + 4) / 4096 = i.toNat := by omega
  have hat : (4096 * i.toNat + 4) % 4096 = 4 := by omega
  have hread : s.vfBytes v.toNat (BitVec.ofNat 16 (4096 * i.toNat + 4)).toNat = leBytes 4 (s.queue (16 * v.toNat + i.toNat)).rptr.toNat := by
    simp only [State.vfBytes, hoff, hen, hpage, hat, Bool.not_true, Bool.false_eq_true, if_false, if_true]
  have hstep : step s = .next ({ s with agenda := tl }.toHost (s.vfBytes v.toNat (BitVec.ofNat 16 (4096 * i.toNat + 4)).toNat)) := by simp only [step, ha]
  rw [hstep, hread]
  rfl

/-- Settles O51: each access and each register by its equation; the K boot block by what its 512 entries leave of one core, the report by its first 48 bytes. -/
theorem hostSteps : Obligations.HostSteps := by
  intro s
  refine ⟨fun v w => congrArg _ (s.writeVf_eq v.toNat w), fun v off n => ⟨fun h => congrArg _ (State.apertureRead_off h), fun ps h hp => ?_⟩,
    fun v off bs => ⟨fun h => congrArg _ (State.apertureWrite_off h), fun ps h hp => congrArg _ (State.apertureWrite_ok h hp)⟩, fun off tl ha => ?_, fun v i tl ha hv => ?_, ?_,
    fun d i hd hi k hk => s.pfWord_margin hd hi hk, fun h => congrArg _ (State.kbootGo_early h), fun h he => congrArg _ (State.kbootGo_fails h he), fun h he => ?_,
    fun k => ⟨fun h => congrArg _ (State.fwslotGo_ignored ?_), fun hk hf => ⟨_, rfl, State.fwslotGo_begins (not_three_le hk) hf⟩, fun h => congrArg _ (State.fwDone_idle h),
      fun e i h => ⟨_, rfl, State.fwDone_done h⟩⟩,
    fun w n hn => ⟨fun h => ⟨_, rfl, State.kdoor_refused hn h⟩, fun hlt hh h => ⟨_, rfl, State.kdoor_queued hn hlt hh h⟩, fun hlt hh h => ⟨_, rfl, State.kdoor_full hn hlt hh h⟩⟩,
    rfl, fun h => congrArg _ (State.attested_idle h), fun hg hs => ⟨_, rfl, State.attested_report hg hs⟩, fun d w => rfl, fun n w => ?_, fun off w => ⟨fun h => ?_, fun h => ?_, fun h hw => ?_, fun h1 h2 h3 => ?_⟩,
    fun off n => ⟨fun h => congrArg _ (State.pfAccess_unread h), fun ps h => ?_⟩, fun off n l => ⟨fun h => congrArg _ (State.peerAccess_unread h), fun ps h => ?_⟩,
    fun off n bs l => ⟨fun h => ⟨congrArg _ (State.pfAccess_unwritten h), congrArg _ (State.peerAccess_unwritten h)⟩,
      fun ps h => ⟨congrArg _ (State.pfAccess_write h), congrArg _ (State.peerAccess_write h)⟩⟩⟩
  · exact congrArg Host.Outcome.next ((State.apertureRead_ok h hp).trans (s.seeParts_toHost ps _))
  · have hstep : step s = .next ({ s with agenda := tl }.toHost (leBytes 8 (s.pfWord off.toNat).toNat)) := by simp only [step, ha]
    exact hstep
  · exact State.step_vfRead ha hv
  · obtain ⟨hst, hsp, hfe, hsc, hlo, hhi⟩ := s.hub.bootst_fields
    exact ⟨hst, hsp, hfe, hsc, hlo, hhi, s.pfWord_fuse, rfl⟩
  · exact ⟨_, rfl, State.kbootGo_results h he⟩
  · exact h.imp (fun hk => by rw [hk]; decide) id
  · refine ⟨_, rfl, ?_, State.putCoreAt_mem _ _ _, fun k hk => State.putCoreAt_coreOf_ne _ _ hk⟩
    rw [State.writeTrace, State.putCoreAt_coreOf]
    rfl
  · exact congrArg _ (State.hostWrite_unaligned h)
  · have hw : s.hostWrite off.toNat w = s.kdoor w := by rw [h, State.hostWrite_kdoor]
    exact congrArg Host.Outcome.next hw
  · have hw : s.hostWrite off.toNat w = s.attest := by rw [h, State.hostWrite_attest hw]
    exact congrArg Host.Outcome.next hw
  · have hv : (BitVec.ofNat 8 ((off.toNat - 0x10000) / 8)).toNat = (off.toNat - 0x10000) / 8 := by rw [BitVec.toNat_ofNat]; omega
    have hw : s.hostWrite off.toNat w = s.writeVf (BitVec.ofNat 8 ((off.toNat - 0x10000) / 8)).toNat w := by rw [hv, State.hostWrite_vf h1 h2 h3]
    exact congrArg Host.Outcome.next hw
  · exact congrArg Host.Outcome.next ((State.pfAccess_read h).trans (s.seeParts_toHost ps _))
  · exact ⟨_, congrArg Host.Outcome.next (State.peerAccess_read h), s.peerRead_leaves ps _ _⟩

end Sys2Proof.Machine

end

section
/-! PROOFS. The resets, the steps of the boot, thermal gating, and the errors of a core and of a link (R334, R508, R517, R521, R529 to R532). -/

namespace Sys2Proof.Machine

/-! ## The boot (R508, R518, R520 to R522) -/

section Boot

variable (h : Hub)

theorem Hub.slot_noteCheck (k : Nat) (e : BitVec 8) : (h.noteCheck k e).slot k = { h.slot k with status := e } := SMap.get_set_self _ _ _ _

theorem Hub.slot_noteCheck_ne {k i : Nat} (e : BitVec 8) (hi : i ≠ k) : (h.noteCheck k e).slot i = h.slot i := SMap.get_set_ne _ _ _ hi

/-- A check's result leaves the images. -/
theorem Hub.installed_noteCheck (k i : Nat) (e : BitVec 8) : (h.noteCheck k e).installed i = h.installed i := by
  by_cases hi : i = k
  · subst hi
    rw [Hub.installed, Hub.slot_noteCheck, Hub.installed]
  · rw [Hub.installed, Hub.slot_noteCheck_ne h e hi, Hub.installed]

theorem Hub.bootRom_results : h.bootRom.stage = (if h.bootCheck 0 = 0 then 1 else 6) ∧
    h.bootRom.measure = (if h.bootCheck 0 = 0 then extend h.measure (h.installed 0).digest else h.measure) ∧ (h.bootRom.slot 0).status = h.bootCheck 0 := by
  have hslot := congrArg FwSlot.status (Hub.slot_noteCheck { h with spst := (h.bootCheck 0).setWidth 4 } 0 (h.bootCheck 0))
  have himg := Hub.installed_noteCheck { h with spst := (h.bootCheck 0).setWidth 4 } 0 0 (h.bootCheck 0)
  by_cases he : h.bootCheck 0 = 0
  · simp only [Hub.bootRom, he, if_true] at hslot himg ⊢
    refine ⟨trivial, ?_, hslot⟩
    exact congrArg (fun i => extend h.measure (FwImage.digest i)) himg
  · simp only [Hub.bootRom, he, if_false]
    exact ⟨trivial, rfl, hslot⟩

theorem Hub.burn_congr {h t : Hub} (hi : ∀ k, t.installed k = h.installed k) (hf : t.fuse = h.fuse) : t.burn = h.burn := by
  simp only [Hub.burn, hi, hf]

theorem Hub.fuse_le_burn : h.fuse.toNat ≤ h.burn.toNat := by
  have hfold : ∀ (l : List Nat) (f : BitVec 6), f.toNat ≤ (l.foldl (fun f k => let i := h.installed k; if i.commit && f.toNat < i.svn.toNat then i.svn else f) f).toNat := by
    intro l
    induction l with
    | nil => exact fun f => le_rfl
    | cons k t ih =>
      intro f
      refine le_trans ?_ (ih _)
      dsimp only
      split
      · next hc => exact Nat.le_of_lt (of_decide_eq_true (Bool.and_eq_true_iff.1 hc).2)
      · exact le_rfl
  exact hfold _ _

/-- The images checked and their processors told, before any is measured. -/
def Hub.imagesChecked : Hub :=
  ({ h with fest := (h.bootCheck 1).setWidth 4, scrst := (h.bootCheck 2).setWidth 4, scribeUp := decide (h.bootCheck 2 = 0) }.noteCheck 1 (h.bootCheck 1)).noteCheck 2 (h.bootCheck 2)

theorem Hub.installed_imagesChecked (k : Nat) : h.imagesChecked.installed k = h.installed k := by
  rw [Hub.imagesChecked, Hub.installed_noteCheck, Hub.installed_noteCheck]
  rfl

/-- The images that passed are measured. -/
def Hub.imagesMeasured : Hub :=
  let t := if h.bootCheck 1 = 0 then h.imagesChecked.measureImage 1 else h.imagesChecked
  if h.bootCheck 2 = 0 then t.measureImage 2 else t

theorem Hub.imagesMeasured_eq : ∃ m, h.imagesMeasured = { h.imagesChecked with measure := m } := by
  unfold Hub.imagesMeasured
  dsimp only
  split
  · split
    · exact ⟨_, rfl⟩
    · exact ⟨_, rfl⟩
  · split
    · exact ⟨_, rfl⟩
    · exact ⟨_, rfl⟩

theorem Hub.bootImages_eq : h.bootImages =
    if h.bootCheck 1 = 0 && h.bootCheck 2 = 0 then { h.imagesMeasured with fuse := h.imagesMeasured.burn, stage := 2 } else { h.imagesMeasured with stage := 6 } := rfl

theorem Hub.bootImages_results : h.bootImages.scribeUp = decide (h.bootCheck 2 = 0) ∧ (h.bootImages.slot 1).status = h.bootCheck 1 ∧ (h.bootImages.slot 2).status = h.bootCheck 2 ∧
    h.bootImages.stage = (if h.bootCheck 1 = 0 ∧ h.bootCheck 2 = 0 then 2 else 6) ∧ h.bootImages.fuse = (if h.bootCheck 1 = 0 ∧ h.bootCheck 2 = 0 then h.burn else h.fuse) := by
  have h1 : (h.imagesChecked.slot 1).status = h.bootCheck 1 := by
    rw [Hub.imagesChecked, Hub.slot_noteCheck_ne _ _ (by decide), Hub.slot_noteCheck]
  have h2 : (h.imagesChecked.slot 2).status = h.bootCheck 2 := by rw [Hub.imagesChecked, Hub.slot_noteCheck]
  obtain ⟨m, hm⟩ := h.imagesMeasured_eq
  have hburn : h.imagesMeasured.burn = h.burn := by
    rw [hm]
    exact Hub.burn_congr h.installed_imagesChecked rfl
  rw [Hub.bootImages_eq, hburn]
  by_cases hc : h.bootCheck 1 = 0 ∧ h.bootCheck 2 = 0
  · rw [if_pos (by simpa using hc), if_pos hc, if_pos hc, hm]
    exact ⟨rfl, h1, h2, rfl, rfl⟩
  · rw [if_neg (by simpa using hc), if_neg hc, if_neg hc, hm]
    exact ⟨rfl, h1, h2, rfl, rfl⟩

variable {h}

theorem Hub.boot_rom (hs : h.stage = 0) : h.boot = h.bootRom := by simp only [Hub.boot, hs]; rfl
theorem Hub.boot_images (hs : h.stage = 1) : h.boot = h.bootImages := by simp only [Hub.boot, hs]; rfl
theorem Hub.boot_dram (hs : h.stage = 2) : h.boot = { h with stage := 3 } := by simp only [Hub.boot, hs]; rfl
theorem Hub.boot_link (hs : h.stage = 3) : h.boot = { h with stage := 4 } := by simp only [Hub.boot, hs]; rfl

theorem Hub.boot_over (hs : 4 ≤ h.stage.toNat) : h.boot = h := by
  obtain ⟨n, hn⟩ := Nat.exists_eq_add_of_le' hs
  simp only [Hub.boot, hn]

end Boot

theorem State.step_boots {s : State} (ha : s.agenda = []) (hn : s.hwNext = true) (hs : s.hub.stage.toNat < 4) : step s = .next { s with hub := s.hub.boot, hwNext := false } := by
  have hmove : s.hwMove = some s.powerUp := by simp [State.hwMove, firstMove, bootMove, hs]
  have hone : s.runOne = { s.powerUp with hwNext := false } := by simp only [State.runOne, hn, hmove, if_true]
  have hstep : step s = .next s.runOne := by simp only [step, ha]
  rw [hstep, hone]
  rfl

/-! ## The resets (R521, R530) -/

theorem keepImages_get (m : SMap FwSlot) {k : Nat} (hk : k < 3) : (SMap.get FwSlot.reset (keepImages m) k).image = (SMap.get FwSlot.reset m k).image := by
  have hl : keepImages m = SMap.set FwSlot.reset (SMap.set FwSlot.reset (SMap.set FwSlot.reset [] 0 { FwSlot.reset with image := (SMap.get FwSlot.reset m 0).image })
      1 { FwSlot.reset with image := (SMap.get FwSlot.reset m 1).image }) 2 { FwSlot.reset with image := (SMap.get FwSlot.reset m 2).image } := rfl
  rw [hl]
  interval_cases k
  · rw [SMap.get_set_ne _ _ _ (by decide), SMap.get_set_ne _ _ _ (by decide), SMap.get_set_self]
  · rw [SMap.get_set_ne _ _ _ (by decide), SMap.get_set_self]
  · rw [SMap.get_set_self]

theorem State.warmReset_die (s : State) (d : Nat) : (s.warmReset.die d).free = (s.die d).free ∧ (s.warmReset.die d).fmrs = (s.die d).fmrs ∧
    (s.warmReset.die d).dirty = (s.die d).dirty ∧ (s.warmReset.die d).tlb = [] := by
  have hd : s.warmReset.die d = if ∃ e ∈ s.dies, e.1 = d then (s.die d).warm else Die.reset := SMap.get_map Die.reset (fun _ x => x.warm) s.dies d
  rw [hd]
  split
  · exact ⟨rfl, rfl, rfl, rfl⟩
  · next hn =>
    have hs : s.die d = Die.reset := SMap.get_of_unlisted _ _ hn
    rw [hs]
    exact ⟨rfl, rfl, rfl, rfl⟩

/-! ## Thermal gating (R531, R532) -/

section Gate

theorem count_lt (g n : Nat) : Nat.count (fun x => x < g) n = min n g := by
  induction n with
  | zero => simp
  | succ n ih =>
    rw [Nat.count_succ, ih]
    split <;> omega

/-- As many of each period's numbers satisfy a periodic predicate, wherever the period begins. -/
theorem count_shift {p : Nat → Prop} [DecidablePred p] (hp : ∀ x, p (x + 64) ↔ p x) (c : Nat) : Nat.count (fun k => p (k + c)) 64 = Nat.count p 64 := by
  induction c with
  | zero => rfl
  | succ c ih =>
    have hfirst := Nat.count_succ' (fun k => p (k + c)) 64
    rw [Nat.count_succ, ih] at hfirst
    have hends : (if p (64 + c) then 1 else 0) = if p (0 + c) then 1 else 0 := if_congr (by rw [Nat.add_comm 64 c, Nat.zero_add, hp]) rfl rfl
    have hnext : Nat.count (fun k => p (k + (c + 1))) 64 = Nat.count (fun k => p (k + 1 + c)) 64 := by simp only [Nat.add_assoc, Nat.add_comm 1 c]
    rw [hnext]
    omega

theorem count_gated {g : Nat} (hg : g ≤ 64) (c : Nat) : Nat.count (fun k => (k + c) % 64 < g) 64 = g := by
  rw [count_shift (p := fun x => x % 64 < g) (fun x => by rw [Nat.add_mod_right])]
  have hmod : Nat.count (fun x => x % 64 < g) 64 = Nat.count (fun x => x < g) 64 :=
    List.countP_congr fun x hx => by simp only [Nat.mod_eq_of_lt (List.mem_range.1 hx)]
  rw [hmod, count_lt, Nat.min_eq_right hg]

variable (s : State)

/-- A core of a die with 1 to 63 of each 64 cycles gated. -/
theorem State.gated_at (n : Word) (h0 : (s.die s.dieId).gate.toNat ≠ 0) (h64 : ¬ 64 ≤ (s.die s.dieId).gate.toNat) :
    ({ s with core := { s.core with cycle := n } } : State).gated =
      decide ((n.toNat + Config.gateStart (s.die s.dieId).gate.toNat (n.toNat / 64)) % 64 < (s.die s.dieId).gate.toNat) :=
  (if_neg h0).trans (if_neg h64)

theorem State.gated_count (b : Nat) :
    (List.range 64).countP (fun k => ({ s with core := { s.core with cycle := BitVec.ofNat 64 (64 * b + k) } } : State).gated) = min 64 (s.die s.dieId).gate.toNat := by
  by_cases h0 : (s.die s.dieId).gate.toNat = 0
  · have hf : ∀ k ∈ List.range 64, ({ s with core := { s.core with cycle := BitVec.ofNat 64 (64 * b + k) } } : State).gated = false := fun k _ => if_pos h0
    rw [List.countP_eq_zero.2 fun k hk => by rw [hf k hk]; exact Bool.false_ne_true, h0]
    rfl
  by_cases h64 : 64 ≤ (s.die s.dieId).gate.toNat
  · have ht : ∀ k ∈ List.range 64, ({ s with core := { s.core with cycle := BitVec.ofNat 64 (64 * b + k) } } : State).gated = true := fun k _ => (if_neg h0).trans (if_pos h64)
    rw [List.countP_eq_length.2 ht, List.length_range, Nat.min_eq_left h64]
  · rw [Nat.min_eq_right (by omega)]
    refine Eq.trans (List.countP_congr fun k hk => ?_) (count_gated (Nat.le_of_not_le h64) (Config.gateStart (s.die s.dieId).gate.toNat (b % 2 ^ 58)))
    have hlt := List.mem_range.1 hk
    have hn : (BitVec.ofNat 64 (64 * b + k)).toNat = 64 * (b % 2 ^ 58) + k := by rw [BitVec.toNat_ofNat]; omega
    have hq : (64 * (b % 2 ^ 58) + k) / 64 = b % 2 ^ 58 := by omega
    rw [State.gated_at _ _ h0 h64, hn, hq, decide_eq_true_eq, decide_eq_true_eq, Nat.add_assoc, Nat.mul_add_mod]

variable {s}

theorem State.gated_issues_nothing (h : s.gated = true) : s.issueSlot = s := if_pos (by rw [h, Bool.or_true])

theorem State.gated_starts_nothing (h : s.gated = true) (v : Inv) : canStart s v = false := by simp [canStart, h]

theorem Die.writeMargin_trip (l : List (Bool × BitVec 256)) : ∀ (d : Die) (w : BitVec 12) (n : BitVec 16), (d.writeMargin w n l).trip = d.trip ∧ (d.writeMargin w n l).noBind = d.noBind := by
  induction l with
  | nil => exact fun _ _ _ => ⟨rfl, rfl⟩
  | cons r t ih => exact fun d w n => ih { d with margin := SMap.set 0 d.margin w.toNat (r.2 + n.setWidth 256) } (w + 1) (n + 1)

theorem State.margin_trip (s : State) (d code cause : Nat) (addr detail : Word) (core ctx : Nat) (fatal : Bool) :
    ((s.margin d code cause addr detail core ctx fatal).die d).trip = (s.die d).trip ∧ ((s.margin d code cause addr detail core ctx fatal).die d).noBind = (s.die d).noBind := by
  simp only [State.margin, State.marginAt]
  split
  · exact ⟨rfl, rfl⟩
  · rw [State.putDie_die]
    exact Die.writeMargin_trip _ _ _ _

theorem State.thermalTrip_trips {d : Nat} (h : (s.die d).gate = 64) : ((s.thermalTrip d).die d).trip = true ∧ ((s.thermalTrip d).die d).noBind = true := by
  obtain ⟨t, ht⟩ : ∃ t : State, s.thermalTrip d = (t.putDie d { t.die d with trip := true, noBind := true }).margin d 0x09 0 0 0 0x1FF 15 true := ⟨_, if_neg (not_not.2 h)⟩
  obtain ⟨h1, h2⟩ := (t.putDie d { t.die d with trip := true, noBind := true }).margin_trip d 0x09 0 0 0 0x1FF 15 true
  rw [ht, h1, h2, State.putDie_die]
  exact ⟨rfl, rfl⟩

end Gate

/-! ## Errors (R517, R529) -/

theorem State.halt_core (s : State) (cause : BitVec 5) (a b : Word) :
    (s.halt cause a b).core = { s.core with halted := true, invs := [], u0 := s.core.u0.kill (cause.setWidth 8), u1 := s.core.u1.kill (cause.setWidth 8), u2 := s.core.u2.kill (cause.setWidth 8), u3 := s.core.u3.kill (cause.setWidth 8) } := rfl

theorem State.halt_mem (s : State) (cause : BitVec 5) (a b : Word) : (s.halt cause a b).mem = s.mem := by
  simp only [State.halt]
  refine (foldl_keeps State.mem ?_ _ _).trans (SameButDies.margin _ _ _ _ _ _ _ _ _).mem
  exact fun _ _ => rfl

theorem execRelfelLinkFailure_idle {s : State} {l : BitVec 4} (ho : s.others = []) (hl : s.core.linkPorts s.coreId l.toNat = []) :
    execRelfelLinkFailure l s = .next (s.margin 0 8 0 0 (l.setWidth 64) 0x1FF 15 false) := by
  simp only [execRelfelLinkFailure, ho, List.map_nil, List.foldl_cons, List.foldl_nil, State.focus_self, hl]

/-- Settles O52: the boot by its stages, the gated cycles by a count over a period, the resets by what they keep of a die. -/
theorem resetAndErrorSteps : Obligations.ResetAndErrorSteps := by
  intro s
  refine ⟨⟨_, rfl, rfl, rfl, rfl, rfl, rfl, rfl, rfl, rfl, fun k hk => keepImages_get s.hub.fw hk⟩, State.step_boots, fun h => ⟨fun hs => ?_, fun hs => ?_, Hub.boot_dram, Hub.boot_link, Hub.boot_over⟩,
    ⟨_, rfl, rfl, rfl, rfl, rfl, rfl, rfl, s.warmReset_die⟩, fun d g => rfl, fun h => ⟨State.gated_issues_nothing h, State.gated_starts_nothing h⟩, s.gated_count,
    fun d => ⟨fun h => ?_, fun h => ⟨_, rfl, State.thermalTrip_trips h⟩⟩, fun h => ?_, fun k h => ?_, fun l => ⟨⟨_, rfl⟩, fun ho hl => execRelfelLinkFailure_idle ho hl⟩⟩
  · rw [Hub.boot_rom hs]
    exact h.bootRom_results
  · rw [Hub.boot_images hs]
    obtain ⟨hup, h1, h2, hst, hf⟩ := h.bootImages_results
    exact ⟨hup, h1, h2, hst, hf, h.fuse_le_burn⟩
  · exact congrArg Host.Outcome.next (if_pos h : s.thermalTrip d.toNat = s)
  · have hx : execUncorrectableCoreError s = .next (s.halt 0 s.core.kepc s.core.kaux1) := by simp only [execUncorrectableCoreError, h]
    exact ⟨_, hx, rfl, rfl, s.halt_mem _ _ _⟩
  · have hx : execUncorrectableCoreError s = .next ((s.abortCut k.ctx).drainDomain k.ctx k.area.toNat) := by simp only [execUncorrectableCoreError, h]
    exact hx

end Sys2Proof.Machine

end

section
/-! PROOFS. What leaves main memory as it is (R208, R423): the accesses, the traps, the storage and the invocations. -/

namespace Sys2Proof.Machine

/-! ## Choices and folds -/

@[simp] theorem State.mem_ite (c : Prop) [Decidable c] (s t : State) : (if c then s else t).mem = if c then s.mem else t.mem := apply_ite State.mem c s t

@[simp] theorem foldl_mem {α : Type} {f : State → α → State} (h : ∀ t a, (f t a).mem = t.mem) (l : List α) (s : State) : (l.foldl f s).mem = s.mem :=
  foldl_keeps State.mem h l s

theorem exceptMap_ok {ε α β : Type} {f : α → β} {e : Except ε α} {b : β} (h : e.map f = .ok b) : ∃ a, e = .ok a ∧ f a = b := by
  cases e with
  | error _ => cases h
  | ok a => exact ⟨a, rfl, Except.ok.inj h⟩

theorem exceptMap_error {ε α β : Type} {f : α → β} {e : Except ε α} {x : ε} (h : e.map f = .error x) : e = .error x := by
  cases e with
  | error _ => cases h; rfl
  | ok a => cases h

/-! ## Translation, and the views of a party -/

theorem translate_ok_mem {s t : State} {asid : BitVec 9} {kl : Bool} {k : Access} {va : Nat} {x : Xlat} (h : translate s asid kl k va = .ok (x, t)) : t.mem = s.mem :=
  (translate_ok h).mem

theorem accessParts_ok_mem {s t : State} {asid : BitVec 9} {kl : Bool} {k : Access} {va n : Nat} {ps : List Part} (h : accessParts s asid kl k va n = .ok (ps, t)) :
    t.mem = s.mem :=
  (accessParts_ok h).mem

theorem laneParts_ok_mem {s t : State} {k : Access} {addr : Nat → Nat} {lanes : List Nat} {l : List (Nat × List Part)} (h : laneParts s k addr lanes = .ok (l, t)) :
    t.mem = s.mem :=
  (laneParts_tlb h).mem

@[simp] theorem State.lookAll_mem (s : State) (q : Nat) (acq : Option Nat) (us : List (Nat × Nat)) : (s.lookAll q acq us).2.mem = s.mem :=
  (SameButViews.lookAll s q acq us).mem
@[simp] theorem State.loadIn_mem (s : State) (q : Nat) (acq : Option Nat) (m a n : Nat) : (s.loadIn q acq m a n).2.mem = s.mem :=
  (SameButViews.loadIn s q acq m a n).mem
@[simp] theorem readView_mem (s : State) (q : Nat) (acq : Option Nat) (m : Nat) (ps : List Part) : (readView s q acq m ps).2.mem = s.mem :=
  (SameButViews.readView s q acq m ps).mem
@[simp] theorem State.noteStore_mem (s : State) (e : Unseen) (a : Nat) (bs : List Byte) : (s.noteStore e a bs).2.mem = s.mem :=
  (SameButViews.noteStore s e a bs).mem
@[simp] theorem State.spLoad_mem (s : State) (q m off n : Nat) : (s.spLoad q m off n).2.mem = s.mem := s.loadIn_mem q none m _ n

@[simp] theorem loadLaneParts_mem (s : State) (l : List (Nat × List Part)) : (loadLaneParts s l).2.mem = s.mem := by
  induction l generalizing s with
  | nil => rfl
  | cons e t ih => exact (ih _).trans (s.loadParts_mem .plain 4 e.2)

/-! ## The storage -/

theorem State.takeChunks_mem {s t : State} {fuel i n : Nat} {w : Writer} {cs ds : List Nat} (h : s.takeChunks fuel i w cs n = some (ds, t)) : t.mem = s.mem :=
  (SameButDies.takeChunks fuel h).mem
theorem State.growLine_mem {s t : State} {i l tag : Nat} {w : Writer} {x y : Frame} (h : s.growLine i w x l tag = some (y, t)) : t.mem = s.mem :=
  (SameButDies.growLine h).mem
theorem State.storeLine_mem {s t : State} {w : Writer} {line : Nat} {keep : Bool} (h : s.storeLine w line keep = some t) : t.mem = s.mem :=
  (SameButDies.storeLine h).mem
@[simp] theorem State.restoreLine_mem (s : State) (line : Nat) : (s.restoreLine line).mem = s.mem := (SameButDies.restoreLine s line).mem
@[simp] theorem State.undoFrame_mem (s : State) (u : Undo) : (s.undoFrame u).mem = s.mem := (SameButDies.undoFrame s u).mem

/-! ## Traps -/

@[simp] theorem State.marginAt_mem (s : State) (node d code cause : Nat) (addr detail : Word) (core ctx : Nat) (fatal : Bool) :
    (s.marginAt node d code cause addr detail core ctx fatal).mem = s.mem := by
  simp [State.marginAt]

@[simp] theorem State.margin_mem (s : State) (d code cause : Nat) (addr detail : Word) (core ctx : Nat) (fatal : Bool) :
    (s.margin d code cause addr detail core ctx fatal).mem = s.mem :=
  s.marginAt_mem ..

@[simp] theorem State.enterHandler_mem (s : State) (cause : BitVec 5) : (s.enterHandler cause).mem = s.mem := by
  unfold State.enterHandler
  dsimp only
  split
  · simp [State.halt_mem]
  · next h => split <;> simp [State.halt_mem, accessParts_ok_mem h]

@[simp] theorem State.takeTrap_mem (s : State) (i : TrapInfo) (ctx : Nat) (inv irq : Bool) (kepc : Word) (ilen : Nat) (asid : BitVec 9) :
    (s.takeTrap i ctx inv irq kepc ilen asid).mem = s.mem :=
  State.enterHandler_mem _ _

@[simp] theorem State.takeCtxTrap_mem (s : State) (i : TrapInfo) (c : CtxId) (kepc : Word) (ilen : Nat) : (s.takeCtxTrap i c kepc ilen).mem = s.mem := by
  simp [State.takeCtxTrap]

@[simp] theorem State.trapA_mem (s : State) (i : TrapInfo) (len : Nat) : (s.trapA i len).mem = s.mem := by
  unfold State.trapA
  split <;> simp [State.halt_mem]

@[simp] theorem State.raiseTrap_mem (s : State) (i : TrapInfo) (c : CtxId) (kepc : Word) : (s.raiseTrap i c kepc).mem = s.mem := by
  unfold State.raiseTrap
  split <;> simp

/-! ## Invocations dropped, groups killed, and steps of other cores -/

@[simp] theorem State.dropOne_mem (s : State) (v : Inv) : (s.dropOne v).mem = s.mem := by
  rw [State.dropOne, (SameButDies.unholdInv _ v false).mem, State.putCore_mem, foldl_mem State.undoFrame_mem]

@[simp] theorem State.dropInvs_mem (s : State) (p : Inv → Bool) : (s.dropInvs p).mem = s.mem := by
  obtain ⟨t, ht, h⟩ := s.dropInvs_eq p
  rw [h, ht]
  simp

theorem State.withCore_mem (s : State) (n : Nat) {f : State → State} (hf : ∀ t, (f t).mem = t.mem) : (s.withCore n f).mem = s.mem := by
  rw [State.withCore, State.focus_mem, hf, State.focus_mem]

theorem State.forCores_mem (s : State) {f : State → State} (hf : ∀ t, (f t).mem = t.mem) : (s.forCores f).mem = s.mem :=
  foldl_mem (fun t n => t.withCore_mem n hf) _ _

@[simp] theorem State.atRank_mem (s : State) (n : Nat) : (s.atRank n).mem = s.mem := by
  unfold State.atRank
  dsimp only
  split
  · exact s.tick_outside.1
  · rfl

@[simp] theorem State.withStorage_mem (s t : State) : (s.withStorage t).mem = s.mem := by
  rw [State.withStorage, foldl_mem]
  exact fun _ _ => rfl

end Sys2Proof.Machine
end

section
/-! PROOFS. What leaves main memory as it is: the operations of the state, of the engines and of the Ductus, each by its own definition. -/

namespace Sys2Proof.Machine

@[simp] theorem State.noteLast_mem (s : State) (e : Unseen) (a : ℕ) (n : ℕ) : (s.noteLast e a n).mem = s.mem := by
  simp [State.noteLast]

@[simp] theorem State.readAtomic_mem (s : State) (q : ℕ) (acq : Option ℕ) (ps : List Part) : (s.readAtomic q acq ps).mem = s.mem := by
  simp [State.readAtomic]

@[simp] theorem casFail_mem (s : State) (o : Ops) (ps : List Part) : (casFail s o ps).mem = s.mem := by
  simp [casFail]

@[simp] theorem writeControl_mem (s : State) (n : ℕ) (w : Word) : (writeControl s n w).mem = s.mem := by
  simp [writeControl]

@[simp] theorem State.writeTrace_mem (s : State) (n : ℕ) (w : Word) : (s.writeTrace n w).mem = s.mem := by
  simp [State.writeTrace, State.putCoreAt_mem]

@[simp] theorem State.readHeader_mem (s : State) (u : CtxId) (area : Word) (pv : Word) : (s.readHeader u area pv).mem = s.mem := by
  simp [State.readHeader]

@[simp] theorem State.putScroll_mem (s : State) (u : CtxId) (x : Scroll) : (s.putScroll u x).mem = s.mem := rfl

@[simp] theorem State.keepRecord_mem (s : State) (asid : BitVec 9) (va : ℕ) (r : BitVec 128) : (s.keepRecord asid va r).mem = s.mem := by
  simp only [State.keepRecord]
  (repeat' split) <;> simp

@[simp] theorem State.keepRecords_mem (s : State) (asid : BitVec 9) (va : ℕ) (rs : List (BitVec 128)) : (s.keepRecords asid va rs).mem = s.mem := by
  fun_induction s.keepRecords asid va rs <;> simp_all

@[simp] theorem State.scribeWrite_mem (s : State) (d : ℕ) (slot : ℕ) (r : BitVec 128) : (s.scribeWrite d slot r).mem = s.mem := by
  simp [State.scribeWrite]

@[simp] theorem laneWise_mem (o : Ops) (f : State → ℕ → Lane) (t : State) : (laneWise o f t).mem = t.mem := rfl

@[simp] theorem State.takeCut_mem (s : State) (u : CtxId) : (s.takeCut u).mem = s.mem := by
  simp only [State.takeCut]
  (repeat' split) <;> simp

@[simp] theorem State.drainCtx_mem (s : State) (u : CtxId) : (s.drainCtx u).mem = s.mem := rfl

@[simp] theorem State.drainStep_mem (s : State) (u : CtxId) : (s.drainStep u).mem = s.mem := by
  simp only [State.drainStep]
  (repeat' split) <;> simp

@[simp] theorem State.drainMove_mem (s : State) (u : CtxId) : (s.drainMove u).mem = s.mem := by
  simp [State.drainMove]

@[simp] theorem pushReturn_mem (s : State) (w : Word) : (pushReturn s w).mem = s.mem := rfl

@[simp] theorem popReturn_mem (s : State) (target : Word) : (popReturn s target).mem = s.mem := by
  simp [popReturn]

@[simp] theorem endRoutine_mem (s : State) : (endRoutine s).mem = s.mem := by
  simp [endRoutine]

@[simp] theorem resumeParse_mem (o : Ops) (recover : Bool) (t : State) : (resumeParse o recover t).mem = t.mem := by
  simp [resumeParse]

@[simp] theorem ligcntWrite_mem (q : BitVec 2) (o : Ops) (t : State) : (ligcntWrite q o t).mem = t.mem := rfl

@[simp] theorem State.dropHeld_mem (s : State) (c : CtxId) : (s.dropHeld c).mem = s.mem := by
  simp [State.dropHeld]

@[simp] theorem State.cleanLine_mem (s : State) (line : ℕ) (keep : Bool) : (s.cleanLine line keep).mem = s.mem := rfl

@[simp] theorem State.storeForm_mem (s : State) (dpa : ℕ) (x : Frame) (y : Frame) (bs : List Byte) : (s.storeForm dpa x y bs).mem = s.mem := rfl

@[simp] theorem State.putFrame_mem (s : State) (dpa : ℕ) (x : Frame) : (s.putFrame dpa x).mem = s.mem := rfl

@[simp] theorem State.storeRaw_mem (s : State) (dpa : ℕ) (x : Frame) (y : Frame) (bs : List Byte) : (s.storeRaw dpa x y bs).mem = s.mem := rfl

@[simp] theorem State.unholdWrite_mem (s : State) (i : ℕ) (line : ℕ) (c : CtxId) : (s.unholdWrite i line c).mem = s.mem := by
  simp only [State.unholdWrite]
  (repeat' split) <;> simp

@[simp] theorem State.holdOn_mem (s : State) (i : ℕ) (h : HeldWrite) : (s.holdOn i h).mem = s.mem := by
  simp [State.holdOn]

@[simp] theorem State.holdWrite_mem (s : State) (i : ℕ) (line : ℕ) (va : ℕ) (len : ℕ) (c : CtxId) : (s.holdWrite i line va len c).mem = s.mem := by
  simp [State.holdWrite]

@[simp] theorem State.toWell_mem (s : State) (line : ℕ) : (s.toWell line).mem = s.mem := by
  simp [State.toWell]

@[simp] theorem State.dropCode_mem (s : State) (a : ℕ) (n : ℕ) : (s.dropCode a n).mem = s.mem := by
  simp [State.dropCode]

theorem tensorAccess_ok_mem (s : State) (o : Ops) (write : Bool) {res : List Part × State} (hres : tensorAccess s o write = .ok res) : res.2.mem = s.mem := by
  grind [tensorAccess, accessParts_ok_mem]

@[simp] theorem State.setT_mem (s : State) (n : BitVec 6) (t : Desc) : (s.setT n t).mem = s.mem := rfl

@[simp] theorem State.putPort_mem (s : State) (p : ℕ) (x : Port) : (s.putPort p x).mem = s.mem := rfl

@[simp] theorem State.putInv_mem (s : State) (v : Inv) : (s.putInv v).mem = s.mem := rfl

@[simp] theorem State.addInv_mem (s : State) (v : Inv) : (s.addInv v).mem = s.mem := rfl

@[simp] theorem skipSet_mem (o : Ops) (b : Option Bool) (t : State) : (skipSet o b t).mem = t.mem := rfl

@[simp] theorem quantE4m3_mem (t : State) (o : Ops) : (quantE4m3 t o).mem = t.mem := rfl

@[simp] theorem quantBlocks_mem (t : State) (o : Ops) : (quantBlocks t o).mem = t.mem := rfl

@[simp] theorem vsort_mem (t : State) (o : Ops) : (vsort t o).mem = t.mem := rfl

@[simp] theorem vtopk_mem (t : State) (o : Ops) : (vtopk t o).mem = t.mem := rfl

@[simp] theorem gateWrite_mem (t : State) (o : Ops) (l : List (ℕ × BitVec 32)) (g : BitVec 16) : (gateWrite t o l g).mem = t.mem := rfl

@[simp] theorem gateDivide_mem (t : State) (o : Ops) (l : List (ℕ × BitVec 32)) (g : BitVec 16) : (gateDivide t o l g).mem = t.mem := rfl

@[simp] theorem gateSoftmax_mem (t : State) (o : Ops) : (gateSoftmax t o).mem = t.mem := by
  simp only [gateSoftmax]
  (repeat' split) <;> simp

@[simp] theorem gateRenorm_mem (t : State) (o : Ops) : (gateRenorm t o).mem = t.mem := by
  simp [gateRenorm]

@[simp] theorem State.takeFree_mem (s : State) : (s.takeFree).2.mem = s.mem := rfl

@[simp] theorem State.mapCores_mem (s : State) (f : ℕ → Core → Core) : (s.mapCores f).mem = s.mem := rfl

@[simp] theorem State.dropRecords_mem (s : State) (asid : BitVec 9) (va : ℕ) (n : ℕ) : (s.dropRecords asid va n).mem = s.mem := rfl

@[simp] theorem State.unholdInv_mem (s : State) (v : Inv) (saved : Bool) : (s.unholdInv v saved).mem = s.mem := by
  simp [State.unholdInv]

@[simp] theorem State.killGroup_mem (s : State) (u : CtxId) (cause : BitVec 8) : (s.killGroup u cause).mem = s.mem := by
  simp [State.killGroup]

@[simp] theorem State.passCommand_mem (s : State) (u : CtxId) : (s.passCommand u).mem = s.mem := by
  simp only [State.passCommand]
  (repeat' split) <;> simp

@[simp] theorem State.returnTo_mem (s : State) (u : CtxId) (skip : Bool) : (s.returnTo u skip).mem = s.mem := by
  simp only [State.returnTo]
  (repeat' split) <;> simp

@[simp] theorem State.afterTrap_mem (s : State) (m : ℕ) : (s.afterTrap m).mem = s.mem := by
  simp [State.afterTrap]

@[simp] theorem State.genFault_mem (s : State) (t : TrapInfo) (tile : ℕ) : (s.genFault t tile).2.mem = s.mem := rfl

@[simp] theorem State.rebuildCirc_mem (s : State) (pn : ℕ) : (s.rebuildCirc pn).mem = s.mem := by
  simp [State.rebuildCirc, State.focus_mem]

@[simp] theorem State.portsMoved_mem (s : State) (old : ℕ) (pns : List ℕ) : (s.portsMoved old pns).mem = s.mem := by
  simp [State.portsMoved, State.circMoved_mem]

@[simp] theorem State.contextRestore_mem (s : State) : (s.contextRestore).mem = s.mem := by
  simp only [State.contextRestore]
  (repeat' split) <;> simp

@[simp] theorem State.leaveTrap_mem (s : State) : (s.leaveTrap).mem = s.mem := rfl

@[simp] theorem State.setRoot_mem (s : State) (a : BitVec 9) (w : Word) : (s.setRoot a w).mem = s.mem := rfl

@[simp] theorem State.readArea_mem (s : State) (u : CtxId) (area : Word) : (s.readArea u area).mem = s.mem := by
  simp [State.readArea]

@[simp] theorem State.putRegion_mem (s : State) (rcb : ℕ) (r : Region) : (s.putRegion rcb r).mem = s.mem := rfl

@[simp] theorem State.circLoss_mem (s : State) (pn : ℕ) : (s.circLoss pn).mem = s.mem := by
  simp [State.circLoss, State.focus_mem, State.loseEnd_mem]

@[simp] theorem State.mapLaunches_mem (s : State) (f : Launch → Launch) : (s.mapLaunches f).mem = s.mem := rfl

@[simp] theorem State.putQueue_mem (s : State) (q : ℕ) (x : Queue) : (s.putQueue q x).mem = s.mem := rfl

@[simp] theorem State.raiseMsix_mem (s : State) (fn : ℕ) (vec : ℕ) : (s.raiseMsix fn vec).mem = s.mem := rfl

@[simp] theorem State.recoverDiscards_mem (s : State) (u : CtxId) : (s.recoverDiscards u).mem = s.mem := by
  simp only [State.recoverDiscards]
  (repeat' split) <;> simp

@[simp] theorem State.endReplay_mem (s : State) (u : CtxId) : (s.endReplay u).mem = s.mem := rfl

@[simp] theorem State.consumed_mem (s : State) (u : CtxId) : (s.consumed u).mem = s.mem := by
  simp [State.consumed]

@[simp] theorem State.consumeSymbols_mem (n : ℕ) (s : State) (u : CtxId) : (State.consumeSymbols n s u).mem = s.mem := by
  fun_induction State.consumeSymbols n s u <;> simp_all

@[simp] theorem State.handlePatch_mem (s : State) (u : CtxId) (r : ℕ) : (s.handlePatch u r).mem = s.mem := rfl

@[simp] theorem State.applySnapshot_mem (s : State) (u : CtxId) (keep : Option ℕ) (head : ℕ) (items : List ℕ) : (s.applySnapshot u keep head items).mem = s.mem := rfl

@[simp] theorem State.replayFault_mem (s : State) (u : CtxId) (sub : ℕ) (at' : ℕ) : (s.replayFault u sub at').mem = s.mem := by
  simp [State.replayFault]

@[simp] theorem State.noteRecovery_mem (s : State) (u : CtxId) : (s.noteRecovery u).mem = s.mem := by
  simp [State.noteRecovery]

@[simp] theorem State.passGuard_mem (t : State) (u : CtxId) (head : ℕ) : (t.passGuard u head).mem = t.mem := by
  grind [State.passGuard, State.takeCut_mem, State.putScroll_mem, State.replayFault_mem, State.noteRecovery_mem, State.consumeSymbols_mem]

@[simp] theorem winFind_mem (fuel : ℕ) (s : State) (p : ℕ) (e : ℕ) (asid : BitVec 9) (va : ℕ) : (winFind fuel s p e asid va).2.mem = s.mem := by
  fun_induction winFind fuel s p e asid va <;> simp_all

theorem portTranslate_error_mem (s : State) (p : ℕ) (r : Reader) (k : Access) (va : ℕ) {res : Flt × State} (hres : portTranslate s p r k va = .error res) : res.2.mem = s.mem := by
  grind [portTranslate, winFind_mem]

theorem portTranslate_ok_mem (s : State) (p : ℕ) (r : Reader) (k : Access) (va : ℕ) {res : Xlat × State} (hres : portTranslate s p r k va = .ok res) : res.2.mem = s.mem := by
  grind [portTranslate, winFind_mem, translate_ok_mem]

@[simp] theorem State.logUnit_mem (s : State) (pn : ℕ) (c : CtxId) (pc : Word) (f : Flt) : (s.logUnit pn c pc f).mem = s.mem := by
  simp [State.logUnit]

@[simp] theorem State.stopPort_mem (s : State) (pn : ℕ) (f : Flt) (tile : ℕ) (x : Reader) : (s.stopPort pn f tile x).mem = s.mem := by
  simp [State.stopPort]

@[simp] theorem State.noteMasked_mem (s : State) (e : Unseen) (a : ℕ) (bs : List (Byte × Byte)) : (s.noteMasked e a bs).2.mem = s.mem := by
  simp only [State.noteMasked]
  (repeat' split) <;> simp

@[simp] theorem State.spMasked_mem (s : State) (p : ℕ) (seq : ℕ) (m : ℕ) (off : ℕ) (bs : List (Byte × Byte)) : (s.spMasked p seq m off bs).mem = s.mem := by
  simp [State.spMasked]

@[simp] theorem State.holdInv_mem (s : State) (t : State) (v : Inv) (ls : List (ℕ × ℕ)) (line : ℕ) (va : ℕ) (port : ℕ) : (s.holdInv t v ls line va port).mem = s.mem := by
  simp [State.holdInv]

@[simp] theorem State.complete_mem (s : State) (v : Inv) (keys : List (ℕ × ℕ)) : (s.complete v keys).mem = s.mem := by
  simp [State.complete]

@[simp] theorem State.toHost_mem (s : State) (bs : List Byte) : (s.toHost bs).mem = s.mem := rfl

@[simp] theorem State.seeParts_mem (s : State) (ps : List Part) : (s.seeParts ps).mem = s.mem := by
  simp [State.seeParts]

@[simp] theorem State.apertureRead_mem (s : State) (v : ℕ) (off : ℕ) (n : ℕ) : (s.apertureRead v off n).mem = s.mem := by
  simp only [State.apertureRead]
  (repeat' split) <;> simp

@[simp] theorem State.turnTaken_mem (s : State) (q : ℕ) : (s.turnTaken q).mem = s.mem := rfl

@[simp] theorem State.queueReason_mem (s : State) (q : ℕ) (off : ℕ) (reason : ℕ) : (s.queueReason q off reason).mem = s.mem := rfl

@[simp] theorem State.queueError_mem (s : State) (q : ℕ) (reason : ℕ) : (s.queueError q reason).mem = s.mem := rfl

@[simp] theorem State.putLaunch_mem (s : State) (i : ℕ) (l : Option Launch) : (s.putLaunch i l).mem = s.mem := rfl

@[simp] theorem State.passPacket_mem (s : State) (q : ℕ) (p : Packet) : (s.passPacket q p).mem = s.mem := rfl

@[simp] theorem State.markBusy_mem (s : State) (v : Inv) : (s.markBusy v).mem = s.mem := by
  simp [State.markBusy]

@[simp] theorem State.startInv_mem (s : State) (id : ℕ) : (s.startInv id).mem = s.mem := by
  simp only [State.startInv]
  (repeat' split) <;> simp [State.discard_mem]

@[simp] theorem State.settleMark_mem (s : State) (v : Inv) (cnt : ℕ) : (s.settleMark v cnt).mem = s.mem := by
  simp [State.settleMark]

@[simp] theorem State.writeD_mem (s : State) (v : Inv) (w : Word) : (s.writeD v w).mem = s.mem := rfl

@[simp] theorem State.toPeer_mem (s : State) (link : ℕ) (x : CircuitSymbol) : (s.toPeer link x).mem = s.mem := rfl

@[simp] theorem drained_mem (v : Inv) (t : State) : (drained v t).mem = t.mem := by
  simp [drained]

@[simp] theorem State.writeMctl_mem (s : State) (d : ℕ) (w : Word) : (s.writeMctl d w).mem = s.mem := by
  simp [State.writeMctl]

@[simp] theorem State.writeVf_mem (s : State) (v : ℕ) (w : Word) : (s.writeVf v w).mem = s.mem := by
  simp [State.writeVf]

@[simp] theorem State.spSaw_mem (s : State) (v : Inv) (off : ℕ) (n : ℕ) : (s.spSaw v off n).mem = s.mem := by
  simp [State.spSaw]

@[simp] theorem State.starveAt_mem (s : State) (v : Inv) (pn : ℕ) (f : Flt) (tile : ℕ) : (s.starveAt v pn f tile).mem = s.mem := by
  simp [State.starveAt]

@[simp] theorem State.fireTerm_mem (s : State) : (s.fireTerm).mem = s.mem := by
  simp [State.fireTerm]

@[simp] theorem State.select_mem (s : State) (c : CtxId) : (s.select c).mem = s.mem := rfl

@[simp] theorem State.noteProd_mem (s : State) (u : CtxId) : (s.noteProd u).mem = s.mem := by
  simp only [State.noteProd]
  (repeat' split) <;> simp

@[simp] theorem State.debugStep_mem (s : State) (u : CtxId) (aux0 : Option Word) (aux1 : Option Word) : (s.debugStep u aux0 aux1).mem = s.mem := by
  simp [State.debugStep]

@[simp] theorem stepInstr_mem (s : State) (t : State) (u : CtxId) (pc : Word) : (stepInstr s t u pc).mem = t.mem := by
  simp [stepInstr]

@[simp] theorem State.waitMismatch_mem (s : State) (u : CtxId) : (s.waitMismatch u).mem = s.mem := rfl

@[simp] theorem State.syncDone_mem (s : State) (u : CtxId) : (s.syncDone u).mem = s.mem := by
  simp only [State.syncDone]
  (repeat' split) <;> simp

@[simp] theorem State.grammarTrap_mem (s : State) (u : CtxId) : (s.grammarTrap u).mem = s.mem := by
  simp [State.grammarTrap]

@[simp] theorem State.recoveryStep_mem (s : State) (u : CtxId) : (s.recoveryStep u).mem = s.mem := by
  simp only [State.recoveryStep]
  (repeat' split) <;> simp

@[simp] theorem State.parseBody_mem (s : State) (u : CtxId) : (s.parseBody u).mem = s.mem := by
  simp only [State.parseBody]
  (repeat' split) <;> simp

@[simp] theorem State.parseStep_mem (s : State) (u : CtxId) : (s.parseStep u).mem = s.mem := by
  simp only [State.parseStep]
  (repeat' split) <;> simp

@[simp] theorem keepCur_mem (s : State) (t : State) : (keepCur s t).mem = t.mem := by
  simp [keepCur]

@[simp] theorem State.sendLink_mem (s : State) (link : ℕ) (l : List PeerMsg) : (s.sendLink link l).mem = s.mem := rfl

@[simp] theorem State.abortCut_mem (s : State) (u : CtxId) : (s.abortCut u).mem = s.mem := rfl

@[simp] theorem State.mismatchWrite_mem (s : State) (u : CtxId) : (s.mismatchWrite u).mem = s.mem := by
  simp only [State.mismatchWrite]
  (repeat' split) <;> simp

@[simp] theorem State.powerUp_mem (s : State) : (s.powerUp).mem = s.mem := rfl

theorem bootMove_mem (s : State) {res : State} (hres : bootMove s = some res) : res.mem = s.mem := by
  grind [bootMove, State.powerUp_mem]

@[simp] theorem State.forgetRefused_mem (s : State) (rcb : ℕ) : (s.forgetRefused rcb).mem = s.mem := rfl

@[simp] theorem State.askPeer_mem (s : State) (v : Inv) (e : CircEnd) : (s.askPeer v e).mem = s.mem := by
  simp [State.askPeer, State.discard_mem]

@[simp] theorem State.markArrival_mem (s : State) (u : CtxId) : (s.markArrival u).mem = s.mem := by
  simp only [State.markArrival]
  (repeat' split) <;> simp

@[simp] theorem State.starveInv_mem (s : State) (v : Inv) (va : ℕ) (port : ℕ) : (s.starveInv v va port).mem = s.mem := by
  simp [State.starveInv, State.halt_mem, State.discard_mem]

@[simp] theorem State.starveCtx_mem (s : State) (c : CtxId) (va : ℕ) (len : ℕ) : (s.starveCtx c va len).mem = s.mem := by
  simp [State.starveCtx]

@[simp] theorem State.reclaim_mem (s : State) (i : ℕ) : (s.reclaim i).mem = s.mem := by
  simp only [State.reclaim]
  (repeat' split) <;> simp

@[simp] theorem State.hwresDraw_mem (s : State) (i : ℕ) : (s.hwresDraw i).mem = s.mem := by
  simp [State.hwresDraw]

theorem State.blotterMove_mem (s : State) (d : ℕ) {res : State} (hres : s.blotterMove d = some res) : res.mem = s.mem := by
  grind [State.blotterMove, State.putDie_mem, State.reclaim_mem, State.hwresDraw_mem]

@[simp] theorem State.wellWriteback_mem (s : State) (line : ℕ) : (s.wellWriteback line).mem = s.mem := by
  grind [State.wellWriteback, State.putDie_mem, State.storeLine_mem]

@[simp] theorem State.readCount_mem (s : State) (slot : ℕ) (l : Launch) : (s.readCount slot l).mem = s.mem := by
  simp only [State.readCount]
  (repeat' split) <;> simp

theorem State.bindPort_ok_mem (s : State) (u : CtxId) (slots : ℕ → SMap ℕ × ℕ) (r : BitVec 128) {res : State} (hres : s.bindPort u slots r = .ok res) : res.mem = s.mem := by
  grind [State.bindPort, State.putPort_mem]

@[simp] theorem State.raiseRing_mem (s : State) (dpa : ℕ) (vf : ℕ) (msix : ℕ) : (s.raiseRing dpa vf msix).mem = s.mem := rfl

@[simp] theorem State.coalesce_mem (s : State) (l : Launch) (r : Ring) (vf : ℕ) : (s.coalesce l r vf).mem = s.mem := by
  simp [State.coalesce]

@[simp] theorem State.ringExpiry_mem (s : State) (dpa : ℕ) : (s.ringExpiry dpa).mem = s.mem := by
  simp [State.ringExpiry]

@[simp] theorem State.fwDone_mem (s : State) (k : ℕ) : (s.fwDone k).mem = s.mem := by
  simp only [State.fwDone]
  (repeat' split) <;> simp

@[simp] theorem State.attested_mem (s : State) : (s.attested).mem = s.mem := by
  simp [State.attested]

@[simp] theorem State.passTurn_mem (s : State) : (s.passTurn).mem = s.mem := by
  simp only [State.passTurn]
  (repeat' split) <;> simp [State.focus_mem]

@[simp] theorem State.fwslotGo_mem (s : State) (k : ℕ) : (s.fwslotGo k).mem = s.mem := by
  simp [State.fwslotGo]

@[simp] theorem State.writeFwslot_mem (s : State) (k : ℕ) (word : ℕ) (w : Word) : (s.writeFwslot k word w).mem = s.mem := by
  simp [State.writeFwslot]

@[simp] theorem State.kdoor_mem (s : State) (w : Word) : (s.kdoor w).mem = s.mem := by
  simp [State.kdoor, State.putCoreAt_mem]

@[simp] theorem State.writeQueueState_mem (s : State) (q : ℕ) (v : BitVec 2) : (s.writeQueueState q v).mem = s.mem := by
  simp [State.writeQueueState]

@[simp] theorem State.writeQueue_mem (s : State) (q : ℕ) (off : ℕ) (w : Word) : (s.writeQueue q off w).mem = s.mem := by
  simp [State.writeQueue]

@[simp] theorem State.writeWindow_mem (s : State) (i : ℕ) (hi : Bool) (w : Word) : (s.writeWindow i hi w).mem = s.mem := rfl

@[simp] theorem State.attest_mem (s : State) : (s.attest).mem = s.mem := rfl

@[simp] theorem State.idleCompaction_mem (s : State) (frame : ℕ) : (s.idleCompaction frame).mem = s.mem := by
  simp [State.idleCompaction]

@[simp] theorem State.rebalance_mem (s : State) (u : CtxId) (core : ℕ) (v : CtxId) : (s.rebalance u core v).mem = s.mem := by
  simp only [State.rebalance]
  (repeat' split) <;> simp [State.circMoved_mem, State.putCoreAt_mem]

@[simp] theorem State.loseQueue_mem (s : State) (q : ℕ) : (s.loseQueue q).mem = s.mem := by
  simp [State.loseQueue]

@[simp] theorem State.doorbell_mem (s : State) (q : ℕ) (w : BitVec 32) : (s.doorbell q w).mem = s.mem := by
  simp [State.doorbell]

@[simp] theorem State.warmReset_mem (s : State) : (s.warmReset).mem = s.mem := rfl

end Sys2Proof.Machine
end

section
/-! PROOFS. What leaves main memory as it is: reads of the ports, and the answers that an error gives. -/

namespace Sys2Proof.Machine

@[simp] theorem dropLines_mem (pages : ℕ) (s : State) (va : ℕ) (n : ℕ) : (dropLines pages s va n).mem = s.mem := by
  fun_induction dropLines pages s va n <;> grind [→ translate_ok_mem, State.putDie_mem]

theorem fetch_ok_mem (s : State) {res : List Byte × State} (hres : fetch s = .ok res) : res.2.mem = s.mem := by
  grind [fetch, → accessParts_ok_mem]

theorem portParts_error_mem (fuel : ℕ) (s : State) (p : ℕ) (r : Reader) (k : Access) (va : ℕ) (n : ℕ) {res : Flt × State} (hres : portParts fuel s p r k va n = .error res) : res.2.mem = s.mem := by
  fun_induction portParts fuel s p r k va n generalizing res <;> grind [→ portTranslate_error_mem, → portTranslate_ok_mem]

theorem portParts_ok_mem (fuel : ℕ) (s : State) (p : ℕ) (r : Reader) (k : Access) (va : ℕ) (n : ℕ) {res : List Part × State} (hres : portParts fuel s p r k va n = .ok res) : res.2.mem = s.mem := by
  fun_induction portParts fuel s p r k va n generalizing res <;> grind [→ portTranslate_ok_mem]

theorem xlatWrites_error_mem (s : State) (v : Inv) (ws : List PWrite) {res : PWrite × Flt × State} (hres : xlatWrites s v ws = .error res) : res.2.2.mem = s.mem := by
  fun_induction xlatWrites s v ws generalizing res <;> grind [→ exceptMap_error, → portParts_error_mem, → portParts_ok_mem]

theorem xlatWrites_ok_mem (s : State) (v : Inv) (ws : List PWrite) {res : List (PWrite × List Part) × State} (hres : xlatWrites s v ws = .ok res) : res.2.mem = s.mem := by
  fun_induction xlatWrites s v ws generalizing res <;> grind [→ exceptMap_ok, → portParts_ok_mem]

theorem storeInvLines_ok_mem (s : State) (v : Inv) (ls : List (ℕ × ℕ)) {res : State} (hres : storeInvLines s v ls = .ok res) : res.mem = s.mem := by
  fun_induction storeInvLines s v ls generalizing res <;> grind [→ State.storeLine_mem]

theorem tensorBytes_error_mem (s : State) (p : ℕ) (r : Reader) (sp : Bool) (va : ℕ) (n : ℕ) {res : Flt × State} (hres : tensorBytes s p r sp va n = .error res) : res.2.mem = s.mem := by
  grind [tensorBytes, → portParts_error_mem, → portParts_ok_mem]

theorem tensorBytes_ok_mem (s : State) (p : ℕ) (r : Reader) (sp : Bool) (va : ℕ) (n : ℕ) {res : List Byte × State} (hres : tensorBytes s p r sp va n = .ok res) : res.2.mem = s.mem := by
  grind [tensorBytes, State.spLoad_mem, → portParts_ok_mem, readView_mem, State.useLines_mem]

theorem readSpans_error_mem (s : State) (p : ℕ) (r : Reader) (sp : Bool) (n : ℕ) (as' : List ℕ) (last : Option (ℕ × List Byte)) {res : Flt × State} (hres : readSpans s p r sp n as' last = .error res) : res.2.mem = s.mem := by
  fun_induction readSpans s p r sp n as' last generalizing res <;> grind [→ exceptMap_error, → tensorBytes_error_mem, → tensorBytes_ok_mem]

theorem readSpans_ok_mem (s : State) (p : ℕ) (r : Reader) (sp : Bool) (n : ℕ) (as' : List ℕ) (last : Option (ℕ × List Byte)) {res : List (List Byte) × State} (hres : readSpans s p r sp n as' last = .ok res) : res.2.mem = s.mem := by
  fun_induction readSpans s p r sp n as' last generalizing res <;> grind [→ exceptMap_ok, → tensorBytes_ok_mem]

theorem State.linearPiece_error_mem (s : State) (v : Inv) {res : State} (hres : s.linearPiece v = .error res) : res.mem = s.mem := by
  grind [State.linearPiece, State.starveAt_mem, → tensorBytes_error_mem]

theorem State.linearPiece_ok_mem (s : State) (v : Inv) {res : Inv × State} (hres : s.linearPiece v = .ok res) : res.2.mem = s.mem := by
  grind [State.linearPiece, → tensorBytes_ok_mem]

theorem State.linearAll_error_mem (fuel : ℕ) (s : State) (v : Inv) {res : State} (hres : State.linearAll fuel s v = .error res) : res.mem = s.mem := by
  fun_induction State.linearAll fuel s v generalizing res <;> grind [→ State.linearPiece_error_mem, → State.linearPiece_ok_mem]

theorem State.linearAll_ok_mem (fuel : ℕ) (s : State) (v : Inv) {res : Inv × State} (hres : State.linearAll fuel s v = .ok res) : res.2.mem = s.mem := by
  fun_induction State.linearAll fuel s v generalizing res <;> grind [→ State.linearPiece_ok_mem]

theorem State.wellMove_mem (s : State) (d : ℕ) {res : State} (hres : s.wellMove d = some res) : res.mem = s.mem := by
  grind [State.wellMove, Option.map_eq_some_iff, State.wellWriteback_mem]

end Sys2Proof.Machine
end

section
/-! PROOFS. What leaves main memory as it is: the readers of a port, and the hardware's own moves. -/

namespace Sys2Proof.Machine

/-- The state that the taking of a beat leaves. -/
def Took.state : Took → State
  | .beat _ s => s
  | .dry s => s
  | .stopped s => s
  | .waits s => s

@[simp] theorem State.drainCoreOf_mem (s : State) (rcb : Nat) : (s.drainCoreOf rcb).mem = s.mem := by
  unfold State.drainCoreOf
  dsimp only
  rw [foldl_mem (fun _ _ => State.putCore_mem _ _), foldl_mem State.circLoss_mem, State.dropInvs_mem]

@[simp] theorem State.rebuildAll_mem (s : State) : s.rebuildAll.mem = s.mem := by
  unfold State.rebuildAll
  rw [foldl_mem]
  intro t e
  split
  · split <;> simp
  · rfl

theorem State.arriveAt_mem {s t : State} {bar : Option Nat} {n : Nat} (h : s.arriveAt bar n = some t) : t.mem = s.mem := by
  cases bar with
  | none => cases h; rfl
  | some b =>
    obtain ⟨c, -, rfl⟩ := Option.map_eq_some_iff.1 h
    exact s.barStep_mem b c

@[simp] theorem leftover_mem (t : State) (v : Inv) (nodes : List (Nat × ChainNode)) : (leftover t v nodes).mem = t.mem := by
  unfold leftover
  rw [foldl_mem]
  intro u e
  dsimp only
  repeat' split
  all_goals rfl

@[simp] theorem RowWork.move_mem (x : RowWork) (t : State) : (x.move t).mem = t.mem := by
  rw [RowWork.move, foldl_mem]
  exact fun _ _ => rfl

@[simp] theorem State.deferredWriteback_mem (s : State) (i : Nat) : (s.deferredWriteback i).mem = s.mem := by
  unfold State.deferredWriteback
  dsimp only
  split
  · rfl
  · split
    · rfl
    · cases h : s.storeLine ⟨false, false⟩ _ true with
      | none => rfl
      | some t => exact State.storeLine_mem h

@[simp] theorem State.expireHeld_mem (s : State) (d : Nat) : (s.expireHeld d).mem = s.mem := by
  unfold State.expireHeld
  split
  · rfl
  · refine (State.withCore_mem _ _ fun t => ?_).trans rfl
    repeat' split
    all_goals simp

@[simp] theorem State.bindPorts_mem (s : State) (u : CtxId) (slots : Nat → SMap Nat × Nat) (l : List (BitVec 128)) : (s.bindPorts u slots l).mem = s.mem := by
  induction l generalizing s with
  | nil => rfl
  | cons r l ih =>
    unfold State.bindPorts
    split
    · simp
    · next h => exact (ih _).trans (State.bindPort_ok_mem s u slots r h)

end Sys2Proof.Machine
end

section
/-! PROOFS. What leaves main memory as it is: the parts of the hardware's moves. -/

namespace Sys2Proof.Machine

theorem readRow_error_mem (s : State) (pn : ℕ) (p : Port) (r : Reader) (xf : Bool) (cs : List (List ℕ)) {res : Flt × State} (hres : readRow s pn p r xf cs = .error res) : res.2.mem = s.mem := by
  unfold readRow at hres
  dsimp only at hres
  repeat' split at hres
  all_goals grind [→ readSpans_error_mem, → readSpans_ok_mem, → tensorBytes_error_mem]

theorem readRow_ok_mem (s : State) (pn : ℕ) (p : Port) (r : Reader) (xf : Bool) (cs : List (List ℕ)) {res : List ℕ × List Byte × State} (hres : readRow s pn p r xf cs = .ok res) : res.2.2.mem = s.mem := by
  unfold readRow at hres
  dsimp only at hres
  repeat' split at hres
  all_goals grind [→ readSpans_ok_mem, → tensorBytes_ok_mem]

theorem readRows_error_mem (rows : ℕ) (s : State) (pn : ℕ) (p : Port) (r : Reader) (xf : Bool) (idx : ℕ) (row : ℕ) {res : Flt × State} (hres : readRows rows s pn p r xf idx row = .error res) : res.2.mem = s.mem := by
  fun_induction readRows rows s pn p r xf idx row generalizing res <;> grind [→ readRow_error_mem, → readRow_ok_mem]

theorem readRows_ok_mem (rows : ℕ) (s : State) (pn : ℕ) (p : Port) (r : Reader) (xf : Bool) (idx : ℕ) (row : ℕ) {res : List ℕ × List Byte × State} (hres : readRows rows s pn p r xf idx row = .ok res) : res.2.2.mem = s.mem := by
  fun_induction readRows rows s pn p r xf idx row generalizing res <;> grind [→ readRow_ok_mem]

theorem readTile_error_mem (s : State) (pn : ℕ) (r : Reader) (xf : Bool) (idx : ℕ) {res : Flt × State} (hres : readTile s pn r xf idx = .error res) : res.2.mem = s.mem := by
  grind [readTile, → readRows_error_mem]

theorem readTile_ok_mem (s : State) (pn : ℕ) (r : Reader) (xf : Bool) (idx : ℕ) {res : Beat × State} (hres : readTile s pn r xf idx = .ok res) : res.2.mem = s.mem := by
  grind [readTile, → readRows_ok_mem]

theorem State.portStep_error_mem (s : State) (pn : ℕ) (r : Reader) {res : Flt × State} (hres : s.portStep pn r = .error res) : res.2.mem = s.mem := by
  grind [State.portStep, → readTile_error_mem]

theorem State.portStep_ok_mem (s : State) (pn : ℕ) (r : Reader) {res : State} (hres : s.portStep pn r = .ok res) : res.mem = s.mem := by
  grind [State.portStep, → readTile_ok_mem, State.putPort_mem, State.putCore_mem]

theorem readTiles_error_mem (n : ℕ) (s : State) (v : Inv) (pn : ℕ) (xf : Bool) (k : ℕ) (x : Source) {res : State} (hres : readTiles n s v pn xf k x = .error res) : res.mem = s.mem := by
  fun_induction readTiles n s v pn xf k x generalizing res <;> grind [State.putPort_mem, → readTile_error_mem, → readTile_ok_mem, State.starveAt_mem]

theorem readTiles_ok_mem (n : ℕ) (s : State) (v : Inv) (pn : ℕ) (xf : Bool) (k : ℕ) (x : Source) {res : Source × State} (hres : readTiles n s v pn xf k x = .ok res) : res.2.mem = s.mem := by
  fun_induction readTiles n s v pn xf k x generalizing res <;> grind [State.putPort_mem, → readTile_ok_mem]

theorem State.runThrough_error_mem (fuel : ℕ) (s : State) (v : Inv) (pn : ℕ) {res : State} (hres : State.runThrough fuel s v pn = .error res) : res.mem = s.mem := by
  fun_induction State.runThrough fuel s v pn generalizing res <;> grind [State.putInv_mem, → State.portStep_error_mem, → State.portStep_ok_mem, State.starveAt_mem]

theorem State.runThrough_ok_mem (fuel : ℕ) (s : State) (v : Inv) (pn : ℕ) {res : State} (hres : State.runThrough fuel s v pn = .ok res) : res.mem = s.mem := by
  fun_induction State.runThrough fuel s v pn generalizing res <;> grind [→ State.portStep_ok_mem]

theorem readListed_error_mem (s : State) (v : Inv) (pn : ℕ) (xf : Bool) (ks : List ℕ) (x : Source) {res : State} (hres : readListed s v pn xf ks x = .error res) : res.mem = s.mem := by
  fun_induction readListed s v pn xf ks x generalizing res <;> grind [→ readTiles_error_mem, → readTiles_ok_mem]

theorem readListed_ok_mem (s : State) (v : Inv) (pn : ℕ) (xf : Bool) (ks : List ℕ) (x : Source) {res : Source × State} (hres : readListed s v pn xf ks x = .ok res) : res.2.mem = s.mem := by
  fun_induction readListed s v pn xf ks x generalizing res <;> grind [→ readTiles_ok_mem]

end Sys2Proof.Machine
end

section
/-! PROOFS. What leaves main memory as it is: the hardware's own moves. -/

namespace Sys2Proof.Machine

theorem State.takeBeat_mem (fuel : Nat) (s : State) (v : Inv) (pn : Nat) : (s.takeBeat fuel v pn).state.mem = s.mem := by
  fun_induction State.takeBeat fuel s v pn
  all_goals grind [Took.state, State.putPort_mem, State.putCore_mem, State.stopPort_mem, → State.portStep_ok_mem, → State.portStep_error_mem]

theorem scribeMove_mem {s t : State} (h : scribeMove s = some t) : t.mem = s.mem := by
  unfold scribeMove at h
  split at h
  · cases h
  · obtain ⟨i, -, hi⟩ := List.exists_of_findSome?_eq_some h
    clear h
    dsimp only at hi
    repeat' split at hi
    · cases hi
    · cases hi
    · cases hi
    · obtain ⟨k, -, rfl⟩ := Option.map_eq_some_iff.1 hi
      exact State.scribeWrite_mem _ _ _ _

theorem State.kbootGo_fails_mem {s t : State} (h : s.hub.stage = 4) (he : kbootErrOf s.hub.kboot ≠ 0) (ht : s.kbootGo = t) : t.mem = s.mem := by
  have hf := State.kbootGo_fails h he
  rw [ht] at hf
  rw [hf]

theorem State.kbootGo_mem_of {s t : State} (ht : s.kbootGo = t) : t.mem = s.mem := by
  by_cases h : s.hub.stage = 4
  · by_cases he : kbootErrOf s.hub.kboot = 0
    · rw [← ht]
      exact (State.kbootGo_results h he).2.2.1
    · exact State.kbootGo_fails_mem h he ht
  · rw [← ht, State.kbootGo_early h]

@[simp] theorem State.kbootGo_mem (s : State) : s.kbootGo.mem = s.mem := State.kbootGo_mem_of rfl

theorem ite_mem {c : Prop} [Decidable c] {x y s : State} (hx : x.mem = s.mem) (hy : y.mem = s.mem) : (if c then x else y).mem = s.mem := by
  split
  · exact hx
  · exact hy

@[simp] theorem State.hostWrite_mem (s : State) (off : Nat) (w : Word) : (s.hostWrite off w).mem = s.mem := by
  unfold State.hostWrite
  dsimp only
  refine ite_mem rfl (ite_mem (s.writeFwslot_mem ..) (ite_mem (ite_mem s.kbootGo_mem rfl) (ite_mem (s.kdoor_mem ..) (ite_mem rfl (ite_mem (s.writeVf_mem ..) ?_)))))
  refine ite_mem (s.writeQueue_mem ..) (ite_mem (s.writeWindow_mem ..) (ite_mem rfl (ite_mem (ite_mem rfl rfl) (ite_mem ?_ rfl))))
  exact ite_mem rfl (ite_mem (s.writeMctl_mem ..) (ite_mem (s.writeTrace_mem ..) rfl))

end Sys2Proof.Machine
end

section
/-! PROOFS. What leaves main memory as it is: the ports and the storage. -/

namespace Sys2Proof.Machine

theorem State.gather_error_mem (fuel : ℕ) (s : State) (v : Inv) (pn : ℕ) (enough : List Beat → Bool) {res : State} (hres : State.gather fuel s v pn enough = .error res) : res.mem = s.mem := by
  fun_induction State.gather fuel s v pn enough generalizing res <;> grind [Took.state, State.takeBeat_mem, State.putInv_mem]

theorem State.gather_ok_mem (fuel : ℕ) (s : State) (v : Inv) (pn : ℕ) (enough : List Beat → Bool) {res : Inv × State} (hres : State.gather fuel s v pn enough = .ok res) : res.2.mem = s.mem := by
  fun_induction State.gather fuel s v pn enough generalizing res <;> grind [Took.state, State.takeBeat_mem]

theorem State.feed_error_mem (fuel : ℕ) (s : State) (v : Inv) (need : State → Inv → Option ℕ) {res : State} (hres : State.feed fuel s v need = .error res) : res.mem = s.mem := by
  fun_induction State.feed fuel s v need generalizing res <;> grind [→ State.gather_error_mem, → State.gather_ok_mem]

theorem State.feed_ok_mem (fuel : ℕ) (s : State) (v : Inv) (need : State → Inv → Option ℕ) {res : Inv × State} (hres : State.feed fuel s v need = .ok res) : res.2.mem = s.mem := by
  fun_induction State.feed fuel s v need generalizing res <;> grind [→ State.gather_ok_mem]

theorem gatherChain_error_mem (nodes : List (ℕ × ChainNode)) (s : State) (v : Inv) {res : State} (hres : gatherChain nodes s v = .error res) : res.mem = s.mem := by
  fun_induction gatherChain nodes s v generalizing res <;> grind [→ State.gather_error_mem, → State.gather_ok_mem]

theorem gatherChain_ok_mem (nodes : List (ℕ × ChainNode)) (s : State) (v : Inv) {res : Inv × State} (hres : gatherChain nodes s v = .ok res) : res.2.mem = s.mem := by
  fun_induction gatherChain nodes s v generalizing res <;> grind [→ State.gather_ok_mem]

theorem readSource_error_mem (s0 : State) (v : Inv) (pn : ℕ) (xf : Bool) {res : State} (hres : readSource s0 v pn xf = .error res) : res.mem = s0.mem := by
  grind [readSource, → exceptMap_error, → readTiles_error_mem, → State.runThrough_error_mem, → State.runThrough_ok_mem, → State.gather_error_mem, → State.gather_ok_mem, → readListed_error_mem]

theorem readSource_ok_mem (s0 : State) (v : Inv) (pn : ℕ) (xf : Bool) {res : Source × Inv × State} (hres : readSource s0 v pn xf = .ok res) : res.2.2.mem = s0.mem := by
  grind [readSource, → exceptMap_ok, → readTiles_ok_mem, → State.runThrough_ok_mem, → State.gather_ok_mem, → readListed_ok_mem]

@[simp] theorem State.nextSymbols_mem (s : State) (v : Inv) : (s.nextSymbols v).2.mem = s.mem := by
  grind [State.nextSymbols, Took.state, State.takeBeat_mem, State.putInv_mem]

@[simp] theorem State.sendPeer_mem (s : State) (v : Inv) (e : CircEnd) : (s.sendPeer v e).mem = s.mem := by
  simp [State.sendPeer, State.discard_mem]

@[simp] theorem State.portAccess_mem (s : State) (pn : ℕ) : (s.portAccess pn).mem = s.mem := by
  grind [State.portAccess, State.askPeer_mem, State.sendPeer_mem, → State.linearPiece_error_mem, → State.linearPiece_ok_mem, State.putInv_mem, → State.portStep_error_mem, → State.portStep_ok_mem, State.stopPort_mem]

end Sys2Proof.Machine
end

section
/-! PROOFS. Main memory in its canonical form: what an effect and an outcome leave, and the instructions' frames. -/

namespace Sys2Proof.Machine

@[simp] theorem Eff.state_next (s : State) : (Eff.next s).state = s := rfl
@[simp] theorem Eff.state_jump (s : State) (w : Word) : (Eff.jump s w).state = s := rfl
@[simp] theorem Eff.state_trap (i : TrapInfo) (s : State) : (Eff.trap i s).state = s := rfl
@[simp] theorem Eff.state_raise (i : TrapInfo) (s : State) : (Eff.raise i s).state = s := rfl
@[simp] theorem Eff.state_block (w : Wait) (s : State) : (Eff.block w s).state = s := rfl
@[simp] theorem Eff.state_ite (c : Prop) [Decidable c] (a b : Eff) : (if c then a else b).state = if c then a.state else b.state := apply_ite Eff.state c a b

/-- Main memory is canonical in the state that an outcome goes on with. -/
def GoesOnCanonical (r : Host.Outcome State Fault Refusal) : Prop := ∀ t, r = .next t → Memory.wf t.mem = true

@[simp] theorem goesOnCanonical_next (s : State) : GoesOnCanonical (.next s) ↔ Memory.wf s.mem = true := by
  simp [GoesOnCanonical]
@[simp] theorem goesOnCanonical_fault (f : Fault) : GoesOnCanonical (.fault f) := by
  intro _ h
  cases h
@[simp] theorem goesOnCanonical_refused (r : Refusal) : GoesOnCanonical (.refused r) := by
  intro _ h
  cases h

theorem foldl_wf {α : Type} {f : State → α → State} (hf : ∀ t a, Memory.wf t.mem = true → Memory.wf (f t a).mem = true) (l : List α) {s : State} (h : Memory.wf s.mem = true) :
    Memory.wf (l.foldl f s).mem = true := by
  induction l generalizing s with
  | nil => exact h
  | cons a l ih => exact ih (hf s a h)

@[simp] theorem finish_canonical (o : Ops) (e : Eff) : GoesOnCanonical (finish o e) ↔ Memory.wf e.state.mem = true := by
  cases e <;> simp [finish]

section Frames

variable {s : State} {o : Ops}

@[simp] theorem runAlways_canonical {k : Bool} {body : State → Eff} (h : Memory.wf s.mem = true) (hb : Memory.wf (body s).state.mem = true) :
    GoesOnCanonical (runAlways k o body s) := by
  unfold runAlways
  repeat' split
  all_goals simp [h, hb]

@[simp] theorem runInstr_canonical {body : State → Eff} (h : Memory.wf s.mem = true) (hb : Memory.wf (body s).state.mem = true) :
    GoesOnCanonical (runInstr o body s) :=
  runAlways_canonical h (by split <;> assumption)

@[simp] theorem runK_canonical {body : State → Eff} (h : Memory.wf s.mem = true) (hb : Memory.wf (body s).state.mem = true) : GoesOnCanonical (runK o body s) :=
  runAlways_canonical h (by split <;> assumption)

@[simp] theorem runVec_canonical {body : State → Eff} (h : Memory.wf s.mem = true) (hb : Memory.wf (body s).state.mem = true) : GoesOnCanonical (runVec o body s) :=
  runAlways_canonical h hb

@[simp] theorem runPlain_canonical {f : State → State} (h : Memory.wf s.mem = true) (hf : Memory.wf (f s).mem = true) : GoesOnCanonical (runPlain o f s) :=
  runInstr_canonical h hf

@[simp] theorem runControl_canonical {f : State → State} (h : Memory.wf s.mem = true) (hf : Memory.wf (f s).mem = true) : GoesOnCanonical (runControl o f s) := by
  unfold runControl
  repeat' split
  all_goals simp [h, hf]

@[simp] theorem runLanes_canonical {f : State → Nat → Lane} (h : Memory.wf s.mem = true) : GoesOnCanonical (runLanes o f s) :=
  runVec_canonical h (by simpa using h)

end Frames

/-! ## Stores -/

@[simp] theorem State.pokeByte_wf {s : State} (a : Nat) (b : Byte) (h : Memory.wf s.mem = true) : Memory.wf (s.pokeByte a b).mem = true := Memory.wf_pokeByte a b h
@[simp] theorem State.pokeBytes_wf {s : State} (a : Nat) (bs : List Byte) (h : Memory.wf s.mem = true) : Memory.wf (s.pokeBytes a bs).mem = true := Memory.wf_pokeBytes bs s a h
@[simp] theorem storeParts_wf {s : State} (ps : List Part) (bs : List Byte) (h : Memory.wf s.mem = true) : Memory.wf (storeParts s ps bs).mem = true :=
  Memory.wf_storeParts ps s bs h
@[simp] theorem State.dropFrame_wf {s : State} (a : Nat) (h : Memory.wf s.mem = true) : Memory.wf (s.dropFrame a).mem = true := Memory.wf_dropFrame a h

@[simp] theorem State.storeOrdered_wf {s : State} (q rel : Nat) (chain : Bool) (ps : List Part) (bs : List Byte) (h : Memory.wf s.mem = true) :
    Memory.wf (s.storeOrdered q rel chain ps bs).mem = true := by
  refine storeParts_wf _ _ ?_
  rw [foldl_mem fun _ _ => by simp]
  split <;> simpa using h

@[simp] theorem storeSeen_wf {s : State} (chain : Bool) (ps : List Part) (bs : List Byte) (h : Memory.wf s.mem = true) : Memory.wf (storeSeen s chain ps bs).mem = true := by
  refine storeParts_wf _ _ ?_
  rw [State.pruned_mem, foldl_mem fun _ _ => by simp]
  exact h

end Sys2Proof.Machine
end

section
/-! PROOFS. Main memory in its canonical form: what stores, by its own definition (R5, R208, R423). -/

namespace Sys2Proof.Machine

@[simp] theorem scalarTrap_state_mem (f : Flt) (write : Bool) (s : State) : (scalarTrap f write s).state.mem = s.mem := rfl

@[simp] theorem State.writeAtomic_wf (s : State) (q : ℕ) (acq : Option ℕ) (rel : ℕ) (ps : List Part) (bs : List Byte) (hs : Memory.wf s.mem = true) : Memory.wf (s.writeAtomic q acq rel ps bs).mem = true := by
  simp [State.writeAtomic, hs]

@[simp] theorem atomWrite_wf (s : State) (o : Ops) (ps : List Part) (bs : List Byte) (hs : Memory.wf s.mem = true) : Memory.wf (atomWrite s o ps bs).mem = true := by
  simp [atomWrite, hs]

theorem State.tapeWrite_wf (s : State) (asid : BitVec 9) (va : ℕ) (bs : List Byte) (hs : Memory.wf s.mem = true) {res : State} (hres : s.tapeWrite asid va bs = some res) : Memory.wf res.mem = true := by
  grind [State.tapeWrite, storeSeen_wf]

@[simp] theorem float1_canonical (o : Ops) (f : BitVec 32 → Lane) (s : State) (hs : Memory.wf s.mem = true) : GoesOnCanonical (float1 o f s) := by
  simp [float1, hs]

@[simp] theorem alu_canonical (o : Ops) (f : Word → Word → Word) (s : State) (hs : Memory.wf s.mem = true) : GoesOnCanonical (alu o f s) := by
  simp [alu, hs]

@[simp] theorem aluImm_canonical (o : Ops) (f : Word → Word → Word) (s : State) (hs : Memory.wf s.mem = true) : GoesOnCanonical (aluImm o f s) := by
  simp [aluImm, hs]

@[simp] theorem divide_canonical (o : Ops) (f : Word → Word → Word) (s : State) (hs : Memory.wf s.mem = true) : GoesOnCanonical (divide o f s) := by
  simp [divide, hs]

@[simp] theorem transfer_state_mem (s : State) (target : Word) : (transfer s target).state.mem = s.mem := by
  simp [transfer]

@[simp] theorem branch_canonical (o : Ops) (cc : ℕ) (s : State) (hs : Memory.wf s.mem = true) : GoesOnCanonical (branch o cc s) := by
  simp [branch, hs]

@[simp] theorem scalarFloat_canonical (o : Ops) (f : FVal → FVal → ℕ × BitVec 16) (s : State) (hs : Memory.wf s.mem = true) : GoesOnCanonical (scalarFloat o f s) := by
  simp [scalarFloat, hs]

@[simp] theorem convertScalar_canonical (o : Ops) (f : Word → ℕ × BitVec 16) (s : State) (hs : Memory.wf s.mem = true) : GoesOnCanonical (convertScalar o f s) := by
  simp [convertScalar, hs]

@[simp] theorem emitMarks_state_mem (o : Ops) (ms : List Mark) (t : State) : (emitMarks o ms t).state.mem = t.mem := by
  unfold emitMarks
  dsimp only
  (repeat' split) <;> simp

@[simp] theorem tidmod_canonical (o : Ops) (f : Desc → Word → Desc) (s : State) (hs : Memory.wf s.mem = true) : GoesOnCanonical (tidmod o f s) := by
  simp [tidmod, hs]

@[simp] theorem State.trace_wf (s : State) (r : ℕ) (hs : Memory.wf s.mem = true) : Memory.wf (s.trace r).mem = true := by
  unfold State.trace
  dsimp only
  (repeat' split) <;> simp [hs]

@[simp] theorem State.traceCopy_wf (s : State) (v : Inv) (kind : ℕ) (n : ℕ) (hs : Memory.wf s.mem = true) : Memory.wf (s.traceCopy v kind n).mem = true := by
  unfold State.traceCopy
  dsimp only
  (repeat' split) <;> simp [hs]

@[simp] theorem State.stampCopy_wf (s : State) (v : Inv) (hs : Memory.wf s.mem = true) : Memory.wf (s.stampCopy v).mem = true := by
  simp [State.stampCopy, hs]

@[simp] theorem fullRange_state_mem (o : Ops) (b : Bool) (t : State) : (fullRange o b t).state.mem = t.mem := by
  unfold fullRange
  dsimp only
  (repeat' split) <;> simp

@[simp] theorem State.issue_state_mem (s : State) (op : ℕ) (o : Ops) (ports : List ℕ) (held : Bool) : (s.issue op o ports held).state.mem = s.mem := by
  simp [State.issue]

@[simp] theorem chainSet_state_mem (o : Ops) (q : ℕ) (t : State) : (chainSet o q t).state.mem = t.mem := by
  simp [chainSet]

@[simp] theorem float2_canonical (o : Ops) (f : FVal → FVal → ℕ × BitVec 16) (s : State) (hs : Memory.wf s.mem = true) : GoesOnCanonical (float2 o f s) := by
  simp [float2, hs]

@[simp] theorem float3_canonical (o : Ops) (neg : Bool) (s : State) (hs : Memory.wf s.mem = true) : GoesOnCanonical (float3 o neg s) := by
  simp [float3, hs]

@[simp] theorem int2_canonical (o : Ops) (f : BitVec 32 → BitVec 32 → Lane) (s : State) (hs : Memory.wf s.mem = true) : GoesOnCanonical (int2 o f s) := by
  simp [int2, hs]

@[simp] theorem narrow_canonical (o : Ops) (w : ℕ) (f : BitVec 32 → ℕ × BitVec 16) (s : State) (hs : Memory.wf s.mem = true) : GoesOnCanonical (narrow o w f s) := by
  simp [narrow, hs]

@[simp] theorem widen_canonical (o : Ops) (w : ℕ) (f : ℕ → FVal) (s : State) (hs : Memory.wf s.mem = true) : GoesOnCanonical (widen o w f s) := by
  simp [widen, hs]

@[simp] theorem predWise_canonical (o : Ops) (f : State → ℕ → Bool) (s : State) (hs : Memory.wf s.mem = true) : GoesOnCanonical (predWise o f s) := by
  simp [predWise, hs]

@[simp] theorem execScinv_canonical (o : Ops) (s : State) (hs : Memory.wf s.mem = true) : GoesOnCanonical (execScinv o s) := by
  grind [execScinv, runPlain_canonical, State.setS_mem, → State.tapeWrite_wf, State.dropRecords_mem]

@[simp] theorem callTrap_canonical (cause : BitVec 5) (o : Ops) (s : State) (hs : Memory.wf s.mem = true) : GoesOnCanonical (callTrap cause o s) := by
  simp [callTrap, hs]

@[simp] theorem State.reissue_wf (s : State) (v : Inv) (hs : Memory.wf s.mem = true) : Memory.wf (s.reissue v).mem = true := by
  unfold State.reissue
  dsimp only
  (repeat' split) <;> simp [hs]

theorem State.hubWrite_ok_wf (s : State) (asid : BitVec 9) (va : ℕ) (bs : List Byte) (hs : Memory.wf s.mem = true) {res : State} (hres : s.hubWrite asid va bs = .ok res) : Memory.wf res.mem = true := by
  grind [State.hubWrite, → exceptMap_ok, storeSeen_wf]

@[simp] theorem State.writeRcb_wf (s : State) (r : Region) (off : ℕ) (w : Word) (hs : Memory.wf s.mem = true) : Memory.wf (s.writeRcb r off w).mem = true := by
  grind [State.writeRcb, → State.hubWrite_ok_wf]

@[simp] theorem State.setRegionState_wf (s : State) (rcb : ℕ) (st : BitVec 2) (hs : Memory.wf s.mem = true) : Memory.wf (s.setRegionState rcb st).mem = true := by
  unfold State.setRegionState
  split <;> simp [hs]

@[simp] theorem State.drainRegion_wf (s : State) (rcb : ℕ) (issuer : Option ℕ) (hs : Memory.wf s.mem = true) : Memory.wf (s.drainRegion rcb issuer).mem = true := by
  unfold State.drainRegion
  split <;> simp [State.forCores_mem, State.forCores_mem, hs]

@[simp] theorem State.startDrain_wf (s : State) (va : Word) (hs : Memory.wf s.mem = true) : Memory.wf (s.startDrain va).2.mem = true := by
  unfold State.startDrain
  dsimp only
  (repeat' split) <;> simp [hs]

@[simp] theorem execDrain_canonical (o : Ops) (s : State) (hs : Memory.wf s.mem = true) : GoesOnCanonical (execDrain o s) := by
  simp [execDrain, hs]

@[simp] theorem State.balloonAdd_wf (s : State) (a : ℕ) (vf : ℕ) (hs : Memory.wf s.mem = true) : Memory.wf (s.balloonAdd a vf).2.mem = true := by
  unfold State.balloonAdd
  dsimp only
  (repeat' split) <;> simp [hs]

@[simp] theorem execBalloonAdd_canonical (o : Ops) (s : State) (hs : Memory.wf s.mem = true) : GoesOnCanonical (execBalloonAdd o s) := by
  simp [execBalloonAdd, hs]

@[simp] theorem State.balloonRem_wf (s : State) (a : ℕ) (hs : Memory.wf s.mem = true) : Memory.wf (s.balloonRem a).2.mem = true := by
  unfold State.balloonRem
  dsimp only
  (repeat' split) <;> simp [hs]

@[simp] theorem execBalloonRem_canonical (o : Ops) (s : State) (hs : Memory.wf s.mem = true) : GoesOnCanonical (execBalloonRem o s) := by
  simp [execBalloonRem, hs]

@[simp] theorem State.storeMasked_wf (s : State) (p : ℕ) (seq : ℕ) (m : ℕ) (ps : List Part) (bs : List (Byte × Byte)) (hs : Memory.wf s.mem = true) : Memory.wf (s.storeMasked p seq m ps bs).mem = true := by
  fun_induction s.storeMasked p seq m ps bs <;> grind [State.noteMasked_mem, State.settleSo_mem, storeParts_wf]

@[simp] theorem applyWrite_wf (p : ℕ) (seq : ℕ) (s : State) (e : PWrite × List Part) (hs : Memory.wf s.mem = true) : Memory.wf (applyWrite p seq s e).mem = true := by
  unfold applyWrite
  split <;> simp [hs]

@[simp] theorem State.deliverFault_wf (s : State) (hs : Memory.wf s.mem = true) : Memory.wf (s.deliverFault).mem = true := by
  unfold State.deliverFault
  dsimp only
  (repeat' split) <;> simp [hs]

theorem State.writeRecord_wf (s : State) (l : Launch) (evr : ℕ) (r : Ring) (hs : Memory.wf s.mem = true) {res : State} (hres : s.writeRecord l evr r = some res) : Memory.wf res.mem = true := by
  grind [State.writeRecord, → State.hubWrite_ok_wf]

theorem State.saveWrite_ok_wf (s : State) (asid : BitVec 9) (va : ℕ) (bs : List Byte) (hs : Memory.wf s.mem = true) {res : State} (hres : s.saveWrite asid va bs = .ok res) : Memory.wf res.mem = true := by
  grind [State.saveWrite, storeSeen_wf]

@[simp] theorem State.endDrain_wf (s : State) (rcb : ℕ) (hs : Memory.wf s.mem = true) : Memory.wf (s.endDrain rcb).mem = true := by
  grind [State.endDrain, State.mapCores_mem, State.writeRcb_wf, State.putRegion_mem, State.putCoreAt_mem]

@[simp] theorem execRegionDrainComplete_canonical (rcb : ℕ) (s : State) (hs : Memory.wf s.mem = true) : GoesOnCanonical (execRegionDrainComplete rcb s) := by
  simp [execRegionDrainComplete, hs]

@[simp] theorem State.takePending_wf (s : State) (hs : Memory.wf s.mem = true) : Memory.wf (s.takePending).mem = true := by
  unfold State.takePending
  split <;> simp [hs]

@[simp] theorem State.watchdog_wf (s : State) (u : CtxId) (hs : Memory.wf s.mem = true) : Memory.wf (s.watchdog u).mem = true := by
  simp [State.watchdog, hs]

@[simp] theorem State.deliverIrq_wf (s : State) (hs : Memory.wf s.mem = true) : Memory.wf (s.deliverIrq).mem = true := by
  unfold State.deliverIrq
  split <;> simp [hs]

theorem trapMove_wf (s : State) (hs : Memory.wf s.mem = true) {res : State} (hres : trapMove s = some res) : Memory.wf res.mem = true := by
  grind [trapMove, State.takePending_wf, State.deliverFault_wf, State.watchdog_wf, State.deliverIrq_wf]

theorem State.putUsed_ok_wf (s : State) (asid : BitVec 9) (va : ℕ) (u : Needs) (hs : Memory.wf s.mem = true) {res : State} (hres : s.putUsed asid va u = .ok res) : Memory.wf res.mem = true := by
  grind [State.putUsed, → State.hubWrite_ok_wf]

theorem State.applyRecord_error_wf (s : State) (r : BitVec 128) (hs : Memory.wf s.mem = true) {res : ℕ × State} (hres : s.applyRecord r = .error res) : Memory.wf res.2.mem = true := by
  unfold State.applyRecord at hres
  dsimp only at hres
  repeat' split at hres
  all_goals grind [State.readCount_mem, State.putLaunch_mem]

@[simp] theorem State.leaveTable_wf (s : State) (i : ℕ) (l : Launch) (hs : Memory.wf s.mem = true) : Memory.wf (s.leaveTable i l).mem = true := by
  unfold State.leaveTable
  dsimp only
  (repeat' split) <;> simp [hs]

@[simp] theorem execTrapEntry_canonical (s : State) (hs : Memory.wf s.mem = true) : GoesOnCanonical (execTrapEntry s) := by
  simp [execTrapEntry, hs]

@[simp] theorem execWatchdog_canonical (u : BitVec 2) (s : State) (hs : Memory.wf s.mem = true) : GoesOnCanonical (execWatchdog u s) := by
  simp [execWatchdog, hs]

@[simp] theorem execInterruptDelivery_canonical (s : State) (hs : Memory.wf s.mem = true) : GoesOnCanonical (execInterruptDelivery s) := by
  simp [execInterruptDelivery, hs]

@[simp] theorem execGeneratorFaultDelivery_canonical (s : State) (hs : Memory.wf s.mem = true) : GoesOnCanonical (execGeneratorFaultDelivery s) := by
  simp [execGeneratorFaultDelivery, hs]

@[simp] theorem State.apertureWrite_wf (s : State) (v : ℕ) (off : ℕ) (bs : List Byte) (hs : Memory.wf s.mem = true) : Memory.wf (s.apertureWrite v off bs).mem = true := by
  unfold State.apertureWrite
  dsimp only
  (repeat' split) <;> simp [hs]

@[simp] theorem execApertureWrite_canonical (vf : BitVec 8) (off : BitVec 36) (data : List (BitVec 8)) (s : State) (hs : Memory.wf s.mem = true) : GoesOnCanonical (execApertureWrite vf off data s) := by
  simp [execApertureWrite, hs]

@[simp] theorem State.coldReset_wf (s : State) : Memory.wf (s.coldReset).mem = true := rfl

@[simp] theorem execColdReset_canonical (s : State) : GoesOnCanonical (execColdReset s) := by
  simp [execColdReset]

end Sys2Proof.Machine
end

section
/-! PROOFS. Main memory in its canonical form: accesses that an instruction makes. -/

namespace Sys2Proof.Machine

theorem wf_of_mem {s t : State} (h : Memory.wf s.mem = true) (ht : t.mem = s.mem) : Memory.wf t.mem = true := ht ▸ h

theorem ite_wf {c : Prop} [Decidable c] {a b : State} (ha : Memory.wf a.mem = true) (hb : Memory.wf b.mem = true) : Memory.wf (if c then a else b).mem = true := by
  split
  · exact ha
  · exact hb

theorem eff_ite_wf {c : Prop} [Decidable c] {a b : Eff} (ha : Memory.wf a.state.mem = true) (hb : Memory.wf b.state.mem = true) :
    Memory.wf (if c then a else b).state.mem = true := by
  split
  · exact ha
  · exact hb

theorem wf_of_next {e : Eff} {t : State} (he : e = .next t) (hw : Memory.wf e.state.mem = true) : Memory.wf t.mem = true := by
  rwa [he] at hw

theorem mem_of_next {e : Eff} {s t : State} (he : e = .next t) (hm : e.state.mem = s.mem) : t.mem = s.mem := by
  rwa [he] at hm

@[simp] theorem State.plainStore_wf {s : State} (l1 : Bool) (p seq m : Nat) (ps : List Part) (bs : List Byte) (hs : Memory.wf s.mem = true) :
    Memory.wf (s.plainStore l1 p seq m ps bs).mem = true := by
  induction ps generalizing s bs with
  | nil => exact hs
  | cons x ps ih =>
    refine ih _ ?_
    split
    · rw [foldl_mem State.l1Line_mem]
      simp [hs]
    · simp [hs]

theorem State.writeVa_wf {s t : State} {va : Nat} {bs : List Byte} (hs : Memory.wf s.mem = true) (h : s.writeVa va bs = .ok (some t)) : Memory.wf t.mem = true := by
  unfold State.writeVa at h
  split at h
  · cases h
  · next ha =>
    obtain ⟨-, ht⟩ := Option.ite_none_left_eq_some.1 (Except.ok.inj h)
    rw [← Option.some.inj ht]
    simp [accessParts_ok_mem ha, hs]

section Accesses

variable {s : State} (hs : Memory.wf s.mem = true)

include hs

@[simp] theorem signalAt_wf (a : Word) (write : Bool) {body : State → List Part → Eff} (hb : ∀ t ps, Memory.wf t.mem = true → Memory.wf (body t ps).state.mem = true) :
    Memory.wf (signalAt s a write body).state.mem = true := by
  unfold signalAt
  split
  · exact hs
  · split
    · exact hs
    · split
      · exact hs
      · next h => split <;> simp [hb, accessParts_ok_mem h, hs]

@[simp] theorem updateSignal_wf (o : Ops) (f : Word → Word) : Memory.wf (updateSignal s o f).state.mem = true := by
  refine signalAt_wf hs _ _ fun t ps ht => ?_
  simp [ht]

@[simp] theorem loadAt_wf (q : Nat) (a : Word) (k : LoadKind) {done : State → Word → State} (hd : ∀ t w, (done t w).mem = t.mem) :
    Memory.wf (loadAt s q a k done).state.mem = true := by
  unfold loadAt
  dsimp only
  split
  · exact hs
  · split
    · exact hs
    · split
      · exact hs
      · next h => split <;> simp [hd, accessParts_ok_mem h, hs]

@[simp] theorem storeAt_wf (q : Nat) (a w : Word) : Memory.wf (storeAt s q a w).state.mem = true := by
  unfold storeAt
  dsimp only
  split
  · exact hs
  · split
    · exact hs
    · exact hs
    · next h => exact State.writeVa_wf hs h

@[simp] theorem loadLanes_wf (o : Ops) (addr : Nat → Nat) : Memory.wf (loadLanes s o addr).state.mem = true := by
  unfold loadLanes
  split
  · exact hs
  · next h => split <;> simp [laneParts_ok_mem h, hs]

@[simp] theorem storeLaneParts_wf (v : VReg) (l : List (Nat × List Part)) : Memory.wf (storeLaneParts s v l).mem = true :=
  foldl_wf (fun _ _ ht => State.plainStore_wf _ _ _ _ _ _ ht) l hs

@[simp] theorem storeLanes_wf (o : Ops) (addr : Nat → Nat) : Memory.wf (storeLanes s o addr).state.mem = true := by
  unfold storeLanes
  split
  · exact hs
  · next h => split <;> simp [laneParts_ok_mem h, hs]

@[simp] theorem baseAligned_wf (o : Ops) (write : Bool) {e : Eff} (he : Memory.wf e.state.mem = true) : Memory.wf (baseAligned s o write e).state.mem = true := by
  unfold baseAligned
  split
  · exact he
  · exact hs

@[simp] theorem spLoad_wf (o : Ops) (gs : List Nat) {done : State → State} (hd : ∀ t, (done t).mem = t.mem) : Memory.wf (spLoad s o gs done).state.mem = true := by
  unfold spLoad
  dsimp only
  split
  · exact hs
  · rw [Eff.state_next]
    refine wf_of_mem hs ?_
    repeat' split
    all_goals simp [hd]

@[simp] theorem storeRel_wf (q scope : Nat) (a w : Word) : Memory.wf (storeRel s q scope a w).state.mem = true := by
  unfold storeRel
  dsimp only
  split
  · exact hs
  · split
    · exact hs
    · split
      · exact hs
      · next h => split <;> simp [accessParts_ok_mem h, hs]

@[simp] theorem atomic_wf (o : Ops) (x : AtomOp) : Memory.wf (atomic s o x).state.mem = true := by
  unfold atomic
  dsimp only
  split
  · exact hs
  · split
    · exact hs
    · split
      · exact hs
      · next h =>
        have ht := wf_of_mem hs (accessParts_ok_mem h)
        split
        · exact ht
        · rw [Eff.state_next, State.addFlags_mem, State.setS_mem]
          split <;> simp [ht]

@[simp] theorem withBar_wf (o : Ops) {body : Nat → Eff} (hb : ∀ off, Memory.wf (body off).state.mem = true) : Memory.wf (withBar s o body).state.mem = true := by
  unfold withBar
  dsimp only
  split
  · exact hs
  · exact hb _

@[simp] theorem copyChecks_wf (o : Ops) (own : Option TrapInfo) (port tensor : Nat) {e : Eff} (he : Memory.wf e.state.mem = true) :
    Memory.wf (copyChecks s o own port tensor e).state.mem = true := by
  unfold copyChecks
  repeat' split
  · exact hs
  · exact hs
  · exact he

@[simp] theorem issueUnless_wf (l : List (Option TrapInfo)) {e : Eff} (he : Memory.wf e.state.mem = true) : Memory.wf (issueUnless s l e).state.mem = true := by
  unfold issueUnless
  split
  · exact hs
  · exact he

@[simp] theorem issueCopy_wf (op : Nat) (o : Ops) (ports : List Nat) (asid : BitVec 9) {onIssue : State → Inv → State} (hi : ∀ t v, (onIssue t v).mem = t.mem) :
    Memory.wf (issueCopy s op o ports asid onIssue).state.mem = true := by
  unfold issueCopy
  split <;> simp [hi, hs]

/-! ## Lines written back and stored past the Well -/

@[simp] theorem writeBackLines_wf (len : Nat) (ls : List (Nat × Nat)) : Memory.wf (writeBackLines s len ls).state.mem = true := by
  induction ls generalizing s with
  | nil => exact hs
  | cons e ls ih =>
    unfold writeBackLines
    dsimp only
    split
    · next h => exact ih (by simp [State.storeLine_mem h, hs])
    · simp [hs]

end Accesses

theorem writeBackPages_wf (pages : Nat) {s : State} (hs : Memory.wf s.mem = true) (len va n : Nat) : Memory.wf (writeBackPages pages s len va n).state.mem = true := by
  induction pages generalizing s va n with
  | zero => exact hs
  | succ p ih =>
    unfold writeBackPages
    dsimp only
    split
    · exact hs
    · split
      · exact ih hs _ _
      · next h =>
        have hw := fun ls => writeBackLines_wf (wf_of_mem hs (translate_ok_mem h)) len ls
        split
        · next he => exact ih (wf_of_next he (hw _)) _ _
        · exact hw _

@[simp] theorem cleanRange_wf {s : State} (hs : Memory.wf s.mem = true) (o : Ops) {andThen : State → Nat → Nat → State} (ha : ∀ t a n, (andThen t a n).mem = t.mem) :
    Memory.wf (cleanRange s o andThen).state.mem = true := by
  unfold cleanRange
  split
  · simp [hs]
  · split
    · simp [hs]
    · next a n _ =>
      have hw := writeBackPages_wf (n / 4096 + 2) hs o.form.bytes a n
      split
      · next he => simpa [ha] using wf_of_next he hw
      · exact hw

theorem State.storeForCtx_wf {s s0 : State} (hs : Memory.wf s.mem = true) (h0 : Memory.wf s0.mem = true) (len : Nat) (ls : List (Nat × Nat)) :
    Memory.wf (s.storeForCtx s0 len ls).state.mem = true := by
  induction ls generalizing s with
  | nil => simp [State.storeForCtx, hs]
  | cons e ls ih =>
    unfold State.storeForCtx
    dsimp only
    split
    · next h => exact ih (by simp [State.storeLine_mem h, hs])
    · simp [h0]

@[simp] theorem storeNt_wf {s : State} (hs : Memory.wf s.mem = true) (o : Ops) : Memory.wf (storeNt s o).state.mem = true := by
  unfold storeNt
  dsimp only
  split
  · exact hs
  · split
    · simp [hs]
    · next h => exact State.storeForCtx_wf (State.plainStore_wf _ _ _ _ _ _ (wf_of_mem hs (accessParts_ok_mem h))) hs _ _

/-! ## Invocations issued, and a histogram -/

@[simp] theorem mgIssue_mem (s : State) (op : Nat) (o : Ops) (ports : List Nat) (own : Option TrapInfo) : (mgIssue s op o ports own).state.mem = s.mem := by
  unfold mgIssue
  repeat' split
  all_goals simp

@[simp] theorem issueSet_mem (s : State) (op : Nat) (o : Ops) : (issueSet s op o).state.mem = s.mem := by
  unfold issueSet
  dsimp only
  split
  · split
    · next h =>
      rw [Eff.state_next, State.putCtx_mem]
      exact mem_of_next h (mgIssue_mem ..)
    · simp
  · simp

@[simp] theorem portForm_canonical {s : State} (hs : Memory.wf s.mem = true) (o : Ops) (op pn : Nat) : GoesOnCanonical (portForm o op pn s) := by
  refine runInstr_canonical hs ?_
  dsimp only
  split <;> simp [hs]

@[simp] theorem histAdds_wf {s : State} (hs : Memory.wf s.mem = true) (rel : Nat) (l : List ((Nat × List Part) × (Nat × Nat))) : Memory.wf (histAdds s rel l).mem = true :=
  foldl_wf (fun _ _ ht => State.writeAtomic_wf _ _ _ _ _ _ ht) l hs

@[simp] theorem histogram_wf {s : State} (hs : Memory.wf s.mem = true) (o : Ops) : Memory.wf (histogram s o).state.mem = true := by
  unfold histogram
  dsimp only
  split
  · exact hs
  · split
    · exact hs
    · split
      · exact hs
      · next h => split <;> simp [laneParts_ok_mem h, hs]

end Sys2Proof.Machine
end

section
/-! PROOFS. Main memory in its canonical form: tapes, cuts, and images. -/

namespace Sys2Proof.Machine

theorem getD_wf {x : Option State} {d : State} (hx : ∀ t, x = some t → Memory.wf t.mem = true) (hd : Memory.wf d.mem = true) : Memory.wf (x.getD d).mem = true := by
  cases x with
  | none => exact hd
  | some t => exact hx t rfl

section Tapes

variable {s : State} (hs : Memory.wf s.mem = true)

include hs

theorem State.tapeWrite_some_wf {t : State} {asid : BitVec 9} {va : Nat} {bs : List Byte} (h : s.tapeWrite asid va bs = some t) : Memory.wf t.mem = true :=
  s.tapeWrite_wf asid va bs hs h

@[simp] theorem State.tapeDone_wf (asid : BitVec 9) (area : Nat) (bad : Bool) : Memory.wf (s.tapeDone asid area bad).mem = true := by
  unfold State.tapeDone
  dsimp only
  split
  · exact hs
  · next h =>
    have ht := State.tapeWrite_some_wf hs h
    exact getD_wf (fun _ => State.tapeWrite_some_wf ht) ht

@[simp] theorem State.abortTrack_wf (u : CtxId) (ovf : Bool) : Memory.wf (s.abortTrack u ovf).mem = true := by
  unfold State.abortTrack
  dsimp only
  split
  · exact hs
  · split
    · simp [hs]
    · next h => simp [State.tapeWrite_some_wf (by simpa using hs) h]

@[simp] theorem State.putRecords_wf (u : CtxId) (rs : List Nat) : Memory.wf (s.putRecords u rs).mem = true := by
  unfold State.putRecords
  dsimp only
  split
  · exact hs
  · split
    · simp [hs]
    · split
      · simp [hs]
      · next h => simp [State.tapeWrite_some_wf hs h]

@[simp] theorem State.writeGuard_wf (u : CtxId) (at' : Ctx) (type kind data : Nat) (full : Bool) : Memory.wf (s.writeGuard u at' type kind data full).mem = true := by
  unfold State.writeGuard
  dsimp only
  repeat' split
  all_goals simp [hs]

@[simp] theorem State.beginTrack_wf (u : CtxId) (at' : Ctx) (area size : Word) : Memory.wf (s.beginTrack u at' area size).2.mem = true := by
  have hput : ∀ {t : State} (y : Scroll) k, Memory.wf t.mem = true → Memory.wf ((t.putScroll u y).writeGuard u at' 1 0 k true).mem = true :=
    fun _ _ ht => State.writeGuard_wf (by simpa using ht) u at' 1 0 _ true
  unfold State.beginTrack
  dsimp only
  repeat' split
  all_goals grind [→ State.tapeWrite_wf]

@[simp] theorem State.closeTrack_wf (u : CtxId) (at' : Ctx) : Memory.wf (s.closeTrack u at').mem = true := by
  unfold State.closeTrack
  dsimp only
  have ht := State.writeGuard_wf hs u at' 3 5 0 false
  split
  · exact ht
  · split
    · simp [hs]
    · next h => simp [State.tapeWrite_some_wf ht h]

theorem declareSlot_wf {t : State} {asid : BitVec 9} {area slot width : Nat} (h : declareSlot s asid area slot width = some t) : Memory.wf t.mem = true := by
  obtain ⟨u, hu, ht⟩ := Option.bind_eq_some_iff.1 h
  exact State.tapeWrite_some_wf (State.tapeWrite_some_wf hs hu) ht

@[simp] theorem State.beginCut_wf : Memory.wf s.beginCut.mem = true := by
  unfold State.beginCut
  split
  · exact hs
  · next k _ =>
    split
    · exact hs
    · have ht := getD_wf (fun _ => State.tapeWrite_some_wf (asid := k.asid) (va := k.area.toNat) (bs := leBytes 8 0) hs) hs
      dsimp only
      split <;> simpa using ht

/-- A replay that starts leaves main memory canonical: it counts itself in the tape's header. -/
theorem State.openTrack_wf {t : State} {u : CtxId} {g : Group} {area tlen n crc : Nat} {vals : SMap Word} (h : s.openTrack u g area tlen n crc vals = .ok t) :
    Memory.wf t.mem = true := by
  have hw := fun bs => getD_wf (fun _ => State.tapeWrite_some_wf (asid := s.asidOf u) (va := area + 24) (bs := bs) hs) hs
  unfold State.openTrack at h
  dsimp only at h
  repeat' split at h
  all_goals grind [State.putScroll_mem]

theorem State.startReplay_wf {t : State} {u : CtxId} {area pv : Word} {size : Option Word} (h : s.startReplay u area pv size = .ok t) : Memory.wf t.mem = true := by
  unfold State.startReplay at h
  dsimp only at h
  repeat' split at h
  all_goals grind [State.openTrack_wf hs]

@[simp] theorem State.bindTape_wf (u : CtxId) (k : Option Tape) : Memory.wf (s.bindTape u k).mem = true := by
  unfold State.bindTape
  dsimp only
  split
  · exact hs
  · split
    · exact hs
    · split
      · split
        · simp [hs]
        · simp [hs]
        · simp [hs]
        · next h => simp [State.startReplay_wf (by simpa using hs) h]
      · split <;> simp [hs]

end Tapes

end Sys2Proof.Machine
end

section
/-! PROOFS. Main memory in its canonical form: the instructions of an issue slot. -/

namespace Sys2Proof.Machine

/-- Writes made one after another, of which each answers the next state or an error that stays. -/
theorem foldl_ok_wf {β ε : Type} {put : Except ε State → β → Except ε State} (hput : ∀ u e v, Memory.wf u.mem = true → put (.ok u) e = .ok v → Memory.wf v.mem = true)
    (herr : ∀ f e, put (.error f) e = .error f) (l : List β) : ∀ {t u : State}, Memory.wf t.mem = true → l.foldl put (.ok t) = .ok u → Memory.wf u.mem = true := by
  have hstop : ∀ (l : List β) f, l.foldl put (.error f) = .error f := fun l f => by
    induction l with
    | nil => rfl
    | cons e l ih => rw [List.foldl_cons, herr, ih]
  induction l with
  | nil =>
    intro t u ht h
    exact Except.ok.inj h ▸ ht
  | cons e l ih =>
    intro t u ht h
    rw [List.foldl_cons] at h
    cases hw : put (.ok t) e with
    | error f => rw [hw, hstop] at h; cases h
    | ok v =>
      rw [hw] at h
      exact ih (hput _ _ _ ht hw) h

section

variable {s : State} (hs : Memory.wf s.mem = true)

include hs

@[simp] theorem State.eret_wf (m : Nat) : Memory.wf (s.eret m).mem = true := by
  simp [State.eret, hs]

theorem eretWith_canonical (m : Nat) (o : Ops) : GoesOnCanonical (eretWith m o s) := by
  unfold eretWith
  (repeat' split) <;> simp [hs]

@[simp] theorem State.resumeAll_wf : Memory.wf s.resumeAll.mem = true := by
  unfold State.resumeAll
  exact foldl_wf (fun t v ht => t.reissue_wf v ht) _ hs

@[simp] theorem State.loadImage_wf (asid : BitVec 9) (rcbVa : Word) (rcb : Nat) (x : Loaded) : Memory.wf (s.loadImage asid rcbVa rcb x).mem = true := by
  unfold State.loadImage
  dsimp only
  refine State.writeRcb_wf _ _ _ _ (State.writeRcb_wf _ _ _ _ (State.writeRcb_wf _ _ _ _ (wf_of_mem hs ?_)))
  rw [State.putRegion_mem, foldl_mem fun t n => t.withCore_mem n State.rebuildAll_mem, foldl_mem fun t n => t.putCoreAt_mem n _, foldl_mem fun t n => t.putCoreAt_mem _ _]

@[simp] theorem State.pinit_wf (asid : BitVec 9) (rcbVa : Word) (rcb : Nat) (va : Word) : Memory.wf (s.pinit asid rcbVa rcb va).2.mem = true := by
  unfold State.pinit
  dsimp only
  split <;> simp [hs]

variable (o : Ops)

/-! ## Instructions whose body chooses -/

@[simp] theorem execGpeek_canonical : GoesOnCanonical (execGpeek o s) := by
  refine runInstr_canonical hs ?_
  dsimp only
  (repeat' split) <;> simp [hs]

@[simp] theorem execGskip_canonical : GoesOnCanonical (execGskip o s) := by
  refine runInstr_canonical hs ?_
  dsimp only
  (repeat' split) <;> simp [hs]

@[simp] theorem execPbind_canonical : GoesOnCanonical (execPbind o s) := by
  refine runInstr_canonical hs ?_
  dsimp only
  (repeat' split) <;> simp [hs]

@[simp] theorem execPxform_canonical : GoesOnCanonical (execPxform o s) := by
  refine runInstr_canonical hs ?_
  dsimp only
  (repeat' split) <;> simp [hs]

@[simp] theorem execSpst_canonical : GoesOnCanonical (execSpst o s) := by
  refine runInstr_canonical hs ?_
  dsimp only
  (repeat' split) <;> simp [hs]

@[simp] theorem execScstat_canonical : GoesOnCanonical (execScstat o s) := by
  refine runInstr_canonical hs (eff_ite_wf hs (eff_ite_wf ?_ ?_))
  · exact loadAt_wf hs _ _ _ fun _ _ => State.setS_mem ..
  · simpa using hs

@[simp] theorem execScrecBegin_canonical : GoesOnCanonical (execScrecBegin o s) := by
  refine runPlain_canonical hs ?_
  dsimp only
  (repeat' split) <;> simp [hs]

@[simp] theorem execScrecEnd_canonical : GoesOnCanonical (execScrecEnd o s) := by
  refine runPlain_canonical hs ?_
  dsimp only
  (repeat' split) <;> simp [hs]

@[simp] theorem execSptins_canonical : GoesOnCanonical (execSptins o s) := by
  unfold execSptins
  refine runInstr_canonical hs ?_
  dsimp only
  refine eff_ite_wf hs (eff_ite_wf (by simpa using hs) (eff_ite_wf (by simpa using hs) ?_))
  rw [Eff.state_next, State.setS_mem, State.putCore_mem]
  exact hs

@[simp] theorem execTidset_canonical : GoesOnCanonical (execTidset o s) := by
  refine runInstr_canonical hs ?_
  dsimp only
  split
  · exact hs
  · next h =>
    have hu := wf_of_mem hs (tensorAccess_ok_mem _ _ _ h)
    split <;> simpa using hu

@[simp] theorem execTidget_canonical : GoesOnCanonical (execTidget o s) := by
  refine runInstr_canonical hs ?_
  split
  · exact hs
  · next h =>
    have hu := wf_of_mem hs (tensorAccess_ok_mem _ _ _ h)
    split <;> simp [hu]

/-! ## Loads, copies and barriers -/

@[simp] theorem execLd_canonical : GoesOnCanonical (execLd o s) := runInstr_canonical hs (loadAt_wf hs _ _ _ fun _ _ => State.setS_mem ..)
@[simp] theorem execLdx_canonical : GoesOnCanonical (execLdx o s) := runInstr_canonical hs (loadAt_wf hs _ _ _ fun _ _ => State.setS_mem ..)
@[simp] theorem execLdacq_canonical : GoesOnCanonical (execLdacq o s) := runInstr_canonical hs (loadAt_wf hs _ _ _ fun _ _ => State.setS_mem ..)
@[simp] theorem execLdnt_canonical : GoesOnCanonical (execLdnt o s) := runInstr_canonical hs (loadAt_wf hs _ _ _ fun _ _ => State.setS_mem ..)
@[simp] theorem execLdv_canonical : GoesOnCanonical (execLdv o s) := runVec_canonical hs (baseAligned_wf hs _ _ (loadLanes_wf hs _ _))
@[simp] theorem execStv_canonical : GoesOnCanonical (execStv o s) := runVec_canonical hs (baseAligned_wf hs _ _ (storeLanes_wf hs _ _))
@[simp] theorem execCpy_canonical : GoesOnCanonical (execCpy o s) := runInstr_canonical hs (copyChecks_wf hs _ _ _ _ (issueCopy_wf hs _ _ _ _ fun _ _ => rfl))
@[simp] theorem execCpys_canonical : GoesOnCanonical (execCpys o s) := runInstr_canonical hs (copyChecks_wf hs _ _ _ _ (issueCopy_wf hs _ _ _ _ fun _ _ => rfl))
@[simp] theorem execEret_canonical : GoesOnCanonical (execEret o s) := eretWith_canonical hs 0 o
@[simp] theorem execEretSkip_canonical : GoesOnCanonical (execEretSkip o s) := eretWith_canonical hs 1 o
@[simp] theorem execEretKill_canonical : GoesOnCanonical (execEretKill o s) := eretWith_canonical hs 2 o

@[simp] theorem execSpld_canonical : GoesOnCanonical (execSpld o s) := by
  refine runInstr_canonical hs ?_
  dsimp only
  split
  · exact hs
  · exact spLoad_wf hs _ _ fun _ => by simp

@[simp] theorem execSpldv_canonical : GoesOnCanonical (execSpldv o s) := by
  refine runVec_canonical hs (baseAligned_wf hs _ _ ?_)
  split
  · exact hs
  · exact spLoad_wf hs _ _ fun _ => by simp

@[simp] theorem execSpstv_canonical : GoesOnCanonical (execSpstv o s) := by
  refine runVec_canonical hs (baseAligned_wf hs _ _ ?_)
  split
  · exact hs
  · rw [Eff.state_next, foldl_mem fun _ _ => State.spWrite_mem ..]
    exact hs

@[simp] theorem execBarinit_canonical : GoesOnCanonical (execBarinit o s) := by
  unfold execBarinit
  refine runInstr_canonical hs (withBar_wf hs _ fun off => ?_)
  dsimp only
  refine eff_ite_wf hs ?_
  rw [Eff.state_next, State.forget_mem, State.barStep_mem]
  exact hs

@[simp] theorem execBararm_canonical : GoesOnCanonical (execBararm o s) := by
  unfold execBararm
  refine runInstr_canonical hs (withBar_wf hs _ fun off => ?_)
  dsimp only
  refine eff_ite_wf hs (eff_ite_wf ?_ ?_)
  · rw [Eff.state_next, State.release_mem, State.barStep_mem]
    exact hs
  · rw [Eff.state_next, State.barStep_mem]
    exact hs

@[simp] theorem execBararr_canonical : GoesOnCanonical (execBararr o s) := by
  refine runInstr_canonical hs (withBar_wf hs _ fun off => ?_)
  dsimp only
  split
  · exact hs
  · simp [hs, State.barStep_mem]

@[simp] theorem execCinvI_canonical : GoesOnCanonical (execCinvI o s) := by
  refine runInstr_canonical hs ?_
  (repeat' split) <;> simp [hs]

@[simp] theorem execGpush_canonical : GoesOnCanonical (execGpush o s) := by
  refine runPlain_canonical hs ?_
  dsimp only
  split
  · simp [hs]
  · (repeat' split) <;> simp [hs]

@[simp] theorem execGpop_canonical : GoesOnCanonical (execGpop o s) := by
  refine runPlain_canonical hs ?_
  dsimp only
  split
  · simp [hs]
  · (repeat' split) <;> simp [hs]

@[simp] theorem execSptlook_canonical : GoesOnCanonical (execSptlook o s) := by
  refine runPlain_canonical hs ?_
  dsimp only
  split <;> simp [hs]

@[simp] theorem execPref_canonical : GoesOnCanonical (execPref o s) := by
  refine runPlain_canonical hs ?_
  split
  · next ps u h =>
    obtain ⟨-, ha⟩ := Option.ite_none_left_eq_some.1 h
    have hu : u.mem = s.mem := by
      cases hx : accessParts s s.curAsid s.kLevel .read (s.addr o).toNat 1 with
      | error _ => rw [hx] at ha; cases ha
      | ok r => rw [hx] at ha; cases ha; exact accessParts_ok_mem hx
    split <;> simp [hu, hs]
  · exact hs

@[simp] theorem execScplay_canonical : GoesOnCanonical (execScplay o s) := by
  refine runInstr_canonical hs ?_
  dsimp only
  split
  · simp [hs]
  · split
    · simp [hs]
    · simp [hs]
    · next h => simp [State.startReplay_wf (by simpa using hs) h]

@[simp] theorem execScpatch_canonical : GoesOnCanonical (execScpatch o s) := by
  refine runPlain_canonical hs ?_
  dsimp only
  split
  · exact hs
  · split
    · simp [hs]
    · split
      · simp [hs]
      · split
        · simp [hs]
        · next h => exact wf_of_mem (declareSlot_wf (State.putRecords_wf hs _ _) h) (State.putScroll_mem _ _ _)

@[simp] theorem execTlbinvPage_canonical : GoesOnCanonical (execTlbinvPage o s) := by
  refine runK_canonical hs ?_
  dsimp only
  split
  · exact hs
  · exact wf_of_mem hs (State.invalidate_mem ..)

@[simp] theorem execTlbinvAsid_canonical : GoesOnCanonical (execTlbinvAsid o s) := runK_canonical hs (wf_of_mem hs (State.invalidate_mem ..))
@[simp] theorem execTlbinvAll_canonical : GoesOnCanonical (execTlbinvAll o s) := runK_canonical hs (wf_of_mem hs (State.invalidate_mem ..))

@[simp] theorem execCtxload_canonical : GoesOnCanonical (execCtxload o s) := by
  refine runK_canonical hs ?_
  dsimp only
  split <;> simp [hs]

@[simp] theorem execBalloonPri_canonical : GoesOnCanonical (execBalloonPri o s) := by
  refine runK_canonical hs ?_
  dsimp only
  split
  · simp [hs]
  · rw [Eff.state_next, State.setS_mem, foldl_mem fun _ _ => State.putDie_mem ..]
    exact hs

@[simp] theorem execIrqCore_canonical : GoesOnCanonical (execIrqCore o s) := by
  refine runK_canonical hs ?_
  dsimp only
  (repeat' split) <;> simp [hs, State.putCoreAt_mem]

@[simp] theorem execQpost_canonical : GoesOnCanonical (execQpost o s) := by
  refine runK_canonical hs ?_
  dsimp only
  split
  · simp [hs]
  · split
    · simp [hs]
    · split
      · simp [hs]
      · split
        · simp [hs]
        · split
          · simp [hs]
          · next h =>
            have hu := foldl_ok_wf (fun u _ _ hu => u.hubWrite_ok_wf _ _ _ hu) (fun _ _ => rfl) _ hs h
            simp [hu]

@[simp] theorem execPinit_canonical : GoesOnCanonical (execPinit o s) := by
  refine runK_canonical hs ?_
  dsimp only
  split
  · exact hs
  · split
    · exact hs
    · split
      · exact hs
      · next h =>
        have ht := wf_of_mem hs (accessParts_ok_mem h)
        split <;> simp [ht]

@[simp] theorem execCpyt_canonical : GoesOnCanonical (execCpyt o s) := runInstr_canonical hs (copyChecks_wf hs _ _ _ _ (issueCopy_wf hs _ _ _ _ fun _ _ => rfl))
@[simp] theorem execCpyq_canonical : GoesOnCanonical (execCpyq o s) := runInstr_canonical hs (copyChecks_wf hs _ _ _ _ (issueCopy_wf hs _ _ _ _ fun _ _ => rfl))
@[simp] theorem execCpyr_canonical : GoesOnCanonical (execCpyr o s) := runInstr_canonical hs (copyChecks_wf hs _ _ _ _ (issueCopy_wf hs _ _ _ _ fun _ _ => State.putCore_mem ..))
@[simp] theorem execCpyw_canonical : GoesOnCanonical (execCpyw o s) := runInstr_canonical hs (copyChecks_wf hs _ _ _ _ (issueCopy_wf hs _ _ _ _ fun _ _ => State.putCore_mem ..))

end

end Sys2Proof.Machine
end

section
/-! PROOFS. Main memory in its canonical form: the instructions by their opcodes. -/

namespace Sys2Proof.Machine

theorem forall_mem_ite {α : Type} {c : Prop} [Decidable c] {a b : Option α} {p : α → Prop} (ha : ∀ r ∈ a, p r) (hb : ∀ r ∈ b, p r) :
    ∀ r ∈ (if c then a else b), p r := by
  split
  · exact ha
  · exact hb

section

variable {s : State} (hs : Memory.wf s.mem = true)

include hs

/-! ## The instructions by their opcodes -/

theorem issue0_canonical (lo q m : Nat) (o : Ops) : ∀ r ∈ issue0 lo q m o s, GoesOnCanonical r := by
  unfold issue0
  split
  all_goals
    repeat' refine forall_mem_ite ?_ ?_
    all_goals simp [execNop, execMov, execMovi, execMoviHi, execAdd, execSub, execAddi, execMul, execMulh, execMulhu, execDiv, execDivu, execRem, execRemu, execAnd, execOr, execXor, hs]

theorem issue1_canonical (lo q m : Nat) (o : Ops) : ∀ r ∈ issue1 lo q m o s, GoesOnCanonical r := by
  unfold issue1
  split <;> simp [execAndi, execOri, execXori, execShl, execShr, execSra, execShli, execShri, execSrai, execRol, execSlt, execSltu, execSlti, execMin, execMax, execMinu, hs]

theorem issue2_canonical (lo q m : Nat) (o : Ops) : ∀ r ∈ issue2 lo q m o s, GoesOnCanonical r := by
  unfold issue2
  split <;> simp [execMaxu, execClz, execCtz, execPopc, execBswap, execExt, execIns, execSext, execLea, execCmpp, execBeq, execBne, execBlt, execBge, execBltu, execBgeu, hs]

theorem issue3_canonical (lo q m : Nat) (o : Ops) : ∀ r ∈ issue3 lo q m o s, GoesOnCanonical r := by
  unfold issue3
  split
  all_goals
    repeat' refine forall_mem_ite ?_ ?_
    all_goals simp [execJmp, execJr, execCall, execRet, execSel, execPlog, execPmov, execPmovFrom, execPmovTo, execMfc, execMtc, execBudget, execBudgetSet, execAend, execFadd, execFmul, execFdiv, execFcvtF2i, execFcvtI2f, execFcvtU2f, execFcvtF2bf, execFcvtBf2f, execFcvtF2h, execFcvtH2f, execFcvtF2e4, execFcvtE42f, execFcmp, hs]

theorem issue4_canonical (lo q m : Nat) (o : Ops) : ∀ r ∈ issue4 lo q m o s, GoesOnCanonical r := by
  unfold issue4
  split
  all_goals
    repeat' refine forall_mem_ite ?_ ?_
    all_goals simp [execGfstat, execGresume, execGresumeRecover, execMarkif, execMarkemit, execMarkemitR, execSigdec, execSigwait, execSigwaitPoll, execSigset, execLigcfgTerm, execLigcfgSrc, execLigcfgTread, execLigcntRd, execLigcntSet, execLigcntSub, execLigcntClrv, execLigfire, execGstate, execGstateStk, execEvwait, hs]

theorem issue5_canonical (lo q m : Nat) (o : Ops) : ∀ r ∈ issue5 lo q m o s, GoesOnCanonical r := by
  unfold issue5
  split <;> simp [execSt, execStx, execLdg, execSct, execAadd, execAand, execAor, execAxor, hs]

theorem issue6_canonical (lo q m : Nat) (o : Ops) : ∀ r ∈ issue6 lo q m o s, GoesOnCanonical r := by
  unfold issue6
  split
  all_goals
    repeat' refine forall_mem_ite ?_ ?_
    all_goals simp [execAmin, execAmax, execAminu, execAmaxu, execAswp, execAcas, execAfadd, execFence, execFenceAcq, execFenceRel, execStrel, execCwb, execCinv, execStnt, hs]

theorem issue7_canonical (lo q m : Nat) (o : Ops) : ∀ r ∈ issue7 lo q m o s, GoesOnCanonical r := by
  unfold issue7
  split
  all_goals
    repeat' refine forall_mem_ite ?_ ?_
    all_goals simp [execTidmodBase, execTidmodSbase, execTidmodSize, execTidmodStride, execTidmodValid, execTidmodAddbase, execTidchk, execPunbind, execPseek, execPstat, execPwin, hs]

theorem issue8_canonical (lo q m : Nat) (o : Ops) : ∀ r ∈ issue8 lo q m o s, GoesOnCanonical r := by
  unfold issue8
  split <;> simp [execBarwait, execBartest, execSptevict, execSptread, execFeset, execFeclr, execFetest, execPflush, execCirc, hs]

theorem issue9_canonical (lo q m : Nat) (o : Ops) : ∀ r ∈ issue9 lo q m o s, GoesOnCanonical r := by
  unfold issue9
  split
  all_goals
    repeat' refine forall_mem_ite ?_ ?_
    all_goals simp [execMxmma, execMxzero, execMxldacc, execMxstacc, execMxwload, execMxwdrop, execMxwdropAll, execMxscale, execMxfmt, execMxchainOff, execMxchainScale, execMxchainBias, execMxchainResid, execMxchainAct, execMxchainClamp, execMxchainQnt, execMxskipOff, execMxskipOn, execMxskipRd, execMxwait, execMxwaitAll, execMxstat, execMxstatSlot, execMxstatZmask, execMxstatSkipcnt, hs]

theorem issueA_canonical (lo q m : Nat) (o : Ops) : ∀ r ∈ issueA lo q m o s, GoesOnCanonical r := by
  unfold issueA
  split <;> simp [execVadd, execVsub, execVmul, execVfma, execVfms, execVdiv, execVsqrt, execVrsq, execVrcp, execVmin, execVmax, execVabs, execVneg, execVfn, execVscaleb, execVround, hs]

theorem issueB_canonical (lo q m : Nat) (o : Ops) : ∀ r ∈ issueB lo q m o s, GoesOnCanonical r := by
  unfold issueB
  split
  all_goals
    repeat' refine forall_mem_ite ?_ ?_
    all_goals simp [execVclass, execVcvtF2i, execVcvtI2f, execVcvtUi2f, execVcvtF2bf, execVcvtBf2f, execVcvtF2h, execVcvtH2f, execVcvtF2e4, execVcvtE42f, execVcvtF2e5, execVcvtE52f, execVcvtF2i8, execVcvtI82f, execVqntE4m3, execVqntBfp, execVdqnt, execVcmp, execVsel, execViadd, execVisub, execVimul, execVimad, execVand, execVor, execVxor, execVshl, execVshr, execVsra, hs]

theorem issueC_canonical (lo q m : Nat) (o : Ops) : ∀ r ∈ issueC lo q m o s, GoesOnCanonical r := by
  unfold issueC
  split
  all_goals
    repeat' refine forall_mem_ite ?_ ?_
    all_goals simp [execVclz, execVpopc, execVred, execVscan, execVbcast, execVbcastLane, execVextr, execVins, execVperm, execVrot, execViota, execVsort, execVtopk, execVgate, execVgateRenorm, execVhist, execVprng, execVprd, hs]

theorem issueD_canonical (lo q m : Nat) (o : Ops) : ∀ r ∈ issueD lo q m o s, GoesOnCanonical r := by
  unfold issueD
  split
  all_goals
    repeat' refine forall_mem_ite ?_ ?_
    all_goals simp [execVpwr, execVpcnt, execVplogNz, execVplogBit, execVplogP2v, execVmov, hs]

theorem issueE_canonical (lo q m : Nat) (o : Ops) : ∀ r ∈ issueE lo q m o s, GoesOnCanonical r := by
  unfold issueE
  split
  all_goals
    repeat' refine forall_mem_ite ?_ ?_
    all_goals simp [execMgisect, execMgunion, execMgdiff, execMgmerge, execMgsteer, execMgseq, execMgstat, execMgstatPart, execMgstatLeaf, execMgcfgPivot, execMgcfgPread, execMgcfgMark, execScguard, execTrap, execAsidset, hs]

theorem issueF_canonical (lo q m : Nat) (o : Ops) : ∀ r ∈ issueF lo q m o s, GoesOnCanonical r := by
  unfold issueF
  split
  all_goals
    repeat' refine forall_mem_ite ?_ ?_
    all_goals simp [execCtxsave, execResume, execWfi, execBrk, execMemctlTag, execMemctlFmr, execMemctlRd, execMemctlWr, execIrqHost, execWalk, hs]

theorem issueOp_canonical (op q m : Nat) (o : Ops) : ∀ r ∈ issueOp op q m o s, GoesOnCanonical r := by
  unfold issueOp
  split
  · exact issue0_canonical hs _ q m o
  · exact issue1_canonical hs _ q m o
  · exact issue2_canonical hs _ q m o
  · exact issue3_canonical hs _ q m o
  · exact issue4_canonical hs _ q m o
  · exact issue5_canonical hs _ q m o
  · exact issue6_canonical hs _ q m o
  · exact issue7_canonical hs _ q m o
  · exact issue8_canonical hs _ q m o
  · exact issue9_canonical hs _ q m o
  · exact issueA_canonical hs _ q m o
  · exact issueB_canonical hs _ q m o
  · exact issueC_canonical hs _ q m o
  · exact issueD_canonical hs _ q m o
  · exact issueE_canonical hs _ q m o
  · exact issueF_canonical hs _ q m o
  · simp

@[simp] theorem execReservedOpcode_canonical (o : Ops) (op sub : BitVec 8) : GoesOnCanonical (execReservedOpcode o op sub s) := by
  unfold execReservedOpcode
  split <;> simp [hs]

@[simp] theorem issueInstr_canonical (op : Nat) (o : Ops) : GoesOnCanonical (issueInstr op o s) := by
  unfold issueInstr
  split
  · exact execReservedOpcode_canonical hs _ _ _
  · split
    · exact execReservedOpcode_canonical hs _ _ _
    · split
      · split <;> simp [hs]
      · cases h : issueOp op o.q.toNat o.m.toNat o s with
        | none => exact execReservedOpcode_canonical hs o (BitVec.ofNat 8 op) 0
        | some r => exact issueOp_canonical hs _ _ _ _ r h

end

end Sys2Proof.Machine
end

section
/-! PROOFS. Main memory in its canonical form: the ends of invocations. -/

namespace Sys2Proof.Machine

section

variable {s : State} (hs : Memory.wf s.mem = true)

include hs

@[simp] theorem applyWrites_wf (v : Inv) (l : List (PWrite × List Part)) : Memory.wf (applyWrites s v l).mem = true :=
  foldl_wf (fun t e ht => applyWrite_wf _ _ t e ht) l hs

theorem State.commit_wf (v : Inv) {k : Commit} (hk : ∀ t, Memory.wf t.mem = true → Memory.wf (k.after t).mem = true) : Memory.wf (s.commit v k).mem = true := by
  have hk' : ∀ t, Memory.wf t.mem = true → Memory.wf ((if s.drains v then { k with writes := k.writes.filter (fun w => decide (w.port = noPort)) } else k).after t).mem = true := by
    split <;> exact hk
  unfold State.commit
  dsimp only
  generalize (if s.drains v then { k with writes := k.writes.filter (fun w => decide (w.port = noPort)) } else k) = k at hk' ⊢
  split
  · next h =>
    have h1 := wf_of_mem hs (xlatWrites_error_mem _ _ _ h)
    simpa using h1
  · next l s1 h =>
    have h1 := wf_of_mem hs (xlatWrites_ok_mem _ _ _ h)
    split
    · simp [h1, State.discard_mem]
    · split
      · simp [h1, State.discard_mem]
      · next s2 h2 =>
        have hw2 : Memory.wf s2.mem = true := by
          split at h2
          · exact wf_of_mem (applyWrites_wf h1 v l) (State.arriveAt_mem h2)
          · obtain ⟨t, ht, rfl⟩ := Option.map_eq_some_iff.1 h2
            exact applyWrites_wf (wf_of_mem h1 (State.arriveAt_mem ht)) v l
        split
        · simp [h1]
        · next s3 h3 =>
          have h3' := wf_of_mem hw2 (storeInvLines_ok_mem _ _ _ h3)
          rw [State.pruned_mem, State.putCore_mem, State.complete_mem, State.putCore_mem]
          exact hk' _ (by simp [h3'])

/-- An end that leaves main memory to its stores. -/
theorem State.commit_keep_wf (v : Inv) {k : Commit} (hk : ∀ t, (k.after t).mem = t.mem) : Memory.wf (s.commit v k).mem = true :=
  State.commit_wf hs v fun t ht => wf_of_mem ht (hk t)

theorem State.commitCopy_wf (v : Inv) (port : Nat) (ws : List PWrite) (flags : BitVec 16) {after : State → State} (ha : ∀ t, (after t).mem = t.mem) :
    Memory.wf (s.commitCopy v port ws flags after).mem = true :=
  State.commit_wf hs v fun _ ht => wf_of_mem (State.traceCopy_wf _ _ _ _ (State.traceCopy_wf _ _ _ _ ht)) (ha _)

/-! ## The engines -/

@[simp] theorem commitSet_wf (v : Inv) : Memory.wf (commitSet s v).mem = true := by
  unfold commitSet
  dsimp only
  split
  · simp [hs, State.discard_mem]
  · refine State.commit_keep_wf hs v fun _ => ?_
    dsimp only
    rw [State.settleMark_mem, State.writeD_mem]
    split <;> simp

@[simp] theorem endSet_wf (v : Inv) : Memory.wf (endSet s v).mem = true := by
  unfold endSet
  split
  · next h => exact wf_of_mem hs (State.feed_error_mem _ _ _ _ h)
  · next h => exact commitSet_wf (wf_of_mem hs (State.feed_ok_mem _ _ _ _ h)) _

@[simp] theorem endRaw_wf (v : Inv) : Memory.wf (endRaw s v).mem = true := State.commit_keep_wf hs v (drained_mem v)

@[simp] theorem endDrain_wf (v : Inv) : Memory.wf (endDrain s v).mem = true := by
  unfold endDrain
  dsimp only
  split
  · next h => exact wf_of_mem hs (gatherChain_error_mem _ _ _ h)
  · next v1 s1 h =>
    have h1 := wf_of_mem hs (gatherChain_ok_mem _ _ _ h)
    refine State.commit_keep_wf (s := { s1 with free := s1.free + 65536 }) h1 v1 fun _ => ?_
    dsimp only
    rw [State.putPort_mem, foldl_mem fun _ _ => State.putPort_mem .., leftover_mem, drained_mem]

@[simp] theorem endMxstacc_wf (v : Inv) : Memory.wf (endMxstacc s v).mem = true := by
  unfold endMxstacc
  split <;> simp [hs]

@[simp] theorem mmaCommit_wf (v : Inv) (a : LeftTile) : Memory.wf (mmaCommit s v a).mem = true := State.commit_keep_wf hs v fun _ => State.putCore_mem ..

@[simp] theorem endMxmma_wf (v : Inv) : Memory.wf (endMxmma s v).mem = true := by
  unfold endMxmma
  dsimp only
  split
  · refine mmaCommit_wf ?_ _ _
    rw [foldl_mem fun _ _ => State.spSaw_mem ..]
    exact hs
  · split
    · next h => exact wf_of_mem hs (State.gather_error_mem _ _ _ _ _ h)
    · next h =>
      have h1 := wf_of_mem hs (State.gather_ok_mem _ _ _ _ _ h)
      split
      · exact wf_of_mem h1 (State.discard_mem ..)
      · exact mmaCommit_wf h1 _ _

@[simp] theorem endMxzero_wf (v : Inv) : Memory.wf (endMxzero s v).mem = true := State.commit_keep_wf hs v fun _ => State.putCore_mem ..
@[simp] theorem endMxldacc_wf (v : Inv) : Memory.wf (endMxldacc s v).mem = true :=
  State.commit_keep_wf (by simpa using hs) v fun _ => State.putCore_mem ..

@[simp] theorem endMxwload_wf (v : Inv) : Memory.wf (endMxwload s v).mem = true := by
  unfold endMxwload
  dsimp only
  split
  · next h => exact wf_of_mem hs (State.gather_error_mem _ _ _ _ _ h)
  · next v1 s1 h =>
    have h1 := wf_of_mem hs (State.gather_ok_mem _ _ _ _ _ h)
    split
    · exact wf_of_mem h1 (State.discard_mem ..)
    · exact State.commit_keep_wf (s := { s1 with free := s1.free + 2 ^ 18 }) h1 v1 fun _ => State.putCore_mem ..

@[simp] theorem endMxwdrop_wf (v : Inv) : Memory.wf (endMxwdrop s v).mem = true := State.commit_keep_wf hs v fun _ => State.putCore_mem ..
@[simp] theorem endMxscale_wf (v : Inv) : Memory.wf (endMxscale s v).mem = true := State.commit_keep_wf hs v fun _ => State.putCore_mem ..

@[simp] theorem endMx_wf (v : Inv) : Memory.wf (endMx s v).mem = true := by
  unfold endMx
  split <;> simp [hs]

@[simp] theorem endVprd_wf (v : Inv) : Memory.wf (endVprd s v).mem = true := by
  unfold endVprd
  dsimp only
  split
  · next h => exact wf_of_mem hs (State.gather_error_mem _ _ _ _ _ h)
  · next h =>
    have h1 := wf_of_mem hs (State.gather_ok_mem _ _ _ _ _ h)
    split
    · exact wf_of_mem h1 (State.discard_mem ..)
    · exact State.commit_keep_wf h1 _ fun _ => State.putCtxAt_mem ..

@[simp] theorem endVpwr_wf (v : Inv) : Memory.wf (endVpwr s v).mem = true := State.commit_keep_wf hs v fun _ => State.putPort_mem ..

@[simp] theorem endVx_wf (v : Inv) : Memory.wf (endVx s v).mem = true := by
  unfold endVx
  split <;> simp [hs]

@[simp] theorem endSteer_wf (v : Inv) : Memory.wf (endSteer s v).mem = true := by
  unfold endSteer
  dsimp only
  split
  · next h => exact wf_of_mem hs (State.feed_error_mem _ _ _ _ h)
  · next h =>
    have h1 := wf_of_mem hs (State.feed_ok_mem _ _ _ _ h)
    split
    · exact wf_of_mem h1 (State.discard_mem ..)
    · exact State.commit_keep_wf h1 _ fun _ => by simp

@[simp] theorem commitSeq_wf (v : Inv) : Memory.wf (commitSeq s v).mem = true := by
  unfold commitSeq
  dsimp only
  split
  · exact wf_of_mem hs (State.discard_mem ..)
  · exact wf_of_mem hs (State.discard_mem ..)
  · exact State.commit_keep_wf hs v fun _ => by simp

@[simp] theorem endSeq_wf (v : Inv) : Memory.wf (endSeq s v).mem = true := by
  unfold endSeq
  split
  · next h => exact wf_of_mem hs (State.feed_error_mem _ _ _ _ h)
  · next h => exact commitSeq_wf (wf_of_mem hs (State.feed_ok_mem _ _ _ _ h)) _

@[simp] theorem endMg_wf (v : Inv) : Memory.wf (endMg s v).mem = true := by
  unfold endMg
  (repeat' split) <;> simp [hs]

/-! ## Copies -/

@[simp] theorem endCpy_wf (v : Inv) (xf : Bool) : Memory.wf (endCpy s v xf).mem = true := by
  unfold endCpy
  dsimp only
  split
  · next h => exact wf_of_mem hs (readSource_error_mem _ _ _ _ h)
  · next x w s1 h =>
    have h1 := wf_of_mem hs (readSource_ok_mem _ _ _ _ h)
    refine State.commitCopy_wf (s := { s1 with free := s1.free + _ }) h1 w _ _ _ fun _ => ?_
    simp

@[simp] theorem endCpys_wf (v : Inv) : Memory.wf (endCpys s v).mem = true := by
  unfold endCpys
  split
  · next h => exact wf_of_mem hs (State.linearAll_error_mem _ _ _ h)
  · next h => exact State.commitCopy_wf (wf_of_mem hs (State.linearAll_ok_mem _ _ _ h)) _ _ _ _ fun _ => rfl

@[simp] theorem endCpyq_wf (v : Inv) : Memory.wf (endCpyq s v).mem = true := by
  unfold endCpyq
  dsimp only
  split
  · next h => exact wf_of_mem hs (readSource_error_mem _ _ _ _ h)
  · next h => exact State.commitCopy_wf (wf_of_mem hs (readSource_ok_mem _ _ _ _ h)) _ _ _ _ fun _ => by simp

@[simp] theorem endCpyr_wf (v : Inv) : Memory.wf (endCpyr s v).mem = true := by
  unfold endCpyr
  split
  · next h => exact wf_of_mem hs (State.linearAll_error_mem _ _ _ h)
  · next h => exact State.commitCopy_wf (wf_of_mem hs (State.linearAll_ok_mem _ _ _ h)) _ _ _ _ fun _ => State.putCore_mem ..

@[simp] theorem endCpyw_wf (v : Inv) : Memory.wf (endCpyw s v).mem = true := by
  unfold endCpyw
  dsimp only
  split
  · next h => exact wf_of_mem hs (State.linearAll_error_mem _ _ _ h)
  · next h => exact State.commitCopy_wf (wf_of_mem hs (State.linearAll_ok_mem _ _ _ h)) _ _ _ _ fun _ => State.putCore_mem ..

@[simp] theorem State.endInv_wf (v : Inv) : Memory.wf (s.endInv v).mem = true := by
  unfold State.endInv
  (repeat' split) <;> simp [hs]

@[simp] theorem State.retryInv_wf (id : Nat) : Memory.wf (s.retryInv id).mem = true := by
  unfold State.retryInv
  split
  · exact hs
  · dsimp only
    split <;> simp [hs]

end

end Sys2Proof.Machine
end

section
/-! PROOFS. Main memory in its canonical form: replays, recordings, and the issue slot. -/

namespace Sys2Proof.Machine

theorem State.withCore_wf {s : State} (hs : Memory.wf s.mem = true) (n : Nat) {f : State → State} (hf : ∀ t, Memory.wf t.mem = true → Memory.wf (f t).mem = true) :
    Memory.wf (s.withCore n f).mem = true := by
  rw [State.withCore, State.focus_mem]
  exact hf _ (wf_of_mem hs (State.focus_mem ..))

theorem State.inSlot_wf {s : State} (hs : Memory.wf s.mem = true) {f : State → State} (hf : ∀ t, Memory.wf t.mem = true → Memory.wf (f t).mem = true) :
    Memory.wf (s.inSlot f).mem = true :=
  hf (s.atRank 0) (wf_of_mem hs (s.atRank_mem 0))

section

variable {s : State} (hs : Memory.wf s.mem = true)

include hs

/-! ## Replays -/

@[simp] theorem State.issueCmd_wf (u : CtxId) (head : Nat) (conts : List Nat) : Memory.wf (s.issueCmd u head conts).mem = true := by
  unfold State.issueCmd
  dsimp only
  split
  · simp [hs]
  · split
    · next h =>
      have ht := issueInstr_canonical (by exact hs) _ _ _ h
      (repeat' split) <;> simp [ht]
    · exact hs

@[simp] theorem State.handleCmd_wf (u : CtxId) : Memory.wf (s.handleCmd u).mem = true := by
  unfold State.handleCmd
  dsimp only
  split
  · exact hs
  · split
    · exact hs
    · exact State.issueCmd_wf hs _ _ _

@[simp] theorem State.diverge_wf (u : CtxId) : Memory.wf (s.diverge u).mem = true := by
  have hput : ∀ {t : State} {asid : BitVec 9} {va : Nat} {bs : List Byte}, Memory.wf t.mem = true → Memory.wf ((t.tapeWrite asid va bs).getD t).mem = true :=
    fun ht => getD_wf (fun _ => State.tapeWrite_some_wf ht) ht
  unfold State.diverge
  dsimp only
  exact ite_wf (hput (hput (by simpa using hs))) (hput (by simpa using hs))

@[simp] theorem State.handleGuard_wf (u : CtxId) (head : Nat) : Memory.wf (s.handleGuard u head).mem = true := by
  unfold State.handleGuard
  dsimp only
  split
  · exact hs
  · (repeat' split) <;> simp [hs]

@[simp] theorem State.handleMark_wf (u : CtxId) : Memory.wf (s.handleMark u).mem = true := by
  unfold State.handleMark
  dsimp only
  split
  · simp [hs]
  · split
    · exact hs
    · split <;> simp [hs]

@[simp] theorem State.replayStep_wf (u : CtxId) (kind : Nat) : Memory.wf (s.replayStep u kind).mem = true := by
  unfold State.replayStep
  (repeat' split) <;> simp [hs]

/-! ## Recordings -/

@[simp] theorem State.beforeOther_wf (x : Ctx) (u : CtxId) (op : Nat) (o : Ops) : Memory.wf (s.beforeOther x u op o).mem = true := by
  unfold State.beforeOther
  dsimp only
  (repeat' split) <;> simp [hs]

@[simp] theorem State.beforeScroll_wf (u : CtxId) (op : Nat) (o : Ops) : Memory.wf (s.beforeScroll u op o).mem = true := by
  unfold State.beforeScroll
  split <;> simp [hs]

@[simp] theorem State.payGuards_wf (u : CtxId) : Memory.wf (s.payGuards u).mem = true := by
  unfold State.payGuards
  dsimp only
  (repeat' split) <;> simp [hs]

theorem recordK_wf (r : State) (op : Nat) (o : Ops) : Memory.wf (recordK r s op o).mem = true := by
  unfold recordK
  split <;> simp [hs]

theorem recordCommand_wf (r : State) (u : CtxId) (op : Nat) (o : Ops) : Memory.wf (recordCommand r s u op o).mem = true := by
  unfold recordCommand
  dsimp only
  split <;> simp [hs]

theorem recordOther_wf (r : State) (u : CtxId) (op : Nat) (o : Ops) (raised : BitVec 16) : Memory.wf (recordOther r s u op o raised).mem = true := by
  unfold recordOther
  dsimp only
  (repeat' split) <;> simp [hs]

theorem recordInstr_wf (r : State) (u : CtxId) (op : Nat) (o : Ops) (raised : BitVec 16) : Memory.wf (recordInstr r s u op o raised).mem = true := by
  unfold recordInstr
  split
  · exact hs
  · split
    · exact recordCommand_wf hs ..
    · exact recordOther_wf hs ..

theorem settleInstr_wf (r : State) (c : CtxId) (op : Nat) (o : Ops) : Memory.wf (settleInstr r s c op o).mem = true := by
  unfold settleInstr
  split
  · exact hs
  · split
    · exact recordK_wf hs ..
    · split
      · exact hs
      · dsimp only
        rw [stepInstr_mem]
        split
        · exact recordInstr_wf hs ..
        · exact hs

/-- An instruction and the records that stand before it. -/
theorem issueAt_canonical (c : CtxId) (op : Nat) (o : Ops) : GoesOnCanonical (issueAt s c op o) := by
  unfold issueAt
  split
  · next h =>
    split
    · exact issueInstr_canonical hs op o
    · exact (goesOnCanonical_next _).2 (issueInstr_canonical (State.beforeScroll_wf hs c op o) op o _ h)
  · exact issueInstr_canonical (State.beforeScroll_wf hs c op o) op o

@[simp] theorem State.noteConsumed_wf (u : CtxId) (recovery : Bool) : Memory.wf (s.noteConsumed u recovery).mem = true := by
  unfold State.noteConsumed
  dsimp only
  split
  · exact hs
  · split
    · simp [hs]
    · next h => simp [State.tapeWrite_some_wf hs h]

omit hs in
theorem State.recorded_wf (u : CtxId) {f : State → State} (hf : Memory.wf (f s).mem = true) : Memory.wf (s.recorded u f).mem = true := by
  unfold State.recorded
  dsimp only
  (repeat' split) <;> simp [hf]

theorem ductusStep_wf (u : CtxId) {f : State → State} (hf : Memory.wf (f s).mem = true) : Memory.wf (ductusStep f u s).mem = true := by
  unfold ductusStep
  split
  · exact hs
  · exact State.recorded_wf u hf

/-! ## Attempts -/

@[simp] theorem State.runAt_wf (c : CtxId) : Memory.wf (s.runAt c).state.mem = true := by
  unfold State.runAt
  split
  · simp [hs]
  · next h =>
    have h1 : Memory.wf (State.mem _) = true := wf_of_mem hs ((fetch_ok_mem _ h).trans (s.select_mem c))
    dsimp only
    split
    · simp [h1]
    · split
      · next ht => exact settleInstr_wf (issueAt_canonical h1 _ _ _ _ ht) ..
      · exact h1

@[simp] theorem State.replayAt_wf (u : CtxId) : Memory.wf (s.replayAt u).state.mem = true := by
  unfold State.replayAt
  split
  · exact hs
  · exact State.replayStep_wf hs u _

@[simp] theorem State.parseAt_wf (u : CtxId) : Memory.wf (s.parseAt u).state.mem = true := by
  have ht : Memory.wf (ductusStep (fun t => if (s.ctxAt u).st = .recovering then t.recoveryStep u else t.parseStep u) u s).mem = true := by
    refine ductusStep_wf hs u ?_
    split <;> simp [hs]
  unfold State.parseAt
  dsimp only
  generalize ductusStep (fun t => if (s.ctxAt u).st = .recovering then t.recoveryStep u else t.parseStep u) u s = t at ht ⊢
  (repeat' split) <;> simp [ht, hs]

@[simp] theorem State.tryU_wf (u : CtxId) : Memory.wf (s.tryU u).state.mem = true := by
  unfold State.tryU
  dsimp only
  (repeat' split) <;> simp [hs]

@[simp] theorem State.attempt_wf (c : CtxId) : Memory.wf (s.attempt c).state.mem = true := by
  unfold State.attempt
  split <;> simp [hs]

@[simp] theorem State.retryCtx_wf (c : CtxId) : Memory.wf (s.retryCtx c).mem = true := by
  unfold State.retryCtx
  dsimp only
  (repeat' split) <;> simp [hs]

theorem firstIssue_wf (l : List CtxId) : Memory.wf (firstIssue s l).1.mem = true := by
  induction l generalizing s with
  | nil => exact hs
  | cons u l ih =>
    unfold firstIssue
    dsimp only
    split
    · exact ih hs
    · split
      · exact State.tryU_wf hs u
      · exact ih (State.tryU_wf hs u)

theorem roundRobin_wf : Memory.wf (roundRobin s).1.mem = true := by
  unfold roundRobin
  dsimp only
  have h1 := firstIssue_wf hs
  (repeat' split) <;> simp [firstIssue_wf, h1]

theorem selectU_wf : Memory.wf (selectU s).1.mem = true := by
  unfold selectU
  dsimp only
  split
  · exact firstIssue_wf hs _
  · exact roundRobin_wf (firstIssue_wf hs _)

@[simp] theorem State.issueSlot_wf : Memory.wf s.issueSlot.mem = true := by
  unfold State.issueSlot
  split
  · exact hs
  · split
    · simp [hs]
    · refine wf_of_mem (selectU_wf hs) ?_
      exact foldl_mem (fun _ _ => State.putCtxAt_mem ..) _ _

@[simp] theorem State.wake_wf (c : CtxId) (w : Wait) : Memory.wf (s.wake c w).mem = true := by
  unfold State.wake
  split
  · exact State.inSlot_wf hs fun _ => State.issueSlot_wf
  · exact hs

@[simp] theorem State.serveHeld_wf (d : Nat) : Memory.wf (s.serveHeld d).mem = true := by
  unfold State.serveHeld
  split
  · exact hs
  · refine State.withCore_wf hs _ fun t ht => ?_
    (repeat' split) <;> simp [ht]

end

end Sys2Proof.Machine
end

section
/-! PROOFS. Main memory in its canonical form: packets, cuts, circuits, groups and launches. -/

namespace Sys2Proof.Machine

section

variable {s : State} (hs : Memory.wf s.mem = true)

include hs

/-! ## Packets -/

omit hs in
theorem ok_inj_wf {ε : Type} {x t : State} (h : (Except.ok x : Except ε State) = .ok t) (hx : Memory.wf x.mem = true) : Memory.wf t.mem = true := by
  cases h
  exact hx

omit hs in
/-- `State.hubWrite` behind a name that does not unfold: a kernel that compares two matches on a write of the hub would evaluate it. -/
theorem exists_hubWrite : ∃ w : State → BitVec 9 → Nat → List Byte → Except Flt State,
    (∀ (u v : State) a va bs, Memory.wf u.mem = true → w u a va bs = .ok v → Memory.wf v.mem = true) ∧ State.hubWrite = w :=
  ⟨State.hubWrite, fun _ _ _ _ _ hu hv => State.hubWrite_ok_wf _ _ _ _ hu hv, rfl⟩

theorem State.packetEffect_wf {t : State} {q : Nat} {p : Packet} (h : s.packetEffect q p = .ok t) : Memory.wf t.mem = true := by
  obtain ⟨w, hw, hW⟩ := exists_hubWrite
  unfold State.packetEffect at h
  rw [hW] at h
  extract_lets at h
  split at h
  · split at h
    · split at h
      · cases h
      · exact ok_inj_wf h (by simpa using hs)
    · cases h
  · split at h
    · cases h
    · exact ok_inj_wf h (by simpa using hs)
  · split at h
    · cases h
    · extract_lets at h
      split at h
      · cases h
      · next hx => exact ok_inj_wf h (hw _ _ _ _ _ hs hx)
  · split at h
    · cases h
    · exact ok_inj_wf h (by simpa using hs)
  · split at h
    · extract_lets at h
      split at h
      · cases h
      · next hx => exact ok_inj_wf h (hw _ _ _ _ _ (State.pinit_wf hs _ _ _ _) hx)
    · cases h
  · exact ok_inj_wf h (by simpa using hs)
  · exact ok_inj_wf h (by simpa using hs)
  · exact ok_inj_wf h (by simpa using hs)

@[simp] theorem State.runPacket_wf (q : Nat) (p : Packet) : Memory.wf (s.runPacket q p).mem = true := by
  unfold State.runPacket
  split
  · simp [hs]
  · split
    · split
      · simp [hs]
      · next h => simp [State.packetEffect_wf hs h]
    · simp [hs]

theorem State.queueTurn_wf {t : State} {q : Nat} {wanted : Nat → Bool} (h : s.queueTurn q wanted = some t) : Memory.wf t.mem = true := by
  unfold State.queueTurn at h
  dsimp only at h
  repeat' split at h
  all_goals grind [State.turnTaken_mem, State.queueError_mem, State.runPacket_wf]

@[simp] theorem State.packetTurn_wf (q type : Nat) : Memory.wf (s.packetTurn q type).mem = true := getD_wf (fun _ => State.queueTurn_wf hs) hs

@[simp] theorem State.releaseHold_wf (q : Nat) : Memory.wf (s.releaseHold q).mem = true := by
  unfold State.releaseHold
  split <;> simp [hs]

/-! ## Cuts and drains -/

@[simp] theorem State.drainDomain_wf (u : CtxId) (at' : Nat) : Memory.wf (s.drainDomain u at').mem = true := by
  unfold State.drainDomain
  refine foldl_wf (fun t _ ht => ?_) _ (by simpa using hs)
  split
  · exact ite_wf (t.drainRegion_wf _ _ ht) ht
  · exact ht

@[simp] theorem State.thermalTrip_wf (d : Nat) : Memory.wf (s.thermalTrip d).mem = true := by
  unfold State.thermalTrip
  split
  · exact hs
  · dsimp only
    rw [State.margin_mem, State.putDie_mem]
    refine foldl_wf (fun t _ ht => ?_) _ hs
    split
    · exact ite_wf (t.drainRegion_wf _ _ ht) ht
    · exact ht

@[simp] theorem State.completeCut_wf : Memory.wf s.completeCut.mem = true := by
  obtain ⟨t, h⟩ : ∃ t, s.completeCut = t := ⟨_, rfl⟩
  rw [h]
  unfold State.completeCut at h
  split at h
  · exact h ▸ hs
  · split at h
    · exact h ▸ hs
    · extract_lets u s1 serial body fail at h
      have h1 : Memory.wf s1.mem = true := by simpa [s1] using hs
      have hf : ∀ e, Memory.wf (fail e).mem = true := fun e => ite_wf (State.drainDomain_wf (by simpa using hs) _ _) (by simpa using hs)
      split at h
      · rw [← h]; exact hf _
      · next h' =>
        have ht := State.saveWrite_ok_wf _ _ _ _ h1 h'
        split at h
        · rw [← h]; exact hf _
        · next h'' =>
          have ht1 := State.saveWrite_ok_wf _ _ _ _ ht h''
          rw [← h]
          simpa using ht1

@[simp] theorem State.endCirc_wf (v : Inv) (n : Nat) : Memory.wf (s.endCirc v n).mem = true := State.commit_keep_wf hs v fun _ => rfl

@[simp] theorem State.refill_wf (v : Inv) (e : CircEnd) (pn : Nat) : Memory.wf (s.refill v e pn).mem = true := by
  unfold State.refill
  dsimp only
  split
  · exact hs
  · next far w _ =>
    have hn : Memory.wf ((s.focus far).nextSymbols w).2.mem = true := wf_of_mem hs (by simp [State.focus_mem])
    rw [State.putPort_mem, State.acquireBy_mem, State.focus_mem, State.releaseBy_mem]
    exact ite_wf (State.endCirc_wf (by simpa using hn) _ _) hn

theorem State.mismatchMove_wf {t : State} {u : CtxId} (h : s.mismatchMove u = some t) : Memory.wf t.mem = true := by
  unfold State.mismatchMove at h
  obtain ⟨-, ht⟩ := Option.ite_none_left_eq_some.1 h
  rw [← Option.some.inj ht]
  have h1 := State.payGuards_wf hs u
  exact ductusStep_wf h1 u (by simp [h1])

@[simp] theorem State.endWindow_wf (v : Inv) (n : Nat) : Memory.wf (s.endWindow v n).mem = true := by
  simp [State.endWindow, hs]

@[simp] theorem State.landBeat_wf (v : Inv) (e : CircEnd) (bs ss : List Byte) : Memory.wf (s.landBeat v e bs ss).mem = true := by
  unfold State.landBeat
  dsimp only
  split
  · simp [hs, State.discard_mem]
  · split
    · simp [hs]
    · split
      · simp [hs]
      · split
        · simp [hs, State.discard_mem]
        · next h =>
          have ht := wf_of_mem hs ((State.arriveAt_mem h).trans (State.putPort_mem ..))
          split <;> simp [ht]

@[simp] theorem State.landSymbol_wf (v : Inv) (e : CircEnd) : Memory.wf (s.landSymbol v e).mem = true := by
  unfold State.landSymbol
  dsimp only
  split
  · exact hs
  · simp [hs]
  · (repeat' split) <;> simp [hs]
  · simp [hs, State.discard_mem]

@[simp] theorem State.circArrival_wf (pn : Nat) (fromPeer : Option CircuitSymbol) : Memory.wf (s.circArrival pn fromPeer).mem = true := by
  unfold State.circArrival
  split
  · exact hs
  · split
    · exact hs
    · split
      · (repeat' split) <;> simp [hs, State.discard_mem]
      · refine State.landSymbol_wf ?_ _ _
        (repeat' split) <;> simp [hs]

/-! ## Groups -/

theorem State.putAllUsed_wf {t : State} {asid : BitVec 9} {l : List (Nat × Needs)} (h : s.putAllUsed asid l = .ok t) : Memory.wf t.mem = true := by
  refine foldl_ok_wf (fun u e v hu hv => ?_) (fun _ _ => rfl) l hs h
  dsimp only at hv
  split at hv
  · cases hv
  · next hp => exact Except.ok.inj hv ▸ u.putUsed_ok_wf _ _ _ hu hp

@[simp] theorem State.refundGroup_wf (asid : BitVec 9) (r : Rcb) (need : Needs) : Memory.wf (s.refundGroup asid r need).mem = true := by
  unfold State.refundGroup
  dsimp only
  split
  · exact hs
  · split
    · next h => exact State.putAllUsed_wf hs h
    · exact hs

theorem State.chargeGroup_wf {t : State} {asid : BitVec 9} {r : Rcb} {need : Needs} (h : s.chargeGroup asid r need = .ok t) : Memory.wf t.mem = true := by
  unfold State.chargeGroup at h
  dsimp only at h
  repeat' split at h
  · cases h
  · cases h
  · exact State.putAllUsed_wf hs h

@[simp] theorem State.retireGroup_wf (u : CtxId) : Memory.wf (s.retireGroup u).mem = true := by
  unfold State.retireGroup
  split
  · exact hs
  · split
    · exact hs
    · dsimp only
      (repeat' split) <;> simp [hs]

@[simp] theorem State.bindHere_wf (u : CtxId) (g : Group) (l : Launch) : Memory.wf (s.bindHere u g l).mem = true := by
  unfold State.bindHere
  dsimp only
  split <;> simp [hs]

@[simp] theorem State.bindGroup_wf (r : BitVec 128) (l : Launch) (rc : Rcb) (k : BitVec 32) : Memory.wf (s.bindGroup r l rc k).mem = true := by
  unfold State.bindGroup
  dsimp only
  refine State.withCore_wf ?_ _ fun _ ht => State.bindHere_wf ht _ _ _
  (repeat' split) <;> simp [hs]

theorem State.applyRecord_wf {t : State} {r : BitVec 128} (h : s.applyRecord r = .ok t) : Memory.wf t.mem = true := by
  have hc : ∀ slot l, Memory.wf (s.readCount slot l).mem = true := fun slot l => by simpa using hs
  unfold State.applyRecord at h
  dsimp only at h
  repeat' split at h
  all_goals grind [→ State.chargeGroup_wf, State.bindGroup_wf]

theorem State.recordMove_wf {t : State} {d : Nat} (h : s.recordMove d = some t) : Memory.wf t.mem = true := by
  unfold State.recordMove at h
  dsimp only at h
  split at h
  · cases h
  · split at h
    · cases h
    · split at h
      · next ha =>
        obtain ⟨-, ht⟩ := Option.ite_none_left_eq_some.1 h
        rw [← Option.some.inj ht, State.putDie_mem]
        exact State.applyRecord_wf hs ha
      · next ha =>
        rw [← Option.some.inj h, State.putDie_mem, State.putDie_mem]
        exact State.applyRecord_error_wf _ _ hs ha

@[simp] theorem State.checkRecord_wf (d : Nat) : Memory.wf (s.checkRecord d).mem = true := getD_wf (fun _ => State.recordMove_wf hs) hs

/-! ## Launches -/

@[simp] theorem State.completeSignal_wf (l : Launch) : Memory.wf (s.completeSignal l).mem = true := by
  unfold State.completeSignal
  dsimp only
  split
  · exact hs
  · split
    · next h =>
      cases hv : s.hubNat l.asid l.signal.toNat 8 with
      | error f => rw [hv] at h; cases h
      | ok v =>
        rw [hv] at h
        obtain ⟨ps, -, rfl⟩ := exceptMap_ok h
        exact storeSeen_wf _ _ _ hs
    · simp [hs]

@[simp] theorem State.completeLaunch_wf (i : Nat) : Memory.wf (s.completeLaunch i).mem = true := by
  unfold State.completeLaunch
  split
  · exact hs
  · split
    · exact hs
    · dsimp only
      split
      · split
        · split <;> simp [hs]
        · split
          · simp [hs]
          · split
            · split <;> simp [hs]
            · next h =>
              have ht := State.writeRecord_wf _ _ _ _ (by simpa using hs) h
              split <;> simp [ht]
      · split <;> simp [hs]

/-! ## Accesses from outside -/

@[simp] theorem State.peerAccess_wf (link a n : Nat) (data : Option (List Byte)) : Memory.wf (s.peerAccess link a n data).mem = true := by
  unfold State.peerAccess
  (repeat' split) <;> simp [hs]

@[simp] theorem State.pfAccess_wf (a n : Nat) (data : Option (List Byte)) : Memory.wf (s.pfAccess a n data).mem = true := by
  unfold State.pfAccess
  (repeat' split) <;> simp [hs]

@[simp] theorem State.commitInv_wf (id : Nat) : Memory.wf (s.commitInv id).mem = true := by
  unfold State.commitInv
  split
  · exact hs
  · split <;> simp [hs]

end

end Sys2Proof.Machine
end

section
/-! PROOFS. Main memory in its canonical form: the hardware's own steps, and what a core does when the agenda is empty. -/

namespace Sys2Proof.Machine

theorem eq_of_progress {s t u : State} (h : progress s t = some u) : t = u :=
  Option.some.inj (Option.ite_none_left_eq_some.1 h).2

/-- A choice between two moves is one of them. -/
theorem or_eq_some_cases {α : Type} {x y : Option α} {a : α} (h : x.or y = some a) : x = some a ∨ y = some a := by
  cases x with
  | none => exact .inr (by simpa using h)
  | some b => exact .inl (by simpa using h)

section

variable {s : State} (hs : Memory.wf s.mem = true)

include hs

theorem endMove_wf {t : State} (h : endMove s = some t) : Memory.wf t.mem = true := by
  unfold endMove at h
  split at h
  · exact Option.some.inj h ▸ State.completeCut_wf hs
  · split at h
    · exact Option.some.inj h ▸ wf_of_mem hs (State.contextRestore_mem ..)
    · split at h
      · exact Option.some.inj h ▸ State.retireGroup_wf hs _
      · obtain ⟨e, -, he⟩ := Option.map_eq_some_iff.1 h
        exact he ▸ State.endDrain_wf _ _ hs

theorem ductusMove_wf {t : State} (h : ductusMove s = some t) : Memory.wf t.mem = true := by
  obtain ⟨u, -, hu⟩ := List.exists_of_findSome?_eq_some h
  dsimp only at hu
  split at hu
  · obtain ⟨-, ht⟩ := Option.ite_none_left_eq_some.1 hu
    exact Option.some.inj ht ▸ wf_of_mem hs (State.drainMove_mem ..)
  · exact State.mismatchMove_wf hs hu

theorem State.endMade_wf {t : State} {v : Inv} (h : s.endMade v = some t) : Memory.wf t.mem = true := by
  obtain ⟨-, ht⟩ := Option.ite_none_right_eq_some.1 h
  rw [← eq_of_progress ht]
  exact State.endInv_wf (wf_of_mem hs (State.atRank_mem ..)) v

omit hs in
theorem sooner_eq_or (now : Nat) (a : Option (Nat × State)) (b : Nat × State) : sooner now a b = some b ∨ sooner now a b = a := by
  unfold sooner
  cases a with
  | none => exact .inl rfl
  | some c => exact ite_eq_or_eq ..

omit hs in
/-- The choice of an end keeps what all the ends have in common. -/
theorem foldl_sooner {P : State → Prop} (now : Nat) (l : List (Nat × State)) (hl : ∀ e ∈ l, P e.2) :
    ∀ {a : Option (Nat × State)}, (∀ e, a = some e → P e.2) → ∀ e, l.foldl (sooner now) a = some e → P e.2 := by
  induction l with
  | nil => exact fun h => h
  | cons b l ih =>
    intro a ha
    refine ih (fun e he => hl e (List.mem_cons_of_mem _ he)) fun e he => ?_
    rcases sooner_eq_or now a b with h | h
    · exact Option.some.inj (h.symm.trans he) ▸ hl b List.mem_cons_self
    · exact ha e (h.symm.trans he)

theorem engineMove_wf {t : State} (h : engineMove s = some t) : Memory.wf t.mem = true := by
  unfold engineMove at h
  obtain ⟨-, h⟩ := Option.ite_none_left_eq_some.1 h
  split at h
  · exact Option.some.inj h ▸ wf_of_mem hs (State.fireTerm_mem ..)
  · split at h
    · exact Option.some.inj h ▸ wf_of_mem hs (State.startInv_mem ..)
    · obtain ⟨e, he, rfl⟩ := Option.map_eq_some_iff.1 h
      refine foldl_sooner (P := fun u => Memory.wf u.mem = true) _ _ (fun b hb => ?_) (by simp) e he
      obtain ⟨v, -, hv⟩ := List.mem_filterMap.1 hb
      obtain ⟨u, hu, rfl⟩ := Option.map_eq_some_iff.1 hv
      exact State.endMade_wf hs hu

theorem portMove_wf {t : State} (h : portMove s = some t) : Memory.wf t.mem = true := by
  rcases or_eq_some_cases h with h | h
  · obtain ⟨p, -, hp⟩ := List.exists_of_findSome?_eq_some h
    split at hp
    · exact eq_of_progress hp ▸ wf_of_mem hs (State.portAccess_mem ..)
    · obtain ⟨-, ht⟩ := Option.ite_none_right_eq_some.1 hp
      exact eq_of_progress ht ▸ State.circArrival_wf hs _ _
  · obtain ⟨u, -, hu⟩ := List.exists_of_findSome?_eq_some h
    exact eq_of_progress hu ▸ wf_of_mem hs (State.markArrival_mem ..)

theorem State.heldMove_wf {t : State} {d : Nat} (h : s.heldMove d = some t) : Memory.wf t.mem = true := by
  obtain ⟨-, ht⟩ := Option.ite_none_left_eq_some.1 h
  exact Option.some.inj ht ▸ State.serveHeld_wf hs d

theorem storageMove_wf {t : State} (h : storageMove s = some t) : Memory.wf t.mem = true := by
  obtain ⟨d, -, hd⟩ := List.exists_of_findSome?_eq_some h
  dsimp only at hd
  rcases or_eq_some_cases hd with hd | hd
  · rcases or_eq_some_cases hd with hd | hd
    · rcases or_eq_some_cases hd with hd | hd
      · rcases or_eq_some_cases hd with hd | hd
        · rcases or_eq_some_cases hd with hd | hd
          · split at hd
            · exact Option.some.inj hd ▸ wf_of_mem hs ((State.undoFrame_mem ..).trans (State.putDie_mem ..))
            · cases hd
          · exact State.heldMove_wf hs (Option.ite_none_right_eq_some.1 hd).2
        · exact Option.some.inj (Option.ite_none_right_eq_some.1 hd).2 ▸ wf_of_mem hs (State.expireHeld_mem ..)
      · exact wf_of_mem hs (State.blotterMove_mem _ _ hd)
    · exact wf_of_mem hs (State.wellMove_mem _ _ hd)
  · exact Option.some.inj (Option.ite_none_left_eq_some.1 hd).2 ▸ wf_of_mem hs (State.deferredWriteback_mem ..)

theorem queueMove_wf {t : State} (h : queueMove s = some t) : Memory.wf t.mem = true := by
  obtain ⟨q, -, hq⟩ := List.exists_of_findSome?_eq_some h
  rcases or_eq_some_cases hq with hq | hq
  · obtain ⟨p, -, hp⟩ := Option.map_eq_some_iff.1 hq
    exact hp ▸ State.runPacket_wf hs _ _
  · exact State.queueTurn_wf hs hq

theorem dispatchMove_wf {t : State} (h : dispatchMove s = some t) : Memory.wf t.mem = true := by
  unfold dispatchMove at h
  split at h
  · next hr =>
    obtain ⟨d, -, hd⟩ := List.exists_of_findSome?_eq_some hr
    exact Option.some.inj h ▸ State.recordMove_wf hs hd
  · split at h
    · exact Option.some.inj h ▸ State.completeLaunch_wf hs _
    · split at h
      · exact Option.some.inj h ▸ wf_of_mem hs (State.ringExpiry_mem ..)
      · split at h
        · exact Option.some.inj h ▸ wf_of_mem hs (State.fwDone_mem ..)
        · exact Option.some.inj (Option.ite_none_right_eq_some.1 h).2 ▸ wf_of_mem hs (State.attested_mem ..)

theorem State.hwMove_wf {t : State} (h : s.hwMove = some t) : Memory.wf t.mem = true := by
  obtain ⟨f, hf, ht⟩ := List.exists_of_findSome?_eq_some h
  simp only [List.mem_cons, List.not_mem_nil, or_false] at hf
  rcases hf with rfl | rfl | rfl | rfl | rfl | rfl | rfl | rfl | rfl | rfl
  · exact wf_of_mem hs (bootMove_mem _ ht)
  · exact trapMove_wf _ hs ht
  · exact endMove_wf hs ht
  · exact ductusMove_wf hs ht
  · exact engineMove_wf hs ht
  · exact portMove_wf hs ht
  · exact storageMove_wf hs ht
  · exact queueMove_wf hs ht
  · exact dispatchMove_wf hs ht
  · exact wf_of_mem hs (scribeMove_mem ht)

theorem State.cycleStep_wf : Memory.wf s.cycleStep.mem = true := by
  have h : Memory.wf (s.inSlot State.issueSlot).passTurn.mem = true :=
    wf_of_mem (State.inSlot_wf hs fun _ ht => State.issueSlot_wf ht) (State.passTurn_mem _)
  exact h

theorem State.runOne_wf : Memory.wf s.runOne.mem = true := by
  unfold State.runOne
  split
  · next h =>
    have ht := State.hwMove_wf hs (Option.ite_none_right_eq_some.1 h).2
    exact ht
  · exact State.cycleStep_wf hs

end

end Sys2Proof.Machine
end

section
/-! PROOFS. Main memory in its canonical form: the steps of other agents, and every step. -/

namespace Sys2Proof.Machine

theorem next_canonical {t : State} (h : Memory.wf t.mem = true) : GoesOnCanonical (.next t) := (goesOnCanonical_next t).2 h

section

variable {s : State} (hs : Memory.wf s.mem = true)

include hs

theorem execScribeReloadComplete_canonical : GoesOnCanonical (execScribeReloadComplete s) := next_canonical (ite_wf hs hs)

theorem execUncorrectableCoreError_canonical : GoesOnCanonical (execUncorrectableCoreError s) := by
  unfold execUncorrectableCoreError
  split
  · exact next_canonical (State.drainDomain_wf (wf_of_mem hs (State.abortCut_mem ..)) _ _)
  · exact next_canonical (wf_of_mem hs (State.halt_mem ..))

theorem execRelfelLinkFailure_canonical (link : BitVec 4) : GoesOnCanonical (execRelfelLinkFailure link s) := by
  unfold execRelfelLinkFailure
  refine next_canonical (wf_of_mem hs ?_)
  rw [State.margin_mem, State.focus_mem, foldl_mem fun t i => ?_]
  exact (foldl_mem (fun w p => w.loseEnd_mem p) _ _).trans (t.focus_mem i)

/-- A step of another agent keeps the memory's canonical form. The cases left over are the instructions of a core, which no agenda holds. -/
theorem exec_canonical {i : Instr} (hi : isExternal i = true) : GoesOnCanonical (exec i s) := by
  cases i
  case parseStep => exact next_canonical (ite_wf hs (ductusStep_wf hs _ (wf_of_mem hs (State.parseStep_mem ..))))
  case mismatchRecordWrite => exact next_canonical (ductusStep_wf hs _ (wf_of_mem hs (State.mismatchWrite_mem ..)))
  case recoveryStep => exact next_canonical (ite_wf hs (ductusStep_wf hs _ (wf_of_mem hs (State.recoveryStep_mem ..))))
  case markArrival => exact next_canonical (wf_of_mem hs (State.markArrival_mem ..))
  case contextAged => exact next_canonical (ite_wf (State.inSlot_wf hs fun _ ht => State.issueSlot_wf ht) hs)
  case watchdog u => exact execWatchdog_canonical u s hs
  case trapEntry => exact execTrapEntry_canonical s hs
  case interruptDelivery => exact execInterruptDelivery_canonical s hs
  case invocationStart => exact next_canonical (wf_of_mem hs (State.startInv_mem ..))
  case engineQueueRoom => exact next_canonical (State.wake_wf hs _ _)
  case invocationCommit => exact next_canonical (State.commitInv_wf hs _)
  case ligatureTermFire => exact next_canonical (wf_of_mem hs (State.fireTerm_mem ..))
  case portAccess => exact next_canonical (wf_of_mem hs (State.portAccess_mem ..))
  case generatorFaultDelivery => exact execGeneratorFaultDelivery_canonical s hs
  case circuitBeatArrival => exact next_canonical (State.circArrival_wf (wf_of_mem hs (State.atRank_mem ..)) _ _)
  case circuitLoss => exact next_canonical (wf_of_mem hs (State.circLoss_mem ..))
  case barwaitWake => exact next_canonical (State.wake_wf hs _ _)
  case fullWaitWake => exact next_canonical (State.wake_wf hs _ _)
  case sigwaitWake => exact next_canonical (State.wake_wf hs _ _)
  case evwaitWake => exact next_canonical (State.wake_wf hs _ _)
  case mxwaitWake => exact next_canonical (State.wake_wf hs _ _)
  case peekWake => exact next_canonical (State.wake_wf hs _ _)
  case wfiWake => exact next_canonical (State.wake_wf hs _ _)
  case portQuiesceWake => exact next_canonical (State.wake_wf hs _ _)
  case cutComplete => exact next_canonical (State.completeCut_wf hs)
  case regionDrainComplete rcb => exact execRegionDrainComplete_canonical rcb s hs
  case scribeBindWrite => exact next_canonical (wf_of_mem hs (State.scribeWrite_mem ..))
  case bindRecordCheck => exact next_canonical (State.checkRecord_wf hs _)
  case groupRetire => exact next_canonical (State.retireGroup_wf hs _)
  case launchCompletion => exact next_canonical (State.completeLaunch_wf hs _)
  case coalesceTimeExpiry => exact next_canonical (wf_of_mem hs (State.ringExpiry_mem ..))
  case doorbellWrite => exact next_canonical (wf_of_mem hs (State.doorbell_mem ..))
  case queueStateWrite => exact next_canonical (wf_of_mem hs (State.writeQueueState_mem ..))
  case nopPacket => exact next_canonical (State.packetTurn_wf hs _ _)
  case launchPacket => exact next_canonical (State.packetTurn_wf hs _ _)
  case bindPacket => exact next_canonical (State.packetTurn_wf hs _ _)
  case signalPacket => exact next_canonical (State.packetTurn_wf hs _ _)
  case waitPacket => exact next_canonical (State.packetTurn_wf hs _ _)
  case indirectPacket => exact next_canonical (State.packetTurn_wf hs _ _)
  case pinitPacket => exact next_canonical (State.packetTurn_wf hs _ _)
  case fencePacket => exact next_canonical (State.packetTurn_wf hs _ _)
  case recordPacket => exact next_canonical (State.packetTurn_wf hs _ _)
  case replayPacket => exact next_canonical (State.packetTurn_wf hs _ _)
  case queueHoldRelease => exact next_canonical (State.releaseHold_wf hs _)
  case queueLost => exact next_canonical (wf_of_mem hs (State.loseQueue_mem ..))
  case scribeReset => exact next_canonical (wf_of_mem hs (State.margin_mem ..))
  case wellWriteback => exact next_canonical (wf_of_mem hs (State.wellWriteback_mem ..))
  case deferredLineWriteback => exact next_canonical (wf_of_mem hs (State.deferredWriteback_mem ..))
  case heldWriteServed => exact next_canonical (State.serveHeld_wf hs _)
  case holdBudgetExpiry => exact next_canonical (wf_of_mem hs (State.expireHeld_mem ..))
  case idleCompaction => exact next_canonical (wf_of_mem hs (State.idleCompaction_mem ..))
  case blotterKresRefill => exact next_canonical (wf_of_mem hs (State.putDie_mem ..))
  case blotterReclaim => exact next_canonical (wf_of_mem hs (State.reclaim_mem ..))
  case blotterHwresDraw => exact next_canonical (wf_of_mem hs (State.hwresDraw_mem ..))
  case blotterHwresRefill => exact next_canonical (wf_of_mem hs (State.putDie_mem ..))
  case replayCmd => exact next_canonical (State.replayStep_wf hs _ _)
  case replayGuard => exact next_canonical (State.replayStep_wf hs _ _)
  case replayEnd => exact next_canonical (State.replayStep_wf hs _ _)
  case vfBindingWrite => exact next_canonical (wf_of_mem hs (State.writeVf_mem ..))
  case apertureRead => exact next_canonical (wf_of_mem hs (State.apertureRead_mem ..))
  case apertureWrite vf off data => exact execApertureWrite_canonical vf off data s hs
  case kbootGo => exact next_canonical (wf_of_mem hs (s.kbootGo_mem))
  case fwslotGo => exact next_canonical (wf_of_mem hs (State.fwslotGo_mem ..))
  case firmwareCheckDone => exact next_canonical (wf_of_mem hs (State.fwDone_mem ..))
  case kdoorWrite => exact next_canonical (wf_of_mem hs (State.kdoor_mem ..))
  case attestationGo => exact next_canonical (wf_of_mem hs (State.attest_mem ..))
  case attestationDone => exact next_canonical (wf_of_mem hs (State.attested_mem ..))
  case mctlWrite => exact next_canonical (wf_of_mem hs (State.writeMctl_mem ..))
  case copyTraceControlWrite => exact next_canonical (wf_of_mem hs (State.writeTrace_mem ..))
  case hostRegisterWrite => exact next_canonical (wf_of_mem hs (State.hostWrite_mem ..))
  case relfelLinkFailure => exact execRelfelLinkFailure_canonical hs _
  case thermalGatingChange => exact next_canonical (wf_of_mem hs (State.putDie_mem ..))
  case thermalTrip => exact next_canonical (State.thermalTrip_wf hs _)
  case uncorrectableCoreError => exact execUncorrectableCoreError_canonical hs
  case coldReset => exact execColdReset_canonical s
  case warmReset => exact next_canonical (wf_of_mem hs (State.warmReset_mem ..))
  case pfBar2Access => exact next_canonical (State.pfAccess_wf hs _ _ _)
  case peerWindowAccess => exact next_canonical (State.peerAccess_wf hs _ _ _ _)
  case scribeRebalance => exact next_canonical (wf_of_mem hs (State.rebalance_mem ..))
  case scribeReloadComplete => exact execScribeReloadComplete_canonical hs
  all_goals cases hi

theorem step_canonical {t : State} (h : step s = .next t) : Memory.wf t.mem = true := by
  have ha : ∀ l, Memory.wf ({ s with agenda := l } : State).mem = true := fun _ => hs
  unfold step at h
  split at h
  · split at h
    · next hi => exact exec_canonical (ha _) hi t h
    · rw [← Host.Outcome.next.inj h]
      exact ha _
  · rw [← Host.Outcome.next.inj h, State.focus_mem]
    exact ha _
  · rw [← Host.Outcome.next.inj h, State.toHost_mem]
    exact ha _
  · rw [← Host.Outcome.next.inj h, State.toHost_mem]
    exact ha _
  · rw [← Host.Outcome.next.inj h]
    exact State.runOne_wf hs

end

/-- Settles O57: every move of the hardware, every instruction of a core and every step of another agent either keeps the memory's list or changes it by stores and by clears of whole frames, which keep its canonical form. -/
theorem stepKeepsMemoryCanonical : Obligations.StepKeepsMemoryCanonical := fun _ _ hs h => step_canonical hs h

end Sys2Proof.Machine
end
